-- ==== Sys2Proof/Word.lean ====
section
/-!
DEFINITION. Sys2Proof/Word.lean: the byte, the 64-bit word, and the two element types that the commands carry.
-/
namespace Sys2Proof

/-- One byte (00 R8, R9). -/
abbrev Byte := BitVec 8

/-- One 64-bit little-endian word of a register, a descriptor, a header or a record (00 R8, R14). -/
abbrev Word := BitVec 64

end Sys2Proof
end

