-- ==== Sys2Proof/Syntax.lean ====
section
/-!
DEFINITION. Sys2Proof/Syntax.lean: the commands the block takes, one constructor per row of spec/opcode_table.json,
and what they carry. Everything outside the chip (host, fabric, DIMMs, drives, pins, time) reaches it as commands.
A command that ends an outside access carries what that access brought back.
-/
namespace Sys2Proof

abbrev Ring := Fin 4096
abbrev Part := Fin 16
abbrev Slice := Fin 16
abbrev Port := Fin 32
abbrev Chan := Fin 32
abbrev Ward := Fin 4
abbrev Drive := Fin 16
abbrev Dom := Fin 64
abbrev Coll := Fin 5
/-- A function of the endpoint: 0 is PF0, n is VF n (03 R131). -/
abbrev Func := Fin 17

/-- A Fupex packet: the four header words of 11 R414 and the payload bytes. -/
structure Pkt where
  w0 : Word
  w1 : Word
  w2 : Word
  w3 : Word
  pay : List Byte
deriving DecidableEq, Repr

/-- How a sync operation reaches its object: by a SYNC_SET descriptor of a ring or by a SYNC_OP packet (07 R294). -/
inductive SyncCall where
  | desc (r : Ring) (d : Nat)
  | pkt (port : Port) (p : Pkt)
deriving DecidableEq, Repr

/-- How an access to issuer memory ended (03 R669): data, poison, an error, or no answer within FETCH_TMO. -/
inductive IssuerRes where
  | data (bytes : List Byte)
  | poison
  | err
  | tmo
deriving DecidableEq, Repr

/-- The header and trailer fields of a flit (10 R379). -/
structure Flit where
  fseq : BitVec 16
  ack : BitVec 16
  nak : Bool
  ackV : Bool
  crTc : BitVec 3
  crV : Bool
  crHdr : BitVec 12
  crData : BitVec 16
deriving DecidableEq, Repr

/-- A control flit: its header and trailer, and the words of its body from word 1 on (10 R382). -/
structure CtlMsg where
  flit : Flit
  words : List Word
deriving DecidableEq, Repr

/-- What the chip finds on a channel's SPD hubs (13 R485, R487): DIMMs (0 for an empty channel), whether every SPD was
read with good CRCs, 1 RDIMM or 2 MRDIMM, whether every module is registered with ECC on ×4 devices, whether two modules
are alike, ranks, capacity (GiB), highest rate (100 MT/s), tRFC1 (ns), and the SPD bytes. -/
structure Dimms where
  n : Nat
  readable : Bool
  kind : Nat
  x4 : Bool
  alike : Bool
  ranks : Nat
  capG : Nat
  rate : Nat
  trfc : Nat
  spd : List Byte
deriving DecidableEq, Repr

/-- An error that a unit reports to its Watch (15 R547, R560): kind, instance, error code and class; the partition it
falls on (16 none); the access kind (0xFF none) and space of the first affected request; the first affected line;
the syndrome; the lines it poisons; whether the failing state is shared (kind 6), belongs to the chip's own supply or
clock (kind 12, LEVEL 5), is that of a ward Watch itself, which the chip Watch collects (kind 14, 15 R550), or, for a slice, is its directory: the entry of the line given, or, with no line, all of it
(09 R364, R365); for a cell, the first engine-local retry that succeeds, 0 where none would (01 R35). -/
structure ErrRep where
  kind : Nat
  inst : Nat
  err : Nat
  cls : Nat
  part : Nat
  access : Nat
  space : Nat
  addr : Option Nat
  synd : Nat
  lines : List Nat
  flag : Bool
  retry : Nat
deriving DecidableEq, Repr

/-- How a step of a start ended (16 R576): whether it passed as a whole, the units it found failing (KIND and INSTANCE
as record word 1 bits [12:0]; a unit once for each bank or line found), and SVN and KEYSEL of the image it read (14 R534). -/
structure StepReport where
  ok : Bool
  bad : List Nat
  svn : Nat
  keysel : Nat
deriving DecidableEq, Repr

/-- The write that an Elder proposes for a commit (17 R613): stage, register offset, value, byte mask, log sequence
number. -/
structure Proposal where
  stage : Nat
  off : Nat
  val : Word
  mask : BitVec 8
  seq : BitVec 32
deriving DecidableEq, Repr

/-- The commands of the block. -/
inductive Instr where
  /-- R156: Descriptor that copies LEN lines from SRC to DST, with either side optionally in the issuer's memory. -/
  | copy (r : Ring) (d : Nat)
  /-- R156: Descriptor that writes PATTERN to every 8-byte word of LEN lines at DST. -/
  | fill (r : Ring) (d : Nat)
  /-- R246: Descriptor that reads LEN lines in SFMT and writes the same elements in DFMT, rounded once. -/
  | convert (r : Ring) (d : Nat)
  /-- R156: Descriptor that computes the SHA-256 of LEN lines and writes it to the line at DST. -/
  | digest (r : Ring) (d : Nat)
  /-- R247: Descriptor that combines NSRC strided sources element by element and writes the result in DFMT. -/
  | reduce (r : Ring) (d : Nat)
  /-- R248: Descriptor that gathers table rows by index into bags and sums, averages or maxes each bag. -/
  | gatherPool (r : Ring) (d : Nat)
  /-- R249: Descriptor that adds source rows into indexed table rows, one indivisible read-modify-write per line. -/
  | scatterAdd (r : Ring) (d : Nat)
  /-- R250: Descriptor that copies PLEN lines from each listed space address to consecutive output pages. -/
  | pageGather (r : Ring) (d : Nat)
  /-- R285: Descriptor that invokes the pool program in SLOT over the streams of its argument block. -/
  | program (r : Ring) (d : Nat)
  /-- R162: Descriptor that completes once earlier descriptors of its ring, or of its owner for scope 1, have completed. -/
  | fence (r : Ring) (d : Nat)
  /-- R156: Descriptor that does no work and completes OK. -/
  | nop (r : Ring) (d : Nat)
  /-- R199: HINT that sets the HOT temperature on each page the range touches. -/
  | hintHot (r : Ring) (d : Nat)
  /-- R199: HINT that sets the COLD temperature on each page the range touches. -/
  | hintCold (r : Ring) (d : Nat)
  /-- R199: HINT that marks the range's pages STREAM_ONCE. -/
  | hintStreamOnce (r : Ring) (d : Nat)
  /-- R200: HINT that takes a pin range of lines in the near-store pin share and loads them. -/
  | hintPinNear (r : Ring) (d : Nat)
  /-- R200: HINT that pins whole deep blocks in the DRAM cache and fills them. -/
  | hintPinDram (r : Ring) (d : Nat)
  /-- R199: HINT that marks the range's pages EVICT_FIRST. -/
  | hintEvictFirst (r : Ring) (d : Nat)
  /-- R199: HINT that removes temperature attributes and overlapping pin ranges. -/
  | hintClear (r : Ring) (d : Nat)
  /-- R201: PREFETCH with TIER 0, placing the range's lines in the policy share. -/
  | prefetchNear (r : Ring) (d : Nat)
  /-- R201: PREFETCH with TIER 1, filling the range's deep blocks into the DRAM cache. -/
  | prefetchDram (r : Ring) (d : Nat)
  /-- R202: DEMOTE with TIER 1, writing back and dropping the range's unpinned near-store lines. -/
  | demoteDram (r : Ring) (d : Nat)
  /-- R202: DEMOTE with TIER 2, also writing back and dropping the range's deep blocks from the DRAM cache. -/
  | demoteGranary (r : Ring) (d : Nat)
  /-- R331: Descriptor that makes the listed staging extents the region's next current version. -/
  | publish (r : Ring) (d : Nat)
  /-- R333: Descriptor that adds one pin to a live version of a region. -/
  | pin (r : Ring) (d : Nat)
  /-- R334: Descriptor that removes one pin from a live version of a region. -/
  | unpin (r : Ring) (d : Nat)
  /-- R337: Scrubbing of every extent of a released version ends, the entries are freed and events are written. -/
  | versionReleaseDone (p : Part) (region version : Nat)
  /-- R93: Descriptor that raises every slice's generation for a tag and drops its translation copies. -/
  | spaceInval (r : Ring) (d : Nat)
  /-- R93: The count of requests translated under an earlier generation reaches zero and SPACE_INVAL completes. -/
  | spaceInvalDrained (r : Ring) (d : Nat)
  /-- R116: Management descriptor that checks, enters and starts initialising a new extent. -/
  | extentAdd (r : Ring) (d : Nat)
  /-- R116: Storage initialisation of an OPENING extent ends; it becomes OPEN and completes. -/
  | extentInitDone (baseG : Nat)
  /-- R121: Management descriptor that starts the Curfew of an extent by setting it CLOSING. -/
  | extentRelease (r : Ring) (d : Nat)
  /-- R121: The fence-token count of a CLOSING extent reaches zero and scrubbing begins. -/
  | extentReleaseDrained (baseG : Nat)
  /-- R121: RELEASE_TMO runs out and every token holder of the extent completes with poison. -/
  | releaseTmoExpiry (baseG : Nat)
  /-- R121: Scrubbing of a released extent ends; the entry is freed, the completion and event 0x0201 are written. -/
  | extentScrubDone (baseG : Nat)
  /-- R125: Management descriptor that changes an extent between fast and deep in place. -/
  | extentMove (r : Ring) (d : Nat)
  /-- R125: The copy of a moving extent ends, the final switch is made and event 0x0202 is written. -/
  | extentMoveDone (baseG : Nat)
  /-- R101: FAULT_REPLY with outcome MAPPED releases the held requests of a fault entry to walk again. -/
  | faultReplyMapped (r : Ring) (d : Nat)
  /-- R101: FAULT_REPLY with outcome REFUSED ends the held requests of a fault entry as unmapped. -/
  | faultReplyRefused (r : Ring) (d : Nat)
  /-- R101: A fault entry's coalescing window ends and one fault record is written or dropped. -/
  | coalesceWindowEnd (p : Part) (tag page : Nat)
  /-- R103: HOLD_TMO runs out before FAULT_REPLY; held requests are NAKed retry after and the entry closes. -/
  | holdTmoExpiry (p : Part) (tag page : Nat)
  /-- R95: A request in flight reaches its lifetime and completes with poison status. -/
  | xltReqLifeExpiry (id : Nat)
  /-- R299: Descriptor that applies one SOP to a sync object at its slice. -/
  | syncSet (r : Ring) (d : Nat)
  /-- R299: SYNC_OP READ returns the object's words without changing it. -/
  | sopRead (c : SyncCall)
  /-- R299: Makes an object a COUNTER with VALUE equal to OPERAND. -/
  | initCounter (c : SyncCall)
  /-- R299: Makes an object a SEMAPHORE with VALUE equal to OPERAND. -/
  | initSem (c : SyncCall)
  /-- R299: Makes an object a BARRIER with EXPECT and NOTE from OPERAND. -/
  | initBarrier (c : SyncCall)
  /-- R307: Checks a set parameter line, takes a context and member table and arms a contribution set. -/
  | armSet (c : SyncCall)
  /-- R307: The member-list read of an ARM_SET ends and arming continues or is undone. -/
  | armSetListReadDone (obj : Nat)
  /-- R299: Returns an object that is not an open set to FREE with both words zero. -/
  | sopFree (c : SyncCall)
  /-- R299: Adds OPERAND to a COUNTER modulo 2^64. -/
  | sopAdd (c : SyncCall)
  /-- R299: Sets a COUNTER's VALUE to OPERAND. -/
  | store (c : SyncCall)
  /-- R299: Sets the low 32 bits of a COUNTER's VALUE. -/
  | storeLo (c : SyncCall)
  /-- R299: Sets a COUNTER to the unsigned larger of VALUE and OPERAND. -/
  | sopMax (c : SyncCall)
  /-- R299: Counts an arrival at a BARRIER and releases the generation when EXPECT is reached. -/
  | arrive (c : SyncCall)
  /-- R299: Adds OPERAND to a SEMAPHORE, saturating. -/
  | post (c : SyncCall)
  /-- R299: SYNC_OP that subtracts OPERAND from a SEMAPHORE when it suffices, else ends busy. -/
  | take (c : SyncCall)
  /-- R313: Ends an OPEN contribution set as CANCELLED. -/
  | cancel (c : SyncCall)
  /-- R304: Descriptor that waits on an object until its COND holds. -/
  | syncWait (r : Ring) (d : Nat)
  /-- R304: SYNC_WAIT with ARRIVE_WAIT, which arrives at a BARRIER and waits for GEN to change. -/
  | syncWaitArrive (r : Ring) (d : Nat)
  /-- R304: SYNC_WAIT with TAKE, which subtracts from a SEMAPHORE once enough is there. -/
  | syncWaitTake (r : Ring) (d : Nat)
  /-- R305: An operation on a waited object makes the condition hold or fail and the wait completes. -/
  | syncWaitSatisfied (r : Ring) (d : Nat)
  /-- R305: A SYNC_WAIT's TMO runs out and it completes with timeout. -/
  | syncWaitTmoExpiry (r : Ring) (d : Nat)
  /-- R313: An OPEN contribution set's timer runs out and the set ends TIMED_OUT. -/
  | setTimerExpiry (obj : Nat)
  /-- R311: Every accepted contribution is accumulated, the result is written and pushed, and the set becomes COMPLETE. -/
  | setResultWritten (obj : Nat)
  /-- R47: Fupex READ request for this node, served line by line through its home slices. -/
  | read (port : Port) (p : Pkt)
  /-- R48: Fupex WRITE request for this node, ordered and written to its tier. -/
  | write (port : Port) (p : Pkt)
  /-- R50: Fupex REDUCE_WRITE judged against its set, accumulated in the near store and counted. -/
  | reduceWrite (port : Port) (p : Pkt)
  /-- R423: ATOMIC CODE 1 adds the operand to a word indivisibly at the home slice. -/
  | atomicFadd (port : Port) (p : Pkt)
  /-- R423: ATOMIC CODE 2 replaces a word with the operand. -/
  | atomicSwap (port : Port) (p : Pkt)
  /-- R423: ATOMIC CODE 3 replaces a word when it equals the compare value. -/
  | atomicCas (port : Port) (p : Pkt)
  /-- R423: ATOMIC CODE 4 sets a word to the unsigned larger value. -/
  | atomicUmax (port : Port) (p : Pkt)
  /-- R301: Fupex SYNC_OP packet carrying one SOP for an object, answered with ATOMIC_RESP. -/
  | syncOp (port : Port) (p : Pkt)
  /-- R147: Fupex DOORBELL that writes PIDX or CCIDX of a ring with LOC 1. -/
  | doorbellPacket (port : Port) (p : Pkt)
  /-- R425: Fupex EVENT packet arriving, forwarded or replicated but never served here. -/
  | eventPacket (port : Port) (p : Pkt)
  /-- R421: READ_DATA answering one of the chip's own READs, matched or counted as stray. -/
  | readDataRx (port : Port) (p : Pkt)
  /-- R421: WRITE_ACK answering one of the chip's own WRITEs, matched or counted as stray. -/
  | writeAckRx (port : Port) (p : Pkt)
  /-- R426: NAK answering a chip request; the request is resent after DELAY or ends. -/
  | nakRx (port : Port) (p : Pkt)
  /-- R427: ERROR_RESP answering a chip request, which then fails. -/
  | errorRespRx (port : Port) (p : Pkt)
  /-- R452: A partner's LEAVING notice makes its port unusable and its queue be looked up again. -/
  | routeCtlLeaving (port : Port) (p : Pkt)
  /-- R452: A partner's GONE count is added to LOST and event 0x0905 is written. -/
  | routeCtlGone (port : Port) (p : Pkt)
  /-- R448: A TIME notice from the parent corrects the fabric time by slew or step. -/
  | routeCtlTime (port : Port) (p : Pkt)
  /-- R435: A unicast packet for another node is routed by its epoch to an egress port or dropped. -/
  | transitForward (port : Port) (p : Pkt)
  /-- R438: A multicast packet is copied by its epoch's multicast table and delivered here when eligible. -/
  | multicastReplicate (port : Port) (p : Pkt)
  /-- R433: The chip resends an unanswered READ or WRITE of its own with RETX set. -/
  | e2eTmoExpiry (id : Nat)
  /-- R432: An answer-cache entry reaches E2E_HOLD and expires. -/
  | answerCacheExpiry (sl : Slice) (src seq ctag : Nat)
  /-- R359: Coherent shared read served by the home from memory or by forwarding to the owner. -/
  | cohRdShared (port : Port) (p : Pkt)
  /-- R359: Coherent read for ownership served after invalidation or forwarding. -/
  | cohRdOwn (port : Port) (p : Pkt)
  /-- R359: Coherent upgrade of a shared copy to M, granted after invalidation. -/
  | cohUpgrade (port : Port) (p : Pkt)
  /-- R361: Owner writes back a line, never NAKed, answered WB_DONE once the line is in its tier. -/
  | cohWriteback (port : Port) (p : Pkt)
  /-- R358: Data sent to the home under FWD_READ or RECALL is applied to memory or the reader. -/
  | cohFwdDataRx (port : Port) (p : Pkt)
  /-- R357: A coherence answer to an open transaction advances or closes it. -/
  | cohAck (port : Port) (p : Pkt)
  /-- R364: A snooped member or a requester owing DONE misses SNOOP_TMO and the domain goes down. -/
  | snoopTmoExpiry (line : Nat)
  /-- R362: A reserved line's requester misses 16 x BACKOFF and the reservation passes on. -/
  | backoffReservationExpiry (line : Nat)
  /-- R344: Writing EN 1 brings a domain UP when its set-up is valid. -/
  | cohDomainEn (dom : Dom) (v : Word)
  /-- R364: Writing EN 0 while UP tears the domain down with cause 4. -/
  | cohDomainDisable (dom : Dom) (v : Word)
  /-- R394: A good data flit is accepted in sequence, or triggers a NAK or is dropped as a duplicate. -/
  | dataFlitRx (port : Port) (f : Flit)
  /-- R395: An idle flit's ACK, NAK and credit return are applied. -/
  | idleFlitRx (port : Port) (f : Flit)
  /-- R381: A flit that fails FEC, CRC or format checks is discarded and counted. -/
  | corruptFlitRx (port : Port) (symErrs : Nat)
  /-- R384: Partner CAPS control flit accepted or refusing training. -/
  | caps (port : Port) (m : CtlMsg)
  /-- R386: Partner length probe, answered by LEN_ECHO. -/
  | lenProbe (port : Port) (m : CtlMsg)
  /-- R386: Echo of this port's probe, timed to measure the fibre. -/
  | lenEcho (port : Port) (m : CtlMsg) (rtt : Nat)
  /-- R387: Partner credit advertisement setting the credit windows after training. -/
  | creditAdv (port : Port) (m : CtlMsg)
  /-- R402: Partner request that starts or joins a retrain. -/
  | retrainReq (port : Port) (m : CtlMsg)
  /-- R402: Partner RESYNC fixing NEXT, width, maps and credits at the end of a retrain. -/
  | resync (port : Port) (m : CtlMsg)
  /-- R390: Partner answer that ends a ninth-lane handoff as switched or aborted. -/
  | laneAns (port : Port) (m : CtlMsg)
  /-- R400: Partner credit audit used to compute the credit shortfall. -/
  | audit (port : Port) (m : CtlMsg)
  /-- R410: Partner request to enter low-power idle. -/
  | lpiReq (port : Port) (m : CtlMsg)
  /-- R410: Partner acknowledgement of low-power idle entry. -/
  | lpiAck (port : Port) (m : CtlMsg)
  /-- R383: A port begins training at start-up, on enable, REARM or an automatic retry. -/
  | portTrain (port : Port)
  /-- R402: A training or retrain runs past TRAIN_TMO and the port goes down with cause 2. -/
  | trainTmoExpiry (port : Port)
  /-- R395: The replay timer expires and the sender resends from the oldest buffered flit. -/
  | replayTimerExpiry (port : Port)
  /-- R394: No expected flit arrives within 2 x RTT after a NAK and the NAK is repeated. -/
  | nakRepeatExpiry (port : Port)
  /-- R389: ROT_PERIOD elapses and the transmitter hands a logical lane to the ninth lane. -/
  | handoffStart (port : Port)
  /-- R390: HO_CNT reaches 0 and the receiver compares the lanes and answers. -/
  | handoffCountdownEnd (port : Port) (lane : Fin 8) (same : Bool)
  /-- R391: No LANE_ANS 1 ms after the countdown, so the port retrains with reason 5. -/
  | handoffAnswerTmo (port : Port)
  /-- R390: Calibration of the new ninth lane ends and it becomes ready. -/
  | ninthLaneCalDone (port : Port)
  /-- R392: A lane loses light, lock, margin or heater range and the port retrains excluding it. -/
  | laneFailure (port : Port) (rx : Bool) (lane : Fin 9)
  /-- R374: Every 1 ms the feed photodiodes are read and a low wavelength makes its lane unusable. -/
  | laserPoll (port : Port) (readings : List Nat)
  /-- R405: An error window of 2^26 flit times ends and WIN_COUNT restarts. -/
  | errorWindowEnd (port : Port)
  /-- R408: 1 s after going down a port tries training again. -/
  | portRetryTimer (port : Port)
  /-- R400: Every 1 ms the receiver sends an AUDIT control flit. -/
  | auditSendTick (port : Port)
  /-- R410: Both directions idle for LPI_IDLE and the port requests LPI. -/
  | lpiIdleExpiry (port : Port)
  /-- R410: A flit to send ends LPI and full transmission resumes. -/
  | lpiWake (port : Port)
  /-- R383: Writing PORT_CTL.ENABLE 1 starts training. -/
  | portEnable (port : Port) (v : Word)
  /-- R406: Writing PORT_CTL.ENABLE 0 takes the port down with cause 5. -/
  | portDisable (port : Port) (v : Word)
  /-- R388: Writing REARM clears Tally strikes and trains with PRESET. -/
  | portRearm (port : Port) (v : Word)
  /-- R401: Writing RETRAIN starts a retrain with reason 3, or retries from REFUSED. -/
  | portRetrain (port : Port) (v : Word)
  /-- R413: Writing CLEAR zeroes the port's error, link and lane counters. -/
  | portCntClr (port : Port) (v : Word)
  /-- R457: A port able to start a packet chooses a class and flow by priority and DRR. -/
  | egressPacketStart (port : Port)
  /-- R465: A gate entry's DURATION ends and the next entry's open mask applies. -/
  | gateEntryAdvance (port : Port)
  /-- R467: Writing COMMIT makes the idle gate list pending for AT, or sets COMMIT_ERR. -/
  | qosGateCommit (port : Port) (v : Word)
  /-- R467: Fabric time reaches AT and the idle gate list takes over. -/
  | gateTakeoverAt (port : Port)
  /-- R468: GB_HOLD passes after training or a time step and guard-band causes 4 or 5 end. -/
  | gbHoldExpiry (port : Port)
  /-- R473: Each available line slot of a channel is granted by cmin, cmax, then to the scrubber. -/
  | dramSlotGrant (ch : Chan)
  /-- R477: Every ADAPT_PERIOD the regulator minimum EFF_MIN of adapting partitions is adjusted. -/
  | adaptTick
  /-- R479: Every 2^SHIFT ns a queue's depth is sampled into its histogram. -/
  | histSampleTick (port : Bool) (n : Fin 32)
  /-- R479: Writing CLEAR in QOS_PORT_HSEL zeroes the port histograms. -/
  | qosPortHistClear (port : Port) (v : Word)
  /-- R479: Writing CLEAR in QOS_CH_HSEL zeroes the channel histograms. -/
  | qosChHistClear (ch : Chan) (v : Word)
  /-- R477: Writing MIN or ADAPT 0 sets EFF_MIN to MIN; credits are cut to new caps. -/
  | qosRegWrite (o : Fin 17) (v : Word)
  /-- R441: Management descriptor that writes an image into the idle route version. -/
  | routeStage (r : Ring) (d : Nat)
  /-- R444: ROUTE_COMMIT MODE 0 accepted as a pending epoch flip at AT. -/
  | routeCommitFlip (r : Ring) (d : Nat)
  /-- R446: ROUTE_COMMIT MODE 1 accepted as a pending drain-then-change at AT. -/
  | routeCommitDrain (r : Ring) (d : Nat)
  /-- R444: Fabric time reaches AT; CUR flips, or draining begins. -/
  | commitAtReached
  /-- R444: EPOCH_HOLD has run out with no old packets held and the old version becomes idle. -/
  | epochHoldExpiry
  /-- R446: The queues empty or DRAIN_TMO runs out; routes are copied and forwarding resumes. -/
  | drainEnd
  /-- R448: Every 1 ms the node sends ROUTE_CTL TIME on each child port. -/
  | timeSendTick
  /-- R448: No TIME arrives for 10 ms and SYNCED is cleared. -/
  | timeLossExpiry
  /-- R454: Writing CLEAR zeroes the Crossroads counters. -/
  | xrdCntClr (v : Word)
  /-- R451: LEAVE_HOLD runs out; held packets are dropped, GONE is sent and ports stop. -/
  | leaveHoldExpiry
  /-- R500: A channel trains at start-up or on REARM and enters service. -/
  | dramTrain (ch : Chan) (d : Dimms)
  /-- R501: Training exceeds its limit; a step-down is added or the channel is lost. -/
  | dramTrainTmoExpiry (ch : Chan)
  /-- R502: RECAL_PERIOD or drift makes a channel take a quiet window and recalibrate. -/
  | quietWindowDue (ch : Chan)
  /-- R502: A quiet window finishes or reaches QW_MAX and the channel resumes. -/
  | quietWindowEnd (ch : Chan) (drift : Bool)
  /-- R503: A runtime retrain exceeds RETRAIN_TMO and the channel is lost with cause 1. -/
  | dramRetrainTmoExpiry (ch : Chan)
  /-- R504: A subchannel's refresh interval elapses and a refresh stop steals its slots. -/
  | refreshStop (ch : Chan) (sub : Bool)
  /-- R505: Every TEMP_PERIOD the hub and MR4 are read and the refresh factor and HOLD are set. -/
  | dramTempPoll (ch : Chan) (hub : Option Int) (mr4 : Nat)
  /-- R507: The scrubber reads a line and corrects, poisons or zeroes it. -/
  | scrubSlot (ch : Chan)
  /-- R508: The running scrub lap passes LAP_MAX; SLOW is set and event 0x0B06 written. -/
  | lapMaxExpiry (ch : Chan)
  /-- R497: A CE_WINDOW ends and the per-device correction counts restart. -/
  | dramCeWindowEnd (ch : Chan)
  /-- R500: Writing DDR_CTL.ENABLE 1 trains and serves the channel. -/
  | ddrEnable (ch : Chan) (v : Word)
  /-- R510: Writing DDR_CTL.ENABLE 0 takes the channel out of service with cause 6. -/
  | ddrDisable (ch : Chan) (v : Word)
  /-- R512: Writing REARM clears step-downs, retrains a lost channel and rewrites its lines. -/
  | ddrRearm (ch : Chan) (v : Word)
  /-- R497: Writing MARK_CLR clears every device mark of the channel. -/
  | ddrMarkClr (ch : Chan) (v : Word)
  /-- R516: Writing CLEAR zeroes the channel's ECC and load counters. -/
  | ddrCntClr (ch : Chan) (v : Word)
  /-- R189: The NVMe reads of a fill end and the block enters the DRAM cache, poisoned if they failed. -/
  | granaryFillDone (block : Nat)
  /-- R190: Every Write of a group's write-back completes and written bits are set. -/
  | groupWritebackDone (group : Nat)
  /-- R194: Every DECAY ms the placement access counters halve. -/
  | decayTick (p : Part)
  /-- R205: A drive is brought into service at start-up or when NVM_CTL.ENABLE goes to 1. -/
  | driveBringup (dr : Drive)
  /-- R208: Writing NVM_CTL.ENABLE 0 flushes the drive and makes it lost with cause 7. -/
  | nvmDisable (dr : Drive) (v : Word)
  /-- R206: An NVMe command completes, succeeding, failing or being retried. -/
  | nvmeCmdComplete (dr : Drive) (id sct sc : Nat) (data : List Byte)
  /-- R206: A command exceeds CMD_TMO and causes a controller reset. -/
  | nvmeCmdTmoExpiry (dr : Drive) (id : Nat)
  /-- R205: The drive link does not come up within LINKUP_TMO and the drive is lost. -/
  | nvmeLinkupTmoExpiry (dr : Drive)
  /-- R205: CSTS.RDY does not rise within the limit and the drive is lost with cause 4. -/
  | nvmeReadyTmoExpiry (dr : Drive)
  /-- R207: Every SMART_PERIOD the SMART log is read and warnings or loss applied. -/
  | smartPoll (dr : Drive) (ok : Bool) (temp : Int) (warn used : Nat)
  /-- R254: Writing a view's EN 1 enables it only when its settings are valid. -/
  | prtCorEnWrite (p : Part) (k : Fin 16) (v : Word)
  /-- R230: Writing PRT_SR_SEED reseeds the partition's stochastic-rounding generators. -/
  | prtSrSeedWrite (p : Part) (v : Word)
  /-- R259: Writing DESC_CLR clears DESC_EXC; 1s in FLAGS clear those flags. -/
  | arithDescClr (p : Part) (v : Word)
  /-- R128: Writing CLEAR zeroes PRT_XLT_STAT. -/
  | prtXltStatClr (p : Part) (v : Word)
  /-- R281: Writing GO starts a program load into SLOT unless a load is under way. -/
  | progLoadGo (p : Part) (v : Word)
  /-- R281: The image reads of a load end and the image is checked and installed or refused. -/
  | progImageReadDone (p : Part)
  /-- R283: Writing CLEAR empties SLOT unless an invocation of it runs. -/
  | progClear (p : Part) (v : Word)
  /-- R285: Every tile of an invocation ends and scalar targets are delivered and it completes. -/
  | programTilesDone (r : Ring) (d : Nat)
  /-- R289: RUN_TMO runs out; no further tile starts and the invocation ends with timeout. -/
  | progRunTmoExpiry (r : Ring) (d : Nat)
  /-- R326: Writing a region's EN enables or retires it when the conditions allow. -/
  | prtRgnEnWrite (p : Part) (region : Fin 1024) (v : Word)
  /-- R341: Writing CLEAR zeroes PRT_RGN_CNT. -/
  | prtRgnClr (p : Part) (v : Word)
  /-- R320: Writing CLEAR zeroes PRT_SYNC_STAT and PRT_SYNC_STAT2. -/
  | prtSyncClr (p : Part) (v : Word)
  /-- R143: Writing ENABLE 1 resets a ring's indices and starts it. -/
  | rngEnable (r : Ring) (v : Word)
  /-- R151: Writing STOP, or ENABLE 0 while 1, stops a ring with cause 1. -/
  | rngStop (r : Ring) (v : Word)
  /-- R146: Host write of a new producer index to a ring's doorbell page. -/
  | doorbellPidxWrite (func : Fin 17) (page : Ring) (v : BitVec 32)
  /-- R146: Host write of a new consumer index of a completion or record ring. -/
  | doorbellCcidxWrite (func : Fin 17) (page : Ring) (v : BitVec 32)
  /-- R157: A descriptor fetch completes and each fetched descriptor is checked before it starts. -/
  | descFetchDone (r : Ring) (descs : List (List Word))
  /-- R150: A ring fetch or completion write fails or exceeds FETCH_TMO and the ring stops. -/
  | ringFetchTmoExpiry (r : Ring) (write : Bool)
  /-- R166: TIME µs after the first pending completion a notification is raised. -/
  | notifyTimeExpiry (r : Ring)
  /-- R152: A ring goes WDOG ms without a completion and event 0x0102 is written. -/
  | ringWdogExpiry (r : Ring)
  /-- R569: A ring stalls for WEDGE_MULT x WDOG and event 0x0D04 is written. -/
  | wedgeExpiry (r : Ring)
  /-- R138: Host read through a pool aperture window, judged line by line. -/
  | apertureRead (func : Fin 17) (win : Fin 16) (off lines : Nat)
  /-- R138: Host write through a pool aperture window, judged line by line. -/
  | apertureWrite (func : Fin 17) (win : Fin 16) (off : Nat) (data : List Byte)
  /-- R135: A host request that hits no BAR completes as Unsupported Request. -/
  | hostReqNoBar (func : Fin 17) (addr : Nat)
  /-- R133: Function-level reset of VF n performs a PART reset of partition n-1. -/
  | vfFlr (vf : Part)
  /-- R133: Function-level reset of PF0 stops every ring with OWNER 16. -/
  | pf0Flr
  /-- R531: KEY_LOAD KKIND 0 unwraps a job key into a link key slot bound to PART. -/
  | keyLoadJob (r : Ring) (d : Nat)
  /-- R531: KEY_LOAD KKIND 1 unwraps the memory key of a partition with no extents. -/
  | keyLoadMemory (r : Ring) (d : Nat)
  /-- R531: KEY_LOAD KKIND 2 zeroises and empties a link key slot. -/
  | keyLoadEmpty (r : Ring) (d : Nat)
  /-- R531: The blob read of a KEY_LOAD ends and the key is checked and installed or rejected. -/
  | keyBlobReadDone (r : Ring) (d : Nat) (blob : Option (List Byte))
  /-- R536: Writing ADVANCE burns the fused SVN up to the running image's SVN. -/
  | secFwAdvance (v : Word)
  /-- R536: Writing a REVOKE bit burns the revoke fuse of that signing key. -/
  | secFwRevoke (v : Word)
  /-- R538: SPDM GET_VERSION request over the DOE mailbox. -/
  | getVersion (msg : List Byte)
  /-- R538: SPDM GET_CAPABILITIES request. -/
  | getCapabilities (msg : List Byte)
  /-- R538: SPDM NEGOTIATE_ALGORITHMS request. -/
  | negotiateAlgorithms (msg : List Byte)
  /-- R538: SPDM GET_DIGESTS request. -/
  | getDigests (msg : List Byte)
  /-- R538: SPDM GET_CERTIFICATE request for slot 0. -/
  | getCertificate (msg : List Byte)
  /-- R539: SPDM CHALLENGE, signed with the identity key or refused after unlock. -/
  | challenge (msg : List Byte)
  /-- R537: SPDM GET_MEASUREMENTS returning the recorded measurements by index. -/
  | getMeasurements (msg : List Byte)
  /-- R538: SPDM KEY_EXCHANGE opening a session, at most two at once. -/
  | keyExchange (msg : List Byte)
  /-- R538: SPDM FINISH completing a session handshake. -/
  | finish (msg : List Byte)
  /-- R538: SPDM HEARTBEAT request of an open session. -/
  | heartbeatSpdm (msg : List Byte)
  /-- R538: SPDM KEY_UPDATE of an open session. -/
  | keyUpdate (msg : List Byte)
  /-- R538: SPDM END_SESSION closing a session. -/
  | endSession (msg : List Byte)
  /-- R538: SPDM vendor-defined request carrying IDE_KM. -/
  | vendorDefinedRequest (msg : List Byte)
  /-- R540: Test-port UNLOCK_REQ answered with the unique ID and a fresh nonce. -/
  | unlockReq
  /-- R540: Test-port UNLOCK_TOKEN verified; secrets zeroised, COLD reset and scan enabled. -/
  | unlockToken (token : List Byte)
  /-- R540: A test-port instruction such as BYPASS, IDCODE or EXTEST, gated as stated. -/
  | tapInstruction (ir : BitVec 8)
  /-- R555: A unit reports an error to its Watch, which classifies, contains and records it. -/
  | errorReport (e : ErrRep)
  /-- R548: An error pair holds equal values for 4 collector cycles and is treated as fatal. -/
  | brokenWire (kind inst : Nat) (still : Bool)
  /-- R553: A coalescing window for uncorrected errors ends and later errors open a new record. -/
  | ueCoalesceExpiry (c : Coll) (src part : Nat)
  /-- R556: A collector's CE_WINDOW ends and the corrected-error threshold restarts. -/
  | watchCeWindowEnd (c : Coll)
  /-- R551: Writing VALID 1 empties a collector's first-error latch and clears OVF. -/
  | fltFirstClear (c : Coll) (v : Word)
  /-- R574: Writing GO injects one error or broken wire while the chip lock is 0. -/
  | fltInjectGo (v : Word)
  /-- R574: Writing CLEAR zeroes a collector's FLT_CNT and BROKEN. -/
  | fltCntClr (c : Coll) (v : Word)
  /-- R566: A source with COUNT above 0 whose MOD has passed delivers to its target. -/
  | irqDeliver (src : Fin 2048)
  /-- R566: Writing ACK subtracts from a source's COUNT and may redeliver. -/
  | irqAck (src : Fin 2048) (v : Word)
  /-- R566: Unmasking an MSI-X vector sends its pending message. -/
  | msixUnmask (func : Fin 17) (vec : Fin 2048)
  /-- R575: Writing CLEAR zeroes IRQ_STAT. -/
  | irqStatClr (v : Word)
  /-- R576: VDD_AON comes into range and a POWER start begins. -/
  | powerOn
  /-- R594: VDD_AON leaves its range, a POWER reset. -/
  | vddAonLoss
  /-- R594: COLD_RST_N held low past its filter starts a COLD reset. -/
  | coldRstPin (low : Bool)
  /-- R594: WARM_RST_N held low past its filter starts a WARM reset. -/
  | warmRstPin (low : Bool)
  /-- R595: PERST_N goes low, resetting the host link or the chip by PERST_LINK_ONLY. -/
  | perstLow
  /-- R595: PERST_N goes high and the host link trains. -/
  | perstHigh
  /-- R578: Every start precondition has held for 10 ms and the start proceeds. -/
  | preconditionsHeld
  /-- R576: A start step that waited ends and the next step begins. -/
  | startStepDone (r : StepReport)
  /-- R577: A start step or the whole start runs past its limit. -/
  | startStepTmoExpiry
  /-- R582: Writing GO while waiting starts the recovery fetch of the Rinide image. -/
  | recoveryGo (v : Word)
  /-- R582: The recovery image read ends and is checked. -/
  | recoveryFetchDone (ok : Bool) (svn keysel : Nat)
  /-- R580: The host does not write GO within RECOVERY_WAIT; SAFE with cause 2. -/
  | recoveryWaitExpiry
  /-- R589: 10 s after ready the Tally's persistent copy is written. -/
  | tallyCopyTick
  /-- R593: Writing TALLY_FORGET resets every NEXT and writes the copy. -/
  | tallyForget (v : Word)
  /-- R594: CHIP_RST_CTL GO with KIND 1 starts a COLD reset. -/
  | resetCold (v : Word)
  /-- R594: CHIP_RST_CTL GO with KIND 2 starts a WARM reset. -/
  | resetWarm (v : Word)
  /-- R594: CHIP_RST_CTL GO with KIND 3 starts a POOL reset. -/
  | resetPool (v : Word)
  /-- R596: CHIP_RST_CTL GO with KIND 4 resets a ward and its partitions. -/
  | resetWard (v : Word)
  /-- R594: CHIP_RST_CTL GO with KIND 5 resets a partition. -/
  | resetPart (v : Word)
  /-- R598: CURFEW_DRAIN runs out and the remaining work is absorbed. -/
  | curfewDrainExpiry (scope : Nat)
  /-- R594: A scope reset runs past its limit, a fatal error that escalates. -/
  | scopeResetLimitExpiry (scope : Nat)
  /-- R601: CHIP_SLEEP REQ ACTIVE wakes a dozing chip or ward. -/
  | sleepReqActive (v : Word)
  /-- R599: CHIP_SLEEP REQ QUIET lets idle cells be clock-gated. -/
  | sleepReqQuiet (v : Word)
  /-- R600: CHIP_SLEEP REQ DOZE, or WARD_DOZE, runs Curfew and dozes the scope. -/
  | sleepReqDoze (v : Word)
  /-- R600: CHIP_SLEEP REQ DEEP leaves the fabric, flushes drives and enters DEEP. -/
  | sleepReqDeep (v : Word)
  /-- R599: A cell idle for QUIET_IDLE in QUIET is clock-gated. -/
  | quietIdleExpiry (cell : Nat)
  /-- R601: A wake source, arrival or doorbell wakes a dozing scope. -/
  | dozeWake (scope cause : Nat)
  /-- R601: Writing AON_SLEEP.WAKE leaves DEEP as a COLD start. -/
  | aonWake (v : Word)
  /-- R657: Writing LOCK 1 sets the chip lock and renews measurement 7. -/
  | chipLockSet (v : Word)
  /-- R661: Writing PRT_CTL.ENABLE 1 makes a partition from its slices or refuses. -/
  | prtCtlEnable (p : Part) (v : Word)
  /-- R662: Writing PRT_CTL.ENABLE 0 dissolves a partition or refuses. -/
  | prtCtlDisable (p : Part) (v : Word)
  /-- R657: Writing PRT_CTL.LOCK 1 sets the partition lock. -/
  | prtCtlLock (p : Part) (v : Word)
  /-- R546: Writing CLEAR zeroes PRT_SEC_CNT. -/
  | prtSecClr (p : Part) (v : Word)
  /-- R614: An Elder's heartbeat reaches the arbiter. -/
  | elderHeartbeat (b : Bool)
  /-- R614: No heartbeat for HB_TMO; the unit leaves service and a freeze may begin. -/
  | hbTmoExpiry (b : Bool)
  /-- R615: An Elder reports its self-check code and the arbiter may choose a winner. -/
  | selfcheckReport (b : Bool) (code : Nat)
  /-- R615: A unit has not reported within SELFCHECK_TMO and scores code 4. -/
  | selfcheckTmoExpiry (b : Bool)
  /-- R616: A freeze lasts FREEZE_MAX and a POOL reset follows. -/
  | freezeMaxExpiry
  /-- R613: Elder proposals for a commit are compared and applied, or a mismatch freezes. -/
  | commitProposal (a b : Option Proposal)
  /-- R618: Writing REARM_A or REARM_B starts resynchronisation of an out-of-service Elder. -/
  | elderRearm (v : Word)
  /-- R618: A resynchronisation step of a returning Elder ends, or fails with its code. -/
  | resyncStepDone (code entries : Nat)
  /-- R620: Writing HANDOVER hands control to an in-step standby. -/
  | handover (v : Word)
  /-- R623: Writing CLEAR zeroes ELD_CNT. -/
  | eldCntClr (v : Word)
  /-- R633: Every 10 µs supply voltages and currents are measured, filtered and judged. -/
  | supplySampleTick (volts amps : List Int)
  /-- R635: Every 100 µs the on-die temperature sensors are read and filtered. -/
  | tempSensorTick (readings : List Int)
  /-- R637: Every 100 µs the governor lowers or raises ward clocks and issue rate against CAP. -/
  | governorTick
  /-- R639: A 1 ms window ends and event 0x1001 reports each changed ward. -/
  | govEventWindow
  /-- R631: A raised VDD_CORE settles and the cell clock switches up. -/
  | voltageSettled (w : Ward)
  /-- R630: Every 100 µs the chip reads the Current of every AVSBus rail. -/
  | avsCurrentPoll (bus : Fin 5) (ok : Bool) (amps : List Nat)
  /-- R632: Every 100 ms a failed AVSBus is retried. -/
  | avsRetryTick (bus : Fin 5) (ok : Bool)
  /-- R644: SMBus clock held low over 35 ms resets the target. -/
  | smbusClockTimeout
  /-- R17: A write to a set-up register with no behaviour of its own sets it per its access code. -/
  | registerWrite (func : Fin 17) (off : Nat) (v : Word) (narrow : Bool := false)
  /-- R401: The receiver loses FEC codeword lock and the port retrains with reason 5. -/
  | fecLockLost (port : Port)
  /-- R383: The receiver achieves FEC lock after deskew, ending training step 3 or retrain step 2. -/
  | fecLockGained (port : Port)
  /-- R383: A partner training block arrives carrying its lane number and RX_OK mask, advancing adaptation and width choice. -/
  | trainingBlockRx (port : Port) (lane : Fin 9) (mask : BitVec 9)
  /-- R383: A modulator or receive ring not locked within 20 ms makes its lane unusable in that direction. -/
  | ringLockTmoExpiry (port : Port) (lane : Fin 9) (rx : Bool)
  /-- R383: A partner shows no 212.5 Gb/s training blocks within 10 ms and training is tried at 106.25 Gb/s. -/
  | rateFallbackTmoExpiry (port : Port)
  /-- R410: No LPI_ACK or crossing LPI_REQ arrives within 10 µs and the port stays active. -/
  | lpiAnswerTmoExpiry (port : Port)
  /-- R382: Every 1 µs an unanswered control-flit request is sent again. -/
  | controlFlitRepeatTick (port : Port)
  /-- R208: A root port's link to its drive goes down and must retrain within LINKUP_TMO or the drive is lost with cause 1. -/
  | nvmeLinkDown (dr : Drive)
  /-- R205: The root port's link to its drive comes up, ending bring-up step 1. -/
  | nvmeLinkUp (dr : Drive)
  /-- R205: CSTS.RDY rises after CC.EN is set and bring-up or controller reset continues. -/
  | nvmeControllerReady (dr : Drive) (mqes : Nat)
  /-- R208: The drive sets CSTS.CFS and becomes lost with cause 2. -/
  | nvmeControllerFatal (dr : Drive)
  /-- R503: The DRAM reports a command/address parity error; the command is retried and after 3 failures a runtime retrain starts. -/
  | commandAddressParityFail (ch : Chan) (retry : Nat)
  /-- R500: A channel's training or runtime retrain ends and it enters or returns to service with event 0x0B01 or 0x0B08. -/
  | dramTrainingDone (ch : Chan) (katOk : Bool)
  /-- R602: A CELL, SLICE, PART, WARD or POOL reset ends, the joins reopen and the scope returns with stale state discarded. -/
  | scopeResetDone (scope : Nat) (ok : Bool)
  /-- R105: The RETRY_AFTER or NAK DELAY of a NAKed descriptor, stream or chip request passes and the engine retries. -/
  | retryAfterExpiry (id : Nat)
  /-- R441: The host read of a ROUTE_STAGE image ends, writing the idle version or completing with timeout. -/
  | routeImageReadDone (r : Ring) (d : Nat) (img : Option (List Byte))
  /-- R669: A COPY's access to issuer memory ends with data, poison, an error, a NAK or FETCH_TMO, deciding the COPY's status. -/
  | issuerAccessDone (r : Ring) (d : Nat) (res : IssuerRes)
  /-- R429: An ATOMIC_RESP addressed to this node arrives and is dropped and counted in STRAY. -/
  | atomicRespRx (port : Port) (p : Pkt)
  /-- R150: The PCI Express host link goes down, so posted completion writes cannot be sent and LOC 0 rings stop. -/
  | hostLinkDown
  /-- R576: The host link finishes training and comes up. -/
  | hostLinkUp
  /-- R631: A VDD_CORE step not settled within 100 µs counts as a failed AVSBus transaction. -/
  | voltageSettleTmoExpiry (w : Ward)
  /-- R642: TRST_N is held low past its filter and the test port is reset. -/
  | testPortReset
deriving DecidableEq, Repr

end Sys2Proof
end

