-- ==== Sys2Proof/Decode.lean ====
section
/-!
DEFINITION. Sys2Proof/Decode.lean: the command that a table word spells. No row of the opcode table gives bits: a command
of this block is no word of a program, so no word spells one.
-/
namespace Sys2Proof

/-- The command of a word by the table's bits: none, for every row's "encoding" is null. -/
def decodeTableWord (_nbits _w : Nat) : Option Instr := none

end Sys2Proof
end

