-- ==== Sys2Proof/Machine/Bits.lean ====
section
/-!
DEFINITION. Sys2Proof/Machine/Bits.lean: bit fields, byte order and saturating counters, used by every unit.
-/
namespace Sys2Proof.Machine

/-- Bits [lo + w - 1 : lo] of a number (00 R7). -/
def fld (x lo w : Nat) : Nat := x / 2 ^ lo % 2 ^ w

/-- `x` with bits [lo + w - 1 : lo] replaced by the low `w` bits of `v`. -/
def setFld (x lo w v : Nat) : Nat := x - fld x lo w * 2 ^ lo + v % 2 ^ w * 2 ^ lo

/-- Bit `i` of a number. -/
def bitOf (x i : Nat) : Bool := x.testBit i

/-- 1 for true, 0 for false. -/
def b2n (b : Bool) : Nat := if b then 1 else 0

/-- A field of a word. -/
def wfld (x : Word) (lo w : Nat) : Nat := fld x.toNat lo w

/-- A word from a number. -/
def toW (n : Nat) : Word := BitVec.ofNat 64 n

/-- A byte from a number. -/
def toB (n : Nat) : Byte := BitVec.ofNat 8 n

/-- The number that little-endian bytes hold (00 R8). -/
def leNat : List Byte → Nat
  | [] => 0
  | b :: bs => b.toNat + 256 * leNat bs

/-- The first `n` little-endian bytes of a number (00 R8). -/
def leBytes : Nat → Nat → List Byte
  | 0, _ => []
  | n + 1, x => toB x :: leBytes n (x / 256)

/-- The number that big-endian bytes hold. -/
def beNat (bs : List Byte) : Nat := bs.foldl (fun a b => a * 256 + b.toNat) 0

/-- `n` big-endian bytes of a number. -/
def beBytes (n x : Nat) : List Byte := (leBytes n x).reverse

/-- `n` consecutive words of a byte list, little-endian; missing bytes read zero. -/
def bytesToWords : Nat → List Byte → List Word
  | 0, _ => []
  | n + 1, bs => toW (leNat (bs.take 8)) :: bytesToWords n (bs.drop 8)

/-- The bytes of words, little-endian. -/
def wordsToBytes (ws : List Word) : List Byte := ws.flatMap fun w => leBytes 8 w.toNat

/-- Item `n` of a list of numbers, zero past its end. -/
def nthN (l : List Nat) (n : Nat) : Nat := l.getD n 0

/-- Word `n` of a list of words, zero past its end. -/
def nthW (l : List Word) (n : Nat) : Word := l.getD n 0

/-- Byte `n` of a list of bytes, zero past its end. -/
def nthB (l : List Byte) (n : Nat) : Byte := l.getD n 0

/-- A counter of `w` bits raised by `d`, saturating at its maximum. -/
def satAdd (w x d : Nat) : Nat := min (x + d) (2 ^ w - 1)

/-- A value of which 0 acts as 1. -/
def atLeast1 (n : Nat) : Nat := if n = 0 then 1 else n

/-- The larger of two-sided limits: `n` moved to the nearer of `lo` and `hi`. -/
def clampN (lo hi n : Nat) : Nat := if n < lo then lo else if hi < n then hi else n

/-- Division rounded up. -/
def ceilDiv (a b : Nat) : Nat := (a + b - 1) / b

/-- The numbers below `n` whose bit is set in `x`, ascending. -/
def bitsSet (n x : Nat) : List Nat := (List.range n).filter fun i => x.testBit i

/-- How many of the low `n` bits of `x` are set. -/
def popc (n x : Nat) : Nat := (bitsSet n x).length

/-- Cuts a list into pieces of `n` (at most `fuel` of them). -/
def chunks {α : Type} : Nat → Nat → List α → List (List α)
  | 0, _, _ => []
  | _ + 1, _, [] => []
  | f + 1, n, l => l.take n :: chunks f n (l.drop n)

/-- Replaces item `i` of a list; a list that is too short stays. -/
def setNth {α : Type} (l : List α) (i : Nat) (x : α) : List α := l.set i x

end Sys2Proof.Machine
end

