-- ==== Sys2Proof/Machine/Sparse.lean ====
section
/-!
DEFINITION. Sys2Proof/Machine/Sparse.lean: keyed lists in canonical form (keys strictly rising), which hold memory,
the register file and every sparse table of the block.
-/
namespace Sys2Proof.Machine

/-- The value listed under a key. -/
def kget {α : Type} (k : Nat) : List (Nat × α) → Option α
  | [] => none
  | (a, v) :: l => if a = k then some v else if k < a then none else kget k l

/-- The value under a key, `d` where none is listed. -/
def kgetD {α : Type} (d : α) (k : Nat) (l : List (Nat × α)) : α := (kget k l).getD d

/-- Lists `v` under `k`, in its place. -/
def kput {α : Type} (k : Nat) (v : α) : List (Nat × α) → List (Nat × α)
  | [] => [(k, v)]
  | (a, x) :: l => if a = k then (k, v) :: l else if k < a then (k, v) :: (a, x) :: l else (a, x) :: kput k v l

/-- Removes the entry under `k`. -/
def kdel {α : Type} (k : Nat) : List (Nat × α) → List (Nat × α)
  | [] => []
  | (a, x) :: l => if a = k then l else if k < a then (a, x) :: l else (a, x) :: kdel k l

/-- Stores `v` under `k`, where an unlisted key reads as `d`: storing `d` removes the entry. -/
def kset {α : Type} [DecidableEq α] (d : α) (k : Nat) (v : α) (l : List (Nat × α)) : List (Nat × α) :=
  if v = d then kdel k l else kput k v l

/-- A member of a sorted list of numbers, added in its place once. -/
def sput (k : Nat) : List Nat → List Nat
  | [] => [k]
  | a :: l => if a = k then a :: l else if k < a then k :: a :: l else a :: sput k l

/-- A number taken out of a sorted list of numbers. -/
def sdel (k : Nat) (l : List Nat) : List Nat := l.filter (· != k)

end Sys2Proof.Machine
end

