-- ==== Sys2Proof/Machine/Regs.lean ====
section
/-!
DEFINITION. Sys2Proof/Machine/Regs.lean: every set-up register and field of the register index (19 R667), by the
offset in PF0 BAR0, the instances, the reset value and the bit positions that the chapters' own tables give.
A register is `NAME.reg`, a field of it `NAME.FIELD`. A fuse field's value is that of a DX-4800 (log entry 4);
"meas" and "strap" fields read zero until they are measured or sampled (00 R19).
-/
namespace Sys2Proof.Machine

/-- A register: its offset in PF0 BAR0, up to three instance counts with their strides, and its reset value. -/
structure Reg where
  base : Nat
  n1 : Nat
  s1 : Nat
  n2 : Nat
  s2 : Nat
  n3 : Nat
  s3 : Nat
  rv : Nat
deriving DecidableEq, Repr

/-- A field: its register, its lowest bit and its width. -/
structure Fld where
  reg : Reg
  lo : Nat
  w : Nat
deriving DecidableEq, Repr

/-- Access codes of 00 R17. -/
inductive Acc where
  | rw | ro | wo | w1c | w1s | rwl
deriving DecidableEq, Repr

/-- The "Cleared by" column: the weakest reset that returns the field to its reset value (00 R21). -/
inductive Clr where
  | power | cold | warm | pool | ward | part | never
deriving DecidableEq, Repr

/-- Which scope an instance of a register belongs to (00 R22): the whole chip, a partition's block, a ring slot,
a slice, a drive, a channel or a collector. -/
inductive RScope where
  | chip | prt | rng | slc | nvm | ddr | flt
deriving DecidableEq, Repr

/-- One field row of a register table. -/
structure FldRow where
  lo : Nat
  w : Nat
  acc : Acc
  clr : Clr
deriving DecidableEq, Repr

/-- One register with its field rows. -/
structure RegRow where
  reg : Reg
  scope : RScope
  flds : List FldRow
deriving DecidableEq, Repr


/-- XLT_SPACE_LO (02 R78). -/
def XLT_SPACE_LO.reg : Reg := ⟨0x01101000, 4096, 16, 1, 0, 1, 0, 0⟩
def XLT_SPACE_LO.TAG : Fld := ⟨XLT_SPACE_LO.reg, 0, 16⟩
def XLT_SPACE_LO.HOME_PART : Fld := ⟨XLT_SPACE_LO.reg, 16, 4⟩
def XLT_SPACE_LO.JOINED : Fld := ⟨XLT_SPACE_LO.reg, 20, 1⟩
def XLT_SPACE_LO.LIVE : Fld := ⟨XLT_SPACE_LO.reg, 21, 1⟩
def XLT_SPACE_LO.DIR_BASE : Fld := ⟨XLT_SPACE_LO.reg, 24, 33⟩

/-- XLT_SPACE_HI (02 R78). -/
def XLT_SPACE_HI.reg : Reg := ⟨0x01101008, 4096, 16, 1, 0, 1, 0, 0⟩
def XLT_SPACE_HI.SPAN_PART : Fld := ⟨XLT_SPACE_HI.reg, 0, 64⟩

/-- XLT_EXT_USED (02 R127). -/
def XLT_EXT_USED.reg : Reg := ⟨0x01100000, 1, 0, 1, 0, 1, 0, 0⟩
def XLT_EXT_USED.EXTENTS : Fld := ⟨XLT_EXT_USED.reg, 0, 17⟩

/-- XLT_REQ_LIFE (02 R127). -/
def XLT_REQ_LIFE.reg : Reg := ⟨0x01100008, 1, 0, 1, 0, 1, 0, 200⟩
def XLT_REQ_LIFE.LIFE : Fld := ⟨XLT_REQ_LIFE.reg, 0, 16⟩

/-- PRT_XLT_CFG (02 R128). -/
def PRT_XLT_CFG.reg : Reg := ⟨0x01400100, 16, 65536, 1, 0, 1, 0, 0x640a081404⟩
def PRT_XLT_CFG.GRAIN : Fld := ⟨PRT_XLT_CFG.reg, 0, 4⟩
def PRT_XLT_CFG.RETRY_AFTER : Fld := ⟨PRT_XLT_CFG.reg, 8, 8⟩
def PRT_XLT_CFG.COALESCE : Fld := ⟨PRT_XLT_CFG.reg, 16, 8⟩
def PRT_XLT_CFG.HOLD_TMO : Fld := ⟨PRT_XLT_CFG.reg, 24, 8⟩
def PRT_XLT_CFG.RELEASE_TMO : Fld := ⟨PRT_XLT_CFG.reg, 32, 16⟩

/-- PRT_XLT_STAT (02 R128). -/
def PRT_XLT_STAT.reg : Reg := ⟨0x01400108, 16, 65536, 1, 0, 1, 0, 0⟩
def PRT_XLT_STAT.FAULT_OVF : Fld := ⟨PRT_XLT_STAT.reg, 0, 16⟩
def PRT_XLT_STAT.COALESCE_FULL : Fld := ⟨PRT_XLT_STAT.reg, 16, 16⟩
def PRT_XLT_STAT.DENIED : Fld := ⟨PRT_XLT_STAT.reg, 32, 16⟩
def PRT_XLT_STAT.RELEASE_POISON : Fld := ⟨PRT_XLT_STAT.reg, 48, 16⟩

/-- PRT_XLT_STAT_CLR (02 R128). -/
def PRT_XLT_STAT_CLR.reg : Reg := ⟨0x01400110, 16, 65536, 1, 0, 1, 0, 0⟩
def PRT_XLT_STAT_CLR.CLEAR : Fld := ⟨PRT_XLT_STAT_CLR.reg, 0, 1⟩

/-- PRT_EXT_USED (02 R128). -/
def PRT_EXT_USED.reg : Reg := ⟨0x01400118, 16, 65536, 1, 0, 1, 0, 0⟩
def PRT_EXT_USED.EXTENTS : Fld := ⟨PRT_EXT_USED.reg, 0, 13⟩

/-- XLT_APT_WIN (03 R137). -/
def XLT_APT_WIN.reg : Reg := ⟨0x01100100, 16, 8, 1, 0, 1, 0, 0⟩
def XLT_APT_WIN.SPACE : Fld := ⟨XLT_APT_WIN.reg, 0, 16⟩
def XLT_APT_WIN.ADDR_HI : Fld := ⟨XLT_APT_WIN.reg, 16, 16⟩
def XLT_APT_WIN.EN : Fld := ⟨XLT_APT_WIN.reg, 32, 1⟩
def XLT_APT_WIN.DROPS : Fld := ⟨XLT_APT_WIN.reg, 48, 16⟩

/-- PRT_APT_WIN (03 R137). -/
def PRT_APT_WIN.reg : Reg := ⟨0x01400200, 16, 65536, 1, 0, 1, 0, 0⟩
def PRT_APT_WIN.SPACE : Fld := ⟨PRT_APT_WIN.reg, 0, 16⟩
def PRT_APT_WIN.ADDR_HI : Fld := ⟨PRT_APT_WIN.reg, 16, 16⟩
def PRT_APT_WIN.EN : Fld := ⟨PRT_APT_WIN.reg, 32, 1⟩
def PRT_APT_WIN.DROPS : Fld := ⟨PRT_APT_WIN.reg, 48, 16⟩

/-- RNG_DESC_BASE (03 R142). -/
def RNG_DESC_BASE.reg : Reg := ⟨0x01500000, 4096, 64, 1, 0, 1, 0, 0⟩
def RNG_DESC_BASE.BASE : Fld := ⟨RNG_DESC_BASE.reg, 0, 64⟩

/-- RNG_CPL_BASE (03 R142). -/
def RNG_CPL_BASE.reg : Reg := ⟨0x01500008, 4096, 64, 1, 0, 1, 0, 0⟩
def RNG_CPL_BASE.BASE : Fld := ⟨RNG_CPL_BASE.reg, 0, 64⟩

/-- RNG_CFG (03 R142). -/
def RNG_CFG.reg : Reg := ⟨0x01500010, 4096, 64, 1, 0, 1, 0, 0x640a01000000⟩
def RNG_CFG.CLASS : Fld := ⟨RNG_CFG.reg, 0, 2⟩
def RNG_CFG.LOC : Fld := ⟨RNG_CFG.reg, 2, 1⟩
def RNG_CFG.PRIMARY : Fld := ⟨RNG_CFG.reg, 3, 1⟩
def RNG_CFG.OWNER : Fld := ⟨RNG_CFG.reg, 4, 5⟩
def RNG_CFG.LOG_DESC : Fld := ⟨RNG_CFG.reg, 12, 4⟩
def RNG_CFG.LOG_CPL : Fld := ⟨RNG_CFG.reg, 16, 4⟩
def RNG_CFG.WEIGHT : Fld := ⟨RNG_CFG.reg, 20, 8⟩
def RNG_CFG.FETCH_TMO : Fld := ⟨RNG_CFG.reg, 32, 8⟩
def RNG_CFG.WDOG : Fld := ⟨RNG_CFG.reg, 40, 16⟩

/-- RNG_LOC (03 R142). -/
def RNG_LOC.reg : Reg := ⟨0x01500018, 4096, 64, 1, 0, 1, 0, 0⟩
def RNG_LOC.NODE : Fld := ⟨RNG_LOC.reg, 0, 15⟩
def RNG_LOC.FSPACE : Fld := ⟨RNG_LOC.reg, 16, 16⟩
def RNG_LOC.KEY_IDX : Fld := ⟨RNG_LOC.reg, 32, 12⟩

/-- RNG_NOTIFY (03 R142). -/
def RNG_NOTIFY.reg : Reg := ⟨0x01500020, 4096, 64, 1, 0, 1, 0, 0x1000⟩
def RNG_NOTIFY.SOURCE : Fld := ⟨RNG_NOTIFY.reg, 0, 11⟩
def RNG_NOTIFY.EN : Fld := ⟨RNG_NOTIFY.reg, 11, 1⟩
def RNG_NOTIFY.CNT : Fld := ⟨RNG_NOTIFY.reg, 12, 8⟩
def RNG_NOTIFY.TIME : Fld := ⟨RNG_NOTIFY.reg, 20, 12⟩

/-- RNG_CTL (03 R142). -/
def RNG_CTL.reg : Reg := ⟨0x01500028, 4096, 64, 1, 0, 1, 0, 0⟩
def RNG_CTL.ENABLE : Fld := ⟨RNG_CTL.reg, 0, 1⟩
def RNG_CTL.STOP : Fld := ⟨RNG_CTL.reg, 1, 1⟩
def RNG_CTL.STOPPED : Fld := ⟨RNG_CTL.reg, 8, 1⟩
def RNG_CTL.STOP_CAUSE : Fld := ⟨RNG_CTL.reg, 9, 3⟩
def RNG_CTL.DROPPED : Fld := ⟨RNG_CTL.reg, 16, 16⟩

/-- RNG_IDX (03 R142). -/
def RNG_IDX.reg : Reg := ⟨0x01500030, 4096, 64, 1, 0, 1, 0, 0⟩
def RNG_IDX.PIDX : Fld := ⟨RNG_IDX.reg, 0, 32⟩
def RNG_IDX.CIDX : Fld := ⟨RNG_IDX.reg, 32, 32⟩

/-- RNG_CPL_IDX (03 R142). -/
def RNG_CPL_IDX.reg : Reg := ⟨0x01500038, 4096, 64, 1, 0, 1, 0, 0⟩
def RNG_CPL_IDX.CPIDX : Fld := ⟨RNG_CPL_IDX.reg, 0, 32⟩
def RNG_CPL_IDX.CCIDX : Fld := ⟨RNG_CPL_IDX.reg, 32, 32⟩

/-- SLC_NEAR_SIZE (04 R213). -/
def SLC_NEAR_SIZE.reg : Reg := ⟨0x00C00100, 16, 131072, 1, 0, 1, 0, 40⟩
def SLC_NEAR_SIZE.NEAR_MIB : Fld := ⟨SLC_NEAR_SIZE.reg, 0, 6⟩

/-- PRT_NEAR_CFG (04 R214). -/
def PRT_NEAR_CFG.reg : Reg := ⟨0x01400300, 16, 65536, 1, 0, 1, 0, 0xa00401004⟩
def PRT_NEAR_CFG.ACC_RES : Fld := ⟨PRT_NEAR_CFG.reg, 0, 8⟩
def PRT_NEAR_CFG.PIN_MAX : Fld := ⟨PRT_NEAR_CFG.reg, 8, 8⟩
def PRT_NEAR_CFG.HOT_THRESH : Fld := ⟨PRT_NEAR_CFG.reg, 16, 16⟩
def PRT_NEAR_CFG.DECAY : Fld := ⟨PRT_NEAR_CFG.reg, 32, 8⟩

/-- PRT_DCACHE_CFG (04 R214). -/
def PRT_DCACHE_CFG.reg : Reg := ⟨0x01400308, 16, 65536, 1, 0, 1, 0, 0x8c00⟩
def PRT_DCACHE_CFG.DCACHE_G : Fld := ⟨PRT_DCACHE_CFG.reg, 0, 8⟩
def PRT_DCACHE_CFG.WB_HIGH : Fld := ⟨PRT_DCACHE_CFG.reg, 8, 4⟩
def PRT_DCACHE_CFG.WB_LOW : Fld := ⟨PRT_DCACHE_CFG.reg, 12, 4⟩

/-- PRT_TIER_STAT (04 R214). -/
def PRT_TIER_STAT.reg : Reg := ⟨0x01400310, 16, 65536, 1, 0, 1, 0, 0⟩
def PRT_TIER_STAT.NEAR_PIN : Fld := ⟨PRT_TIER_STAT.reg, 0, 16⟩
def PRT_TIER_STAT.DRAM_PIN : Fld := ⟨PRT_TIER_STAT.reg, 16, 16⟩
def PRT_TIER_STAT.DIRTY : Fld := ⟨PRT_TIER_STAT.reg, 32, 16⟩
def PRT_TIER_STAT.PINS : Fld := ⟨PRT_TIER_STAT.reg, 48, 9⟩
def PRT_TIER_STAT.DEGRADED : Fld := ⟨PRT_TIER_STAT.reg, 57, 7⟩

/-- PRT_TIER_CNT (04 R214). -/
def PRT_TIER_CNT.reg : Reg := ⟨0x01400318, 16, 65536, 1, 0, 1, 0, 0⟩
def PRT_TIER_CNT.FILLS : Fld := ⟨PRT_TIER_CNT.reg, 0, 32⟩
def PRT_TIER_CNT.WRITEBACKS : Fld := ⟨PRT_TIER_CNT.reg, 32, 32⟩

/-- NVM_CTL (04 R215). -/
def NVM_CTL.reg : Reg := ⟨0x01000000, 16, 65536, 1, 0, 1, 0, 1⟩
def NVM_CTL.ENABLE : Fld := ⟨NVM_CTL.reg, 0, 1⟩
def NVM_CTL.STATE : Fld := ⟨NVM_CTL.reg, 1, 2⟩
def NVM_CTL.LOSS_CAUSE : Fld := ⟨NVM_CTL.reg, 3, 4⟩
def NVM_CTL.IOQ : Fld := ⟨NVM_CTL.reg, 8, 7⟩
def NVM_CTL.QDEPTH : Fld := ⟨NVM_CTL.reg, 16, 11⟩

/-- NVM_CFG (04 R215). -/
def NVM_CFG.reg : Reg := ⟨0x01000008, 16, 65536, 1, 0, 1, 0, 0x46641400a207d0⟩
def NVM_CFG.CMD_TMO : Fld := ⟨NVM_CFG.reg, 0, 16⟩
def NVM_CFG.RETRY : Fld := ⟨NVM_CFG.reg, 16, 3⟩
def NVM_CFG.SMART_PERIOD : Fld := ⟨NVM_CFG.reg, 20, 12⟩
def NVM_CFG.READY_TMO : Fld := ⟨NVM_CFG.reg, 32, 8⟩
def NVM_CFG.LINKUP_TMO : Fld := ⟨NVM_CFG.reg, 40, 8⟩
def NVM_CFG.TEMP_WARN : Fld := ⟨NVM_CFG.reg, 48, 8⟩

/-- NVM_CAP (04 R215). -/
def NVM_CAP.reg : Reg := ⟨0x01000010, 16, 65536, 1, 0, 1, 0, 0⟩
def NVM_CAP.UNITS : Fld := ⟨NVM_CAP.reg, 0, 32⟩
def NVM_CAP.FREE : Fld := ⟨NVM_CAP.reg, 32, 32⟩

/-- NVM_STAT (04 R215). -/
def NVM_STAT.reg : Reg := ⟨0x01000018, 16, 65536, 1, 0, 1, 0, 0⟩
def NVM_STAT.MEDIA_ERR : Fld := ⟨NVM_STAT.reg, 0, 16⟩
def NVM_STAT.TIMEOUTS : Fld := ⟨NVM_STAT.reg, 16, 16⟩
def NVM_STAT.RESETS : Fld := ⟨NVM_STAT.reg, 32, 16⟩
def NVM_STAT.CRIT_WARN : Fld := ⟨NVM_STAT.reg, 48, 8⟩
def NVM_STAT.PCT_USED : Fld := ⟨NVM_STAT.reg, 56, 8⟩

/-- NVM_IDENT (04 R215). -/
def NVM_IDENT.reg : Reg := ⟨0x01001000, 16, 65536, 512, 8, 1, 0, 0⟩
def NVM_IDENT.DATA : Fld := ⟨NVM_IDENT.reg, 0, 64⟩

/-- PRT_COR_STORE (05 R259). -/
def PRT_COR_STORE.reg : Reg := ⟨0x01400400, 16, 65536, 16, 32, 1, 0, 0⟩
def PRT_COR_STORE.STORE_BASE : Fld := ⟨PRT_COR_STORE.reg, 0, 48⟩
def PRT_COR_STORE.SPACE : Fld := ⟨PRT_COR_STORE.reg, 48, 16⟩

/-- PRT_COR_VIEW (05 R259). -/
def PRT_COR_VIEW.reg : Reg := ⟨0x01400408, 16, 65536, 16, 32, 1, 0, 0⟩
def PRT_COR_VIEW.VIEW_BASE : Fld := ⟨PRT_COR_VIEW.reg, 0, 48⟩

/-- PRT_COR_CTL (05 R259). -/
def PRT_COR_CTL.reg : Reg := ⟨0x01400410, 16, 65536, 16, 32, 1, 0, 0⟩
def PRT_COR_CTL.EN : Fld := ⟨PRT_COR_CTL.reg, 0, 1⟩
def PRT_COR_CTL.RND : Fld := ⟨PRT_COR_CTL.reg, 1, 1⟩
def PRT_COR_CTL.SFMT : Fld := ⟨PRT_COR_CTL.reg, 4, 4⟩
def PRT_COR_CTL.VFMT : Fld := ⟨PRT_COR_CTL.reg, 8, 4⟩
def PRT_COR_CTL.LEN : Fld := ⟨PRT_COR_CTL.reg, 16, 24⟩

/-- PRT_ARITH_CFG (05 R259). -/
def PRT_ARITH_CFG.reg : Reg := ⟨0x01400600, 16, 65536, 1, 0, 1, 0, 3⟩
def PRT_ARITH_CFG.SAT_NARROW : Fld := ⟨PRT_ARITH_CFG.reg, 0, 1⟩
def PRT_ARITH_CFG.EXC_EVENT : Fld := ⟨PRT_ARITH_CFG.reg, 1, 1⟩

/-- PRT_ARITH_STAT (05 R259). -/
def PRT_ARITH_STAT.reg : Reg := ⟨0x01400608, 16, 65536, 1, 0, 1, 0, 0⟩
def PRT_ARITH_STAT.FLAGS : Fld := ⟨PRT_ARITH_STAT.reg, 0, 5⟩
def PRT_ARITH_STAT.DESC_CLR : Fld := ⟨PRT_ARITH_STAT.reg, 15, 1⟩
def PRT_ARITH_STAT.DESC_EXC : Fld := ⟨PRT_ARITH_STAT.reg, 16, 16⟩

/-- PRT_SR_SEED (05 R259). -/
def PRT_SR_SEED.reg : Reg := ⟨0x01400610, 16, 65536, 1, 0, 1, 0, 0⟩
def PRT_SR_SEED.SEED : Fld := ⟨PRT_SR_SEED.reg, 0, 64⟩

/-- PRT_PROG_SRC (06 R293). -/
def PRT_PROG_SRC.reg : Reg := ⟨0x01400700, 16, 65536, 1, 0, 1, 0, 0⟩
def PRT_PROG_SRC.ADDR : Fld := ⟨PRT_PROG_SRC.reg, 0, 48⟩
def PRT_PROG_SRC.SPACE : Fld := ⟨PRT_PROG_SRC.reg, 48, 16⟩

/-- PRT_PROG_LOAD (06 R293). -/
def PRT_PROG_LOAD.reg : Reg := ⟨0x01400708, 16, 65536, 1, 0, 1, 0, 0⟩
def PRT_PROG_LOAD.SLOT : Fld := ⟨PRT_PROG_LOAD.reg, 0, 8⟩
def PRT_PROG_LOAD.GO : Fld := ⟨PRT_PROG_LOAD.reg, 8, 1⟩
def PRT_PROG_LOAD.CLEAR : Fld := ⟨PRT_PROG_LOAD.reg, 9, 1⟩

/-- PRT_PROG_STAT (06 R293). -/
def PRT_PROG_STAT.reg : Reg := ⟨0x01400710, 16, 65536, 1, 0, 1, 0, 0⟩
def PRT_PROG_STAT.STATE : Fld := ⟨PRT_PROG_STAT.reg, 0, 2⟩
def PRT_PROG_STAT.REASON : Fld := ⟨PRT_PROG_STAT.reg, 8, 8⟩
def PRT_PROG_STAT.OPIDX : Fld := ⟨PRT_PROG_STAT.reg, 16, 6⟩
def PRT_PROG_STAT.LSLOT : Fld := ⟨PRT_PROG_STAT.reg, 22, 8⟩

/-- PRT_PROG_CFG (06 R293). -/
def PRT_PROG_CFG.reg : Reg := ⟨0x01400718, 16, 65536, 1, 0, 1, 0, 100⟩
def PRT_PROG_CFG.RUN_TMO : Fld := ⟨PRT_PROG_CFG.reg, 0, 16⟩

/-- PRT_PROG_CNT (06 R293). -/
def PRT_PROG_CNT.reg : Reg := ⟨0x01400720, 16, 65536, 1, 0, 1, 0, 0⟩
def PRT_PROG_CNT.RUNS : Fld := ⟨PRT_PROG_CNT.reg, 0, 32⟩
def PRT_PROG_CNT.TILES_SKIPPED : Fld := ⟨PRT_PROG_CNT.reg, 32, 32⟩

/-- PRT_PROG_VALID (06 R293). -/
def PRT_PROG_VALID.reg : Reg := ⟨0x01400740, 16, 65536, 4, 8, 1, 0, 0⟩
def PRT_PROG_VALID.VALID : Fld := ⟨PRT_PROG_VALID.reg, 0, 64⟩

/-- PRT_SYNC_CFG (07 R320). -/
def PRT_SYNC_CFG.reg : Reg := ⟨0x01400800, 16, 65536, 1, 0, 1, 0, 0x186a0⟩
def PRT_SYNC_CFG.SET_TMO : Fld := ⟨PRT_SYNC_CFG.reg, 0, 32⟩

/-- PRT_SYNC_STAT (07 R320). -/
def PRT_SYNC_STAT.reg : Reg := ⟨0x01400808, 16, 65536, 1, 0, 1, 0, 0⟩
def PRT_SYNC_STAT.SETS_OK : Fld := ⟨PRT_SYNC_STAT.reg, 0, 16⟩
def PRT_SYNC_STAT.SETS_FAILED : Fld := ⟨PRT_SYNC_STAT.reg, 16, 16⟩
def PRT_SYNC_STAT.DUPS : Fld := ⟨PRT_SYNC_STAT.reg, 32, 16⟩
def PRT_SYNC_STAT.REFUSED : Fld := ⟨PRT_SYNC_STAT.reg, 48, 16⟩

/-- PRT_SYNC_STAT2 (07 R320). -/
def PRT_SYNC_STAT2.reg : Reg := ⟨0x01400810, 16, 65536, 1, 0, 1, 0, 0⟩
def PRT_SYNC_STAT2.SIG_LOST : Fld := ⟨PRT_SYNC_STAT2.reg, 0, 16⟩
def PRT_SYNC_STAT2.UNGUARDED : Fld := ⟨PRT_SYNC_STAT2.reg, 16, 16⟩
def PRT_SYNC_STAT2.BAD_CONTRIB : Fld := ⟨PRT_SYNC_STAT2.reg, 32, 16⟩

/-- PRT_SYNC_CLR (07 R320). -/
def PRT_SYNC_CLR.reg : Reg := ⟨0x01400818, 16, 65536, 1, 0, 1, 0, 0⟩
def PRT_SYNC_CLR.CLEAR : Fld := ⟨PRT_SYNC_CLR.reg, 0, 1⟩

/-- SLC_SYNC_STAT (07 R321). -/
def SLC_SYNC_STAT.reg : Reg := ⟨0x00C00200, 16, 131072, 1, 0, 1, 0, 0⟩
def SLC_SYNC_STAT.CTX_USED : Fld := ⟨SLC_SYNC_STAT.reg, 0, 9⟩
def SLC_SYNC_STAT.BMAP_USED : Fld := ⟨SLC_SYNC_STAT.reg, 9, 7⟩

/-- SLC_SYNC_OBJ_LO (07 R321). -/
def SLC_SYNC_OBJ_LO.reg : Reg := ⟨0x00C10000, 16, 131072, 4096, 16, 1, 0, 0⟩
def SLC_SYNC_OBJ_LO.WORD0 : Fld := ⟨SLC_SYNC_OBJ_LO.reg, 0, 64⟩

/-- SLC_SYNC_OBJ_HI (07 R321). -/
def SLC_SYNC_OBJ_HI.reg : Reg := ⟨0x00C10008, 16, 131072, 4096, 16, 1, 0, 0⟩
def SLC_SYNC_OBJ_HI.WORD1 : Fld := ⟨SLC_SYNC_OBJ_HI.reg, 0, 64⟩

/-- PRT_RGN_CFG (08 R341). -/
def PRT_RGN_CFG.reg : Reg := ⟨0x01408000, 16, 65536, 1024, 16, 1, 0, 0⟩
def PRT_RGN_CFG.SPACE : Fld := ⟨PRT_RGN_CFG.reg, 0, 16⟩
def PRT_RGN_CFG.EN : Fld := ⟨PRT_RGN_CFG.reg, 16, 1⟩
def PRT_RGN_CFG.WIN_G : Fld := ⟨PRT_RGN_CFG.reg, 30, 18⟩
def PRT_RGN_CFG.SLOT_G : Fld := ⟨PRT_RGN_CFG.reg, 48, 11⟩

/-- PRT_RGN_STAT (08 R341). -/
def PRT_RGN_STAT.reg : Reg := ⟨0x01408008, 16, 65536, 1024, 16, 1, 0, 0⟩
def PRT_RGN_STAT.CURRENT : Fld := ⟨PRT_RGN_STAT.reg, 0, 32⟩
def PRT_RGN_STAT.LIVE : Fld := ⟨PRT_RGN_STAT.reg, 32, 4⟩
def PRT_RGN_STAT.PINS : Fld := ⟨PRT_RGN_STAT.reg, 40, 24⟩

/-- PRT_RGN_CNT (08 R341). -/
def PRT_RGN_CNT.reg : Reg := ⟨0x01400900, 16, 65536, 1, 0, 1, 0, 0⟩
def PRT_RGN_CNT.PUBLISHED : Fld := ⟨PRT_RGN_CNT.reg, 0, 16⟩
def PRT_RGN_CNT.CONFLICTS : Fld := ⟨PRT_RGN_CNT.reg, 16, 16⟩
def PRT_RGN_CNT.RELEASED : Fld := ⟨PRT_RGN_CNT.reg, 32, 16⟩
def PRT_RGN_CNT.NO_VERSION : Fld := ⟨PRT_RGN_CNT.reg, 48, 16⟩

/-- PRT_RGN_CLR (08 R341). -/
def PRT_RGN_CLR.reg : Reg := ⟨0x01400908, 16, 65536, 1, 0, 1, 0, 0⟩
def PRT_RGN_CLR.CLEAR : Fld := ⟨PRT_RGN_CLR.reg, 0, 1⟩

/-- XLT_COH_CFG (09 R371). -/
def XLT_COH_CFG.reg : Reg := ⟨0x01100400, 64, 32, 1, 0, 1, 0, 0xa01f400000000⟩
def XLT_COH_CFG.DSPACE : Fld := ⟨XLT_COH_CFG.reg, 0, 16⟩
def XLT_COH_CFG.PART : Fld := ⟨XLT_COH_CFG.reg, 16, 4⟩
def XLT_COH_CFG.NMEMB : Fld := ⟨XLT_COH_CFG.reg, 20, 9⟩
def XLT_COH_CFG.SNOOP_TMO : Fld := ⟨XLT_COH_CFG.reg, 32, 16⟩
def XLT_COH_CFG.BACKOFF : Fld := ⟨XLT_COH_CFG.reg, 48, 8⟩

/-- XLT_COH_CTL (09 R371). -/
def XLT_COH_CTL.reg : Reg := ⟨0x01100408, 64, 32, 1, 0, 1, 0, 0⟩
def XLT_COH_CTL.EN : Fld := ⟨XLT_COH_CTL.reg, 0, 1⟩
def XLT_COH_CTL.STATE : Fld := ⟨XLT_COH_CTL.reg, 1, 3⟩
def XLT_COH_CTL.CAUSE : Fld := ⟨XLT_COH_CTL.reg, 4, 4⟩
def XLT_COH_CTL.GEN : Fld := ⟨XLT_COH_CTL.reg, 8, 8⟩
def XLT_COH_CTL.FAILED : Fld := ⟨XLT_COH_CTL.reg, 16, 8⟩
def XLT_COH_CTL.FAILED_V : Fld := ⟨XLT_COH_CTL.reg, 24, 1⟩

/-- XLT_COH_STAT (09 R371). -/
def XLT_COH_STAT.reg : Reg := ⟨0x01100410, 64, 32, 1, 0, 1, 0, 0⟩
def XLT_COH_STAT.POISONED : Fld := ⟨XLT_COH_STAT.reg, 0, 32⟩
def XLT_COH_STAT.ENTRIES : Fld := ⟨XLT_COH_STAT.reg, 32, 32⟩

/-- XLT_COH_CNT (09 R371). -/
def XLT_COH_CNT.reg : Reg := ⟨0x01100418, 64, 32, 1, 0, 1, 0, 0⟩
def XLT_COH_CNT.NAKS : Fld := ⟨XLT_COH_CNT.reg, 0, 32⟩
def XLT_COH_CNT.STRAY : Fld := ⟨XLT_COH_CNT.reg, 32, 16⟩
def XLT_COH_CNT.DIR_RECALLS : Fld := ⟨XLT_COH_CNT.reg, 48, 16⟩

/-- XLT_COH_MEMBER (09 R372). -/
def XLT_COH_MEMBER.reg : Reg := ⟨0x01120000, 64, 512, 64, 8, 1, 0, 0⟩
def XLT_COH_MEMBER.NODE0 : Fld := ⟨XLT_COH_MEMBER.reg, 0, 15⟩
def XLT_COH_MEMBER.NODE1 : Fld := ⟨XLT_COH_MEMBER.reg, 16, 15⟩
def XLT_COH_MEMBER.NODE2 : Fld := ⟨XLT_COH_MEMBER.reg, 32, 15⟩
def XLT_COH_MEMBER.NODE3 : Fld := ⟨XLT_COH_MEMBER.reg, 48, 15⟩
def XLT_COH_MEMBER.VALID0 : Fld := ⟨XLT_COH_MEMBER.reg, 15, 1⟩
def XLT_COH_MEMBER.VALID1 : Fld := ⟨XLT_COH_MEMBER.reg, 31, 1⟩
def XLT_COH_MEMBER.VALID2 : Fld := ⟨XLT_COH_MEMBER.reg, 47, 1⟩
def XLT_COH_MEMBER.VALID3 : Fld := ⟨XLT_COH_MEMBER.reg, 63, 1⟩

/-- PORT_CTL (10 R413). -/
def PORT_CTL.reg : Reg := ⟨0x00800000, 32, 65536, 1, 0, 1, 0, 0x6001⟩
def PORT_CTL.ENABLE : Fld := ⟨PORT_CTL.reg, 0, 1⟩
def PORT_CTL.REARM : Fld := ⟨PORT_CTL.reg, 1, 1⟩
def PORT_CTL.RETRAIN : Fld := ⟨PORT_CTL.reg, 2, 1⟩
def PORT_CTL.LPI_EN : Fld := ⟨PORT_CTL.reg, 3, 1⟩
def PORT_CTL.MIN_WIDTH : Fld := ⟨PORT_CTL.reg, 4, 2⟩
def PORT_CTL.PRESET : Fld := ⟨PORT_CTL.reg, 8, 4⟩
def PORT_CTL.ALT_PRESET : Fld := ⟨PORT_CTL.reg, 12, 4⟩

/-- PORT_LINK_CFG (10 R413). -/
def PORT_LINK_CFG.reg : Reg := ⟨0x00800008, 32, 65536, 1, 0, 1, 0, 0xa4001e64001043⟩
def PORT_LINK_CFG.REPLAY_MULT : Fld := ⟨PORT_LINK_CFG.reg, 0, 4⟩
def PORT_LINK_CFG.REPLAY_MAX : Fld := ⟨PORT_LINK_CFG.reg, 4, 4⟩
def PORT_LINK_CFG.DOWN_THRESH : Fld := ⟨PORT_LINK_CFG.reg, 8, 16⟩
def PORT_LINK_CFG.TRAIN_TMO : Fld := ⟨PORT_LINK_CFG.reg, 24, 8⟩
def PORT_LINK_CFG.ROT_PERIOD : Fld := ⟨PORT_LINK_CFG.reg, 32, 12⟩
def PORT_LINK_CFG.HANDOFF_CW : Fld := ⟨PORT_LINK_CFG.reg, 44, 8⟩
def PORT_LINK_CFG.LPI_IDLE : Fld := ⟨PORT_LINK_CFG.reg, 52, 8⟩

/-- PORT_CREDIT_H (10 R413). -/
def PORT_CREDIT_H.reg : Reg := ⟨0x00800010, 32, 65536, 1, 0, 1, 0, 0x818202040203010⟩
def PORT_CREDIT_H.HSHARE0 : Fld := ⟨PORT_CREDIT_H.reg, 0, 8⟩
def PORT_CREDIT_H.HSHARE1 : Fld := ⟨PORT_CREDIT_H.reg, 8, 8⟩
def PORT_CREDIT_H.HSHARE2 : Fld := ⟨PORT_CREDIT_H.reg, 16, 8⟩
def PORT_CREDIT_H.HSHARE3 : Fld := ⟨PORT_CREDIT_H.reg, 24, 8⟩
def PORT_CREDIT_H.HSHARE4 : Fld := ⟨PORT_CREDIT_H.reg, 32, 8⟩
def PORT_CREDIT_H.HSHARE5 : Fld := ⟨PORT_CREDIT_H.reg, 40, 8⟩
def PORT_CREDIT_H.HSHARE6 : Fld := ⟨PORT_CREDIT_H.reg, 48, 8⟩
def PORT_CREDIT_H.HSHARE7 : Fld := ⟨PORT_CREDIT_H.reg, 56, 8⟩

/-- PORT_CREDIT_D (10 R413). -/
def PORT_CREDIT_D.reg : Reg := ⟨0x00800018, 32, 65536, 1, 0, 1, 0, 0x8086464041c0404⟩
def PORT_CREDIT_D.DSHARE0 : Fld := ⟨PORT_CREDIT_D.reg, 0, 8⟩
def PORT_CREDIT_D.DSHARE1 : Fld := ⟨PORT_CREDIT_D.reg, 8, 8⟩
def PORT_CREDIT_D.DSHARE2 : Fld := ⟨PORT_CREDIT_D.reg, 16, 8⟩
def PORT_CREDIT_D.DSHARE3 : Fld := ⟨PORT_CREDIT_D.reg, 24, 8⟩
def PORT_CREDIT_D.DSHARE4 : Fld := ⟨PORT_CREDIT_D.reg, 32, 8⟩
def PORT_CREDIT_D.DSHARE5 : Fld := ⟨PORT_CREDIT_D.reg, 40, 8⟩
def PORT_CREDIT_D.DSHARE6 : Fld := ⟨PORT_CREDIT_D.reg, 48, 8⟩
def PORT_CREDIT_D.DSHARE7 : Fld := ⟨PORT_CREDIT_D.reg, 56, 8⟩

/-- PORT_STATUS (10 R413). -/
def PORT_STATUS.reg : Reg := ⟨0x00800020, 32, 65536, 1, 0, 1, 0, 0⟩
def PORT_STATUS.STATE : Fld := ⟨PORT_STATUS.reg, 0, 4⟩
def PORT_STATUS.WIDTH : Fld := ⟨PORT_STATUS.reg, 4, 2⟩
def PORT_STATUS.RATE : Fld := ⟨PORT_STATUS.reg, 6, 1⟩
def PORT_STATUS.TX_SPARE_OK : Fld := ⟨PORT_STATUS.reg, 7, 1⟩
def PORT_STATUS.RX_SPARE_OK : Fld := ⟨PORT_STATUS.reg, 8, 1⟩
def PORT_STATUS.DOWN_CAUSE : Fld := ⟨PORT_STATUS.reg, 9, 3⟩
def PORT_STATUS.REFUSE_CAUSE : Fld := ⟨PORT_STATUS.reg, 12, 4⟩
def PORT_STATUS.STRIKES : Fld := ⟨PORT_STATUS.reg, 16, 2⟩
def PORT_STATUS.LIMIT : Fld := ⟨PORT_STATUS.reg, 32, 16⟩
def PORT_STATUS.WIN_COUNT : Fld := ⟨PORT_STATUS.reg, 48, 16⟩

/-- PORT_PARTNER (10 R413). -/
def PORT_PARTNER.reg : Reg := ⟨0x00800028, 32, 65536, 1, 0, 1, 0, 0⟩
def PORT_PARTNER.NODE : Fld := ⟨PORT_PARTNER.reg, 0, 15⟩
def PORT_PARTNER.MAX_LEN : Fld := ⟨PORT_PARTNER.reg, 16, 7⟩
def PORT_PARTNER.GCM : Fld := ⟨PORT_PARTNER.reg, 23, 1⟩
def PORT_PARTNER.GEN : Fld := ⟨PORT_PARTNER.reg, 24, 4⟩
def PORT_PARTNER.TURN : Fld := ⟨PORT_PARTNER.reg, 32, 16⟩

/-- PORT_FIBRE (10 R413). -/
def PORT_FIBRE.reg : Reg := ⟨0x00800030, 32, 65536, 1, 0, 1, 0, 0x31000000000000⟩
def PORT_FIBRE.LENGTH : Fld := ⟨PORT_FIBRE.reg, 0, 18⟩
def PORT_FIBRE.RTT : Fld := ⟨PORT_FIBRE.reg, 24, 24⟩
def PORT_FIBRE.DLY_PER_M : Fld := ⟨PORT_FIBRE.reg, 48, 8⟩

/-- PORT_LANE_MAP (10 R413). -/
def PORT_LANE_MAP.reg : Reg := ⟨0x00800038, 32, 65536, 1, 0, 1, 0, 0⟩
def PORT_LANE_MAP.TX_MAP : Fld := ⟨PORT_LANE_MAP.reg, 0, 32⟩
def PORT_LANE_MAP.RX_MAP : Fld := ⟨PORT_LANE_MAP.reg, 32, 32⟩

/-- PORT_LANE_STAT (10 R413). -/
def PORT_LANE_STAT.reg : Reg := ⟨0x00800040, 32, 65536, 1, 0, 1, 0, 255⟩
def PORT_LANE_STAT.TX_SPARE : Fld := ⟨PORT_LANE_STAT.reg, 0, 4⟩
def PORT_LANE_STAT.RX_SPARE : Fld := ⟨PORT_LANE_STAT.reg, 4, 4⟩
def PORT_LANE_STAT.TX_FAIL : Fld := ⟨PORT_LANE_STAT.reg, 8, 9⟩
def PORT_LANE_STAT.RX_FAIL : Fld := ⟨PORT_LANE_STAT.reg, 17, 9⟩
def PORT_LANE_STAT.ROTATIONS : Fld := ⟨PORT_LANE_STAT.reg, 32, 16⟩
def PORT_LANE_STAT.ROT_ABORTS : Fld := ⟨PORT_LANE_STAT.reg, 48, 16⟩

/-- PORT_LASER (10 R413). -/
def PORT_LASER.reg : Reg := ⟨0x00800048, 32, 65536, 1, 0, 1, 0, 0x2800000000⟩
def PORT_LASER.LOW : Fld := ⟨PORT_LASER.reg, 0, 16⟩
def PORT_LASER.LOW_LANE : Fld := ⟨PORT_LASER.reg, 16, 4⟩
def PORT_LASER.LASER_MIN : Fld := ⟨PORT_LASER.reg, 32, 16⟩

/-- PORT_ERR_CNT (10 R413). -/
def PORT_ERR_CNT.reg : Reg := ⟨0x00800080, 32, 65536, 1, 0, 1, 0, 0⟩
def PORT_ERR_CNT.CW_CORR : Fld := ⟨PORT_ERR_CNT.reg, 0, 32⟩
def PORT_ERR_CNT.CW_UNCORR : Fld := ⟨PORT_ERR_CNT.reg, 32, 16⟩
def PORT_ERR_CNT.FLIT_BAD : Fld := ⟨PORT_ERR_CNT.reg, 48, 16⟩

/-- PORT_LINK_CNT (10 R413). -/
def PORT_LINK_CNT.reg : Reg := ⟨0x00800088, 32, 65536, 1, 0, 1, 0, 0⟩
def PORT_LINK_CNT.REPLAYS : Fld := ⟨PORT_LINK_CNT.reg, 0, 16⟩
def PORT_LINK_CNT.NAKS : Fld := ⟨PORT_LINK_CNT.reg, 16, 16⟩
def PORT_LINK_CNT.RETRAINS : Fld := ⟨PORT_LINK_CNT.reg, 32, 16⟩
def PORT_LINK_CNT.RET_BAD : Fld := ⟨PORT_LINK_CNT.reg, 48, 16⟩

/-- PORT_CNT_CLR (10 R413). -/
def PORT_CNT_CLR.reg : Reg := ⟨0x00800090, 32, 65536, 1, 0, 1, 0, 0⟩
def PORT_CNT_CLR.CLEAR : Fld := ⟨PORT_CNT_CLR.reg, 0, 1⟩

/-- PORT_CREDIT_AUDIT (10 R413). -/
def PORT_CREDIT_AUDIT.reg : Reg := ⟨0x008000C0, 32, 65536, 8, 8, 1, 0, 0⟩
def PORT_CREDIT_AUDIT.HDR_SHORT : Fld := ⟨PORT_CREDIT_AUDIT.reg, 0, 16⟩
def PORT_CREDIT_AUDIT.DATA_SHORT : Fld := ⟨PORT_CREDIT_AUDIT.reg, 16, 16⟩

/-- XRD_NODE (11 R454). -/
def XRD_NODE.reg : Reg := ⟨0x00A00000, 1, 0, 1, 0, 1, 0, 0⟩
def XRD_NODE.NODE_ID : Fld := ⟨XRD_NODE.reg, 0, 15⟩

/-- XRD_CFG (11 R454). -/
def XRD_CFG.reg : Reg := ⟨0x00A00008, 1, 0, 1, 0, 1, 0, 0x6406403e8003220⟩
def XRD_CFG.HOP_LIMIT : Fld := ⟨XRD_CFG.reg, 0, 6⟩
def XRD_CFG.E2E_TMO : Fld := ⟨XRD_CFG.reg, 8, 16⟩
def XRD_CFG.EPOCH_HOLD : Fld := ⟨XRD_CFG.reg, 24, 16⟩
def XRD_CFG.LEAVE_HOLD : Fld := ⟨XRD_CFG.reg, 40, 12⟩
def XRD_CFG.DRAIN_TMO : Fld := ⟨XRD_CFG.reg, 52, 12⟩

/-- XRD_CFG2 (11 R454). -/
def XRD_CFG2.reg : Reg := ⟨0x00A00010, 1, 0, 1, 0, 1, 0, 0x271007d0⟩
def XRD_CFG2.E2E_HOLD : Fld := ⟨XRD_CFG2.reg, 0, 16⟩
def XRD_CFG2.POOL_RETRY : Fld := ⟨XRD_CFG2.reg, 16, 16⟩

/-- XRD_TRUST (11 R454). -/
def XRD_TRUST.reg : Reg := ⟨0x00A00018, 1, 0, 1, 0, 1, 0, 0xffffffff⟩
def XRD_TRUST.TRUST : Fld := ⟨XRD_TRUST.reg, 0, 32⟩

/-- XRD_EPOCH (11 R454). -/
def XRD_EPOCH.reg : Reg := ⟨0x00A00020, 1, 0, 1, 0, 1, 0, 4⟩
def XRD_EPOCH.CUR : Fld := ⟨XRD_EPOCH.reg, 0, 1⟩
def XRD_EPOCH.PENDING : Fld := ⟨XRD_EPOCH.reg, 1, 1⟩
def XRD_EPOCH.IDLE : Fld := ⟨XRD_EPOCH.reg, 2, 1⟩
def XRD_EPOCH.DRAINING : Fld := ⟨XRD_EPOCH.reg, 3, 1⟩
def XRD_EPOCH.OLD_PKTS : Fld := ⟨XRD_EPOCH.reg, 32, 32⟩

/-- XRD_COMMIT_AT (11 R454). -/
def XRD_COMMIT_AT.reg : Reg := ⟨0x00A00028, 1, 0, 1, 0, 1, 0, 0⟩
def XRD_COMMIT_AT.AT : Fld := ⟨XRD_COMMIT_AT.reg, 0, 64⟩

/-- XRD_TIME (11 R454). -/
def XRD_TIME.reg : Reg := ⟨0x00A00030, 1, 0, 1, 0, 1, 0, 0⟩
def XRD_TIME.TIME : Fld := ⟨XRD_TIME.reg, 0, 64⟩

/-- XRD_TIME_CFG (11 R454). -/
def XRD_TIME_CFG.reg : Reg := ⟨0x00A00038, 1, 0, 1, 0, 1, 0, 0⟩
def XRD_TIME_CFG.MASTER : Fld := ⟨XRD_TIME_CFG.reg, 0, 1⟩
def XRD_TIME_CFG.PARENT : Fld := ⟨XRD_TIME_CFG.reg, 1, 5⟩
def XRD_TIME_CFG.SYNCED : Fld := ⟨XRD_TIME_CFG.reg, 6, 1⟩
def XRD_TIME_CFG.CHILD : Fld := ⟨XRD_TIME_CFG.reg, 8, 32⟩
def XRD_TIME_CFG.LAST_ERR : Fld := ⟨XRD_TIME_CFG.reg, 40, 16⟩

/-- XRD_CNT_CLR (11 R454). -/
def XRD_CNT_CLR.reg : Reg := ⟨0x00A00040, 1, 0, 1, 0, 1, 0, 0⟩
def XRD_CNT_CLR.CLEAR : Fld := ⟨XRD_CNT_CLR.reg, 0, 1⟩

/-- XRD_RETX_STAT (11 R454). -/
def XRD_RETX_STAT.reg : Reg := ⟨0x00A00048, 1, 0, 1, 0, 1, 0, 0⟩
def XRD_RETX_STAT.CACHE_HITS : Fld := ⟨XRD_RETX_STAT.reg, 0, 32⟩
def XRD_RETX_STAT.CACHE_FULL : Fld := ⟨XRD_RETX_STAT.reg, 32, 16⟩
def XRD_RETX_STAT.DB_STALE : Fld := ⟨XRD_RETX_STAT.reg, 48, 16⟩

/-- XRD_ORIG_CNT (11 R454). -/
def XRD_ORIG_CNT.reg : Reg := ⟨0x00A00050, 1, 0, 1, 0, 1, 0, 0⟩
def XRD_ORIG_CNT.ORIG_NO_ROUTE : Fld := ⟨XRD_ORIG_CNT.reg, 0, 32⟩

/-- XRD_PORT_CNT (11 R454). -/
def XRD_PORT_CNT.reg : Reg := ⟨0x00A01000, 32, 16, 1, 0, 1, 0, 0⟩
def XRD_PORT_CNT.ARRIVAL : Fld := ⟨XRD_PORT_CNT.reg, 0, 16⟩
def XRD_PORT_CNT.NO_ROUTE : Fld := ⟨XRD_PORT_CNT.reg, 16, 16⟩
def XRD_PORT_CNT.STALE : Fld := ⟨XRD_PORT_CNT.reg, 32, 16⟩
def XRD_PORT_CNT.HOPS_DROP : Fld := ⟨XRD_PORT_CNT.reg, 48, 16⟩

/-- XRD_PORT_CNT2 (11 R454). -/
def XRD_PORT_CNT2.reg : Reg := ⟨0x00A01008, 32, 16, 1, 0, 1, 0, 0⟩
def XRD_PORT_CNT2.TOO_LONG : Fld := ⟨XRD_PORT_CNT2.reg, 0, 16⟩
def XRD_PORT_CNT2.LOST : Fld := ⟨XRD_PORT_CNT2.reg, 16, 16⟩
def XRD_PORT_CNT2.STRAY : Fld := ⟨XRD_PORT_CNT2.reg, 32, 16⟩
def XRD_PORT_CNT2.DRAIN_DROP : Fld := ⟨XRD_PORT_CNT2.reg, 48, 16⟩

/-- QOS_PORT_CFG (12 R481). -/
def QOS_PORT_CFG.reg : Reg := ⟨0x01300000, 32, 2048, 1, 0, 1, 0, 0x1000a02⟩
def QOS_PORT_CFG.COLOUR_AWARE : Fld := ⟨QOS_PORT_CFG.reg, 0, 1⟩
def QOS_PORT_CFG.YELLOW_RETX : Fld := ⟨QOS_PORT_CFG.reg, 1, 1⟩
def QOS_PORT_CFG.YELLOW_MCAST : Fld := ⟨QOS_PORT_CFG.reg, 2, 1⟩
def QOS_PORT_CFG.GB_FORCE : Fld := ⟨QOS_PORT_CFG.reg, 3, 1⟩
def QOS_PORT_CFG.GB_HOLD : Fld := ⟨QOS_PORT_CFG.reg, 8, 8⟩
def QOS_PORT_CFG.YELLOW_DEPTH : Fld := ⟨QOS_PORT_CFG.reg, 16, 16⟩

/-- QOS_PORT_QUANT (12 R481). -/
def QOS_PORT_QUANT.reg : Reg := ⟨0x01300008, 32, 2048, 1, 0, 1, 0, 0x40404040404040⟩
def QOS_PORT_QUANT.QUANT0 : Fld := ⟨QOS_PORT_QUANT.reg, 0, 8⟩
def QOS_PORT_QUANT.QUANT1 : Fld := ⟨QOS_PORT_QUANT.reg, 8, 8⟩
def QOS_PORT_QUANT.QUANT2 : Fld := ⟨QOS_PORT_QUANT.reg, 16, 8⟩
def QOS_PORT_QUANT.QUANT3 : Fld := ⟨QOS_PORT_QUANT.reg, 24, 8⟩
def QOS_PORT_QUANT.QUANT4 : Fld := ⟨QOS_PORT_QUANT.reg, 32, 8⟩
def QOS_PORT_QUANT.QUANT5 : Fld := ⟨QOS_PORT_QUANT.reg, 40, 8⟩
def QOS_PORT_QUANT.QUANT6 : Fld := ⟨QOS_PORT_QUANT.reg, 48, 8⟩

/-- QOS_SHAPER (12 R481). -/
def QOS_SHAPER.reg : Reg := ⟨0x01300040, 32, 2048, 7, 8, 1, 0, 0x1000000⟩
def QOS_SHAPER.IDLE_SLOPE : Fld := ⟨QOS_SHAPER.reg, 0, 16⟩
def QOS_SHAPER.HI_CREDIT : Fld := ⟨QOS_SHAPER.reg, 16, 16⟩

/-- QOS_METER_LO (12 R481). -/
def QOS_METER_LO.reg : Reg := ⟨0x01300080, 32, 2048, 7, 16, 1, 0, 0⟩
def QOS_METER_LO.CIR : Fld := ⟨QOS_METER_LO.reg, 0, 16⟩
def QOS_METER_LO.PIR : Fld := ⟨QOS_METER_LO.reg, 16, 16⟩
def QOS_METER_LO.EN : Fld := ⟨QOS_METER_LO.reg, 32, 1⟩

/-- QOS_METER_HI (12 R481). -/
def QOS_METER_HI.reg : Reg := ⟨0x01300088, 32, 2048, 7, 16, 1, 0, 0x1000100⟩
def QOS_METER_HI.CBS : Fld := ⟨QOS_METER_HI.reg, 0, 16⟩
def QOS_METER_HI.PBS : Fld := ⟨QOS_METER_HI.reg, 16, 16⟩

/-- QOS_METER_CNT (12 R481). -/
def QOS_METER_CNT.reg : Reg := ⟨0x01300100, 32, 2048, 7, 8, 1, 0, 0⟩
def QOS_METER_CNT.YELLOW : Fld := ⟨QOS_METER_CNT.reg, 0, 32⟩
def QOS_METER_CNT.RED : Fld := ⟨QOS_METER_CNT.reg, 32, 32⟩

/-- QOS_PORT_DROP (12 R481). -/
def QOS_PORT_DROP.reg : Reg := ⟨0x01300140, 32, 2048, 1, 0, 1, 0, 0⟩
def QOS_PORT_DROP.YDROP : Fld := ⟨QOS_PORT_DROP.reg, 0, 32⟩
def QOS_PORT_DROP.GB_OVERRUN : Fld := ⟨QOS_PORT_DROP.reg, 32, 16⟩

/-- QOS_GATE_CTL (12 R481). -/
def QOS_GATE_CTL.reg : Reg := ⟨0x01300180, 32, 2048, 1, 0, 1, 0, 20⟩
def QOS_GATE_CTL.CUR : Fld := ⟨QOS_GATE_CTL.reg, 0, 1⟩
def QOS_GATE_CTL.PENDING : Fld := ⟨QOS_GATE_CTL.reg, 1, 1⟩
def QOS_GATE_CTL.GUARD : Fld := ⟨QOS_GATE_CTL.reg, 2, 1⟩
def QOS_GATE_CTL.GUARD_CAUSE : Fld := ⟨QOS_GATE_CTL.reg, 3, 3⟩
def QOS_GATE_CTL.COMMIT : Fld := ⟨QOS_GATE_CTL.reg, 6, 1⟩
def QOS_GATE_CTL.COMMIT_ERR : Fld := ⟨QOS_GATE_CTL.reg, 7, 1⟩
def QOS_GATE_CTL.NENT0 : Fld := ⟨QOS_GATE_CTL.reg, 8, 7⟩
def QOS_GATE_CTL.NENT1 : Fld := ⟨QOS_GATE_CTL.reg, 16, 7⟩

/-- QOS_GATE_AT (12 R481). -/
def QOS_GATE_AT.reg : Reg := ⟨0x01300188, 32, 2048, 1, 0, 1, 0, 0⟩
def QOS_GATE_AT.AT : Fld := ⟨QOS_GATE_AT.reg, 0, 64⟩

/-- QOS_GATE_ENT (12 R481). -/
def QOS_GATE_ENT.reg : Reg := ⟨0x01300200, 32, 2048, 2, 512, 64, 8, 0⟩
def QOS_GATE_ENT.DURATION : Fld := ⟨QOS_GATE_ENT.reg, 0, 32⟩
def QOS_GATE_ENT.OPEN : Fld := ⟨QOS_GATE_ENT.reg, 32, 7⟩

/-- QOS_PORT_HSEL (12 R481). -/
def QOS_PORT_HSEL.reg : Reg := ⟨0x01300600, 32, 2048, 1, 0, 1, 0, 0xa00⟩
def QOS_PORT_HSEL.TC : Fld := ⟨QOS_PORT_HSEL.reg, 0, 3⟩
def QOS_PORT_HSEL.FREEZE : Fld := ⟨QOS_PORT_HSEL.reg, 3, 1⟩
def QOS_PORT_HSEL.SHIFT : Fld := ⟨QOS_PORT_HSEL.reg, 8, 5⟩
def QOS_PORT_HSEL.CLEAR : Fld := ⟨QOS_PORT_HSEL.reg, 13, 1⟩

/-- QOS_PORT_HIST (12 R481). -/
def QOS_PORT_HIST.reg : Reg := ⟨0x01300680, 32, 2048, 16, 8, 1, 0, 0⟩
def QOS_PORT_HIST.DEPTH : Fld := ⟨QOS_PORT_HIST.reg, 0, 32⟩
def QOS_PORT_HIST.DELAY : Fld := ⟨QOS_PORT_HIST.reg, 32, 32⟩

/-- QOS_CFG (12 R482). -/
def QOS_CFG.reg : Reg := ⟨0x01310000, 1, 0, 1, 0, 1, 0, 0xa0100⟩
def QOS_CFG.REG_BURST : Fld := ⟨QOS_CFG.reg, 0, 16⟩
def QOS_CFG.ADAPT_PERIOD : Fld := ⟨QOS_CFG.reg, 16, 8⟩

/-- QOS_KIND_Q (12 R482). -/
def QOS_KIND_Q.reg : Reg := ⟨0x01310008, 1, 0, 1, 0, 1, 0, 0x10101010⟩
def QOS_KIND_Q.KIND_Q0 : Fld := ⟨QOS_KIND_Q.reg, 0, 8⟩
def QOS_KIND_Q.KIND_Q1 : Fld := ⟨QOS_KIND_Q.reg, 8, 8⟩
def QOS_KIND_Q.KIND_Q2 : Fld := ⟨QOS_KIND_Q.reg, 16, 8⟩
def QOS_KIND_Q.KIND_Q3 : Fld := ⟨QOS_KIND_Q.reg, 24, 8⟩

/-- QOS_FLOW_Q (12 R482). -/
def QOS_FLOW_Q.reg : Reg := ⟨0x01310100, 17, 8, 1, 0, 1, 0, 64⟩
def QOS_FLOW_Q.FLOW_Q : Fld := ⟨QOS_FLOW_Q.reg, 0, 8⟩

/-- QOS_REG (12 R482). -/
def QOS_REG.reg : Reg := ⟨0x01310200, 17, 8, 1, 0, 1, 0, 0x20000⟩
def QOS_REG.MIN : Fld := ⟨QOS_REG.reg, 0, 9⟩
def QOS_REG.MAX : Fld := ⟨QOS_REG.reg, 9, 9⟩
def QOS_REG.MIN_CEIL : Fld := ⟨QOS_REG.reg, 18, 9⟩
def QOS_REG.ADAPT : Fld := ⟨QOS_REG.reg, 27, 1⟩
def QOS_REG.EFF_MIN : Fld := ⟨QOS_REG.reg, 32, 9⟩

/-- QOS_CH_STAT (12 R483). -/
def QOS_CH_STAT.reg : Reg := ⟨0x01320000, 32, 1024, 1, 0, 1, 0, 0⟩
def QOS_CH_STAT.STOLEN : Fld := ⟨QOS_CH_STAT.reg, 0, 32⟩
def QOS_CH_STAT.SCRUB : Fld := ⟨QOS_CH_STAT.reg, 32, 32⟩

/-- QOS_CH_HSEL (12 R483). -/
def QOS_CH_HSEL.reg : Reg := ⟨0x01320008, 32, 1024, 1, 0, 1, 0, 0xa00⟩
def QOS_CH_HSEL.PART : Fld := ⟨QOS_CH_HSEL.reg, 0, 5⟩
def QOS_CH_HSEL.KIND : Fld := ⟨QOS_CH_HSEL.reg, 5, 2⟩
def QOS_CH_HSEL.FREEZE : Fld := ⟨QOS_CH_HSEL.reg, 7, 1⟩
def QOS_CH_HSEL.SHIFT : Fld := ⟨QOS_CH_HSEL.reg, 8, 5⟩
def QOS_CH_HSEL.CLEAR : Fld := ⟨QOS_CH_HSEL.reg, 13, 1⟩

/-- QOS_CH_HIST (12 R483). -/
def QOS_CH_HIST.reg : Reg := ⟨0x01320080, 32, 1024, 16, 8, 1, 0, 0⟩
def QOS_CH_HIST.DEPTH : Fld := ⟨QOS_CH_HIST.reg, 0, 32⟩
def QOS_CH_HIST.DELAY : Fld := ⟨QOS_CH_HIST.reg, 32, 32⟩

/-- QOS_CH_USE (12 R483). -/
def QOS_CH_USE.reg : Reg := ⟨0x01320100, 32, 1024, 17, 8, 1, 0, 0⟩
def QOS_CH_USE.USED : Fld := ⟨QOS_CH_USE.reg, 0, 32⟩
def QOS_CH_USE.THROTTLED : Fld := ⟨QOS_CH_USE.reg, 32, 32⟩

/-- DDR_CTL (13 R516). -/
def DDR_CTL.reg : Reg := ⟨0x00E00000, 32, 65536, 1, 0, 1, 0, 1⟩
def DDR_CTL.ENABLE : Fld := ⟨DDR_CTL.reg, 0, 1⟩
def DDR_CTL.REARM : Fld := ⟨DDR_CTL.reg, 1, 1⟩
def DDR_CTL.MARK_CLR : Fld := ⟨DDR_CTL.reg, 2, 1⟩
def DDR_CTL.STATE : Fld := ⟨DDR_CTL.reg, 8, 3⟩
def DDR_CTL.LOSS_CAUSE : Fld := ⟨DDR_CTL.reg, 11, 4⟩
def DDR_CTL.RATE : Fld := ⟨DDR_CTL.reg, 16, 8⟩
def DDR_CTL.DIMMS : Fld := ⟨DDR_CTL.reg, 24, 2⟩
def DDR_CTL.KIND : Fld := ⟨DDR_CTL.reg, 26, 2⟩
def DDR_CTL.RANKS : Fld := ⟨DDR_CTL.reg, 28, 3⟩
def DDR_CTL.CAP_G : Fld := ⟨DDR_CTL.reg, 32, 16⟩
def DDR_CTL.STEPDOWN : Fld := ⟨DDR_CTL.reg, 48, 4⟩

/-- DDR_CFG (13 R516). -/
def DDR_CFG.reg : Reg := ⟨0x00E00008, 32, 65536, 1, 0, 1, 0, 0xa7d032096128⟩
def DDR_CFG.PAGE_IDLE : Fld := ⟨DDR_CFG.reg, 0, 8⟩
def DDR_CFG.REF_MODE : Fld := ⟨DDR_CFG.reg, 8, 1⟩
def DDR_CFG.REF_FLOOR : Fld := ⟨DDR_CFG.reg, 9, 2⟩
def DDR_CFG.REF_STOP : Fld := ⟨DDR_CFG.reg, 12, 12⟩
def DDR_CFG.RECAL_PERIOD : Fld := ⟨DDR_CFG.reg, 24, 8⟩
def DDR_CFG.QW_MAX : Fld := ⟨DDR_CFG.reg, 32, 12⟩
def DDR_CFG.RETRAIN_TMO : Fld := ⟨DDR_CFG.reg, 44, 8⟩

/-- DDR_THERM (13 R516). -/
def DDR_THERM.reg : Reg := ⟨0x00E00010, 32, 65536, 1, 0, 1, 0, 0x64695f⟩
def DDR_THERM.TEMP_WARN : Fld := ⟨DDR_THERM.reg, 0, 8⟩
def DDR_THERM.TEMP_HOLD : Fld := ⟨DDR_THERM.reg, 8, 8⟩
def DDR_THERM.TEMP_PERIOD : Fld := ⟨DDR_THERM.reg, 16, 8⟩
def DDR_THERM.TEMP : Fld := ⟨DDR_THERM.reg, 32, 8⟩
def DDR_THERM.REF_FACTOR : Fld := ⟨DDR_THERM.reg, 40, 2⟩
def DDR_THERM.TEMP_UNKNOWN : Fld := ⟨DDR_THERM.reg, 42, 1⟩

/-- DDR_ECC_CFG (13 R516). -/
def DDR_ECC_CFG.reg : Reg := ⟨0x00E00018, 32, 65536, 1, 0, 1, 0, 0x100103c03e8⟩
def DDR_ECC_CFG.CE_THRESH : Fld := ⟨DDR_ECC_CFG.reg, 0, 16⟩
def DDR_ECC_CFG.CE_WINDOW : Fld := ⟨DDR_ECC_CFG.reg, 16, 8⟩
def DDR_ECC_CFG.MARK_THRESH : Fld := ⟨DDR_ECC_CFG.reg, 24, 8⟩
def DDR_ECC_CFG.UE_LOSS : Fld := ⟨DDR_ECC_CFG.reg, 32, 16⟩

/-- DDR_SCRUB (13 R516). -/
def DDR_SCRUB.reg : Reg := ⟨0x00E00020, 32, 65536, 1, 0, 1, 0, 0x151801001⟩
def DDR_SCRUB.SCRUB_EN : Fld := ⟨DDR_SCRUB.reg, 0, 1⟩
def DDR_SCRUB.SCRUB_RATE : Fld := ⟨DDR_SCRUB.reg, 8, 8⟩
def DDR_SCRUB.LAP_MAX : Fld := ⟨DDR_SCRUB.reg, 16, 32⟩

/-- DDR_SCRUB_STAT (13 R516). -/
def DDR_SCRUB_STAT.reg : Reg := ⟨0x00E00028, 32, 65536, 1, 0, 1, 0, 0⟩
def DDR_SCRUB_STAT.LAP_LAST : Fld := ⟨DDR_SCRUB_STAT.reg, 0, 32⟩
def DDR_SCRUB_STAT.PROGRESS : Fld := ⟨DDR_SCRUB_STAT.reg, 32, 7⟩
def DDR_SCRUB_STAT.SLOW : Fld := ⟨DDR_SCRUB_STAT.reg, 39, 1⟩
def DDR_SCRUB_STAT.LAPS : Fld := ⟨DDR_SCRUB_STAT.reg, 40, 24⟩

/-- DDR_ECC_CNT (13 R516). -/
def DDR_ECC_CNT.reg : Reg := ⟨0x00E00030, 32, 65536, 1, 0, 1, 0, 0⟩
def DDR_ECC_CNT.CE : Fld := ⟨DDR_ECC_CNT.reg, 0, 32⟩
def DDR_ECC_CNT.UE : Fld := ⟨DDR_ECC_CNT.reg, 32, 16⟩
def DDR_ECC_CNT.POISON_RD : Fld := ⟨DDR_ECC_CNT.reg, 48, 16⟩

/-- DDR_MARK (13 R516). -/
def DDR_MARK.reg : Reg := ⟨0x00E00038, 32, 65536, 1, 0, 1, 0, 0xffffffff⟩
def DDR_MARK.MARK : Fld := ⟨DDR_MARK.reg, 0, 32⟩

/-- DDR_LOAD (13 R516). -/
def DDR_LOAD.reg : Reg := ⟨0x00E00040, 32, 65536, 1, 0, 1, 0, 0⟩
def DDR_LOAD.RD_LINES : Fld := ⟨DDR_LOAD.reg, 0, 32⟩
def DDR_LOAD.WR_LINES : Fld := ⟨DDR_LOAD.reg, 32, 32⟩

/-- DDR_LOAD2 (13 R516). -/
def DDR_LOAD2.reg : Reg := ⟨0x00E00048, 32, 65536, 1, 0, 1, 0, 0⟩
def DDR_LOAD2.ACTS : Fld := ⟨DDR_LOAD2.reg, 0, 32⟩
def DDR_LOAD2.QWINDOWS : Fld := ⟨DDR_LOAD2.reg, 32, 16⟩
def DDR_LOAD2.RETRAINS : Fld := ⟨DDR_LOAD2.reg, 48, 16⟩

/-- DDR_INJECT (13 R516). -/
def DDR_INJECT.reg : Reg := ⟨0x00E00050, 32, 65536, 1, 0, 1, 0, 0⟩
def DDR_INJECT.ARM : Fld := ⟨DDR_INJECT.reg, 0, 1⟩
def DDR_INJECT.SUB : Fld := ⟨DDR_INJECT.reg, 1, 1⟩
def DDR_INJECT.RANK : Fld := ⟨DDR_INJECT.reg, 2, 2⟩
def DDR_INJECT.DEVICE : Fld := ⟨DDR_INJECT.reg, 4, 4⟩
def DDR_INJECT.SYMMASK : Fld := ⟨DDR_INJECT.reg, 8, 8⟩
def DDR_INJECT.XOR : Fld := ⟨DDR_INJECT.reg, 16, 8⟩
def DDR_INJECT.SECOND : Fld := ⟨DDR_INJECT.reg, 24, 1⟩
def DDR_INJECT.DEVICE2 : Fld := ⟨DDR_INJECT.reg, 28, 4⟩

/-- DDR_CNT_CLR (13 R516). -/
def DDR_CNT_CLR.reg : Reg := ⟨0x00E00058, 32, 65536, 1, 0, 1, 0, 0⟩
def DDR_CNT_CLR.CLEAR : Fld := ⟨DDR_CNT_CLR.reg, 0, 1⟩

/-- DDR_SPD (13 R516). -/
def DDR_SPD.reg : Reg := ⟨0x00E01000, 32, 65536, 256, 8, 1, 0, 0⟩
def DDR_SPD.DATA : Fld := ⟨DDR_SPD.reg, 0, 64⟩

/-- SEC_CFG (14 R544). -/
def SEC_CFG.reg : Reg := ⟨0x01200000, 1, 0, 1, 0, 1, 0, 0x400⟩
def SEC_CFG.AUTH_FAIL_MAX : Fld := ⟨SEC_CFG.reg, 0, 16⟩

/-- SEC_FW (14 R544). -/
def SEC_FW.reg : Reg := ⟨0x01200008, 1, 0, 1, 0, 1, 0, 0⟩
def SEC_FW.SVN_FUSED : Fld := ⟨SEC_FW.reg, 0, 7⟩
def SEC_FW.SVN_IMAGE : Fld := ⟨SEC_FW.reg, 8, 7⟩
def SEC_FW.FROM_HOST : Fld := ⟨SEC_FW.reg, 15, 1⟩
def SEC_FW.KEYSEL : Fld := ⟨SEC_FW.reg, 16, 2⟩
def SEC_FW.REVOKED : Fld := ⟨SEC_FW.reg, 18, 3⟩
def SEC_FW.ADVANCE : Fld := ⟨SEC_FW.reg, 24, 1⟩
def SEC_FW.REVOKE : Fld := ⟨SEC_FW.reg, 25, 3⟩

/-- SEC_DEBUG (14 R544). -/
def SEC_DEBUG.reg : Reg := ⟨0x01200010, 1, 0, 1, 0, 1, 0, 0⟩
def SEC_DEBUG.UNLOCKED : Fld := ⟨SEC_DEBUG.reg, 0, 1⟩
def SEC_DEBUG.SCAN : Fld := ⟨SEC_DEBUG.reg, 1, 1⟩
def SEC_DEBUG.ID_KEY : Fld := ⟨SEC_DEBUG.reg, 2, 1⟩

/-- SEC_STAT (14 R544). -/
def SEC_STAT.reg : Reg := ⟨0x01200018, 1, 0, 1, 0, 1, 0, 0⟩
def SEC_STAT.SESSIONS : Fld := ⟨SEC_STAT.reg, 0, 2⟩
def SEC_STAT.SLOTS_LIVE : Fld := ⟨SEC_STAT.reg, 16, 16⟩
def SEC_STAT.SLOTS_RETIRED : Fld := ⟨SEC_STAT.reg, 32, 16⟩

/-- SEC_KEY_SLOT (14 R545). -/
def SEC_KEY_SLOT.reg : Reg := ⟨0x01210000, 4096, 16, 1, 0, 1, 0, 0⟩
def SEC_KEY_SLOT.STATE : Fld := ⟨SEC_KEY_SLOT.reg, 0, 2⟩
def SEC_KEY_SLOT.RCAUSE : Fld := ⟨SEC_KEY_SLOT.reg, 2, 2⟩
def SEC_KEY_SLOT.PART : Fld := ⟨SEC_KEY_SLOT.reg, 4, 4⟩

/-- SEC_KEY_CNT (14 R545). -/
def SEC_KEY_CNT.reg : Reg := ⟨0x01210008, 4096, 16, 1, 0, 1, 0, 0⟩
def SEC_KEY_CNT.SEALED : Fld := ⟨SEC_KEY_CNT.reg, 0, 32⟩
def SEC_KEY_CNT.AUTH_FAIL : Fld := ⟨SEC_KEY_CNT.reg, 32, 16⟩

/-- PRT_SEC_CFG (14 R546). -/
def PRT_SEC_CFG.reg : Reg := ⟨0x01400A00, 16, 65536, 1, 0, 1, 0, 0⟩
def PRT_SEC_CFG.REQUIRE_KEY : Fld := ⟨PRT_SEC_CFG.reg, 0, 1⟩
def PRT_SEC_CFG.KEY_SET : Fld := ⟨PRT_SEC_CFG.reg, 1, 1⟩
def PRT_SEC_CFG.KEY_LOADED : Fld := ⟨PRT_SEC_CFG.reg, 2, 1⟩

/-- PRT_SEC_CNT (14 R546). -/
def PRT_SEC_CNT.reg : Reg := ⟨0x01400A08, 16, 65536, 1, 0, 1, 0, 0⟩
def PRT_SEC_CNT.MAC_FAIL : Fld := ⟨PRT_SEC_CNT.reg, 0, 16⟩
def PRT_SEC_CNT.ICV_FAIL : Fld := ⟨PRT_SEC_CNT.reg, 16, 16⟩
def PRT_SEC_CNT.KEY_DENIED : Fld := ⟨PRT_SEC_CNT.reg, 32, 16⟩

/-- PRT_SEC_CLR (14 R546). -/
def PRT_SEC_CLR.reg : Reg := ⟨0x01400A10, 16, 65536, 1, 0, 1, 0, 0⟩
def PRT_SEC_CLR.CLEAR : Fld := ⟨PRT_SEC_CLR.reg, 0, 1⟩

/-- FLT_CFG (15 R574). -/
def FLT_CFG.reg : Reg := ⟨0x00200000, 1, 0, 1, 0, 1, 0, 0x50064⟩
def FLT_CFG.UE_COALESCE : Fld := ⟨FLT_CFG.reg, 0, 16⟩
def FLT_CFG.WEDGE_MULT : Fld := ⟨FLT_CFG.reg, 16, 4⟩

/-- FLT_CELL_RETRY (15 R574). -/
def FLT_CELL_RETRY.reg : Reg := ⟨0x00200008, 1, 0, 1, 0, 1, 0, 3⟩
def FLT_CELL_RETRY.ATTEMPTS : Fld := ⟨FLT_CELL_RETRY.reg, 0, 3⟩

/-- FLT_INJECT (15 R574). -/
def FLT_INJECT.reg : Reg := ⟨0x00200010, 1, 0, 1, 0, 1, 0, 0⟩
def FLT_INJECT.SRC : Fld := ⟨FLT_INJECT.reg, 0, 21⟩
def FLT_INJECT.CLASS : Fld := ⟨FLT_INJECT.reg, 21, 2⟩
def FLT_INJECT.WIRE : Fld := ⟨FLT_INJECT.reg, 23, 1⟩
def FLT_INJECT.GO : Fld := ⟨FLT_INJECT.reg, 24, 1⟩

/-- FLT_FIRST (15 R574). -/
def FLT_FIRST.reg : Reg := ⟨0x00201000, 5, 256, 1, 0, 1, 0, 0⟩
def FLT_FIRST.SRC : Fld := ⟨FLT_FIRST.reg, 0, 21⟩
def FLT_FIRST.CLASS : Fld := ⟨FLT_FIRST.reg, 21, 2⟩
def FLT_FIRST.LEVEL : Fld := ⟨FLT_FIRST.reg, 23, 3⟩
def FLT_FIRST.PART : Fld := ⟨FLT_FIRST.reg, 26, 5⟩
def FLT_FIRST.VALID : Fld := ⟨FLT_FIRST.reg, 31, 1⟩
def FLT_FIRST.OVF : Fld := ⟨FLT_FIRST.reg, 32, 1⟩

/-- FLT_FIRST_ADDR (15 R574). -/
def FLT_FIRST_ADDR.reg : Reg := ⟨0x00201008, 5, 256, 1, 0, 1, 0, 0⟩
def FLT_FIRST_ADDR.PA : Fld := ⟨FLT_FIRST_ADDR.reg, 0, 46⟩
def FLT_FIRST_ADDR.ADDR_V : Fld := ⟨FLT_FIRST_ADDR.reg, 46, 1⟩

/-- FLT_FIRST_SYN (15 R574). -/
def FLT_FIRST_SYN.reg : Reg := ⟨0x00201010, 5, 256, 1, 0, 1, 0, 0⟩
def FLT_FIRST_SYN.SYNDROME : Fld := ⟨FLT_FIRST_SYN.reg, 0, 64⟩

/-- FLT_FIRST_TIME (15 R574). -/
def FLT_FIRST_TIME.reg : Reg := ⟨0x00201018, 5, 256, 1, 0, 1, 0, 0⟩
def FLT_FIRST_TIME.TIME : Fld := ⟨FLT_FIRST_TIME.reg, 0, 64⟩

/-- FLT_CNT (15 R574). -/
def FLT_CNT.reg : Reg := ⟨0x00201020, 5, 256, 1, 0, 1, 0, 0⟩
def FLT_CNT.CE : Fld := ⟨FLT_CNT.reg, 0, 16⟩
def FLT_CNT.UE : Fld := ⟨FLT_CNT.reg, 16, 16⟩
def FLT_CNT.FATAL : Fld := ⟨FLT_CNT.reg, 32, 16⟩
def FLT_CNT.LATER : Fld := ⟨FLT_CNT.reg, 48, 16⟩

/-- FLT_CE_CFG (15 R574). -/
def FLT_CE_CFG.reg : Reg := ⟨0x00201028, 5, 256, 1, 0, 1, 0, 0x3c0100⟩
def FLT_CE_CFG.CE_THRESH : Fld := ⟨FLT_CE_CFG.reg, 0, 16⟩
def FLT_CE_CFG.CE_WINDOW : Fld := ⟨FLT_CE_CFG.reg, 16, 8⟩

/-- FLT_WIRE (15 R574). -/
def FLT_WIRE.reg : Reg := ⟨0x00201030, 5, 256, 1, 0, 1, 0, 0⟩
def FLT_WIRE.BROKEN : Fld := ⟨FLT_WIRE.reg, 0, 16⟩
def FLT_WIRE.MASKED : Fld := ⟨FLT_WIRE.reg, 16, 16⟩

/-- FLT_CNT_CLR (15 R574). -/
def FLT_CNT_CLR.reg : Reg := ⟨0x00201038, 5, 256, 1, 0, 1, 0, 0⟩
def FLT_CNT_CLR.CLEAR : Fld := ⟨FLT_CNT_CLR.reg, 0, 1⟩

/-- IRQ_SRC_CFG (15 R575). -/
def IRQ_SRC_CFG.reg : Reg := ⟨0x00300000, 2048, 16, 1, 0, 1, 0, 256⟩
def IRQ_SRC_CFG.EN : Fld := ⟨IRQ_SRC_CFG.reg, 0, 1⟩
def IRQ_SRC_CFG.MASK : Fld := ⟨IRQ_SRC_CFG.reg, 1, 1⟩
def IRQ_SRC_CFG.KIND : Fld := ⟨IRQ_SRC_CFG.reg, 2, 2⟩
def IRQ_SRC_CFG.OWNER : Fld := ⟨IRQ_SRC_CFG.reg, 4, 5⟩
def IRQ_SRC_CFG.CORE : Fld := ⟨IRQ_SRC_CFG.reg, 9, 3⟩
def IRQ_SRC_CFG.FUNC : Fld := ⟨IRQ_SRC_CFG.reg, 12, 5⟩
def IRQ_SRC_CFG.VECTOR : Fld := ⟨IRQ_SRC_CFG.reg, 17, 11⟩
def IRQ_SRC_CFG.RING : Fld := ⟨IRQ_SRC_CFG.reg, 28, 12⟩
def IRQ_SRC_CFG.MOD : Fld := ⟨IRQ_SRC_CFG.reg, 40, 8⟩
def IRQ_SRC_CFG.BAD : Fld := ⟨IRQ_SRC_CFG.reg, 48, 1⟩

/-- IRQ_SRC_CNT (15 R575). -/
def IRQ_SRC_CNT.reg : Reg := ⟨0x00300008, 2048, 16, 1, 0, 1, 0, 0⟩
def IRQ_SRC_CNT.COUNT : Fld := ⟨IRQ_SRC_CNT.reg, 0, 8⟩
def IRQ_SRC_CNT.SAT : Fld := ⟨IRQ_SRC_CNT.reg, 8, 1⟩
def IRQ_SRC_CNT.ACK : Fld := ⟨IRQ_SRC_CNT.reg, 16, 8⟩

/-- IRQ_WAKE (15 R575). -/
def IRQ_WAKE.reg : Reg := ⟨0x00308000, 64, 8, 1, 0, 1, 0, 0⟩
def IRQ_WAKE.SOURCE : Fld := ⟨IRQ_WAKE.reg, 0, 11⟩
def IRQ_WAKE.VALID : Fld := ⟨IRQ_WAKE.reg, 11, 1⟩

/-- IRQ_STAT (15 R575). -/
def IRQ_STAT.reg : Reg := ⟨0x00308200, 1, 0, 1, 0, 1, 0, 0⟩
def IRQ_STAT.MISDIRECT : Fld := ⟨IRQ_STAT.reg, 0, 32⟩
def IRQ_STAT.RAISES_LOST : Fld := ⟨IRQ_STAT.reg, 32, 16⟩

/-- IRQ_STAT_CLR (15 R575). -/
def IRQ_STAT_CLR.reg : Reg := ⟨0x00308208, 1, 0, 1, 0, 1, 0, 0⟩
def IRQ_STAT_CLR.CLEAR : Fld := ⟨IRQ_STAT_CLR.reg, 0, 1⟩

/-- CHIP_START (16 R606). -/
def CHIP_START.reg : Reg := ⟨0x00001000, 1, 0, 1, 0, 1, 0, 0⟩
def CHIP_START.PHASE : Fld := ⟨CHIP_START.reg, 0, 3⟩
def CHIP_START.READY : Fld := ⟨CHIP_START.reg, 3, 1⟩
def CHIP_START.FAST : Fld := ⟨CHIP_START.reg, 4, 1⟩
def CHIP_START.FROM_HOST : Fld := ⟨CHIP_START.reg, 5, 1⟩
def CHIP_START.FLOOR : Fld := ⟨CHIP_START.reg, 6, 1⟩
def CHIP_START.FLOOR_FORCED : Fld := ⟨CHIP_START.reg, 7, 1⟩
def CHIP_START.SAFE_CAUSE : Fld := ⟨CHIP_START.reg, 8, 8⟩
def CHIP_START.START_NO : Fld := ⟨CHIP_START.reg, 16, 32⟩

/-- CHIP_RST_CTL (16 R606). -/
def CHIP_RST_CTL.reg : Reg := ⟨0x00001008, 1, 0, 1, 0, 1, 0, 0⟩
def CHIP_RST_CTL.KIND : Fld := ⟨CHIP_RST_CTL.reg, 0, 3⟩
def CHIP_RST_CTL.TARGET : Fld := ⟨CHIP_RST_CTL.reg, 3, 5⟩
def CHIP_RST_CTL.GO : Fld := ⟨CHIP_RST_CTL.reg, 8, 1⟩

/-- CHIP_RST_STAT (16 R606). -/
def CHIP_RST_STAT.reg : Reg := ⟨0x00001010, 1, 0, 1, 0, 1, 0, 0⟩
def CHIP_RST_STAT.LAST_KIND : Fld := ⟨CHIP_RST_STAT.reg, 0, 3⟩
def CHIP_RST_STAT.LAST_TARGET : Fld := ⟨CHIP_RST_STAT.reg, 3, 5⟩
def CHIP_RST_STAT.LAST_SRC : Fld := ⟨CHIP_RST_STAT.reg, 8, 3⟩
def CHIP_RST_STAT.BUSY : Fld := ⟨CHIP_RST_STAT.reg, 11, 1⟩

/-- CHIP_CFG (16 R606). -/
def CHIP_CFG.reg : Reg := ⟨0x00001018, 1, 0, 1, 0, 1, 0, 0x3e83c05⟩
def CHIP_CFG.FAST_EN : Fld := ⟨CHIP_CFG.reg, 0, 1⟩
def CHIP_CFG.EXT_TEST : Fld := ⟨CHIP_CFG.reg, 1, 1⟩
def CHIP_CFG.PERST_LINK_ONLY : Fld := ⟨CHIP_CFG.reg, 2, 1⟩
def CHIP_CFG.TALLY_FORGET : Fld := ⟨CHIP_CFG.reg, 3, 1⟩
def CHIP_CFG.RECOVERY_WAIT : Fld := ⟨CHIP_CFG.reg, 8, 8⟩
def CHIP_CFG.CURFEW_DRAIN : Fld := ⟨CHIP_CFG.reg, 16, 16⟩

/-- CHIP_SLEEP (16 R606). -/
def CHIP_SLEEP.reg : Reg := ⟨0x00001020, 1, 0, 1, 0, 1, 0, 0x1400c0⟩
def CHIP_SLEEP.REQ : Fld := ⟨CHIP_SLEEP.reg, 0, 2⟩
def CHIP_SLEEP.WARD_DOZE : Fld := ⟨CHIP_SLEEP.reg, 2, 4⟩
def CHIP_SLEEP.WAKE_ON_RX : Fld := ⟨CHIP_SLEEP.reg, 6, 1⟩
def CHIP_SLEEP.WAKE_ON_DB : Fld := ⟨CHIP_SLEEP.reg, 7, 1⟩
def CHIP_SLEEP.STATE : Fld := ⟨CHIP_SLEEP.reg, 8, 2⟩
def CHIP_SLEEP.WARD_STATE : Fld := ⟨CHIP_SLEEP.reg, 10, 4⟩
def CHIP_SLEEP.SLEEP_ERR : Fld := ⟨CHIP_SLEEP.reg, 14, 1⟩
def CHIP_SLEEP.QUIET_IDLE : Fld := ⟨CHIP_SLEEP.reg, 16, 16⟩

/-- CHIP_RECOVERY_ADDR (16 R606). -/
def CHIP_RECOVERY_ADDR.reg : Reg := ⟨0x00001028, 1, 0, 1, 0, 1, 0, 0⟩
def CHIP_RECOVERY_ADDR.ADDR : Fld := ⟨CHIP_RECOVERY_ADDR.reg, 0, 64⟩

/-- CHIP_RECOVERY_CTL (16 R606). -/
def CHIP_RECOVERY_CTL.reg : Reg := ⟨0x00001030, 1, 0, 1, 0, 1, 0, 0⟩
def CHIP_RECOVERY_CTL.LEN : Fld := ⟨CHIP_RECOVERY_CTL.reg, 0, 24⟩
def CHIP_RECOVERY_CTL.GO : Fld := ⟨CHIP_RECOVERY_CTL.reg, 24, 1⟩
def CHIP_RECOVERY_CTL.RSTAT : Fld := ⟨CHIP_RECOVERY_CTL.reg, 25, 2⟩

/-- CHIP_DEFECT (16 R606). -/
def CHIP_DEFECT.reg : Reg := ⟨0x00001038, 1, 0, 1, 0, 1, 0, 0⟩
def CHIP_DEFECT.ROWS_USED : Fld := ⟨CHIP_DEFECT.reg, 0, 9⟩
def CHIP_DEFECT.PENDING : Fld := ⟨CHIP_DEFECT.reg, 16, 16⟩

/-- CHIP_TALLY_HDR (16 R606). -/
def CHIP_TALLY_HDR.reg : Reg := ⟨0x00002000, 16, 2048, 4, 8, 1, 0, 0⟩
def CHIP_TALLY_HDR.HDR : Fld := ⟨CHIP_TALLY_HDR.reg, 0, 64⟩

/-- CHIP_TALLY_ENT (16 R606). -/
def CHIP_TALLY_ENT.reg : Reg := ⟨0x00002020, 16, 2048, 128, 8, 1, 0, 0⟩
def CHIP_TALLY_ENT.ENTRY : Fld := ⟨CHIP_TALLY_ENT.reg, 0, 64⟩

/-- AON_HOLD (16 R607). -/
def AON_HOLD.reg : Reg := ⟨0x00100000, 1, 0, 1, 0, 1, 0, 0⟩
def AON_HOLD.HOLD_CAUSE : Fld := ⟨AON_HOLD.reg, 0, 8⟩
def AON_HOLD.DEEP_READY : Fld := ⟨AON_HOLD.reg, 8, 1⟩
def AON_HOLD.SUPPLY_BAD : Fld := ⟨AON_HOLD.reg, 16, 11⟩
def AON_HOLD.CLOCK_BAD : Fld := ⟨AON_HOLD.reg, 27, 3⟩
def AON_HOLD.SUPPLY_CLEAN : Fld := ⟨AON_HOLD.reg, 30, 1⟩
def AON_HOLD.STRAP_BAD : Fld := ⟨AON_HOLD.reg, 31, 1⟩
def AON_HOLD.WARD_POP : Fld := ⟨AON_HOLD.reg, 32, 4⟩
def AON_HOLD.BOOT_SRC : Fld := ⟨AON_HOLD.reg, 36, 2⟩
def AON_HOLD.HOME_ELDER : Fld := ⟨AON_HOLD.reg, 38, 1⟩
def AON_HOLD.FLOOR_MODE : Fld := ⟨AON_HOLD.reg, 39, 1⟩

/-- AON_TIME (16 R607). -/
def AON_TIME.reg : Reg := ⟨0x00100008, 1, 0, 1, 0, 1, 0, 0⟩
def AON_TIME.TIME : Fld := ⟨AON_TIME.reg, 0, 64⟩

/-- AON_SLEEP (16 R607). -/
def AON_SLEEP.reg : Reg := ⟨0x00100010, 1, 0, 1, 0, 1, 0, 0⟩
def AON_SLEEP.WAKE : Fld := ⟨AON_SLEEP.reg, 0, 1⟩

/-- AON_FATAL_CNT (16 R607). -/
def AON_FATAL_CNT.reg : Reg := ⟨0x00100018, 1, 0, 1, 0, 1, 0, 0⟩
def AON_FATAL_CNT.HELD : Fld := ⟨AON_FATAL_CNT.reg, 0, 5⟩
def AON_FATAL_CNT.TOTAL : Fld := ⟨AON_FATAL_CNT.reg, 16, 32⟩

/-- AON_FATAL (16 R607). -/
def AON_FATAL.reg : Reg := ⟨0x00101000, 16, 64, 8, 8, 1, 0, 0⟩
def AON_FATAL.WORD : Fld := ⟨AON_FATAL.reg, 0, 64⟩

/-- ELD_CFG (17 R623). -/
def ELD_CFG.reg : Reg := ⟨0x00400000, 1, 0, 1, 0, 1, 0, 0x703e8280a190a⟩
def ELD_CFG.HB_TMO : Fld := ⟨ELD_CFG.reg, 0, 8⟩
def ELD_CFG.HB_PERIOD : Fld := ⟨ELD_CFG.reg, 8, 8⟩
def ELD_CFG.FREEZE_MAX : Fld := ⟨ELD_CFG.reg, 16, 8⟩
def ELD_CFG.SELFCHECK_TMO : Fld := ⟨ELD_CFG.reg, 24, 8⟩
def ELD_CFG.CMP_WINDOW : Fld := ⟨ELD_CFG.reg, 32, 16⟩
def ELD_CFG.TAKEBACK : Fld := ⟨ELD_CFG.reg, 48, 1⟩
def ELD_CFG.RESYNC_TRIES : Fld := ⟨ELD_CFG.reg, 49, 3⟩

/-- ELD_STAT (17 R623). -/
def ELD_STAT.reg : Reg := ⟨0x00400008, 1, 0, 1, 0, 1, 0, 0⟩
def ELD_STAT.CLAIM_A : Fld := ⟨ELD_STAT.reg, 0, 8⟩
def ELD_STAT.CLAIM_B : Fld := ⟨ELD_STAT.reg, 8, 8⟩
def ELD_STAT.STATE_A : Fld := ⟨ELD_STAT.reg, 16, 3⟩
def ELD_STAT.STATE_B : Fld := ⟨ELD_STAT.reg, 19, 3⟩
def ELD_STAT.FROZEN : Fld := ⟨ELD_STAT.reg, 22, 1⟩
def ELD_STAT.SOLO : Fld := ⟨ELD_STAT.reg, 23, 1⟩
def ELD_STAT.ACTIVE : Fld := ⟨ELD_STAT.reg, 24, 1⟩
def ELD_STAT.CHECK_A : Fld := ⟨ELD_STAT.reg, 32, 8⟩
def ELD_STAT.CHECK_B : Fld := ⟨ELD_STAT.reg, 40, 8⟩

/-- ELD_LOG (17 R623). -/
def ELD_LOG.reg : Reg := ⟨0x00400010, 1, 0, 1, 0, 1, 0, 0⟩
def ELD_LOG.COMMIT_SEQ : Fld := ⟨ELD_LOG.reg, 0, 32⟩
def ELD_LOG.WINDOW_LEFT : Fld := ⟨ELD_LOG.reg, 32, 16⟩

/-- ELD_CNT (17 R623). -/
def ELD_CNT.reg : Reg := ⟨0x00400018, 1, 0, 1, 0, 1, 0, 0⟩
def ELD_CNT.MISMATCH : Fld := ⟨ELD_CNT.reg, 0, 16⟩
def ELD_CNT.HB_MISS : Fld := ⟨ELD_CNT.reg, 16, 16⟩
def ELD_CNT.TAKEOVERS : Fld := ⟨ELD_CNT.reg, 32, 16⟩
def ELD_CNT.LONGEST_FREEZE : Fld := ⟨ELD_CNT.reg, 48, 16⟩

/-- ELD_CTL (17 R623). -/
def ELD_CTL.reg : Reg := ⟨0x00400020, 1, 0, 1, 0, 1, 0, 0⟩
def ELD_CTL.REARM_A : Fld := ⟨ELD_CTL.reg, 0, 1⟩
def ELD_CTL.REARM_B : Fld := ⟨ELD_CTL.reg, 1, 1⟩
def ELD_CTL.HANDOVER : Fld := ⟨ELD_CTL.reg, 2, 1⟩

/-- ELD_CNT_CLR (17 R623). -/
def ELD_CNT_CLR.reg : Reg := ⟨0x00400028, 1, 0, 1, 0, 1, 0, 0⟩
def ELD_CNT_CLR.CLEAR : Fld := ⟨ELD_CNT_CLR.reg, 0, 1⟩

/-- AON_GOV_CFG (18 R651). -/
def AON_GOV_CFG.reg : Reg := ⟨0x00102000, 1, 0, 1, 0, 1, 0, 0x5f103b6⟩
def AON_GOV_CFG.CAP : Fld := ⟨AON_GOV_CFG.reg, 0, 12⟩
def AON_GOV_CFG.HYST : Fld := ⟨AON_GOV_CFG.reg, 12, 8⟩
def AON_GOV_CFG.THROTTLE_AT : Fld := ⟨AON_GOV_CFG.reg, 20, 8⟩

/-- AON_GOV_STAT (18 R651). -/
def AON_GOV_STAT.reg : Reg := ⟨0x00102008, 1, 0, 1, 0, 1, 0, 0⟩
def AON_GOV_STAT.P_CHIP : Fld := ⟨AON_GOV_STAT.reg, 0, 12⟩
def AON_GOV_STAT.LIMITED : Fld := ⟨AON_GOV_STAT.reg, 12, 4⟩
def AON_GOV_STAT.ISSUE : Fld := ⟨AON_GOV_STAT.reg, 16, 4⟩
def AON_GOV_STAT.OVER_CAP : Fld := ⟨AON_GOV_STAT.reg, 32, 16⟩

/-- AON_WARD_CLK (18 R651). -/
def AON_WARD_CLK.reg : Reg := ⟨0x00102100, 4, 8, 1, 0, 1, 0, 120⟩
def AON_WARD_CLK.CLK_MAX : Fld := ⟨AON_WARD_CLK.reg, 0, 7⟩
def AON_WARD_CLK.CLK_NOW : Fld := ⟨AON_WARD_CLK.reg, 8, 7⟩
def AON_WARD_CLK.V_NOW : Fld := ⟨AON_WARD_CLK.reg, 16, 10⟩
def AON_WARD_CLK.P_CORE : Fld := ⟨AON_WARD_CLK.reg, 32, 10⟩

/-- AON_SUPPLY (18 R651). -/
def AON_SUPPLY.reg : Reg := ⟨0x00102200, 11, 8, 1, 0, 1, 0, 0⟩
def AON_SUPPLY.V : Fld := ⟨AON_SUPPLY.reg, 0, 16⟩
def AON_SUPPLY.I : Fld := ⟨AON_SUPPLY.reg, 16, 16⟩
def AON_SUPPLY.DISCARDED : Fld := ⟨AON_SUPPLY.reg, 32, 16⟩
def AON_SUPPLY.SENSE_FAIL : Fld := ⟨AON_SUPPLY.reg, 48, 1⟩

/-- AON_THERM (18 R651). -/
def AON_THERM.reg : Reg := ⟨0x00102300, 1, 0, 1, 0, 1, 0, 0⟩
def AON_THERM.TJ_MAX : Fld := ⟨AON_THERM.reg, 0, 8⟩
def AON_THERM.DROPPED : Fld := ⟨AON_THERM.reg, 8, 7⟩
def AON_THERM.TRIPPED : Fld := ⟨AON_THERM.reg, 15, 1⟩

/-- AON_AVS (18 R651). -/
def AON_AVS.reg : Reg := ⟨0x00102400, 5, 8, 1, 0, 1, 0, 0⟩
def AON_AVS.STATE : Fld := ⟨AON_AVS.reg, 0, 2⟩
def AON_AVS.ERRS : Fld := ⟨AON_AVS.reg, 8, 8⟩

/-- CHIP_ID (19 R658). -/
def CHIP_ID.reg : Reg := ⟨0x00000000, 1, 0, 1, 0, 1, 0, 0x51a000001004800⟩
def CHIP_ID.PART : Fld := ⟨CHIP_ID.reg, 0, 16⟩
def CHIP_ID.STEP_MAJOR : Fld := ⟨CHIP_ID.reg, 16, 4⟩
def CHIP_ID.STEP_MINOR : Fld := ⟨CHIP_ID.reg, 20, 4⟩
def CHIP_ID.FAMILY : Fld := ⟨CHIP_ID.reg, 24, 8⟩
def CHIP_ID.PCI_VID : Fld := ⟨CHIP_ID.reg, 32, 16⟩
def CHIP_ID.JTAG_MFR : Fld := ⟨CHIP_ID.reg, 48, 11⟩

/-- CHIP_VARIANT (19 R658). -/
def CHIP_VARIANT.reg : Reg := ⟨0x00000008, 1, 0, 1, 0, 1, 0, 0x5f13b678⟩
def CHIP_VARIANT.CLK_CEIL : Fld := ⟨CHIP_VARIANT.reg, 0, 7⟩
def CHIP_VARIANT.CAP_W : Fld := ⟨CHIP_VARIANT.reg, 8, 12⟩
def CHIP_VARIANT.FIBRE : Fld := ⟨CHIP_VARIANT.reg, 20, 2⟩
def CHIP_VARIANT.GRADE : Fld := ⟨CHIP_VARIANT.reg, 22, 2⟩
def CHIP_VARIANT.TJ_OP_MAX : Fld := ⟨CHIP_VARIANT.reg, 24, 8⟩

/-- CHIP_UID_LO (19 R658). -/
def CHIP_UID_LO.reg : Reg := ⟨0x00000010, 1, 0, 1, 0, 1, 0, 1⟩
def CHIP_UID_LO.UID_LO : Fld := ⟨CHIP_UID_LO.reg, 0, 64⟩

/-- CHIP_UID_HI (19 R658). -/
def CHIP_UID_HI.reg : Reg := ⟨0x00000018, 1, 0, 1, 0, 1, 0, 0⟩
def CHIP_UID_HI.UID_HI : Fld := ⟨CHIP_UID_HI.reg, 0, 64⟩

/-- CHIP_STRAP (19 R658). -/
def CHIP_STRAP.reg : Reg := ⟨0x00000020, 1, 0, 1, 0, 1, 0, 0⟩
def CHIP_STRAP.WARD_POP : Fld := ⟨CHIP_STRAP.reg, 0, 4⟩
def CHIP_STRAP.BOOT_SRC : Fld := ⟨CHIP_STRAP.reg, 4, 2⟩
def CHIP_STRAP.HOME_ELDER : Fld := ⟨CHIP_STRAP.reg, 6, 1⟩
def CHIP_STRAP.FLOOR_MODE : Fld := ⟨CHIP_STRAP.reg, 7, 1⟩

/-- CHIP_LOCK (19 R658). -/
def CHIP_LOCK.reg : Reg := ⟨0x00000028, 1, 0, 1, 0, 1, 0, 0⟩
def CHIP_LOCK.LOCK : Fld := ⟨CHIP_LOCK.reg, 0, 1⟩

/-- PRT_CTL (19 R660). -/
def PRT_CTL.reg : Reg := ⟨0x01400000, 16, 65536, 1, 0, 1, 0, 0⟩
def PRT_CTL.SLICES : Fld := ⟨PRT_CTL.reg, 0, 16⟩
def PRT_CTL.ENABLE : Fld := ⟨PRT_CTL.reg, 16, 1⟩
def PRT_CTL.LOCK : Fld := ⟨PRT_CTL.reg, 17, 1⟩
def PRT_CTL.SETUP_ERR : Fld := ⟨PRT_CTL.reg, 18, 1⟩
def PRT_CTL.ERR_CAUSE : Fld := ⟨PRT_CTL.reg, 19, 3⟩

/-- CHIP_FLOOR_SUM (19 R666). -/
def CHIP_FLOOR_SUM.reg : Reg := ⟨0x00000100, 1, 0, 1, 0, 1, 0, 0⟩
def CHIP_FLOOR_SUM.CELLS : Fld := ⟨CHIP_FLOOR_SUM.reg, 0, 9⟩
def CHIP_FLOOR_SUM.SLICES : Fld := ⟨CHIP_FLOOR_SUM.reg, 16, 5⟩
def CHIP_FLOOR_SUM.CHANNELS : Fld := ⟨CHIP_FLOOR_SUM.reg, 32, 6⟩
def CHIP_FLOOR_SUM.PORTS : Fld := ⟨CHIP_FLOOR_SUM.reg, 40, 6⟩
def CHIP_FLOOR_SUM.DRIVES : Fld := ⟨CHIP_FLOOR_SUM.reg, 48, 5⟩
def CHIP_FLOOR_SUM.PARTS : Fld := ⟨CHIP_FLOOR_SUM.reg, 53, 5⟩

/-- CHIP_FLOOR_WARD (19 R666). -/
def CHIP_FLOOR_WARD.reg : Reg := ⟨0x00000180, 4, 8, 1, 0, 1, 0, 0⟩
def CHIP_FLOOR_WARD.POP : Fld := ⟨CHIP_FLOOR_WARD.reg, 0, 1⟩
def CHIP_FLOOR_WARD.HELD : Fld := ⟨CHIP_FLOOR_WARD.reg, 1, 1⟩
def CHIP_FLOOR_WARD.PORTS : Fld := ⟨CHIP_FLOOR_WARD.reg, 8, 8⟩
def CHIP_FLOOR_WARD.CHANNELS : Fld := ⟨CHIP_FLOOR_WARD.reg, 16, 8⟩
def CHIP_FLOOR_WARD.DRIVES : Fld := ⟨CHIP_FLOOR_WARD.reg, 24, 4⟩
def CHIP_FLOOR_WARD.SLICES : Fld := ⟨CHIP_FLOOR_WARD.reg, 28, 4⟩

/-- CHIP_FLOOR_SLICE (19 R666). -/
def CHIP_FLOOR_SLICE.reg : Reg := ⟨0x00000200, 16, 8, 1, 0, 1, 0, 0⟩
def CHIP_FLOOR_SLICE.STATE : Fld := ⟨CHIP_FLOOR_SLICE.reg, 0, 2⟩
def CHIP_FLOOR_SLICE.CELLS : Fld := ⟨CHIP_FLOOR_SLICE.reg, 2, 5⟩
def CHIP_FLOOR_SLICE.CELLS_GOOD : Fld := ⟨CHIP_FLOOR_SLICE.reg, 7, 5⟩
def CHIP_FLOOR_SLICE.SPARE_FREE : Fld := ⟨CHIP_FLOOR_SLICE.reg, 12, 1⟩
def CHIP_FLOOR_SLICE.BANKS_BAD : Fld := ⟨CHIP_FLOOR_SLICE.reg, 13, 5⟩
def CHIP_FLOOR_SLICE.CH0_OK : Fld := ⟨CHIP_FLOOR_SLICE.reg, 18, 1⟩
def CHIP_FLOOR_SLICE.CH1_OK : Fld := ⟨CHIP_FLOOR_SLICE.reg, 19, 1⟩
def CHIP_FLOOR_SLICE.IN_PART : Fld := ⟨CHIP_FLOOR_SLICE.reg, 20, 1⟩
def CHIP_FLOOR_SLICE.PART : Fld := ⟨CHIP_FLOOR_SLICE.reg, 21, 4⟩
def CHIP_FLOOR_SLICE.QUAR : Fld := ⟨CHIP_FLOOR_SLICE.reg, 25, 1⟩
def CHIP_FLOOR_SLICE.DRAM_G : Fld := ⟨CHIP_FLOOR_SLICE.reg, 32, 16⟩

/-- XRD_ROUTE (11 R455). -/
def XRD_ROUTE.reg : Reg := ⟨0x00B00000, 2, 131072, 32768, 4, 1, 0, 0⟩
def XRD_ROUTE.ENTRY : Fld := ⟨XRD_ROUTE.reg, 0, 32⟩

/-- XRD_MCAST_LO (11 R455). -/
def XRD_MCAST_LO.reg : Reg := ⟨0x00B40000, 2, 1024, 33, 16, 1, 0, 0⟩
def XRD_MCAST_LO.ROW_FAN : Fld := ⟨XRD_MCAST_LO.reg, 0, 32⟩
def XRD_MCAST_LO.ROW_LOCAL : Fld := ⟨XRD_MCAST_LO.reg, 32, 1⟩

/-- XRD_MCAST_HI (11 R455). -/
def XRD_MCAST_HI.reg : Reg := ⟨0x00B40008, 2, 1024, 33, 16, 1, 0, 0⟩
def XRD_MCAST_HI.COL_FAN : Fld := ⟨XRD_MCAST_HI.reg, 0, 32⟩
def XRD_MCAST_HI.COL_LOCAL : Fld := ⟨XRD_MCAST_HI.reg, 32, 1⟩

/-- Part 0 of the register table. -/
def regRows0 : List RegRow := [
  ⟨XLT_SPACE_LO.reg, .chip, [⟨0, 16, .rw, .pool⟩, ⟨16, 4, .rw, .pool⟩, ⟨20, 1, .rw, .pool⟩, ⟨21, 1, .rw, .pool⟩, ⟨24, 33, .rw, .pool⟩]⟩,
  ⟨XLT_SPACE_HI.reg, .chip, [⟨0, 64, .rw, .pool⟩]⟩,
  ⟨XLT_EXT_USED.reg, .chip, [⟨0, 17, .ro, .pool⟩]⟩,
  ⟨XLT_REQ_LIFE.reg, .chip, [⟨0, 16, .rw, .pool⟩]⟩,
  ⟨PRT_XLT_CFG.reg, .prt, [⟨0, 4, .rwl, .pool⟩, ⟨8, 8, .rw, .pool⟩, ⟨16, 8, .rw, .pool⟩, ⟨24, 8, .rw, .pool⟩, ⟨32, 16, .rw, .pool⟩]⟩,
  ⟨PRT_XLT_STAT.reg, .prt, [⟨0, 16, .ro, .part⟩, ⟨16, 16, .ro, .part⟩, ⟨32, 16, .ro, .part⟩, ⟨48, 16, .ro, .part⟩]⟩,
  ⟨PRT_XLT_STAT_CLR.reg, .prt, [⟨0, 1, .wo, .never⟩]⟩,
  ⟨PRT_EXT_USED.reg, .prt, [⟨0, 13, .ro, .pool⟩]⟩,
  ⟨XLT_APT_WIN.reg, .chip, [⟨0, 16, .rw, .pool⟩, ⟨16, 16, .rw, .pool⟩, ⟨32, 1, .rw, .pool⟩, ⟨48, 16, .ro, .pool⟩]⟩,
  ⟨PRT_APT_WIN.reg, .prt, [⟨0, 16, .rw, .pool⟩, ⟨16, 16, .rw, .pool⟩, ⟨32, 1, .rw, .pool⟩, ⟨48, 16, .ro, .part⟩]⟩,
  ⟨RNG_DESC_BASE.reg, .rng, [⟨0, 64, .rw, .pool⟩]⟩,
  ⟨RNG_CPL_BASE.reg, .rng, [⟨0, 64, .rw, .pool⟩]⟩]

/-- Part 1 of the register table. -/
def regRows1 : List RegRow := [
  ⟨RNG_CFG.reg, .rng, [⟨0, 2, .rw, .pool⟩, ⟨2, 1, .rw, .pool⟩, ⟨3, 1, .rw, .pool⟩, ⟨4, 5, .rw, .pool⟩, ⟨12, 4, .rw, .pool⟩, ⟨16, 4, .rw, .pool⟩, ⟨20, 8, .rw, .pool⟩, ⟨32, 8, .rw, .pool⟩, ⟨40, 16, .rw, .pool⟩]⟩,
  ⟨RNG_LOC.reg, .rng, [⟨0, 15, .rw, .pool⟩, ⟨16, 16, .rw, .pool⟩, ⟨32, 12, .rw, .pool⟩]⟩,
  ⟨RNG_NOTIFY.reg, .rng, [⟨0, 11, .rw, .pool⟩, ⟨11, 1, .rw, .pool⟩, ⟨12, 8, .rw, .pool⟩, ⟨20, 12, .rw, .pool⟩]⟩,
  ⟨RNG_CTL.reg, .rng, [⟨0, 1, .rw, .part⟩, ⟨1, 1, .wo, .never⟩, ⟨8, 1, .ro, .part⟩, ⟨9, 3, .ro, .part⟩, ⟨16, 16, .ro, .part⟩]⟩,
  ⟨RNG_IDX.reg, .rng, [⟨0, 32, .ro, .part⟩, ⟨32, 32, .ro, .part⟩]⟩,
  ⟨RNG_CPL_IDX.reg, .rng, [⟨0, 32, .ro, .part⟩, ⟨32, 32, .ro, .part⟩]⟩,
  ⟨SLC_NEAR_SIZE.reg, .slc, [⟨0, 6, .rw, .pool⟩]⟩,
  ⟨PRT_NEAR_CFG.reg, .prt, [⟨0, 8, .rwl, .pool⟩, ⟨8, 8, .rwl, .pool⟩, ⟨16, 16, .rw, .pool⟩, ⟨32, 8, .rw, .pool⟩]⟩,
  ⟨PRT_DCACHE_CFG.reg, .prt, [⟨0, 8, .rwl, .pool⟩, ⟨8, 4, .rw, .pool⟩, ⟨12, 4, .rw, .pool⟩]⟩,
  ⟨PRT_TIER_STAT.reg, .prt, [⟨0, 16, .ro, .part⟩, ⟨16, 16, .ro, .part⟩, ⟨32, 16, .ro, .pool⟩, ⟨48, 9, .ro, .part⟩, ⟨57, 7, .ro, .pool⟩]⟩,
  ⟨PRT_TIER_CNT.reg, .prt, [⟨0, 32, .ro, .part⟩, ⟨32, 32, .ro, .part⟩]⟩,
  ⟨NVM_CTL.reg, .nvm, [⟨0, 1, .rw, .pool⟩, ⟨1, 2, .ro, .ward⟩, ⟨3, 4, .ro, .ward⟩, ⟨8, 7, .ro, .ward⟩, ⟨16, 11, .ro, .ward⟩]⟩]

/-- Part 2 of the register table. -/
def regRows2 : List RegRow := [
  ⟨NVM_CFG.reg, .nvm, [⟨0, 16, .rw, .pool⟩, ⟨16, 3, .rw, .pool⟩, ⟨20, 12, .rw, .pool⟩, ⟨32, 8, .rw, .pool⟩, ⟨40, 8, .rw, .pool⟩, ⟨48, 8, .rw, .pool⟩]⟩,
  ⟨NVM_CAP.reg, .nvm, [⟨0, 32, .ro, .ward⟩, ⟨32, 32, .ro, .ward⟩]⟩,
  ⟨NVM_STAT.reg, .nvm, [⟨0, 16, .ro, .ward⟩, ⟨16, 16, .ro, .ward⟩, ⟨32, 16, .ro, .ward⟩, ⟨48, 8, .ro, .ward⟩, ⟨56, 8, .ro, .ward⟩]⟩,
  ⟨NVM_IDENT.reg, .nvm, [⟨0, 64, .ro, .ward⟩]⟩,
  ⟨PRT_COR_STORE.reg, .prt, [⟨0, 48, .rw, .pool⟩, ⟨48, 16, .rw, .pool⟩]⟩,
  ⟨PRT_COR_VIEW.reg, .prt, [⟨0, 48, .rw, .pool⟩]⟩,
  ⟨PRT_COR_CTL.reg, .prt, [⟨0, 1, .rw, .pool⟩, ⟨1, 1, .rw, .pool⟩, ⟨4, 4, .rw, .pool⟩, ⟨8, 4, .rw, .pool⟩, ⟨16, 24, .rw, .pool⟩]⟩,
  ⟨PRT_ARITH_CFG.reg, .prt, [⟨0, 1, .rw, .pool⟩, ⟨1, 1, .rw, .pool⟩]⟩,
  ⟨PRT_ARITH_STAT.reg, .prt, [⟨0, 5, .w1c, .part⟩, ⟨15, 1, .wo, .never⟩, ⟨16, 16, .ro, .part⟩]⟩,
  ⟨PRT_SR_SEED.reg, .prt, [⟨0, 64, .rw, .pool⟩]⟩,
  ⟨PRT_PROG_SRC.reg, .prt, [⟨0, 48, .rw, .pool⟩, ⟨48, 16, .rw, .pool⟩]⟩,
  ⟨PRT_PROG_LOAD.reg, .prt, [⟨0, 8, .rw, .pool⟩, ⟨8, 1, .wo, .never⟩, ⟨9, 1, .wo, .never⟩]⟩]

/-- Part 3 of the register table. -/
def regRows3 : List RegRow := [
  ⟨PRT_PROG_STAT.reg, .prt, [⟨0, 2, .ro, .part⟩, ⟨8, 8, .ro, .part⟩, ⟨16, 6, .ro, .part⟩, ⟨22, 8, .ro, .part⟩]⟩,
  ⟨PRT_PROG_CFG.reg, .prt, [⟨0, 16, .rw, .pool⟩]⟩,
  ⟨PRT_PROG_CNT.reg, .prt, [⟨0, 32, .ro, .part⟩, ⟨32, 32, .ro, .part⟩]⟩,
  ⟨PRT_PROG_VALID.reg, .prt, [⟨0, 64, .ro, .part⟩]⟩,
  ⟨PRT_SYNC_CFG.reg, .prt, [⟨0, 32, .rw, .pool⟩]⟩,
  ⟨PRT_SYNC_STAT.reg, .prt, [⟨0, 16, .ro, .part⟩, ⟨16, 16, .ro, .part⟩, ⟨32, 16, .ro, .part⟩, ⟨48, 16, .ro, .part⟩]⟩,
  ⟨PRT_SYNC_STAT2.reg, .prt, [⟨0, 16, .ro, .part⟩, ⟨16, 16, .ro, .part⟩, ⟨32, 16, .ro, .part⟩]⟩,
  ⟨PRT_SYNC_CLR.reg, .prt, [⟨0, 1, .wo, .never⟩]⟩,
  ⟨SLC_SYNC_STAT.reg, .slc, [⟨0, 9, .ro, .part⟩, ⟨9, 7, .ro, .part⟩]⟩,
  ⟨SLC_SYNC_OBJ_LO.reg, .slc, [⟨0, 64, .ro, .part⟩]⟩,
  ⟨SLC_SYNC_OBJ_HI.reg, .slc, [⟨0, 64, .ro, .part⟩]⟩,
  ⟨PRT_RGN_CFG.reg, .prt, [⟨0, 16, .rw, .pool⟩, ⟨16, 1, .rw, .pool⟩, ⟨30, 18, .rw, .pool⟩, ⟨48, 11, .rw, .pool⟩]⟩]

/-- Part 4 of the register table. -/
def regRows4 : List RegRow := [
  ⟨PRT_RGN_STAT.reg, .prt, [⟨0, 32, .ro, .pool⟩, ⟨32, 4, .ro, .pool⟩, ⟨40, 24, .ro, .part⟩]⟩,
  ⟨PRT_RGN_CNT.reg, .prt, [⟨0, 16, .ro, .part⟩, ⟨16, 16, .ro, .part⟩, ⟨32, 16, .ro, .part⟩, ⟨48, 16, .ro, .part⟩]⟩,
  ⟨PRT_RGN_CLR.reg, .prt, [⟨0, 1, .wo, .never⟩]⟩,
  ⟨XLT_COH_CFG.reg, .chip, [⟨0, 16, .rw, .pool⟩, ⟨16, 4, .rw, .pool⟩, ⟨20, 9, .rw, .pool⟩, ⟨32, 16, .rw, .pool⟩, ⟨48, 8, .rw, .pool⟩]⟩,
  ⟨XLT_COH_CTL.reg, .chip, [⟨0, 1, .rw, .pool⟩, ⟨1, 3, .ro, .pool⟩, ⟨4, 4, .ro, .pool⟩, ⟨8, 8, .ro, .pool⟩, ⟨16, 8, .ro, .pool⟩, ⟨24, 1, .ro, .pool⟩]⟩,
  ⟨XLT_COH_STAT.reg, .chip, [⟨0, 32, .ro, .pool⟩, ⟨32, 32, .ro, .pool⟩]⟩,
  ⟨XLT_COH_CNT.reg, .chip, [⟨0, 32, .ro, .pool⟩, ⟨32, 16, .ro, .pool⟩, ⟨48, 16, .ro, .pool⟩]⟩,
  ⟨XLT_COH_MEMBER.reg, .chip, [⟨0, 15, .rw, .pool⟩, ⟨16, 15, .rw, .pool⟩, ⟨32, 15, .rw, .pool⟩, ⟨48, 15, .rw, .pool⟩, ⟨15, 1, .rw, .pool⟩, ⟨31, 1, .rw, .pool⟩, ⟨47, 1, .rw, .pool⟩, ⟨63, 1, .rw, .pool⟩]⟩,
  ⟨PORT_CTL.reg, .chip, [⟨0, 1, .rw, .warm⟩, ⟨1, 1, .wo, .never⟩, ⟨2, 1, .wo, .never⟩, ⟨3, 1, .rw, .warm⟩, ⟨4, 2, .rw, .warm⟩, ⟨8, 4, .rw, .warm⟩, ⟨12, 4, .rw, .warm⟩]⟩,
  ⟨PORT_LINK_CFG.reg, .chip, [⟨0, 4, .rw, .warm⟩, ⟨4, 4, .rw, .warm⟩, ⟨8, 16, .rw, .warm⟩, ⟨24, 8, .rw, .warm⟩, ⟨32, 12, .rw, .warm⟩, ⟨44, 8, .rw, .warm⟩, ⟨52, 8, .rw, .warm⟩]⟩,
  ⟨PORT_CREDIT_H.reg, .chip, [⟨0, 8, .rw, .warm⟩, ⟨8, 8, .rw, .warm⟩, ⟨16, 8, .rw, .warm⟩, ⟨24, 8, .rw, .warm⟩, ⟨32, 8, .rw, .warm⟩, ⟨40, 8, .rw, .warm⟩, ⟨48, 8, .rw, .warm⟩, ⟨56, 8, .rw, .warm⟩]⟩,
  ⟨PORT_CREDIT_D.reg, .chip, [⟨0, 8, .rw, .warm⟩, ⟨8, 8, .rw, .warm⟩, ⟨16, 8, .rw, .warm⟩, ⟨24, 8, .rw, .warm⟩, ⟨32, 8, .rw, .warm⟩, ⟨40, 8, .rw, .warm⟩, ⟨48, 8, .rw, .warm⟩, ⟨56, 8, .rw, .warm⟩]⟩]

/-- Part 5 of the register table. -/
def regRows5 : List RegRow := [
  ⟨PORT_STATUS.reg, .chip, [⟨0, 4, .ro, .warm⟩, ⟨4, 2, .ro, .warm⟩, ⟨6, 1, .ro, .warm⟩, ⟨7, 1, .ro, .warm⟩, ⟨8, 1, .ro, .warm⟩, ⟨9, 3, .ro, .warm⟩, ⟨12, 4, .ro, .warm⟩, ⟨16, 2, .ro, .power⟩, ⟨32, 16, .ro, .warm⟩, ⟨48, 16, .ro, .warm⟩]⟩,
  ⟨PORT_PARTNER.reg, .chip, [⟨0, 15, .ro, .warm⟩, ⟨16, 7, .ro, .warm⟩, ⟨23, 1, .ro, .warm⟩, ⟨24, 4, .ro, .warm⟩, ⟨32, 16, .ro, .warm⟩]⟩,
  ⟨PORT_FIBRE.reg, .chip, [⟨0, 18, .ro, .warm⟩, ⟨24, 24, .ro, .warm⟩, ⟨48, 8, .rw, .warm⟩]⟩,
  ⟨PORT_LANE_MAP.reg, .chip, [⟨0, 32, .ro, .warm⟩, ⟨32, 32, .ro, .warm⟩]⟩,
  ⟨PORT_LANE_STAT.reg, .chip, [⟨0, 4, .ro, .warm⟩, ⟨4, 4, .ro, .warm⟩, ⟨8, 9, .ro, .warm⟩, ⟨17, 9, .ro, .warm⟩, ⟨32, 16, .ro, .warm⟩, ⟨48, 16, .ro, .warm⟩]⟩,
  ⟨PORT_LASER.reg, .chip, [⟨0, 16, .ro, .warm⟩, ⟨16, 4, .ro, .warm⟩, ⟨32, 16, .rw, .warm⟩]⟩,
  ⟨PORT_ERR_CNT.reg, .chip, [⟨0, 32, .ro, .warm⟩, ⟨32, 16, .ro, .warm⟩, ⟨48, 16, .ro, .warm⟩]⟩,
  ⟨PORT_LINK_CNT.reg, .chip, [⟨0, 16, .ro, .warm⟩, ⟨16, 16, .ro, .warm⟩, ⟨32, 16, .ro, .warm⟩, ⟨48, 16, .ro, .warm⟩]⟩,
  ⟨PORT_CNT_CLR.reg, .chip, [⟨0, 1, .wo, .never⟩]⟩,
  ⟨PORT_CREDIT_AUDIT.reg, .chip, [⟨0, 16, .ro, .warm⟩, ⟨16, 16, .ro, .warm⟩]⟩,
  ⟨XRD_NODE.reg, .chip, [⟨0, 15, .rwl, .cold⟩]⟩,
  ⟨XRD_CFG.reg, .chip, [⟨0, 6, .rw, .warm⟩, ⟨8, 16, .rw, .warm⟩, ⟨24, 16, .rw, .warm⟩, ⟨40, 12, .rw, .warm⟩, ⟨52, 12, .rw, .warm⟩]⟩]

/-- Part 6 of the register table. -/
def regRows6 : List RegRow := [
  ⟨XRD_CFG2.reg, .chip, [⟨0, 16, .rw, .warm⟩, ⟨16, 16, .rw, .warm⟩]⟩,
  ⟨XRD_TRUST.reg, .chip, [⟨0, 32, .rw, .warm⟩]⟩,
  ⟨XRD_EPOCH.reg, .chip, [⟨0, 1, .ro, .warm⟩, ⟨1, 1, .ro, .warm⟩, ⟨2, 1, .ro, .warm⟩, ⟨3, 1, .ro, .warm⟩, ⟨32, 32, .ro, .warm⟩]⟩,
  ⟨XRD_COMMIT_AT.reg, .chip, [⟨0, 64, .ro, .warm⟩]⟩,
  ⟨XRD_TIME.reg, .chip, [⟨0, 64, .ro, .warm⟩]⟩,
  ⟨XRD_TIME_CFG.reg, .chip, [⟨0, 1, .rw, .warm⟩, ⟨1, 5, .rw, .warm⟩, ⟨6, 1, .ro, .warm⟩, ⟨8, 32, .rw, .warm⟩, ⟨40, 16, .ro, .warm⟩]⟩,
  ⟨XRD_CNT_CLR.reg, .chip, [⟨0, 1, .wo, .never⟩]⟩,
  ⟨XRD_RETX_STAT.reg, .chip, [⟨0, 32, .ro, .pool⟩, ⟨32, 16, .ro, .pool⟩, ⟨48, 16, .ro, .pool⟩]⟩,
  ⟨XRD_ORIG_CNT.reg, .chip, [⟨0, 32, .ro, .warm⟩]⟩,
  ⟨XRD_PORT_CNT.reg, .chip, [⟨0, 16, .ro, .warm⟩, ⟨16, 16, .ro, .warm⟩, ⟨32, 16, .ro, .warm⟩, ⟨48, 16, .ro, .warm⟩]⟩,
  ⟨XRD_PORT_CNT2.reg, .chip, [⟨0, 16, .ro, .warm⟩, ⟨16, 16, .ro, .warm⟩, ⟨32, 16, .ro, .warm⟩, ⟨48, 16, .ro, .warm⟩]⟩,
  ⟨QOS_PORT_CFG.reg, .chip, [⟨0, 1, .rw, .warm⟩, ⟨1, 1, .rw, .warm⟩, ⟨2, 1, .rw, .warm⟩, ⟨3, 1, .rw, .warm⟩, ⟨8, 8, .rw, .warm⟩, ⟨16, 16, .rw, .warm⟩]⟩]

/-- Part 7 of the register table. -/
def regRows7 : List RegRow := [
  ⟨QOS_PORT_QUANT.reg, .chip, [⟨0, 8, .rw, .warm⟩, ⟨8, 8, .rw, .warm⟩, ⟨16, 8, .rw, .warm⟩, ⟨24, 8, .rw, .warm⟩, ⟨32, 8, .rw, .warm⟩, ⟨40, 8, .rw, .warm⟩, ⟨48, 8, .rw, .warm⟩]⟩,
  ⟨QOS_SHAPER.reg, .chip, [⟨0, 16, .rw, .warm⟩, ⟨16, 16, .rw, .warm⟩]⟩,
  ⟨QOS_METER_LO.reg, .chip, [⟨0, 16, .rw, .warm⟩, ⟨16, 16, .rw, .warm⟩, ⟨32, 1, .rw, .warm⟩]⟩,
  ⟨QOS_METER_HI.reg, .chip, [⟨0, 16, .rw, .warm⟩, ⟨16, 16, .rw, .warm⟩]⟩,
  ⟨QOS_METER_CNT.reg, .chip, [⟨0, 32, .ro, .warm⟩, ⟨32, 32, .ro, .warm⟩]⟩,
  ⟨QOS_PORT_DROP.reg, .chip, [⟨0, 32, .ro, .warm⟩, ⟨32, 16, .ro, .warm⟩]⟩,
  ⟨QOS_GATE_CTL.reg, .chip, [⟨0, 1, .ro, .warm⟩, ⟨1, 1, .ro, .warm⟩, ⟨2, 1, .ro, .warm⟩, ⟨3, 3, .ro, .warm⟩, ⟨6, 1, .wo, .never⟩, ⟨7, 1, .ro, .warm⟩, ⟨8, 7, .rw, .warm⟩, ⟨16, 7, .rw, .warm⟩]⟩,
  ⟨QOS_GATE_AT.reg, .chip, [⟨0, 64, .rw, .warm⟩]⟩,
  ⟨QOS_GATE_ENT.reg, .chip, [⟨0, 32, .rw, .warm⟩, ⟨32, 7, .rw, .warm⟩]⟩,
  ⟨QOS_PORT_HSEL.reg, .chip, [⟨0, 3, .rw, .warm⟩, ⟨3, 1, .rw, .warm⟩, ⟨8, 5, .rw, .warm⟩, ⟨13, 1, .wo, .never⟩]⟩,
  ⟨QOS_PORT_HIST.reg, .chip, [⟨0, 32, .ro, .warm⟩, ⟨32, 32, .ro, .warm⟩]⟩,
  ⟨QOS_CFG.reg, .chip, [⟨0, 16, .rw, .pool⟩, ⟨16, 8, .rw, .pool⟩]⟩]

/-- Part 8 of the register table. -/
def regRows8 : List RegRow := [
  ⟨QOS_KIND_Q.reg, .chip, [⟨0, 8, .rw, .pool⟩, ⟨8, 8, .rw, .pool⟩, ⟨16, 8, .rw, .pool⟩, ⟨24, 8, .rw, .pool⟩]⟩,
  ⟨QOS_FLOW_Q.reg, .chip, [⟨0, 8, .rw, .pool⟩]⟩,
  ⟨QOS_REG.reg, .chip, [⟨0, 9, .rw, .pool⟩, ⟨9, 9, .rw, .pool⟩, ⟨18, 9, .rw, .pool⟩, ⟨27, 1, .rw, .pool⟩, ⟨32, 9, .ro, .pool⟩]⟩,
  ⟨QOS_CH_STAT.reg, .chip, [⟨0, 32, .ro, .pool⟩, ⟨32, 32, .ro, .pool⟩]⟩,
  ⟨QOS_CH_HSEL.reg, .chip, [⟨0, 5, .rw, .pool⟩, ⟨5, 2, .rw, .pool⟩, ⟨7, 1, .rw, .pool⟩, ⟨8, 5, .rw, .pool⟩, ⟨13, 1, .wo, .never⟩]⟩,
  ⟨QOS_CH_HIST.reg, .chip, [⟨0, 32, .ro, .pool⟩, ⟨32, 32, .ro, .pool⟩]⟩,
  ⟨QOS_CH_USE.reg, .chip, [⟨0, 32, .ro, .pool⟩, ⟨32, 32, .ro, .pool⟩]⟩,
  ⟨DDR_CTL.reg, .ddr, [⟨0, 1, .rw, .pool⟩, ⟨1, 1, .wo, .never⟩, ⟨2, 1, .wo, .never⟩, ⟨8, 3, .ro, .ward⟩, ⟨11, 4, .ro, .ward⟩, ⟨16, 8, .ro, .ward⟩, ⟨24, 2, .ro, .ward⟩, ⟨26, 2, .ro, .ward⟩, ⟨28, 3, .ro, .ward⟩, ⟨32, 16, .ro, .ward⟩, ⟨48, 4, .ro, .power⟩]⟩,
  ⟨DDR_CFG.reg, .ddr, [⟨0, 8, .rw, .pool⟩, ⟨8, 1, .rw, .pool⟩, ⟨9, 2, .rw, .pool⟩, ⟨12, 12, .rw, .pool⟩, ⟨24, 8, .rw, .pool⟩, ⟨32, 12, .rw, .pool⟩, ⟨44, 8, .rw, .pool⟩]⟩,
  ⟨DDR_THERM.reg, .ddr, [⟨0, 8, .rw, .pool⟩, ⟨8, 8, .rw, .pool⟩, ⟨16, 8, .rw, .pool⟩, ⟨32, 8, .ro, .ward⟩, ⟨40, 2, .ro, .ward⟩, ⟨42, 1, .ro, .ward⟩]⟩,
  ⟨DDR_ECC_CFG.reg, .ddr, [⟨0, 16, .rw, .pool⟩, ⟨16, 8, .rw, .pool⟩, ⟨24, 8, .rw, .pool⟩, ⟨32, 16, .rw, .pool⟩]⟩,
  ⟨DDR_SCRUB.reg, .ddr, [⟨0, 1, .rw, .pool⟩, ⟨8, 8, .rw, .pool⟩, ⟨16, 32, .rw, .pool⟩]⟩]

/-- Part 9 of the register table. -/
def regRows9 : List RegRow := [
  ⟨DDR_SCRUB_STAT.reg, .ddr, [⟨0, 32, .ro, .ward⟩, ⟨32, 7, .ro, .ward⟩, ⟨39, 1, .ro, .ward⟩, ⟨40, 24, .ro, .ward⟩]⟩,
  ⟨DDR_ECC_CNT.reg, .ddr, [⟨0, 32, .ro, .ward⟩, ⟨32, 16, .ro, .ward⟩, ⟨48, 16, .ro, .ward⟩]⟩,
  ⟨DDR_MARK.reg, .ddr, [⟨0, 32, .ro, .power⟩]⟩,
  ⟨DDR_LOAD.reg, .ddr, [⟨0, 32, .ro, .ward⟩, ⟨32, 32, .ro, .ward⟩]⟩,
  ⟨DDR_LOAD2.reg, .ddr, [⟨0, 32, .ro, .ward⟩, ⟨32, 16, .ro, .ward⟩, ⟨48, 16, .ro, .ward⟩]⟩,
  ⟨DDR_INJECT.reg, .ddr, [⟨0, 1, .rw, .ward⟩, ⟨1, 1, .rw, .ward⟩, ⟨2, 2, .rw, .ward⟩, ⟨4, 4, .rw, .ward⟩, ⟨8, 8, .rw, .ward⟩, ⟨16, 8, .rw, .ward⟩, ⟨24, 1, .rw, .ward⟩, ⟨28, 4, .rw, .ward⟩]⟩,
  ⟨DDR_CNT_CLR.reg, .ddr, [⟨0, 1, .wo, .never⟩]⟩,
  ⟨DDR_SPD.reg, .ddr, [⟨0, 64, .ro, .ward⟩]⟩,
  ⟨SEC_CFG.reg, .chip, [⟨0, 16, .rw, .pool⟩]⟩,
  ⟨SEC_FW.reg, .chip, [⟨0, 7, .ro, .never⟩, ⟨8, 7, .ro, .warm⟩, ⟨15, 1, .ro, .warm⟩, ⟨16, 2, .ro, .warm⟩, ⟨18, 3, .ro, .never⟩, ⟨24, 1, .wo, .never⟩, ⟨25, 3, .wo, .never⟩]⟩,
  ⟨SEC_DEBUG.reg, .chip, [⟨0, 1, .ro, .power⟩, ⟨1, 1, .ro, .power⟩, ⟨2, 1, .ro, .cold⟩]⟩,
  ⟨SEC_STAT.reg, .chip, [⟨0, 2, .ro, .warm⟩, ⟨16, 16, .ro, .pool⟩, ⟨32, 16, .ro, .pool⟩]⟩]

/-- Part 10 of the register table. -/
def regRows10 : List RegRow := [
  ⟨SEC_KEY_SLOT.reg, .chip, [⟨0, 2, .ro, .pool⟩, ⟨2, 2, .ro, .pool⟩, ⟨4, 4, .ro, .pool⟩]⟩,
  ⟨SEC_KEY_CNT.reg, .chip, [⟨0, 32, .ro, .pool⟩, ⟨32, 16, .ro, .pool⟩]⟩,
  ⟨PRT_SEC_CFG.reg, .prt, [⟨0, 1, .rwl, .pool⟩, ⟨1, 1, .ro, .pool⟩, ⟨2, 1, .ro, .pool⟩]⟩,
  ⟨PRT_SEC_CNT.reg, .prt, [⟨0, 16, .ro, .part⟩, ⟨16, 16, .ro, .part⟩, ⟨32, 16, .ro, .part⟩]⟩,
  ⟨PRT_SEC_CLR.reg, .prt, [⟨0, 1, .wo, .never⟩]⟩,
  ⟨FLT_CFG.reg, .chip, [⟨0, 16, .rw, .pool⟩, ⟨16, 4, .rw, .pool⟩]⟩,
  ⟨FLT_CELL_RETRY.reg, .chip, [⟨0, 3, .rw, .pool⟩]⟩,
  ⟨FLT_INJECT.reg, .chip, [⟨0, 21, .rw, .pool⟩, ⟨21, 2, .rw, .pool⟩, ⟨23, 1, .rw, .pool⟩, ⟨24, 1, .wo, .never⟩]⟩,
  ⟨FLT_FIRST.reg, .flt, [⟨0, 21, .ro, .ward⟩, ⟨21, 2, .ro, .ward⟩, ⟨23, 3, .ro, .ward⟩, ⟨26, 5, .ro, .ward⟩, ⟨31, 1, .w1c, .ward⟩, ⟨32, 1, .ro, .ward⟩]⟩,
  ⟨FLT_FIRST_ADDR.reg, .flt, [⟨0, 46, .ro, .ward⟩, ⟨46, 1, .ro, .ward⟩]⟩,
  ⟨FLT_FIRST_SYN.reg, .flt, [⟨0, 64, .ro, .ward⟩]⟩,
  ⟨FLT_FIRST_TIME.reg, .flt, [⟨0, 64, .ro, .ward⟩]⟩]

/-- Part 11 of the register table. -/
def regRows11 : List RegRow := [
  ⟨FLT_CNT.reg, .flt, [⟨0, 16, .ro, .ward⟩, ⟨16, 16, .ro, .ward⟩, ⟨32, 16, .ro, .ward⟩, ⟨48, 16, .ro, .ward⟩]⟩,
  ⟨FLT_CE_CFG.reg, .flt, [⟨0, 16, .rw, .pool⟩, ⟨16, 8, .rw, .pool⟩]⟩,
  ⟨FLT_WIRE.reg, .flt, [⟨0, 16, .ro, .ward⟩, ⟨16, 16, .ro, .power⟩]⟩,
  ⟨FLT_CNT_CLR.reg, .flt, [⟨0, 1, .wo, .never⟩]⟩,
  ⟨IRQ_SRC_CFG.reg, .chip, [⟨0, 1, .rw, .pool⟩, ⟨1, 1, .rw, .pool⟩, ⟨2, 2, .rw, .pool⟩, ⟨4, 5, .rw, .pool⟩, ⟨9, 3, .rw, .pool⟩, ⟨12, 5, .rw, .pool⟩, ⟨17, 11, .rw, .pool⟩, ⟨28, 12, .rw, .pool⟩, ⟨40, 8, .rw, .pool⟩, ⟨48, 1, .ro, .pool⟩]⟩,
  ⟨IRQ_SRC_CNT.reg, .chip, [⟨0, 8, .ro, .pool⟩, ⟨8, 1, .ro, .pool⟩, ⟨16, 8, .wo, .never⟩]⟩,
  ⟨IRQ_WAKE.reg, .chip, [⟨0, 11, .rw, .pool⟩, ⟨11, 1, .rw, .pool⟩]⟩,
  ⟨IRQ_STAT.reg, .chip, [⟨0, 32, .ro, .pool⟩, ⟨32, 16, .ro, .pool⟩]⟩,
  ⟨IRQ_STAT_CLR.reg, .chip, [⟨0, 1, .wo, .never⟩]⟩,
  ⟨CHIP_START.reg, .chip, [⟨0, 3, .ro, .warm⟩, ⟨3, 1, .ro, .pool⟩, ⟨4, 1, .ro, .pool⟩, ⟨5, 1, .ro, .warm⟩, ⟨6, 1, .ro, .warm⟩, ⟨7, 1, .ro, .warm⟩, ⟨8, 8, .ro, .warm⟩, ⟨16, 32, .ro, .power⟩]⟩,
  ⟨CHIP_RST_CTL.reg, .chip, [⟨0, 3, .rw, .pool⟩, ⟨3, 5, .rw, .pool⟩, ⟨8, 1, .wo, .never⟩]⟩,
  ⟨CHIP_RST_STAT.reg, .chip, [⟨0, 3, .ro, .cold⟩, ⟨3, 5, .ro, .cold⟩, ⟨8, 3, .ro, .cold⟩, ⟨11, 1, .ro, .cold⟩]⟩]

/-- Part 12 of the register table. -/
def regRows12 : List RegRow := [
  ⟨CHIP_CFG.reg, .chip, [⟨0, 1, .rw, .cold⟩, ⟨1, 1, .rw, .cold⟩, ⟨2, 1, .rw, .cold⟩, ⟨3, 1, .wo, .never⟩, ⟨8, 8, .rw, .cold⟩, ⟨16, 16, .rw, .cold⟩]⟩,
  ⟨CHIP_SLEEP.reg, .chip, [⟨0, 2, .rw, .pool⟩, ⟨2, 4, .rw, .pool⟩, ⟨6, 1, .rw, .pool⟩, ⟨7, 1, .rw, .pool⟩, ⟨8, 2, .ro, .pool⟩, ⟨10, 4, .ro, .pool⟩, ⟨14, 1, .ro, .pool⟩, ⟨16, 16, .rw, .pool⟩]⟩,
  ⟨CHIP_RECOVERY_ADDR.reg, .chip, [⟨0, 64, .rw, .warm⟩]⟩,
  ⟨CHIP_RECOVERY_CTL.reg, .chip, [⟨0, 24, .rw, .warm⟩, ⟨24, 1, .wo, .never⟩, ⟨25, 2, .ro, .warm⟩]⟩,
  ⟨CHIP_DEFECT.reg, .chip, [⟨0, 9, .ro, .never⟩, ⟨16, 16, .ro, .power⟩]⟩,
  ⟨CHIP_TALLY_HDR.reg, .chip, [⟨0, 64, .ro, .power⟩]⟩,
  ⟨CHIP_TALLY_ENT.reg, .chip, [⟨0, 64, .ro, .power⟩]⟩,
  ⟨AON_HOLD.reg, .chip, [⟨0, 8, .ro, .power⟩, ⟨8, 1, .ro, .power⟩, ⟨16, 11, .ro, .power⟩, ⟨27, 3, .ro, .power⟩, ⟨30, 1, .ro, .power⟩, ⟨31, 1, .ro, .power⟩, ⟨32, 4, .ro, .power⟩, ⟨36, 2, .ro, .power⟩, ⟨38, 1, .ro, .power⟩, ⟨39, 1, .ro, .power⟩]⟩,
  ⟨AON_TIME.reg, .chip, [⟨0, 64, .ro, .power⟩]⟩,
  ⟨AON_SLEEP.reg, .chip, [⟨0, 1, .wo, .never⟩]⟩,
  ⟨AON_FATAL_CNT.reg, .chip, [⟨0, 5, .ro, .power⟩, ⟨16, 32, .ro, .power⟩]⟩,
  ⟨AON_FATAL.reg, .chip, [⟨0, 64, .ro, .power⟩]⟩]

/-- Part 13 of the register table. -/
def regRows13 : List RegRow := [
  ⟨ELD_CFG.reg, .chip, [⟨0, 8, .rwl, .pool⟩, ⟨8, 8, .rwl, .pool⟩, ⟨16, 8, .rwl, .pool⟩, ⟨24, 8, .rwl, .pool⟩, ⟨32, 16, .rwl, .pool⟩, ⟨48, 1, .rwl, .pool⟩, ⟨49, 3, .rwl, .pool⟩]⟩,
  ⟨ELD_STAT.reg, .chip, [⟨0, 8, .ro, .pool⟩, ⟨8, 8, .ro, .pool⟩, ⟨16, 3, .ro, .pool⟩, ⟨19, 3, .ro, .pool⟩, ⟨22, 1, .ro, .pool⟩, ⟨23, 1, .ro, .pool⟩, ⟨24, 1, .ro, .pool⟩, ⟨32, 8, .ro, .pool⟩, ⟨40, 8, .ro, .pool⟩]⟩,
  ⟨ELD_LOG.reg, .chip, [⟨0, 32, .ro, .pool⟩, ⟨32, 16, .ro, .pool⟩]⟩,
  ⟨ELD_CNT.reg, .chip, [⟨0, 16, .ro, .pool⟩, ⟨16, 16, .ro, .pool⟩, ⟨32, 16, .ro, .pool⟩, ⟨48, 16, .ro, .pool⟩]⟩,
  ⟨ELD_CTL.reg, .chip, [⟨0, 1, .wo, .never⟩, ⟨1, 1, .wo, .never⟩, ⟨2, 1, .wo, .never⟩]⟩,
  ⟨ELD_CNT_CLR.reg, .chip, [⟨0, 1, .wo, .never⟩]⟩,
  ⟨AON_GOV_CFG.reg, .chip, [⟨0, 12, .rw, .cold⟩, ⟨12, 8, .rw, .cold⟩, ⟨20, 8, .rw, .cold⟩]⟩,
  ⟨AON_GOV_STAT.reg, .chip, [⟨0, 12, .ro, .warm⟩, ⟨12, 4, .ro, .warm⟩, ⟨16, 4, .ro, .warm⟩, ⟨32, 16, .ro, .warm⟩]⟩,
  ⟨AON_WARD_CLK.reg, .chip, [⟨0, 7, .rw, .cold⟩, ⟨8, 7, .ro, .warm⟩, ⟨16, 10, .ro, .warm⟩, ⟨32, 10, .ro, .warm⟩]⟩,
  ⟨AON_SUPPLY.reg, .chip, [⟨0, 16, .ro, .warm⟩, ⟨16, 16, .ro, .warm⟩, ⟨32, 16, .ro, .warm⟩, ⟨48, 1, .ro, .warm⟩]⟩,
  ⟨AON_THERM.reg, .chip, [⟨0, 8, .ro, .warm⟩, ⟨8, 7, .ro, .warm⟩, ⟨15, 1, .ro, .power⟩]⟩,
  ⟨AON_AVS.reg, .chip, [⟨0, 2, .ro, .warm⟩, ⟨8, 8, .ro, .warm⟩]⟩]

/-- Part 14 of the register table. -/
def regRows14 : List RegRow := [
  ⟨CHIP_ID.reg, .chip, [⟨0, 16, .ro, .never⟩, ⟨16, 4, .ro, .never⟩, ⟨20, 4, .ro, .never⟩, ⟨24, 8, .ro, .never⟩, ⟨32, 16, .ro, .never⟩, ⟨48, 11, .ro, .never⟩]⟩,
  ⟨CHIP_VARIANT.reg, .chip, [⟨0, 7, .ro, .never⟩, ⟨8, 12, .ro, .never⟩, ⟨20, 2, .ro, .never⟩, ⟨22, 2, .ro, .never⟩, ⟨24, 8, .ro, .never⟩]⟩,
  ⟨CHIP_UID_LO.reg, .chip, [⟨0, 64, .ro, .never⟩]⟩,
  ⟨CHIP_UID_HI.reg, .chip, [⟨0, 64, .ro, .never⟩]⟩,
  ⟨CHIP_STRAP.reg, .chip, [⟨0, 4, .ro, .warm⟩, ⟨4, 2, .ro, .warm⟩, ⟨6, 1, .ro, .warm⟩, ⟨7, 1, .ro, .warm⟩]⟩,
  ⟨CHIP_LOCK.reg, .chip, [⟨0, 1, .w1s, .cold⟩]⟩,
  ⟨PRT_CTL.reg, .prt, [⟨0, 16, .rw, .pool⟩, ⟨16, 1, .rw, .pool⟩, ⟨17, 1, .w1s, .pool⟩, ⟨18, 1, .ro, .pool⟩, ⟨19, 3, .ro, .pool⟩]⟩,
  ⟨CHIP_FLOOR_SUM.reg, .chip, [⟨0, 9, .ro, .pool⟩, ⟨16, 5, .ro, .pool⟩, ⟨32, 6, .ro, .pool⟩, ⟨40, 6, .ro, .pool⟩, ⟨48, 5, .ro, .pool⟩, ⟨53, 5, .ro, .pool⟩]⟩,
  ⟨CHIP_FLOOR_WARD.reg, .chip, [⟨0, 1, .ro, .warm⟩, ⟨1, 1, .ro, .pool⟩, ⟨8, 8, .ro, .pool⟩, ⟨16, 8, .ro, .pool⟩, ⟨24, 4, .ro, .pool⟩, ⟨28, 4, .ro, .pool⟩]⟩,
  ⟨CHIP_FLOOR_SLICE.reg, .chip, [⟨0, 2, .ro, .pool⟩, ⟨2, 5, .ro, .pool⟩, ⟨7, 5, .ro, .pool⟩, ⟨12, 1, .ro, .pool⟩, ⟨13, 5, .ro, .pool⟩, ⟨18, 1, .ro, .pool⟩, ⟨19, 1, .ro, .pool⟩, ⟨20, 1, .ro, .pool⟩, ⟨21, 4, .ro, .pool⟩, ⟨25, 1, .ro, .pool⟩, ⟨32, 16, .ro, .pool⟩]⟩,
  ⟨XRD_ROUTE.reg, .chip, [⟨0, 32, .ro, .warm⟩]⟩,
  ⟨XRD_MCAST_LO.reg, .chip, [⟨0, 32, .ro, .warm⟩, ⟨32, 1, .ro, .warm⟩]⟩]

/-- Part 15 of the register table. -/
def regRows15 : List RegRow := [
  ⟨XRD_MCAST_HI.reg, .chip, [⟨0, 32, .ro, .warm⟩, ⟨32, 1, .ro, .warm⟩]⟩]

/-- The whole register table (19 R667). -/
def regRows : List RegRow :=
  regRows0 ++ regRows1 ++ regRows2 ++ regRows3 ++ regRows4 ++ regRows5 ++ regRows6 ++ regRows7 ++ regRows8 ++ regRows9 ++ regRows10 ++ regRows11 ++ regRows12 ++ regRows13 ++ regRows14 ++ regRows15

end Sys2Proof.Machine
end

