-- ==== Sys2Proof/Machine/State.lean ====
section
/-!
DEFINITION. Sys2Proof/Machine/State.lean: everything the spec gives the block to hold, as plain data, the outcomes a
step can end in, and the state after a POWER reset. INVENTORY.md lists each piece with its rule.
Keyed lists hold their keys strictly rising (Machine/Sparse.lean).
-/
namespace Sys2Proof.Machine

/-- Why the machine stops. -/
inductive Fault where
  /-- A host error that the named rule calls unpredictable and gives no outcome for (00 R26). Raised by the commands
  that such an error reaches. Safe: the hardware goes on in some unstated way and the model claims nothing of it. -/
  | hostError (rule : Nat)
deriving DecidableEq, Repr

/-- Why a command has no meaning. -/
inductive Refusal where
  /-- The arm of a command that this model does not cover yet. Raised by Dispatch only. Safe: nothing is claimed. -/
  | notModelled (mnemonic : String)
deriving DecidableEq, Repr

/-- What the chip puts on one of its interfaces. Nothing in the chip reads it back (log entry 2). -/
inductive Out where
  /-- A posted write to host memory under function `func`'s requester ID (03 R135, R140). -/
  | hostWrite (func addr : Nat) (data : List Byte)
  /-- A read of host memory that the chip issues (03 R135). -/
  | hostRead (func addr len : Nat)
  /-- The answer to a register read, an aperture read or a doorbell read: 0 SC, 1 UR, 2 CA, 3 SC with EP (03 R138). -/
  | hostReply (func status : Nat) (data : List Byte)
  /-- An error the endpoint reports through advanced error reporting: 2 Completer Abort (03 R138). -/
  | aer (func code : Nat)
  /-- An MSI-X message (15 R566). -/
  | msix (func vec : Nat)
  /-- A packet put on port `port`'s packet stream (12 R457). -/
  | packet (port : Nat) (p : Pkt)
  /-- A control flit, an idle flit or a training block on port `port`: its kind and its fields. -/
  | link (port kind : Nat) (args : List Nat)
  /-- A command or an access to drive `d` over its root port: kind, arguments (04 R204). -/
  | nvme (d kind : Nat) (args : List Nat)
  /-- The lines that command `id` to drive `d` carries, of partition `part`: line, whether it is poisoned, its plaintext.
  What the link moves is their ciphertext (data LBAs), or their MACs (a MAC LBA), as `lbaData` and `lbaMacs` say
  (04 R185 to R187). MACs of lines that are not cached stand in `old`, the MAC LBA as it was read. -/
  | granary (d id part : Nat) (lines : List (Nat × Bool × List Byte)) (old : List Byte)
  /-- A command to channel `c`'s DIMMs: kind, arguments (13). -/
  | dimm (c kind : Nat) (args : List Nat)
  /-- An answer over the DOE mailbox (14 R538). -/
  | spdm (msg : List Byte)
  /-- An answer of the test port (14 R540, 18 R646). -/
  | tap (data : List Byte)
  /-- An AVSBus, SPI, SMBus or pin action: kind, arguments (18). -/
  | board (kind : Nat) (args : List Nat)
deriving DecidableEq, Repr

/-- States of an extent (02 R115). -/
inductive ExtSt where
  | opening | open | moving | closing | scrubbing
deriving DecidableEq, Repr

/-- One extent-table entry, keyed by its base in GiB (02 R112 to R125, 04 R185, R209). -/
structure Ext where
  lenG : Nat
  part : Nat
  deep : Bool
  table : Bool
  coh : Bool
  dom : Nat
  st : ExtSt
  /-- Offset of its slot on each of the partition's channels: (channel, offset, bytes) (02 R110). -/
  slots : List (Nat × Nat × Nat)
  /-- Its Granary units: (drive, first unit, count) (04 R185). -/
  units : List (Nat × Nat × Nat)
  /-- Drives of its stripe that were lost while it held chunks on them (04 R209). -/
  lost : List Nat
  /-- The descriptor under way on it: (ring slot, index). -/
  by_ : Option (Nat × Nat)
  /-- Slots and units that a move has taken. -/
  newSlots : List (Nat × Nat × Nat)
  newUnits : List (Nat × Nat × Nat)
  /-- A release that meets a move: the moving descriptor (02 R123). -/
  poisoned : Nat
  absorbed : Bool
  /-- A release that was accepted while it is OPENING, by its descriptor (log entry 40). -/
  closeAfter : Option (Nat × Nat) := none
  /-- Every block's written bit is 1: a move filled the Granary range (04 R184, 02 R125). -/
  allWritten : Bool
deriving DecidableEq, Repr

/-- One translation copy (02 R87). -/
structure Copy where
  slice : Nat
  tag : Nat
  big : Bool
  key : Nat
  rights : Nat
  pa : Nat
deriving DecidableEq, Repr

/-- A line that a tile has still to write: its tag, address, bytes, and whether it is written poisoned. -/
structure TileOut where
  tag : Nat
  addr : Nat
  data : List Byte
  poison : Bool
deriving DecidableEq, Repr

/-- Who makes an access: a started descriptor, a packet request or an aperture access. -/
inductive Holder where
  | desc (r d : Nat)
  | req (id : Nat)
  /-- The result writes of a contribution set, by its object (07 R311 step 2). -/
  | set (obj : Nat)
  /-- The member-list read of an arming, by its object (07 R307 step 3). -/
  | arm (obj : Nat)
  /-- The image read of a program load, by its partition (06 R281). -/
  | load (part : Nat)
deriving DecidableEq, Repr

/-- A convert-on-read view as the lookup of a read found it (05 R256 to R258): its number, the window's line, its formats,
RND, STORE_BASE, and the partition's SAT_NARROW and EXC_EVENT. -/
structure ViewSnap where
  k : Nat
  n : Nat
  sfmt : Nat
  vfmt : Nat
  rnd : Bool
  base : Nat
  sat : Bool
  exc : Bool
deriving DecidableEq, Repr

/-- One line's access from its lookup on (02 R75, R94, R120): who makes it, its tag, address and the rights it needs, the
slot and partition that its lookup gave, the view it fell in, and, once it is translated, the base (GiB) of its extent, its
pool line and, in a coherent extent, its directory key. -/
structure Flight where
  id : Nat
  who : Holder
  tag : Nat
  addr : Nat
  need : Nat
  slot : Nat
  part : Nat
  view : Option ViewSnap
  res : Option (Nat × Nat × Option Nat)
  /-- XLT_REQ_LIFE ran out: it ends with poison (R95). -/
  poison : Bool
deriving DecidableEq, Repr

/-- One fault coalescing entry (02 R100 to R103). -/
structure FaultEnt where
  slice : Nat
  part : Nat
  tag : Nat
  page : Nat
  count : Nat
  acc : Nat
  first : Nat
  firstRing : Bool
  holders : List Holder
  written : Bool
  /-- Who has joined: each request once, held or not (R101 step 2). -/
  joined : List Holder
deriving DecidableEq, Repr

/-- What a started descriptor or a line of a held request waits for. -/
inductive Wait where
  /-- Nothing: it can go on. -/
  | run
  /-- The fault entry of (partition, tag, page) (02 R101). -/
  | held (part tag page : Nat)
  /-- RETRY_AFTER or a NAK's DELAY to pass (02 R105). -/
  | retry
  /-- A Granary fill of this 4 KiB block (04 R189). -/
  | fill (block : Nat)
  /-- Coherence: the transaction on this line (09 R359). -/
  | coh (line : Nat)
  /-- The channel, which is in a quiet window, a retrain or HOLD (13 R502). -/
  | chan (c : Nat)
  /-- A way of this set of the DRAM cache to become eligible (04 R193). -/
  | way (set : Nat)
  /-- Another command of the table that ends it. -/
  | ext
  /-- The end of a freeze: its opcode commits (17 R616). -/
  | commit
  /-- Its turn at an object, on which operations wait behind an ARM_SET that reads its member list (07 R298). -/
  | obj (o : Nat)
  /-- Its turn at the object that it signals, its work done with this RESULT and DONE; whether the turn has come (03 R160,
  07 R298). -/
  | sig (o result cnt : Nat) (turn : Bool)
  /-- A place for its tile on a cell of this slice (06 R286). -/
  | cell (sl : Nat)
  /-- It ends with this status (03 R159) when it next goes on. -/
  | ends (status : Nat)
deriving DecidableEq, Repr

/-- A program load under way, keyed by partition (06 R280, R281): the slot, address and tag sampled at GO, what its
image read waits for, and the address of the line that waits. -/
structure Load where
  slot : Nat
  addr : Nat
  space : Nat
  wait : Wait
  at_ : Nat
deriving DecidableEq, Repr

/-- A descriptor that has started and not completed (03 R149, R161). `prog` counts what it has finished, `aux` and
`buf` hold what its opcode carries between commands. -/
structure Started where
  ring : Nat
  idx : Nat
  words : List Word
  prog : Nat
  wait : Wait
  aux : List Nat
  buf : List Byte
  bad : Bool
  /-- Bases (GiB) of the extents it holds a fence token of (02 R120). -/
  touch : List Nat
  /-- The tags it uses, with the slots that the ring engine's lookup gave (02 R72, R75). -/
  tags : List (Nat × Nat) := []
  /-- The 4 KiB blocks it touched last, at most 64: its move pin (04 R197). -/
  win : List Nat := []
  /-- Blocks whose move was under way when it started (04 R197). -/
  moves : List Nat := []
deriving DecidableEq, Repr

/-- A ring's state beside its registers (03 R152, R166, R171; 15 R569). -/
structure RingX where
  pend : Nat
  lost : Nat
  stalled : Bool
  wedged : Bool
  /-- Descriptors of the fetch that is outstanding. -/
  fetching : Nat
  /-- The STOP_CAUSE of a stop under way; 0 none (R151). -/
  stopping : Nat
  /-- Aperture writes that were under way when a doorbell of their function came: the first index that doorbell announced,
  and the request's number (R165). -/
  behind : List (Nat × Nat) := []
deriving DecidableEq, Repr

/-- A finished completion that a full or unacknowledged ring holds (03 R149). -/
structure HeldCpl where
  ring : Nat
  w0 : Word
  w1 : Word
  notify : Bool
deriving DecidableEq, Repr

/-- How a line of a held request stands. -/
inductive LineSt where
  | wait (w : Wait)
  | okL (data : List Byte)
  | poisonL
  /-- Ended with NAK (code 1 or 2, delay) or ERROR_RESP (cause). -/
  | nakL (code delay : Nat)
  | errL (cause : Nat)
deriving DecidableEq, Repr

/-- An admitted packet request that has not been answered (02 R94, R101; 11 R421). -/
structure HeldReq where
  id : Nat
  port : Nat
  pkt : Pkt
  lines : List LineSt
  /-- The slot and the partition of its first address that its lookup gave (02 R75). -/
  look : Option (Nat × Nat) := none
deriving DecidableEq, Repr

/-- A near-store line, keyed by line number: dirty, share (0 policy, 1 pin, 2 accumulator reserve, 3 an accumulator in
the policy share), last use (04 R174 to R177). -/
structure NearLine where
  slice : Nat
  dirty : Bool
  share : Nat
  used : Nat
deriving DecidableEq, Repr

/-- A pin range of whole lines [lo, hi) (04 R199, R200). -/
structure PinRange where
  part : Nat
  dram : Bool
  lo : Nat
  hi : Nat
deriving DecidableEq, Repr

/-- The attribute of a 64 MiB page: one hint at a time (04 R199). -/
inductive PageHint where
  | none | hot | cold | streamOnce | evictFirst
deriving DecidableEq, Repr

/-- A page's attribute and the partition whose HINT set it (04 R199, R203), keyed by 64 MiB page of the pool. -/
structure PageAttr where
  hint : PageHint
  part : Nat
deriving DecidableEq, Repr

/-- A DRAM-cache block, keyed by block number (04 R183, R189 to R193). -/
structure Blk where
  ch : Nat
  filling : Bool
  dirty : Bool
  held : Bool
  /-- A group write-back of it is under way, and it was written meanwhile. -/
  wb : Bool
  wbDirty : Bool
  cnt : Nat
  used : Nat
  /-- The way of its set that it takes, 0 to 15 (04 R183). -/
  way : Nat
  /-- It entered under STREAM_ONCE: the next victim of its set (04 R196). -/
  next : Bool
  /-- Lines whose copy here is poison, whatever the Granary holds (04 R174, R193; 13 R509). -/
  bad : List Nat
deriving DecidableEq, Repr

/-- An entry of a slice's MAC cache (01 R54, 13 R491): a MAC line of a channel, or the MAC LBA of a Granary group, with
the 64-byte lines it takes; whether it is to be written back. -/
structure MacEnt where
  slice : Nat
  size : Nat
  dirty : Bool
  used : Nat
deriving DecidableEq, Repr

/-- The tiers' bookkeeping (04). -/
structure Tier where
  near : List (Nat × NearLine)
  pins : List PinRange
  attrs : List (Nat × PageAttr)
  pageCnt : List (Nat × Nat)
  blocks : List (Nat × Blk)
  /-- Blocks whose written bit is 1 (04 R184). -/
  written : List Nat
  clock : Nat
  /-- Partitions whose write-back engine runs (04 R191). -/
  wbOn : List Nat
  /-- Dirty deep lines that have left the near store and wait for their block to come to the DRAM cache (04 R180, R196). -/
  wbuf : List Nat
  /-- The MAC caches, by channel × 2^48 + MAC line, or 2^60 + group (13 R491, 04 R189). -/
  macs : List (Nat × MacEnt)
  /-- The tag caches: tag lines, by channel × 2^48 + line, with their last use (04 R183). -/
  tagLines : List (Nat × Nat)
  /-- Blocks that a lost written-map line covered: they read as poison until they are written (13 R509). -/
  mapBad : List Nat
deriving DecidableEq, Repr

/-- A live version of a published region, keyed by partition × 4096 + region × 4 + slot (08 R323, R324). -/
structure Ver where
  num : Nat
  /-- Bases (GiB) of its extents, in order. -/
  exts : List Nat
  pins : Nat
deriving DecidableEq, Repr

/-- A version under release: its extents and the requests poisoned so far (08 R337). -/
structure VerRel where
  part : Nat
  region : Nat
  num : Nat
  exts : List Nat
  left : List Nat
  poisoned : Nat
deriving DecidableEq, Repr

/-- The accumulator of one element: FP32, FP32X2 pair or INT32, as encoded words hi and lo (05 R233). -/
structure AccW where
  kind : Nat
  hi : Nat
  lo : Nat
deriving DecidableEq, Repr

/-- An armed contribution set, keyed by its object (07 R306 to R313). -/
structure SetX where
  part : Nat
  /-- Its parameter line, with SET_SPACE and MSPACE resolved (R306). -/
  line : List Word
  space : Nat
  /-- Members' nodes, when the set has a list; contributions counted by member; bits of the bitmap that are set. -/
  members : List Nat
  table : List (Nat × Nat)
  bits : List Nat
  acc : List (Nat × AccW)
  /-- Segments whose accumulator lines are placed. -/
  placed : List Nat
  nextAcc : Nat
  fl : Nat
  dups : Nat
  /-- SAT_NARROW and EXC_EVENT when it was armed (05 R258). -/
  sat : Bool
  exc : Bool
  /-- First elements of accumulator lines found poisoned (05 R245), and lines whose write failed. -/
  bad : List Nat
  failed : Bool
  /-- Result lines written so far, once COMPLETING; what its next write waits for. -/
  prog : Nat
  wait : Wait
deriving DecidableEq, Repr

/-- An invocation of a pool program, keyed by ring × 2^32 + index (06 R284 to R290). -/
structure Invoc where
  part : Nat
  slot : Nat
  img : List Word
  /-- The argument block's words; none until it is read and its checks have passed. -/
  args : List Word
  par : List Nat
  /-- SAT_NARROW and EXC_EVENT when it started (05 R258). -/
  sat : Bool
  exc : Bool
  /-- Where the free values of its constants start. -/
  c0 : Nat
  acc : List AccW
  fl : Nat
  /-- Tiles that have ended; those skipped or poisoned, the first and the last of them. -/
  tile : Nat
  bad : Nat
  badLo : Nat
  badHi : Nat
  outs : List TileOut
  /-- The status it stopped with, 0 while it has not (R289). -/
  stop : Nat
  /-- 0 its block, and then its parameters, are read, 1 its tiles run, 2 every tile has ended, 3 its targets are delivered. -/
  phase : Nat
  tgt : Nat
  /-- The cell that holds the tile under way, slice × 17 + position (R286). -/
  cell : Option Nat
  /-- The accumulators before the tile under way, and whether a line of it has been written. -/
  acc0 : List AccW
  begun : Bool
deriving DecidableEq, Repr

/-- A compute cell's own state (05 R216, R230), keyed by slice × 17 + position: the seed of its generator, and the tiles that
its local store holds, by the invocation that runs them (06 R286). -/
structure Cell where
  seed : Nat
  tiles : List Nat
deriving DecidableEq, Repr

/-- An ARM_SET that waits for its member list (07 R307 step 3): the object, who asked (a descriptor, or a held
SYNC_OP by its id), the set it would arm, what the list's read waits for, and the address of the line that waits. -/
structure Arming where
  obj : Nat
  who : Holder
  set : SetX
  guard : Bool
  wait : Wait
  at_ : Nat
deriving DecidableEq, Repr

/-- What opened a coherence transaction (09 R359). -/
inductive CohKind where
  | rdShared | rdOwn | upgrade | read | write | atomic | recall
deriving DecidableEq, Repr

/-- Who holds a coherent line, as its directory entry says (09 R349, R352). -/
structure Holding where
  owner : Option Nat
  isO : Bool
  sharers : List Nat
  coarse : Bool
deriving DecidableEq, Repr

/-- An open coherence transaction of a line (09 R354, R360). -/
structure CohTx where
  kind : CohKind
  /-- The requesting agent and its request, for a member's request. -/
  agent : Nat
  req : Option Pkt
  port : Nat
  /-- The non-coherent access that opened it: a FWD_READ serves it, or it waits for the line. -/
  reader : Option Holder
  /-- Members whose answer to a COH_INVAL is awaited. -/
  acks : List Nat
  /-- The owner a COH_FWD is open to, and its KIND (R356). -/
  fwd : Option Nat
  fwdKind : Nat
  /-- A COH_FWD goes to the owner once the invalidations end. -/
  thenFwd : Bool
  /-- Members that are invalidated once the owner's line has been recalled (R359, ATOMIC). -/
  thenInv : List Nat
  /-- The owner's write-back is awaited, after NONE_WB. -/
  wb : Bool
  /-- How the owner answered: the code of R357. -/
  ans : Option Nat
  data : Option (List Byte × Bool)
  /-- The requester owes DONE; its DONE came before the owner's answer. -/
  done : Bool
  early : Bool
  /-- What the entry held as the transaction opened: a read that ends with poison leaves it so (R361). -/
  was : Holding
  /-- The home's tag that its snoops carry. -/
  tag : Nat
deriving DecidableEq, Repr

/-- A directory entry, keyed by domain × 2^42 + line of the space address (09 R349 to R352). -/
structure DirEnt where
  /-- Pool line it maps to. -/
  pl : Nat
  owner : Option Nat
  /-- The owner may share: home state O, not X. -/
  isO : Bool
  sharers : List Nat
  coarse : Bool
  used : Nat
  tx : Option CohTx
  /-- Listed requesters, and the one the line is reserved for (R362). -/
  waiters : List Nat
  resv : Option Nat
deriving DecidableEq, Repr

/-- The coherent domains' state beside their registers (09). -/
structure Coh where
  dir : List (Nat × DirEnt)
  clock : Nat
  nextTag : Nat
  /-- Data a member sent to the home for a waiting reader: holder, line, bytes, poison. -/
  ready : List (Holder × Nat × List Byte × Bool)
  /-- Domains whose teardown is under way, with cause and failed agent (0x100 none). -/
  down : List (Nat × Nat × Nat)
deriving DecidableEq, Repr

/-- A Watch record under handling or in its coalescing window (15 R551 to R554, R560). -/
structure ErrRec where
  id : Nat
  coll : Nat
  kind : Nat
  inst : Nat
  err : Nat
  cls : Nat
  level : Nat
  part : Nat
  access : Nat
  space : Nat
  count : Nat
  merged : Bool
  esc : Bool
  addr : Option Nat
  time : Nat
  synd : Nat
  poisoned : Nat
  ended : Nat
  lastSrc : Nat
  rung : Nat
  /-- A fatal error's containing scope, level × 1024 + instance. -/
  scope : Nat
deriving DecidableEq, Repr

/-- The Watch collectors beside their registers (15 R548 to R556). -/
structure Watch where
  recs : List ErrRec
  nextRec : Nat
  /-- The record whose error each collector latched. -/
  latched : List (Nat × Nat)
  ceWin : List (Nat × Nat)
  /-- Collectors whose event 0x0D01 of this window is written. -/
  ceSent : List Nat
  /-- Masked pairs, kind × 512 + instance. -/
  masked : List Nat
  /-- Retired cells, slice × 17 + position (01 R35). -/
  retired : List Nat
deriving DecidableEq, Repr

/-- The admission regulator of a channel (12 R470 to R477): credits in 1/256 of a slot and counts by charge partition. -/
structure ChanReg where
  cmin : List (Nat × Nat)
  cmax : List (Nat × Int)
  /-- The partition last served by each step of R473. -/
  rrMin : Nat
  rrMax : Nat
  /-- Deficits by charge partition × 4 + kind, and the kind last served by partition. -/
  kindDef : List (Nat × Nat)
  lastKind : List (Nat × Nat)
  /-- Available, granted and starved slots of the adaptation period. -/
  avail : Nat
  granted : List (Nat × Nat)
  starved : List (Nat × Nat)
  /-- Slots beyond the whole 1,024 that the registers count. -/
  usedRem : List (Nat × Nat)
  thrRem : List (Nat × Nat)
  stolenRem : Nat
  scrubRem : Nat
  /-- A delay is measured for the next line that leaves the sampled queue (R479). -/
  sampled : Bool
deriving DecidableEq, Repr

/-- Lines that wait for slots of a channel (12 R470): the charge partition (16 the pool), the kind, the time they were
queued, and how many they are. -/
structure SlotReq where
  cp : Nat
  kind : Nat
  at_ : Nat
  n : Nat
deriving DecidableEq, Repr

/-- A DRAM channel beside its registers (13). -/
structure ChanX where
  /-- Stored lines with symbol errors, by pool line: (symbol, XOR) pairs (R488, R495). MAC lines stand under 2^60, tag lines
  under 2^61 and written-map lines under 2^62, each plus its number on the channel. -/
  errs : List (Nat × List (Nat × Nat))
  /-- Device corrections of the window, by (2 × rank + subchannel) × 16 + device (R497). -/
  devCnt : List (Nat × Nat)
  ceWin : Nat
  ceSent : Bool
  /-- Fabric times of the uncorrectable lines of the last second (R510 cause 3). -/
  ueAt : List Nat
  /-- Lines read and written beyond the whole 1,024 that DDR_LOAD counts. -/
  rdRem : Nat
  wrRem : Nat
  actRem : Nat
  /-- A quiet window runs; one is due and waits for the other channel (R502). -/
  inWin : Bool
  winDue : Bool
  drift : Nat
  parity : Nat
  /-- Reason of the runtime retrain under way: 1 drift, 2 parity; 0 none. -/
  retrain : Nat
  retrainAt : Nat
  /-- HOLD waits for a window or retrain to end (R514). -/
  holdDue : Bool
  temps : List Int
  noTemp : Nat
  lowFor : Nat
  warned : Bool
  scrubAt : Nat
  lapAt : Nat
  /-- The channel came back by REARM and its lines are to be poisoned when training ends (R512). -/
  rearm : Bool
  /-- Lines that wait for a slot, oldest first (12 R470 to R473). -/
  slotQ : List SlotReq
  reg : ChanReg
  /-- When the quiet window under way began. -/
  winAt : Nat
  /-- A training at the lowest rate failed: no training until REARM (R501). -/
  dead : Bool
  /-- What the last reading of the SPD hubs found (R487). -/
  dimms : Option Dimms
  /-- Open rows, by bank: row, time of the last access (R492). -/
  rows : List (Nat × Nat × Nat)
deriving DecidableEq, Repr

/-- An NVMe command outstanding at a root port (04 R206): kind 0 Read, 1 Write, 2 Flush, 3 Write Zeroes,
4 Dataset Management, 5 Identify Controller, 6 Identify Namespace, 7 Set Features, 8 queue create, 9 SMART;
10 MAC Read, 11 MAC Write, 12 MAC Read before a write-back; `arg` is its block, group or LBA, `sl` the slice of the ward whose
queues it uses, `tries` how often it has been issued, 0 while it waits for a queue entry. -/
structure NvmeCmd where
  id : Nat
  kind : Nat
  arg : Nat
  lba : Nat
  len : Nat
  tries : Nat
  sl : Nat
deriving DecidableEq, Repr

/-- A drive's state beside its registers (04 R205 to R208). -/
structure DriveX where
  /-- Step of R205 under way, 1 to 5; 0 none. -/
  step : Nat
  /-- A controller reset runs (R206): 2 waits for RDY, 4 makes the queues; 0 none. -/
  resetting : Nat
  cmds : List NvmeCmd
  /-- Commands that wait for a queue entry, or for a controller reset to end, oldest first (04 R204, R206). -/
  held : List NvmeCmd
  nextId : Nat
  failRow : Nat
  /-- The last readings in range (°C), newest first, and the condition last judged. -/
  temps : List Int
  cond : Nat
  /-- The link of a drive in service is down. -/
  linkDown : Bool
  /-- Size of namespace 1 in bytes. -/
  nsBytes : Nat
  /-- Failed commands of a transfer under way, by 2 × block or 2 × group + 1, with their NVMe status. -/
  failed : List (Nat × Nat)
  /-- MAC LBAs read for a write-back under way, by group (04 R190). -/
  macRead : List (Nat × List Byte)
  /-- How often a queue command of the bring-up has been issued, by 2 × 128 × (kind - 7) + argument (04 R206). -/
  qTries : List (Nat × Nat)
deriving DecidableEq, Repr

/-- A packet queued at an egress port (12 R456): its class and flow, the port it came in on (32: this node), whether
it is yellow or a multicast copy, and the fabric time it was queued. -/
structure QEnt where
  tc : Nat
  flow : Nat
  pkt : Pkt
  inPort : Nat
  yellow : Bool
  copy : Bool
  at_ : Nat
deriving DecidableEq, Repr

/-- What one of the chip's own requests serves (11 R433): a descriptor fetch, a completion or record write, an issuer
access of a COPY. -/
inductive OwnKind where
  | fetch | cpl (notify : Bool) | issuerRd | issuerWr
deriving DecidableEq, Repr

/-- One of the chip's own READs or WRITEs awaiting its answer (11 R430, R433). -/
structure OwnReq where
  id : Nat
  kind : OwnKind
  ring : Nat
  idx : Nat
  pkt : Pkt
  /-- A NAK "retry after" runs: the resend waits for RETRY_AFTER_EXPIRY. -/
  naked : Bool
deriving DecidableEq, Repr

/-- A pending or held route commit (11 R443 to R446). -/
structure Commit where
  drain : Bool
  at_ : Nat
  ring : Nat
  idx : Nat
  /-- 0 pending, 1 old-epoch hold, 2 draining. -/
  phase : Nat
  dropped : Nat
deriving DecidableEq, Repr

/-- Crossroads beside its registers (11). -/
structure Xrd where
  own : List OwnReq
  nextOwn : Nat
  /-- Counts of originated packets by key slot × 2^16 + destination; destination 0x8000 stands for all multicast
  (14 R528). -/
  seqs : List (Nat × Nat)
  commit : Option Commit
  /-- The leaving sequence runs (11 R451): 1 WARM, 2 COLD, 3 DEEP; 0 none. -/
  leaving : Nat
  /-- Ports whose partner sent LEAVING (11 R452). -/
  partnerLeft : List Nat
  /-- Packets originated while draining, by flow (11 R446 step 2). -/
  waiting : List (Nat × Pkt)
  /-- Packets dropped for each port since LEAVING (11 R451 step 4). -/
  leaveDrops : List (Nat × Nat)
  /-- Total of STALE at the last flip (event 0x0903). -/
  staleAt : Nat
  /-- Packets that wait in receive buffers while draining: port, colour, packet (11 R446 step 2). -/
  rxWait : List (Nat × Bool × Pkt)
  /-- What is left to slew the fabric time by, and the nanoseconds counted for it, modulo 10,000 (11 R448). -/
  slew : Int
  slewTicks : Nat
deriving DecidableEq, Repr

/-- The shaper, meter and gate state of one class of one port (12 R460 to R462): the deficit in bytes,
the credit in tenths of a byte, what each bucket lacks to be full in tenths of a byte. -/
structure ClassX where
  deficit : Nat
  credit : Int
  cBucket : Nat
  pBucket : Nat
  at_ : Nat
  /-- When the meter's buckets were last filled. -/
  mAt : Nat
  /-- When a packet of the class last started, plus one; 0 for never. -/
  sentAt : Nat
deriving DecidableEq, Repr

/-- An egress port's queues and schedulers (12 R456 to R469). -/
structure PortQ where
  q : List QEnt
  cls : List (Nat × ClassX)
  flowDef : List (Nat × Nat)
  /-- The class last served, and the flow last served in each class. -/
  lastTc : Nat
  lastFlow : List (Nat × Nat)
  gateEnt : Nat
  gateAt : Nat
  /-- Guard-band holds that run, with the fabric time they began: after training, after a time step. -/
  gbTrain : Option Nat
  gbStep : Option Nat
  /-- A delay is measured for the next packet that leaves (12 R479). -/
  sampled : Bool
deriving DecidableEq, Repr

/-- A data flit of the replay buffer: FSEQ, resends so far, and when a packet begins in it that packet's class and LEN
(10 R393, R402). -/
structure BufFlit where
  seq : Nat
  tries : Nat
  head : Option (Nat × Nat)
deriving DecidableEq, Repr

/-- The credit windows of one class of a link (10 R397): advertised, consumed and returned credits of the sender, and
the cumulative counts that the receiver has returned; headers and data units. -/
structure Credit where
  advH : Nat
  advD : Nat
  useH : Nat
  useD : Nat
  retH : Nat
  retD : Nat
  rxH : Nat
  rxD : Nat
deriving DecidableEq, Repr

/-- A port's link state beside its registers (10). -/
structure LinkX where
  /-- Step of a training (1 to 6, 10 R383) or 10 + step of a retrain (R402); 0 none. -/
  phase : Nat
  /-- The training under way is a start-up one (R388). -/
  startup : Bool
  /-- Automatic attempts since the port went down (R408). -/
  tries : Nat
  preset : Nat
  /-- Lanes unusable in this training: transmit, receive; lanes received well; the partner's RX_OK mask. -/
  txBad : Nat
  rxBad : Nat
  rxOk : Nat
  partnerOk : Nat
  /-- Round trips of the probes so far (ps). -/
  probes : List (Nat × Nat)
  /-- CREDIT_ADV or RESYNC words that came before they were needed. -/
  early : List Word
  /-- The control request that is repeated until it is answered: CTYPE, words. -/
  ask : Option (Nat × List Nat)
  nextSeq : Nat
  expSeq : Nat
  ackV : Bool
  nakOut : Bool
  /-- A run of discarded flits is under way. -/
  episode : Bool
  buf : List BufFlit
  credits : List (Nat × Credit)
  /-- Reason, old width and start of the retrain under way. -/
  reason : Nat
  oldWidth : Nat
  retrainAt : Nat
  /-- The transmit handoff under way: logical lane, its physical lane, the ninth lane. -/
  handoff : Option (Nat × Nat × Nat)
  /-- Transmit lanes, least recently calibrated first. -/
  cal : List Nat
  /-- Aborts in a row and the ninth lane they involved, per direction. -/
  txAborts : Nat × Nat
  rxAborts : Nat × Nat
  lpiReq : Bool
  /-- A shortfall since the last retrain has been reported (R400). -/
  short : Bool
  /-- Last readings of each wavelength; wavelengths that are low; polls since each was last low (R374). -/
  laser : List (Nat × List Nat)
  laserLow : Nat
  laserGood : List (Nat × Nat)
  /-- The last transmit handoff took the least recently calibrated lane (R389). -/
  lrc : Bool
deriving DecidableEq, Repr

/-- An SPDM session on PF0's mailbox: its ID, whether FINISH has ended its handshake, its export master secret (14 R530,
R538). -/
structure Sess where
  id : Nat
  up : Bool
  secret : List Byte
deriving DecidableEq, Repr

/-- A selective IDE stream of the endpoint (03 R134): its stream ID, the range of requester IDs that its configuration registers
assign to it, its keys by 32 × sub-stream + 2 × key set + direction, and the key sets in use. -/
structure IdeStream where
  id : Nat
  rids : Nat × Nat
  keys : List (Nat × List Byte)
  going : List Nat
deriving DecidableEq, Repr

/-- Key material (14 R517, R523): memory keys by partition, job keys by slot, and the loads that wait for their blob. -/
structure Keys where
  mem : List (Nat × List Byte)
  link : List (Nat × List Byte)
  identity : Bool
  nonce : Option (List Byte)
  /-- Integrity failures since the last event 0x0C01 of a partition, and when that was (14 R521). -/
  lastMacEvt : List (Nat × Nat × Nat)
  sess : List Sess
  /-- How far the SPDM negotiation has come: 1 version, 2 capabilities, 3 algorithms. -/
  spdm : Nat
  /-- Selective IDE streams that hold keys, at most 4 (03 R134). -/
  ide : List IdeStream
  /-- Measurements 1 to 7 as they were recorded at readiness; empty before it (14 R537). -/
  meas : List (List Byte)
deriving DecidableEq, Repr

/-- The interrupt controller beside its registers (15 R563 to R567). -/
structure Irq where
  /-- Elder cores' pending signals, by source × 8 + core. -/
  coreSig : List Nat
  /-- MSI-X vectors that are unmasked, and vectors whose pending bit is set, by function × 2048 + vector. -/
  unmasked : List Nat
  msixPend : List Nat
  /-- Fabric time of each source's last delivery. -/
  lastAt : List (Nat × Nat)
  /-- Lantern's copy of the wake list (15 R567). -/
  wake : List Nat
  /-- MSI-X table words, by (function × 2048 + vector) × 2 + word: the message address, and its data with the mask bit
  in bit 32 (03 R131, R132; log entry 7). -/
  table : List (Nat × Word)
  /-- COUNT and SAT × 256 of the Elder cores' banked sources, by core × 32 + source (15 R563). -/
  banks : List (Nat × Nat)
deriving DecidableEq, Repr

/-- A reset or an entry to sleep under way (16 R594, R598, R600): kind 1 COLD, 2 WARM, 3 POOL, 4 WARD, 5 PART, 6 SLICE,
7 CELL, 8 DEEP, 9 DOZE, 10 the link crypto engine, 11 PART as the first step of dissolving one, 12 QUIET; its scope, level × 1024 + instance; its source as CHIP_RST_STAT.LAST_SRC. -/
structure RstX where
  kind : Nat
  scope : Nat
  src : Nat
  /-- 1 the leaving sequence, 2 Curfew drains, 3 the scope is reset or asleep and returns. -/
  step : Nat
  /-- The error record whose reaction this is. -/
  rec_ : Option Nat
  /-- Requests and descriptors absorbed. -/
  ended : Nat
deriving DecidableEq, Repr

/-- The chip's ways to the outside and its reset and sleep state (16). -/
structure Ctl where
  hostUp : Bool
  /-- Bus Master Enable by function (03 R150). -/
  bme : Nat
  /-- Scopes under containment, level × 1024 + instance (01 R30): their requests are turned away (11 R450). -/
  closed : List Nat
  /-- Scopes asleep in DOZE or DEEP, in the same numbers. -/
  asleep : List Nat
  rsts : List RstX
  /-- A wake that came while its scope still enters sleep: scope and cause (R603). -/
  wakes : List (Nat × Nat)
  /-- When the sleep change under way began. -/
  sleepAt : Nat
  /-- Cells that QUIET has gated, slice × 17 + position. -/
  gated : List Nat
  /-- Reset pins that are low: bit 0 COLD_RST_N, 1 WARM_RST_N, 2 PERST_N. -/
  low : Nat
  /-- Levels of the strap pins (R579): WARD_POP, BOOT_SRC, HOME_ELDER, FLOOR_MODE. -/
  wardPop : Nat
  bootSrc : Nat
  homeElder : Nat
  floorMode : Nat
  /-- The test port's instruction (14 R540). -/
  tap : Nat
deriving DecidableEq, Repr

/-- A start under way (16 R576), the defect lists and the Tally's copies. -/
structure StartX where
  /-- 0 POWER, 1 COLD, 2 WARM, 3 POOL, 4 DEEP exit; the step under way, 2 to 10, 0 for none. -/
  kind : Nat
  step : Nat
  /-- Lantern time (µs) when the start and its step began. -/
  t0 : Nat
  stepAt : Nat
  /-- The previous start was ready and clean. -/
  lastClean : Bool
  fast : Bool
  /-- Rinide comes from the host at this start; what the firmware entry names for the next (R581). -/
  host : Bool
  /-- Units in the defect list, by KIND and INSTANCE as record word 1 bits [12:0]. -/
  almanac : List Nat
  rows : List Nat
  pend : List Nat
  found : List Nat
  /-- Wards whose link crypto refuses sealed packets at this start, or is under reset (R583, R587, 15 R557). -/
  noCrypto : List Nat
  /-- An image has been accepted at this start. -/
  loaded : Bool
  /-- Events 0x0E01 to 0x0E0F of this start, one bit each (R605). -/
  held : Nat
  /-- The scope of an unlock whose event 0x0C04 is due (14 R540). -/
  unlock : Option Nat
  /-- The two banks of the Tally's persistent copy: sequence number and the Tally's registers (R589). -/
  bankA : Option (Nat × List (Nat × Word))
  bankB : Option (Nat × List (Nat × Word))
deriving DecidableEq, Repr

/-- An input of the control plane that waits in the command log for a commit (17 R608, R621). -/
inductive LogEnt where
  | write (vf : Bool) (off v : Nat)
  | initDone (baseG : Nat)
  | drained (baseG : Nat)
  | scrubDone (baseG : Nat)
  | moveDone (baseG : Nat)
  | blob (r d : Nat) (b : Option (List Byte))
  | image (r d : Nat) (img : Option (List Byte))
  /-- A started management-ring descriptor whose writes wait for their turn. -/
  | desc (r d : Nat)
deriving DecidableEq, Repr

/-- The Elders and the claim arbiter beside their registers (17). -/
structure Eld where
  log : List LogEnt
  /-- Inputs that wait, in order, for an entry of the log store (R609). -/
  more : List LogEnt
  /-- Trigger of the freeze under way and when it began; 0 none. -/
  trigger : Nat
  frozenAt : Nat
  /-- Self-check codes reported in this freeze or start, by unit. -/
  codes : List (Nat × Nat)
  /-- The returning unit's step of R618, 1 to 5; 0 none. -/
  step : Nat
  tries : Nat
  since : Nat
  entries : Nat
  /-- The home Elder takes back at the next commit boundary (R620). -/
  takeback : Bool
  /-- Fabric time of each unit's last heartbeat. -/
  beats : List (Nat × Nat)
deriving DecidableEq, Repr

/-- A sensor (18 R633, R635): its last plausible readings, newest first, implausible readings in a row, whether it is
dropped, filtered values out of range in a row. -/
structure Sens where
  last : List Int
  bad : Nat
  dropped : Bool
  out_ : Nat
deriving DecidableEq, Repr

/-- Measurement and the governor beside their registers (18). -/
structure Pwr where
  volt : List (Nat × Sens)
  cur : List (Nat × Sens)
  temp : List (Nat × Sens)
  /-- AVSBus Current readings (0.1 A), by supply; absent where the bus fails. -/
  avs : List (Nat × Nat)
  /-- Retries of the transaction under way, by bus. -/
  tries : List (Nat × Nat)
  /-- Supplies that are out of range now. -/
  outs : List Nat
  /-- Periods in a row with P below CAP − HYST. -/
  below : Nat
  /-- Wards that a thermal lowering holds down. -/
  hot : List Nat
  /-- Issue step of every governed ward: 0 full to 3 one in four. -/
  issue : Nat
  /-- Clocks that wait for their voltage, by ward (25 MHz units). -/
  want : List (Nat × Nat)
  /-- Wards whose clock or issue rate changed in this 1 ms window: lowest clock, cause. -/
  win : List (Nat × Nat × Nat)
deriving DecidableEq, Repr

structure State where
  /-- Commands that wait, first in first out (log entry 1). -/
  pending : List Instr
  /-- Set-up registers by PF0 BAR0 offset; an unlisted one holds its reset value (19 R652, R667). -/
  regs : List (Nat × Word)
  /-- Pool physical memory by byte; an unlisted byte reads 0 (02 R66, R116). -/
  mem : List Host.Cell
  /-- Poisoned lines, by line number (01 R49). -/
  poison : List Nat
  out : List Out
  /-- The model's counter that free values are applied to (log entry 3). -/
  fresh : Nat
  extents : List (Nat × Ext)
  copies : List Copy
  faults : List FaultEnt
  vers : List (Nat × Ver)
  verRels : List VerRel
  coh : Coh
  sets : List (Nat × SetX)
  arming : List Arming
  /-- Operations that wait for their turn at an object, in the order in which its slice admitted them (07 R298). -/
  objQ : List (Nat × Holder)
  /-- Parameter line and space of sets that have ended and whose object is unchanged (07 R309 checks 1 and 2). -/
  oldSets : List (Nat × List Word × Nat)
  rings : List (Nat × RingX)
  /-- The ring engine's arbitration: by owner, the ring it serves and how many descriptors that ring may still take in its
  round; the owner served last (03 R142, R149). -/
  arb : List (Nat × Nat × Nat)
  arbOwner : Nat
  /-- Fetched descriptors that have not started, by ring × 2^32 + index. -/
  fetched : List (Nat × List Word)
  started : List Started
  heldCpl : List HeldCpl
  reqs : List HeldReq
  nextReq : Nat
  /-- Accesses that have been looked up and have not ended (02 R75, R94, R120). -/
  flights : List Flight
  nextFlight : Nat
  /-- The answer caches, by ((slice × 2^15 + SRC_NODE) × 2^16 + E2E_SEQ) × 2^16 + CTAG: poison and payload (11 R432). -/
  answers : List (Nat × Bool × List Byte)
  tier : Tier
  chans : List (Nat × ChanX)
  watch : Watch
  drives : List (Nat × DriveX)
  xrd : Xrd
  ports : List (Nat × PortQ)
  links : List (Nat × LinkX)
  keys : Keys
  irq : Irq
  /-- Programs by partition × 256 + slot, loads under way, invocations (06). -/
  progs : List (Nat × List Word)
  loads : List (Nat × Load)
  invocs : List (Nat × Invoc)
  /-- Cells that hold anything of their own (05 R216). -/
  cells : List (Nat × Cell)
  ctl : Ctl
  start : StartX
  eld : Eld
  pwr : Pwr
deriving DecidableEq, Repr

/-- The machine right after a POWER reset (16 R570): every register at its reset value, nothing started. -/
def State.reset : State where
  pending := []
  regs := []
  mem := []
  poison := []
  out := []
  fresh := 0
  extents := []
  copies := []
  faults := []
  vers := []
  verRels := []
  coh := ⟨[], 0, 0, [], []⟩
  sets := []
  arming := []
  objQ := []
  oldSets := []
  rings := []
  arb := []
  arbOwner := 16
  fetched := []
  started := []
  heldCpl := []
  reqs := []
  nextReq := 0
  flights := []
  nextFlight := 0
  answers := []
  tier := ⟨[], [], [], [], [], [], 0, [], [], [], [], []⟩
  chans := []
  watch := ⟨[], 0, [], [], [], [], []⟩
  drives := []
  xrd := ⟨[], 0, [], none, 0, [], [], [], 0, [], 0, 0⟩
  ports := []
  links := []
  keys := ⟨[], [], true, none, [], [], 0, [], []⟩
  irq := ⟨[], [], [], [], [], [], []⟩
  progs := []
  loads := []
  invocs := []
  cells := []
  ctl := ⟨false, 0x1FFFF, [], [], [], [], 0, [], 0, 0xF, 0, 0, 0, 1⟩
  start := ⟨0, 0, 0, 0, false, false, false, [], [], [], [], [], false, 0, none, none, none⟩
  eld := ⟨[], [], 0, 0, [], 0, 0, 0, 0, false, []⟩
  pwr := ⟨[], [], [], [], [], [], 0, [], 0, [], []⟩

end Sys2Proof.Machine
end

