-- ==== Sys2Proof/Machine/Ops.lean ====
section
/-!
DEFINITION. Sys2Proof/Machine/Ops.lean: the named operations over registers, pool memory and partitions.
-/
namespace Sys2Proof.Machine

/-! ## Registers -/

/-- The address of an instance of a register. -/
def Reg.addr (r : Reg) (i j k : Nat) : Nat := r.base + i * r.s1 + j * r.s2 + k * r.s3

/-- The reset value of instance `i` of a register: the table's, but for the management share's regulator
(12 R482) and the fixed interrupt sources 32 to 39 (15 R568). -/
def Reg.rvAt (r : Reg) (i : Nat) : Nat :=
  if r.base = QOS_REG.reg.base && i == 16 then 0x1000020010
  else if r.base = IRQ_SRC_CFG.reg.base && decide (32 ≤ i) && decide (i ≤ 39) then 0x105
  else r.rv

/-- A register's value. -/
def State.rdReg (s : State) (r : Reg) (i j k : Nat) : Nat :=
  match kget (r.addr i j k) s.regs with
  | some v => v.toNat
  | none => r.rvAt i

/-- A register set whole. A value equal to the reset value is not listed. -/
def State.wrReg (s : State) (r : Reg) (i j k v : Nat) : State :=
  { s with regs := kset (toW (r.rvAt i)) (r.addr i j k) (toW v) s.regs }

/-- A field's value. -/
def State.rd (s : State) (f : Fld) (i : Nat := 0) (j : Nat := 0) (k : Nat := 0) : Nat :=
  fld (s.rdReg f.reg i j k) f.lo f.w

/-- A one-bit field as a truth value. -/
def State.on (s : State) (f : Fld) (i : Nat := 0) (j : Nat := 0) (k : Nat := 0) : Bool := s.rd f i j k != 0

/-- A field set. -/
def State.wr (s : State) (f : Fld) (v : Nat) (i : Nat := 0) (j : Nat := 0) (k : Nat := 0) : State :=
  s.wrReg f.reg i j k (setFld (s.rdReg f.reg i j k) f.lo f.w v)

/-- A counter field raised by `d`, saturating (00 R17 and each register table). -/
def State.count (s : State) (f : Fld) (i : Nat := 0) (j : Nat := 0) (k : Nat := 0) (d : Nat := 1) : State :=
  s.wr f (satAdd f.w (s.rd f i j k) d) i j k

/-- A counter field lowered by one, not below zero. -/
def State.countDown (s : State) (f : Fld) (i : Nat := 0) (j : Nat := 0) (k : Nat := 0) : State :=
  s.wr f (s.rd f i j k - 1) i j k

/-- A register set to zero. -/
def State.clrReg (s : State) (r : Reg) (i : Nat := 0) (j : Nat := 0) (k : Nat := 0) : State := s.wrReg r i j k 0

/-- Puts something on an interface. -/
def State.emit (s : State) (o : Out) : State := { s with out := o :: s.out }

/-- The next argument for a free value: the state with its counter advanced (log entry 3). -/
def State.tickFresh (s : State) : State := { s with fresh := s.fresh + 1 }

/-! ## Pool memory -/

/-- One byte of pool memory (02 R66). -/
def State.byte (s : State) (a : Nat) : Byte := kgetD 0 a s.mem

/-- One byte of pool memory set. -/
def State.setByte (s : State) (a : Nat) (b : Byte) : State := { s with mem := kset 0 a b s.mem }

/-- `n` bytes from address `a`. -/
def State.bytes (s : State) (a : Nat) : Nat → List Byte
  | 0 => []
  | n + 1 => s.byte a :: s.bytes (a + 1) n

/-- Stores bytes from address `a` on. -/
def memPut (a : Nat) : List Byte → List Host.Cell → List Host.Cell
  | [], m => m
  | b :: bs, m => memPut (a + 1) bs (kset 0 a b m)

def State.setBytes (s : State) (a : Nat) (bs : List Byte) : State := { s with mem := memPut a bs s.mem }

/-- The 64 bytes of line `l`. -/
def State.line (s : State) (l : Nat) : List Byte := s.bytes (l * 64) 64

/-- Every byte of the address range [lo, hi) becomes zero (02 R116 step 3, R121 step 4). -/
def State.zeroRange (s : State) (lo hi : Nat) : State :=
  { s with mem := s.mem.filter fun c => c.1 < lo || decide (hi ≤ c.1)
           poison := s.poison.filter fun l => l * 64 < lo || decide (hi ≤ l * 64) }

/-- Line `l` holds these 64 bytes and is good again (01 R49). -/
def State.setLine (s : State) (l : Nat) (bs : List Byte) : State :=
  let t := s.setBytes (l * 64) (bs.take 64)
  { t with poison := sdel l t.poison }

/-- Line `l` is poisoned: it holds 64 zero data bytes and reads as poison until it is written (01 R49, 13 R496). -/
def State.poisonLine (s : State) (l : Nat) : State :=
  let t := s.zeroRange (l * 64) (l * 64 + 64)
  { t with poison := sput l t.poison }

/-- Whether line `l` is poisoned. -/
def State.isPoison (s : State) (l : Nat) : Bool := s.poison.contains l

/-- The little-endian 64-bit number at address `a`. -/
def State.word (s : State) (a : Nat) : Nat := leNat (s.bytes a 8)

/-- The memory's canonical form: addresses strictly rising and no listed zero. -/
def ksorted {α : Type} : List (Nat × α) → Bool
  | [] => true
  | [_] => true
  | (a, _) :: (b, y) :: l => decide (a < b) && ksorted ((b, y) :: l)

def Memory.wf (m : List Host.Cell) : Bool := ksorted m && m.all fun c => c.2 != 0

/-! ## Partitions, slices and lines -/

/-- Whether partition `p` is enabled (19 R660). -/
def State.partOn (s : State) (p : Nat) : Bool := s.on PRT_CTL.ENABLE p

/-- The slices of partition `p`, ascending (02 R109). -/
def State.slicesOf (s : State) (p : Nat) : List Nat := bitsSet 16 (s.rd PRT_CTL.SLICES p)

/-- The enabled partition that holds slice `sl`. -/
def State.partOfSlice (s : State) (sl : Nat) : Option Nat :=
  (List.range 16).find? fun p => s.partOn p && (s.rd PRT_CTL.SLICES p).testBit sl

/-- The enabled partition whose slices hold channel `c`. -/
def State.partOfChan (s : State) (c : Nat) : Option Nat := s.partOfSlice (c / 2)

/-- The ward of a partition: that of its first slice (01 R31). -/
def State.wardOf (s : State) (p : Nat) : Nat := (s.slicesOf p).headD 0 / 4

/-- The grain exponent g = 8 + GRAIN (02 R109). -/
def State.grain (s : State) (p : Nat) : Nat := 8 + s.rd PRT_XLT_CFG.GRAIN p

/-- `place` of 02 R109 without the slot offset: which of the partition's 2n channels an address falls on. -/
def placeUnit (a g c : Nat) : Nat := fld a g (26 - g) % c

/-- Bytes per 64 MiB page per channel, rounded up to a grain (02 R109). -/
def pageShare (g c : Nat) : Nat := ceilDiv (2 ^ (26 - g)) c * 2 ^ g

/-- Offset within the extent's slot (02 R109). -/
def placeOffset (pa base g c : Nat) : Nat :=
  (pa - base) / 2 ^ 26 * pageShare g c + fld pa g (26 - g) / c * 2 ^ g + pa % 2 ^ g

/-- The channel an address of partition `p` falls on, under grain exponent `g` (02 R109). -/
def State.chanAt (s : State) (p a g : Nat) : Nat :=
  let sl := s.slicesOf p
  let ch := placeUnit a g (2 * sl.length)
  2 * nthN sl (ch / 2) + ch % 2

/-- The home slice of an address of partition `p` (01 R44). -/
def State.homeSlice (s : State) (p a : Nat) : Nat := s.chanAt p a (s.grain p) / 2

/-- The cache channel of a deep address: `place` of its 64 KiB group with g = 16 (04 R181). -/
def State.cacheChan (s : State) (p a : Nat) : Nat := s.chanAt p a 16

/-- The extent that holds pool physical address `pa`, with its base in GiB. -/
def State.extentAt (s : State) (pa : Nat) : Option (Nat × Ext) :=
  s.extents.find? fun e => decide (e.1 ≤ pa / 2 ^ 30) && decide (pa / 2 ^ 30 < e.1 + e.2.lenG)

/-- The extent that starts at `b` GiB. -/
def State.ext (s : State) (b : Nat) : Option Ext := kget b s.extents

/-- An extent entry replaced. -/
def State.setExt (s : State) (b : Nat) (e : Ext) : State := { s with extents := kput b e s.extents }

/-- The fault owner slice of a page in partition `p` (02 R99). -/
def State.faultOwner (s : State) (p a : Nat) : Nat :=
  let sl := s.slicesOf p
  nthN sl (fld a 26 6 % sl.length)

/-! ## Space slots -/

/-- The live slot of a tag, if any (02 R72). Slots are looked up through the registers that are listed: a slot at
its reset value is not live. -/
def State.spaceSlot (s : State) (tag : Nat) : Option Nat :=
  (s.regs.find? fun e =>
    decide (XLT_SPACE_LO.reg.base ≤ e.1) && decide (e.1 < XLT_SPACE_LO.reg.base + 4096 * 16) &&
    (e.1 - XLT_SPACE_LO.reg.base) % 16 == 0 &&
    wfld e.2 21 1 == 1 && wfld e.2 0 16 == tag && tag != 0).map fun e => (e.1 - XLT_SPACE_LO.reg.base) / 16

/-- The partition that an address of a space slot resolves to (02 R76). -/
def State.spacePart (s : State) (slot a : Nat) : Nat :=
  if s.on XLT_SPACE_LO.JOINED slot then fld (s.rdReg XLT_SPACE_HI.reg slot 0 0) (4 * fld a 44 4) 4
  else s.rd XLT_SPACE_LO.HOME_PART slot

/-- Whether partition `p` may name the space in a slot: it is its home or one of its span partitions (02 R73). -/
def State.spaceAllows (s : State) (slot p : Nat) : Bool :=
  s.rd XLT_SPACE_LO.HOME_PART slot == p ||
  (s.on XLT_SPACE_LO.JOINED slot && (List.range 16).any fun i => fld (s.rdReg XLT_SPACE_HI.reg slot 0 0) (4 * i) 4 == p)

end Sys2Proof.Machine
end

