-- ==== Sys2Proof/Machine/Floor.lean ====
section
/-!
DEFINITION. Sys2Proof/Machine/Floor.lean: the floor-plan table (19 R664 to R666) follows what the units are.
-/
namespace Sys2Proof.Machine

/-- Whether the floor has been fixed by step 6 of a start: fields marked "meas" read zero until it ends (19 R664). -/
def floorKnown (s : State) : Bool :=
  decide (3 ≤ s.rd CHIP_START.PHASE) && decide (s.rd CHIP_START.PHASE ≤ 6) && s.start.step != 6

/-- Whether a ward is out: held in reset (01 R35), or, once the straps are sampled, not populated (16 R578). -/
def wardOut (s : State) (w : Nat) : Bool :=
  s.on CHIP_FLOOR_WARD.HELD w || (s.rd CHIP_START.PHASE != 0 && !s.on CHIP_FLOOR_WARD.POP w)

/-- Units of the defect list at this start (16 R585): the Almanac, the field-defect rows, what waits for a row, and what
this start has found. A unit is KIND + 16 × INSTANCE; kind 1 names a slice once for each bad SRAM bank, kind 7 a slice that is
hidden for its pipelines, and kind 3 a port, with the bad lane in bits [16:13], 15 for the whole port. -/
def defects (s : State) : List Nat := s.start.almanac ++ s.start.rows ++ s.start.pend ++ s.start.found

/-- Lanes of a port in the defect list (16 R585). -/
def laneDefects (s : State) (n : Nat) : Nat :=
  (List.range 9).foldl (fun a k => if (defects s).contains (3 + 16 * n + k * 2 ^ 13) then a + 2 ^ k else a) 0

/-- Whether a port cannot train: its ward is not populated, or its engine took no microcode (16 R578, R583). -/
def portOut (s : State) (n : Nat) : Bool :=
  (s.rd CHIP_START.PHASE != 0 && !s.on CHIP_FLOOR_WARD.POP (n / 8)) || (defects s).contains (3 + 16 * n + 15 * 2 ^ 13)

/-- Whether a channel is in service: neither empty, training nor lost (13 R516). -/
def chanInService (s : State) (c : Nat) : Bool := decide (2 ≤ s.rd DDR_CTL.STATE c) && decide (s.rd DDR_CTL.STATE c ≤ 5)

/-- Whether a port counts as usable in the floor plan: ACTIVE, RETRAIN or LPI (19 R666). -/
def portUp (s : State) (n : Nat) : Bool := decide (2 ≤ s.rd PORT_STATUS.STATE n) && decide (s.rd PORT_STATUS.STATE n ≤ 4)

/-- Bits of a list of truth values, the first in bit 0. -/
def packBits (l : List Bool) : Nat := l.foldr (fun b n => b2n b + 2 * n) 0

/-- One slice's entry: its channels, its partition, and STATE 2 when it has no DRAM (13 R486, 19 R665). -/
def floorSlice (s : State) (i : Nat) : State :=
  let a := chanInService s (2 * i)
  let b := chanInService s (2 * i + 1)
  let st := s.rd CHIP_FLOOR_SLICE.STATE i
  let t := if floorKnown s then
      let t := (s.wr CHIP_FLOOR_SLICE.CH0_OK (b2n a) i).wr CHIP_FLOOR_SLICE.CH1_OK (b2n b) i
      let t := t.wr CHIP_FLOOR_SLICE.DRAM_G ((if a then s.rd DDR_CTL.CAP_G (2 * i) else 0) + (if b then s.rd DDR_CTL.CAP_G (2 * i + 1) else 0)) i
      if st = 1 ∨ st = 2 then t.wr CHIP_FLOOR_SLICE.STATE (if a && b then 1 else 2) i else t
    else s
  match s.partOfSlice i with
  | some p => (t.wr CHIP_FLOOR_SLICE.IN_PART 1 i).wr CHIP_FLOOR_SLICE.PART p i
  | none => (t.wr CHIP_FLOOR_SLICE.IN_PART 0 i).wr CHIP_FLOOR_SLICE.PART 0 i

/-- One ward's entry. -/
def floorWard (s : State) (w : Nat) : State :=
  if ¬ floorKnown s then s
  else
    let t := s.wr CHIP_FLOOR_WARD.PORTS (packBits ((List.range 8).map fun k => portUp s (8 * w + k))) w
    let t := t.wr CHIP_FLOOR_WARD.CHANNELS (packBits ((List.range 8).map fun k => chanInService s (8 * w + k))) w
    let t := t.wr CHIP_FLOOR_WARD.DRIVES (packBits ((List.range 4).map fun k => s.rd NVM_CTL.STATE (4 * w + k) == 2)) w
    t.wr CHIP_FLOOR_WARD.SLICES (packBits ((List.range 4).map fun k => s.rd CHIP_FLOOR_SLICE.STATE (4 * w + k) == 1)) w

def countB (n : Nat) (f : Nat → Bool) : Nat := ((List.range n).filter f).length

/-- The floor-plan table brought up to date (19 R664). -/
def floorSync (s : State) : State :=
  let t := (List.range 4).foldl floorWard ((List.range 16).foldl floorSlice s)
  let t := t.wr CHIP_FLOOR_SUM.PARTS (countB 16 fun p => t.partOn p)
  if ¬ floorKnown t then t
  else
    let t := t.wr CHIP_FLOOR_SUM.CELLS ((List.range 16).foldl (fun n i =>
      let st := t.rd CHIP_FLOOR_SLICE.STATE i
      if st = 1 ∨ st = 2 then n + t.rd CHIP_FLOOR_SLICE.CELLS i else n) 0)
    let t := t.wr CHIP_FLOOR_SUM.SLICES (countB 16 fun i => t.rd CHIP_FLOOR_SLICE.STATE i == 1)
    let t := t.wr CHIP_FLOOR_SUM.CHANNELS (countB 32 fun c => chanInService t c)
    let t := t.wr CHIP_FLOOR_SUM.PORTS (countB 32 fun n => portUp t n)
    t.wr CHIP_FLOOR_SUM.DRIVES (countB 16 fun d => t.rd NVM_CTL.STATE d == 2)

end Sys2Proof.Machine
end

