-- ==== Sys2Proof/Config.lean ====
section
/-!
DEFINITION. Sys2Proof/Config.lean: what one chip fixes and the spec leaves open. Every constant here is opaque: nothing
can see its value, so what is proved holds whatever it is. The meanings apply one to the state's counter `fresh`, which
they advance (log entry 3).
-/
namespace Sys2Proof.Config

/-- The draw of a stochastic rounding, as 64 random bits (05 R228, R230). -/
opaque srDraw : Nat → BitVec 64

/-- A result the spec allows to lie one unit in the last place either way (06 R277): 0 exact, 1 above, 2 and 3 below. -/
opaque ulpPick : Nat → BitVec 2

/-- A byte from the CTR_DRBG: keys, nonces and random fields (14 R518, R540). -/
opaque drbg : Nat → BitVec 8

/-- A byte of the chip's certificates, signatures and measured images (14 R537 to R539). -/
opaque attest : Nat → BitVec 8

/-- The result of an operation on operands for which the spec states none. -/
opaque openValue : Nat → BitVec 64

/-- A byte that shares a fabric line with a completion or event record (03 R140 does not say what it holds). -/
opaque lineFill : Nat → BitVec 8

/-- Which set of the near store a line falls in, before it is taken modulo the number of sets (04 R176). -/
opaque nearSet : Nat → Nat

/-- Which set of a channel's DRAM cache a block falls in, before it is taken modulo the number of sets (04 R183). -/
opaque blockSet : Nat → Nat

/-- Where in its channel a DRAM-cache line lies, as a byte offset (04 R183 gives no place). -/
opaque areaOffset : Nat → Nat

/-- Where in its channel a tag line of a DRAM-cache area lies, as a byte offset (04 R182 gives no place). -/
opaque tagOffset : Nat → Nat

/-- Which set of a directory an entry falls in, before it is taken modulo the number of sets (09 R351). -/
opaque dirSet : Nat → Nat

/-- Which set of a slice's translation copies a key falls in, before it is taken modulo the number of sets (02 R87). -/
opaque copySet : Nat → Nat

/-- The voltage (mV) that a ward's fused voltage-frequency curve gives for a clock in 25 MHz units (18 R631). -/
opaque vfCurve : Nat → Nat → Nat

/-- The logical lane whose receiver corrected the most symbols over the last ROT_PERIOD, where that is more than 2^-14 of the lane's
symbols; a number beyond the link's lanes where no lane is that noisy (10 R389). -/
opaque noisyLane : Nat → Nat

/-- Whether a test-port token carries a signature under the fused debug key (14 R540 step 4). -/
opaque tokenSigned : List (BitVec 8) → Bool

/-- Whether a write of the Tally's persistent copy to the SPI NOR fails (16 R589). -/
opaque spiFails : Nat → Bool

/-- How many bytes follow the header of an SPDM answer whose length the spec does not give (14 R538). -/
opaque answerLen : Nat → Nat

end Sys2Proof.Config
end

