-- ==== Sys2Proof/Machine/Arith.lean ====
section
/-!
DEFINITION. Sys2Proof/Machine/Arith.lean: number formats, rounding, special values, flags and accumulators
(05 R220 to R240). A finite value is exact: a sign, a magnitude and a power of two.
-/
namespace Sys2Proof.Machine

/-- A value of an element: NaN, an infinity, or (−1)^neg × m × 2^e; the sign of a zero counts. -/
inductive Num where
  | nan
  | inf (neg : Bool)
  | fin (neg : Bool) (m : Nat) (e : Int)
deriving DecidableEq, Repr

/-- What a piece of arithmetic carries: SAT_NARROW, stochastic rounding, the counter of its draws, its flags (R228,
R232, R238). -/
structure AEnv where
  sat : Bool
  sr : Bool
  c : Nat
  fl : Nat
deriving DecidableEq, Repr

/-- Raises flag bit `i` (R238): 0 INVALID, 1 OVERFLOW, 2 UNDERFLOW, 3 SATURATED, 4 NAN_IN. -/
def AEnv.raise (a : AEnv) (i : Nat) : AEnv := { a with fl := a.fl ||| 2 ^ i }
def AEnv.raiseIf (a : AEnv) (b : Bool) (i : Nat) : AEnv := if b then a.raise i else a

/-! ## Formats (R220) -/

/-- Element width in bits by format code. -/
def fmtBits (f : Nat) : Nat :=
  if f = 0 ∨ f = 10 then 32 else if f = 1 ∨ f = 2 then 16 else if f = 6 then 6 else if f = 7 then 4
  else if f = 11 ∨ f = 12 then 64 else 8

/-- Exponent bits, mantissa bits and bias of a floating-point format. -/
def fpParams (f : Nat) : Nat × Nat × Nat :=
  if f = 0 then (8, 23, 127) else if f = 1 then (8, 7, 127) else if f = 2 then (5, 10, 15)
  else if f = 3 ∨ f = 5 then (4, 3, 7) else if f = 4 then (5, 2, 15) else if f = 6 then (3, 2, 3)
  else if f = 7 then (2, 1, 1) else (11, 52, 1023)

/-- The encoding of the largest finite magnitude. -/
def maxMag (f : Nat) : Nat :=
  if f = 0 then 0x7F7FFFFF else if f = 1 then 0x7F7F else if f = 2 then 0x7BFF else if f = 3 ∨ f = 5 then 0x7E
  else if f = 4 then 0x7B else if f = 6 then 0x1F else if f = 7 then 7 else 0x7FEFFFFFFFFFFFFF

/-- The canonical NaN of a format (R231). -/
def nanBits (f : Nat) : Nat :=
  if f = 0 then 0x7FC00000 else if f = 1 then 0x7FC0 else if f = 2 then 0x7E00 else if f = 3 ∨ f = 5 then 0x7F
  else if f = 4 then 0x7E else if f = 11 then 0x7FF8000000000000 else if f = 12 then 0x7FC00000 else 0

/-- The encoding of +∞ of a format that has one. -/
def infBits (f : Nat) : Nat :=
  if f = 0 then 0x7F800000 else if f = 1 then 0x7F80 else if f = 2 then 0x7C00 else if f = 4 then 0x7C
  else 0x7FF0000000000000

def isMx (f : Nat) : Bool := decide (5 ≤ f) && decide (f ≤ 8)
def isInt (f : Nat) : Bool := f == 9 || f == 10

/-- A two's-complement number of `w` bits as a value. -/
def intNum (w x : Nat) (e : Int) : Num :=
  if x.testBit (w - 1) then .fin true (2 ^ w - x % 2 ^ w) e else .fin false (x % 2 ^ w) e

/-- A floating-point encoding's value. -/
def fpNum (f x : Nat) : Num :=
  let (eb, mb, bias) := fpParams f
  let neg := x.testBit (eb + mb)
  let ex := fld x mb eb
  let m := fld x 0 mb
  if (f = 3 ∨ f = 5) ∧ ex = 15 ∧ m = 7 then .nan
  else if (f = 0 ∨ f = 1 ∨ f = 2 ∨ f = 4 ∨ f = 11) ∧ ex = 2 ^ eb - 1 then if m = 0 then .inf neg else .nan
  else if ex = 0 then .fin neg m (1 - bias - mb)
  else .fin neg (2 ^ mb + m) (ex - bias - mb)

/-! ## Exact operations -/

/-- A signed magnitude from an integer. -/
def ofInt (zneg : Bool) (v : Int) (e : Int) : Num :=
  if v = 0 then .fin zneg 0 e else if v < 0 then .fin true v.natAbs e else .fin false v.natAbs e

def sInt (neg : Bool) (m : Nat) : Int := if neg then -(m : Int) else m

def Num.isNan : Num → Bool
  | .nan => true
  | _ => false
def Num.isZero : Num → Bool
  | .fin _ 0 _ => true
  | _ => false
def Num.neg : Num → Num
  | .nan => .nan
  | .inf n => .inf (!n)
  | .fin n m e => .fin (!n) m e

/-- Exact sum: −0 only from two negative zeros, ∞ − ∞ is NaN (R231, IEEE 754 round to nearest). -/
def Num.add : Num → Num → Num
  | .nan, _ => .nan
  | _, .nan => .nan
  | .inf a, .inf b => if a = b then .inf a else .nan
  | .inf a, .fin _ _ _ => .inf a
  | .fin _ _ _, .inf b => .inf b
  | .fin a m e, .fin b n f =>
    let g := min e f
    ofInt (a && b) (sInt a (m * 2 ^ (e - g).toNat) + sInt b (n * 2 ^ (f - g).toNat)) g

/-- Exact product; 0 × ∞ is NaN. -/
def Num.mul : Num → Num → Num
  | .nan, _ => .nan
  | _, .nan => .nan
  | .inf a, .inf b => .inf (a != b)
  | .inf a, .fin b m _ => if m = 0 then .nan else .inf (a != b)
  | .fin a m _, .inf b => if m = 0 then .nan else .inf (a != b)
  | .fin a m e, .fin b n f => .fin (a != b) (m * n) (e + f)

/-- Order of two values that are not NaN, −0 below +0 (R231). -/
def Num.lt : Num → Num → Bool
  | .inf a, .inf b => a && !b
  | .inf a, .fin _ _ _ => a
  | .fin _ _ _, .inf b => !b
  | .fin a m e, .fin b n f =>
    let g := min e f
    let x := sInt a (m * 2 ^ (e - g).toNat)
    let y := sInt b (n * 2 ^ (f - g).toNat)
    decide (x < y) || (x == y && a && !b && m == 0)
  | _, _ => false

def Num.max (a b : Num) : Num := if a.isNan || b.isNan then .nan else if a.lt b then b else a
def Num.min (a b : Num) : Num := if a.isNan || b.isNan then .nan else if b.lt a then b else a

/-! ## Rounding -/

/-- A magnitude m × 2^e in units of 2^q, rounded to nearest even: the count, and whether it is exact. -/
def rne (m : Nat) (e q : Int) : Nat × Bool :=
  if q ≤ e then (m * 2 ^ (e - q).toNat, true)
  else
    let s := (q - e).toNat
    let n := m / 2 ^ s
    let r := m % 2 ^ s
    (if r * 2 > 2 ^ s ∨ (r * 2 = 2 ^ s ∧ n % 2 = 1) then n + 1 else n, r == 0)

/-- The same rounded stochastically with a 16-bit draw (R228). -/
def srnd (m : Nat) (e q : Int) (draw : Nat) : Nat :=
  if q ≤ e then m * 2 ^ (e - q).toNat
  else
    let s := (q - e).toNat
    let n := m / 2 ^ s
    let r := m % 2 ^ s
    if draw < r * 65536 / 2 ^ s then n + 1 else n

/-- The counter's next 16-bit draw. -/
def AEnv.draw (a : AEnv) : AEnv × Nat := ({ a with c := a.c + 1 }, (Config.srDraw a.c).toNat % 65536)

/-- A non-zero magnitude m × 2^e rounded to a floating-point format with an unbounded exponent: the encoding of its
magnitude, exponent field growing past the format's (R232). The quantum's exponent comes with it. -/
def fpQuantum (f m : Nat) (e : Int) : Int :=
  let (_, mb, bias) := fpParams f
  let qmin : Int := 1 - bias - mb
  max ((Nat.log2 m : Int) + e - mb) qmin

def fpMag (f : Nat) (q : Int) (n : Nat) : Nat :=
  let (_, mb, bias) := fpParams f
  (q - (1 - bias - mb)).toNat * 2 ^ mb + n

/-- A finite non-zero magnitude into a floating-point format: its encoding, or none where it overflows (R228, R232). -/
def roundMag (a : AEnv) (f m : Nat) (e : Int) : AEnv × Option Nat :=
  let q := fpQuantum f m e
  let (n, exact) := rne m e q
  let mag := fpMag f q n
  if maxMag f < mag then (a, none)
  else
    let (_, mb, bias) := fpParams f
    let top : Int := (maxMag f / 2 ^ mb : Nat) - bias - mb
    let floor := if q ≤ e then m * 2 ^ (e - q).toNat else m / 2 ^ (q - e).toNat
    let isOver := q == top && !exact && floor == 2 ^ mb + maxMag f % 2 ^ mb
    if isOver then (a, some (maxMag f))
    else if a.sr ∧ ¬ exact then
      let (b, d) := a.draw
      let mg := fpMag f q (srnd m e q d)
      (b.raiseIf (mg == 0) 2, some mg)
    else (a.raiseIf (mag == 0) 2, some mag)

/-- A value into a floating-point format that is no MX element (R226, R228, R231, R232). -/
def toFp (a : AEnv) (f : Nat) (v : Num) : AEnv × Nat :=
  let sign := 2 ^ (fmtBits f - 1)
  match v with
  | .nan => (a, nanBits f)
  | .inf n =>
    if f = 3 then if a.sat then (a.raise 3, maxMag 3 + b2n n * sign) else (a.raise 0, nanBits 3)
    else (a, infBits f + b2n n * sign)
  | .fin n 0 _ => (a, b2n n * sign)
  | .fin n m e =>
    match roundMag a f m e with
    | (b, some g) => (b, g + b2n n * sign)
    | (b, none) =>
      if f = 3 then if a.sat then (b.raise 3, maxMag 3 + b2n n * sign) else (b.raise 1, nanBits 3)
      else if f = 4 ∧ a.sat then (b.raise 3, maxMag 4 + b2n n * sign)
      else (b.raise 1, infBits f + b2n n * sign)

/-- A value into an integer format of `w` bits (R232). -/
def toInt (a : AEnv) (w : Nat) (v : Num) : AEnv × Nat :=
  let lim : Nat := 2 ^ (w - 1)
  let put := fun (a : AEnv) (neg : Bool) (n : Nat) =>
    if neg then if lim < n then (a.raise 3, lim) else (a, (2 ^ w - n) % 2 ^ w)
    else if lim - 1 < n then (a.raise 3, lim - 1) else (a, n)
  match v with
  | .nan => (a.raise 0, 0)
  | .inf n => (a.raise 3, if n then lim else lim - 1)
  | .fin n m e =>
    let (k, exact) := rne m e 0
    if a.sr ∧ ¬ exact ∧ k ≤ lim then
      let (b, d) := a.draw
      let k := srnd m e 0 d
      put (b.raiseIf (k == 0) 2) n k
    else put (a.raiseIf (k == 0 && m != 0) 2) n k

/-- A value rounded to FP32 to nearest even, whatever the rounding mode, as a value; overflow gives an infinity and
raises OVERFLOW. -/
def to32 (a : AEnv) (v : Num) : AEnv × Num :=
  let (b, x) := toFp { a with sr := false } 0 v
  ({ b with sr := a.sr }, fpNum 0 x)

/-- An FP32X2 pair (R222). -/
def toPair (a : AEnv) (v : Num) : AEnv × Nat :=
  let (b, h) := toFp { a with sr := false } 0 v
  let b := { b with sr := a.sr }
  match fpNum 0 h with
  | .fin hn hm he =>
    match v.add (Num.neg (.fin hn hm he)) with
    | .fin _ 0 _ => (b, h)
    | r =>
      let (c, l) := toFp b 0 r
      ({ c with fl := b.fl }, h + l * 2 ^ 32)
  | _ => (b, h)

/-- One element's value from its bits, for formats other than MX elements with their scale (R220, R222). A pair whose lo is
zero is its hi, a zero's sign included (DEDUCED from R222 and R274, log entry 64). -/
def decElem (f x : Nat) : Num :=
  if f = 8 then intNum 8 x (-6)
  else if f = 9 then intNum 8 x 0
  else if f = 10 then intNum 32 x 0
  else if f = 12 then
    match fpNum 0 (x % 2 ^ 32) with
    | .fin n m e =>
      let lo := fpNum 0 (x / 2 ^ 32)
      if lo.isZero then .fin n m e else (Num.fin n m e).add lo
    | v => v
  else fpNum f x

/-- One element written in a format that is not MX (R226 to R232). -/
def encElem (a : AEnv) (f : Nat) (v : Num) : AEnv × Nat :=
  if f = 9 then toInt a 8 v else if f = 10 then toInt a 32 v else if f = 12 then toPair a v else toFp a f v

/-! ## Packing (R221, R223, R224, R227) -/

/-- `n` fields of `w` bits, ascending, from a number. -/
def fieldsOf (w : Nat) : Nat → Nat → List Nat
  | 0, _ => []
  | n + 1, x => x % 2 ^ w :: fieldsOf w n (x / 2 ^ w)

/-- The number whose ascending fields of `w` bits these are. -/
def ofFields (w : Nat) : List Nat → Nat
  | [] => 0
  | x :: xs => x % 2 ^ w + 2 ^ w * ofFields w xs

/-- Elements of a byte list in a non-MX format. -/
def unpackPlain (f : Nat) (bs : List Byte) : List Nat :=
  (chunks (bs.length + 1) (fmtBits f / 8) bs).map leNat

/-- Element lines and lines in all of an MX tile (R223). -/
def tileElemLines (f : Nat) : Nat := if f = 6 then 24 else if f = 7 then 16 else 32
def tileLines (f : Nat) : Nat := tileElemLines f + 1

/-- 2^k as an exponent shift of a value. -/
def Num.scale (v : Num) (k : Int) : Num :=
  match v with
  | .fin n m e => .fin n m (e + k)
  | v => v

/-- The 2,048 values of an MX tile (R224). -/
def unpackTile (f : Nat) (bs : List Byte) : List Num :=
  let el := bs.take (64 * tileElemLines f)
  let sc := bs.drop (64 * tileElemLines f)
  let xs := (chunks 65 (32 * fmtBits f / 8) el).map fun b => fieldsOf (fmtBits f) 32 (leNat b)
  (List.range 64).flatMap fun i =>
    let s := (nthB sc i).toNat
    (xs.getD i []).map fun x => if s = 255 then .nan else (decElem f x).scale ((s : Int) - 127)

/-- Values of a byte list in any format, whole tiles for MX formats. -/
def unpackVals (f : Nat) (bs : List Byte) : List Num :=
  if isMx f then (chunks (bs.length + 1) (64 * tileLines f) bs).flatMap (unpackTile f)
  else (unpackPlain f bs).map (decElem f)

/-- One MX element from the value already divided by its block's scale (R227). -/
def mxElem (a : AEnv) (f : Nat) (v : Num) : AEnv × Nat :=
  if f = 8 then
    match v with
    | .fin n m e =>
      let (k, exact) := rne m e (-6)
      if 127 < k then (a.raise 3, if n then 256 - 127 else 127)
      else if a.sr ∧ ¬ exact ∧ m / 2 ^ ((-6 : Int) - e).toNat < 127 then
        let (b, d) := a.draw
        let k := srnd m e (-6) d
        (b.raiseIf (k == 0) 2, if n then (256 - k) % 256 else k)
      else (a.raiseIf (k == 0 && m != 0) 2, if n then (256 - k) % 256 else k)
    | _ => (a, 0)
  else
    let sign := 2 ^ (fmtBits f - 1)
    match v with
    | .fin n 0 _ => (a, b2n n * sign)
    | .fin n m e =>
      match roundMag a f m e with
      | (b, some g) => (b, g + b2n n * sign)
      | (b, none) => (b.raise 3, maxMag f + b2n n * sign)
    | _ => (a, 0)

/-- emax of an MX format (R227). -/
def mxEmax (f : Nat) : Int := if f = 5 then 8 else if f = 6 then 4 else if f = 7 then 2 else 0

/-- floor(log2) of a finite value's magnitude, none for zero. -/
def Num.ilog : Num → Option Int
  | .fin _ 0 _ => none
  | .fin _ m e => some ((Nat.log2 m : Int) + e)
  | _ => none

/-- A block of 32 values into an MX format: its elements and its scale byte (R227). -/
def packBlock (a : AEnv) (f : Nat) (vs : List Num) : AEnv × List Nat × Nat :=
  let special := vs.any fun v => match v with
    | .fin _ _ _ => false
    | _ => true
  if special then
    (a.raiseIf (vs.any fun v => match v with
      | .inf _ => true
      | _ => false) 0, vs.map fun _ => 0, 255)
  else
    let mx := vs.foldl (fun (o : Option Int) v => match o, v.ilog with
      | none, r => r
      | some x, none => some x
      | some x, some y => some (max x y)) none
    let x : Int := match mx with
      | none => -127
      | some l => max (-127) (min 127 (l - mxEmax f))
    let r := vs.foldl (fun (r : AEnv × List Nat) v =>
      let (b, k) := mxElem r.1 f (v.scale (-x))
      (b, k :: r.2)) (a, [])
    (r.1, r.2.reverse, (x + 127).toNat)

/-- A tile of 2,048 values into an MX format: its bytes (R223). -/
def packTile (a : AEnv) (f : Nat) (vs : List Num) : AEnv × List Byte :=
  let r := (chunks 65 32 vs).foldl (fun (r : AEnv × List Byte × List Byte) b =>
    let (a', xs, s) := packBlock r.1 f b
    (a', r.2.1 ++ leBytes (32 * fmtBits f / 8) (ofFields (fmtBits f) xs), r.2.2 ++ [toB s])) (a, [], [])
  (r.1, r.2.1 ++ r.2.2)

/-- Values into a format, whole tiles for MX formats: bytes and the flags so far. -/
def packVals (a : AEnv) (f : Nat) (vs : List Num) : AEnv × List Byte :=
  if isMx f then
    (chunks (vs.length + 1) 2048 vs).foldl (fun (r : AEnv × List Byte) t =>
      let (b, bs) := packTile r.1 f t
      (b, r.2 ++ bs)) (a, [])
  else
    let r := vs.foldl (fun (r : AEnv × List (List Byte)) v =>
      let (b, x) := encElem r.1 f v
      (b, leBytes (fmtBits f / 8) x :: r.2)) (a, [])
    (r.1, r.2.reverse.flatten)

/-- Raises NAN_IN for values that are read as NaN (R238). -/
def nanIn (a : AEnv) (vs : List Num) : AEnv := a.raiseIf (vs.any Num.isNan) 4

/-- An element's bits with a NaN written as the canonical value of its format (R231). -/
def canonElem (f x : Nat) : Nat :=
  if (decElem f x).isNan then (if f = 12 then nanBits 0 else nanBits f) else x

/-- A tile copied with its NaNs canonical: a NaN element becomes 0x7F, and a block of scale 0xFF takes elements of 0
(R246 with R227 and R231; DEDUCED). -/
def canonTile (f : Nat) (bs : List Byte) : List Byte :=
  let el := bs.take (64 * tileElemLines f)
  let sc := bs.drop (64 * tileElemLines f)
  let xs := (chunks 65 (32 * fmtBits f / 8) el).map fun b => fieldsOf (fmtBits f) 32 (leNat b)
  ((List.range 64).flatMap fun i =>
    leBytes (32 * fmtBits f / 8) (ofFields (fmtBits f) ((xs.getD i []).map fun x =>
      if (nthB sc i).toNat = 255 then 0 else if f = 5 ∧ x % 128 = 127 then 127 else x))) ++ sc

/-- A conversion between equal formats copies the data and canonicalises NaNs (R246). -/
def copyCanon (f : Nat) (bs : List Byte) : List Byte :=
  if isMx f then (chunks (bs.length + 1) (64 * tileLines f) bs).flatMap (canonTile f)
  else (unpackPlain f bs).flatMap fun x => leBytes (fmtBits f / 8) (canonElem f x)

/-- A conversion of whole lines or tiles (R226, R246). -/
def convertBytes (a : AEnv) (sf df : Nat) (bs : List Byte) : AEnv × List Byte :=
  let vs := unpackVals sf bs
  let b := nanIn a vs
  if sf = df then (b, copyCanon sf bs) else packVals b df vs

/-- Lines that `n` lines of one format take in another (R246). -/
def convLines (sf df n : Nat) : Nat :=
  let elems := if isMx sf then n / tileLines sf * 2048 else n * (512 / fmtBits sf)
  if isMx df then elems / 2048 * tileLines df else elems * fmtBits df / 512

/-! ## Accumulation (R233 to R235) -/

/-- An accumulator: FP32 value, FP32X2 pair, or INT32. -/
inductive AccV where
  | f (v : Num)
  | p (h l : Num)
  | i (v : Int)
deriving DecidableEq, Repr

/-- The kind of accumulator: integer sources take INT32, others FP32 or FP32X2 as `pair` says (R233). -/
def accInit (f : Nat) (pair : Bool) (op : Nat) : AccV :=
  if isInt f then .i (if op = 1 then -(2 ^ 31) else if op = 2 then 2 ^ 31 - 1 else 0)
  else
    let z := if op = 1 then Num.inf true else if op = 2 then Num.inf false else .fin false 0 0
    if pair then .p z (.fin false 0 0) else .f z

/-- One rounded FP32 sum: ∞ − ∞ raises INVALID (R234, R238). -/
def fadd32 (a : AEnv) (x y : Num) : AEnv × Num :=
  let r := x.add y
  let a := a.raiseIf (r.isNan && !x.isNan && !y.isNan) 0
  match r with
  | .fin _ _ _ => to32 a r
  | r => (a, r)

/-- `two_sum` and `add` of R235. -/
def pairAdd (a : AEnv) (h l v : Num) : AEnv × Num × Num :=
  let (a, s) := fadd32 a h v
  match s with
  | .fin _ _ _ =>
    let (_, bb) := fadd32 a s h.neg
    let (_, t1) := fadd32 a s bb.neg
    let (_, t2) := fadd32 a h t1.neg
    let (_, t3) := fadd32 a v bb.neg
    let (_, e) := fadd32 a t2 t3
    let (_, e) := fadd32 a e l
    let (a, h') := fadd32 a s e
    match h' with
    | .fin _ _ _ =>
      let (_, d) := fadd32 a h' s.neg
      let (_, l') := fadd32 a e d.neg
      (a, h', l')
    | r => (a, r, .fin false 0 0)
  | r => (a, r, .fin false 0 0)

def clampInt (a : AEnv) (v : Int) : AEnv × Int :=
  if v < -(2 ^ 31) then (a.raise 3, -(2 ^ 31)) else if 2 ^ 31 - 1 < v then (a.raise 3, 2 ^ 31 - 1) else (a, v)

/-- An exact value as an integer; NaN and infinities do not occur in integer sources. -/
def Num.toInt : Num → Int
  | .fin n m e => if 0 ≤ e then sInt n (m * 2 ^ e.toNat) else sInt n (m / 2 ^ (-e).toNat)
  | _ => 0

/-- Updates an accumulator with one element (R234, R235). -/
def accStep (a : AEnv) (op : Nat) (c : AccV) (v : Num) : AEnv × AccV :=
  match c with
  | .i x =>
    let y := v.toInt
    let (a, r) := clampInt a (if op = 0 then x + y else if op = 1 then max x y else if op = 2 then min x y else x + y * y)
    (a, .i r)
  | .f x =>
    let (a, w) := to32 a v
    if op = 0 then
      let (a, r) := fadd32 a x w
      (a, .f r)
    else if op = 1 then (a, .f (x.max w))
    else if op = 2 then (a, .f (x.min w))
    else
      let (a, r) := fadd32 a x (w.mul w)
      (a, .f r)
  | .p h l =>
    if op = 0 then
      let (a, hi) := to32 a v
      match hi with
      | .fin _ _ _ =>
        let (_, lo) := to32 a (v.add hi.neg)
        let (a, h, l) := pairAdd a h l hi
        if lo.isZero then (a, .p h l)
        else
          let (a, h, l) := pairAdd a h l lo
          (a, .p h l)
      | r =>
        let (a, h, _) := pairAdd a h l r
        (a, .p h (.fin false 0 0))
    else
      let (a, w) := to32 a v
      if op = 1 then (a, .p (h.max w) (.fin false 0 0))
      else if op = 2 then (a, .p (h.min w) (.fin false 0 0))
      else
        let (a, p) := to32 a (w.mul w)
        match p with
        | .fin _ _ _ =>
          let (_, q) := to32 a ((w.mul w).add p.neg)
          let (a, h, l) := pairAdd a h l p
          let (a, h, l) := pairAdd a h l q
          (a, .p h l)
        | r =>
          let (a, h, _) := pairAdd a h l r
          (a, .p h (.fin false 0 0))

/-- The exact value an accumulator holds. -/
def accVal : AccV → Num
  | .f v => v
  | .p h l => match h with
    | .fin n m e => (Num.fin n m e).add l
    | v => v
  | .i v => ofInt false v 0

end Sys2Proof.Machine
end

