-- ==== Sys2Proof/Machine/Prog.lean ====
section
/-!
DEFINITION. Sys2Proof/Machine/Prog.lean: pool program images and the work of one tile (06 R260 to R277, R282).
-/
namespace Sys2Proof.Machine

/-! ## Images (R268 to R271) -/

/-- CRC-32 of IEEE 802.3, a byte and its bits at a time (R271). -/
def crcBit (c : Nat) : Nat := if c % 2 = 1 then c / 2 ^^^ 0xEDB88320 else c / 2
def crc32 (bs : List Byte) : Nat :=
  (bs.foldl (fun c b => (List.range 8).foldl (fun c _ => crcBit c) (c ^^^ b.toNat)) 0xFFFFFFFF) ^^^ 0xFFFFFFFF

def piNops (l : List Word) : Nat := wfld (nthW l 0) 24 7
def piNin (l : List Word) : Nat := wfld (nthW l 0) 32 4
def piNout (l : List Word) : Nat := wfld (nthW l 0) 36 3
def piPropagate (l : List Word) : Bool := (nthW l 0).toNat.testBit 39
def piNparam (l : List Word) : Nat := wfld (nthW l 0) 40 6
def piIfmt (l : List Word) (k : Nat) : Nat := wfld (nthW l 1) (4 * k) 4
def piOfmt (l : List Word) (k : Nat) : Nat := wfld (nthW l 1) (4 * k + 32) 4
def piOrnd (l : List Word) (k : Nat) : Bool := (nthW l 1).toNat.testBit (48 + k)
def piTarget (l : List Word) (k : Nat) : Nat := wfld (nthW l 2) (8 * k) 2
def piAcc (l : List Word) (k : Nat) : Nat := wfld (nthW l 2) (8 * k + 2) 1
def piComb (l : List Word) (k : Nat) : Nat := wfld (nthW l 2) (8 * k + 3) 2

/-- An operation record (R269). -/
structure POp where
  op : Nat
  dst : Nat
  a : Nat
  b : Nat
  c : Nat
  typ : Nat
  imm : Nat
deriving DecidableEq, Repr

def piOp (l : List Word) (j : Nat) : POp :=
  let w := nthW l (8 + 2 * j)
  ⟨wfld w 0 8, wfld w 8 8, wfld w 16 8, wfld w 24 8, wfld w 32 8, wfld w 40 4, wfld (nthW l (9 + 2 * j)) 0 32⟩
def piOps (l : List Word) : List POp := (List.range (piNops l)).map (piOp l)

/-- Source operands of an operation, and the TYPEs it allows (R272); none for a code that is not listed. -/
def opShape (o : Nat) : Option (Nat × List Nat) :=
  if o = 1 ∨ o = 0xD then some (1, [0, 10, 12])
  else if o = 2 ∨ o = 3 then some (2, [0, 10, 12])
  else if o = 4 ∨ o = 0xA ∨ o = 0xB then some (2, [0, 10])
  else if o = 5 ∨ o = 0x22 then some (3, [0])
  else if o = 6 ∨ o = 0x20 ∨ o = 0x21 then some (2, [0])
  else if o = 7 ∨ o = 0xE ∨ o = 0x19 ∨ o = 0x1A ∨ o = 0x1B then some (1, [0])
  else if o = 8 ∨ o = 9 then some (1, [0, 10])
  else if o = 0xC ∨ o = 0x13 then some (3, [0, 10])
  else if 0x10 ≤ o ∧ o ≤ 0x12 then some (2, [0, 10])
  else if o = 0x18 then some (1, [0, 12])
  else none

def isReduceOp (o : Nat) : Bool := decide (0x18 ≤ o) && decide (o ≤ 0x1B)

/-- Whether a source selector is allowed: a register (even for a pair), an input, a parameter or IMM (R270). -/
def srcOk (l : List Word) (pair : Bool) (x : Nat) : Bool :=
  if x < 0x10 then !pair || x % 2 == 0
  else if x < 0x18 then decide (x - 0x10 < piNin l)
  else if 0x20 ≤ x ∧ x < 0x40 then decide (x - 0x20 < piNparam l)
  else x == 0x80

/-- Whether a destination selector is allowed (R270). -/
def dstOk (l : List Word) (o : POp) : Bool :=
  if isReduceOp o.op then decide (0x40 ≤ o.dst) && decide (o.dst ≤ 0x43) && piTarget l (o.dst - 0x40) != 0
  else if o.dst < 0x10 then o.typ != 12 || o.dst % 2 == 0
  else decide (0x18 ≤ o.dst) && decide (o.dst ≤ 0x1B) && decide (o.dst - 0x18 < piNout l)

/-- Whether every selector of an operation is allowed; an unused position holds 0xFF. -/
def selsOk (l : List Word) (o : POp) : Bool :=
  let n := ((opShape o.op).map (·.1)).getD 0
  let pairA := if o.op = 0xD then o.imm % 16 == 12 || (o.typ == 12 && o.imm % 16 != 0 && o.imm % 16 != 10) else o.typ == 12
  dstOk l o && srcOk l pairA o.a && (if 2 ≤ n then srcOk l (o.typ == 12) o.b else o.b == 0xFF) &&
  (if 3 ≤ n then srcOk l (o.typ == 12) o.c else o.c == 0xFF)

def typeOk (o : POp) : Bool :=
  ((opShape o.op).map fun s => s.2.contains o.typ).getD false &&
  (if o.op = 0xD then [0, 10, 12].contains (o.imm % 16) else if o.op = 0xE then [1, 2, 3, 4, 9].contains (o.imm % 16) else true)

/-- Whether a reduction agrees with its accumulator (R276). -/
def reduceOk (l : List Word) (o : POp) : Bool :=
  if isReduceOp o.op then
    let k := o.dst - 0x40
    piComb l k == (if o.op = 0x19 then 1 else if o.op = 0x1A then 2 else 0) && (o.op != 0x18 || o.typ != 12 || piAcc l k == 1)
  else true

/-- The first operation that a test rejects. -/
def firstBad (f : Nat → POp → Bool) (ops : List POp) : Option Nat :=
  (List.range ops.length).find? fun j => match ops[j]? with
    | some o => !f j o
    | none => false

/-- REASON and OPIDX of an image's first failing check; (0, 0) when it passes (R282 reasons 2 to 10). -/
def imageCheck (l : List Word) : Nat × Nat :=
  let w0 := nthW l 0
  let ops := piOps l
  let n := piNops l
  let hdrRes := w0.toNat.testBit 31 || wfld w0 46 18 != 0 || wfld (nthW l 1) 52 12 != 0 || wfld (nthW l 2) 32 32 != 0 ||
    wfld (nthW l 3) 32 32 != 0 || (List.range 4).any fun k => wfld (nthW l 2) (8 * k + 5) 3 != 0 || piTarget l k == 3
  let body := wordsToBytes (l.take (8 + 2 * n))
  if wfld w0 0 16 ≠ 0xD48A ∨ wfld w0 16 8 ≠ 1 ∨ n = 0 ∨ 64 < n ∨ 8 < piNin l ∨ 4 < piNout l ∨ 32 < piNparam l ∨
      piNin l + piNout l = 0 then (2, 0)
  else if crc32 (body.take 24 ++ [0, 0, 0, 0] ++ body.drop 28) ≠ wfld (nthW l 3) 0 32 then (3, 0)
  else if hdrRes then (4, 0)
  else match firstBad (fun j _ => wfld (nthW l (8 + 2 * j)) 44 20 == 0 && wfld (nthW l (9 + 2 * j)) 32 32 == 0) ops with
  | some j => (4, j)
  | none => match firstBad (fun _ o => (opShape o.op).isSome) ops with
  | some j => (5, j)
  | none => match firstBad (fun _ o => selsOk l o) ops with
  | some j => (6, j)
  | none => match firstBad (fun _ o => typeOk o) ops with
  | some j => (7, j)
  | none =>
    if (List.range (piNin l)).any (fun k => decide (13 ≤ piIfmt l k)) || (List.range (piNout l)).any (fun k => decide (13 ≤ piOfmt l k))
    then (8, 0)
    else match firstBad (fun j o => reduceOk l o &&
        (decide (o.dst < 0x18) || decide (0x1B < o.dst) || (ops.take j).all (·.dst != o.dst))) ops with
    | some j => (9, j)
    | none =>
      if (List.range (piNout l)).any fun k => ops.all (·.dst != 0x18 + k) then (9, 0)
      else match firstBad (fun _ o => decide (o.op < 0x20) ||
          decide (o.imm % 32 + (if o.op = 0x22 then 6 else 1) ≤ piNparam l)) ops with
      | some j => (10, j)
      | none => (0, 0)

/-! ## One lane (R272 to R275). A lane of TYPE 0 or 10 is 32 bits; a pair has lo above hi. -/

/-- The integer square root by bits. -/
def isqrt : Nat → Nat → Nat → Nat
  | 0, _, r => r
  | n + 1, m, r => if (r + 2 ^ n) * (r + 2 ^ n) ≤ m then isqrt n m (r + 2 ^ n) else isqrt n m r

/-- A value rounded to FP32 to nearest even, INVALID when a NaN comes of inputs that are none. -/
def f32 (a : AEnv) (nanIn : Bool) (v : Num) : AEnv × Num :=
  match v with
  | .fin _ _ _ => to32 a v
  | v => (a.raiseIf (v.isNan && !nanIn) 0, v)

def fpAdd (a : AEnv) (x y : Num) : AEnv × Num := f32 a (x.isNan || y.isNan) (x.add y)
def fpMul (a : AEnv) (x y : Num) : AEnv × Num := f32 a (x.isNan || y.isNan) (x.mul y)
def fpFma (a : AEnv) (x y z : Num) : AEnv × Num := f32 a (x.isNan || y.isNan || z.isNan) ((x.mul y).add z)

/-- Correctly rounded quotient (R273). -/
def fpDiv (a : AEnv) (x y : Num) : AEnv × Num :=
  match x, y with
  | .nan, _ => (a, .nan)
  | _, .nan => (a, .nan)
  | .inf _, .inf _ => (a.raise 0, .nan)
  | .inf n, .fin k _ _ => (a, .inf (n != k))
  | .fin n _ _, .inf k => (a, .fin (n != k) 0 0)
  | .fin n m e, .fin k d f =>
    if d = 0 then if m = 0 then (a.raise 0, .nan) else (a.raise 1, .inf (n != k))
    else to32 a (.fin (n != k) (2 * (m * 2 ^ 64 / d) + b2n (m * 2 ^ 64 % d != 0)) (e - f - 65))

/-- Correctly rounded square root (R273). -/
def fpSqrt (a : AEnv) (x : Num) : AEnv × Num :=
  match x with
  | .nan => (a, .nan)
  | .inf n => if n then (a.raise 0, .nan) else (a, .inf false)
  | .fin n 0 _ => (a, .fin n 0 0)
  | .fin true _ _ => (a.raise 0, .nan)
  | .fin false m e =>
    let s : Nat := if e % 2 = 0 then 64 else 65
    let q := m * 2 ^ s
    let r := isqrt 60 q 0
    to32 a (.fin false (2 * r + b2n (r * r != q)) ((e - s) / 2 - 1))

def bits32 (v : Num) : Nat := (toFp ⟨false, false, 0, 0⟩ 0 v).2
def i32 (x : Nat) : Int := (intNum 32 x 0).toInt
def ofI32 (v : Int) : Nat := (v % 2 ^ 32).toNat
def pairNum (x : Nat) : Num := decElem 12 x

/-- A comparison of two lanes that are not NaN: −1, 0 or 1 as their values stand; the zeros are equal. -/
def numCmp (x y : Num) : Int :=
  if x.isZero && y.isZero then 0 else if x.lt y then -1 else if y.lt x then 1 else 0

/-- One lane of an operation that is no reduction and no fused one. -/
def laneOp (a : AEnv) (o : POp) (x y z : Nat) : AEnv × Nat :=
  let t := o.typ
  let fx := fpNum 0 x
  let fy := fpNum 0 y
  let fz := fpNum 0 z
  let put := fun (r : AEnv × Num) => (r.1, bits32 r.2)
  let int := fun (v : Int) =>
    let (b, r) := clampInt a v
    (b, ofI32 r)
  let c := o.op
  if c = 1 then if t = 0 then (a, bits32 fx) else (a, x)
  else if c = 2 ∨ c = 3 then
    if t = 0 then put (fpAdd a fx (if c = 3 then fy.neg else fy))
    else if t = 10 then int (i32 x + (if c = 3 then -(i32 y) else i32 y))
    else
      let sgn := fun (v : Num) => if c = 3 then v.neg else v
      let (a, h, l) := pairAdd a (fpNum 0 (x % 2 ^ 32)) (fpNum 0 (x / 2 ^ 32)) (sgn (fpNum 0 (y % 2 ^ 32)))
      let (a, h, l) := pairAdd a h l (sgn (fpNum 0 (y / 2 ^ 32)))
      (a, bits32 h + bits32 l * 2 ^ 32)
  else if c = 4 then if t = 0 then put (fpMul a fx fy) else int (i32 x * i32 y)
  else if c = 5 then put (fpFma a fx fy fz)
  else if c = 6 then put (fpDiv a fx fy)
  else if c = 7 then put (fpSqrt a fx)
  else if c = 8 then
    if t = 0 then (a, bits32 (match fx with
      | .fin _ m e => .fin false m e
      | .inf _ => .inf false
      | v => v))
    else int (if i32 x < 0 then -(i32 x) else i32 x)
  else if c = 9 then if t = 0 then (a, bits32 fx.neg) else int (-(i32 x))
  else if c = 0xA then if t = 0 then (a, bits32 (fx.max fy)) else int (max (i32 x) (i32 y))
  else if c = 0xB then if t = 0 then (a, bits32 (fx.min fy)) else int (min (i32 x) (i32 y))
  else if c = 0xC then if t = 0 then (a, bits32 ((fx.max fy).min fz)) else int (min (max (i32 x) (i32 y)) (i32 z))
  else if c = 0xD then
    let v := if o.imm % 16 = 0 then fx else if o.imm % 16 = 10 then ofInt false (i32 x) 0 else pairNum x
    let a := { a with sr := false }
    if t = 0 then put (to32 a v)
    else if t = 10 then toInt a 32 v
    else if o.imm % 16 = 12 then (a, x) else toPair a v
  else if c = 0xE then
    let f := o.imm % 16
    let (b, e) := encElem { a with sr := o.imm.testBit 4 } f fx
    (b, bits32 (decElem f e))
  else if 0x10 ≤ c ∧ c ≤ 0x12 then
    let r : Bool :=
      if t = 0 then !fx.isNan && !fy.isNan && (if c = 0x10 then numCmp fx fy < 0 else if c = 0x11 then numCmp fx fy ≤ 0
        else numCmp fx fy == 0)
      else if c = 0x10 then i32 x < i32 y else if c = 0x11 then i32 x ≤ i32 y else x == y
    (a, if r then if t = 0 then 0x3F800000 else 1 else 0)
  else
    let tr := if t = 0 then !fx.isZero else x != 0
    (a, if t = 0 then bits32 (if tr then fy else fz) else if tr then y else z)

/-! ## Fused operations (R277) -/

/-- A positive value kept to 192 bits. -/
def chop (v : Num) : Num :=
  match v with
  | .fin n m e => let k := m.log2 - 191
                  .fin n (m / 2 ^ k) (e + k)
  | v => v
/-- v to a power by its bits, the top one first, each product kept to 192 bits. -/
def numPow (v : Num) (t : Nat) : Nat → Num
  | 0 => .fin false 1 0
  | n + 1 =>
    let r := numPow v (t / 2) n
    let q := chop (r.mul r)
    if t % 2 = 1 then chop (q.mul v) else q

/-- An FP32 value within one unit in the last place of an exact one: which, is a free value. They are the two values that
enclose an inexact one, and a representable one with its neighbours. Infinities and NaN stand. -/
def within1 (a : AEnv) (v : Num) : AEnv × Num :=
  let (b, r) := to32 a v
  match v, r with
  | .fin n m e, .fin _ _ _ =>
    let q := fpQuantum 0 m e
    let (_, exact) := rne m e q
    let lo := if q ≤ e then m * 2 ^ (e - q).toNat else m / 2 ^ (q - e).toNat
    let k := (Config.ulpPick b.c).toNat
    let mag := fpMag 0 q lo
    let y := if exact then if k = 1 then mag + 1 else if k = 2 then (if mag = 0 then 2 ^ 31 + 1 else mag - 1) else mag
      else if k % 2 = 1 then mag + 1 else mag
    ({ b with c := b.c + 1 }, fpNum 0 (min y (if 2 ^ 31 ≤ y then y else maxMag 0) + b2n n * (if 2 ^ 31 ≤ y then 0 else 2 ^ 31)))
  | _, _ => ({ b with c := b.c + 1 }, r)

def oneN : Num := .fin false 1 0

/-- The constants of a fused operation: q, or 0 and then r1 and r2 (R277). -/
def fusedConst (a : AEnv) (o : POp) (par : List Nat) : AEnv × List Num :=
  let p := fun (i : Nat) => fpNum 0 (nthN par (o.imm % 32 + i))
  if o.op = 0x22 then
    let t := i32 (nthN par (o.imm % 32 + 5))
    let n := if t < 1 then 1 else t.toNat
    let (a, c1) := within1 a (oneN.add (numPow (p 1) n 32).neg)
    let (a, c2) := within1 a (oneN.add (numPow (p 2) n 32).neg)
    let (a, r1) := fpDiv a oneN c1
    let (a, r2) := fpDiv a oneN c2
    (a, [r1, r2])
  else
    let (a, q) := fpAdd a oneN (p 0).neg
    (a, [q])

/-- One lane of a fused operation. -/
def laneFused (a : AEnv) (o : POp) (par : List Nat) (cs : List Num) (x y z : Num) : AEnv × Num :=
  let p := fun (i : Nat) => fpNum 0 (nthN par (o.imm % 32 + i))
  let q := cs.headD .nan
  if o.op = 0x20 then
    let (a, t) := fpMul a q y
    fpFma a (p 0) x t
  else if o.op = 0x21 then
    let (a, g) := fpMul a y y
    let (a, t) := fpMul a q g
    fpFma a (p 0) x t
  else
    let (a, mh) := fpMul a y q
    let (a, vh) := fpMul a z (cs.getD 1 .nan)
    let (a, sq) := fpSqrt a vh
    let (a, d) := fpAdd a sq (p 3)
    let (a, u) := fpDiv a mh d
    let (a, w) := fpFma a (p 4) x u
    fpFma a (p 0).neg w x

/-! ## One tile (R263 to R265, R276) -/

/-- What a tile is worked with: registers, scalar accumulators and outputs. -/
structure TileX where
  env : AEnv
  regs : List (Nat × List Nat)
  acc : List AccV
  outs : List (Nat × List Num)
deriving DecidableEq, Repr

/-- The lanes of a source under a TYPE (R264, R265, R270). `ins` holds the tile's values of each input. -/
def srcLanes (x : TileX) (typ imm : Nat) (par : List Nat) (ins : List (List Num)) (ifmts : List Nat) (raw : List (List Nat))
    (n sel : Nat) : AEnv × List Nat :=
  let zero := List.replicate n 0
  if sel < 0x10 then
    let h := kgetD zero sel x.regs
    if typ = 12 then (x.env, List.zipWith (fun h l => h + l * 2 ^ 32) h (kgetD zero (sel + 1) x.regs)) else (x.env, h)
  else if sel < 0x18 then
    let k := sel - 0x10
    let vs := ins.getD k []
    if typ = 12 ∧ nthN ifmts k = 12 then (x.env, raw.getD k [])
    else
      let r := vs.foldl (fun (r : AEnv × List Nat) v =>
        let (b, y) := encElem { r.1 with sr := false } (if typ = 0 then 0 else if typ = 10 then 10 else 12) v
        (b, y :: r.2)) (x.env, [])
      (r.1, r.2.reverse)
  else (x.env, List.replicate n (if sel = 0x80 then imm else nthN par (sel - 0x20)))

/-- One operation over a tile's `n` active lanes. -/
def tileOp (l : List Word) (par : List Nat) (consts : List (List Num)) (ins : List (List Num)) (raw : List (List Nat)) (n : Nat)
    (x : TileX) (j : Nat) : TileX :=
  let o := piOp l j
  let ifm := (List.range 8).map (piIfmt l)
  let arity := ((opShape o.op).map (·.1)).getD 0
  let ta := if o.op = 0xD then o.imm % 16 else o.typ
  let (e, a) := srcLanes x ta o.imm par ins ifm raw n o.a
  let (e, b) := if 2 ≤ arity then srcLanes { x with env := e } o.typ o.imm par ins ifm raw n o.b else (e, [])
  let (e, c) := if 3 ≤ arity then srcLanes { x with env := e } o.typ o.imm par ins ifm raw n o.c else (e, [])
  if isReduceOp o.op then
    let k := o.dst - 0x40
    let op := if o.op = 0x18 then 0 else if o.op = 0x1B then 3 else o.op - 0x18
    let r := a.foldl (fun (r : AEnv × AccV) v => accStep r.1 op r.2 (if o.typ = 12 then pairNum v else fpNum 0 v))
      (e, x.acc.getD k (.f .nan))
    { x with env := r.1, acc := x.acc.set k r.2 }
  else
    let lanes := (List.range n).foldl (fun (r : AEnv × List Nat) i =>
      let xa := nthN a i
      let xb := nthN b i
      let xc := nthN c i
      let (b', y) := if 0x20 ≤ o.op then
          let (q, v) := laneFused r.1 o par (consts.getD j []) (fpNum 0 xa) (fpNum 0 xb) (fpNum 0 xc)
          (q, bits32 v)
        else laneOp r.1 o xa xb xc
      (b', y :: r.2)) (e, [])
    let env := { lanes.1 with sr := false }
    let ys := lanes.2.reverse
    if o.dst < 0x10 then
      if o.typ = 12 then { x with env, regs := kput (o.dst + 1) (ys.map (· / 2 ^ 32)) (kput o.dst (ys.map (· % 2 ^ 32)) x.regs) }
      else { x with env, regs := kput o.dst ys x.regs }
    else
      let vs := ys.map fun y => if o.typ = 0 then fpNum 0 y else if o.typ = 10 then intNum 32 y 0 else pairNum y
      { x with env, outs := kput (o.dst - 0x18) vs x.outs }

/-- Runs the operations of a tile, and packs its outputs (R263, R265; a pair is written as R222 has it, whatever halves a
register pair holds). -/
def runTile (env : AEnv) (l : List Word) (par : List Nat) (consts : List (List Num)) (acc : List AccV) (ins : List (List Num))
    (raw : List (List Nat)) (n : Nat) : AEnv × List AccV × List (Nat × List Byte) :=
  let env := ins.foldl nanIn env
  let x := (List.range (piNops l)).foldl (tileOp l par consts ins raw n) ⟨env, [], acc, []⟩
  let r := x.outs.foldl (fun (r : AEnv × List (Nat × List Byte)) o =>
    let (b, bs) := packVals { r.1 with sr := piOrnd l o.1 } (piOfmt l o.1) o.2
    ({ b with sr := false }, r.2 ++ [(o.1, bs)])) (x.env, [])
  (r.1, x.acc, r.2)

end Sys2Proof.Machine
end

