-- ==== Sys2Proof/Machine/Crypto.lean ====
section
/-!
DEFINITION. Sys2Proof/Machine/Crypto.lean: the published algorithms that the spec names: SHA-256 (03 R156), HMAC and
HKDF-Expand (14 R530), AES-256 with GCM (14 R524), XTS (14 R519), CMAC (14 R520) and key wrap (14 R530), RSASSA-PSS
(14 R534, R540), and the Reed-Solomon line code (13 R493, R494).
-/
namespace Sys2Proof.Machine

/-! ## SHA-256 -/

/-- The 64 round constants, first one highest. -/
def shaK : Nat := 0x428a2f9871374491b5c0fbcfe9b5dba53956c25b59f111f1923f82a4ab1c5ed5d807aa9812835b01243185be550c7dc372be5d7480deb1fe9bdc06a7c19bf174e49b69c1efbe47860fc19dc6240ca1cc2de92c6f4a7484aa5cb0a9dc76f988da983e5152a831c66db00327c8bf597fc7c6e00bf3d5a7914706ca63511429296727b70a852e1b21384d2c6dfc53380d13650a7354766a0abb81c2c92e92722c85a2bfe8a1a81a664bc24b8b70c76c51a3d192e819d6990624f40e3585106aa07019a4c1161e376c082748774c34b0bcb5391c0cb34ed8aa4a5b9cca4f682e6ff3748f82ee78a5636f84c878148cc7020890befffaa4506cebbef9a3f7c67178f2

/-- The initial hash words, first one highest. -/
def shaH : Nat := 0x6a09e667bb67ae853c6ef372a54ff53a510e527f9b05688c1f83d9ab5be0cd19

/-- Item `i` of `n` packed items of `w` bits, first one highest. -/
def packed (x n w i : Nat) : Nat := x / 2 ^ (w * (n - 1 - i)) % 2 ^ w

/-- Sum modulo 2^32. -/
def add32 (a b : Nat) : Nat := (a + b) % 2 ^ 32

/-- Rotate right in 32 bits. -/
def rotr32 (x n : Nat) : Nat := x / 2 ^ n + x % 2 ^ n * 2 ^ (32 - n)

/-- Extends the message schedule, newest word first, by `n` words. -/
def shaSched : Nat → List Nat → List Nat
  | 0, w => w
  | n + 1, w =>
    let a := nthN w 14
    let b := nthN w 1
    let s0 := rotr32 a 7 ^^^ rotr32 a 18 ^^^ a / 2 ^ 3
    let s1 := rotr32 b 17 ^^^ rotr32 b 19 ^^^ b / 2 ^ 10
    shaSched n (add32 (add32 (nthN w 15) s0) (add32 (nthN w 6) s1) :: w)

/-- One round on (a, ..., h). -/
def shaRound (v : List Nat) (k w : Nat) : List Nat :=
  let e := nthN v 4
  let a := nthN v 0
  let s1 := rotr32 e 6 ^^^ rotr32 e 11 ^^^ rotr32 e 25
  let ch := (e &&& nthN v 5) ^^^ ((2 ^ 32 - 1 - e) &&& nthN v 6)
  let t1 := add32 (add32 (nthN v 7) s1) (add32 ch (add32 k w))
  let s0 := rotr32 a 2 ^^^ rotr32 a 13 ^^^ rotr32 a 22
  let mj := (a &&& nthN v 1) ^^^ (a &&& nthN v 2) ^^^ (nthN v 1 &&& nthN v 2)
  [add32 t1 (add32 s0 mj), a, nthN v 1, nthN v 2, add32 (nthN v 3) t1, e, nthN v 5, nthN v 6]

/-- One 64-byte block added to the hash. -/
def shaBlock (h : List Nat) (blk : List Byte) : List Nat :=
  let w0 := (List.range 16).map fun i => beNat ((blk.drop (4 * i)).take 4)
  let w := (shaSched 48 w0.reverse).reverse
  let v := (List.range 64).foldl (fun v i => shaRound v (packed shaK 64 32 i) (nthN w i)) h
  (List.range 8).map fun i => add32 (nthN h i) (nthN v i)

/-- The SHA-256 digest, 32 bytes. -/
def sha256 (m : List Byte) : List Byte :=
  let pad := (119 - m.length % 64) % 64
  let p := m ++ [0x80] ++ List.replicate pad 0 ++ beBytes 8 (8 * m.length)
  let h0 := (List.range 8).map (packed shaH 8 32)
  ((chunks p.length 64 p).foldl shaBlock h0).flatMap (beBytes 4)

/-- Byte-wise exclusive or, as long as the shorter. -/
def xorB (a b : List Byte) : List Byte := List.zipWith (· ^^^ ·) a b

/-- HMAC with SHA-256. -/
def hmac256 (key m : List Byte) : List Byte :=
  let k := if key.length > 64 then sha256 key else key
  let k := k ++ List.replicate (64 - k.length) 0
  sha256 (xorB k (List.replicate 64 0x5c) ++ sha256 (xorB k (List.replicate 64 0x36) ++ m))

/-- HKDF-Expand with SHA-256 to 32 bytes. -/
def hkdf32 (prk info : List Byte) : List Byte := hmac256 prk (info ++ [1])

/-! ## AES-256 -/

def sboxN : Nat := 0x637c777bf26b6fc53001672bfed7ab76ca82c97dfa5947f0add4a2af9ca472c0b7fd9326363ff7cc34a5e5f171d8311504c723c31896059a071280e2eb27b27509832c1a1b6e5aa0523bd6b329e32f8453d100ed20fcb15b6acbbe394a4c58cfd0efaafb434d338545f9027f503c9fa851a3408f929d38f5bcb6da2110fff3d2cd0c13ec5f974417c4a77e3d645d197360814fdc222a908846eeb814de5e0bdbe0323a0a4906245cc2d3ac629195e479e7c8376d8dd54ea96c56f4ea657aae08ba78252e1ca6b4c6e8dd741f4bbd8b8a703eb5664803f60e613557b986c11d9ee1f8981169d98e949b1e87e9ce5528df8ca1890dbfe6426841992d0fb054bb16
def invSboxN : Nat := 0x52096ad53036a538bf40a39e81f3d7fb7ce339829b2fff87348e4344c4dee9cb547b9432a6c2233dee4c950b42fac34e082ea16628d924b2765ba2496d8bd12572f8f66486689816d4a45ccc5d65b6926c704850fdedb9da5e154657a78d9d8490d8ab008cbcd30af7e45805b8b34506d02c1e8fca3f0f02c1afbd0301138a6b3a9111414f67dcea97f2cfcef0b4e67396ac7422e7ad3585e2f937e81c75df6e47f11a711d29c5896fb7620eaa18be1bfc563e4bc6d279209adbc0fe78cd5af41fdda8338807c731b11210592780ec5f60517fa919b54a0d2de57a9f93c99cefa0e03b4dae2af5b0c8ebbb3c83539961172b047eba77d626e169146355210c7d

/-- Multiplication by x in the field of AES. -/
def xtime (b : Nat) : Nat := if b < 128 then 2 * b else (2 * b - 256) ^^^ 0x1b

/-- Multiplication in the field of AES by a four-bit constant. -/
def gmul (b k : Nat) : Nat :=
  let b2 := xtime b
  let b4 := xtime b2
  let b8 := xtime b4
  (if k.testBit 0 then b else 0) ^^^ (if k.testBit 1 then b2 else 0) ^^^
  (if k.testBit 2 then b4 else 0) ^^^ (if k.testBit 3 then b8 else 0)

def subWord (w : Nat) : Nat := beNat ((beBytes 4 w).map fun b => toB (packed sboxN 256 8 b.toNat))

/-- Key expansion, newest word first. -/
def aesExpand : Nat → Nat → Nat → List Nat → List Nat
  | 0, _, _, w => w
  | n + 1, i, rc, w =>
    let t := nthN w 0
    let t := if i % 8 = 0 then subWord (t * 256 % 2 ^ 32 + t / 2 ^ 24) ^^^ rc * 2 ^ 24
             else if i % 8 = 4 then subWord t else t
    aesExpand n (i + 1) (if i % 8 = 0 then xtime rc else rc) ((nthN w 7 ^^^ t) :: w)

/-- The 15 round keys of a 32-byte key, 16 bytes each. -/
def aesKeys (key : List Byte) : List (List Nat) :=
  let w0 := (List.range 8).map fun i => beNat ((key.drop (4 * i)).take 4)
  let w := (aesExpand 52 8 1 w0.reverse).reverse
  (List.range 15).map fun r => (List.range 4).flatMap fun c => (beBytes 4 (nthN w (4 * r + c))).map BitVec.toNat

def mixCols (m : List Nat) (s : List Nat) : List Nat :=
  (List.range 16).map fun i =>
    let c := i / 4 * 4
    (List.range 4).foldl (fun a k => a ^^^ gmul (nthN s (c + k)) (nthN m ((k + 4 - i % 4) % 4))) 0

def addKey (s k : List Nat) : List Nat := List.zipWith (· ^^^ ·) s k

/-- AES-256 of one 16-byte block. -/
def aesEnc (ks : List (List Nat)) (blk : List Byte) : List Byte :=
  let s0 := addKey (blk.map BitVec.toNat) (ks.getD 0 [])
  let sr (s : List Nat) : List Nat :=
    (List.range 16).map fun i => packed sboxN 256 8 (nthN s (i % 4 + 4 * ((i / 4 + i % 4) % 4)))
  let s := (List.range 13).foldl (fun s r => addKey (mixCols [2, 3, 1, 1] (sr s)) (ks.getD (r + 1) [])) s0
  (addKey (sr s) (ks.getD 14 [])).map toB

/-- The inverse of `aesEnc`. -/
def aesDec (ks : List (List Nat)) (blk : List Byte) : List Byte :=
  let inv (s : List Nat) : List Nat :=
    (List.range 16).map fun i => packed invSboxN 256 8 (nthN s (i % 4 + 4 * ((i / 4 + 4 - i % 4) % 4)))
  let s0 := inv (addKey (blk.map BitVec.toNat) (ks.getD 14 []))
  let s := (List.range 13).foldl (fun s r => inv (mixCols [14, 11, 13, 9] (addKey s (ks.getD (13 - r) [])))) s0
  (addKey s (ks.getD 0 [])).map toB

/-! ### GCM (14 R524) -/

/-- The product of two blocks in GHASH's field, `n` bits of `x` left. -/
def ghMul : Nat → Nat → Nat → Nat → Nat
  | 0, _, _, z => z
  | n + 1, x, v, z =>
    ghMul n x (if v.testBit 0 then v / 2 ^^^ 0xe1 * 2 ^ 120 else v / 2) (if x.testBit n then z ^^^ v else z)

def ghash (h : Nat) (bs : List (List Byte)) : Nat :=
  bs.foldl (fun y b => ghMul 128 (y ^^^ beNat (b ++ List.replicate (16 - b.length) 0)) h 0) 0

/-- Counter-mode keystream applied from counter `c` on. -/
def gcmCtr (ks : List (List Nat)) (iv : List Byte) : Nat → List (List Byte) → List Byte
  | _, [] => []
  | c, b :: bs => xorB b (aesEnc ks (iv ++ beBytes 4 c)) ++ gcmCtr ks iv (c + 1) bs

/-- AES-256-GCM tag over additional data and ciphertext. -/
def gcmTag (key iv aad ct : List Byte) : List Byte :=
  let ks := aesKeys key
  let h := beNat (aesEnc ks (List.replicate 16 0))
  let lens := beBytes 8 (8 * aad.length) ++ beBytes 8 (8 * ct.length)
  let g := ghash h (chunks aad.length 16 aad ++ chunks ct.length 16 ct ++ [lens])
  xorB (beBytes 16 g) (aesEnc ks (iv ++ beBytes 4 1))

/-- AES-256-GCM encryption or decryption of a text (the same operation). -/
def gcmCrypt (key iv txt : List Byte) : List Byte :=
  gcmCtr (aesKeys key) iv 2 (chunks txt.length 16 txt)

/-! ### XTS and CMAC (14 R519, R520) -/

/-- Multiplication of an XTS tweak by x, little-endian. -/
def xtsMul (t : Nat) : Nat := if t < 2 ^ 127 then 2 * t else (2 * t - 2 ^ 128) ^^^ 0x87

/-- AES-256-XTS of one line of 64 bytes with data unit number `n`. -/
def xtsLine (key1 key2 : List Byte) (n : Nat) (line : List Byte) : List Byte :=
  let ks := aesKeys key1
  let t0 := leNat (aesEnc (aesKeys key2) (leBytes 16 n))
  ((chunks 4 16 line).foldl (fun (acc : Nat × List Byte) b =>
    let tb := leBytes 16 acc.1
    (xtsMul acc.1, acc.2 ++ xorB (aesEnc ks (xorB b tb)) tb)) (t0, [])).2

/-- AES-256-CMAC of a message whose length is a multiple of 16 and not zero. -/
def cmac (key msg : List Byte) : List Byte :=
  let ks := aesKeys key
  let l := beNat (aesEnc ks (List.replicate 16 0))
  let k1 := if l < 2 ^ 127 then 2 * l else (2 * l - 2 ^ 128) ^^^ 0x87
  let bs := chunks msg.length 16 msg
  let n := bs.length
  (List.range n).foldl (fun x i =>
    let b := bs.getD i []
    aesEnc ks (xorB x (if i + 1 = n then xorB b (beBytes 16 k1) else b))) (List.replicate 16 0)

/-- The 32-bit MAC of a line (14 R520). -/
def lineMac (macKey : List Byte) (line part : Nat) (ct : List Byte) : List Byte :=
  (cmac macKey (leBytes 8 line ++ [toB part] ++ List.replicate 7 0 ++ ct)).take 4

/-! ### Key wrap (RFC 3394) -/

/-- One of the 6n steps of unwrapping: A and the n 8-byte registers. -/
def unwrapStep (ks : List (List Nat)) (n t : Nat) (st : List Byte × List (List Byte)) : List Byte × List (List Byte) :=
  let i := (t - 1) % n
  let b := aesDec ks (xorB st.1 (beBytes 8 t) ++ st.2.getD i [])
  (b.take 8, st.2.set i (b.drop 8))

/-- The unwrapped key, none where the integrity check fails. -/
def keyUnwrap (kek wrapped : List Byte) : Option (List Byte) :=
  let rs := chunks wrapped.length 8 wrapped
  let n := rs.length - 1
  let ks := aesKeys kek
  let r := (List.range (6 * n)).foldl (fun st k => unwrapStep ks n (6 * n - k) st) (rs.headD [], rs.drop 1)
  if r.1 = List.replicate 8 0xA6 then some r.2.flatten else none

/-! ## RSASSA-PSS with SHA-256, MGF1 and a 32-byte salt -/

/-- x^65537 modulo n. -/
def pow65537 (x n : Nat) : Nat :=
  (List.range 16).foldl (fun y _ => y * y % n) (x % n) * x % n

/-- MGF1 with SHA-256, `n` blocks. -/
def mgf1 (seed : List Byte) (n : Nat) : List Byte :=
  (List.range n).flatMap fun i => sha256 (seed ++ beBytes 4 i)

/-- Whether a 384-byte signature verifies over a message under a 384-byte modulus. -/
def pssVerify (modulus sig msg : List Byte) : Bool :=
  let n := beNat modulus
  let s := beNat sig
  if n < 2 ^ 3071 ∨ n ≤ s then false else
  let em := beBytes 384 (pow65537 s n)
  let h := (em.drop 351).take 32
  let mdb := em.take 351
  let db := xorB mdb (mgf1 h 11)
  let db := toB (leNat (db.take 1) % 128) :: db.drop 1
  em.drop 383 == [0xbc] && decide (leNat (mdb.take 1) < 128) &&
  db.take 319 == List.replicate 318 0 ++ [1] &&
  sha256 (List.replicate 8 0 ++ sha256 msg ++ db.drop 319) == h

/-! ## The line code (13 R493, R494) -/

/-- Multiplication in GF(2^8) modulo x^8 + x^4 + x^3 + x^2 + 1, `n` bits of `b` left. -/
def rsMul : Nat → Nat → Nat → Nat
  | 0, _, _ => 0
  | n + 1, a, b => (if b.testBit 0 then a else 0) ^^^ rsMul n (if a < 128 then 2 * a else (2 * a - 256) ^^^ 0x1d) (b / 2)

/-- α^n. -/
def rsAlpha : Nat → Nat
  | 0 => 1
  | n + 1 => rsMul 8 (rsAlpha n) 2

/-- The generator polynomial without its leading 1, highest power first. -/
def rsGen : List Nat :=
  ((List.range 16).foldl (fun g i =>
    List.zipWith (· ^^^ ·) (g ++ [0]) (0 :: g.map (rsMul 8 (rsAlpha i)))) [1]).drop 1

/-- The 16 check symbols of 64 data symbols, symbol 64 first. -/
def rsCheck (data : List Byte) : List Byte :=
  (data.foldl (fun r d =>
    let f := nthN r 0 ^^^ d.toNat
    List.zipWith (· ^^^ ·) (r.drop 1 ++ [0]) (rsGen.map (rsMul 8 f))) (List.replicate 16 0)).map toB

/-- The check bytes of the poison marker (13 R496). -/
def poisonCheck : List Byte :=
  xorB (rsCheck (List.replicate 64 0)) (List.replicate 8 0xA5 ++ List.replicate 8 0x3C)

/-- What a line's subchannel stores: 64 bytes of ciphertext and 16 check bytes (13 R488, 14 R519). -/
def storedLine (memKey : List Byte) (line : Nat) (plain : List Byte) : List Byte :=
  let ct := xtsLine (memKey.take 32) ((memKey.drop 32).take 32) line plain
  ct ++ rsCheck ct

/-- The MAC that the carve-out holds for a line (14 R520). -/
def storedMac (memKey : List Byte) (part line : Nat) (plain : List Byte) : List Byte :=
  lineMac (memKey.drop 64) line part (xtsLine (memKey.take 32) ((memKey.drop 32).take 32) line plain)

/-! ### What the Granary holds (04 R185 to R187) -/

/-- The ciphertext of a line as DRAM and the Granary hold it; a poisoned line is zeros (13 R496). -/
def lineCipher (memKey : List Byte) (l : Nat × Bool × List Byte) : List Byte :=
  if l.2.1 then List.replicate 64 0 else xtsLine (memKey.take 32) ((memKey.drop 32).take 32) l.1 l.2.2

/-- The bytes of data LBAs: the ciphertext of their lines, in order (04 R186). -/
def lbaData (memKey : List Byte) (lines : List (Nat × Bool × List Byte)) : List Byte := lines.flatMap (lineCipher memKey)

/-- A line's MAC in a MAC LBA: the complement of the correct one for a poisoned line (04 R187). -/
def granaryMac (memKey : List Byte) (part : Nat) (l : Nat × Bool × List Byte) : List Byte :=
  let m := lineMac (memKey.drop 64) l.1 part (lineCipher memKey l)
  if l.2.1 then m.map (~~~ ·) else m

/-- The bytes of a group's MAC LBA: 256 bytes a block, in line order; lines that are not given keep what the LBA held
(04 R185, R190). -/
def lbaMacs (memKey : List Byte) (part group : Nat) (lines : List (Nat × Bool × List Byte)) (old : List Byte) : List Byte :=
  (List.range 1024).flatMap fun i => match lines.find? (fun l => l.1 == group * 1024 + i) with
    | some l => granaryMac memKey part l
    | none => (old.drop (4 * i)).take 4

end Sys2Proof.Machine
end

