-- ==== Sys2Proof/Machine/Packet.lean ====
section
/-!
DEFINITION. Sys2Proof/Machine/Packet.lean: the header fields of a Fupex packet (11 R414, R415), how answers are formed
(11 R420), the arrival checks (11 R428), and how a packet is sealed and opened (14 R524, R525).
-/
namespace Sys2Proof.Machine

/-! ## Header fields (11 R414) -/

def pDst (p : Pkt) : Nat := wfld p.w0 0 15
def pSrc (p : Pkt) : Nat := wfld p.w0 15 15
def pTc (p : Pkt) : Nat := wfld p.w0 30 3
def pEpoch (p : Pkt) : Nat := wfld p.w0 33 1
def pOpc (p : Pkt) : Nat := wfld p.w0 34 6
def pLen (p : Pkt) : Nat := wfld p.w0 40 7
def pMcast (p : Pkt) : Nat := wfld p.w0 47 2
def pHops (p : Pkt) : Nat := wfld p.w0 49 6
def pFlags (p : Pkt) : Nat := wfld p.w0 55 8
def pAddr (p : Pkt) : Nat := wfld p.w1 0 57
def pFmt (p : Pkt) : Nat := wfld p.w1 57 4
def pRed (p : Pkt) : Nat := wfld p.w1 61 3
def pSpace (p : Pkt) : Nat := wfld p.w2 0 16
def pSeq (p : Pkt) : Nat := wfld p.w2 16 16
def pCtag (p : Pkt) : Nat := wfld p.w2 32 16
def pSync (p : Pkt) : Nat := wfld p.w2 48 16
def pKey (p : Pkt) : Nat := wfld p.w3 0 12
def pCode (p : Pkt) : Nat := wfld p.w3 12 8
def pArg (p : Pkt) : Nat := wfld p.w3 20 8
def pIcv (p : Pkt) : Nat := wfld p.w3 32 32

/-- FLAGS bits (11 R415). -/
def pRetx (p : Pkt) : Bool := (pFlags p).testBit 0
def pGrid (p : Pkt) : Bool := (pFlags p).testBit 1
def pNoack (p : Pkt) : Bool := (pFlags p).testBit 2
def pPoison (p : Pkt) : Bool := (pFlags p).testBit 3

/-- A word with one field replaced. -/
def wset (w : Word) (lo n v : Nat) : Word := toW (setFld w.toNat lo n v)

/-- Header fields by name, from which a header is built. -/
structure Hdr where
  dst : Nat := 0
  src : Nat := 0
  tc : Nat := 0
  epoch : Nat := 0
  opc : Nat := 0
  len : Nat := 0
  mcast : Nat := 0
  hops : Nat := 0
  flags : Nat := 0
  addr : Nat := 0
  fmt : Nat := 0
  red : Nat := 0
  space : Nat := 0
  seq : Nat := 0
  ctag : Nat := 0
  sync : Nat := 0
  key : Nat := 0
  code : Nat := 0
  arg : Nat := 0
  icv : Nat := 0
deriving DecidableEq, Repr

/-- A packet with these header fields and this payload (11 R414). -/
def mkPkt (h : Hdr) (pay : List Byte) : Pkt where
  w0 := toW (h.dst % 2 ^ 15 + h.src % 2 ^ 15 * 2 ^ 15 + h.tc % 8 * 2 ^ 30 + h.epoch % 2 * 2 ^ 33 + h.opc % 64 * 2 ^ 34 +
    h.len % 128 * 2 ^ 40 + h.mcast % 4 * 2 ^ 47 + h.hops % 64 * 2 ^ 49 + h.flags % 256 * 2 ^ 55)
  w1 := toW (h.addr % 2 ^ 57 + h.fmt % 16 * 2 ^ 57 + h.red % 8 * 2 ^ 61)
  w2 := toW (h.space % 2 ^ 16 + h.seq % 2 ^ 16 * 2 ^ 16 + h.ctag % 2 ^ 16 * 2 ^ 32 + h.sync % 2 ^ 16 * 2 ^ 48)
  w3 := toW (h.key % 4096 + h.code % 256 * 2 ^ 12 + h.arg % 256 * 2 ^ 20 + h.icv % 2 ^ 32 * 2 ^ 32)
  pay := pay

/-- The fields of a packet's header. -/
def hdrOf (p : Pkt) : Hdr where
  dst := pDst p
  src := pSrc p
  tc := pTc p
  epoch := pEpoch p
  opc := pOpc p
  len := pLen p
  mcast := pMcast p
  hops := pHops p
  flags := pFlags p
  addr := pAddr p
  fmt := pFmt p
  red := pRed p
  space := pSpace p
  seq := pSeq p
  ctag := pCtag p
  sync := pSync p
  key := pKey p
  code := pCode p
  arg := pArg p
  icv := pIcv p

/-- The eight payload bytes of word `i`, as a number. -/
def payWord (p : Pkt) (i : Nat) : Nat := leNat ((p.pay.drop (8 * i)).take 8)

/-- Line `k` of a payload. -/
def payLine (p : Pkt) (k : Nat) : List Byte := (p.pay.drop (64 * k)).take 64

/-- One 64-byte payload line of the given words, zero after them. -/
def lineOfWords (ws : List Nat) : List Byte :=
  let b := ws.flatMap (leBytes 8)
  b ++ List.replicate (64 - b.length) 0

/-- The TC an answer to a request travels on (11 R419). -/
def answerTc (req : Pkt) : Nat := if pTc req = 1 then 2 else 5

/-- An answer to a request (11 R420). -/
def mkAnswer (node : Nat) (req : Pkt) (opc tc len flags code arg sync : Nat) (pay : List Byte) : Pkt :=
  mkPkt { dst := pSrc req, src := node, tc := tc, opc := opc, len := len, flags := flags, addr := pAddr req,
          space := pSpace req, seq := pSeq req, ctag := pCtag req, key := pKey req, code := code, arg := arg,
          sync := sync } pay

/-! ## Arrival checks (11 R428) -/

/-- Opcodes of 11 R419, the coherence opcodes of 09 R355 among them. -/
def opcListed (o : Nat) : Bool :=
  (decide (1 ≤ o) && decide (o ≤ 0xA)) || (decide (0x10 ≤ o) && decide (o ≤ 0x18)) || o == 0x1C || o == 0x1E

/-- TCs allowed for an opcode (11 R419, 09 R355). -/
def tcAllowed (o tc : Nat) : Bool :=
  if o = 0x01 then tc == 3 || tc == 0
  else if o = 0x02 ∨ o = 0x04 then tc == 5 || tc == 0
  else if o = 0x03 then tc == 4 || tc == 5 || tc == 6 || tc == 0
  else if o = 0x05 ∨ o = 0x06 then tc == 4
  else if o = 0x07 then tc == 5
  else if o = 0x08 ∨ o = 0x09 ∨ o = 0x0A then tc == 6
  else if o = 0x15 ∨ o = 0x17 then tc == 2
  else if 0x10 ≤ o ∧ o ≤ 0x16 then tc == 1
  else if o = 0x18 then tc == 2 || tc == 5
  else if o = 0x1C then tc == 7
  else if o = 0x1E then tc == 2 || tc == 5 || tc == 0
  else false

/-- LEN allowed for an opcode; a write-back's follows the state it gives up (11 R419, 09 R355). -/
def lenAllowed (p : Pkt) : Bool :=
  let o := pOpc p
  let n := pLen p
  if o = 0x02 ∨ o = 0x03 ∨ o = 0x05 then decide (1 ≤ n) && decide (n ≤ 64)
  else if o = 0x06 ∨ o = 0x07 ∨ o = 0x09 ∨ o = 0x0A ∨ o = 0x14 ∨ o = 0x15 then n == 1
  else if o = 0x08 then n == 1 || n == 2
  else if o = 0x13 then if pRed p = 0 then n == 0 else n == 1
  else if o = 0x1C then n == 0 || n == 1
  else n == 0

/-- The fields SPACE, ADDR, FMT, RED_OP, SYNC_ID, CODE, ARG that an opcode uses, bits 0 to 6 (11 R419). -/
def usesMask (o : Nat) : Nat :=
  if o = 0x01 ∨ o = 0x02 ∨ o = 0x04 then 0b1000011
  else if o = 0x03 ∨ o = 0x07 then 0b0000011
  else if o = 0x05 then 0b0011111
  else if o = 0x06 ∨ o = 0x1E then 0b1100011
  else if o = 0x08 then 0b0010001
  else if o = 0x09 then 0b0000001
  else if o = 0x18 then 0b1110011
  else if o = 0x1C then 0b0110000
  else if 0x10 ≤ o ∧ o ≤ 0x17 then 0b0001011
  else 0

/-- Opcodes on which RETX may not be set (11 R428 check 4). -/
def notRequest (o : Nat) : Bool :=
  [0x02, 0x04, 0x07, 0x0A, 0x14, 0x15, 0x16, 0x17, 0x18, 0x1C, 0x1E].contains o

/-- A reserved bit or an unused field is set, or a field is misused (11 R428 check 4). -/
def fieldFail (p : Pkt) : Bool :=
  let m := usesMask (pOpc p)
  (p.w0.toNat.testBit 63) || wfld p.w3 28 4 != 0 || decide (16 ≤ pFlags p) ||
  (!m.testBit 0 && pSpace p != 0) || (!m.testBit 1 && pAddr p != 0) || (!m.testBit 2 && pFmt p != 0) ||
  (!m.testBit 3 && pRed p != 0) || (!m.testBit 4 && pSync p != 0) || (!m.testBit 5 && pCode p != 0) ||
  (!m.testBit 6 && pArg p != 0) ||
  ((pOpc p == 0x02 || pOpc p == 0x04) && !pPoison p && pArg p != 0) ||
  pAddr p % 64 != 0 || (pRetx p && notRequest (pOpc p))

/-- A sub-code or argument that the opcode does not list (11 R428 check 8). -/
def subcodeFail (p : Pkt) : Bool :=
  let o := pOpc p
  if o = 0x01 then pArg p == 0 || decide (64 < pArg p)
  else if o = 0x06 then pCode p == 0 || decide (4 < pCode p) || decide (8 ≤ pArg p)
  else if o = 0x05 then decide (4 ≤ pRed p)
  else if o = 0x18 then pCode p == 0 || decide (2 < pCode p)
  else if o = 0x1E then pCode p == 0 || decide (15 < pCode p)
  else if o = 0x1C then pCode p == 0 || decide (3 < pCode p) || pLen p != b2n (pCode p == 3)
  else false

/-- The first arrival check of 11 R428 that a packet fails on a port; 0 when it passes. -/
def arrivalFail (node : Nat) (trusted : Bool) (p : Pkt) : Nat :=
  let tc := pTc p
  if !opcListed (pOpc p) then 1
  else if !tcAllowed (pOpc p) tc || ((tc == 0 || tc == 7) && !trusted) then 2
  else if !lenAllowed p then 3
  else if fieldFail p then 4
  else if pMcast p == 3 || (pMcast p != 0 && pOpc p != 0x03 && pOpc p != 0x0A) || (pGrid p && pMcast p != 1) then 5
  else if pFmt p ≥ 13 then 6
  else if pSrc p == node then 7
  else if subcodeFail p then 8
  else 0

/-! ## Sealing (14 R524) -/

/-- The header bytes as additional authenticated data: EPOCH, HOPS and ICV zero, and on a multicast packet DST_NODE,
MCAST and GRID zero as well (14 R524). -/
def sealAad (p : Pkt) : List Byte :=
  let w0 := setFld (setFld p.w0.toNat 33 1 0) 49 6 0
  let w0 := if pMcast p = 0 then w0 else setFld (setFld (setFld w0 0 15 0) 47 2 0) 56 1 0
  wordsToBytes [toW w0, p.w1, p.w2, wset p.w3 32 32 0]

/-- The 12-byte nonce (14 R524). -/
def sealNonce (p : Pkt) : List Byte :=
  leBytes 2 (pSrc p) ++ leBytes 2 (if pMcast p = 0 then pDst p else 0) ++ [toB (pOpc p), 0] ++
  leBytes 2 (pSeq p) ++ leBytes 2 (pCtag p) ++ leBytes 2 (pKey p)

/-- The authentication tag that a packet's header and ciphertext carry in ICV (14 R524). -/
def sealTag (key : List Byte) (p : Pkt) (ct : List Byte) : Nat :=
  leNat ((gcmTag key (sealNonce p) (sealAad p) ct).take 4)

/-- A packet sealed under a key: its payload replaced by ciphertext, its ICV set. -/
def sealWith (key : List Byte) (p : Pkt) : Pkt :=
  let ct := gcmCrypt key (sealNonce p) p.pay
  { p with pay := ct, w3 := wset p.w3 32 32 (sealTag key p ct) }

/-- A sealed packet opened; none where its ICV differs. -/
def openWith (key : List Byte) (p : Pkt) : Option Pkt :=
  if sealTag key p p.pay = pIcv p then some { p with pay := gcmCrypt key (sealNonce p) p.pay } else none

end Sys2Proof.Machine
end

