-- ==== Sys2Proof/Machine/Fabric.lean ====
section
/-!
DEFINITION. Sys2Proof/Machine/Fabric.lean: raising interrupt sources (15 R563 to R565), records and events on the
owners' own rings (03 R168 to R171), routing and queueing packets at egress (11 R434 to R440, 12 R456), sealing what
the chip sends (14 R524 to R528), and the chip's own requests (11 R430, R433).
-/
namespace Sys2Proof.Machine

/-- The fabric time in ns (11 R448). -/
def State.now (s : State) : Nat := s.rdReg XRD_TIME.reg 0 0 0

/-! ## Waking (16 R601, R603) -/

/-- A wake of a dozing scope: its return begins, or, while the scope still enters sleep, the wake waits for the entry to
end. A scope that is awake or already returns takes none. -/
def wakeScope (s : State) (scope cause : Nat) : State :=
  let c := s.ctl
  if ¬ c.asleep.contains scope then s
  else if c.rsts.any (fun r => r.kind == 9 && r.scope == scope && r.step == 2) then
    { s with ctl := { c with wakes := kput scope cause c.wakes } }
  else if c.rsts.any (fun r => r.kind == 9 && r.scope == scope) then s
  else { s with ctl := { c with rsts := c.rsts ++ [⟨9, scope, cause, 3, none, 0⟩], sleepAt := s.now } }

/-- Wakes every dozing scope that a test picks. -/
def wakeWhere (s : State) (cause : Nat) (f : Nat → Bool) : State :=
  (s.ctl.asleep.filter f).foldl (fun t sc => wakeScope t sc cause) s

/-! ## Interrupt sources -/

/-- A raise of a source in the wake list wakes what dozes (16 R601). -/
def wakeSource (s : State) (src : Nat) : State :=
  if s.irq.wake.contains src then wakeWhere s 1 fun _ => true else s

/-- Raises source `src` once (15 R565). Sources below 32 are banked: `bankRaise`. -/
def irqRaise (s0 : State) (src : Nat) : State :=
  let s := wakeSource s0 src
  if src < 32 ∨ 2048 ≤ src then s
  else if s.rd IRQ_SRC_CNT.COUNT src = 255 then
    (s.wr IRQ_SRC_CNT.SAT 1 src).count IRQ_STAT.RAISES_LOST
  else s.count IRQ_SRC_CNT.COUNT src

/-- Raises banked source `src` of an Elder core (15 R563, R565). -/
def bankRaise (s : State) (core src : Nat) : State :=
  let k := core * 32 + src
  let n := kgetD 0 k s.irq.banks
  let put := fun (t : State) (v : Nat) => { t with irq := { t.irq with banks := kput k v t.irq.banks } }
  if n % 256 = 255 then put (s.count IRQ_STAT.RAISES_LOST) 511 else put s (n + 1)

/-- Whether a source's target agrees with its owner (15 R564). -/
def irqTargetOk (s : State) (src : Nat) : Bool :=
  let o := s.rd IRQ_SRC_CFG.OWNER src
  let k := s.rd IRQ_SRC_CFG.KIND src
  let f := s.rd IRQ_SRC_CFG.FUNC src
  let r := s.rd IRQ_SRC_CFG.RING src
  if k = 1 then o == 16
  else if k = 2 then (f == 0 && o == 16) || (decide (o ≤ 15) && f == o + 1 && decide (s.rd IRQ_SRC_CFG.VECTOR src < 64))
  else if k = 3 then s.rd RNG_CFG.CLASS r == 3 && s.rd RNG_CFG.OWNER r == o
  else true

/-! ## Rings -/

/-- A ring that has done nothing since it was enabled. -/
def freshRing : RingX := ⟨0, 0, false, false, 0, 0, []⟩

/-- A ring's state beside its registers. -/
def State.ringX (s : State) (i : Nat) : RingX := kgetD freshRing i s.rings

def State.setRingX (s : State) (i : Nat) (x : RingX) : State :=
  { s with rings := kset freshRing i x s.rings }

def ringOwner (s : State) (i : Nat) : Nat := s.rd RNG_CFG.OWNER i
def ringLoc1 (s : State) (i : Nat) : Bool := s.on RNG_CFG.LOC i
/-- Entries of the descriptor ring and of the completion or record ring (03 R142). -/
def descEntries (s : State) (i : Nat) : Nat := 2 ^ (6 + s.rd RNG_CFG.LOG_DESC i)
def cplEntries (s : State) (i : Nat) : Nat := 2 ^ (6 + s.rd RNG_CFG.LOG_CPL i)
/-- Whether a ring takes completions or records: ENABLE set and not stopped (03 R148, R171). -/
def ringLive (s : State) (i : Nat) : Bool := s.on RNG_CTL.ENABLE i && !s.on RNG_CTL.STOPPED i
/-- Whether the completion or record ring has room (03 R149, indices modulo 2^32 by R145). -/
def cplRoom (s : State) (i : Nat) : Bool :=
  decide ((s.rd RNG_CPL_IDX.CPIDX i + 2 ^ 32 - s.rd RNG_CPL_IDX.CCIDX i) % 2 ^ 32 < cplEntries s i)
/-- PHASE of the next record (03 R158). -/
def nextPhase (s : State) (i : Nat) : Nat := 1 - s.rd RNG_CPL_IDX.CPIDX i / cplEntries s i % 2

/-- Ring slots that satisfy a test, ascending (03 R139), among those whose RNG_CFG or RNG_CTL is listed. Another slot is off, and
its class is 0. -/
def ringsWhere (s : State) (f : Nat → Bool) : List Nat :=
  (s.regs.filterMap fun e =>
    let o := e.1 - RNG_CFG.reg.base
    let ctl := RNG_CTL.reg.base - RNG_CFG.reg.base
    if e.1 < RNG_CFG.reg.base ∨ 4096 * 64 ≤ o then none
    else if o % 64 = ctl ∨ (o % 64 = 0 ∧ s.rdReg RNG_CTL.reg (o / 64) 0 0 = 0) then some (o / 64) else none).filter f

/-- The owner's own fault (class 2) or event (class 3) ring (03 R139). Of two that a host marks PRIMARY for one owner, which
R139 does not foresee, the one in the lowest slot: DESIGN CHOICE, log entry 62. -/
def primaryRing (s : State) (cls owner : Nat) : Option Nat :=
  (ringsWhere s fun i => s.rd RNG_CFG.CLASS i == cls && s.on RNG_CFG.PRIMARY i && ringOwner s i == owner).head?

/-- The requester function that reaches a ring with LOC 0 (03 R140). -/
def ringFunc (s : State) (i : Nat) : Nat :=
  let o := ringOwner s i
  if o ≥ 16 ∨ s.rd RNG_CFG.CLASS i = 0 ∨ s.rd RNG_CFG.CLASS i = 2 then 0 else o + 1

/-- Whether a posted write of a function can be sent (03 R150). -/
def canPost (s : State) (func : Nat) : Bool := s.ctl.hostUp && s.ctl.bme.testBit func

/-- A notification of a ring with LOC 0: one event at its SOURCE, or MISDIRECT (15 R564, 03 R167). -/
def notifyLoc0 (s : State) (i : Nat) : State :=
  let src := s.rd RNG_NOTIFY.SOURCE i
  if 64 ≤ src ∧ s.rd IRQ_SRC_CFG.OWNER src = ringOwner s i then irqRaise s src
  else s.count IRQ_STAT.MISDIRECT

/-- One more completion or record pends toward a notification of a ring with LOC 0 (03 R166). -/
def pendLoc0 (s : State) (i : Nat) : State :=
  if s.on RNG_NOTIFY.EN i then
    let x := s.ringX i
    if x.pend + 1 ≥ atLeast1 (s.rd RNG_NOTIFY.CNT i) then notifyLoc0 (s.setRingX i { x with pend := 0 }) i
    else s.setRingX i { x with pend := x.pend + 1 }
  else s

/-- Words with PHASE set in bit 0 of word 0. -/
def withPhase (ph : Nat) (ws : List Word) : List Word :=
  match ws with
  | [] => []
  | w :: r => toW (w.toNat / 2 * 2 + ph) :: r

/-- Writes one record to a class 2 or 3 ring in host memory: posted, counted in CPIDX, pending (03 R158, R166). -/
def putRecord0 (s : State) (i : Nat) (ws : List Word) : State :=
  let size := 8 * ws.length
  let slot := s.rd RNG_CPL_IDX.CPIDX i % cplEntries s i
  let t := s.emit (.hostWrite (ringFunc s i) (s.rdReg RNG_CPL_BASE.reg i 0 0 + slot * size)
    (wordsToBytes (withPhase (nextPhase s i) ws)))
  pendLoc0 (t.wr RNG_CPL_IDX.CPIDX (s.rd RNG_CPL_IDX.CPIDX i + 1) i) i

/-- The records-lost notice: event 0x0104 on a class 3 ring, a fault record of TYPE 2 on a class 2 ring (03 R171). -/
def lostNotice (s : State) (i lost : Nat) : List Word :=
  if s.rd RNG_CFG.CLASS i = 3 then
    [toW (ringOwner s i * 2 ^ 8 + 0x0104 * 2 ^ 16 + lost % 2 ^ 32 * 2 ^ 32), toW i, toW s.now, 0]
  else
    [toW (2 * 2 + ringOwner s i * 2 ^ 4), toW (lost % 2 ^ 32 + i * 2 ^ 32), toW s.now, 0, 0, 0, 0, 0]

/-- Writes the records-lost notice when one is due and there is room (03 R171). -/
def flushLost0 (s : State) (i : Nat) : State :=
  let x := s.ringX i
  if x.lost > 0 ∧ cplRoom s i then putRecord0 (s.setRingX i { x with lost := 0 }) i (lostNotice s i x.lost) else s

/-- A record that finds no room: dropped and counted (03 R171). -/
def dropRecord (s : State) (i : Nat) : State :=
  let x := s.ringX i
  (s.setRingX i { x with lost := x.lost + 1 }).count RNG_CTL.DROPPED i

/-- An event record (03 R169). -/
def eventWords (part code a0 a1 a2 now : Nat) : List Word :=
  [toW (part % 32 * 2 ^ 8 + code % 2 ^ 16 * 2 ^ 16 + a0 % 2 ^ 32 * 2 ^ 32), toW a1, toW now, toW a2]

/-- A record cannot be written: the ring stops with cause 3 (03 R150, R168). -/
def failedWrite (s : State) (i : Nat) : State :=
  (((s.count RNG_CTL.DROPPED i).wr RNG_CTL.ENABLE 0 i).wr RNG_CTL.STOPPED 1 i).wr RNG_CTL.STOP_CAUSE 3 i

/-- Event 0x0101 of that stop. -/
def stopWords (t : State) (i : Nat) : List Word :=
  eventWords (ringOwner t i) 0x0101 i (3 + t.rd RNG_IDX.CIDX i * 2 ^ 32) (t.rd RNG_CTL.DROPPED i) t.now

/-- Writes a record to a ring with LOC 0. A ring that is not live receives none, a full one drops it (03 R171). A ring whose
write cannot be posted stops with cause 3 and tells its owner's event ring (03 R150, R151, R170). `fuel` bounds rings that
fail in turn. -/
def record0 : Nat → State → Nat → List Word → State
  | 0, s, _, _ => s
  | fuel + 1, s, i, ws =>
    if !ringLive s i then s
    else if !cplRoom s i then dropRecord s i
    else if !canPost s (ringFunc s i) then
      let t := failedWrite s i
      (primaryRing t 3 (ringOwner t i)).elim t fun e => record0 fuel t e (stopWords t i)
    else
      let t := flushLost0 s i
      if cplRoom t i then putRecord0 t i ws else dropRecord t i

/-- Writes an event to an owner's primary event ring; with none it is lost (03 R139, R170). -/
def evOwner (s : State) (owner part code a0 a1 a2 : Nat) : State :=
  match primaryRing s 3 owner with
  | none => s
  | some i => record0 4 s i (eventWords part code a0 a1 a2 s.now)

/-- An event on the PF0 primary event ring. -/
def evPf0 (s : State) (code a0 a1 a2 : Nat) (part : Nat := 16) : State := evOwner s 16 part code a0 a1 a2

/-- An event of partition `p` on its primary event ring. -/
def evPart (s : State) (p code a0 a1 a2 : Nat) : State := evOwner s p p code a0 a1 a2

/-- A fault record for an owner's primary fault ring; whether it was written (03 R101, R168, R171). -/
def faultRecord (s : State) (owner : Nat) (ws : List Word) : State × Bool :=
  match primaryRing s 2 owner with
  | none => (s, false)
  | some i => if ringLive s i && cplRoom (flushLost0 s i) i then (record0 4 s i ws, true) else (record0 4 s i ws, false)

/-! ## Routing (11 R434 to R440) -/

/-- Whether a port is usable to this node's Crossroads (11 R435). -/
def usable (s : State) (n : Nat) : Bool :=
  let st := s.rd PORT_STATUS.STATE n
  ((st == 2 || st == 3 || st == 4) && !s.xrd.partnerLeft.contains n) || (st == 8 && s.xrd.leaving != 0)

/-- The egress port that version `v` gives for a destination (11 R434, R435). -/
def routePort (s : State) (v dst : Nat) : Option Nat :=
  let e := s.rdReg XRD_ROUTE.reg v dst 0
  if e.testBit 5 && usable s (fld e 0 5) then some (fld e 0 5)
  else if e.testBit 11 && usable s (fld e 6 5) then some (fld e 6 5)
  else none

def emptyPortQ : PortQ := ⟨[], [], [], 6, [], 0, 0, none, none, false⟩
def State.portQ (s : State) (n : Nat) : PortQ := kgetD emptyPortQ n s.ports
def State.setPortQ (s : State) (n : Nat) (q : PortQ) : State := { s with ports := kset emptyPortQ n q s.ports }

/-- Bytes a packet costs: 32 + 64 × LEN (12 R457). -/
def pktBytes (p : Pkt) : Nat := 32 + 64 * pLen p

/-- Bytes that a class queue holds. -/
def classDepth (q : PortQ) (tc : Nat) : Nat :=
  q.q.foldl (fun a e => if e.tc = tc then a + pktBytes e.pkt else a) 0

/-- OLD_PKTS: old-epoch packets held in this node while the other version is the old one (11 R444 step 3). -/
def countOld (s : State) : State :=
  let cur := s.rd XRD_EPOCH.CUR
  let n := if s.on XRD_EPOCH.IDLE || s.on XRD_EPOCH.PENDING then 0 else
    s.ports.foldl (fun a pq => a + (pq.2.q.filter fun e => pEpoch e.pkt != cur).length) 0
  s.wr XRD_EPOCH.OLD_PKTS n

/-- Queues a packet at an egress port: too long for the partner and too deep for a yellow one are dropped
(11 R437, 12 R464); a YELLOW_DEPTH of 0 drops every yellow one (12 R481). A sealed packet of this node is not sent through a ward whose link crypto is out (16 R587). -/
def enqueue (s : State) (n : Nat) (flow inPort : Nat) (yellow copy : Bool) (p : Pkt) : State :=
  if pLen p > s.rd PORT_PARTNER.MAX_LEN n then s.count XRD_PORT_CNT2.TOO_LONG n
  else if inPort = 32 ∧ pKey p ≠ 0 ∧ s.start.noCrypto.contains (n / 8) then s
  else if yellow && (s.rd QOS_PORT_CFG.YELLOW_DEPTH n == 0 ||
      decide (classDepth (s.portQ n) (pTc p) > s.rd QOS_PORT_CFG.YELLOW_DEPTH n * 1024)) then
    s.count QOS_PORT_DROP.YDROP n
  else
    let q := s.portQ n
    countOld (s.setPortQ n { q with q := q.q ++ [⟨pTc p, flow, p, inPort, yellow, copy, s.now⟩] })

/-- Counts a packet without a usable port, at its ingress port or at this node as originator (11 R435). -/
def countNoRoute (s : State) (inPort : Nat) : State :=
  if inPort < 32 then s.count XRD_PORT_CNT.NO_ROUTE inPort else s.count XRD_ORIG_CNT.ORIG_NO_ROUTE

/-- Routes a unicast packet by the version its EPOCH names and queues it (11 R435). -/
def routeUnicast (s : State) (flow inPort : Nat) (yellow : Bool) (p : Pkt) : State :=
  match routePort s (pEpoch p) (pDst p) with
  | none => countNoRoute s inPort
  | some n => enqueue s n flow inPort yellow false p

/-- Ports of a fan word: a copy on each usable one, a count for each other (11 R438). -/
def fanOut (s : State) (fan flow inPort : Nat) (yellow : Bool) (p : Pkt) : State :=
  (bitsSet 32 fan).foldl (fun s n => if usable s n then enqueue s n flow inPort yellow true p else countNoRoute s inPort) s

/-- Sends a packet this node originates, under the current epoch (11 R440, R446 step 2, R451 step 1). A multicast
packet goes by entry 32, and a GRID row packet adds this node's own column copy (11 R438, R439). -/
def sendOrig (s : State) (flow : Nat) (p : Pkt) : State :=
  if s.xrd.leaving ≠ 0 then s
  else if s.on XRD_EPOCH.DRAINING then { s with xrd := { s.xrd with waiting := s.xrd.waiting ++ [(flow, p)] } }
  else
    let cur := s.rd XRD_EPOCH.CUR
    let p := { p with w0 := wset p.w0 33 1 cur }
    if pMcast p = 0 then routeUnicast s flow 32 false p
    else
      let row := s.rdReg XRD_MCAST_LO.reg cur 32 0 % 2 ^ 32
      let col := s.rdReg XRD_MCAST_HI.reg cur 32 0 % 2 ^ 32
      if pMcast p = 2 then fanOut s col flow 32 false p
      else
        let s := fanOut s row flow 32 false p
        if pGrid p then
          let c := { p with w0 := wset (wset (wset p.w0 47 2 2) 56 1 0) 0 15 (s.rd XRD_NODE.NODE_ID) }
          fanOut s col flow 32 false c
        else s

/-! ## Key slots (14 R523 to R528) -/

/-- Whether a key slot can seal: slot 0 is no key at all. -/
def slotLive (s : State) (k : Nat) : Bool := s.rd SEC_KEY_SLOT.STATE k == 1

/-- Whether work of `owner` (a partition, or 16) may seal under slot `k`: the slot is bound to that partition (14 R526). Work
whose slot is another's is a host error; the chip does not use the slot for it, so what it would seal fails or is not sent as
under a slot that does not seal, and nothing of another partition is touched (00 R27; log entry 11). -/
def slotSeals (s : State) (k owner : Nat) : Bool :=
  k == 0 || (slotLive s k && s.rd SEC_KEY_SLOT.PART k == owner)

/-- A LIVE slot becomes RETIRED (14 R527). -/
def retireSlot (s : State) (k cause : Nat) : State :=
  let t := (s.wr SEC_KEY_SLOT.STATE 2 k).wr SEC_KEY_SLOT.RCAUSE cause k
  let t := (t.countDown SEC_STAT.SLOTS_LIVE).count SEC_STAT.SLOTS_RETIRED
  evPf0 t 0x0C02 k cause (s.rd SEC_KEY_CNT.AUTH_FAIL k + s.rd SEC_KEY_SLOT.PART k * 2 ^ 16)

/-- Seals a packet under its slot, or none where the slot does not seal (14 R524, R527). -/
def sealOut (s : State) (p : Pkt) : Option (State × Pkt) :=
  let k := pKey p
  if k = 0 then some (s, p)
  else if slotLive s k then
    let t := s.count SEC_KEY_CNT.SEALED k
    let t := if t.rd SEC_KEY_CNT.SEALED k = 2 ^ 32 - 1 then retireSlot t k 2 else t
    some (t, sealWith (kgetD [] k s.keys.link) p)
  else none

/-- Seals and sends a packet this node originates; one that cannot be sealed is not sent (14 R527). -/
def originate (s : State) (flow : Nat) (p : Pkt) : State :=
  match sealOut s p with
  | none => s
  | some (t, q) => sendOrig t flow q

/-- E2E_SEQ and CTAG of the next packet under a slot toward a destination (14 R528, 11 R430). -/
def nextSeq (s : State) (slot dst : Nat) : State × Nat :=
  let k := slot * 2 ^ 16 + dst
  let n := kgetD 0 k s.xrd.seqs
  ({ s with xrd := { s.xrd with seqs := kset 0 k ((n + 1) % 2 ^ 32) s.xrd.seqs } }, n)

/-- Issues one of the chip's own READs or WRITEs for a ring with LOC 1 (03 R140): what it serves, for which descriptor,
its opcode, TC, address and payload. False where the slot does not seal for the ring's owner (14 R526, R527). -/
def ownRequest (s : State) (kind : OwnKind) (ring idx opc tc addr arg : Nat) (pay : List Byte) : State × Bool :=
  let dst := s.rd RNG_LOC.NODE ring
  let key := s.rd RNG_LOC.KEY_IDX ring
  let (s, n) := nextSeq s key dst
  let p := mkPkt { dst := dst, src := s.rd XRD_NODE.NODE_ID, tc := tc, opc := opc, len := pay.length / 64, addr := addr,
                   space := s.rd RNG_LOC.FSPACE ring, seq := n % 2 ^ 16, ctag := n / 2 ^ 16, key := key, arg := arg } pay
  if slotSeals s key (ringOwner s ring) then
    let id := s.xrd.nextOwn
    let t := { s with xrd := { s.xrd with nextOwn := id + 1, own := s.xrd.own ++ [⟨id, kind, ring, idx, p, false⟩] } }
    (originate t (min 16 (ringOwner s ring)) p, true)
  else (s, false)

/-! ## Notifications and records on any ring -/

/-- Raises a notification of a ring (03 R167): at its source, or as event 0x0103 to its node. -/
def notifyRing (s : State) (i : Nat) : State :=
  if ringLoc1 s i then
    let key := s.rd RNG_LOC.KEY_IDX i
    let dst := s.rd RNG_LOC.NODE i
    if !slotSeals s key (ringOwner s i) then s else
    let (t, n) := nextSeq s key dst
    let ev := eventWords (ringOwner s i) 0x0103 i (s.rd RNG_CPL_IDX.CPIDX i) 0 s.now
    originate t (min 16 (ringOwner s i))
      (mkPkt { dst := dst, src := s.rd XRD_NODE.NODE_ID, tc := 6, opc := 0x0A, len := 1, flags := 4,
               seq := n % 2 ^ 16, ctag := n / 2 ^ 16, key := key } (wordsToBytes ev ++ List.replicate 32 0))
  else notifyLoc0 s i

/-- One more accepted completion or record pends toward a notification (03 R166, R167). -/
def pendRing (s : State) (i : Nat) : State :=
  if s.on RNG_NOTIFY.EN i then
    let x := s.ringX i
    if x.pend + 1 ≥ atLeast1 (s.rd RNG_NOTIFY.CNT i) then notifyRing (s.setRingX i { x with pend := 0 }) i
    else s.setRingX i { x with pend := x.pend + 1 }
  else s

/-- Whether a write to a ring can be sent at all: a posted write, or a WRITE under a slot that seals for its owner (03 R150,
14 R526). -/
def canWriteRing (s : State) (i : Nat) : Bool :=
  if ringLoc1 s i then slotSeals s (s.rd RNG_LOC.KEY_IDX i) (ringOwner s i) else canPost s (ringFunc s i)

/-- `n` free bytes from counter value `c` on. -/
def freeFill (c n : Nat) : List Byte := (List.range n).map fun i => Config.lineFill (c + i)

/-- Writes one completion or record into a ring's next slot (03 R158): posted on the host link, or a WRITE on TC 5
(completions) or TC 6 (events) on the fabric (03 R140). `size` is the slot's size, `pend` whether it counts toward a
notification. On the fabric it pends once it is acknowledged. A fabric WRITE moves a whole line, and what the line's
bytes outside the slot hold is not stated: they are free values (log entry 10). -/
def putSlot (s : State) (i : Nat) (ws : List Word) (pend : Bool) : State :=
  let size := 8 * ws.length
  let idx := s.rd RNG_CPL_IDX.CPIDX i
  let addr := s.rdReg RNG_CPL_BASE.reg i 0 0 + idx % cplEntries s i * size
  let bytes := wordsToBytes (withPhase (nextPhase s i) ws)
  let t := s.wr RNG_CPL_IDX.CPIDX (idx + 1) i
  if ringLoc1 s i then
    let pay := (freeFill t.fresh (addr % 64)) ++ bytes ++ freeFill (t.fresh + 64) (64 - addr % 64 - size)
    let t := { t with fresh := t.fresh + 128 }
    (ownRequest t (.cpl pend) i idx 0x03 (if s.rd RNG_CFG.CLASS i = 3 then 6 else 5) (addr / 64 * 64) 0 pay).1
  else
    let t := t.emit (.hostWrite (ringFunc s i) addr bytes)
    if pend then pendRing t i else t

/-- Writes an event to any class 3 ring (03 R139, R141). -/
def evRing (s : State) (i part code a0 a1 a2 : Nat) : State :=
  if ringLoc1 s i then
    if !ringLive s i then s
    else if !cplRoom s i then dropRecord s i
    else if !canWriteRing s i then
      let t := (((s.count RNG_CTL.DROPPED i).wr RNG_CTL.ENABLE 0 i).wr RNG_CTL.STOPPED 1 i).wr RNG_CTL.STOP_CAUSE 3 i
      evOwner t (ringOwner t i) (ringOwner t i) 0x0101 i (3 + t.rd RNG_IDX.CIDX i * 2 ^ 32) (t.rd RNG_CTL.DROPPED i)
    else
      let x := s.ringX i
      let t := if x.lost > 0 ∧ cplRoom s i then putSlot (s.setRingX i { x with lost := 0 }) i (lostNotice s i x.lost) true else s
      if cplRoom t i then putSlot t i (eventWords part code a0 a1 a2 t.now) true else dropRecord t i
  else record0 4 s i (eventWords part code a0 a1 a2 s.now)

/-- The event rings of the registered accelerators of partition `p` (03 R141). -/
def accelRings (s : State) (p : Nat) : List Nat :=
  ringsWhere s fun i => s.rd RNG_CFG.CLASS i == 3 && !s.on RNG_CFG.PRIMARY i && ringLoc1 s i && ringOwner s i == p

/-- An event of partition `p` on its primary event ring and on its accelerators' rings. -/
def evPartAll (s : State) (p code a0 a1 a2 : Nat) : State :=
  (accelRings s p).foldl (fun s i => evRing s i p code a0 a1 a2) (evPart s p code a0 a1 a2)

end Sys2Proof.Machine
end

