-- ==== Sys2Proof/Machine/Commit.lean ====
section
/-!
DEFINITION. Sys2Proof/Machine/Commit.lean: claims, commits and the change of the active Elder (17 R611 to R613, R618 step 5,
R620). A unit is 0 for Elder A and 1 for Elder B.
-/
namespace Sys2Proof.Machine

/-- A unit's claim number. -/
def claimOf (s : State) (u : Nat) : Nat := if u = 0 then s.rd ELD_STAT.CLAIM_A else s.rd ELD_STAT.CLAIM_B

/-- A unit's STATE: 0 OFF, 1 SELF_CHECK, 2 ACTIVE, 3 STANDBY, 4 RESYNC, 5 WINDOW, 6 OUT. -/
def eldSt (s : State) (u : Nat) : Nat := if u = 0 then s.rd ELD_STAT.STATE_A else s.rd ELD_STAT.STATE_B

def setEldSt (s : State) (u v : Nat) : State := if u = 0 then s.wr ELD_STAT.STATE_A v else s.wr ELD_STAT.STATE_B v

def setCheck (s : State) (u v : Nat) : State := if u = 0 then s.wr ELD_STAT.CHECK_A v else s.wr ELD_STAT.CHECK_B v

/-- The arbiter changes a claim: source 39 is raised when it is a change (R612). -/
def setClaim (s : State) (u v : Nat) : State :=
  if claimOf s u = v then s
  else irqRaise (if u = 0 then s.wr ELD_STAT.CLAIM_A v else s.wr ELD_STAT.CLAIM_B v) 39

/-- The home Elder (16 R579). -/
def homeElder (s : State) : Nat := s.rd CHIP_STRAP.HOME_ELDER

/-- The unit in control, if any: ACTIVE with the higher claim. -/
def activeElder (s : State) : Option Nat :=
  if eldSt s 0 = 2 ∧ claimOf s 1 < claimOf s 0 then some 0
  else if eldSt s 1 = 2 ∧ claimOf s 0 < claimOf s 1 then some 1
  else none

/-- Whether the output stages accept commits: a unit is in control and there is no freeze (R611, R615). -/
def commitOk (s : State) : Bool := (activeElder s).isSome && !s.on ELD_STAT.FROZEN

/-- A raise: one more than the other unit's claim, renormalised past 255 (R612). -/
def raiseClaim (s : State) (u : Nat) : State :=
  let o := claimOf s (1 - u)
  if o + 1 ≤ 255 then setClaim s u (o + 1)
  else setClaim (setClaim s (1 - u) (if eldSt s (1 - u) = 2 ∨ eldSt s (1 - u) = 3 then 1 else 0)) u 2

/-- A unit takes control (R615 steps 4 and 5, R620): its claim is raised and event 0x0F01 written. -/
def takeControl (s : State) (u trigger us : Nat) : State :=
  let t := raiseClaim s u
  let t := if eldSt t (1 - u) = 2 then setEldSt t (1 - u) 3 else t
  let t := ((setEldSt t u 2).wr ELD_STAT.ACTIVE u).count ELD_CNT.TAKEOVERS
  evPf0 t 0x0F01 u (trigger + claimOf t u * 2 ^ 8) us

/-- The comparison window ends: the returning unit is in step (R618 step 5, R620). -/
def inStep (s : State) (u : Nat) : State :=
  let c := claimOf s (1 - u)
  let t := if c = 1 then setClaim (setClaim s (1 - u) 2) u 1 else setClaim s u (c - 1)
  let t := (setEldSt t u 3).wr ELD_STAT.SOLO 0
  let back := s.on ELD_CFG.TAKEBACK && homeElder s == u
  let t := { t with eld := { t.eld with step := 0, tries := 0, takeback := back } }
  evPf0 t 0x0F03 u s.eld.entries ((s.now - s.eld.since) / 1000000)

/-- One write has been committed: the sequence number advances, a take-back that is due happens at this boundary, and the
comparison window counts down (R613, R618 step 5, R620). -/
def committed (s : State) : State :=
  let t := s.wr ELD_LOG.COMMIT_SEQ (s.rd ELD_LOG.COMMIT_SEQ + 1)
  let t := if t.eld.takeback ∧ eldSt t (homeElder t) = 3 then
      takeControl { t with eld := { t.eld with takeback := false } } (homeElder t) 5 0
    else t
  let n := t.rd ELD_LOG.WINDOW_LEFT
  if n = 0 then t
  else
    let t := t.wr ELD_LOG.WINDOW_LEFT (n - 1)
    if n = 1 then (if eldSt t 0 = 5 then inStep t 0 else if eldSt t 1 = 5 then inStep t 1 else t) else t

/-! ## The log store (R608, R609) -/

/-- The share of the log store that an input draws on: that of the partition whose VF makes the write, or the shared one, 16. -/
def LogEnt.share (e : LogEnt) : Nat :=
  match e with
  | .write true off _ => min 15 ((off - PRT_CTL.reg.base) / 65536)
  | _ => 16

/-- Whether an entry of a share is free. -/
def logRoom (s : State) (q : Nat) : Bool :=
  decide ((s.eld.log.filter (·.share == q)).length < if q < 16 then 256 else 12288)

/-- An input enters the log, or waits for an entry of its share (R609, R621). -/
def logPut (s : State) (e : LogEnt) : State :=
  if logRoom s e.share then { s with eld := { s.eld with log := s.eld.log ++ [e] } }
  else { s with eld := { s.eld with more := s.eld.more ++ [e] } }

/-- Inputs that waited for an entry take those that are free, in order. -/
def logFill (s : State) : State := s.eld.more.foldl logPut { s with eld := { s.eld with more := [] } }

/-- Whether an input commits as it comes: the stages accept commits, and no earlier input waits (R608). -/
def commitFree (s : State) : Bool := commitOk s && s.eld.log.isEmpty && s.eld.more.isEmpty

/-- Opcodes whose descriptors propose writes to an output stage (R608, R610): the extent table, keys and route tables. -/
def opcCommits (o : Nat) : Bool := decide (0x38 ≤ o) && decide (o ≤ 0x42)

end Sys2Proof.Machine
end

