-- ==== Sys2Proof/Machine/Watch.lean ====
section
/-!
DEFINITION. Sys2Proof/Machine/Watch.lean: the Watch collectors (15 R547 to R562): counting, latching, coalescing and
writing error records.
-/
namespace Sys2Proof.Machine

/-- The collector of a unit (15 R550). -/
def collectorOf (kind inst : Nat) : Nat :=
  if kind = 0 then inst / 68 % 4
  else if kind = 1 ∨ kind = 5 ∨ kind = 7 then inst / 4 % 4
  else if kind = 2 ∨ kind = 3 then inst / 8 % 4
  else if kind = 8 ∨ kind = 14 then inst % 4
  else if kind = 12 ∧ inst < 4 then inst
  else 4

/-- KIND, INSTANCE and ERR as record word 1 bits [20:0] (15 R560). -/
def srcCode (kind inst err : Nat) : Nat := kind % 16 + inst % 512 * 16 + err % 256 * 2 ^ 13

/-- The eight words of an error record (15 R560). -/
def errWords (r : ErrRec) (ovf : Bool) : List Word :=
  [toW (1 * 2 + r.part % 32 * 16 + r.cls * 2 ^ 16 + r.access % 256 * 2 ^ 24 + r.space % 2 ^ 16 * 2 ^ 32 +
     min r.count 65535 * 2 ^ 48),
   toW (srcCode r.kind r.inst r.err + r.level * 2 ^ 21 + r.rung * 2 ^ 24 + b2n r.merged * 2 ^ 27 + b2n r.esc * 2 ^ 28 +
     b2n r.addr.isSome * 2 ^ 29 + b2n ovf * 2 ^ 30 + r.coll * 2 ^ 32),
   toW r.time, toW (r.addr.getD 0), toW r.synd, toW (r.poisoned % 2 ^ 32 + r.ended % 2 ^ 32 * 2 ^ 32), toW r.lastSrc, 0]

/-- Copies a fatal record of level 4 or 5 into Lantern's sticky store, newest first (15 R554). -/
def lanternCopy (s : State) (ws : List Word) : State :=
  let t := (List.range 15).foldl (fun t k => (List.range 8).foldl (fun t w =>
    t.wrReg AON_FATAL.reg (15 - k) w 0 (s.rdReg AON_FATAL.reg (14 - k) w 0)) t) s
  let t := (List.range 8).foldl (fun t w => t.wrReg AON_FATAL.reg 0 w 0 (nthW ws w).toNat) t
  (t.wr AON_FATAL_CNT.HELD (min 16 (t.rd AON_FATAL_CNT.HELD + 1))).count AON_FATAL_CNT.TOTAL

/-- Writes a record to the rings of 15 R559. -/
def writeErrRec (s : State) (r : ErrRec) : State :=
  let ws := errWords r (s.on FLT_FIRST.OVF r.coll)
  let s := if r.cls = 3 ∧ 4 ≤ r.level then lanternCopy s ws else s
  let s := if r.part < 16 then (faultRecord s r.part ws).1 else s
  if r.cls = 3 ∨ r.part = 16 then (faultRecord s 16 ws).1 else s

/-- Latches the first error and raises the collector's fixed source, or counts a later one (15 R551, R568). -/
def watchLatch (s : State) (r : ErrRec) : State :=
  let c := r.coll
  if s.on FLT_FIRST.VALID c then
    let t := s.count FLT_CNT.LATER c
    if s.on FLT_FIRST.OVF c then t
    else evPf0 (t.wr FLT_FIRST.OVF 1 c) 0x0D05 c (t.rd FLT_CNT.LATER c) 0
  else
    let t := s.wrReg FLT_FIRST.reg c 0 0
      (srcCode r.kind r.inst r.err + r.cls * 2 ^ 21 + r.level * 2 ^ 23 + r.part * 2 ^ 26 + 2 ^ 31)
    let t := t.wrReg FLT_FIRST_ADDR.reg c 0 0 (r.addr.getD 0 % 2 ^ 46 + b2n r.addr.isSome * 2 ^ 46)
    let t := (t.wrReg FLT_FIRST_SYN.reg c 0 0 r.synd).wrReg FLT_FIRST_TIME.reg c 0 0 r.time
    irqRaise { t with watch := { t.watch with latched := kput c r.id t.watch.latched } } (32 + c)

/-- Whether a merging error counts as later: its record is not the one the collector latched (15 R551). -/
def watchLater (s : State) (r : ErrRec) : State :=
  if s.on FLT_FIRST.VALID r.coll && kget r.coll s.watch.latched != some r.id then watchLatch s r else s

/-- A corrected error is counted; CE_THRESH of them in one window write event 0x0D01 once (15 R556). -/
def watchCE (s : State) (kind inst : Nat) : State :=
  let c := collectorOf kind inst
  let n := kgetD 0 c s.watch.ceWin + 1
  let t := (s.count FLT_CNT.CE c)
  let t := { t with watch := { t.watch with ceWin := kput c n t.watch.ceWin } }
  let th := s.rd FLT_CE_CFG.CE_THRESH c
  if th ≠ 0 ∧ th ≤ n ∧ ¬ t.watch.ceSent.contains c then
    evPf0 { t with watch := { t.watch with ceSent := sput c t.watch.ceSent } } 0x0D01 c n th
  else t

/-- A new record, not yet listed. -/
def newErrRec (s : State) (kind inst err cls level part access space : Nat) (addr : Option Nat) (synd scope : Nat) : ErrRec :=
  { id := s.watch.nextRec, coll := collectorOf kind inst, kind, inst, err, cls, level, part, access, space, count := 1,
    merged := false, esc := false, addr, time := s.now, synd, poisoned := 0, ended := 0, lastSrc := 0,
    rung := if cls = 2 then 1 else if kind = 13 then 4 else 0, scope }

/-! ## Scopes (01 R30, R37): level × 1024 + instance -/

/-- Whether scope `a` lies in scope `b`. -/
def scopeIn (s : State) (a b : Nat) : Bool :=
  let la := a / 1024
  let ia := a % 1024
  let lb := b / 1024
  let ib := b % 1024
  let slice := if la = 1 then ia / 17 else ia
  a == b || lb == 5 ||
  (lb == 4 && (if la = 3 then s.wardOf ia == ib else decide (la < 3) && slice / 4 == ib)) ||
  (lb == 3 && decide (la < 3) && (s.rd PRT_CTL.SLICES ib).testBit slice) ||
  (lb == 2 && la == 1 && slice == ib)

/-- The scope that a unit lies in (15 R550, R561). -/
def unitScope (kind inst : Nat) : Nat :=
  if kind = 0 then 1024 + inst
  else if kind = 1 ∨ kind = 7 then 2 * 1024 + inst
  else if kind = 2 then 2 * 1024 + inst / 2
  else if kind = 3 then 4 * 1024 + inst / 8
  else if kind = 5 then 4 * 1024 + inst / 4
  else if kind = 8 ∨ kind = 14 ∨ (kind = 12 ∧ inst < 4) then 4 * 1024 + inst
  else 5 * 1024

/-- The record of a fatal error under handling whose scope holds a scope (15 R552). -/
def handling (s : State) (scope : Nat) : Option ErrRec := s.watch.recs.find? fun r => r.cls == 3 && scopeIn s scope r.scope

def setRec (s : State) (r : ErrRec) : State :=
  { s with watch := { s.watch with recs := s.watch.recs.map fun x => if x.id = r.id then r else x } }

/-- A further error merges into the record of a handling (15 R552). -/
def mergeRec (s : State) (r : ErrRec) (kind inst err level : Nat) (poisoned : Nat) : State :=
  let up := decide (r.level < level)
  let r' := { r with count := r.count + 1, merged := true, lastSrc := srcCode kind inst err, level := max r.level level,
                     esc := r.esc || up, poisoned := r.poisoned + poisoned }
  watchLater (setRec s r') r'

/-- An uncorrected-but-contained error: counted, merged into the record of its kind, instance, code and partition while
that record's window runs, or into that of a fatal error under handling that holds its scope, or latched and given a record of its own, which is written when the window ends, or at once
when there is no window (15 R551 to R554). -/
def watchUE (s : State) (kind inst err part access space : Nat) (addr : Option Nat) (synd poisoned : Nat) : State :=
  let c := collectorOf kind inst
  let s := s.count FLT_CNT.UE c
  match handling s (unitScope kind inst) with
  | some r => mergeRec s r kind inst err 0 poisoned
  | none => match s.watch.recs.find? fun r => r.cls == 2 && r.kind == kind && r.inst == inst && r.err == err && r.part == part with
  | some r =>
    let r' := { r with count := r.count + 1, poisoned := r.poisoned + poisoned }
    watchLater { s with watch := { s.watch with recs := s.watch.recs.map fun x => if x.id = r.id then r' else x } } r'
  | none =>
    let r := { newErrRec s kind inst err 2 0 part access space addr synd 0 with poisoned := poisoned }
    let t := watchLatch { s with watch := { s.watch with nextRec := s.watch.nextRec + 1 } } r
    if s.rd FLT_CFG.UE_COALESCE = 0 then writeErrRec t r
    else { t with watch := { t.watch with recs := t.watch.recs ++ [r] } }

end Sys2Proof.Machine
end

