-- ==== Sys2Proof/Machine/Dram.lean ====
section
/-!
DEFINITION. Sys2Proof/Machine/Dram.lean: reading and writing one line at a DRAM channel (13 R488 to R498), uncorrectable
lines and channel loss (13 R509 to R511).
-/
namespace Sys2Proof.Machine

def emptyChan : ChanX :=
  ⟨[], [], 0, false, [], 0, 0, 0, false, false, 0, 0, 0, 0, false, [], 0, 0, false, 0, 0, false, [],
    ⟨[], [], 16, 16, [], [], 0, [], [], [], [], 0, 0, false⟩, 0, false, none, []⟩

def State.chanX (s : State) (c : Nat) : ChanX := kgetD emptyChan c s.chans
def State.setChanX (s : State) (c : Nat) (x : ChanX) : State := { s with chans := kset emptyChan c x s.chans }

/-- Rank bits of a channel's offset (13 R489). -/
def rankBits (ranks : Nat) : Nat := if ranks ≥ 4 then 2 else if ranks ≥ 2 then 1 else 0

/-- Rank and subchannel of a channel offset: DDR_MARK entry 2 × rank + subchannel (13 R489, R516). -/
def markEntry (s : State) (c off : Nat) : Nat := 2 * fld off 19 (rankBits (s.rd DDR_CTL.RANKS c)) + fld off 6 1

/-- The marked device of an entry, 0xF for none (13 R516). -/
def markedDev (s : State) (c e : Nat) : Nat := fld (s.rd DDR_MARK.MARK c) (4 * e) 4

/-- How the line code judges the symbols in error of one read (13 R495). -/
inductive Decoded where
  | clean
  /-- Corrected; the device that held every error, if one did. -/
  | corrected (dev : Option Nat)
  | uncorrectable
deriving DecidableEq, Repr

/-- The only device of a list of symbols (13 R488). -/
def onlyDev : List Nat → Option Nat
  | [] => none
  | x :: xs => if xs.all fun y => y / 8 == x / 8 then some (x / 8) else none

/-- Decoding of the symbols in error, under a marked device (0xF: none) (13 R495). -/
def decodeLine (mark : Nat) (syms : List Nat) : Decoded :=
  if syms = [] then .clean
  else if mark = 0xF then
    if (onlyDev syms).isSome || decide (syms.length ≤ 4) then .corrected (onlyDev syms) else .uncorrectable
  else if (syms.filter fun x => x / 8 != mark).length ≤ 2 then .corrected (onlyDev syms)
  else .uncorrectable

/-- The error pattern that DDR_INJECT asks for, as (symbol, XOR) pairs (13 R516). -/
def injectPattern (s : State) (c : Nat) : List (Nat × Nat) :=
  let d := s.rd DDR_INJECT.DEVICE c
  let x := s.rd DDR_INJECT.XOR c
  let p1 := (bitsSet 8 (s.rd DDR_INJECT.SYMMASK c)).map fun j => (8 * d + j, x)
  let p2 := if s.on DDR_INJECT.SECOND c then (List.range 8).map fun j => (8 * s.rd DDR_INJECT.DEVICE2 c + j, x) else []
  (p1 ++ p2).filter fun e => e.2 != 0 && decide (e.1 < 80)

/-- Counts lines read or written in units of 1,024 (13 R516). -/
def countRead (s : State) (c : Nat) : State :=
  let x := s.chanX c
  if x.rdRem = 1023 then (s.setChanX c { x with rdRem := 0 }).count DDR_LOAD.RD_LINES c
  else s.setChanX c { x with rdRem := x.rdRem + 1 }

def countWrite (s : State) (c : Nat) : State :=
  let x := s.chanX c
  if x.wrRem = 1023 then (s.setChanX c { x with wrRem := 0 }).count DDR_LOAD.WR_LINES c
  else s.setChanX c { x with wrRem := x.wrRem + 1 }

/-- `n` line slots asked of the scheduler: `chg` is 4 × the charge partition (16 the pool) + the kind (12 R470). -/
def askSlots (s : State) (c chg n : Nat) : State :=
  let x := s.chanX c
  if n = 0 then s else s.setChanX c { x with slotQ := x.slotQ ++ [⟨chg / 4, chg % 4, s.now, n⟩] }

/-- The lines of a bulk transfer at a channel, an initialisation, a scrub or a move: `n` data lines and their MAC lines,
sixteen data lines each (12 R470, 13 R490). -/
def askBulk (s : State) (c chg n : Nat) : State := askSlots s c chg (n + ceilDiv n 16)

/-- An access opens its row when its bank has it not open: another row was open, PAGE_IDLE passed, or a refresh stop or
a quiet window closed it (13 R489, R492). Row activations are counted in units of 1,024. -/
def openRow (s : State) (c off : Nat) : State :=
  let x := s.chanX c
  let k := rankBits (s.rd DDR_CTL.RANKS c)
  let bank := fld off 6 1 + 2 * (fld off 14 3 ^^^ fld off 24 3) + 16 * fld off 17 2 + 64 * fld off 19 k
  let row := off / 2 ^ (19 + k)
  let idle := s.rd DDR_CFG.PAGE_IDLE c
  let hit := match kget bank x.rows with
    | some (r, at_) => r == row && decide (0 < idle) && decide (s.now < at_ + idle)
    | none => false
  let t := s.setChanX c { x with rows := kput bank (row, s.now) x.rows }
  if hit then t
  else if x.actRem = 1023 then (t.setChanX c { t.chanX c with actRem := 0 }).count DDR_LOAD2.ACTS c
  else t.setChanX c { t.chanX c with actRem := x.actRem + 1 }

/-- A line written at its channel: its old errors go, and an armed injection strikes it when it lies in the chosen
rank and subchannel (13 R491, R516). -/
def dramWrite (s : State) (c chg off line : Nat) : State :=
  let t := openRow (askSlots (countWrite s c) c chg 1) c off
  let x := t.chanX c
  let hit := s.on DDR_INJECT.ARM c && markEntry s c off == 2 * s.rd DDR_INJECT.RANK c + s.rd DDR_INJECT.SUB c
  if hit then
    (t.setChanX c { x with errs := kset [] line (injectPattern s c) x.errs }).wr DDR_INJECT.ARM 0 c
  else t.setChanX c { x with errs := kdel line x.errs }

/-- Event 0x0B02 to PF0, and to the partition that holds the channel (13 R512). -/
def lostEvents (s : State) (c cause : Nat) : State :=
  match s.partOfChan c with
  | none => evPf0 s 0x0B02 c cause 16
  | some p => evPart (evPf0 s 0x0B02 c cause p) p 0x0B02 c cause p

/-- A channel leaves service (13 R510, R511). -/
def channelLost (s : State) (c cause : Nat) : State :=
  let t := (s.wr DDR_CTL.STATE 6 c).wr DDR_CTL.LOSS_CAUSE cause c
  lostEvents (floorSync (t.setChanX c { t.chanX c with inWin := false, winDue := false, retrain := 0, rearm := false })) c cause

/-- A device's correction is counted; at MARK_THRESH the device is marked, or a second one is reported (13 R497). -/
def countDevice (s : State) (c e dev : Nat) : State :=
  let x := s.chanX c
  let n := kgetD 0 (e * 16 + dev) x.devCnt + 1
  let t := s.setChanX c { x with devCnt := kput (e * 16 + dev) n x.devCnt }
  let th := s.rd DDR_ECC_CFG.MARK_THRESH c
  if th ≠ 0 ∧ th ≤ n then
    let arg := e % 2 + e / 2 * 2 + dev * 16
    let m := markedDev t c e
    if m = 0xF then evPf0 (t.wr DDR_MARK.MARK (setFld (t.rd DDR_MARK.MARK c) (4 * e) 4 dev) c) 0x0B05 c arg n
    else if m = dev ∨ n ≠ th then t
    else evPf0 t 0x0B09 c arg n
  else t

/-- A corrected line: counted by the channel, by its device and by Watch, with event 0x0B04 once per window
(13 R497, R498). -/
def lineCorrected (s : State) (c e : Nat) (dev : Option Nat) : State :=
  let t := watchCE (s.count DDR_ECC_CNT.CE c) 2 c
  let x := t.chanX c
  let t := t.setChanX c { x with ceWin := x.ceWin + 1 }
  let th := t.rd DDR_ECC_CFG.CE_THRESH c
  let t := if th ≠ 0 ∧ th ≤ x.ceWin + 1 ∧ ¬ x.ceSent then
      evPf0 (t.setChanX c { t.chanX c with ceSent := true }) 0x0B04 c (x.ceWin + 1) 0
    else t
  match dev with
  | none => t
  | some d => countDevice t c e d

/-- Whether the near store, or a write-back on its way from it, holds newer bytes of a line than DRAM (04 R174, R180). -/
def nearDirty (s : State) (line : Nat) : Bool :=
  ((kget line s.tier.near).map NearLine.dirty).getD false || s.tier.wbuf.contains line

/-- The DRAM copy of a line becomes poison: a cached deep block's own copy, else the line (04 R174, 13 R509). One whose
newer bytes are in the near store keeps them: they are written over it. -/
def poisonCopy (s : State) (line : Nat) : State :=
  if nearDirty s line then s
  else match kget (line / 64) s.tier.blocks with
    | some b => { s with tier := { s.tier with blocks := kput (line / 64) { b with bad := sput line b.bad } s.tier.blocks } }
    | none => s.poisonLine line

/-- Whether the DRAM copy of a line is poison. -/
def badCopy (s : State) (line : Nat) : Bool :=
  s.isPoison line || ((kget (line / 64) s.tier.blocks).map fun b => b.bad.contains line).getD false

/-- An uncorrectable line is counted, recorded against its owner, and loses the channel when more than UE_LOSS of them fall
within a second (13 R509, R510). `key` names it in the channel's errors, `addr` is its pool line, if it has one. -/
def ueFound (s : State) (c e key access space owner : Nat) (addr : Option Nat) (poisoned : Nat) : State :=
  let x := s.chanX c
  let now := s.now
  let at_ := (x.ueAt.filter fun t => decide (now < t + 1000000000)) ++ [now]
  let t := (s.setChanX c { x with errs := kdel key x.errs, ueAt := at_ }).count DDR_ECC_CNT.UE c
  let erasure := b2n (markedDev s c e != 0xF)
  let t := watchUE t 2 c 0x08 owner access space addr (0xF + e / 2 * 16 + e % 2 * 64 + erasure * 128 + 0xFF00) poisoned
  let lim := s.rd DDR_ECC_CFG.UE_LOSS c
  if lim ≠ 0 ∧ lim < at_.length then channelLost t c 3 else t

/-- An uncorrectable line is marked poison, and reported (13 R509). -/
def lineUncorrectable (s : State) (c e line access space : Nat) (owner : Nat) : State :=
  ueFound (poisonCopy s line) c e line access space owner (some line) 1

/-- What a stored line reads as under the line code, its corrections counted: true where it is uncorrectable (13 R495). -/
def codeCheck (s : State) (c e key : Nat) : State × Bool :=
  match decodeLine (markedDev s c e) ((kgetD [] key (s.chanX c).errs).map (·.1)) with
  | .clean => (s, false)
  | .corrected d => (lineCorrected s c e d, false)
  | .uncorrectable => (s, true)

/-- A line read at its channel: true where it comes back as poison (13 R495, R496, R509). -/
def dramRead (s : State) (c p chg off line access space : Nat) : State × Bool :=
  let t := openRow (askSlots (countRead s c) c chg 1) c off
  if badCopy t line then (t.count DDR_ECC_CNT.POISON_RD c, true)
  else
    let e := markEntry t c off
    match codeCheck t c e line with
    | (u, false) => (u, false)
    | (u, true) => (lineUncorrectable u c e line access space p, true)

/-- Whether a channel serves now: in service and in no quiet window (13 R502, R516). -/
def chanServes (s : State) (c : Nat) : Bool := s.rd DDR_CTL.STATE c == 2 && !(s.chanX c).inWin

/-- Whether requests to a channel wait: a window, a retrain, HOLD or self-refresh (13 R502 to R506). -/
def chanWaits (s : State) (c : Nat) : Bool :=
  let st := s.rd DDR_CTL.STATE c
  (st == 2 && (s.chanX c).inWin) || st == 3 || st == 4 || st == 5

end Sys2Proof.Machine
end

