-- ==== Sys2Proof/Machine/Tiers.lean ====
section
/-!
DEFINITION. Sys2Proof/Machine/Tiers.lean: the near store, DRAM and the Granary (04 R173 to R203): where a line is
served from, counters and scores, victims, fills and write-backs.
-/
namespace Sys2Proof.Machine

/-! ## Attributes, counters and scores (04 R194, R195) -/

def noAttr : PageAttr := ⟨.none, 0⟩
/-- The hint of the page that holds a line. -/
def hintOf (s : State) (line : Nat) : PageHint := (kgetD noAttr (line / 2 ^ 20) s.tier.attrs).hint

/-- Counter key of a fast page at a slice. -/
def pageKey (sl line : Nat) : Nat := line / 2 ^ 20 * 16 + sl

/-- Access counter of the page or block that holds a line. -/
def lineCnt (s : State) (deep : Bool) (sl line : Nat) : Nat :=
  if deep then match kget (line / 64) s.tier.blocks with
    | some b => b.cnt
    | none => 0
  else kgetD 0 (pageKey sl line) s.tier.pageCnt

/-- Four times the score: the counter times 4 under HOT, a quarter under COLD, once otherwise (04 R195). -/
def score4 (s : State) (deep : Bool) (sl line : Nat) : Nat :=
  let c := lineCnt s deep sl line
  match hintOf s line with
  | .hot => 16 * c
  | .cold => c
  | _ => 4 * c

/-- Whether a page or block is hot (04 R195). -/
def isHot (s : State) (p : Nat) (deep : Bool) (sl line : Nat) : Bool :=
  let th := atLeast1 (s.rd PRT_NEAR_CFG.HOT_THRESH p)
  decide (4 * (if deep then min th 255 else th) ≤ score4 s deep sl line)

/-- Counts an access to a line (04 R194). -/
def touchLine (s : State) (deep : Bool) (sl line : Nat) : State :=
  let t := s.tier
  if deep then
    match kget (line / 64) t.blocks with
    | none => s
    | some b => { s with tier := { t with clock := t.clock + 1
                                          blocks := kput (line / 64) { b with cnt := min 255 (b.cnt + 1), used := t.clock + 1 } t.blocks } }
  else
    let k := pageKey sl line
    { s with tier := { t with clock := t.clock + 1, pageCnt := kset 0 k (min 65535 (kgetD 0 k t.pageCnt + 1)) t.pageCnt } }

/-- The order in which victims go: EVICT_FIRST, COLD, the lowest score, the least recently used (04 R197). -/
def victimKey (s : State) (deep : Bool) (sl line used : Nat) : Nat :=
  let h := hintOf s line
  ((b2n (h != .evictFirst) * 2 + b2n (h != .cold)) * 2 ^ 32 + score4 s deep sl line) * 2 ^ 64 + used

/-- Whether a running descriptor or program stream holds a move pin on a 4 KiB block (04 R197). -/
def movePinned (s : State) (block : Nat) : Bool := s.started.any fun x => x.win.contains block

/-- The item with the least key. -/
def argMin {α : Type} (f : α → Nat) : List α → Option α
  | [] => none
  | x :: xs => match argMin f xs with
    | none => some x
    | some y => if f x ≤ f y then some x else some y

/-! ## Places -/

/-- The extent that holds a line, with its base in GiB. -/
def State.extentOfLine (s : State) (line : Nat) : Option (Nat × Ext) := s.extentAt (line * 64)

/-- Where a fast extent's line lies: its channel and the byte offset there (02 R109). -/
def fastPlace (s : State) (base : Nat) (e : Ext) (line : Nat) : Nat × Nat :=
  let g := s.grain e.part
  let ch := s.chanAt e.part (line * 64) g
  let slot := (e.slots.find? fun t => t.1 == ch).map (·.2.1)
  (ch, slot.getD 0 + placeOffset (line * 64) (base * 2 ^ 30) g (2 * (s.slicesOf e.part).length))

/-- The drives of a deep extent's stripe, ascending (04 R185). -/
def stripeDrives (e : Ext) : List Nat := e.units.foldl (fun l u => sput u.1 l) []

/-- Unit `n` of the runs that an extent has on a drive. -/
def unitAt (runs : List (Nat × Nat × Nat)) (d : Nat) : Nat → Option Nat
  | n => match runs with
    | [] => none
    | (d', first, cnt) :: r =>
      if d' = d then if n < cnt then some (first + n) else unitAt r d (n - cnt)
      else unitAt r d n

/-- Drive, data LBA and MAC LBA of a block of a deep extent (04 R185). -/
def blockPlace (base : Nat) (e : Ext) (block : Nat) : Option (Nat × Nat × Nat) :=
  let ds := stripeDrives e
  let k := (block - base * 2 ^ 18) / 256
  if ds.length = 0 then none
  else
    let d := nthN ds (k % ds.length)
    let j := k / ds.length
    match unitAt e.units d (j / 1024) with
    | none => none
    | some u =>
      let chunk := u * 278528 + j % 1024 * 272
      some (d, chunk + block % 256, chunk + 256 + block % 256 / 16)

/-- Whether a block's chunk is on a drive its extent has lost (04 R209, R211). -/
def blockLost (base : Nat) (e : Ext) (block : Nat) : Bool :=
  match blockPlace base e block with
  | none => true
  | some (d, _, _) => e.lost.contains d

/-- Where the written-map bit of a deep extent's block lies: its channel, and the offset of its line there (04 R184). The
map takes a piece of its own on each channel, in the order of the channel's 64 KiB groups. -/
def mapPlace (s : State) (base : Nat) (e : Ext) (block : Nat) : Nat × Nat :=
  let n := 2 * (s.slicesOf e.part).length
  let c := s.cacheChan e.part (block * 4096)
  let rel := block - base * 2 ^ 18
  let bit := (rel / 2 ^ 14 * (pageShare 16 n / 2 ^ 16) + rel % 2 ^ 14 / 16 / n) * 16 + block % 16
  (c, ((e.slots.find? fun t => t.1 == c).map (·.2.1)).getD 0 + bit / 512 * 64)

/-- The line that lies at an offset of a channel in the slot of a fast extent (02 R109 read backwards). -/
def slotLine (s : State) (base : Nat) (e : Ext) (c slot o : Nat) : Option Nat :=
  let g := s.grain e.part
  let sls := s.slicesOf e.part
  let n := 2 * sls.length
  let share := pageShare g n
  let q := (o - slot) % atLeast1 share
  let u := q / 2 ^ g * n + 2 * (sls.idxOf (c / 2)) + c % 2
  if u < 2 ^ (26 - g) then some ((base * 2 ^ 30 + (o - slot) / atLeast1 share * 2 ^ 26 + u * 2 ^ g + q % 2 ^ g) / 64) else none

/-- The pool lines whose DRAM copies lie at offsets [lo, hi) of a channel. -/
def linesOn (s : State) (c lo hi : Nat) : List Nat :=
  (s.extents.flatMap fun be => if be.2.deep then [] else be.2.slots.flatMap fun t =>
    if t.1 = c then (List.range ((hi - lo) / 64)).filterMap fun i =>
      let o := lo + 64 * i
      if t.2.1 ≤ o ∧ o < t.2.1 + t.2.2 then slotLine s be.1 be.2 c t.2.1 o else none
    else []) ++
  s.tier.blocks.flatMap fun b => if b.2.ch = c then ((List.range 64).map (b.1 * 64 + ·)).filter fun l =>
    decide (lo ≤ Config.areaOffset l) && decide (Config.areaOffset l < hi) else []

/-! ## MAC lines, tag lines and written-map lines (04 R183, R184; 13 R490, R491, R509)

Each read or write of one is a line of its channel, charged to the access that causes it (12 R470). -/

/-- The MAC line that covers a line's offset: its number, and its own offset (13 R490). -/
def macNo (off : Nat) : Nat := off / 1024
def macOff (s : State) (c m : Nat) : Nat := s.rd DDR_CTL.CAP_G c * 15 * 2 ^ 26 + m * 64

/-- Lines that a slice's MAC cache holds, of its 65,536 (01 R54). -/
def macFill (s : State) (sl : Nat) : Nat := s.tier.macs.foldl (fun n m => if m.2.slice = sl then n + m.2.size else n) 0

/-- An entry leaves the MAC cache, its line written back when it was updated (13 R491). -/
def macDrop (s : State) (chg k : Nat) (m : MacEnt) : State :=
  let t := { s with tier := { s.tier with macs := kdel k s.tier.macs } }
  if m.dirty then dramWrite t (k / 2 ^ 48) chg (macOff t (k / 2 ^ 48) (k % 2 ^ 48)) (2 ^ 60 + k % 2 ^ 48) else t

/-- The least recently used entries go until `need` lines are free (log entry 63). -/
def macRoom (s : State) (sl chg need : Nat) : Nat → State
  | 0 => s
  | n + 1 =>
    if macFill s sl + need ≤ 65536 then s
    else match argMin (fun m => m.2.used) (s.tier.macs.filter fun m => m.2.slice == sl) with
      | some m => macRoom (macDrop s chg m.1 m.2) sl chg need n
      | none => s

/-- An entry of the MAC cache is used, or enters it. -/
def macPut (s : State) (k sl size : Nat) (dirty : Bool) : State :=
  let c := s.tier.clock + 1
  let was := ((kget k s.tier.macs).map MacEnt.dirty).getD false
  { s with tier := { s.tier with clock := c, macs := kput k ⟨sl, size, was || dirty, c⟩ s.tier.macs } }

/-- Sets of a channel's DRAM cache (04 R183). -/
def cacheSets (s : State) (p : Nat) : Nat := s.rd PRT_DCACHE_CFG.DCACHE_G p * 2 ^ 14

/-- The set of a block on its channel, and with its channel as one number. -/
def blockSetNo (s : State) (p block : Nat) : Nat := Config.blockSet block % atLeast1 (cacheSets s p)
def blockSetOf (s : State) (p block : Nat) : Nat := s.cacheChan p (block * 4096) * 2 ^ 32 + blockSetNo s p block

/-- The tag line of a way of a set: eight tags of eight bytes a line (04 R183). -/
def tagLineNo (set way : Nat) : Nat := set * 2 + way / 8

/-- The blocks whose tags a lost tag line held become held, with every line poisoned, and event 0x0305 tells of each
(13 R509). -/
def tagLost (s : State) (p c n : Nat) : State :=
  (s.tier.blocks.filter fun b => b.2.ch == c && !b.2.filling && tagLineNo (blockSetNo s p b.1) b.2.way == n).foldl (fun t b =>
    let d := match t.extentAt (b.1 * 4096) with
      | some (base, e) => ((blockPlace base e b.1).map (·.1)).getD 0
      | none => 0
    let lines := ((List.range 64).map (b.1 * 64 + ·)).filter fun l => !nearDirty t l
    evPart { t with tier := { t.tier with
      blocks := kput b.1 { b.2 with held := true, dirty := true, wb := false, bad := lines } t.tier.blocks } } p 0x0305 d b.1 0) s

/-- The blocks whose written bits a map line holds (04 R184). -/
def mapBlocks (s : State) (base : Nat) (e : Ext) (c off : Nat) : List Nat :=
  let sls := s.slicesOf e.part
  let n := 2 * sls.length
  let g := atLeast1 (pageShare 16 n / 2 ^ 16)
  let first := (off - ((e.slots.find? fun t => t.1 == c).map (·.2.1)).getD 0) * 8
  (List.range 512).filterMap fun i =>
    let bit := first + i
    let u := bit / 16 % g * n + 2 * sls.idxOf (c / 2) + c % 2
    if u < 1024 ∧ bit / 16 / g < e.lenG * 16 then some (base * 2 ^ 18 + bit / 16 / g * 2 ^ 14 + u * 16 + bit % 16) else none

/-- The blocks of a lost map line that are not cached read as poison until they are written (13 R509). -/
def mapLost (s : State) (c off : Nat) : State :=
  match s.extents.find? fun e => e.2.deep && e.2.slots.any fun t => t.1 == c && decide (t.2.1 ≤ off) && decide (off < t.2.1 + t.2.2) with
  | none => s
  | some (base, e) =>
    let lost := (mapBlocks s base e c off).filter fun b => (kget b s.tier.blocks).isNone
    { s with tier := { s.tier with mapBad := lost.foldl (fun l b => sput b l) s.tier.mapBad } }

/-- Further effects of an uncorrectable MAC, tag or map line (13 R509): `key` is its number in the channel's errors. -/
def auxLost (s : State) (c key off access space owner : Nat) : State :=
  let t := if 2 ^ 62 ≤ key then mapLost s c off
    else if 2 ^ 61 ≤ key then match s.partOfChan c with
      | some p => tagLost s p c (key - 2 ^ 61)
      | none => s
    else (linesOn s c ((key - 2 ^ 60) * 1024) ((key - 2 ^ 60) * 1024 + 1024)).foldl poisonCopy s
  ueFound t c (markEntry t c off) key access space owner none (if key < 2 ^ 61 then 16 else 512)

/-- Such a line is read. -/
def auxRead (s : State) (c chg off key access space owner : Nat) : State :=
  match codeCheck (openRow (askSlots (countRead s c) c chg 1) c off) c (markEntry s c off) key with
  | (t, false) => t
  | (t, true) => auxLost t c key off access space owner

/-- The MAC of the line at an offset is read, or updated, in the slice's MAC cache; a miss reads its line (13 R491). -/
def macTouch (s : State) (c p chg off : Nat) (write : Bool) (access space : Nat) : State :=
  let m := macNo off
  let k := c * 2 ^ 48 + m
  if (kget k s.tier.macs).isSome then macPut s k (c / 2) 1 write
  else macPut (macRoom (auxRead s c chg (macOff s c m) (2 ^ 60 + m) access space p) (c / 2) chg 1 64) k (c / 2) 1 write

/-- A line is read from DRAM with its MAC (01 R47 step 7): true where it comes back as poison. -/
def memRead (s : State) (c p chg off line access space : Nat) : State × Bool :=
  dramRead (macTouch s c p chg off false access space) c p chg off line access space

/-- A line is written to DRAM with its MAC (01 R48 step 8). -/
def memWrite (s : State) (c p chg off line : Nat) : State :=
  dramWrite (macTouch s c p chg off true 0xFF 0) c chg off line

/-! ## NVMe commands (04 R185 to R187, R204, R206) -/

def emptyDrive : DriveX := ⟨0, 0, [], [], 1, 0, [], 0, false, 0, [], [], []⟩
def State.driveX (s : State) (d : Nat) : DriveX := kgetD emptyDrive d s.drives
def State.setDriveX (s : State) (d : Nat) (x : DriveX) : State := { s with drives := kset emptyDrive d x s.drives }

/-- Commands of an I/O queue; the others are the admin queue's. -/
def isIo (kind : Nat) : Bool := decide (kind < 5) || decide (10 ≤ kind)

/-- The I/O queues are divided evenly among the ward's four slices (04 R204): how many share them out, and how many queues
the one that `sl` belongs to has. Slices share where there are fewer queues than slices. -/
def qParts (n : Nat) : Nat := min 4 (atLeast1 n)
def qShare (n sl : Nat) : Nat := (n + qParts n - 1 - sl % qParts n) / qParts n

/-- Whether a command can be issued: no controller reset keeps it, and its slice's queues have a free entry. A queue of
QDEPTH entries holds one command fewer (log entry 16). -/
def canIssue (s : State) (d : Nat) (c : NvmeCmd) : Bool :=
  let x := s.driveX d
  let n := s.rd NVM_CTL.IOQ d
  (x.resetting == 0 || c.kind == 7 || c.kind == 8) &&
  (!isIo c.kind || decide ((x.cmds.filter fun k => isIo k.kind && k.sl % qParts n == c.sl % qParts n).length <
    qShare n c.sl * (s.rd NVM_CTL.QDEPTH d - 1)))

/-- The lines of some blocks as their DRAM copies stand. -/
def blockLines (s : State) (blocks : List Nat) : List (Nat × Bool × List Byte) :=
  blocks.flatMap fun b => (List.range 64).map fun j => (b * 64 + j, badCopy s (b * 64 + j), s.line (b * 64 + j))

/-- What a Write carries: the blocks of its run, or, for a MAC LBA, the cached blocks of its group beside the LBA as it was
read (04 R190). -/
def carries (s : State) (d : Nat) (c : NvmeCmd) : State :=
  match s.extentAt (c.arg * 65536) with
  | none => s
  | some (base, e) =>
    if c.kind = 1 then match blockPlace base e (c.arg * 16) with
      | some (_, lba0, _) =>
        s.emit (.granary d c.id e.part (blockLines s ((List.range c.len).map (c.arg * 16 + (c.lba - lba0) + ·))) [])
      | none => s
    else if c.kind = 11 then
      s.emit (.granary d c.id e.part (blockLines s (((List.range 16).map (c.arg * 16 + ·)).filter fun b =>
        (kget b s.tier.blocks).isSome)) (kgetD [] c.arg (s.driveX d).macRead))
    else s

/-- A command goes out. -/
def nvmeSend (s : State) (d : Nat) (c : NvmeCmd) : State :=
  let x := s.driveX d
  let q := if c.kind = 7 ∨ c.kind = 8 then kput (256 * (c.kind - 7) + c.arg) (c.tries + 1) x.qTries else x.qTries
  carries ((s.setDriveX d { x with cmds := x.cmds ++ [{ c with tries := c.tries + 1 }], held := x.held.filter (·.id != c.id),
                                   qTries := q }).emit (.nvme d c.kind [c.id, c.lba, c.len])) d c

/-- The commands that wait go out, oldest first, as far as the queues take them. -/
def nvmeDrain (s : State) (d : Nat) : State :=
  (s.driveX d).held.foldl (fun t c => if canIssue t d c then nvmeSend t d c else t) s

/-- Issues a command to a drive, for a slice of its ward. Kinds: 0 data Read of a fill, 1 data Write, 2 Flush, 3 Write
Zeroes, 4 Dataset Management, 5 Identify Controller, 6 Identify Namespace, 7 Set Features, 8 queue creation, 9 SMART log,
10 MAC Read of a fill, 11 MAC Write, 12 MAC Read before a write-back. It waits while its queues are full or a controller
reset runs. A queue command of the bring-up goes on with the tries that it had before a controller reset (04 R206). -/
def nvmeIssue (s : State) (d kind arg lba len : Nat) (sl : Nat := 0) : State :=
  let x := s.driveX d
  let tries := if kind = 7 ∨ kind = 8 then kgetD 0 (256 * (kind - 7) + arg) x.qTries else 0
  nvmeDrain (s.setDriveX d { x with held := x.held ++ [⟨x.nextId, kind, arg, lba, len, tries, sl⟩], nextId := x.nextId + 1 }) d

/-! ## Statistics -/

/-- Whether a pin range of the kind covers an address. -/
def pinCovers (s : State) (dram : Bool) (a : Nat) : Bool :=
  s.tier.pins.any fun r => r.dram == dram && decide (r.lo ≤ a) && decide (a < r.hi)

/-- PRT_TIER_STAT of a partition from what is pinned, dirty and degraded (04 R214). -/
def tierStat (s : State) (p : Nat) : State :=
  let pins := s.tier.pins.filter fun r => r.part == p
  let near := s.tier.near.filter fun n => n.2.share == 1 && s.partOfSlice n.2.slice == some p
  let dirty := s.tier.blocks.filter fun b => (b.2.dirty || b.2.held) && s.partOfChan b.2.ch == some p
  let pinned := s.tier.blocks.filter fun b => s.partOfChan b.2.ch == some p && pinCovers s true (b.1 * 4096)
  let degr := s.extents.filter fun e => e.2.part == p && e.2.deep && e.2.lost != []
  (((((s.wr PRT_TIER_STAT.NEAR_PIN (ceilDiv near.length (2 ^ 14)) p).wr PRT_TIER_STAT.DRAM_PIN
    (ceilDiv pinned.length (2 ^ 18)) p).wr PRT_TIER_STAT.DIRTY (ceilDiv dirty.length (2 ^ 18)) p).wr
    PRT_TIER_STAT.PINS pins.length p).wr PRT_TIER_STAT.DEGRADED (min 127 degr.length) p)

/-- PRT_TIER_STAT of every enabled partition. -/
def tierStats (s : State) : State := (List.range 16).foldl (fun t p => if t.partOn p then tierStat t p else t) s

/-! ## The DRAM cache (04 R181 to R193) -/

/-- A tag is looked up in the slice's tag cache; a miss reads its line from DRAM, and the least recently used of 65,536
lines goes (04 R183, 01 R54; log entry 63). -/
def tagTouch (s : State) (p c chg set way : Nat) : State :=
  let n := tagLineNo set way
  let k := c * 2 ^ 48 + n
  let put := fun (t : State) => { t with tier := { t.tier with clock := t.tier.clock + 1,
                                                               tagLines := kput k (t.tier.clock + 1) t.tier.tagLines } }
  if (kget k s.tier.tagLines).isSome then put s
  else
    let t := auxRead s c chg (Config.tagOffset n) (2 ^ 61 + n) 0xFF 0 p
    let mine := t.tier.tagLines.filter fun e => e.1 / 2 ^ 48 / 2 == c / 2
    put (if mine.length < 65536 then t
      else match argMin (fun e => e.2) mine with
        | some e => { t with tier := { t.tier with tagLines := kdel e.1 t.tier.tagLines } }
        | none => t)

/-- The written bit of a block is read, or its line written. -/
def mapTouch (s : State) (base : Nat) (e : Ext) (block chg : Nat) (write : Bool) : State :=
  let (c, off) := mapPlace s base e block
  let t := auxRead s c chg off (2 ^ 62 + off / 64) 0xFF 0 e.part
  if write then dramWrite t c chg off (2 ^ 62 + off / 64) else t

/-- What taking a way for a block comes to (04 R192, R193). -/
inductive Way where
  | got (s : State)
  | waits
  | none_

/-- A block enters a way of the DRAM cache as given; under STREAM_ONCE it is its set's next victim (R196). One that is not
filled from the Granary is written as 64 zero lines (R189 step 1). -/
def enterBlock (s : State) (p block way : Nat) (filling dirty held : Bool) : State :=
  let c := s.cacheChan p (block * 4096)
  let b : Blk := ⟨c, filling, dirty, held, false, false, 0, s.tier.clock + 1, way, hintOf s (block * 64) == .streamOnce, []⟩
  let t := { s with tier := { s.tier with clock := s.tier.clock + 1, blocks := kput block b s.tier.blocks } }
  if filling then t
  else (List.range 64).foldl (fun t j => memWrite t c p (p * 4 + 3) (Config.areaOffset (block * 64 + j)) (block * 64 + j)) t

/-- A block leaves the DRAM cache; the errors of its lines go with it. -/
def dropBlock (s : State) (block : Nat) : State :=
  match kget block s.tier.blocks with
  | none => s
  | some b =>
    let x := s.chanX b.ch
    { s.setChanX b.ch { x with errs := x.errs.filter fun e => e.1 / 64 != block } with
      tier := { s.tier with blocks := kdel block s.tier.blocks } }

/-- Takes a way for a block, evicting the next eligible victim of its set (04 R189 step 1, R192, R197): a block that
entered under STREAM_ONCE goes first (R196). -/
def takeWay (s : State) (p block : Nat) (filling dirty held : Bool) : Way :=
  let set := blockSetOf s p block
  let mem := s.tier.blocks.filter fun b => blockSetOf s p b.1 == set && s.partOfChan b.2.ch == some p
  let pinned := fun (b : Nat × Blk) => b.2.held || pinCovers s true (b.1 * 4096)
  match (List.range 16).find? fun w => mem.all fun b => b.2.way != w with
  | some w => .got (enterBlock s p block w filling dirty held)
  | none =>
    let ok := mem.filter fun b => !b.2.filling && !b.2.dirty && !b.2.wb && !pinned b && !movePinned s b.1
    match argMin (fun b => b2n (!b.2.next) * 2 ^ 128 + victimKey s true (b.2.ch / 2) (b.1 * 64) b.2.used) ok with
    | some v => .got (enterBlock (dropBlock s v.1) p block v.2.way filling dirty held)
    | none => if mem.all pinned then .none_ else .waits

/-- Blocks of a partition's DRAM-cache area (04 R182). -/
def areaBlocks (s : State) (p : Nat) : Nat :=
  s.rd PRT_DCACHE_CFG.DCACHE_G p * 2 ^ 18 * (2 * (s.slicesOf p).length)

/-- The lines of a block are read from DRAM before it leaves: their line code is checked, and one that fails it is poison
from then on (04 R186, R187). -/
def readBlock (s : State) (p block ch : Nat) : State :=
  (List.range 64).foldl (fun t j =>
    (memRead t ch p (p * 4 + 3) (Config.areaOffset (block * 64 + j)) (block * 64 + j) 0xFF 0).1) s

/-- Starts the write-back of a group: its dirty blocks are read, then a Write goes out per run of contiguous dirty blocks,
and a Read of its MAC LBA when some block of it is not cached (04 R190). -/
def startGroup (s : State) (base : Nat) (e : Ext) (group : Nat) : State :=
  let blocks := (List.range 16).map (group * 16 + ·)
  let dirty := blocks.filter fun b => match kget b s.tier.blocks with
    | some x => x.dirty && !x.held
    | none => false
  let runs := dirty.foldl (fun (rs : List (Nat × Nat)) b => match rs with
    | (f, n) :: r => if f + n = b then (f, n + 1) :: r else (b, 1) :: rs
    | [] => [(b, 1)]) []
  let full := blocks.all fun b => (kget b s.tier.blocks).isSome
  match blockPlace base e (group * 16) with
  | none => s
  | some (d, lba0, mac) =>
    let mark := fun (x : Nat × Blk) => if dirty.contains x.1 then (x.1, { x.2 with wb := true, wbDirty := false }) else x
    let ch := s.cacheChan e.part (group * 65536)
    let t := dirty.foldl (fun t b => readBlock t e.part b ch) s
    let t := { t with tier := { t.tier with blocks := t.tier.blocks.map mark } }
    let t := runs.reverse.foldl (fun t r => nvmeIssue t d 1 group (lba0 + (r.1 - group * 16)) r.2 (ch / 2 % 4)) t
    if full then t else nvmeIssue t d 12 group mac 1 (ch / 2 % 4)

/-- Dirty blocks of a partition that can be written back and are not under way. -/
def dirtyIdle (s : State) (p : Nat) : List (Nat × Blk) :=
  s.tier.blocks.filter fun b => b.2.dirty && !b.2.held && !b.2.wb && !b.2.filling && s.partOfChan b.2.ch == some p

/-- Starts and stops a partition's write-back engine and gives it work: it starts above WB_HIGH sixteenths dirty and
stops below WB_LOW (04 R191). While it runs, every dirty group is under way. -/
def writeBackEngine (s : State) (p : Nat) : State :=
  let area := areaBlocks s p
  let n := (s.tier.blocks.filter fun b => b.2.dirty && s.partOfChan b.2.ch == some p).length
  let go := if area * atLeast1 (s.rd PRT_DCACHE_CFG.WB_HIGH p) < n * 16 then true
    else if n * 16 < area * s.rd PRT_DCACHE_CFG.WB_LOW p ∨ n = 0 then false
    else s.tier.wbOn.contains p
  let t := { s with tier := { s.tier with wbOn := if go then sput p s.tier.wbOn else sdel p s.tier.wbOn } }
  if go then
    let groups := (dirtyIdle t p).foldl (fun l b => sput (b.1 / 16) l) []
    groups.foldl (fun t g => match t.extentAt (g * 65536) with
      | some (base, e) => if blockLost base e (g * 16) then t else startGroup t base e g
      | none => t) t
  else t

/-- Idle write-back: with no command outstanding at a root port, dirty blocks of it whose access counter is 0 are
written back too (04 R191). -/
def idleWriteBack (s : State) (d : Nat) : State :=
  if (s.driveX d).cmds ≠ [] ∨ s.rd NVM_CTL.STATE d ≠ 2 ∨ (s.driveX d).resetting ≠ 0 then s
  else
    let bs := s.tier.blocks.filter fun b => b.2.dirty && !b.2.held && !b.2.wb && !b.2.filling && b.2.cnt == 0
    let groups := bs.foldl (fun l b => sput (b.1 / 16) l) []
    groups.foldl (fun t g => match t.extentAt (g * 65536) with
      | some (base, e) => match blockPlace base e (g * 16) with
        | some (d', _, _) => if d' = d ∧ ¬ e.lost.contains d then startGroup t base e g else t
        | none => t
      | none => t) s

/-- A line of a cached block has been written: the block is dirty, one under write-back stays dirty after it (04 R190,
R193), and one on a lost drive is held (R209). The write-back engine and PRT_TIER_STAT follow (R191, R214). -/
def dirtyLine (s : State) (p line : Nat) : State :=
  let block := line / 64
  match kget block s.tier.blocks with
  | none => s
  | some b =>
    let lost : Bool := match s.extentAt (block * 4096) with
      | some (base, e) => blockLost base e block
      | none => false
    let b' : Blk := { b with dirty := true, held := b.held || lost, wbDirty := b.wb, bad := sdel line b.bad }
    tierStat (writeBackEngine { s with tier := { s.tier with blocks := kput block b' s.tier.blocks } } p) p

/-- Brings a deep block to the DRAM cache, or says what the request waits for or ends as (04 R189, R193, R209). -/
inductive Got where
  | here (s : State)
  | wait (s : State) (w : Wait)
  | poison (s : State)

/-- A block enters whose written bit is lost: all its lines are poison until they are written (13 R509). -/
def enterBad (s : State) (block : Nat) : State :=
  match kget block s.tier.blocks with
  | none => s
  | some b => { s with tier := { s.tier with blocks := kput block { b with bad := (List.range 64).map (block * 64 + ·) } s.tier.blocks
                                             mapBad := sdel block s.tier.mapBad } }

/-- The Reads of a fill (04 R189 step 2): the data LBA, and its group's MAC LBA when the MAC cache has it not. -/
def startFill (s : State) (block d lba mac ch : Nat) : State :=
  let t := nvmeIssue s d 0 block lba 1 (ch / 2 % 4)
  match kget (2 ^ 60 + block / 16) t.tier.macs with
  | some _ => macPut t (2 ^ 60 + block / 16) (ch / 2) 64 false
  | none => nvmeIssue t d 10 block mac 1 (ch / 2 % 4)

/-- `chg` is what the lookup of the tag and of the written bit is charged to. -/
def needBlock (s : State) (p base : Nat) (e : Ext) (block : Nat) (write : Bool) (chg : Nat) : Got :=
  let set := blockSetNo s p block
  match kget block s.tier.blocks with
  | some b =>
    let t := tagTouch s p b.ch chg set b.way
    if b.filling then .wait t (.fill block) else .here t
  | none =>
    let ch := s.cacheChan p (block * 4096)
    let s := mapTouch (tagTouch s p ch chg set 0) base e block chg false
    let lost := blockLost base e block
    let gone := s.tier.mapBad.contains block
    let written := e.allWritten || s.tier.written.contains block || gone
    if (lost ∧ (¬ write ∨ written)) ∨ (gone ∧ ¬ write) then .poison s
    else match takeWay s p block (written && !lost && !gone) false lost with
      | .waits => .wait s (.way (blockSetOf s p block))
      | .none_ => .poison s
      | .got t =>
        if gone then .here (enterBad t block)
        else if lost ∨ ¬ written then .here t
        else match blockPlace base e block with
          | none => .poison t
          | some (d, lba, mac) => .wait ((startFill t block d lba mac ch).count PRT_TIER_CNT.FILLS p) (.fill block)

/-- A dirty deep line that the near store gives up is written to its block; one whose block is not cached is kept until it
is, since every access fills it (04 R180, R196). Where it can be written nowhere it is poisoned (R180, 13 R511). -/
def putDeep (s : State) (p base : Nat) (e : Ext) (line : Nat) : State :=
  let ch := s.cacheChan p (line * 64)
  if s.rd DDR_CTL.STATE ch = 6 then s.poisonLine line
  else match needBlock s p base e (line / 64) true (p * 4 + 3) with
    | .here t => dirtyLine (memWrite t ch p (p * 4 + 3) (Config.areaOffset line) line) p line
    | .wait t _ => { t with tier := { t.tier with wbuf := sput line t.tier.wbuf } }
    | .poison t => t.poisonLine line

/-- The lines that wait for their block are tried again (04 R189 step 4, R193). -/
def settleWbuf (s : State) : State :=
  s.tier.wbuf.foldl (fun t l =>
    let u := { t with tier := { t.tier with wbuf := sdel l t.tier.wbuf } }
    match u.extentOfLine l with
    | some (base, e) => if e.deep then putDeep u e.part base e l else u
    | none => u) s

/-! ## The near store (04 R175 to R180, R196, R197) -/

/-- Lines of each share of a slice's near store (04 R176, R178). -/
def policyLines (s : State) (p sl : Nat) : Nat :=
  (clampN 16 48 (s.rd SLC_NEAR_SIZE.NEAR_MIB sl) - s.rd PRT_NEAR_CFG.ACC_RES p - s.rd PRT_NEAR_CFG.PIN_MAX p) * 2 ^ 14
def pinLines (s : State) (p : Nat) : Nat := s.rd PRT_NEAR_CFG.PIN_MAX p * 2 ^ 14
def accLines (s : State) (p : Nat) : Nat := s.rd PRT_NEAR_CFG.ACC_RES p * 2 ^ 14

/-- Lines that a slice's near store holds of a share. -/
def nearHeld (s : State) (sl share : Nat) : List (Nat × NearLine) :=
  s.tier.near.filter fun n => n.2.slice == sl && n.2.share == share

def setNear (s : State) (near : List (Nat × NearLine)) : State := { s with tier := { s.tier with near := near } }

/-- The set of a line in its slice's policy share, which is 16-way (04 R176). -/
def nearSetOf (s : State) (p sl line : Nat) : Nat := Config.nearSet line % atLeast1 (policyLines s p sl / 16)

/-- Writes a dirty near-store line back to its DRAM copy; a line of a lost channel is dropped, and so poisoned
(04 R180, 13 R511). -/
def nearWriteBack (s : State) (line : Nat) (n : NearLine) : State :=
  if !n.dirty then s
  else match s.extentOfLine line with
    | none => s
    | some (base, e) =>
      if e.deep then putDeep s e.part base e line
      else
        let (ch, off) := fastPlace s base e line
        if s.rd DDR_CTL.STATE ch = 6 then s.poisonLine line else memWrite s ch e.part (e.part * 4 + 3) off line

/-- Takes a line out of the near store, written back when it is dirty (04 R180). -/
def nearEvict (s : State) (line : Nat) : State :=
  match kget line s.tier.near with
  | none => s
  | some n => nearWriteBack (setNear s (kdel line s.tier.near)) line n

/-- The policy lines and accumulators of a set. -/
def nearIn (s : State) (p sl set : Nat) : List (Nat × NearLine) :=
  s.tier.near.filter fun n => n.2.slice == sl && (n.2.share == 0 || n.2.share == 3) && nearSetOf s p sl n.1 == set

/-- The order in which policy lines go (04 R197): by the page of a fast line, by the block of a deep one. -/
def nearKey (s : State) (sl : Nat) (n : Nat × NearLine) : Nat :=
  victimKey s (((s.extentOfLine n.1).map fun x => x.2.deep).getD false) sl n.1 n.2.used

/-- Evicts lines of a set until fewer than `k` are left, and says whether that could be (04 R197): accumulators and what a
move pin covers stay. -/
def nearCut (s : State) (p sl set k : Nat) : Nat → State × Bool
  | 0 => (s, false)
  | n + 1 =>
    if (nearIn s p sl set).length < k then (s, true)
    else match argMin (nearKey s sl) ((nearIn s p sl set).filter fun n => n.2.share == 0 && !movePinned s (n.1 / 64)) with
      | some v => nearCut (nearEvict s v.1) p sl set k n
      | none => (s, false)

/-- Makes room for a policy line in its set, and says whether there is room (04 R197). -/
def nearRoom (s : State) (p sl line : Nat) : State × Bool :=
  if policyLines s p sl = 0 then (s, false)
  else
    let set := nearSetOf s p sl line
    nearCut s p sl set 16 ((nearIn s p sl set).length + 1)

/-- The lines that a write to PRT_NEAR_CFG leaves in sets that hold more than 16 go (04 R176). -/
def nearTrim (s : State) (p : Nat) : State :=
  (s.tier.near.filter fun n => n.2.share == 0 && s.partOfSlice n.2.slice == some p).foldl (fun t n =>
    let set := nearSetOf t p n.2.slice n.1
    (nearCut t p n.2.slice set 17 ((nearIn t p n.2.slice set).length + 1)).1) s

/-- Lines of the pin share that no pin range covers any more leave the near store: no share lends its space to another
(04 R176; log entry 63). -/
def dropLoose (s : State) (p : Nat) : State :=
  tierStat ((s.tier.near.filter fun n => n.2.share == 1 && s.partOfSlice n.2.slice == some p &&
    !pinCovers s false (n.1 * 64)).foldl (fun t n => nearEvict t n.1) s) p

/-- Places a clean or dirty line in the policy share as most recently used. -/
def nearInsert (s : State) (p sl line : Nat) (dirty : Bool) : State :=
  match nearRoom s p sl line with
  | (t, false) => t
  | (t, true) =>
    let c := t.tier.clock + 1
    { t with tier := { t.tier with clock := c, near := kput line ⟨sl, dirty, 0, c⟩ t.tier.near } }

/-- After an access that missed the near store: a hot line without STREAM_ONCE is placed (04 R196). -/
def nearPlace (s : State) (p sl : Nat) (deep : Bool) (line : Nat) : State :=
  if isHot s p deep sl line && hintOf s line != .streamOnce then nearInsert s p sl line false else s

/-- A near-store hit: the line becomes the most recently used. -/
def nearUse (s : State) (line : Nat) (n : NearLine) (dirty : Bool) : State :=
  let c := s.tier.clock + 1
  { s with tier := { s.tier with clock := c, near := kput line { n with dirty := n.dirty || dirty, used := c } s.tier.near } }

/-! ## Serving a line (01 R47 step 7, R48 step 8) -/

/-- Whether the DRAM copy of a deep line that the near store holds clean is one of a lost channel, or poison. -/
def cleanBad (s : State) (ch line : Nat) (deep : Bool) : Bool :=
  badCopy s line || (s.rd DDR_CTL.STATE ch == 6 && (!deep || (kget (line / 64) s.tier.blocks).isSome))

/-- Reads a line of an extent from its authoritative copy (04 R174): its bytes, poison, or what it waits for. -/
def tierRead (s : State) (base : Nat) (e : Ext) (line access space chg : Nat) : State × LineSt :=
  let p := e.part
  let sl := s.homeSlice p (line * 64)
  match kget line s.tier.near with
  | some n =>
    let s := touchLine s e.deep sl line
    let ch := if e.deep then s.cacheChan p (line * 64) else (fastPlace s base e line).1
    if ¬ n.dirty ∧ cleanBad s ch line e.deep then (s, .poisonL)
    else (nearUse s line n false, if s.isPoison line then .poisonL else .okL (s.line line))
  | none =>
    if e.deep then
      let ch := s.cacheChan p (line * 64)
      if s.rd DDR_CTL.STATE ch = 6 then (s, .poisonL)
      else match needBlock s p base e (line / 64) false chg with
        | .poison t => (t, .poisonL)
        | .wait t w => (t, .wait w)
        | .here t =>
          if chanWaits t ch then (t, .wait (.chan ch))
          else match memRead (touchLine t true sl line) ch p chg (Config.areaOffset line) line access space with
            | (u, true) => (u, .poisonL)
            | (u, false) => (nearPlace u p sl true line, .okL (u.line line))
    else
      let (ch, off) := fastPlace s base e line
      if s.rd DDR_CTL.STATE ch = 6 then (s, .poisonL)
      else if chanWaits s ch then (s, .wait (.chan ch))
      else match memRead (touchLine s false sl line) ch p chg off line access space with
        | (u, true) => (u, .poisonL)
        | (u, false) => (nearPlace u p sl false line, .okL (u.line line))

/-- Writes a whole line of an extent to its tier (01 R48 step 8, 04 R175). -/
def tierWrite (s : State) (base : Nat) (e : Ext) (line chg : Nat) (data : List Byte) : State × LineSt :=
  let p := e.part
  let sl := s.homeSlice p (line * 64)
  match kget line s.tier.near with
  | some n =>
    let ch := if e.deep then s.cacheChan p (line * 64) else (fastPlace s base e line).1
    if ¬ n.dirty ∧ s.rd DDR_CTL.STATE ch = 6 then (s, .poisonL)
    else ((nearUse (touchLine s e.deep sl line) line n true).setLine line data, .okL [])
  | none =>
    if e.deep then
      let ch := s.cacheChan p (line * 64)
      if s.rd DDR_CTL.STATE ch = 6 then (s, .poisonL)
      else match needBlock s p base e (line / 64) true chg with
        | .poison t => (t, .poisonL)
        | .wait t w => (t, .wait w)
        | .here t =>
          if chanWaits t ch then (t, .wait (.chan ch))
          else
            let t := memWrite ((touchLine t true sl line).setLine line data) ch p chg (Config.areaOffset line) line
            (nearPlace (dirtyLine t p line) p sl true line, .okL [])
    else
      let (ch, off) := fastPlace s base e line
      if s.rd DDR_CTL.STATE ch = 6 then (s, .poisonL)
      else if chanWaits s ch then (s, .wait (.chan ch))
      else (nearPlace (memWrite ((touchLine s false sl line).setLine line data) ch p chg off line) p sl false line, .okL [])

end Sys2Proof.Machine
end

