-- ==== Sys2Proof/Machine/Xlate.lean ====
section
/-!
DEFINITION. Sys2Proof/Machine/Xlate.lean: table walks, translation copies, faults, rights and ownership (02 R66 to
R108), and the region window lookup (08 R325 to R329).
-/
namespace Sys2Proof.Machine

/-- Rights as bits: 1 RD, 2 WR, 4 ACC (02 R84). -/
def entryRights (e : Nat) : Nat := fld e 2 3

/-- A fault record's words: TYPE 0 (03 R168). -/
def xltRecord (part cause access space count page first : Nat) (firstRing : Bool) (now pa : Nat) : List Word :=
  [toW (part % 32 * 16 + cause % 256 * 2 ^ 16 + access % 256 * 2 ^ 24 + space % 2 ^ 16 * 2 ^ 32 + min count 65535 * 2 ^ 48),
   toW (page % 2 ^ 22 + first % 2 ^ 15 * 2 ^ 32 + b2n firstRing * 2 ^ 47), toW now, toW (pa / 64), 0, 0, 0, 0]

/-- A request for one line, as the home slice judges it: who asks, its partition, space, address and access kind, the
rights it needs, and whether it writes the line. -/
structure LReq where
  who : Holder
  part : Nat
  tag : Nat
  addr : Nat
  access : Nat
  need : Nat
  /-- First requester for a fault record: a node ID or a ring slot. -/
  first : Nat
  firstRing : Bool
  /-- What earlier lines of the same request ended with, a cause or 0x100 + a NAK's code: the counters count the request
  once (R84, R101, 08 R341). -/
  seen : List Nat := []
  /-- A stored line that a view line is computed from: an ordinary read, with no view lookup of its own (05 R256). -/
  inner : Bool := false
deriving DecidableEq, Repr

/-- Whom a line's slot is charged to, and as which kind: 4 × partition + kind (12 R470). -/
def chargeOf (s : State) (q : LReq) (write : Bool) : Nat :=
  match q.who with
  | .desc r _ => min 16 (ringOwner s r) * 4 + 2
  | .req _ => q.part * 4 + b2n write
  | _ => q.part * 4 + 2

/-! ## Accesses in flight (02 R75, R94, R120) -/

def isFlight (q : LReq) (f : Flight) : Bool := f.who == q.who && f.tag == q.tag && f.addr == q.addr && f.need == q.need

/-- The access that a line request goes on with. -/
def flightOf (s : State) (q : LReq) : Option Flight := s.flights.find? (isFlight q)

/-! ## Turns at an object (07 R298) -/

/-- Whether an ARM_SET of an object reads its member list: later operations on the object wait for its end. -/
def armingNow (s : State) (o : Nat) : Bool := s.arming.any (·.obj == o)

/-- Whether an operation is the next one of its object: none that its slice admitted earlier is still to be applied. -/
def objTurn (s : State) (o : Nat) (who : Holder) : Bool :=
  !armingNow s o && (s.objQ.find? (·.1 == o)).all fun q => q.2 == who

/-- An operation waits for its turn. -/
def objJoin (s : State) (o : Nat) (who : Holder) : State :=
  if s.objQ.contains (o, who) then s else { s with objQ := s.objQ ++ [(o, who)] }

/-- What a wait for a turn at an object becomes as the turn comes. -/
def turnWait (o : Nat) (w : Wait) : Wait :=
  match w with
  | .obj p => if p = o then .run else w
  | .sig p r c _ => if p = o then .sig p r c true else w
  | w => w

def turnLine (o : Nat) (l : LineSt) : LineSt :=
  match l with
  | .wait w => .wait (turnWait o w)
  | l => l

/-- The next operation that waits at an object has its turn. -/
def objWake (s : State) (o : Nat) : State :=
  if armingNow s o then s
  else match s.objQ.find? (·.1 == o) with
    | some (_, .desc r d) =>
      { s with started := s.started.map fun x => if x.ring = r ∧ x.idx = d then { x with wait := turnWait o x.wait } else x }
    | some (_, .req id) =>
      { s with reqs := s.reqs.map fun x => if x.id = id then { x with lines := x.lines.map (turnLine o) } else x }
    | _ => s

/-- A requester waits at no object any more. -/
def objLeave (s : State) (who : Holder) : State :=
  match (s.objQ.filter (·.2 == who)).map (·.1) with
  | [] => s
  | os => os.foldl objWake { s with objQ := s.objQ.filter (·.2 != who) }

/-- Ends every access of a requester, and its waits at objects. -/
def endFlights (s : State) (who : Holder) : State := objLeave { s with flights := s.flights.filter (·.who != who) } who

/-- Ends one access. -/
def endFlight (s : State) (q : LReq) : State := { s with flights := s.flights.filter fun f => !isFlight q f }

/-- An access has its translation. -/
def setFlight (s : State) (q : LReq) (res : Nat × Nat × Option Nat) : State :=
  { s with flights := s.flights.map fun (f : Flight) => if isFlight q f then { f with res := some res } else f }

/-- Whether an access was translated into the extent at `b` GiB. -/
def flightIn (b : Nat) (f : Flight) : Bool :=
  match f.res with
  | some r => r.1 == b
  | none => false

/-- Whether a request has a line that was translated: it is in flight (02 R94). -/
def flies (s : State) (who : Holder) : Bool := s.flights.any fun f => f.who == who && f.res.isSome

/-- How a walk or a translation ends (02 R80, R85). -/
inductive Xlt where
  | ok (pa rights : Nat)
  | fault
  | tableFault (pa : Nat)
  | tablePoison (pa : Nat)
  | wait (w : Wait)
deriving DecidableEq, Repr

/-- Reads 8 bytes of a page table for an access: in an open table extent of the home partition, or the walk ends
(02 R85). -/
def tableRead (s : State) (home p pa space access : Nat) : State × Except Xlt Nat :=
  match s.extentAt pa with
  | some (b, e) =>
    if e.table ∧ e.part = home ∧ e.st = .open then
      match tierRead s b e (pa / 64) access space (p * 4) with
      | (t, .okL bs) => (t, .ok (leNat ((bs.drop (pa % 64)).take 8)))
      | (t, .wait w) => (t, .error (.wait w))
      | (t, _) => (t, .error (.tablePoison pa))
    else (s, .error (.tableFault pa))
  | none => (s, .error (.tableFault pa))

/-- The walk of 02 R80. The 4 GiB flag of the page found comes with it. Reserved bits of an entry, and ADDR bits below a
leaf's page size, which R83 makes a host error, are masked and the walk goes on: DESIGN CHOICE, log entry 11. -/
def walk (s : State) (slot tag a access : Nat) : State × Xlt × Bool :=
  let home := s.rd XLT_SPACE_LO.HOME_PART slot
  let p := s.spacePart slot a
  match tableRead s home p (s.rd XLT_SPACE_LO.DIR_BASE slot * 2 ^ 19 + fld a 32 16 * 8) tag access with
  | (t, .error x) => (t, x, false)
  | (t, .ok d) =>
    if ¬ d.testBit 0 then (t, .fault, false)
    else if d.testBit 1 then (t, .ok (fld d 32 20 * 2 ^ 32 + a % 2 ^ 32) (entryRights d), true)
    else match tableRead t home p (fld d 9 43 * 2 ^ 9 + fld a 26 6 * 8) tag access with
      | (u, .error x) => (u, x, false)
      | (u, .ok p) =>
        if ¬ p.testBit 0 then (u, .fault, false)
        else (u, .ok (fld p 26 26 * 2 ^ 26 + a % 2 ^ 26) (entryRights d &&& entryRights p), false)

/-- A copy's key: tag and address bits, and its size (02 R87). -/
def copyMatches (sl tag a : Nat) (c : Copy) : Bool :=
  c.slice == sl && c.tag == tag && (if c.big then c.key == a / 2 ^ 32 else c.key == a / 2 ^ 26)

/-- Adds a copy as the most recently used of its set of 8 (02 R87). The list is most recent first. -/
def addCopy (s : State) (c : Copy) : State :=
  let set := fun (x : Copy) => Config.copySet (x.tag * 2 ^ 23 + x.key * 2 + b2n x.big) % 1024
  let same := s.copies.filter fun x => x.slice == c.slice && set x == set c
  let drop := if same.length < 8 then none else same.getLast?
  { s with copies := c :: (match drop with
    | none => s.copies
    | some x => s.copies.filter (· != x)) }

/-- Translates at slice `sl`: from a copy, or by a walk whose result is copied (02 R87 to R89). Where a copy of each size
matches, which R87 does not order, the most recently used one serves: DESIGN CHOICE, log entry 13. -/
def translate (s : State) (sl slot tag a access : Nat) : State × Xlt :=
  match s.copies.find? (copyMatches sl tag a) with
  | some c =>
    ({ s with copies := c :: s.copies.filter (· != c) },
     .ok (if c.big then c.pa * 2 ^ 32 + a % 2 ^ 32 else c.pa * 2 ^ 26 + a % 2 ^ 26) c.rights)
  | none =>
    match walk s slot tag a access with
    | (t, .ok pa r, big) =>
      (addCopy t (if big then ⟨sl, tag, true, a / 2 ^ 32, r, pa / 2 ^ 32⟩ else ⟨sl, tag, false, a / 2 ^ 26, r, pa / 2 ^ 26⟩),
       .ok pa r)
    | (t, x, _) => (t, x)

/-! ## Fault entries (02 R98 to R108) -/

/-- DELAY of a NAK "retry after" under 02 R105, in 100 ns units (11 R426). -/
def retryDelay (s : State) (p : Nat) : Nat := atLeast1 (s.rd PRT_XLT_CFG.RETRY_AFTER p) * 10

def isEntry (p tag page : Nat) (e : FaultEnt) : Bool := e.part == p && e.tag == tag && e.page == page

/-- Ends the waits that `f` picks: lines of packet requests become `l`, whatever else waits (descriptors, the result
writes of sets, the list reads of armings, the image reads of loads) goes on waiting for `w`. -/
def rewait (s : State) (f : Wait → Bool) (l : LineSt) (w : Wait) : State :=
  { s with
    reqs := s.reqs.map (fun (r : HeldReq) => { r with lines := r.lines.map fun x => match x with
      | .wait v => if f v then l else x
      | _ => x }),
    started := s.started.map (fun (d : Started) => if f d.wait then { d with wait := w } else d),
    sets := s.sets.map (fun (x : Nat × SetX) => if f x.2.wait then (x.1, { x.2 with wait := w }) else x),
    arming := s.arming.map (fun (a : Arming) => if f a.wait then { a with wait := w } else a),
    loads := s.loads.map (fun (x : Nat × Load) => if f x.2.wait then (x.1, { x.2 with wait := w }) else x) }

/-- Gives the holders of an entry what it ends with: lines of packet requests become `l`, others wait for `w`. -/
def releaseHeld (s : State) (p tag page : Nat) (l : LineSt) (w : Wait) : State :=
  { rewait s (· == .held p tag page) l w with faults := s.faults.filter (fun e => !isEntry p tag page e) }

/-- Whether a wait has ended so that its access is made again. -/
def waitOver (w : Wait) : Bool := w == .run

/-- The coalescing window ends: one record, or the entry closes with its holders NAKed (02 R101 step 4). -/
def faultWindowEnd (s : State) (p tag page : Nat) : State :=
  match s.faults.find? (isEntry p tag page) with
  | none => s
  | some e =>
    if e.written then s
    else match faultRecord s p (xltRecord p 1 e.acc tag e.count page e.first e.firstRing s.now 0) with
      | (t, true) =>
        let set := fun (x : FaultEnt) => if isEntry p tag page x then { x with written := true } else x
        { t with faults := t.faults.map set }
      | (t, false) =>
        releaseHeld (t.count PRT_XLT_STAT.FAULT_OVF p) p tag page (.nakL 1 (retryDelay t p)) .retry

/-- Where a request that meets an invalid entry stands toward an open entry of its page: whether it is held, and the
entry with it. A request of several lines joins once; a requester after the first 64 held is turned away (02 R101 steps
2 and 3). An aperture access joins and takes none of the 64 places: DESIGN CHOICE, log entry 13. -/
def joinEntry (e : FaultEnt) (who : Holder) (aperture : Bool) : Bool × FaultEnt :=
  if e.joined.contains who then (e.holders.contains who, e)
  else
    let hold := !aperture && decide (e.holders.length < 64)
    (hold, { e with count := if e.written then e.count else e.count + 1, joined := e.joined ++ [who],
                    holders := if hold then e.holders ++ [who] else e.holders })

/-- A request meets an invalid entry: it joins or opens the entry of its page at the fault owner, and is held, or is
turned away with "retry after" (02 R101 steps 1 to 3). An aperture access joins and is never held (R105). -/
def joinFault (s : State) (q : LReq) : State × LineSt :=
  let page := q.addr / 2 ^ 26
  let owner := s.faultOwner q.part q.addr
  let aperture := q.access == 10 || q.access == 11
  let turned := if aperture then LineSt.errL 5 else .nakL 1 (retryDelay s q.part)
  let held := LineSt.wait (.held q.part q.tag page)
  match s.faults.find? (isEntry q.part q.tag page) with
  | some e =>
    let (hold, e') := joinEntry e q.who aperture
    let set := fun (x : FaultEnt) => if isEntry q.part q.tag page x then e' else x
    ({ s with faults := s.faults.map set }, if hold then held else turned)
  | none =>
    if 256 ≤ (s.faults.filter fun e => e.slice == owner).length then
      (if q.seen.contains 0x101 then s else s.count PRT_XLT_STAT.COALESCE_FULL q.part, turned)
    else
      let e : FaultEnt :=
        ⟨owner, q.part, q.tag, page, 1, q.access, q.first, q.firstRing, if aperture then [] else [q.who], false, [q.who]⟩
      let t := { s with faults := s.faults ++ [e] }
      if s.rd PRT_XLT_CFG.COALESCE q.part = 0 then
        let u := faultWindowEnd t q.part q.tag page
        (u, if !aperture && u.faults.any (isEntry q.part q.tag page) then held else turned)
      else (t, if aperture then turned else held)

/-! ## Ownership and rights (02 R84 to R86) -/

/-- A record of causes 2 to 4 on the PF0 fault ring (02 R107). One that the ring takes no more, or for which PF0 has no
ring, is counted in the FAULT_OVF of the request's partition (02 R128). -/
def pf0XltRecord (s : State) (q : LReq) (cause pa : Nat) : State :=
  match faultRecord s 16 (xltRecord q.part cause q.access q.tag 1 (q.addr / 2 ^ 26) q.first q.firstRing s.now pa) with
  | (t, true) => t
  | (t, false) => t.count PRT_XLT_STAT.FAULT_OVF q.part

/-- A line refused for want of a right: its request is counted once (02 R84). -/
def denied (s : State) (q : LReq) : State × LineSt :=
  (if q.seen.contains 2 then s else s.count PRT_XLT_STAT.DENIED q.part, .errL 2)

/-- The start of the reserved range (02 R68). -/
def reservedBase : Nat := 0xFFF0000000000

/-- Whether a descriptor already holds a fence token of the extent at `b` GiB: its stream goes on while the extent is
CLOSING (02 R120, R121). -/
def holdsToken (s : State) (q : LReq) (b : Nat) : Bool :=
  match q.who with
  | .desc r d => s.started.any fun x => x.ring == r && x.idx == d && x.touch.contains b
  | _ => false

/-- The ownership check of a pool physical address (02 R86): the extent, or what the request ends with. -/
def ownership (s : State) (q : LReq) (pa : Nat) : State × Except LineSt (Nat × Ext) :=
  if reservedBase ≤ pa then (pf0XltRecord s q 4 pa, .error (.errL 3))
  else match s.extentAt pa with
    | none => (s, .error (.nakL 2 0))
    | some (b, e) =>
      if e.part ≠ q.part ∨ e.table then (pf0XltRecord s q 4 pa, .error (.errL 3))
      else if e.st = .open ∨ e.st = .moving ∨ (e.st = .closing ∧ holdsToken s q b) then (s, .ok (b, e))
      else (s, .error (.nakL 2 0))

/-! ## Region windows (08 R325 to R329) -/

/-- Whether an extent belongs to a live version (08 R325). -/
def isRegionExtent (s : State) (p base : Nat) : Bool :=
  s.vers.any fun v => v.1 / 4096 == p && v.2.exts.contains base

/-- The region of partition `p` whose window holds an address of a space (08 R327), with the offset in the window. -/
def regionOf (s : State) (p tag a : Nat) : Option (Nat × Nat) :=
  ((s.regs.filterMap fun e =>
    let o := e.1 - (PRT_RGN_CFG.reg.base + p * 65536)
    if PRT_RGN_CFG.reg.base + p * 65536 ≤ e.1 ∧ o < 1024 * 16 ∧ o % 16 = 0 then
      let w := e.2.toNat
      let lo := fld w 30 18 * 2 ^ 30
      if w.testBit 16 ∧ fld w 0 16 = tag ∧ lo ≤ a ∧ a < lo + 4 * fld w 48 11 * 2 ^ 30 then some (o / 16, a - lo) else none
    else none)).head?

/-- The pool physical address of an offset in a version, walking its extents in order (08 R327). -/
def verAddr (s : State) : List Nat → Nat → Option Nat
  | [], _ => none
  | b :: r, o => match s.ext b with
    | none => none
    | some e => if o < e.lenG * 2 ^ 30 then some (b * 2 ^ 30 + o) else verAddr s r (o - e.lenG * 2 ^ 30)

/-- The region window lookup of a read (08 R327). -/
def regionRead (s : State) (p region off : Nat) : Option Nat :=
  let slotB := s.rd PRT_RGN_CFG.SLOT_G p region * 2 ^ 30
  match kget (p * 4096 + region * 4 + off / slotB) s.vers with
  | none => none
  | some v => verAddr s v.exts (off % slotB)

end Sys2Proof.Machine
end

