-- ==== Sys2Proof/Machine/Coh.lean ====
section
/-!
DEFINITION. Sys2Proof/Machine/Coh.lean: coherent domains (09): the directory, snoops, transactions, races, teardown.
A line is keyed by domain × 2^42 + bits [47:6] of its space address.
-/
namespace Sys2Proof.Machine

def nodeId (s : State) : Nat := s.rd XRD_NODE.NODE_ID

/-! ## Answers to packets (11 R420, R426, R427) -/

/-- Sends an answer to a request, unless the request asked for none (11 R415). -/
def sendAnswer (s : State) (flow : Nat) (req ans : Pkt) : State := if pNoack req then s else originate s flow ans
def sendNak (s : State) (flow : Nat) (req : Pkt) (code delay idx : Nat) : State :=
  sendAnswer s flow req (mkAnswer (nodeId s) req 0x18 (answerTc req) 0 0 code idx delay [])
def sendErr (s : State) (flow : Nat) (req : Pkt) (cause idx : Nat) : State :=
  sendAnswer s flow req (mkAnswer (nodeId s) req 0x1E (answerTc req) 0 0 cause idx 0 [])

/-! ## Members -/

/-- The node of agent `i` of a domain, if its entry is valid (R372). -/
def memberNode (s : State) (dom i : Nat) : Option Nat :=
  let r := s.rdReg XLT_COH_MEMBER.reg dom (i / 4) 0
  if r.testBit (16 * (i % 4) + 15) then some (fld r (16 * (i % 4)) 15) else none

/-- The agent index of a node (R343). -/
def agentOf (s : State) (dom node : Nat) : Option Nat :=
  (List.range (s.rd XLT_COH_CFG.NMEMB dom)).find? fun i => memberNode s dom i == some node

def cohUp (s : State) (dom : Nat) : Bool := s.rd XLT_COH_CTL.STATE dom == 1
def domOf (k : Nat) : Nat := k / 2 ^ 42
def lineOf (k : Nat) : Nat := k % 2 ^ 42
def cohKey (dom a : Nat) : Nat := dom * 2 ^ 42 + a / 64

/-! ## The directory -/

def State.dirEnt (s : State) (k : Nat) : Option DirEnt := kget k s.coh.dir
/-- Directory entries in use for a domain (R371). -/
def cohCount (s : State) (dom : Nat) : State :=
  s.wr XLT_COH_STAT.ENTRIES (s.coh.dir.filter fun e => domOf e.1 == dom && (e.2.owner.isSome || e.2.sharers != [] || e.2.tx.isSome)).length dom
def setDir (s : State) (k : Nat) (e : DirEnt) : State :=
  let c := s.coh.clock + 1
  cohCount { s with coh := { s.coh with clock := c, dir := kput k { e with used := c } s.coh.dir } } (domOf k)
def delDir (s : State) (k : Nat) : State := cohCount { s with coh := { s.coh with dir := kdel k s.coh.dir } } (domOf k)

/-- Sets of a slice's directory: the share that SLC_NEAR_SIZE leaves, 16 ways of 16 bytes (R351, 04 R178). -/
def dirSets (s : State) (sl : Nat) : Nat := (48 - clampN 16 48 (s.rd SLC_NEAR_SIZE.NEAR_MIB sl)) * 4096

/-- Members that an invalidation addresses: the sharers, or in coarse mode every index a set bit covers (R352). -/
def sharerList (s : State) (dom : Nat) (e : DirEnt) : List Nat :=
  if e.coarse then (List.range (s.rd XLT_COH_CFG.NMEMB dom)).filter fun i => e.sharers.any fun x => x / 4 == i / 4
  else e.sharers

/-- What an entry holds. -/
def DirEnt.holding (e : DirEnt) : Holding := ⟨e.owner, e.isO, e.sharers, e.coarse⟩

/-- An entry that holds what another one did. -/
def DirEnt.hold (e : DirEnt) (h : Holding) : DirEnt :=
  { e with owner := h.owner, isO := h.isO, sharers := h.sharers, coarse := h.coarse }

/-- A line that no member holds, and one that its owner alone holds. -/
def DirEnt.none_ (e : DirEnt) : DirEnt := e.hold ⟨none, false, [], false⟩
def DirEnt.only (e : DirEnt) (agent : Nat) : DirEnt := e.hold ⟨some agent, false, [], false⟩

/-- A member has given the line up: what the entry held before a transaction follows. -/
def Holding.gone (h : Holding) (agent : Nat) : Holding :=
  if h.owner = some agent then { h with owner := none, isO := false } else h

/-- A sharer joins; the eighth turns the entry to coarse mode (R352). -/
def addSharer (e : DirEnt) (a : Nat) : DirEnt :=
  let l := sput a e.sharers
  { e with sharers := l, coarse := e.coarse || decide (7 < l.length) }

/-! ## Messages (R355, R356) -/

/-- Sends a coherence message to an agent of a domain. -/
def cohSend (s : State) (dom agent opc tc red key ctag a : Nat) (poison : Bool) (pay : List Byte) : State :=
  match memberNode s dom agent with
  | none => s
  | some n =>
    let (s, q) := nextSeq s key n
    originate s (s.rd XLT_COH_CFG.PART dom)
      (mkPkt { dst := n, src := nodeId s, tc := tc, opc := opc, len := pay.length / 64, addr := a, red := red,
               flags := if poison then 8 else 0, space := s.rd XLT_COH_CFG.DSPACE dom, seq := q % 2 ^ 16, ctag := ctag,
               key := key } pay)

/-- COH_INVAL to an agent. -/
def sendInval (s : State) (k tag agent : Nat) : State := cohSend s (domOf k) agent 0x16 1 0 0 tag (lineOf k * 64) false []

/-- COH_FWD to an owner: the node and tag that the data goes to, and its KIND (R356). -/
def sendFwd (s : State) (k tag agent rnode rtag kind : Nat) : State :=
  cohSend s (domOf k) agent 0x14 1 0 0 tag (lineOf k * 64) false (lineOfWords [rnode + rtag * 2 ^ 16 + kind * 2 ^ 32])

/-- COH_FWD_DATA to a requester, granting S, E or M, or nothing with poison (R355, R361). -/
def sendGrant (s : State) (k agent : Nat) (req : Pkt) (grant : Nat) (poison : Bool) (data : List Byte) : State :=
  cohSend s (domOf k) agent 0x15 2 grant (pKey req) (pCtag req) (lineOf k * 64) poison data

/-- COH_ACK to a member, with a code of R357. -/
def sendCohAck (s : State) (k agent : Nat) (req : Pkt) (code : Nat) : State :=
  cohSend s (domOf k) agent 0x17 2 code (pKey req) (pCtag req) (lineOf k * 64) false []

/-- A coherence NAK "retry after", counted (R362). -/
def cohNak (s : State) (dom : Nat) (req : Pkt) (delay : Nat) : State :=
  sendNak (s.count XLT_COH_CNT.NAKS dom) (s.rd XLT_COH_CFG.PART dom) req 1 delay 0

/-! ## Waiting -/

/-- Lets every holder that waits for a transaction of a domain go on. -/
def cohWakeDom (s : State) (dom : Nat) : State :=
  rewait s (fun w => match w with
    | .coh k => domOf k == dom
    | _ => false) (.wait .run) .run

/-- Lets every holder that waits for a line's transaction go on. -/
def cohWake (s : State) (k : Nat) : State := rewait s (· == .coh k) (.wait .run) .run

/-- A transaction ends: the line is open to the next request, reserved for the first listed requester; an entry that
holds nothing goes (R360 step 7, R362). -/
def cohEnd (s : State) (k : Nat) (e : DirEnt) : State :=
  let e := { e with tx := none, resv := e.waiters.head?, waiters := e.waiters.tail }
  let t := if e.owner = none ∧ e.sharers = [] ∧ e.resv = none then delDir s k else setDir s k e
  cohWake t k

/-- Lists a member's request that a busy or reserved line turns away, and its delay (R362). -/
def cohList (s : State) (k : Nat) (e : DirEnt) (agent : Nat) (req : Pkt) : State :=
  let b := atLeast1 (s.rd XLT_COH_CFG.BACKOFF (domOf k))
  match e.waiters.idxOf? agent with
  | some i => cohNak s (domOf k) req ((i + 1) * b)
  | none =>
    if e.waiters.length < 8 then
      let t := { s with coh := { s.coh with dir := kput k { e with waiters := e.waiters ++ [agent] } s.coh.dir } }
      cohNak t (domOf k) req ((e.waiters.length + 1) * b)
    else cohNak s (domOf k) req (8 * b)

/-! ## Transactions (R359, R360) -/

def nextTag (s : State) : State × Nat :=
  ({ s with coh := { s.coh with nextTag := (s.coh.nextTag + 1) % 65536 } }, s.coh.nextTag)

/-- The home slice of a line that a domain caches. -/
def cohHome (s : State) (key pl : Nat) : Nat := s.homeSlice (s.rd XLT_COH_CFG.PART (domOf key)) (pl * 64)

def waitKey (w : Wait) : Option Nat :=
  match w with
  | .coh k => some k
  | _ => none

def lineKey (l : LineSt) : Option Nat :=
  match l with
  | .wait w => waitKey w
  | _ => none

/-- The accesses that wait in the transaction table, each with the line whose transaction it waits for (R353, R363). -/
def cohWaits (s : State) : List (Holder × Nat) :=
  (s.reqs.flatMap fun r => (r.lines.filterMap lineKey).map fun k => (Holder.req r.id, k)) ++
  (s.started.filterMap fun d => (waitKey d.wait).map fun k => (Holder.desc d.ring d.idx, k)) ++
  (s.sets.filterMap fun x => (waitKey x.2.wait).map fun k => (Holder.set x.1, k)) ++
  (s.arming.filterMap fun a => (waitKey a.wait).map fun k => (Holder.arm a.obj, k)) ++
  s.loads.filterMap fun l => (waitKey l.2.wait).map fun k => (Holder.load l.1, k)

/-- Whether an access that waits at a slice has a transaction entry of its own: it opened none of those that are open. -/
def waitsOwn (s : State) (sl : Nat) (w : Holder × Nat) : Bool :=
  match s.dirEnt w.2 with
  | some e => cohHome s w.2 e.pl == sl && match e.tx with
    | some tx => tx.reader != some w.1
    | none => true
  | none => false

/-- Transaction entries in use at a slice: open transactions, and accesses that wait for one (R354). -/
def txCount (s : State) (sl : Nat) : Nat :=
  (s.coh.dir.filter fun e => e.2.tx.isSome && cohHome s e.1 e.2.pl == sl).length + ((cohWaits s).filter (waitsOwn s sl)).length

/-- Whether a slice has `n` transaction entries free. -/
def txRoom (s : State) (sl n : Nat) : Bool := decide (txCount s sl + n ≤ 1024)

/-- Where the owner sends the data of a COH_FWD of kind `fk`: to the requester, or to the home for kinds 2 and 3. -/
def fwdNode (s : State) (req : Option Pkt) (fk : Nat) : Nat :=
  if fk ≥ 2 then nodeId s
  else match req with
    | some r => pSrc r
    | none => nodeId s

/-- The CTAG under which it sends them. -/
def fwdTag (req : Option Pkt) (tag fk : Nat) : Nat :=
  if fk ≥ 2 then tag
  else match req with
    | some r => pCtag r
    | none => tag

/-- Opens a transaction of an entry that held `was`: invalidations to `inv`, then a COH_FWD to the owner when `fwd` asks for
one, then invalidations to `later`. -/
def openTx (s : State) (k : Nat) (e : DirEnt) (was : Holding) (kind : CohKind) (agent : Nat) (req : Option Pkt) (port : Nat)
    (reader : Option Holder) (inv : List Nat) (fwd : Option (Nat × Nat)) (later : List Nat := []) : State :=
  let (s, tag) := nextTag s
  let now := inv.isEmpty
  let tx : CohTx :=
    { kind, agent, req, port, reader, acks := inv, fwd := if now then fwd.map (·.1) else none,
      fwdKind := (fwd.map (·.2)).getD 0, thenFwd := !now && fwd.isSome, thenInv := later, wb := false, ans := none,
      data := none, done := false, early := false, was, tag }
  let t := setDir s k { e with tx := some tx }
  let t := inv.foldl (fun t a => sendInval t k tag a) t
  match fwd with
  | some (w, fk) => if now then sendFwd t k tag w (fwdNode s req fk) (fwdTag req tag fk) fk else t
  | none => t

/-- Sets the transaction of an entry. -/
def setTx (s : State) (k : Nat) (e : DirEnt) (tx : CohTx) : State := setDir s k { e with tx := some tx }

/-- The home serves a requester from memory, or tells what the read waits for. The requester then owes DONE. A line
that reads as poison grants nothing, and the entry stays as it was before the request (R361). -/
def grantFromHome (s : State) (k : Nat) (e : DirEnt) (tx : CohTx) (req : Pkt) : State :=
  match s.extentOfLine e.pl with
  | none => cohEnd (sendErr s 0 req 2 0) k e
  | some (b, x) =>
    match tierRead s b x e.pl (if tx.kind = .rdShared then 4 else 5) (s.rd XLT_COH_CFG.DSPACE (domOf k)) (x.part * 4) with
    | (t, .okL d) =>
      let shared := decide (tx.kind = .rdShared ∧ (e.sharers ≠ [] ∨ e.owner ≠ none))
      let e' := if shared then addSharer e tx.agent else e.only tx.agent
      setTx (sendGrant t k tx.agent req (if shared then 1 else 2) false d) k e' { tx with done := true, fwd := none }
    | (t, .wait _) => setTx t k e tx
    | (t, _) => cohEnd (sendGrant t k tx.agent req 0 true (List.replicate 64 0)) k (e.hold tx.was)

/-- Nothing that a transaction waits for is open any more: the upgrade or the data from home, the invalidations that follow
a recall, or its end (R359). -/
def cohServeHome (s : State) (k : Nat) (e : DirEnt) (tx : CohTx) : State :=
  match tx.kind, tx.req with
  | .upgrade, some req => setTx (sendCohAck s k tx.agent req 5) k (e.only tx.agent) { tx with done := true }
  | .rdShared, some req => grantFromHome s k e tx req
  | .rdOwn, some req => grantFromHome s k e.none_ tx req
  | .read, _ => cohEnd s k e
  | _, _ =>
    if tx.thenInv = [] then cohEnd s k e.none_
    else tx.thenInv.foldl (fun t a => sendInval t k tx.tag a) (setTx s k e { tx with acks := tx.thenInv, thenInv := [] })

/-- Carries a transaction on when nothing it waits for is open any more (R359, R360 step 5). -/
def cohAdvance (s : State) (k : Nat) : State :=
  match s.dirEnt k with
  | none => s
  | some e => match e.tx with
    | none => s
    | some tx =>
      if tx.acks ≠ [] ∨ tx.wb ∨ tx.done then s
      else if tx.fwd.isSome then s
      else match e.owner with
        | some w =>
          if tx.thenFwd then
            sendFwd (setTx s k e { tx with thenFwd := false, fwd := some w }) k tx.tag w (fwdNode s tx.req tx.fwdKind)
              (fwdTag tx.req tx.tag tx.fwdKind) tx.fwdKind
          else cohServeHome s k e tx
        | none => cohServeHome s k e { tx with thenFwd := false }

/-- The owner's answer to a COH_FWD decides the entry and what comes next (R358, R359). -/
def fwdAnswered (s : State) (k : Nat) (e : DirEnt) (tx : CohTx) (w code : Nat) : State :=
  let tx := { tx with fwd := none, ans := some code, was := if code = 1 then tx.was.gone w else tx.was }
  let noOwner := { e with owner := none, isO := false }
  if code = 1 then cohAdvance (setTx s k noOwner tx) k
  else if code = 7 then setTx s k e { tx with wb := true }
  else match tx.kind with
    | .rdShared =>
      let e' := addSharer (if code = 2 then addSharer noOwner w else { e with isO := true }) tx.agent
      if tx.early then cohEnd s k e' else setTx s k e' { tx with done := true }
    | .rdOwn | .upgrade =>
      let e' := e.only tx.agent
      if tx.early then cohEnd s k e' else setTx s k e' { tx with done := true }
    | .read =>
      let e' := if code = 2 then addSharer noOwner w else { e with isO := true }
      match tx.data with
      | some (d, p) =>
        let h := tx.reader.getD (.desc 0 0)
        cohEnd { s with coh := { s.coh with ready := s.coh.ready ++ [(h, k, d, p)] } } k e'
      | none => setTx s k e' { tx with fwd := some w }
    | _ =>
      match tx.data with
      | some _ => cohAdvance (setTx s k noOwner tx) k
      | none => setTx s k noOwner { tx with fwd := if code = 4 then some w else none }

/-! ## Teardown (R364, R365) -/

/-- A member's recall of an entry (R353): `inv` are invalidated and the owner `own` is asked for its line. -/
def recallTx (s : State) (k : Nat) (e : DirEnt) (inv : List Nat) (own : Option Nat) : State :=
  let inv := inv.filter fun a => own != some a
  let (s, tag) := nextTag s
  let t := inv.foldl (fun t a => sendInval t k tag a) s
  let t := match own with
    | some w => sendFwd t k tag w (nodeId t) tag 3
    | none => t
  setDir t k { e with tx := some { kind := .recall, agent := 0, req := none, port := 0, reader := none, acks := inv, fwd := own,
                                   fwdKind := 3, thenFwd := false, thenInv := [], wb := false, ans := none, data := none,
                                   done := false, early := false, was := e.holding, tag } }

/-- Recalls a line: COH_INVAL to each sharer, RECALL to an owner (R353). -/
def recallLine (s : State) (k : Nat) (e : DirEnt) : State := recallTx s k e (sharerList s (domOf k) e) e.owner

/-- Completes a teardown when no snoop of the domain is open any more (R365 steps 4 and 5). -/
def teardownDone (s : State) (dom : Nat) : State :=
  match kget dom s.coh.down with
  | none => s
  | some (cause, failed) =>
    if s.coh.dir.any fun e => domOf e.1 == dom && e.2.tx.isSome then s
    else
      let t := { s with coh := { s.coh with dir := s.coh.dir.filter (fun e => domOf e.1 != dom), down := kdel dom s.coh.down } }
      let t := cohCount (cohWakeDom t dom) dom
      let fv := decide (failed < 256)
      let t := (((t.wr XLT_COH_CTL.STATE (if cause = 4 then 0 else 3) dom).wr XLT_COH_CTL.CAUSE cause dom).wr
        XLT_COH_CTL.FAILED (if fv then failed else 0) dom).wr XLT_COH_CTL.FAILED_V (b2n fv) dom
      let p := t.rd XLT_COH_CFG.PART dom
      let a0 := dom + cause * 256
      let a1 := (if fv then failed + 256 else 0) + t.rd XLT_COH_CTL.GEN dom * 2 ^ 16
      let a2 := t.rd XLT_COH_STAT.POISONED dom
      let ev := wordsToBytes (eventWords p 0x0701 a0 a1 a2 t.now) ++ List.replicate 32 0
      let t := evPf0 (evPart t p 0x0701 a0 a1 a2) 0x0701 a0 a1 a2 p
      (List.range (t.rd XLT_COH_CFG.NMEMB dom)).foldl (fun t i =>
        if i = failed then t
        else match memberNode t dom i with
          | none => t
          | some n =>
            let (t, q) := nextSeq t 0 n
            originate t p (mkPkt { dst := n, src := nodeId t, tc := 6, opc := 0x0A, len := 1, flags := 4,
                                   seq := q % 2 ^ 16, ctag := q / 2 ^ 16 } ev)) t

/-- Poisons a domain's line and counts it (R365 step 2). -/
def cohPoison (s : State) (dom pl : Nat) : State := (s.poisonLine pl).count XLT_COH_STAT.POISONED dom

/-- The open transaction of an entry ends toward its requester (R365 step 1). -/
def txRefused (t : State) (dom : Nat) (e : DirEnt) : State :=
  match e.tx.bind (·.req) with
  | some req => sendErr t (t.rd XLT_COH_CFG.PART dom) req 11 0
  | none => t

/-- One entry at a teardown: its open transaction ends toward its requester, and its line is recalled, invalidated or
poisoned. The failed agent receives no snoop, and under cause 5 nobody does (R365 steps 1 and 2). -/
def teardownEnt (dom cause failed : Nat) (t : State) (ke : Nat × DirEnt) : State :=
  let (k, e) := ke
  let t := txRefused t dom e
  let lost : Bool := match e.owner with
    | some w => w == failed || cause == 5
    | none => false
  let t := if lost then cohPoison t dom e.pl else t
  let inv := if cause = 5 then [] else (sharerList t dom e).filter (· != failed)
  let own := if lost ∨ cause = 5 then none else e.owner
  if inv.filter (fun a => own != some a) = [] ∧ own = none then cohWake (delDir t k) k
  else recallTx t k { e with waiters := [], resv := none } inv own

/-- Begins a teardown (R365 steps 1 to 3). `poisoned` lines were poisoned before its walk. -/
def teardown (s : State) (dom cause failed : Nat) (poisoned : Nat := 0) : State :=
  if ¬ cohUp s dom then s
  else
    let t := (s.wr XLT_COH_CTL.STATE 2 dom).wr XLT_COH_STAT.POISONED (min poisoned (2 ^ 32 - 1)) dom
    let t := { t with coh := { t.coh with down := kput dom (cause, failed) t.coh.down } }
    teardownDone ((t.coh.dir.filter fun e => domOf e.1 == dom).foldl (teardownEnt dom cause failed) t) dom

/-- Every domain of a partition is torn down (R364 causes 3 and 5). -/
def teardownPart (s : State) (p cause : Nat) : State :=
  (List.range 64).foldl (fun s d => if cohUp s d && s.rd XLT_COH_CFG.PART d == p then teardown s d cause 0x100 else s) s

/-- The domains that a directory entry of slice `sl` that reads as uncorrectable belongs to go down with cause 6: those of the
line's entries (R364). -/
def dirEntBad (s : State) (sl pl : Nat) : State :=
  (s.coh.dir.filter fun e => e.2.pl == pl && cohHome s e.1 e.2.pl == sl).foldl (fun t e => teardown t (domOf e.1) 6 0x100) s

/-- Pool lines of a domain's extents that a slice homes. -/
def cohLines (s : State) (dom sl : Nat) : List Nat :=
  (s.extents.filter fun e => e.2.coh && e.2.dom == dom).flatMap fun e =>
    ((List.range (e.2.lenG * 2 ^ 24)).map (e.1 * 2 ^ 24 + ·)).filter fun l => s.homeSlice e.2.part (l * 64) == sl

/-- A domain is torn down with cause 3 while slice `sl` cannot read its directory: every line of the domain's extents that
the slice homes is poisoned, and none of its entries is walked (R365). -/
def teardownBlind (sl : Nat) (s : State) (dom : Nat) : State :=
  let t := (s.coh.dir.filter fun e => domOf e.1 == dom && cohHome s e.1 e.2.pl == sl).foldl
    (fun t e => cohWake (delDir (txRefused t dom e.2) e.1) e.1) s
  teardown ((cohLines s dom sl).foldl State.poisonLine t) dom 3 0x100 (cohLines s dom sl).length

/-- A slice of a partition cannot read its directory. -/
def dirUnreadable (s : State) (p sl : Nat) : State :=
  ((List.range 64).filter fun d => cohUp s d && s.rd XLT_COH_CFG.PART d == p).foldl (teardownBlind sl) s

/-- Makes room in the set of a new entry: none of its ways free means a victim is recalled and the request waits for
it in the transaction table, or, when all are BUSY, or the table or the directory has no room at all, is turned away (R353,
R354, 04 R178). -/
inductive DirRoom where
  | free
  | waitFor (s : State) (k : Nat)
  | busy

def dirRoom (s : State) (k pl : Nat) : DirRoom :=
  let sl := cohHome s k pl
  let set := fun (x : Nat) => Config.dirSet x % dirSets s sl
  let ways := s.coh.dir.filter fun e => cohHome s e.1 e.2.pl == sl && set e.1 == set k
  if dirSets s sl = 0 then .busy
  else if ways.length < 16 then .free
  else if ¬ txRoom s sl 2 then .busy
  else
    let idle := ways.filter fun e => e.2.tx.isNone
    match argMin (fun (e : Nat × DirEnt) => (if e.2.owner.isNone then e.2.sharers.length else 2 ^ 16) * 2 ^ 64 + e.2.used) idle with
    | some v => .waitFor (recallLine (s.count XLT_COH_CNT.DIR_RECALLS (domOf v.1)) v.1 v.2) v.1
    | none => .busy

/-! ## Non-coherent accesses (R359, R363) -/

/-- What a non-coherent access to a coherent line meets. -/
inductive CohStep where
  /-- Memory serves it. -/
  | memory (s : State)
  | data (s : State) (d : List Byte) (poison : Bool)
  /-- It waits for the line's transaction. -/
  | wait (s : State)
  /-- The transaction table is full: it is turned away (R354). -/
  | full (s : State) (delay : Nat)

/-- Delay of a request that no waiting list holds (R362). -/
def cohFullDelay (s : State) (dom : Nat) : Nat := 8 * atLeast1 (s.rd XLT_COH_CFG.BACKOFF dom)

/-- An access takes a transaction entry of a line's home for what it opens, or is turned away and counted (R354, R362). -/
def withEntry (s : State) (k pl : Nat) (t : State) : CohStep :=
  if txRoom s (cohHome s k pl) 1 then .wait t else .full (s.count XLT_COH_CNT.NAKS (domOf k)) (cohFullDelay s (domOf k))

/-- A non-coherent read, full-line write (kind `.write`) or atomic of a coherent line (R359). A line whose recall a teardown
awaits is BUSY as any other (R363); once that is over, memory serves it (R366). -/
def cohAccess (s : State) (k : Nat) (who : Holder) (kind : CohKind) : CohStep :=
  match s.coh.ready.find? fun r => r.1 == who && r.2.1 == k with
  | some r => .data { s with coh := { s.coh with ready := s.coh.ready.filter (· != r) } } r.2.2.1 r.2.2.2
  | none => match s.dirEnt k with
    | none => .memory s
    | some e =>
      match e.tx with
      | some _ => withEntry s k e.pl s
      | none =>
        let sh := sharerList s (domOf k) e
        let go := fun (kind : CohKind) inv fwd later =>
          withEntry s k e.pl (openTx s k e e.holding kind 0 none 0 (some who) inv fwd later)
        match kind, e.owner with
        | .read, none => .memory s
        | .read, some w => go .read [] (some (w, 2)) []
        | .write, some w => go .write (sput w sh) none []
        | .write, none => if sh = [] then .memory s else go .write sh none []
        | _, some w => go .atomic [] (some (w, 3)) (sh.filter (· != w))
        | _, none => if sh = [] then .memory s else go .atomic sh none []

end Sys2Proof.Machine
end

