-- ==== Sys2Proof/Machine/Access.lean ====
section
/-!
DEFINITION. Sys2Proof/Machine/Access.lean: one line read or written for any requester, from the space lookup to the
tier (01 R47, R48): windows, translation, rights, ownership, coherence, convert-on-read views (05 R254 to R257).
-/
namespace Sys2Proof.Machine

/-! ## Arithmetic settings and flags (05 R238 to R240) -/

/-- The counter after a piece of arithmetic drew from it. -/
def arithDone (s : State) (a : AEnv) : State := { s with fresh := a.c }

/-- ORs flags into a partition's status, with event 0x0401 for each flag newly set where `exc`, the EXC_EVENT that the
work began with, asks for it (05 R239, R240, R258). -/
def arithFlags (s : State) (exc : Bool) (p fl arg0 arg1 : Nat) : State :=
  let old := s.rd PRT_ARITH_STAT.FLAGS p
  let new := fl &&& (31 - old)
  let t := s.wr PRT_ARITH_STAT.FLAGS (old ||| fl) p
  if new ≠ 0 ∧ exc then evPart t p 0x0401 arg0 arg1 new else t

/-! ## Scopes that turn requests away (11 R450) -/

/-- Whether a scope is closed by containment. -/
def scopeShut (s : State) (level i : Nat) : Bool := s.ctl.closed.contains (level * 1024 + i)

/-- POOL_RETRY in 100 ns units (11 R454). -/
def poolRetry (s : State) : Nat := atLeast1 (s.rd XRD_CFG2.POOL_RETRY)

/-- The delay a request meets at a scope that is reset or asleep (11 R450, 01 R35). -/
def shutDelay (s : State) (p sl : Nat) : Option Nat :=
  if scopeShut s 5 0 then some (poolRetry s)
  else if scopeShut s 4 (sl / 4) ∨ scopeShut s 3 p ∨ scopeShut s 2 sl then some (retryDelay s p)
  else if s.ctl.asleep.contains (5 * 1024) ∨ s.ctl.asleep.contains (4 * 1024 + sl / 4) then some (poolRetry s)
  else none

/-- The delay that a joined space meets while a member partition's failure is contained: it reaches the whole joined space
(01 R33). -/
def joinedShut (s : State) (slot : Nat) : Option Nat :=
  if s.on XLT_SPACE_LO.JOINED slot then
    (List.range 16).findSome? fun i =>
      let p := fld (s.rdReg XLT_SPACE_HI.reg slot 0 0) (4 * i) 4
      if s.partOn p ∧ (scopeShut s 4 (s.wardOf p) ∨ scopeShut s 3 p) then some (retryDelay s p) else none
  else none

/-- The delay that a line of a space meets at a scope that is reset or asleep. -/
def lineDelay (s : State) (slot p sl : Nat) : Option Nat := (shutDelay s p sl).orElse fun _ => joinedShut s slot

/-- The partition and the delay of a line of the space in a slot that lies in a shut scope. -/
def shutAt (s : State) (slot a : Nat) : Option (Nat × Nat) :=
  let p := s.spacePart slot a
  if s.partOn p then (lineDelay s slot p (s.homeSlice p a)).map fun d => (p, d) else none

/-- Whether a partition's scope, or one that holds it, is closed or asleep. -/
def partShut (s : State) (p : Nat) : Bool :=
  scopeShut s 5 0 || scopeShut s 4 (s.wardOf p) || scopeShut s 3 p ||
  s.ctl.asleep.contains (5 * 1024) || s.ctl.asleep.contains (4 * 1024 + s.wardOf p)

/-- Entries of a sleep, which are no resets: 9 DOZE, 12 QUIET. -/
def isSleep (k : Nat) : Bool := k == 9 || k == 12

/-- Whether the Curfew of an entry to QUIET runs (16 R598). -/
def quieting (s : State) : Bool := s.ctl.rsts.any (·.kind == 12)

/-- Whether the scope that owns a ring is closed or asleep: it fetches no more and starts nothing, and its started
descriptors run to their end (16 R598 steps 1 and 2). -/
def ringShut (s : State) (r : Nat) : Bool :=
  quieting s || (if ringOwner s r < 16 then partShut s (ringOwner s r) else scopeShut s 5 0 || s.ctl.asleep.contains (5 * 1024))

/-- The delay a line of a request meets at a closed scope. What was admitted before the scope closed goes on
(16 R598 step 2): packet requests are turned away as they arrive. -/
def lineShut (s : State) (slot : Nat) (q : LReq) (sl : Nat) : Option Nat :=
  match q.who with
  | .desc r _ => if ringShut s r then none else lineDelay s slot q.part sl
  | _ => none

/-! ## Resolving a line -/

/-- What a line request resolves to: its extent, pool line and, for a coherent extent, the line's key. -/
structure Res where
  base : Nat
  ext : Ext
  line : Nat
  coh : Option Nat
deriving DecidableEq, Repr

/-- The partition that a tag and address resolve to, if the space is live and that partition enabled (02 R72, R76). -/
def resolvePart (s : State) (tag a : Nat) : Option (Nat × Nat) :=
  match s.spaceSlot tag with
  | none => none
  | some sl => if s.partOn (s.spacePart sl a) then some (sl, s.spacePart sl a) else none

/-- The enabled view of partition `p` whose window holds an address, with the window's line number (05 R255, R256). -/
def viewOf (s : State) (p tag a : Nat) : Option (Nat × Nat) :=
  ((List.range 16).filterMap fun k =>
    let c := s.rdReg PRT_COR_CTL.reg p k 0
    let lo := s.rd PRT_COR_VIEW.VIEW_BASE p k
    let lines := s.rd PRT_COR_CTL.LEN p k * convLines (s.rd PRT_COR_CTL.SFMT p k) (s.rd PRT_COR_CTL.VFMT p k) 1024
    if c != 0 ∧ s.on PRT_COR_CTL.EN p k ∧ s.rd PRT_COR_STORE.SPACE p k = tag ∧ lo ≤ a ∧ a < lo + lines * 64
    then some (k, (a - lo) / 64) else none).head?

/-- The view that a line request falls in as it is looked up now, with what R258 keeps of it. -/
def viewNow (s : State) (q : LReq) : Option ViewSnap :=
  if q.inner then none
  else (viewOf s q.part q.tag q.addr).map fun v =>
    { k := v.1, n := v.2, sfmt := s.rd PRT_COR_CTL.SFMT q.part v.1, vfmt := s.rd PRT_COR_CTL.VFMT q.part v.1,
      rnd := s.on PRT_COR_CTL.RND q.part v.1, base := s.rd PRT_COR_STORE.STORE_BASE q.part v.1,
      sat := s.on PRT_ARITH_CFG.SAT_NARROW q.part, exc := s.on PRT_ARITH_CFG.EXC_EVENT q.part }

/-- The access of a line request is under way, with what its lookup found: a request looked up before goes on with that
(02 R75, 05 R257). -/
def noteFlight (s : State) (slot : Nat) (q : LReq) : State :=
  match flightOf s q with
  | some _ => s
  | none =>
    { s with nextFlight := s.nextFlight + 1,
             flights := s.flights ++ [⟨s.nextFlight, q.who, q.tag, q.addr, q.need, slot, q.part, viewNow s q, none, false⟩] }

/-- The view of a line request whose access is under way. -/
def viewAt (s : State) (q : LReq) : Option ViewSnap := (flightOf s q).bind (·.view)

/-- The slot and partition that a line request resolves to: as it was looked up, or looked up now (02 R72, R75). -/
def lookFor (s : State) (q : LReq) : Option (Nat × Nat) :=
  match flightOf s q with
  | some f => some (f.slot, f.part)
  | none => resolvePart s q.tag q.addr

/-- From pool physical address to extent: ownership, region extents and coherent extents (02 R86, 08 R325, 09 R346). -/
def resolvePa (s : State) (q : LReq) (pa : Nat) : State × Except LineSt Res :=
  match ownership s q pa with
  | (t, .error l) => (t, .error l)
  | (t, .ok (b, e)) =>
    let writes := decide (q.need &&& 6 ≠ 0)
    if writes && isRegionExtent t e.part b then
      let (u, l) := denied t q
      (u, .error l)
    else if e.coh ∧ (t.rd XLT_COH_CFG.DSPACE e.dom ≠ q.tag ∨ q.need.testBit 2) then
      let (u, l) := denied t q
      (u, .error l)
    else (t, .ok ⟨b, e, pa / 64, if e.coh then some (cohKey e.dom q.addr) else none⟩)

/-- Resolves one line of a request that is under way and not yet translated: scopes that are shut, windows, translation,
rights, ownership (01 R47 step 5). Whatever is no read of a view's window does not reach the pages under it (05 R257). -/
def resolveNew (s : State) (slot : Nat) (q : LReq) : State × Except LineSt Res :=
  let sl := s.homeSlice q.part q.addr
  match lineShut s slot q sl with
  | some d => (s, .error (.nakL 1 d))
  | none =>
    let writes := decide (q.need &&& 6 ≠ 0)
    let reg := regionOf s q.part q.tag q.addr
    if (viewAt s q).isSome || (writes && reg.isSome) then
      let (u, l) := denied s q
      (u, .error l)
    else match reg with
      | some (r, off) =>
        match regionRead s q.part r off with
        | none => (if q.seen.contains 13 then s else s.count PRT_RGN_CNT.NO_VERSION q.part, .error (.errL 13))
        | some pa => resolvePa s q pa
      | none =>
        match translate s sl slot q.tag q.addr q.access with
        | (t, .ok pa rights) =>
          if q.need &&& rights ≠ q.need then
            let (u, l) := denied t q
            (u, .error l)
          else resolvePa t q pa
        | (t, .fault) =>
          let (u, l) := joinFault t q
          (u, .error l)
        | (t, .tableFault pa) => (pf0XltRecord t q 2 pa, .error (.errL 4))
        | (t, .tablePoison pa) => (pf0XltRecord t q 3 pa, .error .poisonL)
        | (t, .wait w) => (t, .error (.wait w))

/-- What a translated access resolves to, with its extent as it now stands (08 R327); one whose lifetime has run out ends
with poison (02 R95). -/
def resolveOld (s : State) (f : Flight) (r : Nat × Nat × Option Nat) : Except LineSt Res :=
  if f.poison then .error .poisonL
  else match s.ext r.1 with
    | some e => .ok ⟨r.1, e, r.2.1, r.2.2⟩
    | none => .error (.nakL 2 0)

/-- Resolves one line of a request whose slot and partition are known. A request that has been translated goes on with
that translation (02 R75, R94). -/
def resolveLine (s : State) (slot : Nat) (q : LReq) : State × Except LineSt Res :=
  match (flightOf s q).bind fun f => f.res.map (resolveOld s f) with
  | some r => (s, r)
  | none => match resolveNew (noteFlight s slot q) slot q with
    | (t, .ok r) => (setFlight t q (r.base, r.line, r.coh), .ok r)
    | x => x

/-! ## Reading and writing a line -/

/-- Lines that wait for a channel (13 R502). -/
def chanWaiters (s : State) (c : Nat) : Nat :=
  s.reqs.foldl (fun n r => n + (r.lines.filter (· == .wait (.chan c))).length) 0

/-- A packet line that would wait for a channel with 16,384 lines held is NAKed instead (13 R502). -/
def capWait (s : State) (q : LReq) (l : LineSt) : LineSt :=
  match l with
  | .wait (.chan c) =>
    if q.firstRing ∨ chanWaiters s c < 16384 then l else .nakL 1 (retryDelay s q.part)
  | l => l

/-- A descriptor that reaches a line holds a fence token of its extent from then on (02 R120), and a move pin on its 4 KiB
block as one of the 64 that it touched last (04 R197). -/
def noteTouch (s : State) (who : Holder) (b line : Nat) : State :=
  match who with
  | .desc r d =>
    { s with started := s.started.map fun x => if x.ring = r ∧ x.idx = d then
        { x with touch := sput b x.touch, win := (line / 64 :: x.win.filter (· != line / 64)).take 64 } else x }
  | _ => s

/-- Whether a descriptor must wait before it touches a line: a move of its block that was under way when the descriptor
started still is (04 R197). -/
def moveWaits (s : State) (who : Holder) (line : Nat) : Bool :=
  match who with
  | .desc r d => s.started.any fun x => x.ring == r && x.idx == d && x.moves.contains (line / 64)
  | _ => false

/-- Reads one resolved line: through coherence when its extent is coherent, then from its tier. -/
def readRes (s0 : State) (q : LReq) (r : Res) : State × LineSt :=
  if moveWaits s0 q.who r.line then (s0, .wait (.fill (r.line / 64))) else
  let s := noteTouch s0 q.who r.base r.line
  match r.coh with
  | none =>
    let (t, l) := tierRead s r.base r.ext r.line q.access q.tag (chargeOf s q false)
    (t, capWait t q l)
  | some k => match cohAccess s k q.who .read with
    | .memory t =>
      let (u, l) := tierRead t r.base r.ext r.line q.access q.tag (chargeOf s q false)
      (u, capWait u q l)
    | .data t d p => (t, if p then .poisonL else .okL d)
    | .wait t => (t, .wait (.coh k))
    | .full t d => (t, .nakL 1 d)

/-- Writes one resolved line whole (01 R48 steps 6 to 8). -/
def writeRes (s0 : State) (q : LReq) (r : Res) (data : List Byte) : State × LineSt :=
  if moveWaits s0 q.who r.line then (s0, .wait (.fill (r.line / 64))) else
  let s := noteTouch s0 q.who r.base r.line
  match r.coh with
  | none =>
    let (t, l) := tierWrite s r.base r.ext r.line (chargeOf s q true) data
    (t, capWait t q l)
  | some k => match cohAccess s k q.who .write with
    | .memory t =>
      let (u, l) := tierWrite t r.base r.ext r.line (chargeOf s q true) data
      (u, capWait u q l)
    | .data t _ _ => (t, .wait .run)
    | .wait t => (t, .wait (.coh k))
    | .full t d => (t, .nakL 1 d)

/-- Reads a line that is no view line. -/
def readPlain (s : State) (slot : Nat) (q : LReq) : State × LineSt :=
  match resolveLine s slot q with
  | (t, .error l) => (t, capWait t q l)
  | (t, .ok r) => readRes t q r

/-- Reads stored lines one after another; the first that is not served decides. -/
def readLines (s : State) (slot : Nat) (q : LReq) : List Nat → List Byte → State × LineSt
  | [], acc => (s, .okL acc)
  | a :: as, acc =>
    match readPlain s slot { q with addr := a } with
    | (t, .okL d) => readLines t slot q as (acc ++ d)
    | r => r

/-- Elements of the tile that an MX line of the view depends on: first and count (05 R256). -/
def viewElems (vf n : Nat) : Nat × Nat :=
  if isMx vf then
    let t := n / tileLines vf
    let r := n % tileLines vf
    let bb := 4 * fmtBits vf
    if r = tileElemLines vf then (t * 2048, 2048)
    else
      let b0 := 64 * r / bb
      let b1 := (64 * r + 63) / bb
      (t * 2048 + 32 * b0, 32 * (b1 - b0 + 1))
  else (n * (512 / fmtBits vf), 512 / fmtBits vf)

/-- The bytes of view line `n` from the values of the elements it depends on (05 R256). -/
def viewBytes (a : AEnv) (vf n : Nat) (vs : List Num) : AEnv × List Byte :=
  if isMx vf then
    let r := n % tileLines vf
    let bb := 4 * fmtBits vf
    let bl := (chunks 65 32 vs).foldl (fun (x : AEnv × List Byte × List Byte) b =>
      let (a', xs, sc) := packBlock x.1 vf b
      (a', x.2.1 ++ leBytes bb (ofFields (fmtBits vf) xs), x.2.2 ++ [toB sc])) (a, [], [])
    if r = tileElemLines vf then (bl.1, bl.2.2)
    else (bl.1, (bl.2.1.drop (64 * r - 64 * r / bb * bb)).take 64)
  else packVals a vf vs

/-- The stored lines that view line `n` depends on (05 R256). -/
def viewLines (v : ViewSnap) : List Nat :=
  let (e0, cnt) := viewElems v.vfmt v.n
  let b0 := e0 * fmtBits v.sfmt / 8
  let b1 := (e0 + cnt) * fmtBits v.sfmt / 8
  (List.range (ceilDiv b1 64 - b0 / 64)).map fun i => v.base + (b0 / 64 + i) * 64

/-- The delay that a view line's read meets as it is looked up: at the window's own home slice, or at a stored line's, which
is turned away as an ordinary read is (05 R256). -/
def viewShut (s : State) (slot : Nat) (q : LReq) (v : ViewSnap) : Option Nat :=
  (q.addr :: viewLines v).findSome? fun a =>
    let sl := s.homeSlice q.part a
    match q.who with
    | .req _ => lineDelay s slot q.part sl
    | _ => lineShut s slot q sl

/-- Serves a read that falls in a view's window (05 R256). -/
def readView (s : State) (slot : Nat) (q : LReq) (v : ViewSnap) : State × LineSt :=
  let (e0, cnt) := viewElems v.vfmt v.n
  let b0 := e0 * fmtBits v.sfmt / 8
  let b1 := (e0 + cnt) * fmtBits v.sfmt / 8
  match readLines s slot { q with access := 0, inner := true } (viewLines v) [] with
  | (t, .okL bs) =>
    let vs := unpackVals v.sfmt ((bs.drop (b0 % 64)).take (b1 - b0))
    let (a, out) := viewBytes (nanIn ⟨v.sat, v.rnd, t.fresh, 0⟩ vs) v.vfmt v.n vs
    (arithFlags (arithDone t a) v.exc q.part a.fl 0xFFFFFFFE v.k, .okL out)
  | r => r

/-- Reads one line of a space for a requester (01 R47): the view lookup comes first, and holds for the access from then
on (05 R256, R257). -/
def lineRead (s : State) (slot : Nat) (q : LReq) : State × LineSt :=
  let t := noteFlight s slot q
  match viewAt t q with
  | some v => match if (flightOf s q).isSome then none else viewShut s slot q v with
    | some d => (t, .nakL 1 d)
    | none => readView t slot q v
  | none => readPlain t slot q

/-- Writes one whole line of a space for a requester (01 R48). -/
def lineWrite (s : State) (slot : Nat) (q : LReq) (data : List Byte) : State × LineSt :=
  match resolveLine s slot q with
  | (t, .error l) => (t, capWait t q l)
  | (t, .ok r) => writeRes t q r data

end Sys2Proof.Machine
end

