-- ==== Sys2Proof/Machine/Sync.lean ====
section
/-!
DEFINITION. Sys2Proof/Machine/Sync.lean: sync objects and contribution sets (07): the operations on an object, waits,
arming, judging and accumulating a contribution, and the ends of a set.
-/
namespace Sys2Proof.Machine

/-! ## Objects (R294 to R297) -/

/-- The enabled partition whose slice holds object `o` (R294). -/
def objPart (s : State) (o : Nat) : Option Nat := s.partOfSlice (o / 4096 % 16)
def objW0 (s : State) (o : Nat) : Nat := s.rdReg SLC_SYNC_OBJ_LO.reg (o / 4096) (o % 4096) 0
def objW1 (s : State) (o : Nat) : Nat := s.rdReg SLC_SYNC_OBJ_HI.reg (o / 4096) (o % 4096) 0
def setObj (s : State) (o w0 w1 : Nat) : State :=
  (s.wrReg SLC_SYNC_OBJ_LO.reg (o / 4096) (o % 4096) 0 w0).wrReg SLC_SYNC_OBJ_HI.reg (o / 4096) (o % 4096) 0 w1
def oType (w1 : Nat) : Nat := fld w1 0 3
def oState (w1 : Nat) : Nat := fld w1 3 3
def oExpect (w1 : Nat) : Nat := fld w1 16 16
def oGen (w1 : Nat) : Nat := fld w1 32 16
/-- An open set: OPEN or COMPLETING (R299). -/
def oOpen (w1 : Nat) : Bool := oType w1 == 4 && decide (oState w1 < 2)

/-! ## Waits (R304, R305) -/

/-- How a wait on an object stands: its status, the value read, and word 0 after it; a status of 0xFF means that it
goes on waiting. -/
def waitEval (cond val gen0 w0 w1 : Nat) : Nat × Nat × Nat :=
  let t := oType w1
  let numeric := t == 1 || t == 3
  let go := 0xFF
  if cond = 0 then (0, w0 % 2 ^ 32, w0)
  else if cond ≤ 3 then
    let ok := if cond = 1 then w0 == val else if cond = 2 then decide (val ≤ w0) else w0 != val
    (if ¬ numeric then 0x14 else if ok then 0 else go, w0 % 2 ^ 32, w0)
  else if cond = 4 then
    if t ≠ 3 then (0x14, w0 % 2 ^ 32, w0)
    else if val % 2 ^ 32 ≤ w0 then (0, w0 % 2 ^ 32, w0 - val % 2 ^ 32) else (go, w0 % 2 ^ 32, w0)
  else if cond = 5 then (if t ≠ 2 then 0x14 else if oGen w1 ≠ gen0 then 0 else go, oGen w1, w0)
  else if cond = 6 then (if t ≠ 2 then 0x14 else if oGen w1 ≠ val % 2 ^ 16 then 0 else go, oGen w1, w0)
  else
    let st := oState w1
    (if t ≠ 4 then 0x14 else if st < 2 then go else if st = 2 then 0 else if st = 3 then 0x0F
      else if st = 4 then 0x08 else 0x0C, w0 % 2 ^ 32, w0)

/-- A started SYNC_WAIT's `aux`: object, COND, VALUE, GEN at its start, status (0xFF while it waits), value read. -/
def isWaitOn (o : Nat) (d : Started) : Bool :=
  (nthW d.words 0).toNat % 256 == 0x19 && nthN d.aux 0 == o && nthN d.aux 4 == 0xFF && decide (d.aux ≠ [])

/-- Re-evaluates the waits on an object once, in the order they started; a freed or re-initialised object ends them with
"reset" (R305). -/
def wakeOnce (s : State) (o : Nat) (reinit : Bool) : State :=
  s.started.foldl (fun t d =>
    if ¬ isWaitOn o d then t
    else
      let w1 := objW1 t o
      let (st, v, w0) := if reinit then (0x0C, nthN d.aux 5, objW0 t o)
        else waitEval (nthN d.aux 1) (nthN d.aux 2) (nthN d.aux 3) (objW0 t o) w1
      let d' := { d with aux := [nthN d.aux 0, nthN d.aux 1, nthN d.aux 2, nthN d.aux 3, st, v] }
      let t := if w0 = objW0 t o then t else setObj t o w0 w1
      { t with started := t.started.map (fun x => if x.ring = d.ring ∧ x.idx = d.idx then d' else x) }) s

/-- Re-evaluation goes on while a wait that took from the object has changed it: each such pass ends a wait. -/
def wakeN (o : Nat) (reinit : Bool) : Nat → State → State
  | 0, s => s
  | n + 1, s =>
    let t := wakeOnce s o reinit
    if objW0 t o = objW0 s o then t else wakeN o reinit n t

/-- Re-evaluates the waits on an object after an operation on it (R305). -/
def wakeWaits (s : State) (o : Nat) (reinit : Bool) : State := wakeN o reinit (s.started.length + 1) s

/-! ## Near-store room of accumulators and tables (04 R177) -/

/-- Places `n` accumulator lines of object `o` on a slice, in the reserve first, then in ways of the policy share. None
where neither has room. -/
def placeAcc (s : State) (p o sl : Nat) : Nat → Nat → Option State
  | 0, _ => some s
  | n + 1, k =>
    let key := 2 ^ 60 + o * 2 ^ 32 + k
    if (nearHeld s sl 2).length < accLines s p then
      placeAcc (setNear s (kput key ⟨sl, false, 2, 0⟩ s.tier.near)) p o sl n (k + 1)
    else match nearRoom s p sl key with
      | (t, true) => placeAcc (setNear t (kput key ⟨sl, false, 3, 0⟩ t.tier.near)) p o sl n (k + 1)
      | (_, false) => none

/-- Frees every accumulator line of an object. -/
def freeAcc (s : State) (o : Nat) : State :=
  setNear s (s.tier.near.filter fun n => !(decide (2 ^ 60 + o * 2 ^ 32 ≤ n.1) && decide (n.1 < 2 ^ 60 + (o + 1) * 2 ^ 32)))

/-! ## The parameter line (R306) -/

def spExpect (l : List Word) : Nat := wfld (nthW l 0) 0 16
def spCfmt (l : List Word) : Nat := wfld (nthW l 0) 16 4
def spOp (l : List Word) : Nat := wfld (nthW l 0) 20 3
def spAcc (l : List Word) : Nat := wfld (nthW l 0) 23 1
def spRfmt (l : List Word) : Nat := wfld (nthW l 0) 24 4
def spRrnd (l : List Word) : Nat := wfld (nthW l 0) 28 1
def spGuard (l : List Word) : Nat := wfld (nthW l 0) 29 1
def spRound (l : List Word) : Nat := wfld (nthW l 0) 30 1
def spSeglen (l : List Word) : Nat := wfld (nthW l 0) 32 7
def spDeliver (l : List Word) : Nat := wfld (nthW l 0) 40 3
def spNotify (l : List Word) : Nat := wfld (nthW l 0) 43 2
def spDst (l : List Word) : Nat := wfld (nthW l 1) 0 48
def spSpace (l : List Word) : Nat := wfld (nthW l 1) 48 16
def spSegs (l : List Word) : Nat := wfld (nthW l 2) 0 16
def spMembers (l : List Word) : Nat := wfld (nthW l 3) 0 48
def spMspace (l : List Word) : Nat := wfld (nthW l 3) 48 16
def spRaddr (l : List Word) : Nat := wfld (nthW l 4) 0 48
def spRspace (l : List Word) : Nat := wfld (nthW l 4) 48 16
def spKey (l : List Word) : Nat := wfld (nthW l 5) 0 12

/-- Reserved bits of the parameter line are zero (R306). -/
def spReservedOk (l : List Word) : Bool :=
  wfld (nthW l 0) 31 1 == 0 && wfld (nthW l 0) 39 1 == 0 && wfld (nthW l 0) 45 19 == 0 && wfld (nthW l 2) 16 16 == 0 &&
  wfld (nthW l 5) 12 52 == 0 && nthW l 6 == 0 && nthW l 7 == 0

/-- Step 1 of R307 but for the space checks: the status, 0 when the line passes. -/
def armCheck (l : List Word) : Nat :=
  let cf := spCfmt l
  let rf := spRfmt l
  if ¬ spReservedOk l then 0x09
  else if spExpect l = 0 ∨ 32768 < spExpect l ∨ 4 ≤ spOp l ∨ spSeglen l = 0 ∨ 64 < spSeglen l ∨ 5 ≤ spDeliver l ∨
      spSegs l = 0 then 0x09
  else if 11 ≤ cf ∨ rf = 11 ∨ 13 ≤ rf then 0x0B
  else if isMx cf ∧ spSeglen l % tileLines cf ≠ 0 then 0x0B
  else if (spDeliver l = 1 ∨ 2 ≤ spNotify l) ∧ spMembers l = 0 then 0x09
  else 0

/-- The space checks of step 1 of R307: SET_SPACE, and MSPACE when there is a member list. `sp` is SET_SPACE resolved. -/
def armSpaces (s : State) (p : Nat) (l : List Word) (sp : Nat) : Nat :=
  let ms := if spMspace l = 0 then sp else spMspace l
  let bad := fun (t : Nat) => match s.spaceSlot t with
    | none => 1
    | some sl => if s.spaceAllows sl p then 0 else 2
  if bad sp ≠ 0 then bad sp else if spMembers l ≠ 0 then bad ms else 0

/-! ## Arming (R307, R308) -/

def ctxUsed (s : State) (o : Nat) : Nat := s.rd SLC_SYNC_STAT.CTX_USED (o / 4096)

/-- Bits of a set's bitmap. -/
def bmapBits (x : SetX) : Nat := spExpect x.line * spSegs x.line

/-- Room for a guarded set's bitmap, where there is a free one and it is within its limit (R308). -/
def bmapRoom (s : State) (o : Nat) (x : SetX) (guard : Bool) : Option State :=
  if guard ∧ bmapBits x ≤ 33554432 ∧ 0 < 64 - s.rd SLC_SYNC_STAT.BMAP_USED (o / 4096) then
    placeAcc s x.part o (o / 4096) (ceilDiv (bmapBits x) 512) x.nextAcc
  else none

/-- The set is OPEN; `g` says whether it is guarded. -/
def armOpen (s : State) (o : Nat) (x : SetX) (g : Bool) : State :=
  let w1 := 4 + b2n g * 2 ^ 6 + spRound x.line * 2 ^ 7 + spExpect x.line * 2 ^ 16 + spSegs x.line * 2 ^ 32
  wakeWaits (setObj { s with sets := kput o x s.sets } o 0 w1) o true

/-- Takes the duplicate bitmap where it is asked for and can be had, and makes the object an open set (R307 steps 4, 5). -/
def armFinish (s : State) (o : Nat) (x : SetX) (guard : Bool) : State :=
  let sl := o / 4096
  match bmapRoom s o x guard with
  | some t => armOpen (t.count SLC_SYNC_STAT.BMAP_USED sl) o { x with nextAcc := x.nextAcc + ceilDiv (bmapBits x) 512 } true
  | none => armOpen (if guard then (evPart s x.part 0x0504 o (bmapBits x) (64 - s.rd SLC_SYNC_STAT.BMAP_USED sl)).count
      PRT_SYNC_STAT2.UNGUARDED x.part else s) o x false

/-- ARM_SET after its parameter line has passed step 1: the context and the member table (R307 steps 2 and 3). A
status other than 0 ends the operation; with a member list it waits for the list. -/
def armStart (s : State) (o p : Nat) (l : List Word) (space : Nat) (who : Holder) : State × Nat × Bool :=
  let w1 := objW1 s o
  if oOpen w1 then (s, 0x15, false)
  else if 256 ≤ ctxUsed s o then (s, 0x12, false)
  else
    let n := ceilDiv (spExpect l * 4) 64
    match placeAcc s p o (o / 4096) n 0 with
    | none => (s, 0x13, false)
    | some t =>
      let t := t.count SLC_SYNC_STAT.CTX_USED (o / 4096)
      let x : SetX :=
        { part := p, line := l, space := space, members := [], table := [], bits := [], acc := [], placed := [], nextAcc := n,
          fl := 0, dups := 0, sat := s.on PRT_ARITH_CFG.SAT_NARROW p, exc := s.on PRT_ARITH_CFG.EXC_EVENT p, bad := [], failed := false, prog := 0, wait := .run }
      if spMembers l = 0 then (armFinish t o x (spGuard l == 1), 0, false)
      else ({ t with arming := t.arming ++ [⟨o, who, x, spGuard l == 1, .run, 0⟩] }, 0, true)

/-- Gives back what an arming that ends took (R307 step 3). -/
def armRelease (s : State) (o : Nat) : State :=
  (freeAcc (endFlights { s with arming := s.arming.filter (·.obj != o) } (.arm o)) o).countDown SLC_SYNC_STAT.CTX_USED (o / 4096)

/-! ## Ends of a set (R311 to R315) -/

/-- Sends event 0x0502 to each distinct member node (R319), under a slot of the set's partition (14 R526). -/
def setNotice (s : State) (o : Nat) (x : SetX) : State :=
  let nodes := x.members.foldl (fun l n => sput n l) []
  let pay := wordsToBytes (eventWords x.part 0x0502 o (spRound x.line) (spDst x.line) s.now) ++ List.replicate 32 0
  if !slotSeals s (spKey x.line) x.part then s else
  nodes.foldl (fun s n =>
    let (t, q) := nextSeq s (spKey x.line) n
    originate t x.part (mkPkt { dst := n, src := nodeId t, tc := 6, opc := 0x0A, len := 1, flags := 4, seq := q % 2 ^ 16,
                                ctag := q / 2 ^ 16, key := spKey x.line } pay)) s

/-- A set leaves OPEN or COMPLETING: its tables and accumulators go, its state and MISSING are written, waits are
judged, and event 0x0501 is written when it is due (R311 step 4, R313). `count` is false for an end that a PART reset makes:
no event is written for it (R318). -/
def endSet (s : State) (o st : Nat) (event count : Bool) : State :=
  match kget o s.sets with
  | none => s
  | some x =>
    let w0 := objW0 s o
    let w1 := objW1 s o
    let missing := if st = 3 then
      ((List.range (spExpect x.line)).filter fun m => decide (kgetD 0 m x.table < spSegs x.line)).length else 0
    let t := freeAcc (endFlights { s with sets := kdel o s.sets } (.set o)) o
    let t := t.countDown SLC_SYNC_STAT.CTX_USED (o / 4096)
    let t := if fld w1 6 1 = 1 then t.countDown SLC_SYNC_STAT.BMAP_USED (o / 4096) else t
    let w1' := setFld (setFld w1 3 3 st) 48 16 missing
    let t := wakeWaits (setObj t o w0 w1') o false
    let t := if st = 2 then t.count PRT_SYNC_STAT.SETS_OK x.part
      else if st < 6 then t.count PRT_SYNC_STAT.SETS_FAILED x.part else t
    let t := { t with oldSets := kput o (x.line, x.space) t.oldSets }
    let t := if x.fl ≠ 0 then (arithFlags t (x.exc && count) x.part x.fl 0xFFFFFFFF o).count PRT_ARITH_STAT.DESC_EXC x.part else t
    let t := if event then evPart t x.part 0x0501 (o + st * 2 ^ 16)
        (w0 % 2 ^ 32 + missing * 2 ^ 32 + fld w1 6 1 * 2 ^ 48 + fld w1 7 1 * 2 ^ 49) (w0 / 2 ^ 32 + x.dups * 2 ^ 32) else t
    if st = 2 ∧ 2 ≤ spNotify x.line then setNotice t o x else t

/-! ## Operations (R299, R300) -/

/-- The operation of a SOP code other than ARM_SET and READ on an object, and its status (R299, R300). -/
def sopApply (s : State) (o sop arg : Nat) : State × Nat :=
  let w0 := objW0 s o
  let w1 := objW1 s o
  let t := oType w1
  let init := fun (a b : Nat) => if oOpen w1 then (s, 0x15) else (wakeWaits (setObj s o a b) o true, 0)
  let upd := fun (v : Nat) => (wakeWaits (setObj s o v w1) o false, 0)
  if sop = 0x01 then init arg 1
  else if sop = 0x02 then init arg 3
  else if sop = 0x03 then
    let e := arg % 2 ^ 16
    if e = 0 ∨ 32768 < e then (s, 0x09) else init 0 (2 + fld arg 16 1 * 2 ^ 8 + e * 2 ^ 16)
  else if sop = 0x05 then init 0 0
  else if sop = 0x08 then if t ≠ 1 then (s, 0x14) else upd ((w0 + arg) % 2 ^ 64)
  else if sop = 0x09 then if t ≠ 1 then (s, 0x14) else upd arg
  else if sop = 0x0A then if t ≠ 1 then (s, 0x14) else upd (w0 / 2 ^ 32 * 2 ^ 32 + arg % 2 ^ 32)
  else if sop = 0x0B then if t ≠ 1 then (s, 0x14) else upd (max w0 arg)
  else if sop = 0x10 then
    if t ≠ 2 then (s, 0x14)
    else
      let a := w0 % 2 ^ 32 + 1
      if a = oExpect w1 then
        let g := (oGen w1 + 1) % 2 ^ 16
        let u := wakeWaits (setObj s o 0 (setFld w1 32 16 g)) o false
        (match objPart s o with
          | some p => if fld w1 8 1 = 1 then evPart u p 0x0503 o g 0 else u
          | none => u, 0)
      else upd a
  else if sop = 0x18 then if t ≠ 3 then (s, 0x14) else upd (min (w0 + arg % 2 ^ 32) (2 ^ 64 - 1))
  else if sop = 0x19 then
    if t ≠ 3 then (s, 0x14) else if arg % 2 ^ 32 ≤ w0 then upd (w0 - arg % 2 ^ 32) else (s, 0x15)
  else if sop = 0x20 then
    if t ≠ 4 then (s, 0x14)
    else if oState w1 = 1 then (s, 0x15)
    else if oState w1 = 0 then (endSet s o 5 true true, 0)
    else (s, 0x14)
  else (s, 0x09)

/-- A descriptor's signal (no value) or a program target's value at an object of partition `p` (R303). -/
def syncSignal (s : State) (p o : Nat) (v : Option Nat := none) : State :=
  let t := oType (objW1 s o)
  match v with
  | some x => if t = 1 then (sopApply s o 0x0A x).1 else s.count PRT_SYNC_STAT2.SIG_LOST p
  | none =>
    if t = 1 then (sopApply s o 0x08 1).1
    else if t = 2 then (sopApply s o 0x10 0).1
    else if t = 3 then (sopApply s o 0x18 1).1
    else s.count PRT_SYNC_STAT2.SIG_LOST p

/-! ## Contributions (05 R241 to R243, R309, R310) -/

/-- An accumulator as it is held. -/
def accStore : AccV → AccW
  | .f v => ⟨0, (toFp ⟨false, false, 0, 0⟩ 0 v).2, 0⟩
  | .p h l => ⟨1, (toFp ⟨false, false, 0, 0⟩ 0 h).2, (toFp ⟨false, false, 0, 0⟩ 0 l).2⟩
  | .i v => ⟨2, (v % 2 ^ 32).toNat, 0⟩
def accLoad (w : AccW) : AccV :=
  if w.kind = 0 then .f (fpNum 0 w.hi)
  else if w.kind = 1 then .p (fpNum 0 w.hi) (fpNum 0 w.lo)
  else .i (match intNum 32 w.hi 0 with
    | .fin n m _ => sInt n m
    | _ => 0)

/-- Elements that one line, or one tile of an MX format, holds. -/
def elemsOf (f lines : Nat) : Nat := if isMx f then lines / tileLines f * 2048 else lines * (512 / fmtBits f)

/-- Near-store lines that the accumulators of one segment take. -/
def segAccLines (x : SetX) : Nat :=
  let n := elemsOf (spCfmt x.line) (spSeglen x.line)
  ceilDiv (n * (if spAcc x.line = 1 ∧ ¬ isInt (spCfmt x.line) then 8 else 4)) 64

/-- Accumulates a segment's payload (05 R243). -/
def accumulate (x : SetX) (seg : Nat) (pay : List Byte) : SetX :=
  let f := spCfmt x.line
  let e0 := elemsOf f (spSeglen x.line) * seg
  let vs := unpackVals f pay
  let env := nanIn ⟨x.sat, false, 0, x.fl⟩ vs
  let id := accInit f (spAcc x.line == 1) (spOp x.line)
  let r := vs.foldl (fun (r : AEnv × List (Nat × AccW) × Nat) v =>
    let c := match kget r.2.2 r.2.1 with
      | some w => accLoad w
      | none => id
    let (a, c') := accStep r.1 (spOp x.line) c v
    (a, kput r.2.2 (accStore c') r.2.1, r.2.2 + 1)) (env, x.acc, e0)
  { x with acc := r.2.1, fl := r.1.fl }

/-- What judging a contribution comes to (R309). -/
inductive Judge where
  | err (s : State) (cause : Nat)
  | dup (s : State)
  | nak (s : State)
  | accept (s : State)
deriving DecidableEq, Repr

/-- Whether the checks of 05 R241 fail against a set's parameter line. -/
def contribBad (l : List Word) (p : Pkt) : Bool :=
  let f := spCfmt l
  let img := spSegs l * spSeglen l * 64
  let off := pAddr p - spDst l
  pFmt p != f || pFmt p == 11 || pRed p != spOp l ||
  (isMx f && (pLen p % tileLines f != 0 || off % (tileLines f * 64) != 0)) ||
  decide (pAddr p < spDst l) || decide (img < off + pLen p * 64)

/-- Check 2 of R309. -/
def contribMisfit (l : List Word) (space : Nat) (p : Pkt) : Bool :=
  pSpace p != space || decide (spExpect l ≤ pCtag p % 2 ^ 15) || pLen p != spSeglen l ||
  (pAddr p - spDst l) % (spSeglen l * 64) != 0

/-- Room for a segment's accumulator lines in the near store (R309, R310). -/
def segRoom (s : State) (p sl o : Nat) (x : SetX) (seg : Nat) : Option (State × SetX) :=
  let n := segAccLines x
  if x.placed.contains seg then some (s, x)
  else (placeAcc s p o sl n x.nextAcc).map fun t => (t, { x with placed := sput seg x.placed, nextAcc := x.nextAcc + n })

/-- Judges a REDUCE_WRITE at its set's slice and applies it (R309, R310, 01 R50 steps 6 to 9). `sl` is the home slice
of its address and `p` the partition it resolved to. -/
def contribute (s : State) (p sl : Nat) (k : Pkt) : Judge :=
  let o := pSync k
  let w1 := objW1 s o
  if objPart s o ≠ some p ∨ oType w1 ≠ 4 then .err s 6
  else
    let bad := fun (c : Nat) => Judge.err (s.count PRT_SYNC_STAT2.BAD_CONTRIB p) c
    let round := pCtag k / 2 ^ 15
    match kget o s.sets with
    | none =>
      let (l, sp) := kgetD ([], 0) o s.oldSets
      if contribBad l k then .err s 6
      else if contribMisfit l sp k then bad 7
      else if round ≠ fld w1 7 1 then bad 8
      else if oState w1 = 2 then .dup (s.count PRT_SYNC_STAT.DUPS p) else bad 9
    | some x =>
      let m := pCtag k % 2 ^ 15
      let segB := spSeglen x.line * 64
      if contribBad x.line k then .err s 6
      else if contribMisfit x.line x.space k then bad 7
      else if round ≠ spRound x.line then bad 8
      else
        let seg := (pAddr k - spDst x.line) / segB
        let dup := fun (_ : Unit) =>
          let t := s.count PRT_SYNC_STAT.DUPS p
          Judge.dup { t with sets := kput o { x with dups := x.dups + 1 } t.sets }
        if oState w1 = 1 then dup ()
        else
          let guarded := decide (fld w1 6 1 = 1)
          let bit := m * spSegs x.line + seg
          if guarded ∧ x.bits.contains bit then dup ()
          else if ¬ guarded ∧ pRetx k then
            .err ((setObj s o (setFld (objW0 s o) 32 32 (objW0 s o / 2 ^ 32 + 1)) w1).count PRT_SYNC_STAT.REFUSED p) 10
          else
            match segRoom s p sl o x seg with
            | none => .nak s
            | some (t, x) =>
              let x := accumulate x seg k.pay
              let x := { x with bits := if guarded then sput bit x.bits else x.bits
                                table := kput m (kgetD 0 m x.table + 1) x.table }
              let w0 := objW0 t o + 1
              let full := decide (w0 % 2 ^ 32 = spExpect x.line * spSegs x.line)
              let t := { t with sets := kput o x t.sets }
              .accept (wakeWaits (setObj t o w0 (if full then setFld w1 3 3 1 else w1)) o false)

/-! ## Completing (R311, R312) -/

/-- Lines of the result image. -/
def resultLines (x : SetX) : Nat := convLines (spCfmt x.line) (spRfmt x.line) (spSegs x.line * spSeglen x.line)

/-- The result image's bytes, and the state after its draws and flags (05 R244). -/
def resultBytes (s : State) (x : SetX) : State × SetX × List Byte :=
  let f := spCfmt x.line
  let n := elemsOf f (spSegs x.line * spSeglen x.line)
  let id := accInit f (spAcc x.line == 1) (spOp x.line)
  let vs := (List.range n).map fun e => accVal (match kget e x.acc with
    | some w => accLoad w
    | none => id)
  let (a, bs) := packVals ⟨x.sat, spRrnd x.line == 1, s.fresh, x.fl⟩ (spRfmt x.line) vs
  (arithDone s a, { x with fl := a.fl }, bs)

/-- Result lines that a poisoned accumulator line feeds (05 R245): those whose elements lie in its 64 bytes. -/
def lineFedBad (x : SetX) (ln : Nat) : Bool :=
  let rf := spRfmt x.line
  let per := if spAcc x.line = 1 ∧ ¬ isInt (spCfmt x.line) then 8 else 16
  let (e0, n) := viewElems rf ln
  x.bad.any fun b => decide (b < e0 + n) && decide (e0 < b + per)

/-- Pushes the result where DELIVER asks (R312), under a slot of the set's partition (14 R526). -/
def pushResult (s : State) (x : SetX) (img : List Byte) : State :=
  let d := spDeliver x.line
  let n := img.length / 64
  let dsts := if d = 1 then x.members.foldl (fun l m => sput m l) [] else if d = 0 then [] else [nodeId s]
  if !slotSeals s (spKey x.line) x.part then s else
  dsts.foldl (fun s dst =>
    (List.range (ceilDiv n 64)).foldl (fun s j =>
      let pay := (img.drop (4096 * j)).take 4096
      let key := spKey x.line
      let (t, q) := nextSeq s key (if d = 1 then dst else 0x8000)
      originate t x.part
        (mkPkt { dst := dst, src := nodeId t, tc := 4, opc := 0x03, len := pay.length / 64,
                 mcast := if d = 1 then 0 else if d = 3 then 2 else 1, flags := if d = 4 then 6 else 4,
                 addr := spRaddr x.line + 4096 * j, space := spRspace x.line, seq := q % 2 ^ 16, ctag := q / 2 ^ 16,
                 key := key } pay)) s) s

/-- Writes the result lines from `prog` on; a line that waits stops the run, one that is refused leaves the set failed
(R311 step 2, R313). A fault record of such a write names access 8 and, as R168 of chapter 03 gives a set no requester, this
chip's own node: DESIGN CHOICE, log entry 13. -/
def writeResult (s : State) (o : Nat) (x : SetX) (img : List Byte) : Nat → Nat → State × SetX × Bool
  | 0, _ => (s, x, true)
  | n + 1, ln =>
    let a := spDst x.line + ln * 64
    let q : LReq := { who := .set o, part := x.part, tag := x.space, addr := a, access := 8, need := 2, first := nodeId s,
                      firstRing := false }
    match lookFor s q with
    | none => writeResult s o { x with failed := true, prog := ln + 1 } img n (ln + 1)
    | some (slot, p) =>
      if lineFedBad x ln then
        match resolveLine s slot { q with part := p } with
        | (t, .ok r) => writeResult (endFlight (t.poisonLine r.line) q) o { x with failed := true, prog := ln + 1 } img n (ln + 1)
        | (t, .error (.wait w)) => (t, { x with wait := w, prog := ln }, false)
        | (t, .error (.nakL 1 _)) => (t, { x with wait := .retry, prog := ln }, false)
        | (t, .error _) => writeResult (endFlight t q) o { x with failed := true, prog := ln + 1 } img n (ln + 1)
      else match lineWrite s slot { q with part := p } ((img.drop (64 * ln)).take 64) with
        | (t, .okL _) => writeResult (endFlight t q) o { x with prog := ln + 1 } img n (ln + 1)
        | (t, .wait w) => (t, { x with wait := w, prog := ln }, false)
        | (t, .nakL 1 _) => (t, { x with wait := .retry, prog := ln }, false)
        | (t, _) => writeResult (endFlight t q) o { x with failed := true, prog := ln + 1 } img n (ln + 1)

/-- A completing set goes on: its result is written and pushed and it ends COMPLETE, or POISONED where a line could not
be written or an accumulator was bad (R311, R313). -/
def completeSet (s : State) (o : Nat) : State :=
  match kget o s.sets with
  | none => s
  | some x =>
    let bad : Bool := match x.wait with
      | .ends _ => true
      | _ => false
    if oState (objW1 s o) ≠ 1 ∨ (¬ bad ∧ ¬ waitOver x.wait) then s
    else
      let x := if bad then { x with failed := true, prog := x.prog + 1 } else x
      let (s1, x1, img) := resultBytes s x
      let (t, x2, ended) := writeResult s1 o { x1 with wait := .run } img (resultLines x - x.prog) x.prog
      let t := { t with sets := kput o (if ended then x2 else { x2 with fl := x.fl }) t.sets }
      if ¬ ended then t
      else if x2.failed then endSet t o 4 true true
      else endSet (pushResult t x2 img) o 2 (spNotify x.line % 2 == 1) true

end Sys2Proof.Machine
end

