-- ==== Sys2Proof/Machine/Engine.lean ====
section
/-!
DEFINITION. Sys2Proof/Machine/Engine.lean: the ring engine (03 R148 to R171): a descriptor's fields and checks, which
descriptor may start, how one ends, stopping a ring, and reading and writing lines for a descriptor.
-/
namespace Sys2Proof.Machine

/-! ## Descriptor fields (03 R153 to R155) -/

def dW (ws : List Word) (i : Nat) : Word := nthW ws i
def dOpc (ws : List Word) : Nat := wfld (dW ws 0) 0 8
def dFlag (ws : List Word) (i : Nat) : Bool := (dW ws 0).toNat.testBit (8 + i)
def dSpace (ws : List Word) : Nat := wfld (dW ws 0) 16 16
def dSfmt (ws : List Word) : Nat := wfld (dW ws 0) 32 4
def dDfmt (ws : List Word) : Nat := wfld (dW ws 0) 36 4
def dRnd (ws : List Word) : Nat := wfld (dW ws 0) 40 2
def dCtag (ws : List Word) : Nat := wfld (dW ws 0) 48 16
def dSrc (ws : List Word) : Nat := wfld (dW ws 1) 0 48
/-- SRC_SPACE, of which 0x0000 means SPACE. -/
def dSrcSpace (ws : List Word) : Nat := if wfld (dW ws 1) 48 16 = 0 then dSpace ws else wfld (dW ws 1) 48 16
def dDst (ws : List Word) : Nat := wfld (dW ws 2) 0 48
def dLen (ws : List Word) : Nat := wfld (dW ws 3) 0 32
def dSync (ws : List Word) : Nat := wfld (dW ws 3) 32 16
def dSyncEn (ws : List Word) : Bool := (dW ws 3).toNat.testBit 48
def dOp (ws : List Word) (i lo w : Nat) : Nat := wfld (dW ws (4 + i)) lo w

/-- Opcodes that carry LEN (03 R155). -/
def opcHasLen (o : Nat) : Bool := o == 1 || o == 2 || o == 3 || o == 4 || o == 8 || o == 0x20 || o == 0x21 || o == 0x22

/-- Opcodes of 03 R155. -/
def opcKnown (o : Nat) : Bool :=
  [1, 2, 3, 4, 8, 9, 0xA, 0xB, 0x10, 0x18, 0x19, 0x1A, 0x20, 0x21, 0x22, 0x28, 0x29, 0x2A, 0x30, 0x38, 0x39, 0x3A, 0x40,
   0x41, 0x42, 0x48, 0x50].contains o

/-- SOP codes that SYNC_SET may carry (07 R299). -/
def sopD (x : Nat) : Bool := [1, 2, 3, 4, 5, 8, 9, 0xA, 0xB, 0x10, 0x18, 0x20].contains x

/-- Check 3 of 03 R157: every code field the opcode uses holds a listed value. -/
def codesOk (ws : List Word) : Bool :=
  let o := dOpc ws
  let rnd := decide (dRnd ws < 2)
  if o = 3 then rnd
  else if o = 4 then dOp ws 0 0 4 == 0
  else if o = 8 then rnd && decide (dOp ws 0 0 3 < 4) && decide (2 ≤ dOp ws 0 8 4) && decide (dOp ws 0 8 4 ≤ 8) &&
    (dOp ws 0 12 4 == 0 || dOp ws 0 12 4 == 12)
  else if o = 9 then rnd && decide (dOp ws 2 32 2 < 3)
  else if o = 0xA then rnd
  else if o = 0x18 then sopD (dOp ws 0 16 8)
  else if o = 0x19 then decide (dOp ws 0 16 8 < 8)
  else if o = 0x1A then decide (dOp ws 0 0 1 < 2)
  else if o = 0x20 then decide (dOp ws 0 0 3 < 7)
  else if o = 0x21 then decide (dOp ws 0 0 2 < 2)
  else if o = 0x22 then dOp ws 0 0 2 == 1 || dOp ws 0 0 2 == 2
  else if o = 0x38 then decide (dOp ws 0 48 2 < 2) && decide (1 ≤ dOp ws 0 32 11) && decide (dOp ws 0 32 11 ≤ 1024)
  else if o = 0x3A then decide (dOp ws 0 48 2 < 2)
  else if o = 0x40 then decide (dOp ws 0 12 2 < 3)
  else true

/-- Check 4 of 03 R157: no reserved format code, and no FP64 in arithmetic other than CONVERT (00 R12). -/
def formatsOk (ws : List Word) : Bool :=
  let o := dOpc ws
  let s := dSfmt ws
  let d := dDfmt ws
  if o = 3 then decide (s < 13) && decide (d < 13)
  else if o = 8 ∨ o = 9 ∨ o = 0xA then decide (s < 13) && decide (d < 13) && s != 11 && d != 11
  else true

/-- Tags an opcode uses: SPACE and, for COPY, SRC_SPACE; an issuer address uses none (03 R154, R155). -/
def tagsUsed (ws : List Word) : List Nat :=
  let o := dOpc ws
  if o = 1 then (if dFlag ws 3 then [] else [dSrcSpace ws]) ++ (if dFlag ws 4 then [] else [dSpace ws])
  else if o = 0x18 then if dOp ws 0 16 8 = 4 then [dSpace ws] else []
  else if [0x19, 0x1A, 0x29, 0x2A, 0x38, 0x39, 0x3A, 0x40, 0x41, 0x42, 0x50].contains o then []
  else [dSpace ws]

/-- Whether a ring's partition may name a tag: a tag that is not live passes (02 R73, 03 R157 check 5). -/
def tagAllowed (s : State) (p tag : Nat) : Bool :=
  match s.spaceSlot tag with
  | none => true
  | some sl => s.spaceAllows sl p

/-- Check 5 of 03 R157 on a CLASS 1 ring of partition `p`. -/
def ownOk (s : State) (p : Nat) (ws : List Word) : Bool :=
  let o := dOpc ws
  (tagsUsed ws).all (tagAllowed s p) &&
  (if o = 0x30 then (s.spaceSlot (dSpace ws)).isSome else true) &&
  (if dSyncEn ws then objPart s (dSync ws) == some p else true) &&
  (if o = 0x18 ∨ o = 0x19 then objPart s (dOp ws 0 0 16) == some p else true) &&
  (if o = 0x28 ∨ o = 0x29 ∨ o = 0x2A then dOp ws 0 16 4 == p else true)

/-- The first check of 03 R157 that a descriptor fails, as its status; 0 when it passes. A management ring's SYNC that no
partition holds is judged with check 5 (07 R296; DEDUCED, log entry 64). A non-zero reserved field, which
R172 makes a host error, is ignored: DESIGN CHOICE, log entry 11. -/
def descCheck (s : State) (i : Nat) (ws : List Word) : Nat :=
  let o := dOpc ws
  let c1 := s.rd RNG_CFG.CLASS i == 1
  if ¬ opcKnown o then 0x09
  else if c1 ∧ 0x38 ≤ o ∧ o ≠ 0x50 then 0x0A
  else if ¬ codesOk ws then 0x09
  else if ¬ formatsOk ws then 0x0B
  else if c1 ∧ ¬ ownOk s (ringOwner s i) ws then 0x02
  else if ¬ c1 ∧ dSyncEn ws ∧ (objPart s (dSync ws)).isNone then 0x06
  else if o ≠ 0x30 ∧ ¬ (tagsUsed ws).all (fun t => (s.spaceSlot t).isSome) then 0x01
  else 0

/-! ## Starting (03 R149, R161, R162) -/

def fetchKey (r d : Nat) : Nat := r * 2 ^ 32 + d
def ringStarted (s : State) (r : Nat) : List Started := s.started.filter (·.ring == r)
def isStarted (s : State) (r d : Nat) : Bool := s.started.any fun x => x.ring == r && x.idx == d
def findStarted (s : State) (r d : Nat) : Option Started := s.started.find? fun x => x.ring == r && x.idx == d

/-- Indices of a ring wrap at 2^32: how far an index lies behind the ring's next fetch (03 R145). -/
def idxBehind (s : State) (r d : Nat) : Nat := (s.rd RNG_IDX.CIDX r + 2 ^ 32 - d) % 2 ^ 32

/-- The next fetched descriptor of a ring that has not started (03 R161). -/
def nextFetched (s : State) (r : Nat) : Option (Nat × List Word) :=
  let fs := (s.fetched.filter fun f => f.1 / 2 ^ 32 == r).map fun f => (f.1 % 2 ^ 32, f.2)
  argMin (fun f => 2 ^ 32 - idxBehind s r f.1) fs

def inMgmtRange (o : Nat) : Bool := decide (0x28 ≤ o) && decide (o ≤ 0x4F)

/-- Whether the aperture writes that a function made before the doorbell that announced descriptor `d` have all ended
(03 R165). -/
def aptSeen (s : State) (r d : Nat) : Bool :=
  (s.ringX r).behind.all fun b => decide (2 ^ 31 ≤ (d + 2 ^ 32 - b.1) % 2 ^ 32) || s.reqs.all fun q => q.id != b.2

/-- Whether the next descriptor of a ring may start now (03 R149, R161, R162, R165). -/
def mayStart (s : State) (r d : Nat) (ws : List Word) : Bool :=
  let st := ringStarted s r
  aptSeen s r d &&
  s.on RNG_CTL.ENABLE r && !ringShut s r && decide (s.rd RNG_CFG.CLASS r < 2) && decide ((s.ringX r).stopping = 0) &&
  decide (st.length < 64) && cplRoom s r && (s.heldCpl.all fun h => h.ring != r) &&
  (!dFlag ws 0 || st.isEmpty) &&
  st.all (fun x => dOpc x.words != 0x19 && dOpc x.words != 0x1A) &&
  (!inMgmtRange (dOpc ws) || st.all fun x => !inMgmtRange (dOpc x.words)) &&
  (!opcCommits (dOpc ws) || commitFree s || logRoom s 16)

/-! ## Ending a descriptor (03 R158 to R160, R163, R166) -/

/-- A completion's two words (03 R158). -/
def cplWords (ws : List Word) (d status result done : Nat) : List Word :=
  [toW (status * 2 + dOpc ws * 2 ^ 8 + dCtag ws * 2 ^ 16 + result % 2 ^ 32 * 2 ^ 32),
   toW (done % 2 ^ 32 + d % 2 ^ 16 * 2 ^ 32)]

/-- The last step of a stop: CIDX names the first descriptor that did not start, and event 0x0101 is written
(03 R151 step 3). -/
def stopFinish (s : State) (r : Nat) : State :=
  let x := s.ringX r
  if x.stopping = 0 ∨ ¬ (ringStarted s r).isEmpty ∨ x.fetching ≠ 0 then s
  else
    let first := match nextFetched s r with
      | some (d, _) => d
      | none => s.rd RNG_IDX.CIDX r
    let held := (s.heldCpl.filter (·.ring == r)).length
    let t := { s with fetched := s.fetched.filter (fun f => f.1 / 2 ^ 32 != r), heldCpl := s.heldCpl.filter (·.ring != r) }
    let t := t.count RNG_CTL.DROPPED r 0 0 held
    let t := (((t.wr RNG_IDX.CIDX first r).wr RNG_CTL.ENABLE 0 r).wr RNG_CTL.STOPPED 1 r).wr RNG_CTL.STOP_CAUSE x.stopping r
    let t := t.setRingX r { x with stopping := 0, stalled := false, wedged := false }
    evOwner t (ringOwner t r) (ringOwner t r) 0x0101 r (x.stopping + first * 2 ^ 32) (t.rd RNG_CTL.DROPPED r)

/-- Begins a ring stop: fetched descriptors that have not started are discarded once every started one has ended
(03 R151 steps 1 and 2). A ring that is not enabled does not stop again. -/
def stopRing (s : State) (r cause : Nat) : State :=
  if ¬ s.on RNG_CTL.ENABLE r ∨ (s.ringX r).stopping ≠ 0 then s
  else stopFinish (s.setRingX r { s.ringX r with stopping := cause }) r

/-- Puts a finished completion into its ring: counted as dropped where it cannot be written, which stops the ring with
cause 3 (03 R149, R150, R151). A full ring holds it. -/
def putCompletion (s : State) (r : Nat) (ws : List Word) (pend : Bool) : State :=
  if ¬ s.on RNG_CTL.ENABLE r ∨ (s.ringX r).stopping = 3 then s.count RNG_CTL.DROPPED r
  else if ¬ canWriteRing s r then stopRing (s.count RNG_CTL.DROPPED r) r 3
  else if cplRoom s r && s.heldCpl.all (fun h => h.ring != r) then putSlot s r ws pend
  else { s with heldCpl := s.heldCpl ++ [⟨r, nthW ws 0, nthW ws 1, pend⟩] }

/-- Writes held completions of a ring while it has room (03 R149). -/
def flushHeld (s : State) (r : Nat) : Nat → State
  | 0 => s
  | n + 1 => match s.heldCpl.find? (·.ring == r) with
    | none => s
    | some h =>
      if ¬ cplRoom s r then s
      else flushHeld (putSlot { s with heldCpl := s.heldCpl.erase h } r [h.w0, h.w1] h.notify) r n

/-- Ends a descriptor: SYNC is signalled before the completion when the status is OK; QUIET drops an OK completion;
the ring's stall ends (03 R152, R158, R160, R166). -/
def finish1 (s : State) (r d : Nat) (ws : List Word) (status result done : Nat) : State :=
  let t := endFlights { s with started := s.started.filter fun x => !(x.ring == r && x.idx == d) } (.desc r d)
  let t := if status = 0 ∧ opcCommits (dOpc ws) then committed t else t
  let t := if status = 0 ∧ dSyncEn ws then
      match objPart t (dSync ws) with
      | some p => syncSignal t p (dSync ws)
      | none => t
    else t
  let t := if status = 0 ∧ dFlag ws 1 then t
    else putCompletion t r (cplWords ws d status result (if status = 0 ∧ opcHasLen (dOpc ws) then dLen ws else done))
      (dFlag ws 2 || status != 0)
  let t := t.setRingX r { t.ringX r with stalled := false, wedged := false }
  stopFinish t r

/-- Whether a FENCE has nothing left to wait for: every earlier descriptor of its ring, and those of its wait set
(03 R162). Its wait set is kept in `aux` as ring × 2^32 + index. -/
def fenceDone (s : State) (x : Started) : Bool :=
  x.aux.all fun k => !isStarted s (k / 2 ^ 32) (k % 2 ^ 32)

/-- The object that a descriptor signals as it ends with a status (03 R160). -/
def sigObj (s : State) (ws : List Word) (status : Nat) : Option Nat :=
  if status = 0 ∧ dSyncEn ws ∧ (objPart s (dSync ws)).isSome then some (dSync ws) else none

/-- Ends a descriptor once its signal has its turn at the object (03 R160, 07 R298). -/
def endDesc (s : State) (x : Started) (status result done : Nat) : State :=
  let who := Holder.desc x.ring x.idx
  match sigObj s x.words status with
  | some o =>
    if objTurn s o who then finish1 s x.ring x.idx x.words status result done
    else objJoin { s with started := s.started.map fun y => if y.ring = x.ring ∧ y.idx = x.idx then
        { y with wait := .sig o result done false } else y } o who
  | none => finish1 s x.ring x.idx x.words status result done

/-- Completes every FENCE that has nothing left to wait for. -/
def settleFences : Nat → State → State
  | 0, s => s
  | n + 1, s => match s.started.find? fun x => dOpc x.words == 0x1A && x.wait == .ext && fenceDone s x with
    | none => s
    | some x => settleFences n (endDesc s x 0 0 0)

/-- Cells of a partition that QUIET has gated run again when work arrives (16 R599). -/
def ungate (s : State) (p : Nat) : State :=
  { s with ctl := { s.ctl with gated := s.ctl.gated.filter fun c => s.partOfSlice (c / 17) != some p } }

/-- Blocks of the DRAM cache whose fill or write-back is under way (04 R197). -/
def movesNow (s : State) : List Nat := (s.tier.blocks.filter fun b => b.2.filling || b.2.wb).map (·.1)

/-- Starts a fetched descriptor. The tags that the ring engine has looked up keep their slots (02 R72, R75). -/
def beginDesc (s0 : State) (r d : Nat) (ws : List Word) : State :=
  let s := ungate s0 (ringOwner s0 r)
  { s with fetched := kdel (fetchKey r d) s.fetched
           started := s.started ++ [⟨r, d, ws, 0, .run, [], [], false, [],
             (tagsUsed ws).filterMap fun t => (s.spaceSlot t).map fun sl => (t, sl), [], movesNow s⟩] }

/-- Completes, in order, the fetched descriptors that fail a check of 03 R157 and may start (no work is done). -/
def drainBad : Nat → State → Nat → State
  | 0, s, _ => s
  | n + 1, s, r => match nextFetched s r with
    | none => s
    | some (d, ws) =>
      let c := descCheck s r ws
      if c ≠ 0 ∧ mayStart s r d ws then
        drainBad n (settleFences (s.started.length + 1) (finish1 (beginDesc s r d ws) r d ws c 0 0)) r
      else s

/-- A descriptor ends; fences it held back complete, and unfit descriptors behind it fall through. -/
def finishDesc (s : State) (x : Started) (status result done : Nat) : State :=
  let t := endDesc s x status result done
  let t := settleFences (t.started.length + 1) t
  drainBad (t.fetched.length + 1) t x.ring

/-! ## Lines of a descriptor -/

/-- The status a request's refusal gives a descriptor (03 R159, 11 R427). -/
def causeStatus (c : Nat) : Nat :=
  if c = 1 then 0x01 else if c = 2 then 0x03 else if c = 3 then 0x06 else if c = 4 then 0x07 else if c = 5 then 0x04
  else if c = 13 then 0x1A else 0x03

/-- How one line of a descriptor's work came out. -/
inductive DLine where
  | ok (data : List Byte)
  | poison
  | ends (status : Nat)
  | wait (w : Wait)
deriving DecidableEq, Repr

def dLineOf : LineSt → DLine
  | .okL d => .ok d
  | .poisonL => .poison
  | .nakL c _ => if c = 2 then .ends 0x05 else .wait .retry
  | .errL c => .ends (causeStatus c)
  | .wait w => .wait w

/-- A descriptor's request for one line. -/
def descReq (x : Started) (p tag addr access need : Nat) : LReq :=
  { who := .desc x.ring x.idx, part := p, tag := tag, addr := addr, access := access, need := need, first := x.ring,
    firstRing := true }

/-- The slot and partition of an address of a tag, for a descriptor: in the slot that its lookup gave (02 R72, R75, R76). -/
def dLook (s : State) (x : Started) (tag addr : Nat) : Option (Nat × Nat) :=
  match (x.tags.find? (·.1 == tag)).map (·.2) with
  | some sl => if s.partOn (s.spacePart sl addr) then some (sl, s.spacePart sl addr) else none
  | none => resolvePart s tag addr

/-- Reads a source line. A range that runs past the 48-bit space goes on with addresses from 2^48, which a walk takes by
their bits [47:26]: DESIGN CHOICE, log entry 11. -/
def dRead (s : State) (x : Started) (tag addr : Nat) (access : Nat := 7) (need : Nat := 1) : State × DLine :=
  match dLook s x tag addr with
  | none => (s, .ends 0x01)
  | some (slot, p) =>
    let (t, l) := lineRead s slot (descReq x p tag addr access need)
    (t, dLineOf l)

/-- Writes a destination line. -/
def dWrite (s : State) (x : Started) (tag addr : Nat) (data : List Byte) (access : Nat := 8) (need : Nat := 2) :
    State × DLine :=
  match dLook s x tag addr with
  | none => (s, .ends 0x01)
  | some (slot, p) =>
    let (t, l) := lineWrite s slot (descReq x p tag addr access need) data
    (t, dLineOf l)

/-- Writes a destination line poisoned (05 R251). -/
def dPoison (s : State) (x : Started) (tag addr : Nat) (access : Nat := 8) (need : Nat := 2) : State × DLine :=
  match dLook s x tag addr with
  | none => (s, .ends 0x01)
  | some (slot, p) =>
    let q := descReq x p tag addr access need
    match resolveLine s slot q with
    | (t, .error l) => (t, dLineOf l)
    | (t, .ok r) =>
      match writeRes t q r (List.replicate 64 0) with
      | (u, .okL _) => (u.poisonLine r.line, .ok [])
      | (u, l) => (u, dLineOf l)

/-- Replaces a started descriptor's record. -/
def setStarted (s : State) (x : Started) : State :=
  { s with started := s.started.map fun y => if y.ring = x.ring ∧ y.idx = x.idx then
      { x with touch := y.touch, win := y.win, moves := y.moves } else y }

def isWay (w : Wait) : Bool :=
  match w with
  | .way _ => true
  | _ => false

/-- Waits for a fill, a write-back or a way. -/
def tierWait (w : Wait) : Bool :=
  match w with
  | .fill _ | .way _ => true
  | _ => false

/-- Whatever waits for a fill, a write-back or an eligible way looks again, and so do lines on their way out of the near
store (04 R189 step 4, R193). -/
def freeWays (s : State) : State := rewait (settleWbuf s) tierWait (.wait .run) .run

/-- The window of a descriptor, by ring and index. -/
def winOf (s : State) (r d : Nat) : List Nat := ((findStarted s r d).map (·.win)).getD []

/-- A descriptor that waits for a way gives its move pin up, so that no two of them keep each other out (log entry 63). -/
def dropWin (s : State) (x : Started) (w : Wait) : State :=
  if isWay w then { s with started := s.started.map fun y => if y.ring = x.ring ∧ y.idx = x.idx then { y with win := [] } else y }
  else s

/-- When a descriptor has run on, or ended, blocks that its move pin no longer covers may be victims (04 R192, R193). -/
def winMoved (s0 t : State) (r d : Nat) : State :=
  if (winOf s0 r d).all fun b => (winOf t r d).contains b then t else freeWays t

/-- How a step of a descriptor's work comes out: it goes on, ends with (status, RESULT, DONE), or waits. -/
inductive DStep where
  | more (s : State) (x : Started)
  | done (s : State) (x : Started) (status result cnt : Nat)
  | stop (s : State) (x : Started) (w : Wait)

/-- Repeats a step until the descriptor ends or waits, at most `fuel` times. The accesses of a step have ended once it goes
on; those of a step that waits stay under way, and the step is made again with what they found. -/
def dLoop (step : State → Started → DStep) : Nat → State → Started → State
  | 0, s, x => setStarted s { x with wait := .run }
  | n + 1, s, x => match step s x with
    | .more t y => dLoop step n (endFlights t (.desc y.ring y.idx)) y
    | .done t y st res cnt => finishDesc t y st res cnt
    | .stop t y w => setStarted (dropWin t y w) { y with wait := w }

/-- Runs a descriptor's steps, after which the ways that it has freed serve others. -/
def dRun (step : State → Started → DStep) (fuel : Nat) (s : State) (x : Started) : State :=
  winMoved s (dLoop step fuel s x) x.ring x.idx

/-- Turns a line's outcome other than `ok` into how the step comes out. -/
def dFail (s : State) (x : Started) (l : DLine) (cnt : Nat) : DStep :=
  match l with
  | .ok _ => .more s x
  | .poison => .done s x 0x08 0 cnt
  | .ends st => .done s x st 0 cnt
  | .wait w => .stop s x w

end Sys2Proof.Machine
end

