-- ==== Sys2Proof/Machine/Work.lean ====
section
/-!
DEFINITION. Sys2Proof/Machine/Work.lean: what the data-moving and arithmetic descriptors do, a step at a time, so that
one that waits goes on where it stopped: COPY, FILL, DIGEST (03 R156), CONVERT, REDUCE, GATHER_POOL, SCATTER_ADD and
PAGE_GATHER (05 R246 to R252).
-/
namespace Sys2Proof.Machine

def auxN (x : Started) (i : Nat) : Nat := nthN x.aux i
def auxSet (x : Started) (i v : Nat) : Started := { x with aux := x.aux.set i v }

/-- Reads lines one after another; the first that fails decides, with its number. -/
def dReadMany (s : State) (x : Started) (tag access : Nat) : List Nat → Nat → List Byte → State × Except (Nat × DLine) (List Byte)
  | [], _, acc => (s, .ok acc)
  | a :: as, i, acc => match dRead s x tag a access with
    | (t, .ok d) => dReadMany t x tag access as (i + 1) (acc ++ d)
    | (t, l) => (t, .error (i, l))

/-! ## COPY, FILL, DIGEST -/

/-- COPY, line by line in ascending order; where the ranges overlap, which 03 R172 leaves open, later lines so read what
earlier ones wrote: DESIGN CHOICE, log entry 11. `aux` item 0 is 1 while an issuer access is under way. -/
def copyStep (s : State) (x : Started) : DStep :=
  let ws := x.words
  let n := x.prog
  if n = dLen ws then .done s x 0 0 n
  else if x.bad then
    if dFlag ws 4 then .done s x 0x08 0 n
    else match dPoison s x (dSpace ws) (dDst ws + 64 * n) with
      | (t, .ok _) => .done t x 0x08 0 n
      | (t, l) => dFail t x l n
  else if x.buf = [] then
    if dFlag ws 3 then
      let a := (dW ws 1).toNat + 64 * n
      if ringLoc1 s x.ring then
        match ownRequest s .issuerRd x.ring x.idx 0x01 3 a 1 [] with
        | (t, true) => .stop t x .ext
        | (t, false) => .done t x 0x0D 0 n
      else .stop (s.emit (.hostRead (ringFunc s x.ring) a 64)) x .ext
    else match dRead s x (dSrcSpace ws) (dSrc ws + 64 * n) with
      | (t, .ok d) => .more t { x with buf := d }
      | (t, .poison) => .more t { x with bad := true }
      | (t, l) => dFail t x l n
  else if dFlag ws 4 then
    let a := (dW ws 2).toNat + 64 * n
    if ringLoc1 s x.ring then
      match ownRequest s .issuerWr x.ring x.idx 0x03 5 a 0 x.buf with
      | (t, true) => .stop t x .ext
      | (t, false) => .done t x 0x0D 0 n
    else if canPost s (ringFunc s x.ring) then
      .more (s.emit (.hostWrite (ringFunc s x.ring) a x.buf)) { x with prog := n + 1, buf := [] }
    else .done s x 0x0D 0 n
  else match dWrite s x (dSpace ws) (dDst ws + 64 * n) x.buf with
    | (t, .ok _) => .more t { x with prog := n + 1, buf := [] }
    | (t, l) => dFail t x l n

def fillStep (s : State) (x : Started) : DStep :=
  let n := x.prog
  if n = dLen x.words then .done s x 0 0 n
  else match dWrite s x (dSpace x.words) (dDst x.words + 64 * n)
      ((List.replicate 8 (leBytes 8 (dW x.words 4).toNat)).flatten) with
    | (t, .ok _) => .more t { x with prog := n + 1 }
    | (t, l) => dFail t x l n

def digestStep (s : State) (x : Started) : DStep :=
  let n := x.prog
  if x.bad then match dPoison s x (dSpace x.words) (dDst x.words) with
    | (t, .ok _) => .done t x 0x08 0 n
    | (t, l) => dFail t x l n
  else if n = dLen x.words then
    match dWrite s x (dSpace x.words) (dDst x.words) (sha256 x.buf ++ List.replicate 32 0) with
    | (t, .ok _) => .done t x 0 0 n
    | (t, l) => dFail t x l n
  else match dRead s x (dSpace x.words) (dSrc x.words + 64 * n) with
    | (t, .ok d) => .more t { x with prog := n + 1, buf := x.buf ++ d }
    | (t, .poison) => .more t { x with bad := true }
    | (t, l) => dFail t x l n

/-! ## Arithmetic: settings, flags, outputs

`aux` holds: 0 the partition of the arithmetic (16: none), 1 SAT_NARROW and twice EXC_EVENT when it started (R258), 2 flags, 3 phase (0 reading,
1 writing `buf`, 2 writing poison), 4 lines read of this unit, 5 lines written of this unit, 6 first output line of the
phase, 7 output lines of the phase. -/

/-- The partition of a descriptor's arithmetic (05 R670). -/
def arithPart (s : State) (x : Started) : Nat :=
  if s.rd RNG_CFG.CLASS x.ring = 1 then ringOwner s x.ring
  else match resolvePart s (dSpace x.words) (dDst x.words) with
    | some (_, p) => p
    | none => 16

def arithInit (s : State) (x : Started) : Started :=
  let p := arithPart s x
  { x with aux := [p, b2n (s.on PRT_ARITH_CFG.SAT_NARROW p) + 2 * b2n (s.on PRT_ARITH_CFG.EXC_EVENT p), 0, 0, 0, 0, 0, 0] }

/-- The environment that a descriptor's arithmetic goes on in. -/
def dEnv (s : State) (x : Started) : AEnv := ⟨auxN x 1 % 2 == 1, dRnd x.words == 1, s.fresh, auxN x 2⟩
def dEnvDone (s : State) (x : Started) (a : AEnv) : State × Started := (arithDone s a, auxSet x 2 a.fl)

/-- The flags of a descriptor that ends are gathered (05 R239, R240). -/
def arithEnd (s : State) (x : Started) : State :=
  if auxN x 2 = 0 ∨ 16 ≤ auxN x 0 then s
  else (arithFlags s (auxN x 1 / 2 == 1) (auxN x 0) (auxN x 2) x.ring (dCtag x.words)).count PRT_ARITH_STAT.DESC_EXC (auxN x 0)

def arithDoneStep (s : State) (x : Started) (st cnt : Nat) : DStep := .done (arithEnd s x) x st 0 cnt
/-- An outcome other than `ok` of an arithmetic descriptor's line that is no poisoned input. -/
def arithFail (s : State) (x : Started) (l : DLine) (cnt : Nat) : DStep :=
  match l with
  | .wait w => .stop s x w
  | .ends st => arithDoneStep s x st cnt
  | _ => arithDoneStep s x 0x08 cnt

/-- Begins writing `bytes` from output line `first` on. -/
def startOut (x : Started) (first : Nat) (bytes : List Byte) : Started :=
  { x with buf := bytes, aux := [auxN x 0, auxN x 1, auxN x 2, 1, auxN x 4, 0, first, bytes.length / 64] }
/-- Begins writing output lines [first, first + n) poisoned. -/
def startPoison (x : Started) (first n : Nat) : Started :=
  { x with buf := [], bad := true, aux := [auxN x 0, auxN x 1, auxN x 2, 2, auxN x 4, 0, first, n] }

/-- The right that an output line needs (02 R84). -/
def outNeed (x : Started) : Nat := if dOpc x.words = 0xA then 4 else 2

/-- Writes the next output line, or the next poisoned one; `cnt` is DONE where it ends. After the last good line the
descriptor goes on with `prog` raised by `k`; after the last poisoned one it ends with poison (05 R251). -/
def outStep (s : State) (x : Started) (k cnt : Nat) : DStep :=
  let w := auxN x 5
  let a := dDst x.words + 64 * (auxN x 6 + w)
  if w = auxN x 7 then
    if auxN x 3 = 2 then arithDoneStep s x 0x08 cnt
    else .more s { x with prog := x.prog + k, buf := [], aux := [auxN x 0, auxN x 1, auxN x 2, 0, 0, 0, 0, 0] }
  else if auxN x 3 = 2 then
    match dPoison s x (dSpace x.words) a 8 (outNeed x) with
    | (t, .ok _) => .more t (auxSet x 5 (w + 1))
    | (t, l) => arithFail t x l cnt
  else
    match dWrite s x (dSpace x.words) a ((x.buf.drop (64 * w)).take 64) 8 (outNeed x) with
    | (t, .ok _) => .more t (auxSet x 5 (w + 1))
    | (t, l) => arithFail t x l cnt

/-! ## CONVERT and REDUCE (05 R246, R247) -/

/-- Elements and lines of the smallest whole piece of a format: a line, or a tile. -/
def pieceElems (f : Nat) : Nat := if isMx f then 2048 else 512 / fmtBits f
def pieceLines (f : Nat) : Nat := if isMx f then tileLines f else 1

/-- Source and destination lines of the smallest unit that is whole in both formats. -/
def convUnit (sf df : Nat) : Nat × Nat :=
  let e := max (pieceElems sf) (pieceElems df)
  (e / pieceElems sf * pieceLines sf, e / pieceElems df * pieceLines df)

/-- The elements that have a bit in line `n` of a format: first and one past the last; a scale line holds none. -/
def lineElems (f n : Nat) : Nat × Nat :=
  if isMx f then
    let t := n / tileLines f
    let r := n % tileLines f
    if r = tileElemLines f then (0, 0)
    else (t * 2048 + 512 * r / fmtBits f, t * 2048 + ceilDiv (512 * (r + 1)) (fmtBits f))
  else (n * (512 / fmtBits f), (n + 1) * (512 / fmtBits f))

/-- Elements that a source line feeds: its own, or its tile's when it holds scales. -/
def fedElems (f n : Nat) : Nat × Nat :=
  if isMx f && n % tileLines f == tileElemLines f then (n / tileLines f * 2048, n / tileLines f * 2048 + 2048)
  else lineElems f n

/-- The destination lines of a unit, as first and count, that hold elements of source line `n` (05 R251). -/
def fedLines (sf df n : Nat) : Nat × Nat :=
  let (u, v) := convUnit sf df
  let (lo, hi) := fedElems sf n
  let ls := ((List.range v).map (n / u * v + ·)).filter fun d => decide ((lineElems df d).1 < hi) && decide (lo < (lineElems df d).2)
  (ls.headD 0, ls.length)

/-- Element by element, the sources combined (05 R234, R247). `cols` holds each source's values. -/
def reduceVals (a : AEnv) (sf op : Nat) (pair : Bool) (cols : List (List Num)) : AEnv × List Num :=
  let n := (cols.headD []).length
  let r := (List.range n).foldl (fun (r : AEnv × List Num) e =>
    let (a', c) := cols.foldl (fun (q : AEnv × AccV) col => accStep q.1 op q.2 (col.getD e .nan)) (r.1, accInit sf pair op)
    (a', accVal c :: r.2)) (a, [])
  (r.1, r.2.reverse)

/-- The output of a unit whose lines, line by line and source by source, are in `buf`. -/
def unitOut (a : AEnv) (ws : List Word) (nsrc : Nat) (buf : List Byte) : AEnv × List Byte :=
  let sf := dSfmt ws
  if dOpc ws = 3 then convertBytes a sf (dDfmt ws) buf
  else
    let ls := chunks (buf.length + 1) 64 buf
    let cols := (List.range nsrc).map fun k =>
      unpackVals sf (((List.range (ls.length / nsrc)).map fun j => ls.getD (j * nsrc + k) []).flatten)
    let a := cols.foldl nanIn a
    let (a, vs) := reduceVals a sf (dOp ws 0 0 3) (dOp ws 0 12 4 == 12) cols
    packVals a (dDfmt ws) vs

/-- CONVERT and REDUCE. A LEN that is not a whole number of destination lines or tiles leaves free bytes in every line of
DST (05 R246). -/
def convertStep (s : State) (x : Started) : DStep :=
  let ws := x.words
  let sf := dSfmt ws
  let (us, ud) := convUnit sf (dDfmt ws)
  let nsrc := if dOpc ws = 3 then 1 else dOp ws 0 8 4
  if x.aux = [] then .more s (arithInit s x)
  else if auxN x 3 ≠ 0 then outStep s x (if dLen ws % us = 0 then us else dLen ws) (x.prog + auxN x 4 / nsrc)
  else if x.prog = dLen ws then arithDoneStep s x 0 x.prog
  else if dLen ws % us ≠ 0 then
    let n := ceilDiv (dLen ws * ud) us
    .more { s with fresh := s.fresh + 64 * n } (startOut x 0 (freeFill s.fresh (64 * n)))
  else
    let m := auxN x 4
    if m = us * nsrc then
      let (a, out) := unitOut (dEnv s x) ws nsrc x.buf
      let (t, y) := dEnvDone s x a
      .more t (startOut (auxSet y 4 0) (x.prog / us * ud) out)
    else
      let j := x.prog + m / nsrc
      match dRead s x (dSpace ws) (dSrc ws + m % nsrc * dOp ws 1 0 48 + 64 * j) with
      | (t, .ok d) => .more t { auxSet x 4 (m + 1) with buf := x.buf ++ d }
      | (t, .poison) =>
        let (f, n) := fedLines sf (dDfmt ws) j
        .more t (startPoison x f n)
      | (t, l) => arithFail t x l j

/-! ## GATHER_POOL, SCATTER_ADD, PAGE_GATHER (05 R248 to R250) -/

def gIdx (ws : List Word) : Nat := dOp ws 0 0 48
def gCount (ws : List Word) : Nat := dOp ws 1 0 32
def gRow (ws : List Word) : Nat := dOp ws 1 32 16
def gBag (ws : List Word) : Nat := dOp ws 2 0 32
def gPool (ws : List Word) : Nat := dOp ws 2 32 2
/-- Output lines of a row (05 R248). -/
def gOut (ws : List Word) : Nat := convLines (dSfmt ws) (dDfmt ws) (gRow ws)

/-- The host errors of GATHER_POOL and SCATTER_ADD (05 R248, R249). -/
def rowsBad (ws : List Word) : Bool :=
  let (us, _) := convUnit (dSfmt ws) (dDfmt ws)
  gRow ws % us != 0 ||
  (if dOpc ws = 9 then gBag ws == 0 || gCount ws % atLeast1 (gBag ws) != 0 || (dSfmt ws == 12 && dDfmt ws == 12)
   else isMx (dDfmt ws))

/-- Output lines of a row, a part of a line as a whole one. -/
def gOutUp (ws : List Word) : Nat :=
  let (us, ud) := convUnit (dSfmt ws) (dDfmt ws)
  ceilDiv (gRow ws * ud) us

/-- Lines that hold bytes [a, a + n), and the offset of `a` in the first. -/
def coverLines (a n : Nat) : List Nat × Nat :=
  ((List.range (ceilDiv (a + n) 64 - a / 64)).map fun i => (a / 64 + i) * 64, a % 64)

/-- Bytes [a, a + n) of SPACE; where a line fails, its number and how. -/
def dBytes (s : State) (x : Started) (a n : Nat) : State × Except (Nat × DLine) (List Byte) :=
  let (ls, off) := coverLines a n
  match dReadMany s x (dSpace x.words) 7 ls 0 [] with
  | (t, .ok bs) => (t, .ok ((bs.drop off).take n))
  | (t, .error (i, l)) => (t, .error (a / 64 + i, l))

/-- The rows that a bag's indices name, read one after another: their values, padding left out. -/
def bagRows (s : State) (x : Started) : List Nat → List (List Num) → State × Except DLine (List (List Num))
  | [], acc => (s, .ok acc.reverse)
  | i :: is, acc =>
    if i = 0xFFFFFFFF then bagRows s x is acc
    else match dBytes s x (dSrc x.words + i * gRow x.words * 64) (gRow x.words * 64) with
      | (t, .ok bs) => bagRows t x is (unpackVals (dSfmt x.words) bs :: acc)
      | (t, .error (_, l)) => (t, .error l)

/-- The correctly rounded FP32 quotient of a finite value and a row count: rounded at 64 bits beyond the value with a
sticky bit, then once to FP32. -/
def divNat (a : AEnv) (v : Num) (n : Nat) : AEnv × Num :=
  match v with
  | .fin neg m e =>
    let q := m * 2 ^ 64 / n
    to32 a (.fin neg (2 * q + b2n (m * 2 ^ 64 % n != 0)) (e - 65))
  | v => (a, v)

/-- The pooled values of one bag. -/
def poolVals (a : AEnv) (ws : List Word) (n : Nat) (rows : List (List Num)) : AEnv × List Num :=
  if rows = [] then (a, List.replicate n (.fin false 0 0))
  else
    let a := rows.foldl nanIn a
    let (a, vs) := reduceVals a (dSfmt ws) (if gPool ws = 2 then 1 else 0) false rows
    if gPool ws ≠ 1 then (a, vs)
    else
      let r := vs.foldl (fun (r : AEnv × List Num) v =>
        let (b, q) := divNat r.1 v rows.length
        (b, q :: r.2)) (a, [])
      (r.1, r.2.reverse)

/-- 32-bit indices from bytes. -/
def idxOf (bs : List Byte) : List Nat := (chunks (bs.length + 1) 4 bs).map leNat

/-- GATHER_POOL: one bag a step. One that R248 calls a host error leaves free bytes in every line of its output rows (00 R27;
DESIGN CHOICE, log entry 11). -/
def gatherStep (s : State) (x : Started) : DStep :=
  let ws := x.words
  let j := x.prog
  let b := gBag ws
  if x.aux = [] then .more s (arithInit s x)
  else if auxN x 3 ≠ 0 then outStep s x 1 0
  else if rowsBad ws then
    let n := ceilDiv (gCount ws) (atLeast1 b) * gOutUp ws
    if j ≠ 0 then arithDoneStep s x 0 0
    else .more { s with fresh := s.fresh + 64 * n } (startOut x 0 (freeFill s.fresh (64 * n)))
  else if j * b = gCount ws then arithDoneStep s x 0 0
  else match dBytes s x (gIdx ws + 4 * j * b) (4 * b) with
    | (t, .error (ln, .poison)) =>
      let lo := (max (ln * 64) (gIdx ws) - gIdx ws) / 4
      let hi := min ((ln * 64 + 63 - gIdx ws) / 4) (gCount ws - 1)
      .more t (startPoison x (lo / b * gOut ws) ((hi / b - lo / b + 1) * gOut ws))
    | (t, .error (_, l)) => arithFail t x l 0
    | (t, .ok ib) => match bagRows t x (idxOf ib) [] with
      | (u, .error .poison) => .more u (startPoison x (j * gOut ws) (gOut ws))
      | (u, .error l) => arithFail u x l 0
      | (u, .ok rows) =>
        let n := gRow ws / pieceLines (dSfmt ws) * pieceElems (dSfmt ws)
        let (a, vs) := poolVals (dEnv u x) ws n rows
        let (a, out) := packVals a (dDfmt ws) vs
        let (u, y) := dEnvDone u x a
        .more u (startOut y (j * gOut ws) out)

/-- One table element after a scatter-add: source and table element in the sum's type, then rounded into DFMT. -/
def scatterElem (a : AEnv) (df : Nat) (src tab : Num) : AEnv × Num :=
  if isInt df then
    let (a, x) := toInt { a with sr := false } 32 src
    let (a, y) := toInt a 32 tab
    let (a, r) := clampInt a (Num.toInt (intNum 32 x 0) + Num.toInt (intNum 32 y 0))
    (a, ofInt false r 0)
  else
    let (a, x) := to32 a src
    let (a, y) := to32 a tab
    fadd32 a x y

/-- A table line with source elements added. -/
def scatterLine (a : AEnv) (df : Nat) (src : List Num) (line : List Byte) : AEnv × List Byte :=
  let sr := a.sr
  let tab := unpackVals df line
  let r := (List.zip src tab).foldl (fun (r : AEnv × List Num) p =>
    let (b, v) := scatterElem { r.1 with sr := false } df p.1 p.2
    (b, v :: r.2)) (nanIn a tab, [])
  packVals { r.1 with sr := sr } df r.2.reverse

/-- SCATTER_ADD: one table line a step; `prog` is the row, `aux` item 5 the line of it. One that R249 calls a host error leaves
free bytes in the lines of the table rows that it names (00 R27; DESIGN CHOICE, log entry 11). -/
def scatterStep (s : State) (x : Started) : DStep :=
  let ws := x.words
  let k := x.prog
  let wild := rowsBad ws
  let rl := if wild then gOutUp ws else gOut ws
  if x.aux = [] then .more s (arithInit s x)
  else if auxN x 3 ≠ 0 then outStep s x 0 0
  else if k = gCount ws then arithDoneStep s x 0 0
  else match dBytes s x (gIdx ws + 4 * k) 4 with
    | (t, .error (_, l)) => arithFail t x l 0
    | (t, .ok ib) =>
      let i := leNat ib
      if i = 0xFFFFFFFF ∨ auxN x 5 = rl then .more t { auxSet x 5 0 with prog := k + 1 }
      else match dBytes t x (dSrc ws + k * gRow ws * 64) (gRow ws * 64) with
        | (u, .error (_, .poison)) => .more u (startPoison x (i * rl) rl)
        | (u, .error (_, l)) => arithFail u x l 0
        | (u, .ok rb) =>
          let w := auxN x 5
          let per := 512 / fmtBits (dDfmt ws)
          let a := dDst ws + (i * rl + w) * 64
          match dRead u x (dSpace ws) a 8 (outNeed x) with
          | (v, .ok line) =>
            let src := (unpackVals (dSfmt ws) rb)
            let env := if w = 0 then nanIn (dEnv v x) src else dEnv v x
            let (env, out) := if wild then ({ env with c := env.c + 64 }, freeFill env.c 64)
              else scatterLine env (dDfmt ws) ((src.drop (w * per)).take per) line
            (match dWrite v x (dSpace ws) a out 8 (outNeed x) with
              | (v, .ok _) =>
                let (v, y) := dEnvDone v x env
                .more v (auxSet y 5 (w + 1))
              | (v, l) => arithFail v x l 0)
          | (v, l) => arithFail v x l 0

def gPlen (ws : List Word) : Nat := dOp ws 1 32 16

/-- PAGE_GATHER: one line a step. An entry whose address is not line-aligned is a host error (05 R250): on a partition's ring
its output lines take free bytes (00 R27), and on a management ring the descriptor stays where it is (DESIGN CHOICE, log
entry 11). -/
def pageStep (s : State) (x : Started) : DStep :=
  let ws := x.words
  let n := x.prog
  let pl := gPlen ws
  if x.aux = [] then .more s { x with aux := [16, 0, 0, 0, 0, 0, 0, 0] }
  else if auxN x 3 ≠ 0 then outStep s x 1 0
  else if n = gCount ws * pl then .done s x 0 0 0
  else
    let j := n / pl
    match dBytes s x (gIdx ws + 8 * j) 8 with
    | (t, .error (ln, .poison)) =>
      let lo := (max (ln * 64) (gIdx ws) - gIdx ws) / 8
      let hi := min ((ln * 64 + 63 - gIdx ws) / 8) (gCount ws - 1)
      .more t (startPoison x (lo * pl) ((hi - lo + 1) * pl))
    | (t, .error (_, l)) => dFail t x l 0
    | (t, .ok eb) =>
      let e := leNat eb
      let tag := if fld e 48 16 = 0 then dSpace ws else fld e 48 16
      let a := fld e 0 48
      -- the lookup of an entry that names a tag of its own is the descriptor's from its first line on (02 R72, R75)
      let key := if fld e 48 16 = 0 then tag else 2 ^ 16 * (j + 1) + tag
      (match x.tags.find? (·.1 == key), t.spaceSlot tag with
        | some (_, sl), _ =>
          if a % 64 ≠ 0 then
            if ringOwner t x.ring < 16 then .more { t with fresh := t.fresh + 64 } (startOut x n (freeFill t.fresh 64))
            else .stop t x .ext
          else match dRead t { x with tags := [(tag, sl)] } tag (a + 64 * (n % pl)) with
            | (u, .ok d) => .more u (startOut x n d)
            | (u, .poison) => .more u (startPoison x n 1)
            | (u, l) => dFail u x l 0
        | none, none => .done t x 0x01 0 0
        | none, some sl =>
          if t.rd RNG_CFG.CLASS x.ring = 1 ∧ ¬ tagAllowed t (ringOwner t x.ring) tag then .done t x 0x02 0 0
          else .more t { x with tags := (key, sl) :: x.tags.filter (·.1 < 2 ^ 16) })

end Sys2Proof.Machine
end

