-- ==== Sys2Proof/Machine/Invoke.lean ====
section
/-!
DEFINITION. Sys2Proof/Machine/Invoke.lean: loading pool programs and running their invocations (06 R280 to R292).
-/
namespace Sys2Proof.Machine

/-! ## The program table and loads (R280 to R283) -/

def progKey (p slot : Nat) : Nat := p * 256 + slot
def setProgValid (s : State) (p slot v : Nat) : State :=
  s.wrReg PRT_PROG_VALID.reg p (slot / 64) 0 (setFld (s.rdReg PRT_PROG_VALID.reg p (slot / 64) 0) (slot % 64) 1 v)

/-- Whether an invocation of a slot runs (R281 step 2). -/
def slotBusy (s : State) (p slot : Nat) : Bool := s.invocs.any fun v => v.2.part == p && v.2.slot == slot

/-- PRT_PROG_STAT set whole. -/
def progStat (s : State) (p state reason opidx slot : Nat) : State :=
  s.wrReg PRT_PROG_STAT.reg p 0 0 (state + reason * 2 ^ 8 + opidx * 2 ^ 16 + slot * 2 ^ 22)

/-- A load ends: event 0x0410 (R281 step 5, R292). -/
def loadEnd (s : State) (p slot state reason opidx : Nat) : State :=
  evPart (progStat (endFlights { s with loads := kdel p s.loads } (.load p)) p state reason opidx slot) p 0x0410 slot (reason + opidx * 2 ^ 8) 0

/-- GO (R280, R281 step 2). -/
def loadGo (s : State) (p : Nat) : State :=
  if s.rd PRT_PROG_STAT.STATE p = 1 then s
  else
    let slot := s.rd PRT_PROG_LOAD.SLOT p
    if slotBusy s p slot then loadEnd s p slot 3 11 0
    else
      let t := { s with loads := kput p ⟨slot, s.rd PRT_PROG_SRC.ADDR p, s.rd PRT_PROG_SRC.SPACE p, .run, 0⟩ s.loads }
      progStat t p 1 0 0 slot

/-- CLEAR (R283). -/
def progClear (s : State) (p : Nat) : State :=
  if s.rd PRT_PROG_STAT.STATE p = 1 then s
  else
    let slot := s.rd PRT_PROG_LOAD.SLOT p
    if slotBusy s p slot then progStat s p 3 11 0 slot
    else progStat (setProgValid { s with progs := kdel (progKey p slot) s.progs } p slot 0) p 0 0 0 slot

/-- How an image read stands. -/
inductive ImgRead where
  | ok (data : List Byte)
  | fails
  | waits (w : Wait) (addr : Nat)
deriving DecidableEq, Repr

/-- One line's request of an image read. A fault record of it names access 7 and, as 03 R168 gives a load no requester, this
chip's own node: DESIGN CHOICE, log entry 13. -/
def imageReq (s : State) (p q tag a : Nat) : LReq :=
  { who := .load p, part := q, tag := tag, addr := a, access := 7, need := 1, first := nodeId s, firstRing := false }

/-- Reads `n` lines of an image. -/
def readImage (s : State) (p tag a : Nat) : Nat → List Byte → State × ImgRead
  | 0, acc => (s, .ok acc)
  | n + 1, acc =>
    let q0 := imageReq s p 0 tag a
    if (flightOf s q0).isNone ∧ ¬ tagAllowed s p tag then (s, .fails)
    else match lookFor s q0 with
      | none => (s, .fails)
      | some (slot, q) =>
        match lineRead s slot (imageReq s p q tag a) with
        | (t, .okL d) => readImage t p tag (a + 64) n (acc ++ d)
        | (t, .wait w) => (t, .waits w a)
        | (t, .nakL 1 _) => (t, .waits .retry a)
        | (t, _) => (t, .fails)

/-- A load's image once its lines are read: checked and taken, or refused (R281 steps 4 and 5). -/
def loadTake (s : State) (p slot n : Nat) (bs : List Byte) : State :=
  let img := bytesToWords (8 + 2 * n) bs
  match imageCheck img with
  | (0, _) => loadEnd (setProgValid { s with progs := kput (progKey p slot) img s.progs } p slot 1) p slot 2 0 0
  | (r, j) => loadEnd s p slot 3 r j

/-- The image's lines are read, checked and taken (R281 steps 3 to 5). While a read is held or turned away with "retry
after" the load goes on. -/
def loadRun (s : State) (p : Nat) : State :=
  match kget p s.loads with
  | none => s
  | some l =>
    let go := fun (t : State) (w : Wait) (a : Nat) => { t with loads := kput p { l with wait := w, at_ := a } t.loads }
    match l.wait with
    | .ends _ => loadEnd s p l.slot 3 1 0
    | w =>
      if ¬ waitOver w then s
      else match readImage s p l.space l.addr 1 [] with
        | (t, .waits w a) => go t w a
        | (t, .fails) => loadEnd t p l.slot 3 1 0
        | (t, .ok h) =>
          let n := fld (leNat (h.take 8)) 24 7
          match readImage t p l.space (l.addr + 64) (ceilDiv n 4) h with
          | (u, .waits w a) => go u w a
          | (u, .fails) => loadEnd u p l.slot 3 1 0
          | (u, .ok bs) => loadTake u p l.slot n bs

/-! ## Invocations (R284 to R291) -/

def getInvoc (s : State) (x : Started) : Option Invoc := kget (fetchKey x.ring x.idx) s.invocs
def setInvoc (s : State) (x : Started) (v : Invoc) : State := { s with invocs := kput (fetchKey x.ring x.idx) v s.invocs }

def ivN (v : Invoc) : Nat := wfld (nthW v.args 0) 0 40
def ivTiles (v : Invoc) : Nat := ceilDiv (ivN v) 2048
/-- Base and tag of an entry of the argument block, where tag 0 stands for SPACE (R284). -/
def ivPlace (v : Invoc) (ws : List Word) (i : Nat) : Nat × Nat :=
  let w := nthW v.args i
  (wfld w 0 48, if wfld w 48 16 = 0 then dSpace ws else wfld w 48 16)
def ivIn (v : Invoc) (ws : List Word) (k : Nat) : Nat × Nat := ivPlace v ws (8 + k)
def ivOut (v : Invoc) (ws : List Word) (k : Nat) : Nat × Nat := ivPlace v ws (16 + k)
def ivTgt (v : Invoc) (ws : List Word) (k : Nat) : Nat × Nat := ivPlace v ws (1 + k)

/-! ### Cells (05 R216, R230, 06 R286) -/

/-- The 16 cells of a slice that work: those of its 17 that are neither in the defect list nor retired, in order (01 R35). -/
def cellsOf (s : State) (sl : Nat) : List Nat :=
  (((List.range 17).map (17 * sl + ·)).filter fun c => !((defects s).contains (16 * c) || s.watch.retired.contains c)).take 16

def cellAt (s : State) (c : Nat) : Cell := kgetD ⟨0, []⟩ c s.cells

/-- A cell's own state replaced; one that holds nothing is not listed. -/
def setCell (s : State) (c : Nat) (x : Cell) : State :=
  { s with cells := if x = ⟨0, []⟩ then kdel c s.cells else kput c x s.cells }

/-- Puts a tile of an invocation on a cell of a slice that holds fewer than two, the first in order (R286). -/
def placeTile (s : State) (key sl : Nat) : Option (State × Nat) :=
  ((cellsOf s sl).find? fun c => decide ((cellAt s c).tiles.length < 2)).map fun c =>
    (setCell s c { cellAt s c with tiles := (cellAt s c).tiles ++ [key] }, c)

/-- The tile that a cell holds for an invocation has ended: one that waits for a place on the slice may start. -/
def freeCell (s : State) (key : Nat) (cell : Option Nat) : State :=
  match cell with
  | none => s
  | some c => rewait (setCell s c { cellAt s c with tiles := (cellAt s c).tiles.erase key }) (· == .cell (c / 17)) (.wait .run) .run

/-- A reset of a cell: nothing of its own survives (05 R216). A tile that it held and of which no line has been written starts
again on a cell of the slice, with its accumulators as they were before it (15, "A cell that fails twice"); one that is being
written goes on (DESIGN CHOICE, log entry 64). -/
def cellLost (s : State) (c : Nat) : State :=
  let back := fun (v : Nat × Invoc) =>
    if v.2.cell ≠ some c then v
    else if v.2.begun then (v.1, { v.2 with cell := none })
    else (v.1, { v.2 with cell := none, outs := [], acc := if v.2.outs = [] then v.2.acc else v.2.acc0 })
  rewait { s with invocs := s.invocs.map back, cells := kdel c s.cells } (· == .cell (c / 17)) (.wait .run) .run

/-- The generators of a partition's cells are seeded (05 R230): from PRT_SR_SEED, or anew where it holds 0. -/
def seedCells (s : State) (p : Nat) : State :=
  let v := s.rd PRT_SR_SEED.SEED p
  ((s.slicesOf p).flatMap (cellsOf s)).foldl (fun t c =>
    setCell t.tickFresh c { cellAt t c with seed := if v = 0 then (Config.openValue t.fresh).toNat else v }) s

/-! ### Ends -/

/-- An invocation is over: its flags are gathered, its cell is free (R285 step 6, R291). -/
def invocGone (s : State) (x : Started) (v : Invoc) : State :=
  let s := freeCell { s with invocs := kdel (fetchKey x.ring x.idx) s.invocs } (fetchKey x.ring x.idx) v.cell
  if v.fl = 0 then s else (arithFlags s v.exc v.part v.fl x.ring (dCtag x.words)).count PRT_ARITH_STAT.DESC_EXC v.part

/-- Ends an invocation: its flags, its count, its completion (R285 step 6, R291). -/
def invocEnd (s : State) (x : Started) (v : Invoc) (status : Nat) : DStep :=
  let s := invocGone s x v
  .done (if status = 0 then s.count PRT_PROG_CNT.RUNS v.part else s) x status 0 0

/-- The tags that an argument block's entries name: of its streams and its memory targets (R284). -/
def invocTags (v : Invoc) (ws : List Word) : List Nat :=
  (List.range (piNin v.img)).map (fun k => (ivIn v ws k).2) ++ (List.range (piNout v.img)).map (fun k => (ivOut v ws k).2) ++
    ((List.range 4).filter fun k => piTarget v.img k == 1).map fun k => (ivTgt v ws k).2

/-- Step 2 of R285 once the block is read: the status of the first check that fails, 0 where none does. -/
def invocCheck (s : State) (x : Started) (v : Invoc) : Nat :=
  let ws := x.words
  let l := v.img
  let c1 := decide (s.rd RNG_CFG.CLASS x.ring = 1)
  let tags := invocTags v ws
  let parW := fun (k : Nat) => nthW v.args (24 + k)
  let objs := ((List.range (piNparam l)).filter fun k => (parW k).toNat.testBit 32).map (fun k => wfld (parW k) 0 16) ++
    ((List.range 4).filter fun k => piTarget l k == 2).map fun k => wfld (nthW v.args (1 + k)) 0 16
  let tagBad := fun (t : Nat) => if c1 ∧ ¬ tagAllowed s (ringOwner s x.ring) t then 2 else if (s.spaceSlot t).isNone then 1 else 0
  let objBad := fun (o : Nat) => if c1 then if objPart s o = some (ringOwner s x.ring) then 0 else 2
    else if (objPart s o).isSome then 0 else 6
  ((tags.map tagBad ++ objs.map objBad).find? (· != 0)).getD 0

/-- Step 3 of R285 goes on: parameter by parameter, a FROM_OBJ object at its turn (07 R298); then the constants and the
identities. None where the next object is not yet this invocation's to read, with that object. -/
def invocPar (s : State) (x : Started) (v : Invoc) : State × Except Nat Invoc :=
  let l := v.img
  let k := v.par.length
  let w := nthW v.args (24 + k)
  let o := wfld w 0 16
  if k < piNparam l then
    if ¬ w.toNat.testBit 32 then (s, .ok { v with par := v.par ++ [wfld w 0 32] })
    else if objTurn s o (.desc x.ring x.idx) then (s, .ok { v with par := v.par ++ [objW0 s o % 2 ^ 32] })
    else (objJoin s o (.desc x.ring x.idx), .error o)
  else
    let acc := (List.range 4).map fun k => accStore (accInit 0 (piAcc l k == 1) (piComb l k))
    let c := (piOps l).foldl (fun (a : AEnv) o => if 0x20 ≤ o.op then (fusedConst a o v.par).1 else a) ⟨v.sat, false, s.fresh, 0⟩
    ({ s with fresh := c.c }, .ok { v with acc := acc, c0 := s.fresh, fl := v.fl ||| c.fl, phase := 1 })

/-- The constants of each operation, drawn again from where they started. -/
def invocConsts (v : Invoc) : List (List Num) :=
  ((piOps v.img).foldl (fun (r : AEnv × List (List Num)) o =>
    if 0x20 ≤ o.op then
      let (a, cs) := fusedConst r.1 o v.par
      (a, cs :: r.2)
    else (r.1, [] :: r.2)) (⟨v.sat, false, v.c0, 0⟩, [])).2.reverse

/-- Bytes of one tile's part of a stream with `n` lanes (R266). -/
def tileBytes (f n : Nat) : Nat := if isMx f then 64 * tileLines f else n * fmtBits f / 8

/-- Whether some operation reads input `k`. -/
def readsIn (l : List Word) (k : Nat) : Bool :=
  (piOps l).any fun o => o.a == 0x10 + k || o.b == 0x10 + k || o.c == 0x10 + k

/-- The lines of one tile of input `k`. -/
def readTileIn (s : State) (x : Started) (v : Invoc) (t n k : Nat) : State × Except DLine (List Byte) :=
  if ¬ readsIn v.img k then (s, .ok [])
  else
    let f := piIfmt v.img k
    let (base, tag) := ivIn v x.words k
    let ls := (List.range (tileBytes f n / 64)).map fun i => base + t * tileBytes f 2048 + 64 * i
    match dReadMany s x tag 9 ls 0 [] with
    | (u, .ok bs) => (u, .ok bs)
    | (u, .error (_, l)) => (u, .error l)

/-- Every input of a tile; a line that waits or fails decides before a poisoned one. -/
def readTile (s : State) (x : Started) (v : Invoc) (t n : Nat) : State × Except DLine (List (List Byte)) :=
  let r := (List.range (piNin v.img)).foldl (fun (r : State × List (List Byte) × List DLine) k =>
    match readTileIn r.1 x v t n k with
    | (u, .ok bs) => (u, r.2.1 ++ [bs], r.2.2)
    | (u, .error l) => (u, r.2.1 ++ [[]], r.2.2 ++ [l])) (s, [], [])
  match r.2.2.find? (fun l => match l with
      | .wait _ | .ends _ => true
      | _ => false) with
  | some l => (r.1, .error l)
  | none => match r.2.2 with
    | l :: _ => (r.1, .error l)
    | [] => (r.1, .ok r.2.1)

/-- Lines that a tile writes to output `k`. -/
def tileOutLines (v : Invoc) (ws : List Word) (t k n : Nat) (data : Option (List Byte)) : List TileOut :=
  let f := piOfmt v.img k
  let (base, tag) := ivOut v ws k
  (List.range (tileBytes f n / 64)).map fun i =>
    ⟨tag, base + t * tileBytes f 2048 + 64 * i, (data.map fun d => (d.drop (64 * i)).take 64).getD [], data.isNone⟩

/-- One more tile has been skipped or poisoned (R289). -/
def badTile (v : Invoc) (t : Nat) : Invoc :=
  { v with bad := v.bad + 1, badLo := if v.bad = 0 then t else v.badLo, badHi := t }

/-- Whether an invocation keeps to R266: whole lines, whole tiles for MX, bases line-aligned. What R267 calls host errors, other
overlaps, is not looked for: tiles and targets then take effect in the model's order (DESIGN CHOICE, log entry 11). -/
def streamsOk (v : Invoc) (ws : List Word) : Bool :=
  let fs := (List.range (piNin v.img)).map (fun k => (piIfmt v.img k, (ivIn v ws k).1)) ++
    (List.range (piNout v.img)).map fun k => (piOfmt v.img k, (ivOut v ws k).1)
  fs.all fun f => f.2 % 64 == 0 && (if isMx f.1 then ivN v % 2048 == 0 else ivN v * fmtBits f.1 % 512 == 0)

/-- A tile of an invocation that breaks R266: free bytes in every line that its outputs touch (R266). -/
def wildTile (s : State) (v : Invoc) (ws : List Word) (t n : Nat) : State × List TileOut :=
  let ls := (List.range (piNout v.img)).flatMap fun k =>
    let f := piOfmt v.img k
    let (base, tag) := ivOut v ws k
    let len := if isMx f then 64 * tileLines f else ceilDiv (n * fmtBits f) 8
    (coverLines (base + t * tileBytes f 2048) len).1.map fun a => (tag, a)
  ({ s with fresh := s.fresh + 64 * ls.length },
   (List.range ls.length).map fun i => ⟨(ls.getD i (0, 0)).1, (ls.getD i (0, 0)).2, freeFill (s.fresh + 64 * i) 64, false⟩)

/-- Its scalar accumulators hold free values (R266). -/
def wildAcc (s : State) (acc : List AccW) : State × List AccW :=
  let val := fun (i : Nat) => (Config.openValue (s.fresh + i)).toNat
  ({ s with fresh := s.fresh + acc.length },
   (List.range acc.length).map fun i =>
     let k := ((acc[i]?).map (·.kind)).getD 0
     ⟨k, val i % 2 ^ 32, if k = 1 then val i / 2 ^ 32 else 0⟩)

/-- The slice that a tile runs on: the home of its first line of O0, or of I0 where there is no output (R286). -/
def tileSlice (s : State) (x : Started) (v : Invoc) (t : Nat) : Nat :=
  let (f, base, tag) := if piNout v.img = 0 then (piIfmt v.img 0, ivIn v x.words 0) else (piOfmt v.img 0, ivOut v x.words 0)
  let a := base + t * tileBytes f 2048
  match dLook s x tag a with
  | some (_, p) => s.homeSlice p a
  | none => s.homeSlice v.part a

/-- The tile under way has ended: it is counted and leaves its cell. -/
def tileEnds (s : State) (x : Started) (v : Invoc) : State :=
  setInvoc (freeCell s (fetchKey x.ring x.idx) v.cell) x { v with tile := v.tile + 1, cell := none, begun := false }

/-- A tile's outputs are ready: they are to be written, or it has none and ends. -/
def tileReady (s : State) (x : Started) (v : Invoc) (acc : List AccW) (outs : List TileOut) : State :=
  let v := { v with acc0 := v.acc, acc := acc, outs := outs, begun := false }
  if outs = [] then tileEnds s x v else setInvoc s x v

/-- A line of the tile under way has been written, or has failed: the tile goes on with the others to its end (R289). -/
def lineEnds (s : State) (x : Started) (v : Invoc) : State :=
  let v := { v with outs := v.outs.tail, begun := true }
  if v.outs = [] then tileEnds s x v else setInvoc s x v

/-- A poisoned line counts its tile, once (R289). -/
def badOnce (s : State) (v : Invoc) (t : Nat) : State × Invoc :=
  if v.bad ≠ 0 ∧ v.badHi = t then (s, v) else (s.count PRT_PROG_CNT.TILES_SKIPPED v.part, badTile v t)

/-- Free bytes in a destination line, where it resolves. -/
def wildLine (s : State) (x : Started) (tag a : Nat) : State :=
  match dLook s x tag a with
  | none => s
  | some (slot, p) => match resolveLine s slot (descReq x p tag a 9 2) with
    | (t, .ok r) => { t.setLine r.line (freeFill t.fresh 64) with fresh := t.fresh + 64 }
    | (t, .error _) => t

/-- A reset ends an invocation: a tile that has started and not ended leaves its outputs indeterminate (R289). -/
def invocReset (s : State) (x : Started) (v : Invoc) : State :=
  let ls := if v.phase = 1 ∧ v.cell.isSome then
      (List.range (piNout v.img)).flatMap fun k => tileOutLines v x.words v.tile k (min 2048 (ivN v - 2048 * v.tile)) none
    else []
  invocGone (ls.foldl (fun t o => wildLine t x o.tag o.addr) s) x v

/-- Events of an invocation that ends (R289, R292). -/
def invocEvents (s : State) (x : Started) (v : Invoc) : State :=
  let o := ringOwner s x.ring
  let s := if v.bad = 0 then s else evOwner s o o 0x0411 x.ring (dCtag x.words + v.badLo * 2 ^ 32) (v.bad % 2 ^ 32 + v.badHi * 2 ^ 32)
  if v.stop = 0 then s else evOwner s o o 0x0412 x.ring (dCtag x.words) (v.tile % 2 ^ 32 + ivTiles v % 2 ^ 32 * 2 ^ 32)

/-- Delivers target `k` (R287, R288, R303). -/
def deliverTgt (s : State) (x : Started) (v : Invoc) (k : Nat) : DStep :=
  let next := fun (t : State) => DStep.more (setInvoc t x { v with tgt := k + 1 }) x
  let c := accLoad (v.acc.getD k ⟨0, 0, 0⟩)
  let e : AEnv := ⟨v.sat, false, 0, v.fl⟩
  let (e, one) := toFp e 0 (accVal c)
  let v := { v with fl := e.fl }
  let (a, tag) := ivTgt v x.words k
  if piTarget v.img k = 1 then
    let r := if v.bad ≠ 0 then dPoison s x tag a
      else dWrite s x tag a (lineOfWords [match c with
        | .p h l => bits32 h + bits32 l * 2 ^ 32
        | _ => one])
    match r with
    | (t, .ok _) => next t
    | (t, .wait w) => .stop t x w
    | (t, .ends st) => invocEnd (invocEvents t x v) x v st
    | (t, .poison) => invocEnd (invocEvents t x v) x v 0x08
  else if piTarget v.img k = 2 ∧ v.bad = 0 then
    let o := wfld (nthW v.args (1 + k)) 0 16
    if ¬ objTurn s o (.desc x.ring x.idx) then .stop (objJoin s o (.desc x.ring x.idx)) x (.obj o)
    else next (match objPart s o with
      | some p => syncSignal s p o (some one)
      | none => s)
  else next s

/-- One step of an invocation. -/
def progStep (s : State) (x : Started) : DStep :=
  let ws := x.words
  match getInvoc s x with
  | none =>
    let p := if s.rd RNG_CFG.CLASS x.ring = 1 then some (ringOwner s x.ring)
      else (resolvePart s (dSpace ws) (dOp ws 1 0 48)).map (·.2)
    (match p with
      | none => .done s x 0x01 0 0
      | some p => match kget (progKey p (dOp ws 0 0 8)) s.progs with
        | none => .done s x 0x1D 0 0
        | some img =>
          .more (setInvoc s x ⟨p, dOp ws 0 0 8, img, [], [], s.on PRT_ARITH_CFG.SAT_NARROW p, s.on PRT_ARITH_CFG.EXC_EVENT p, 0, [], 0, 0, 0, 0, 0, [], 0, 0, 0,
            none, [], false⟩) x)
  | some v =>
    if v.phase = 0 then
      if v.args ≠ [] then
        match invocPar s x v with
        | (u, .ok v) => .more (setInvoc u x v) x
        | (u, .error o) => .stop u x (.obj o)
      else match dReadMany s x (dSpace ws) 7 ((List.range 7).map fun i => dOp ws 1 0 48 + 64 * i) 0 [] with
      | (t, .error (_, .wait w)) => .stop t x w
      | (t, .error (_, .ends st)) => invocEnd t x v st
      | (t, .error _) => invocEnd t x v 0x08
      | (t, .ok bs) =>
        let v := { v with args := bytesToWords 56 bs }
        if invocCheck t x v ≠ 0 then invocEnd t x v (invocCheck t x v)
        else .more (setInvoc t x v)
          { x with tags := x.tags ++ (invocTags v ws).filterMap fun g => (t.spaceSlot g).map fun sl => (g, sl) }
    else if v.phase = 1 then
      match v.outs with
      | o :: _ =>
        let r := if o.poison then dPoison s x o.tag o.addr 9 else dWrite s x o.tag o.addr o.data 9
        (match r with
          | (t, .ok _) => .more (lineEnds t x v) x
          | (t, .wait w) => .stop t x w
          | (t, .ends st) => .more (lineEnds t x { v with stop := if v.stop = 0 then st else v.stop }) x
          | (t, .poison) =>
            let (t, v) := badOnce t v v.tile
            .more (lineEnds t x v) x)
      | [] =>
        if v.stop ≠ 0 ∨ v.tile = ivTiles v then
          .stop (setInvoc (freeCell s (fetchKey x.ring x.idx) v.cell) x { v with phase := 2, cell := none }) x .ext
        else
          let t := v.tile
          let n := min 2048 (ivN v - 2048 * t)
          (match v.cell with
          | none => match placeTile s (fetchKey x.ring x.idx) (tileSlice s x v t) with
            | some (u, c) => .more (setInvoc u x { v with cell := some c }) x
            | none => .stop s x (.cell (tileSlice s x v t))
          | some _ =>
            if ¬ streamsOk v ws then
              let (u, outs) := wildTile s v ws t n
              let (u, acc) := wildAcc u v.acc
              .more (tileReady u x v acc outs) x
            else match readTile s x v t n with
              | (u, .error (.wait w)) => .stop u x w
              | (u, .error (.ends st)) => .more (setInvoc u x { v with stop := st }) x
              | (u, .error _) =>
                let (u, v) := badOnce u v t
                let outs := if piPropagate v.img then (List.range (piNout v.img)).flatMap fun k => tileOutLines v ws t k n none else []
                .more (tileReady u x v v.acc outs) x
              | (u, .ok bss) =>
                let l := v.img
                let ins := (List.range (piNin l)).map fun k => unpackVals (piIfmt l k) (bss.getD k [])
                let raw := (List.range (piNin l)).map fun k =>
                  if piIfmt l k = 12 then (chunks 2049 8 (bss.getD k [])).map leNat else []
                let (e, acc, outs) := runTile ⟨v.sat, false, u.fresh, v.fl⟩ l v.par (invocConsts v) (v.acc.map accLoad) ins raw n
                let outs := outs.flatMap fun o => tileOutLines v ws t o.1 n (some o.2)
                .more (tileReady (arithDone u e) x { v with fl := e.fl } (acc.map accStore) outs) x)
    else if v.phase = 2 then .stop s x .ext
    else if v.stop ≠ 0 then invocEnd (invocEvents s x v) x v v.stop
    else if v.tgt < 4 then deliverTgt s x v v.tgt
    else invocEnd (invocEvents s x v) x v (if v.bad ≠ 0 then 0x08 else 0)

/-- An access of an invocation has been refused or poisoned while it waited: its block's read, a line of the tile under way, or
a target (R285, R289). -/
def invocFail (s : State) (x : Started) (v : Invoc) (st : Nat) : DStep :=
  let v' := { v with stop := if v.stop = 0 then st else v.stop }
  if v.phase = 0 then invocEnd s x v st
  else if v.phase = 3 then invocEnd (invocEvents s x v) x v st
  else if v.phase = 1 ∧ v.outs ≠ [] then .more (lineEnds s x v') x
  else .stop (setInvoc (freeCell s (fetchKey x.ring x.idx) v.cell) x { v' with phase := 2, cell := none }) x .ext

/-- RUN_TMO stops an invocation: no further tile starts (R289). -/
def invocStop (s : State) (x : Started) (v : Invoc) : State :=
  let v := { v with stop := 0x0D }
  if v.phase = 1 ∧ v.outs = [] then
    setStarted (setInvoc (freeCell s (fetchKey x.ring x.idx) v.cell) x { v with phase := 2, cell := none }) { x with wait := .ext }
  else setInvoc s x v

end Sys2Proof.Machine
end

