-- ==== Sys2Proof/Machine/Extent.lean ====
section
/-!
DEFINITION. Sys2Proof/Machine/Extent.lean: adding, releasing and moving extents (02 R112 to R126, 04 R182 to R188, R210),
published versions (08 R323 to R340), SPACE_INVAL and FAULT_REPLY (02 R91 to R104).
-/
namespace Sys2Proof.Machine

/-- Fuel that no run of a descriptor exhausts: one step a line, an index or a page, each a few times. -/
def runFuel : Nat := 2 ^ 62

/-! ## Room (02 R110, R117, 04 R182, R185) -/

/-- Pieces taken on channel `c`: (offset, bytes). -/
def slotsOn (s : State) (c : Nat) : List (Nat × Nat) :=
  s.extents.flatMap fun e => (e.2.slots ++ e.2.newSlots).filterMap fun t => if t.1 = c then some t.2 else none

/-- Whether a partition has its DRAM-cache area: it owns a deep extent, or one that moves to deep. -/
def hasArea (s : State) (p : Nat) : Bool := s.extents.any fun e => e.2.part == p && (e.2.deep || e.2.newUnits != [])

/-- Bytes of a partition's DRAM-cache area on each of its channels (04 R182). -/
def areaBytes (s : State) (p : Nat) : Nat := s.rd PRT_DCACHE_CFG.DCACHE_G p * (2 ^ 30 + 2 ^ 21)

/-- Bytes of channel `c` that slots can take, the area at its top left out when `area` asks (02 R117). -/
def slotSpace (s : State) (p c : Nat) (area : Bool) : Nat :=
  s.rd DDR_CTL.CAP_G c * 2 ^ 30 * 15 / 16 - (if area then areaBytes s p else 0)

/-- The lowest offset at which `n` bytes fit on channel `c`. -/
def fitSlot (s : State) (p c n : Nat) (area : Bool) : Option Nat :=
  let used := slotsOn s c
  let cands := 0 :: used.map fun u => u.1 + u.2
  argMin id (cands.filter fun o => decide (o + n ≤ slotSpace s p c area) &&
    used.all fun u => decide (o + n ≤ u.1) || decide (u.1 + u.2 ≤ o))

/-- The channels of a partition, in place order (02 R109). -/
def chansOf (s : State) (p : Nat) : List Nat := (s.slicesOf p).flatMap fun sl => [2 * sl, 2 * sl + 1]

/-- A slot on each channel of a partition for a fast extent of `l` GiB; none where a channel lacks one (02 R110). -/
def takeSlots (s : State) (p l : Nat) : Option (List (Nat × Nat × Nat)) :=
  let cs := chansOf s p
  let n := l * 16 * pageShare (s.grain p) cs.length
  let r := cs.map fun c => (c, fitSlot s p c n (hasArea s p))
  if cs = [] ∨ r.any (·.2.isNone) then none else some (r.map fun x => (x.1, x.2.getD 0, n))

/-- Units of drive `d` that no extent holds, as runs of ascending units, `n` of them. -/
def freeRuns (s : State) (d : Nat) : Nat → Nat → Nat → List (Nat × Nat × Nat) → Option (List (Nat × Nat × Nat))
  | 0, _, _, _ => none
  | fuel + 1, n, u, acc =>
    if n = 0 then some acc.reverse
    else if s.rd NVM_CAP.UNITS d ≤ u then none
    else
      let runs := (s.extents.flatMap fun e => e.2.units ++ e.2.newUnits).filter (·.1 == d)
      match runs.find? fun r => decide (r.2.1 ≤ u) && decide (u < r.2.1 + r.2.2) with
      | some r => freeRuns s d fuel n (r.2.1 + r.2.2) acc
      | none =>
        let lim := runs.foldl (fun m r => if u < r.2.1 then min m r.2.1 else m) (s.rd NVM_CAP.UNITS d)
        let k := min n (lim - u)
        freeRuns s d fuel (n - k) (u + k) ((d, u, k) :: acc)

/-- The Granary range of a deep extent of `l` GiB: ⌈l ÷ d⌉ units on each drive of the ward in service (04 R185). -/
def takeUnits (s : State) (p l : Nat) : Option (List (Nat × Nat × Nat)) :=
  let w := s.wardOf p
  let ds := (List.range 4).filterMap fun i => if s.rd NVM_CTL.STATE (4 * w + i) = 2 then some (4 * w + i) else none
  let n := ceilDiv l ds.length
  let r := ds.map fun d => freeRuns s d (2 * s.extents.length * 64 + 64) n 0 []
  if ds = [] ∨ r.any Option.isNone then none else some (r.flatMap fun x => x.getD [])

/-- Whether a partition has its DRAM-cache area, or every channel of it has room for one; with DCACHE_G 0 it has none
(04 R182). -/
def areaFits (s : State) (p : Nat) : Bool :=
  s.rd PRT_DCACHE_CFG.DCACHE_G p != 0 && (hasArea s p || (chansOf s p).all fun c =>
    decide (areaBytes s p ≤ s.rd DDR_CTL.CAP_G c * 2 ^ 30 * 15 / 16) &&
    (slotsOn s c).all fun u => decide (u.1 + u.2 ≤ slotSpace s p c true))

/-- Bytes of the written map of a deep extent of `l` GiB on each channel, in whole lines (04 R184). -/
def mapBytes (s : State) (p l : Nat) : Nat := ceilDiv (l * 16 * pageShare 16 (chansOf s p).length) (2 ^ 21) * 64

/-- A piece on each channel of a partition for the written map of a deep extent, outside the area (04 R184). -/
def takeMap (s : State) (p l : Nat) : Option (List (Nat × Nat × Nat)) :=
  let n := mapBytes s p l
  let r := (chansOf s p).map fun c => (c, fitSlot s p c n true)
  if r = [] ∨ r.any (·.2.isNone) then none else some (r.map fun x => (x.1, x.2.getD 0, n))

/-- The storage of a new extent: slots, or the pieces of a written map and units; none for "no capacity". -/
def takeStore (s : State) (p l : Nat) (deep : Bool) : Option (List (Nat × Nat × Nat) × List (Nat × Nat × Nat)) :=
  if deep then
    if areaFits s p then match takeMap s p l, takeUnits s p l with
      | some m, some u => some (m, u)
      | _, _ => none
    else none
  else (takeSlots s p l).map fun x => (x, [])

/-- The lines of an extent's slots, or of its written map, are transferred at their channels as placement work (12 R470). -/
def chargeSlots (s : State) (p : Nat) (slots : List (Nat × Nat × Nat)) : State :=
  slots.foldl (fun t x => askBulk t x.1 (p * 4 + 3) (x.2.2 / 64)) s

/-- XLT_EXT_USED and the drives' FREE counts follow the table (02 R127, 04 R214). -/
def extCount (s : State) : State :=
  let s := s.wr XLT_EXT_USED.EXTENTS s.extents.length
  let s := (List.range 16).foldl (fun s p => s.wr PRT_EXT_USED.EXTENTS (s.extents.filter fun e => e.2.part == p).length p) s
  (List.range 16).foldl (fun s d =>
    let used := (s.extents.flatMap fun e => e.2.units ++ e.2.newUnits).foldl (fun n r => if r.1 = d then n + r.2.2 else n) 0
    if s.rd NVM_CAP.UNITS d = 0 then s else s.wr NVM_CAP.FREE (s.rd NVM_CAP.UNITS d - used) d) s

/-! ## EXTENT_ADD (02 R116, 09 R345) -/

def eoBase (ws : List Word) : Nat := dOp ws 0 0 22
def eoLen (ws : List Word) : Nat := dOp ws 0 32 11
def eoPart (ws : List Word) : Nat := dOp ws 0 44 4
def eoDeep (ws : List Word) : Bool := dOp ws 0 48 2 == 1

/-- Why an EXTENT_ADD is refused; 0 when it is accepted. -/
def addRefused (s : State) (ws : List Word) : Nat :=
  let b := eoBase ws
  let l := eoLen ws
  let p := eoPart ws
  let coh := decide (dOp ws 0 56 1 = 1)
  let dom := dOp ws 0 57 6
  if coh ∧ (eoDeep ws ∨ dOp ws 0 50 1 = 1) then 0x09
  else if coh ∧ (¬ cohUp s dom ∨ s.rd XLT_COH_CFG.PART dom ≠ p) then 0x14
  else if eoDeep ws ∧ dOp ws 0 50 1 = 1 then 0x09
  else if ¬ s.partOn p then 0x14
  else if s.extents.any fun e => decide (e.1 < b + l) && decide (b < e.1 + e.2.lenG) then 0x10
  else if reservedBase < (b + l) * 2 ^ 30 then 0x11
  else if 4096 ≤ (s.extents.filter fun e => e.2.part == p).length ∨ 65536 ≤ s.extents.length then 0x12
  else if (takeStore s p l (eoDeep ws)).isNone then 0x13
  else 0

/-- A partition that takes an extent without a memory key has one generated (14 R518). -/
def ensureKey (s : State) (p : Nat) : State :=
  if (kget p s.keys.mem).isSome then s
  else
    let key := (List.range 96).map fun i => Config.drbg (s.fresh + i)
    { s with fresh := s.fresh + 96, keys := { s.keys with mem := kput p key s.keys.mem } }.wr PRT_SEC_CFG.KEY_SET 1 p

/-- Accepts an EXTENT_ADD: the entry is OPENING (step 2). -/
def addEntry (s : State) (x : Started) : State :=
  let ws := x.words
  let (slots, units) := (takeStore s (eoPart ws) (eoLen ws) (eoDeep ws)).getD ([], [])
  let e : Ext :=
    { lenG := eoLen ws, part := eoPart ws, deep := eoDeep ws, table := dOp ws 0 50 1 == 1, coh := dOp ws 0 56 1 == 1,
      dom := dOp ws 0 57 6, st := .opening, slots := slots, units := units, lost := [], by_ := some (x.ring, x.idx),
      newSlots := [], newUnits := [], poisoned := 0, absorbed := false, allWritten := false }
  chargeSlots (extCount ((ensureKey s (eoPart ws)).setExt (eoBase ws) e)) (eoPart ws) slots

def addStep (s : State) (x : Started) : DStep :=
  let c := addRefused s x.words
  if c ≠ 0 then .done s x c 0 0 else .stop (addEntry s x) x .ext

/-- The range of lines of an extent. -/
def extLines (b : Nat) (e : Ext) : Nat × Nat := (b * 2 ^ 24, (b + e.lenG) * 2 ^ 24)
def inExt (b : Nat) (e : Ext) (line : Nat) : Bool := decide ((extLines b e).1 ≤ line) && decide (line < (extLines b e).2)

/-- Whether an entry of the MAC cache covers lines of an extent: a MAC line of its slots, or a group of its blocks. -/
def macOfExt (b : Nat) (e : Ext) (k : Nat) : Bool :=
  if 2 ^ 60 ≤ k then inExt b e ((k - 2 ^ 60) * 1024)
  else e.slots.any fun t => t.1 == k / 2 ^ 48 && decide (t.2.1 ≤ k % 2 ^ 48 * 1024) && decide (k % 2 ^ 48 * 1024 < t.2.1 + t.2.2)

/-- Every line of an extent reads as zero and no error or copy of it is left (02 R116 step 3, R121 step 4). -/
def scrubExt (s : State) (b : Nat) (e : Ext) : State :=
  let t := s.zeroRange (b * 2 ^ 30) ((b + e.lenG) * 2 ^ 30)
  let ti := t.tier
  let inB := fun (k : Nat) => inExt b e (k * 64)
  let tags := (ti.blocks.filter fun k => inB k.1).map fun k => k.2.ch * 2 ^ 48 + tagLineNo (blockSetNo s e.part k.1) k.2.way
  { t with
    chans := t.chans.map (fun c => (c.1, { c.2 with errs := c.2.errs.filter fun x => !inExt b e x.1 })),
    tier := { ti with near := ti.near.filter (fun n => !inExt b e n.1), blocks := ti.blocks.filter (fun k => !inB k.1),
                      written := ti.written.filter (fun k => !inB k), wbuf := ti.wbuf.filter (fun l => !inExt b e l),
                      mapBad := ti.mapBad.filter (fun k => !inB k), macs := ti.macs.filter (fun m => !macOfExt b e m.1),
                      tagLines := ti.tagLines.filter (fun k => !tags.contains k.1) } }

/-- Drops the pins within an extent (04 R188, R203). A pin range never crosses into another extent. -/
def dropPins (s : State) (b : Nat) (e : Ext) : State :=
  let (lo, hi) := extLines b e
  freeWays (dropLoose { s with tier := { s.tier with
    pins := s.tier.pins.filter (fun r => !(decide (r.lo < hi * 64) && decide (lo * 64 < r.hi))) } } e.part)

/-! ## Tokens (02 R120, R121) -/

/-- The codes that stand for a read and a write of a pool aperture in a held request: no packet on the fabric is
admitted with them (03 R138, 11 R415). -/
def aptRead : Nat := 0x3E
def aptWrite : Nat := 0x3F

/-- The line request that line `i` of a held packet request makes. -/
def pktReq (id : Nat) (p i : Nat) (k : Pkt) : LReq :=
  let o := pOpc k
  { who := .req id, part := p, tag := pSpace k, addr := pAddr k + 64 * i,
    access := if o = 0x01 then 0 else if o = 0x03 then 1 else if o = 0x05 then 2 else if o = 0x06 then 3
      else if o = 0x10 then 4 else if o = 0x11 ∨ o = 0x12 then 5 else if o = aptRead then 10 else if o = aptWrite then 11 else 6,
    need := if o = 0x01 ∨ o = 0x10 ∨ o = aptRead then 1 else if o = 0x05 then 4 else if o = 0x06 then 3 else 2,
    first := pSrc k, firstRing := false }

/-- Who has an access under way to the extent at `b`: each holds one of its fence tokens until it ends (02 R120). A
descriptor stream holds its tokens in `touch`. -/
def holdersOf (s : State) (b : Nat) : List Holder :=
  ((s.flights.filter (flightIn b)).map (·.who)).foldl (fun l w => match w with
    | .desc _ _ => l
    | w => if l.contains w then l else l ++ [w]) []

/-- Whether the extent at `b` has a token out (02 R120): requests, descriptor streams, coherent lines that are recalled or
still to be (R121 step 2, 09 R363), Granary transfers. -/
def tokensOut (s : State) (b : Nat) (e : Ext) : Bool :=
  holdersOf s b != [] || s.started.any (fun x => x.touch.contains b) ||
  s.coh.dir.any (fun d => inExt b e d.2.pl && (d.2.tx.isSome || d.2.owner.isSome || d.2.sharers != [])) ||
  s.tier.blocks.any (fun k => inExt b e (k.1 * 64) && (k.2.filling || k.2.wb))

/-- A request's lines that still wait end with poison. -/
def poisonWaits (r : HeldReq) : HeldReq :=
  { r with lines := r.lines.map fun l => match l with
      | .wait _ => .poisonL
      | l => l }

/-- Every request and stream that still holds a token is to end with poison, and is counted (02 R121 step 3). A Granary
transfer and a recall run to their own end. -/
def poisonHolders (s : State) (b : Nat) (e : Ext) : State :=
  let hs := holdersOf s b
  let n := hs.length + (s.started.filter fun x => x.touch.contains b).length
  let t := { s with
    reqs := s.reqs.map (fun (r : HeldReq) => if hs.contains (.req r.id) = true then poisonWaits r else r),
    started := s.started.map (fun (x : Started) => if x.touch.contains b then { x with touch := [], wait := .ends 0x08 } else x),
    sets := s.sets.map (fun (x : Nat × SetX) => if hs.contains (.set x.1) = true then (x.1, { x.2 with wait := .ends 0x08 }) else x),
    arming := s.arming.map (fun (a : Arming) => if hs.contains (.arm a.obj) = true then { a with wait := .ends 0x08 } else a),
    loads := s.loads.map (fun (l : Nat × Load) => if hs.contains (.load l.1) = true then (l.1, { l.2 with wait := .ends 0x08 }) else l),
    flights := s.flights.filter fun f => !flightIn b f }
  let t := t.setExt b { e with poisoned := e.poisoned + n }
  t.count PRT_XLT_STAT.RELEASE_POISON e.part 0 0 n

/-! ## EXTENT_RELEASE (02 R118 to R123) -/

/-- Ends the descriptor that works on an extent. -/
def finishBy (s : State) (e : Ext) (status result : Nat) : State :=
  match e.by_ with
  | none => s
  | some (r, d) => match findStarted s r d with
    | some x => finishDesc s x status result 0
    | none => s

/-- Abandons a move: its storage goes back, its descriptor ends (02 R126). -/
def abandonMove (s : State) (b : Nat) (e : Ext) (status : Nat) : State :=
  let t := extCount (s.setExt b { e with st := .open, newSlots := [], newUnits := [], by_ := none, lost := if e.deep then e.lost else [] })
  evPart (finishBy t e status 0) e.part 0x0202 status b (b2n (!e.deep))

/-- Recalls the entries that `f` picks, those whose transaction is open apart, while their slices have transaction entries
(09 R353, R354). -/
def recallWhere (s : State) (f : Nat × DirEnt → Bool) : State :=
  s.coh.dir.foldl (fun t d => if f d ∧ d.2.tx.isNone ∧ txRoom t (cohHome t d.1 d.2.pl) 1 then recallLine t d.1 d.2 else t) s

/-- Recalls the coherent lines of an extent (02 R121 step 2, 09 R353). -/
def recallExt (s : State) (b : Nat) (e : Ext) : State :=
  recallWhere s fun d => inExt b e d.2.pl

/-- Directory entries that a scope's slices hold are recalled (09 R368). -/
def dozeRecall (s : State) (sc : Nat) : State :=
  recallWhere s fun e => scopeIn s (2 * 1024 + cohHome s e.1 e.2.pl) sc

/-- Lines of CLOSING extents, and of scopes that fall asleep, whose transaction has ended since are recalled too (02 R121
step 2, 09 R363, R368). -/
def recallClosing (s : State) : State :=
  (s.ctl.rsts.filter fun r => r.kind == 9 && r.step == 2).foldl (fun t r => dozeRecall t r.scope)
    ((s.extents.filter fun e => e.2.st == .closing).foldl (fun t e => recallExt t e.1 e.2) s)

/-- A fault abandons the moves that it touches: those whose storage, old or new, lies on what `f` picks (02 R126; log entry
40). Moves that take blocks of a lost drive to DRAM go on (04 R210). -/
def faultMoves (s : State) (f : Ext → Bool) : State :=
  (s.extents.filter fun e => e.2.st == .moving && f e.2).foldl (fun t e => abandonMove t e.1 e.2 0x08) s

/-- Moves that a lost channel's slots have a part in. -/
def lostChanMoves (s : State) : State :=
  faultMoves s fun e => (e.newSlots ++ e.slots).any fun t => s.rd DDR_CTL.STATE t.1 == 6

/-- The extent becomes CLOSING (02 R121 steps 1 and 2). -/
def closeExt (s : State) (b : Nat) (e : Ext) (who : Option (Nat × Nat)) : State :=
  let s := if e.st = .moving then abandonMove s b e 0x18 else s
  match s.ext b with
  | none => s
  | some e => recallExt (s.setExt b { e with st := .closing, by_ := who, poisoned := 0, absorbed := false }) b e

/-- Why an EXTENT_RELEASE is refused; 0 when it is accepted (02 R118, R119). One of an extent in state OPENING is in none of
the cases of R118: it is accepted, and begins once the storage is initialised, which alone ends OPENING (R115; log entry
40). -/
def releaseRefused (s : State) (b p : Nat) : Nat :=
  match s.ext b with
  | none => 0x14
  | some e =>
    if e.part ≠ p then 0x14
    else if e.st = .closing ∨ e.st = .scrubbing ∨ e.closeAfter.isSome then 0x15
    else if isRegionExtent s p b ∨ s.verRels.any (fun v => v.part == p && v.exts.contains b) then 0x16
    else if e.table ∧ (List.range 4096).any (fun sl => s.on XLT_SPACE_LO.LIVE sl &&
        inExt b e (s.rd XLT_SPACE_LO.DIR_BASE sl * 2 ^ 13)) then 0x17
    else 0

def releaseStep (s : State) (x : Started) : DStep :=
  let b := eoBase x.words
  let c := releaseRefused s b (eoPart x.words)
  if c ≠ 0 then .done s x c 0 0
  else match s.ext b with
    | some e => .stop (if e.st = .opening then s.setExt b { e with closeAfter := some (x.ring, x.idx) }
        else closeExt s b e (some (x.ring, x.idx))) x .ext
    | none => .done s x 0x14 0 0

/-- The controller's ONCS bit (04 R188). -/
def oncs (s : State) (d i : Nat) : Bool := (s.rdReg NVM_IDENT.reg d 65 0).testBit i

/-- Deallocates a Granary range (04 R188): Dataset Management, else Write Zeroes, else nothing. -/
def deallocUnits (s : State) (lost : List Nat) (units : List (Nat × Nat × Nat)) : State :=
  units.foldl (fun s u =>
    let (d, f, n) := u
    if lost.contains d then s
    else if oncs s d 2 then nvmeIssue s d 4 f (f * 278528) (n * 278528)
    else if oncs s d 3 then nvmeIssue s d 3 f (f * 278528) (n * 278528)
    else s) s

/-- Frees a scrubbed extent's entry and storage (02 R121 steps 4 and 5). -/
def freeExt (s : State) (b : Nat) (e : Ext) : State :=
  let t := dropPins (scrubExt s b e) b e
  let t := deallocUnits t e.lost e.units
  tierStat (extCount { t with extents := kdel b t.extents }) e.part

/-- Whether a Curfew of the extent's partition runs, for a reset: a release of the extent stops at its step boundary, and
RELEASE_TMO stops running, until the Curfew has ended (02 R123). -/
def releaseHalted (s : State) (e : Ext) : Bool :=
  s.ctl.rsts.any fun r => decide (r.step = 2) && !isSleep r.kind && scopeIn s (3 * 1024 + e.part) r.scope

/-- Scrubbing begins: a fast extent's slots are to be overwritten (02 R121 step 4). -/
def scrubBegin (s : State) (b : Nat) (e : Ext) : State :=
  chargeSlots (s.setExt b { e with st := .scrubbing }) e.part (if e.deep then [] else e.slots)

/-- Releases the storage of an extent whose scrubbing has ended, and tells (02 R121 step 5). -/
def scrubDone (s : State) (b : Nat) (e : Ext) : State :=
  let st := if e.absorbed then 0x19 else 0
  let t := finishBy (freeExt s b e) e st e.poisoned
  evPart t e.part 0x0201 e.poisoned b st

/-! ## EXTENT_MOVE (02 R125) -/

/-- Why an EXTENT_MOVE does not run; none when it is accepted. -/
def moveEnds (s : State) (b p : Nat) (deep : Bool) : Option Nat :=
  match s.ext b with
  | none => some 0x14
  | some e =>
    if e.part ≠ p then some 0x14
    else if e.coh then some 0x03
    else if e.table ∧ deep then some 0x09
    else if e.st ≠ .open then some 0x15
    else if e.deep = deep then some 0
    else if (takeStore s p e.lenG deep).isNone then some 0x13
    else none

def moveStep (s : State) (x : Started) : DStep :=
  let b := eoBase x.words
  match moveEnds s b (eoPart x.words) (eoDeep x.words), s.ext b with
  | some c, _ => .done s x c 0 0
  | none, some e =>
    let (slots, units) := (takeStore s e.part e.lenG (eoDeep x.words)).getD ([], [])
    let t := extCount (s.setExt b { e with st := .moving, by_ := some (x.ring, x.idx), newSlots := slots, newUnits := units })
    .stop (chargeSlots (dropPins t b e) e.part (if e.deep then slots else e.slots ++ slots)) x .ext
  | none, none => .done s x 0x14 0 0

/-- Lines whose Granary or DRAM-cache copy is lost become poisoned at a move to fast, those aside whose newer bytes are in
the near store: blocks of a lost drive, or with a lost written bit, that are not cached (04 R210, 13 R509), and poisoned
copies of cached blocks. -/
def poisonLost (s : State) (b : Nat) (e : Ext) : State :=
  let put := fun (t : State) (l : Nat) => if nearDirty t l then t else t.poisonLine l
  let t := (s.tier.blocks.filter fun k => inExt b e (k.1 * 64)).foldl (fun t k => k.2.bad.foldl put t) s
  let gone := fun (blk : Nat) => (blockLost b e blk || t.tier.mapBad.contains blk) && (kget blk t.tier.blocks).isNone
  if e.lost = [] ∧ t.tier.mapBad.all (fun k => !inExt b e (k * 64)) then t
  else (List.range (e.lenG * 2 ^ 18)).foldl (fun t i =>
    let blk := b * 2 ^ 18 + i
    if gone blk then (List.range 64).foldl (fun t j => put t (blk * 64 + j)) t else t) t

/-- The lines that the near store holds of an extent that has become deep are kept as DRAM-cache blocks too, where their
sets have a way (02 R125). -/
def keepCached (s : State) (b : Nat) (e : Ext) : State :=
  let blks := (s.tier.near.filter fun n => inExt b e n.1).foldl (fun l n => sput (n.1 / 64) l) []
  blks.foldl (fun t k => match takeWay t e.part k false false false with
    | .got u => u
    | _ => t) s

/-- The final switch of a move, its completion and event 0x0202 (02 R125). -/
def moveDone (s : State) (b : Nat) (e : Ext) : State :=
  let inB := fun (k : Nat) => inExt b e (k * 64)
  let t := if e.deep then
      let t := deallocUnits (poisonLost s b e) e.lost e.units
      { t with tier := { t.tier with blocks := t.tier.blocks.filter (fun k => !inB k.1),
                                     written := t.tier.written.filter (fun k => !inB k),
                                     wbuf := t.tier.wbuf.filter (fun l => !inExt b e l),
                                     mapBad := t.tier.mapBad.filter (fun k => !inB k) } }
    else { s with tier := { s.tier with near := s.tier.near.map fun n => if inExt b e n.1 then (n.1, { n.2 with dirty := false }) else n } }
  let e' : Ext := { e with deep := !e.deep, st := .open, slots := e.newSlots, units := e.newUnits, newSlots := [], newUnits := [],
                           lost := if e.deep then [] else e.lost, by_ := none, allWritten := !e.deep }
  let t := extCount (t.setExt b e')
  let t := tierStat (if e.deep then t else keepCached t b e') e.part
  evPart (finishBy t e 0 0) e.part 0x0202 0 b (b2n (!e.deep))

/-! ## Published versions (08) -/

def verKey (p r num : Nat) : Nat := p * 4096 + r * 4 + (num - 1) % 4
def rgnCurrent (s : State) (p r : Nat) : Nat := s.rd PRT_RGN_STAT.CURRENT p r
def rgnVer (s : State) (p r num : Nat) : Option Ver :=
  match kget (verKey p r num) s.vers with
  | some v => if num ≠ 0 ∧ v.num = num then some v else none
  | none => none

/-- PRT_RGN_STAT follows the live versions and the current one's pins (08 R341). -/
def rgnStat (s : State) (p r : Nat) : State :=
  let live := (List.range 4).foldl (fun n k => if (kget (p * 4096 + r * 4 + k) s.vers).isSome then n + 2 ^ k else n) 0
  let pins := match rgnVer s p r (rgnCurrent s p r) with
    | some v => v.pins
    | none => 0
  (s.wr PRT_RGN_STAT.LIVE live p r).wr PRT_RGN_STAT.PINS pins p r

/-- A version stops being live and its release begins (08 R337 steps 1 and 2). -/
def verRelease (s : State) (p r num : Nat) : State :=
  match rgnVer s p r num with
  | none => s
  | some v =>
    let t := rgnStat { s with vers := kdel (verKey p r num) s.vers } p r
    if v.exts = [] then
      (evPart t p 0x0602 r num 0).count PRT_RGN_CNT.RELEASED p
    else
      let t := { t with verRels := t.verRels ++ [⟨p, r, num, v.exts, v.exts, 0⟩] }
      v.exts.foldl (fun t b => match t.ext b with
        | some e => closeExt t b e none
        | none => t) t

/-- VERSION_RELEASE_DONE (08 R337 step 3). -/
def verReleased (s : State) (v : VerRel) : State :=
  let n := v.exts.foldl (fun n b => match s.ext b with
    | some e => n + e.poisoned
    | none => n) 0
  let t := { s with verRels := s.verRels.filter (· != v) }
  let t := v.exts.foldl (fun t b => match t.ext b with
    | some e => evPart (freeExt t b e) e.part 0x0201 e.poisoned b 0
    | none => t) t
  (evPart t v.part 0x0602 v.region v.num (v.exts.length + n % 2 ^ 32 * 2 ^ 32)).count PRT_RGN_CNT.RELEASED v.part

/-- Step 2 of 08 R331 on the staging list: a status, or the extents. -/
def stageCheck (s : State) (p : Nat) : List Nat → List Nat → Except Nat (List Nat)
  | [], acc => .ok acc.reverse
  | w :: ws, acc =>
    let b := w % 2 ^ 22
    if w / 2 ^ 22 ≠ 0 ∨ acc.contains b then .error 0x09
    else match s.ext b with
      | none => .error 0x14
      | some e =>
        if e.part ≠ p ∨ (e.st ≠ .open ∧ e.st ≠ .moving) then .error 0x14
        else if e.table ∨ e.coh then .error 0x03
        else stageCheck s p ws (b :: acc)

def nextVersion (c : Nat) : Nat := if c = 0 ∨ c = 0xFFFFFFFC then 1 else c + 1

/-- PUBLISH (08 R331). Its RESULT is the region's current version however it ends (03 R158). -/
def publishStep (s : State) (x : Started) : DStep :=
  let ws := x.words
  let p := dOp ws 0 16 4
  let r := dOp ws 0 0 10
  let n := dOp ws 3 0 16
  let c := rgnCurrent s p r
  if ¬ s.on PRT_RGN_CFG.EN p r then .done s x 0x14 c 0
  else if 64 < n then .done s x 0x09 c 0
  else match (if n = 0 then (s, Except.ok []) else dBytes s x (dOp ws 2 0 48) (8 * n)) with
    | (t, .error (_, .wait w)) => .stop t x w
    | (t, .error (_, .ends st)) => .done t x st c 0
    | (t, .error _) => .done t x 0x08 c 0
    | (t, .ok bs) => match stageCheck t p ((bytesToWords n bs).map BitVec.toNat) [] with
      | .error st => .done t x st c 0
      | .ok exts =>
        let len := exts.foldl (fun a b => a + ((t.ext b).map Ext.lenG).getD 0) 0
        if t.rd PRT_RGN_CFG.SLOT_G p r < len then .done t x 0x13 c 0
        else if dOp ws 1 0 32 ≠ c then .done (t.count PRT_RGN_CNT.CONFLICTS p) x 0x0E c 0
        else if (kget (p * 4096 + r * 4 + c % 4) t.vers).isSome then .done t x 0x15 c 0
        else if exts.any fun b => t.vers.any fun v => v.2.exts.contains b then .done t x 0x16 c 0
        else
          let v := nextVersion c
          let u := { t with vers := kput (verKey p r v) ⟨v, exts, 0⟩ t.vers }
          let u := (u.wr PRT_RGN_STAT.CURRENT v p r).count PRT_RGN_CNT.PUBLISHED p
          let u := match rgnVer u p r c with
            | some o => if o.pins = 0 then verRelease u p r c else u
            | none => u
          .done (evPart (rgnStat u p r) p 0x0601 r (v + c * 2 ^ 32) (exts.length + len * 2 ^ 16)) x 0 v 0

def pinStep (s : State) (x : Started) : DStep :=
  let p := dOp x.words 0 16 4
  let r := dOp x.words 0 0 10
  let want := dOp x.words 1 0 32
  let num := if want = 0xFFFFFFFF then rgnCurrent s p r else want
  if ¬ s.on PRT_RGN_CFG.EN p r then .done s x 0x14 0 0
  else match rgnVer s p r num with
    | none => .done (s.count PRT_RGN_CNT.NO_VERSION p) x 0x1A 0 0
    | some v =>
      if v.pins = 16777215 then .done s x 0x15 0 0
      else .done (rgnStat { s with vers := kput (verKey p r num) { v with pins := v.pins + 1 } s.vers } p r) x 0 num 0

def unpinStep (s : State) (x : Started) : DStep :=
  let p := dOp x.words 0 16 4
  let r := dOp x.words 0 0 10
  let num := dOp x.words 1 0 32
  match rgnVer s p r num with
  | none => .done (s.count PRT_RGN_CNT.NO_VERSION p) x 0x1A 0 0
  | some v =>
    if v.pins = 0 then .done s x 0x14 0 0
    else
      let t := rgnStat { s with vers := kput (verKey p r num) { v with pins := v.pins - 1 } s.vers } p r
      .done (if v.pins = 1 ∧ num ≠ rgnCurrent t p r then verRelease t p r num else t) x 0 0 0

/-! ## SPACE_INVAL and FAULT_REPLY (02 R93 to R104) -/

/-- The accesses of a tag that have been translated and are in flight, by number (02 R94). -/
def inFlight (s : State) (tag : Nat) : List Nat := (s.flights.filter fun f => f.tag == tag && f.res.isSome).map (·.id)

/-- SPACE_INVAL (02 R93 steps 1 and 2): every copy of the tag goes; a walk for the tag that waits for a channel is made
again from its directory when it goes on; `aux` holds the accesses that were translated before. -/
def invalStep (s : State) (x : Started) : DStep :=
  let tag := dSpace x.words
  .stop { s with copies := s.copies.filter (·.tag != tag) } { x with aux := inFlight s tag } .ext

def replyStep (s : State) (x : Started) : DStep :=
  let ws := x.words
  let p := dOp ws 0 0 4
  let tag := dSpace ws
  let page := dOp ws 1 0 22
  if ¬ s.faults.any (isEntry p tag page) then .done s x 0x1E 0 0
  else if dOp ws 0 4 1 = 0 then .done (releaseHeld s p tag page (.wait .run) .run) x 0 0 0
  else .done (releaseHeld s p tag page (.errL 5) (.ends 0x04)) x 0 0 0

end Sys2Proof.Machine
end

