-- ==== Sys2Proof/Machine/TierOps.lean ====
section
/-!
DEFINITION. Sys2Proof/Machine/TierOps.lean: HINT, PREFETCH and DEMOTE (04 R199 to R203).
-/
namespace Sys2Proof.Machine

/-- Segment `i` of a range, cut at 64 MiB pages: its first space address and lines; none past its end. -/
def segAt (ws : List Word) (i : Nat) : Option (Nat × Nat) :=
  let lo := if i = 0 then dSrc ws else (dSrc ws / 2 ^ 26 + i) * 2 ^ 26
  let hi := min ((lo / 2 ^ 26 + 1) * 2 ^ 26) (dSrc ws + dLen ws * 64)
  if lo < hi then some (lo, (hi - lo) / 64) else none

/-- Resolves one line of a range that a descriptor names, as a read of it would. -/
def dResolve (s : State) (x : Started) (a : Nat) : State × Except DLine Res :=
  match dLook s x (dSpace x.words) a with
  | none => (s, .error (.ends 0x01))
  | some (slot, p) =>
    match resolveLine s slot (descReq x p (dSpace x.words) a 7 1) with
    | (t, .ok r) => (noteTouch t (.desc x.ring x.idx) r.base r.line, .ok r)
    | (t, .error l) => (t, .error (dLineOf l))

/-- The pool lines that a translated HINT covers, as runs that lie in one extent each: `aux` holds the first pool line of
each segment after item 0. -/
def hintRuns (s : State) (x : Started) : List (Nat × Nat) :=
  (List.range (x.aux.length - 1)).foldl (fun (rs : List (Nat × Nat)) i =>
    let l := nthN x.aux (i + 1)
    let n := ((segAt x.words i).map (·.2)).getD 0
    match rs.getLast? with
    | some (a, b) => if b = l ∧ (s.extentOfLine l).map (·.1) = (s.extentOfLine (l - 1)).map (·.1) then rs.dropLast ++ [(a, l + n)] else rs ++ [(l, l + n)]
    | none => [(l, l + n)]) []

/-- Lines [0, n) of the runs, in order. -/
def runLine : List (Nat × Nat) → Nat → Option Nat
  | [], _ => none
  | (a, b) :: r, n => if n < b - a then some (a + n) else runLine r (n - (b - a))

/-- Gives every page that the runs touch its one attribute: a hint replaces the one before, and CLEAR removes it (04 R199). -/
def setAttrs (s : State) (runs : List (Nat × Nat)) (a : PageAttr) : State :=
  runs.foldl (fun s r => (List.range ((r.2 - 1) / 2 ^ 20 + 1 - r.1 / 2 ^ 20)).foldl (fun s i =>
    { s with tier := { s.tier with attrs := kset noAttr (r.1 / 2 ^ 20 + i) a s.tier.attrs } }) s) s

def overlaps (a b : Nat × Nat) : Bool := decide (a.1 < b.2) && decide (b.1 < a.2)

/-- The partition of a HINT: that of its range. -/
def hintPart (s : State) (x : Started) : Nat := ((dLook s x (dSpace x.words) (dSrc x.words)).map (·.2)).getD 0

/-- Lines of some runs that a slice homes. -/
def homedOn (s : State) (p sl : Nat) (runs : List (Nat × Nat)) : Nat :=
  runs.foldl (fun n r => n + ((List.range (r.2 - r.1)).filter fun i => s.homeSlice p ((r.1 + i) * 64) == sl).length) 0

/-- The pin ranges that a partition holds of a kind, in lines. -/
def pinRuns (s : State) (p : Nat) (dram : Bool) : List (Nat × Nat) :=
  (s.tier.pins.filter fun q => q.part == p && q.dram == dram).map fun q => (q.lo / 64, q.hi / 64)

/-- Why a pin is refused; 0 when it is taken (04 R200). `runs` are in lines. What is pinned counts whether it is loaded yet
or not. -/
def pinRefused (s : State) (p : Nat) (dram : Bool) (runs : List (Nat × Nat)) : Nat :=
  let mine := s.tier.pins.filter (·.part == p)
  if 256 < mine.length + runs.length then 0x12
  else if runs.any fun r => s.tier.pins.any fun q => q.dram == dram && overlaps (r.1 * 64, r.2 * 64) (q.lo, q.hi) then 0x10
  else if ¬ dram then
    if (s.slicesOf p).any fun sl => decide (pinLines s p < homedOn s p sl (pinRuns s p false ++ runs)) then 0x13 else 0
  else
    let blocks := runs.flatMap fun r => (List.range ((r.2 - 1) / 64 + 1 - r.1 / 64)).map (r.1 / 64 + ·)
    let deepAt := fun (b : Nat) => ((s.extentAt (b * 4096)).map (·.2.deep)).getD false
    let ds := blocks.filter deepAt
    let old := (pinRuns s p true).flatMap fun q => (List.range ((q.2 - q.1) / 64)).map (q.1 / 64 + ·)
    let all := ds ++ old.filter deepAt
    if ds.any fun b => decide (12 < (all.filter fun c => blockSetOf s p c == blockSetOf s p b).length) then 0x13 else 0

/-- Takes the pin ranges; on fast extents PIN_DRAM takes none (04 R199). -/
def takePins (s : State) (p : Nat) (dram : Bool) (runs : List (Nat × Nat)) : State :=
  let rs := if dram then (runs.filter fun r => ((s.extentOfLine r.1).map (·.2.deep)).getD false).map fun r =>
      (r.1 / 64 * 4096, ((r.2 - 1) / 64 + 1) * 4096)
    else runs.map fun r => (r.1 * 64, r.2 * 64)
  tierStat { s with tier := { s.tier with pins := s.tier.pins ++ rs.map fun r => ⟨p, dram, r.1, r.2⟩ } } p

/-- Loads line `l` into the near store under a share: the pin share, or the policy share as most recently used. R201 does
not say when a range does not fit: here it does not when a line could be placed only by evicting one that has been used
since this PREFETCH started: DESIGN CHOICE, log entry 63. -/
def loadNear (s : State) (x : Started) (pin : Bool) (l : Nat) : State × Option Wait × Bool :=
  match s.extentOfLine l with
  | none => (s, none, true)
  | some (b, e) =>
    match tierRead s b e l 7 (dSpace x.words) (min 16 (ringOwner s x.ring) * 4 + 2) with
    | (t, .wait w) => (t, some w, true)
    | (t, _) =>
      let sl := t.homeSlice e.part (l * 64)
      if pin then
        let dirty := ((kget l t.tier.near).map NearLine.dirty).getD false
        (tierStat (setNear t (kput l ⟨sl, dirty, 1, t.tier.clock⟩ t.tier.near)) e.part, none, true)
      else if (kget l t.tier.near).isSome then (t, none, true)
      else
        match nearRoom t e.part sl l with
        | (_, false) => (t, none, false)
        | (u, true) =>
          let mine := t.tier.near.any fun k => (kget k.1 u.tier.near).isNone && decide (auxN x 0 < k.2.used)
          if mine then (t, none, false) else (nearInsert u e.part sl l false, none, true)

/-- Brings deep block `b` to the DRAM cache; what it waits for, if anything (04 R201). -/
def loadBlock (s : State) (b : Nat) : State × Option Wait :=
  match s.extentAt (b * 4096) with
  | none => (s, none)
  | some (base, e) =>
    if ¬ e.deep then (s, none)
    else match needBlock s e.part base e b false (e.part * 4 + 2) with
      | .here t => (t, none)
      | .wait t w => (t, some w)
      | .poison t => (t, none)

/-- HINT CLEAR (04 R199): the attributes of its pages and the pin ranges that its range overlaps go. -/
def hintClear (s : State) (p : Nat) (runs : List (Nat × Nat)) : State :=
  let t := setAttrs s runs noAttr
  let hit := fun (q : PinRange) => q.part == p && runs.any fun r => overlaps (r.1 * 64, r.2 * 64) (q.lo, q.hi)
  freeWays (dropLoose { t with tier := { t.tier with pins := t.tier.pins.filter (fun q => !hit q) } } p)

/-- The attribute that a HINT code gives (04 R199). -/
def hintAttr (h : Nat) : PageHint := if h = 0 then .hot else if h = 1 then .cold else if h = 2 then .streamOnce else .evictFirst

/-- A HINT whose pages are all resolved: it marks them, or takes its pins and goes on to load them. -/
def hintMarks (s : State) (x : Started) : DStep :=
  let h := dOp x.words 0 0 3
  let runs := hintRuns s x
  let p := hintPart s x
  if h = 0 ∨ h = 1 ∨ h = 2 ∨ h = 5 then .done (setAttrs s runs ⟨hintAttr h, p⟩) x 0 0 0
  else if h = 6 then .done (hintClear s p runs) x 0 0 0
  else if pinRefused s p (h == 4) runs ≠ 0 then .done s x (pinRefused s p (h == 4) runs) 0 0
  else .more (takePins s p (h == 4) runs) { x with prog := 0, aux := x.aux.set 0 1 }

/-- HINT (04 R199, R200). `aux` holds the phase (0 translating, 1 loading) and the pool line of each segment. -/
def hintStep (s : State) (x : Started) : DStep :=
  let h := dOp x.words 0 0 3
  if x.aux = [] then .more s { x with aux := [0] }
  else if auxN x 0 = 0 then
    match segAt x.words x.prog with
    | some (a, _) => match dResolve s x a with
      | (t, .ok r) => .more t { x with prog := x.prog + 1, aux := x.aux ++ [r.line] }
      | (t, .error l) => dFail t x l 0
    | none => hintMarks s x
  else
    let runs := hintRuns s x
    if h = 3 then
      match runLine runs x.prog with
      | none => .done s x 0 0 0
      | some l => match loadNear s x true l with
        | (t, some w, _) => .stop t x w
        | (t, none, _) => .more t { x with prog := x.prog + 1 }
    else
      match runLine runs (64 * x.prog) with
      | none => .done (tierStat s (hintPart s x)) x 0 0 0
      | some l => match loadBlock s (l / 64) with
        | (t, some w) => .stop t x w
        | (t, none) => .more t { x with prog := x.prog + 1 }

/-- PREFETCH (04 R201): a line a step, or every line's block. -/
def prefetchStep (s : State) (x : Started) : DStep :=
  let n := x.prog
  if x.aux = [] then .more s { x with aux := [s.tier.clock] }
  else if n = dLen x.words then .done s x 0 0 n
  else match dResolve s x (dSrc x.words + 64 * n) with
    | (t, .error l) => dFail t x l n
    | (t, .ok r) =>
      if dOp x.words 0 0 2 = 0 then
        match loadNear t x false r.line with
        | (u, some w, _) => .stop u x w
        | (u, none, true) => .more u { x with prog := n + 1 }
        | (u, none, false) => .done u x 0x13 0 n
      else match loadBlock t (r.line / 64) with
        | (u, some w) => .stop u x w
        | (u, none) => .more u { x with prog := n + 1 }

/-- Writes back and drops an unpinned deep block of the DRAM cache (04 R202): what it waits for, if anything. -/
def demoteBlock (s : State) (b : Nat) : State × Option Wait :=
  match kget b s.tier.blocks, s.extentAt (b * 4096) with
  | some k, some (base, e) =>
    if k.held ∨ pinCovers s true (b * 4096) then (s, none)
    else if k.filling ∨ k.wb then (s, some (.fill b))
    else if k.dirty then
      if blockLost base e b then (s, none) else (startGroup s base e (b / 16), some (.fill b))
    else (freeWays (dropBlock s b), none)
  | _, _ => (s, none)

/-- DEMOTE (04 R202). -/
def demoteStep (s : State) (x : Started) : DStep :=
  let n := x.prog
  if n = dLen x.words then .done s x 0 0 n
  else match dResolve s x (dSrc x.words + 64 * n) with
    | (t, .error l) => dFail t x l n
    | (t, .ok r) =>
      let t := match kget r.line t.tier.near with
        | some k => if k.share = 0 then nearEvict t r.line else t
        | none => t
      if t.tier.wbuf.contains r.line then .stop t x (.fill (r.line / 64))
      else if dOp x.words 0 0 2 = 2 ∧ r.ext.deep ∧ (r.line % 64 = 63 ∨ n + 1 = dLen x.words) then
        match demoteBlock t (r.line / 64) with
        | (u, some w) => .stop u x w
        | (u, none) => .more (tierStat u r.ext.part) { x with prog := n + 1 }
      else .more t { x with prog := n + 1 }

end Sys2Proof.Machine
end

