-- ==== Sys2Proof/Machine/Serve.lean ====
section
/-!
DEFINITION. Sys2Proof/Machine/Serve.lean: packet requests at this node: delivery checks, the space lookup, serving their
lines, and the one answer (01 R47 to R50, 07 R301, R302, 11 R421 to R432, 14 R525).
-/
namespace Sys2Proof.Machine

/-! ## Arrival and delivery (11 R428, R429) -/

def trusted (s : State) (port : Nat) : Bool := (s.rdReg XRD_TRUST.reg 0 0 0).testBit port
def dropArrival (s : State) (port : Nat) : State := s.count XRD_PORT_CNT.ARRIVAL port

/-- A sealed packet does not open: it is dropped and counted, and a slot at AUTH_FAIL_MAX is retired (14 R525, R527). -/
def authFail (s : State) (port k : Nat) : State :=
  let t := (dropArrival s port).count SEC_KEY_CNT.AUTH_FAIL k
  if slotLive t k ∧ atLeast1 (s.rd SEC_CFG.AUTH_FAIL_MAX) ≤ t.rd SEC_KEY_CNT.AUTH_FAIL k
  then retireSlot t k 1 else t

/-- Opens a packet at R47 step 4: the packet as it reads, or the state after the drop (14 R525, R527). A ward whose link
crypto failed or is under reset drops sealed packets (15 R557, 16 R587). -/
def openPkt (s : State) (port : Nat) (p : Pkt) : Except State Pkt :=
  let k := pKey p
  if k = 0 then .ok p
  else if pTc p = 0 ∨ pTc p = 7 ∨ s.start.noCrypto.contains (port / 8) then .error (dropArrival s port)
  else
    if ¬ slotLive s k then .error (authFail s port k)
    else match openWith (kgetD [] k s.keys.link) p with
      | some q => .ok q
      | none => .error (authFail (s.count PRT_SEC_CNT.ICV_FAIL (s.rd SEC_KEY_SLOT.PART k)) port k)

/-- Check 4 of R429: the address range fits a space. -/
def addrFits (p : Pkt) : Bool :=
  let n := if pOpc p = 0x01 then pArg p % 128 else pLen p
  decide (pAddr p < 2 ^ 49) && decide (pAddr p + n * 64 ≤ 2 ^ 48)

/-- What the space lookup of R47 step 4 gives a request: its slot and partition, or an error cause (02 R72, 14 R525). -/
def spaceLookup (s : State) (p : Pkt) (a : Nat) : State × Except Nat (Nat × Nat) :=
  match resolvePart s (pSpace p) a with
  | none => (s, .error 1)
  | some (slot, part) =>
    let k := pKey p
    if k ≠ 0 ∧ s.rd SEC_KEY_SLOT.PART k ≠ s.rd XLT_SPACE_LO.HOME_PART slot then (s.count PRT_SEC_CNT.KEY_DENIED part, .error 2)
    else if k = 0 ∧ s.on PRT_SEC_CFG.REQUIRE_KEY part then (s.count PRT_SEC_CNT.KEY_DENIED part, .error 2)
    else (s, .ok (slot, part))

/-! ## Atomics and sync operations (11 R423, R432, 07 R302) -/

def ansKey (sl : Nat) (p : Pkt) : Nat := ((sl * 2 ^ 15 + pSrc p) * 2 ^ 16 + pSeq p) * 2 ^ 16 + pCtag p

def sendResp (s : State) (part : Nat) (p : Pkt) (poison : Bool) (pay : List Byte) : State :=
  sendAnswer s part p (mkAnswer (nodeId s) p 0x07 5 1 (if poison then 8 else 0) 0 0 0 pay)

/-- What the answer cache of slice `sl` says of a request that another one does not hold up (11 R432). -/
inductive Cached where
  | hit (s : State) (poison : Bool) (pay : List Byte)
  | full (s : State)
  | miss

def cacheLook (s : State) (sl : Nat) (p : Pkt) : Cached :=
  match kget (ansKey sl p) s.answers with
  | some (b, pay) => .hit (s.count XRD_RETX_STAT.CACHE_HITS) b pay
  | none => if 4096 ≤ (s.answers.filter fun a => a.1 / 2 ^ 47 == sl).length then .full (s.count XRD_RETX_STAT.CACHE_FULL) else .miss

def cachePut (s : State) (sl : Nat) (p : Pkt) (poison : Bool) (pay : List Byte) : State :=
  { s with answers := kput (ansKey sl p) (poison, pay) s.answers }

/-- Whether an earlier held request carries the same key: this one waits for its answer (11 R432). -/
def sameHeld (s : State) (id : Nat) (p : Pkt) : Bool :=
  s.reqs.any fun r => decide (r.id < id) && (pOpc r.pkt == 6 || pOpc r.pkt == 8) && pSrc r.pkt == pSrc p &&
    pSeq r.pkt == pSeq p && pCtag r.pkt == pCtag p

/-- The word of an atomic after it (11 R423). -/
def atomicWord (code w operand cmp : Nat) : Nat :=
  if code = 1 then (w + operand) % 2 ^ 64 else if code = 2 then operand
  else if code = 3 then if w = cmp then operand else w else max w operand

/-- One atomic on its resolved line: its bytes before, or what it meets. -/
def atomicLine (s : State) (q : LReq) (r : Res) (p : Pkt) : State × LineSt :=
  let go := fun (s : State) =>
    match tierRead s r.base r.ext r.line q.access q.tag (chargeOf s q false) with
    | (t, .okL d) =>
      let i := pArg p % 8
      let w := leNat ((d.drop (8 * i)).take 8)
      let v := atomicWord (pCode p) w (payWord p 0) (payWord p 1)
      if v = w then (t, .okL (leBytes 8 w))
      else match tierWrite t r.base r.ext r.line (chargeOf t q true) (d.take (8 * i) ++ leBytes 8 v ++ d.drop (8 * i + 8)) with
        | (u, .okL _) => (u, .okL (leBytes 8 w))
        | x => x
    | x => x
  match r.coh with
  | none => go s
  | some k => match cohAccess s k q.who .atomic with
    | .memory t => go t
    | .data t _ _ => (t, .wait .run)
    | .wait t => (t, .wait (.coh k))
    | .full t d => (t, .nakL 1 d)

/-- The payload of a sync operation's ATOMIC_RESP (07 R302). -/
def syncPay (st b0 b1 a0 a1 : Nat) : List Byte := lineOfWords [st, b0, b1, a0, a1]

/-- Whether a SYNC_OP keeps to R301. -/
def syncPktOk (s : State) (p : Pkt) : Bool :=
  let sop := payWord p 0 % 256
  payWord p 0 / 256 == 0 && pLen p == (if sop = 4 then 2 else 1) &&
  ((p.pay.take 64).drop 16).all (· == 0) &&
  match s.spaceSlot (pSpace p), objPart s (pSync p) with
  | some sl, some q => s.spaceAllows sl q
  | _, _ => false

/-! ## Serving a request's lines -/

def isFinal : LineSt → Bool
  | .wait _ => false
  | _ => true

/-- What a line that has ended adds to its request's `LReq.seen`. -/
def lineCause (l : LineSt) : Option Nat :=
  match l with
  | .errL c => some c
  | .nakL c _ => some (0x100 + c)
  | _ => none

/-- Serves line `i` of a request of the space in a slot. `seen` is what its other lines have ended with. -/
def serveLine (s : State) (id slot i : Nat) (p : Pkt) (seen : List Nat) : State × LineSt :=
  let q0 := { pktReq id 0 i p with seen := seen }
  let part := s.spacePart slot q0.addr
  let q := { q0 with part := part }
  if (flightOf s q).isNone ∧ ¬ s.partOn part then (s, .errL 1)
  else
    let o := pOpc p
    if o = 0x01 ∨ o = aptRead then lineRead s slot q
    else if o = 0x03 ∨ o = aptWrite then lineWrite s slot q (payLine p i)
    else match resolveLine s slot q with
      | (t, .error l) => (t, capWait t q l)
      | (t, .ok r) => if o = 0x05 then (t, .okL []) else atomicLine t q r p

/-- Serves every line of a request that can go on, in address order (11 R421). -/
def serveLines (s : State) (slot : Nat) (r : HeldReq) (seen : List Nat) : Nat → Nat → State × List LineSt
  | 0, _ => (s, [])
  | n + 1, i =>
    let l := r.lines.getD i (.wait .run)
    let (t, l') := if l = .wait .run then serveLine s r.id slot i r.pkt seen else (s, l)
    let (u, ls) := serveLines t slot r (seen ++ (lineCause l').toList) n (i + 1)
    (u, l' :: ls)

/-- The first line that failed, with its index. -/
def firstFail : List LineSt → Nat → Option (Nat × LineSt)
  | [], _ => none
  | l :: ls, i => match l with
    | .nakL _ _ | .errL _ => some (i, l)
    | _ => firstFail ls (i + 1)

/-- The NAK or ERROR_RESP that a failed line gives its request. -/
def sendFail (s : State) (part : Nat) (p : Pkt) (i : Nat) (l : LineSt) : State :=
  match l with
  | .nakL c d => sendNak s part p c d i
  | .errL c => sendErr s part p c i
  | _ => s

/-- Counts accesses to lines of extents, by base in GiB and line (04 R194). -/
def touchLines (s : State) (part : Nat) (hits : List (Nat × Nat)) : State :=
  hits.foldl (fun t h => match t.ext h.1 with
    | some e => touchLine t e.deep (t.homeSlice part (h.2 * 64)) h.2
    | none => t) s

/-- The answer of a request whose lines have all ended (11 R421). `hits` are the lines that a REDUCE_WRITE names. -/
def answerReq (s : State) (part : Nat) (p : Pkt) (ls : List LineSt) (hits : List (Nat × Nat) := []) : State :=
  let poison := ls.idxOf? LineSt.poisonL
  let idx := poison.getD 0
  let fl := if poison.isSome then 8 else 0
  match firstFail ls 0 with
  | some (i, l) => sendFail s part p i l
  | none =>
    if pOpc p = 0x01 then
      let data := ls.flatMap fun l => match l with
        | .okL d => d
        | _ => List.replicate 64 0
      sendAnswer s part p (mkAnswer (nodeId s) p 0x02 5 ls.length fl 0 idx 0 data)
    else if pOpc p = 0x05 then
      if poison.isSome then sendAnswer s part p (mkAnswer (nodeId s) p 0x04 5 0 fl 0 idx 0 [])
      else match contribute s part (s.homeSlice part (pAddr p)) p with
        | .err t c => sendErr t part p c 0
        | .nak t => sendNak t part p 1 (retryDelay t part) 0
        | .dup t => sendAnswer t part p (mkAnswer (nodeId t) p 0x04 5 0 0 0 0 0 [])
        | .accept t => sendAnswer (touchLines t part hits) part p (mkAnswer (nodeId t) p 0x04 5 0 0 0 0 0 [])
    else if pOpc p = 0x06 then
      let sl := s.homeSlice part (pAddr p)
      let pay := match ls with
        | [.okL w] => lineOfWords [0, leNat w]
        | _ => lineOfWords [0x08, 0]
      sendResp (cachePut s sl p poison.isSome pay) part p poison.isSome pay
    else sendAnswer s part p (mkAnswer (nodeId s) p 0x04 5 0 fl 0 idx 0 [])

def setReq (s : State) (r : HeldReq) : State := { s with reqs := s.reqs.map fun x => if x.id = r.id then r else x }
/-- A request ends, and gives back every token it holds (02 R94, R120). -/
def dropReq (s : State) (id : Nat) : State := endFlights { s with reqs := s.reqs.filter (·.id != id) } (.req id)

/-- Whether a held request is an aperture access, by a function and a window kept in `port` as 64 + function × 16 +
window. -/
def isApt (p : Pkt) : Bool := pOpc p == aptRead || pOpc p == aptWrite

/-- An aperture write that is not wholly served: DROPS counts it and the endpoint reports Completer Abort (03 R138). -/
def aptDrop (s : State) (func win : Nat) : State :=
  (if func = 0 then s.count XLT_APT_WIN.DROPS win else s.count PRT_APT_WIN.DROPS (func - 1)).emit (.aer func 2)

/-- The outcome of an aperture access whose lines have all ended (03 R138). -/
def answerApt (s : State) (port : Nat) (p : Pkt) (ls : List LineSt) : State :=
  let func := (port - 64) / 16
  let bad := (firstFail ls 0).isSome
  let poison := ls.contains .poisonL
  if pOpc p = aptWrite then if bad ∨ poison then aptDrop s func ((port - 64) % 16) else s
  else if bad then s.emit (.hostReply func 2 [])
  else
    let data := ls.flatMap fun l => match l with
      | .okL d => d
      | _ => List.replicate 64 0
    s.emit (.hostReply func (if poison then 3 else 0) data)

/-- A delivered multicast copy whose WRITE does not succeed is counted (11 R438). -/
def copyFail (s : State) (r : HeldReq) (ls : List LineSt) : State :=
  if pMcast r.pkt ≠ 0 ∧ ((firstFail ls 0).isSome ∨ ls.contains .poisonL) then dropArrival s r.port else s

/-- Whether a REDUCE_WRITE whose lines have passed waits for its turn at its set (07 R298). -/
def awaitsSet (s : State) (r : HeldReq) (part : Nat) (ls : List LineSt) : Bool :=
  pOpc r.pkt == 0x05 && (firstFail ls 0).isNone && !ls.contains .poisonL && objPart s (pSync r.pkt) == some part &&
  !objTurn s (pSync r.pkt) (.req r.id)

/-- The lines that a request's accesses have reached, by extent base and line. -/
def reqHits (s : State) (id : Nat) : List (Nat × Nat) :=
  (s.flights.filter (·.who == .req id)).filterMap fun f => f.res.map fun x => (x.1, x.2.1)

/-- Serves a held request as far as it goes, in the space that its lookup gave (02 R75); one whose lines have all ended is
answered and goes. -/
def serveReq (s : State) (r : HeldReq) : State :=
  match r.look with
  | none => if isApt r.pkt then answerApt (dropReq s r.id) r.port r.pkt [.errL 1]
    else copyFail (sendErr (dropReq s r.id) 16 r.pkt 1 0) r [.errL 1]
  | some (slot, part) =>
    let sl := s.homeSlice part (pAddr r.pkt)
    let go := fun (s : State) =>
      let (t, ls) := serveLines s slot r (r.lines.filterMap lineCause) r.lines.length 0
      if ls.all isFinal then if isApt r.pkt then answerApt (dropReq t r.id) r.port r.pkt ls
        else if awaitsSet t r part ls then
          setReq (objJoin t (pSync r.pkt) (.req r.id)) { r with lines := ls.dropLast ++ [.wait (.obj (pSync r.pkt))] }
        else copyFail (answerReq (dropReq t r.id) part r.pkt ls (reqHits t r.id)) r ls
      else setReq t { r with lines := ls }
    if pOpc r.pkt ≠ 0x06 then go s
    else if sameHeld s r.id r.pkt then s
    else match cacheLook s sl r.pkt with
      | .hit t b pay => sendResp (dropReq t r.id) part r.pkt b pay
      | .full t => sendNak (dropReq t r.id) part r.pkt 1 (retryDelay t part) 0
      | .miss => go s

/-- Admits a request of `n` lines that has not been served yet, with what its space lookup gives (02 R72, R75). -/
def holdReq (s : State) (port : Nat) (p : Pkt) (n : Nat) : State × HeldReq :=
  let r : HeldReq := ⟨s.nextReq, port, p, List.replicate n (.wait .run), resolvePart s (pSpace p) (pAddr p)⟩
  ({ s with nextReq := s.nextReq + 1, reqs := s.reqs ++ [r] }, r)

/-- A request as it is admitted: a line that lies in a scope under reset or asleep has met its NAK, and the others go on
(11 R421, R450). -/
def turnAway (s : State) (r : HeldReq) : HeldReq :=
  match r.look with
  | none => r
  | some (slot, _) =>
    let line := fun i => match shutAt s slot (pAddr r.pkt + 64 * i) with
      | some (_, d) => .nakL 1 d
      | none => .wait .run
    { r with lines := (List.range r.lines.length).map line }

/-- Admits a request of `n` lines and serves it. -/
def admitReq (s : State) (port : Nat) (p : Pkt) (n : Nat) : State :=
  let (t, r) := holdReq s port p n
  serveReq (setReq t (turnAway t r)) (turnAway t r)

/-- A SYNC_OP at its object (07 R299, R302). -/
def serveSync (s : State) (r : HeldReq) : State :=
  let id := r.id
  let p := r.pkt
  let o := pSync p
  match objPart s o with
  | none => dropReq s id
  | some q =>
    let sl := o / 4096
    if sameHeld s id p then s
    else match cacheLook s sl p with
      | .hit t b pay => sendResp (dropReq t id) q p b pay
      | .full t => sendNak (dropReq t id) q p 1 (retryDelay t q) 0
      | .miss => if ¬ objTurn s o (.req id) then setReq (objJoin s o (.req id)) { r with lines := [.wait (.obj o)] } else
        let b0 := objW0 s o
        let b1 := objW1 s o
        let sop := payWord p 0 % 256
        let fin := fun (t : State) (st : Nat) =>
          let pay := syncPay st b0 b1 (objW0 t o) (objW1 t o)
          sendResp (cachePut (dropReq t id) sl p false pay) q p false pay
        if sop = 0 then fin s 0
        else if sop = 4 then
          let l := bytesToWords 8 (payLine p 1)
          let sp := if spSpace l = 0 then pSpace p else spSpace l
          let c := if armCheck l = 0 then armSpaces s q l sp else armCheck l
          if c ≠ 0 then fin s c
          else match armStart s o q l sp (.req id) with
            | (t, _, true) => setReq t { r with lines := [.okL (leBytes 8 b0 ++ leBytes 8 b1), .wait .ext] }
            | (t, st, false) => fin t st
        else
          let (t, st) := sopApply s o sop (payWord p 1)
          fin t st

/-- Answers the SYNC_OP whose ARM_SET has ended (07 R302, R307). -/
def syncArmed (s : State) (id st : Nat) : State :=
  match s.reqs.find? (·.id == id) with
  | none => s
  | some r =>
    let o := pSync r.pkt
    let b := match r.lines.head? with
      | some (.okL d) => d
      | _ => []
    let pay := syncPay st (leNat (b.take 8)) (leNat (b.drop 8)) (objW0 s o) (objW1 s o)
    let q := (objPart s o).getD 16
    sendResp (cachePut (dropReq s id) (o / 4096) r.pkt false pay) q r.pkt false pay

end Sys2Proof.Machine
end

