-- ==== Sys2Proof/Machine/CohMsg.lean ====
section
/-!
DEFINITION. Sys2Proof/Machine/CohMsg.lean: coherence packets at the home (09 R347, R355 to R363): requests, write-backs,
data sent to the home, acknowledgements, and the limits on their answers (09 R362, R364).
-/
namespace Sys2Proof.Machine

/-- The domains of which a packet's sender is a member, that its SPACE addresses, of its partition, in a STATE that `f`
picks: UP is 1, TEARING_DOWN 2, DOWN 3. -/
def domsOf (s : State) (k : Pkt) (p : Nat) (f : Nat → Bool) : List (Nat × Nat) :=
  ((List.range 64).filter fun d => f (s.rd XLT_COH_CTL.STATE d) && s.rd XLT_COH_CFG.DSPACE d == pSpace k &&
    s.rd XLT_COH_CFG.PART d == p).filterMap fun d => (agentOf s d (pSrc k)).map fun a => (d, a)

/-- What ends a coherence packet that R347 does not accept: "domain down" for a domain that is going or gone, "not
coherent" otherwise; DENIED counts it. -/
def cohRefuse (s : State) (id p : Nat) (k : Pkt) (cause : Nat) : State :=
  sendErr (denied (dropReq s id) (pktReq id p 0 k)).1 p k cause 0

/-- A coherence packet whose ADDR does not resolve (R347): a request may come again where 11 R426 says so; whatever else ends
it counts in DENIED, once. -/
def cohUnresolved (s : State) (id p : Nat) (k : Pkt) (l : LineSt) : State :=
  match l with
  | .nakL c d => if 0x13 ≤ pOpc k then cohRefuse s id p k 12 else sendNak (dropReq s id) p k c d 0
  | .errL 2 => sendErr (dropReq s id) p k 2 0
  | .errL c => cohRefuse s id p k c
  | _ => cohRefuse s id p k 12

/-- A protocol error of a member: its domain goes down with cause 2 (R364). -/
def protocolError (s : State) (dom agent : Nat) : State := teardown s dom 2 agent

/-- Whether a resent request's transaction is still open (11 R431). -/
def txOpen (s : State) (dom : Nat) (k : Pkt) : Bool :=
  s.coh.dir.any fun e => domOf e.1 == dom && match e.2.tx with
    | some tx => match tx.req with
      | some r => pSrc r == pSrc k && pCtag r == pCtag k
      | none => false
    | none => false

/-- A member's request whose line is known and has a transaction entry: the table of R359. -/
def cohServe (s : State) (key : Nat) (e : DirEnt) (agent port : Nat) (k : Pkt) : State :=
  let dom := domOf key
  let sh := sharerList s dom e
  let isSh := sh.contains agent
  let o := pOpc k
  let e1 := { e with resv := none, owner := if e.owner = some agent then none else e.owner,
                     isO := e.isO && e.owner != some agent, sharers := if e.coarse then e.sharers else e.sharers.filter (· != agent) }
  let others := sh.filter fun a => a != agent && e.owner != some a
  let was := e.holding
  let rdOwn := fun (_ : Unit) =>
    cohAdvance (openTx s key e1 was .rdOwn agent (some k) port none others (e1.owner.map fun w => (w, 1))) key
  if o = 0x10 then
    cohAdvance (openTx s key e1 was .rdShared agent (some k) port none [] (e1.owner.map fun w => (w, 0))) key
  else if o = 0x11 then rdOwn ()
  else match e.owner with
    | none =>
      if isSh then cohAdvance (openTx s key { e with resv := none } was .upgrade agent (some k) port none others none) key else rdOwn ()
    | some w =>
      if ¬ e.isO then (if w = agent then protocolError s dom agent else rdOwn ())
      else if w = agent ∨ isSh then
        let inv := if w = agent then others else sput w others
        cohAdvance (openTx s key { e with resv := none } was .upgrade agent (some k) port none inv none) key
      else rdOwn ()

/-- A member's read or upgrade request at the home, after its line is resolved: the races of R362, room in the
directory (R353) and in the transaction table (R354), then R359. -/
def cohRequest (s : State) (id key pl agent port : Nat) (k : Pkt) : State :=
  let dom := domOf key
  let s1 := dropReq s id
  let full := cohFullDelay s dom
  let go := fun (e : DirEnt) =>
    if txRoom s (cohHome s key pl) 1 then cohServe s1 key e agent port k else cohNak s1 dom k full
  if pRetx k ∧ txOpen s dom k then s1.count XLT_COH_CNT.STRAY dom
  else match s.dirEnt key with
    | some e =>
      if e.tx.isSome then cohList s1 key e agent k
      else match e.resv with
        | some a => if a = agent then go e else cohList s1 key e agent k
        | none => go e
    | none => match dirRoom s key pl with
      | .free => go ⟨pl, none, false, [], false, 0, none, [], none⟩
      | .busy => cohNak s1 dom k full
      | .waitFor t v => { t with reqs := t.reqs.map fun (r : HeldReq) => if r.id = id then { r with lines := [.wait (.coh v)] } else r }

/-- A write-back's or recall's data put in the line's tier; none while it waits for its channel (R359, R361). -/
def cohPutData (s : State) (pl : Nat) (k : Pkt) : Option State :=
  if pLen k = 0 then some s
  else if pPoison k then some (s.poisonLine pl)
  else match s.extentOfLine pl with
    | none => some s
    | some (b, x) => match tierWrite s b x pl (x.part * 4 + 1) (payLine k 0) with
      | (_, .wait _) => none
      | (t, .okL _) => some t
      | (t, _) => some (t.poisonLine pl)

/-- A held coherence packet waits for the channel of a pool line. -/
def cohHold (s : State) (r : HeldReq) (pl : Nat) : State :=
  let c := match s.extentOfLine pl with
    | some (b, x) => (fastPlace s b x pl).1
    | none => 0
  setReq s { r with lines := [.wait (.chan c)] }

/-- A COH_WRITEBACK (R359, R361): applied in any state of the line where its sender is the owner, or answers an open
COH_FWD or RECALL; a protocol error otherwise. -/
def cohWriteback (s : State) (r : HeldReq) (key agent : Nat) : State :=
  let dom := domOf key
  match s.dirEnt key with
  | none => protocolError (dropReq s r.id) dom agent
  | some e =>
    let awaited : Bool := match e.tx with
      | some tx => tx.fwd == some agent && tx.ans.isNone
      | none => false
    if e.owner = some agent ∨ awaited then
      match cohPutData s e.pl r.pkt with
      | none => cohHold s r e.pl
      | some t =>
        let e' := if e.owner = some agent then { e with owner := none, isO := false } else e
        let e' := { e' with tx := e'.tx.map fun (tx : CohTx) => { tx with wb := false, was := tx.was.gone agent } }
        let t := sendCohAck (dropReq t r.id) key agent r.pkt 6
        match e'.tx with
        | some _ => teardownDone (cohAdvance (setDir t key e') key) dom
        | none => if e'.sharers = [] ∧ e'.resv = none then delDir t key else setDir t key e'
    else if cohUp s dom then protocolError (dropReq s r.id) dom agent
    else cohRefuse s r.id (s.rd XLT_COH_CFG.PART dom) r.pkt 11

/-- Data sent to the home under FWD_READ or RECALL (R358, R359): to the waiting reader, or written to memory. -/
def cohData (s : State) (r : HeldReq) (key agent : Nat) : State :=
  let dom := domOf key
  let stray := fun (_ : Unit) => (dropReq s r.id).count XLT_COH_CNT.STRAY dom
  match s.dirEnt key with
  | none => stray ()
  | some e => match e.tx with
    | none => stray ()
    | some tx =>
      if tx.tag ≠ pCtag r.pkt ∨ tx.fwd ≠ some agent ∨ tx.fwdKind < 2 ∨ tx.data.isSome then stray ()
      else
        let tx' := { tx with data := some (payLine r.pkt 0, pPoison r.pkt) }
        if tx.kind = .read then
          let t := dropReq s r.id
          match tx.ans with
          | none => setTx t key e tx'
          | some _ =>
            let h := tx.reader.getD (.desc 0 0)
            cohEnd { t with coh := { t.coh with ready := t.coh.ready ++ [(h, key, payLine r.pkt 0, pPoison r.pkt)] } } key e
        else match cohPutData s e.pl r.pkt with
          | none => cohHold s r e.pl
          | some t =>
            let t := dropReq t r.id
            match tx.ans with
            | none => setTx t key e tx'
            | some _ => teardownDone (cohAdvance (setTx t key { e with owner := none, isO := false } { tx' with fwd := none }) key) dom

/-- Codes of R357 that answer a snoop of a kind; kind 4 stands for COH_INVAL (R358). -/
def ackAllowed (kind code : Nat) : Bool :=
  if kind = 0 ∨ kind = 2 then code == 1 || code == 2 || code == 3 || code == 7 else code == 1 || code == 4 || code == 7

/-- A COH_ACK at the home (R357, R360 steps 5 to 7): DONE of a requester, or a snooped member's answer. -/
def cohAck (s : State) (key agent : Nat) (k : Pkt) : State :=
  let dom := domOf key
  let code := pRed k
  let stray := fun (_ : Unit) => s.count XLT_COH_CNT.STRAY dom
  match s.dirEnt key with
  | none => stray ()
  | some e => match e.tx with
    | none => stray ()
    | some tx =>
      let mine : Bool := tx.agent == agent && match tx.req with
        | some q => pCtag q == pCtag k
        | none => false
      if code = 0 ∧ mine then
        if tx.done then cohEnd s key e
        else if tx.fwd.isSome then setTx s key e { tx with early := true }
        else stray ()
      else if pCtag k ≠ tx.tag then stray ()
      else if tx.acks.contains agent then
        if ¬ ackAllowed 4 code then protocolError s dom agent
        else
          let own := decide (e.owner = some agent)
          let e' := if own ∧ code ≠ 7 then { e with owner := none, isO := false } else e
          let tx' := { tx with acks := tx.acks.filter (· != agent), wb := tx.wb || (own && code == 7) }
          teardownDone (cohAdvance (setTx s key e' tx') key) dom
      else if tx.fwd = some agent ∧ tx.ans.isNone then
        if ¬ ackAllowed tx.fwdKind code then protocolError s dom agent
        else teardownDone (fwdAnswered s key e tx agent (if code = 7 ∧ e.owner ≠ some agent then 1 else code)) dom
      else stray ()

/-- A held coherence packet at the home slice (R347, R360 step 2). -/
def serveCoh (s : State) (r : HeldReq) : State :=
  let k := r.pkt
  let o := pOpc k
  match r.look with
  | none => sendErr (dropReq s r.id) 16 k 1 0
  | some (slot, p) =>
    let refuse := fun (s : State) (c : Nat) => cohRefuse s r.id p k c
    if o = 0x14 ∨ o = 0x16 then refuse s 12 else
    -- answers and write-backs act on an entry that a teardown may still hold
    match (domsOf s k p fun x => x == 1 || x == 2).find? fun d => decide (0x13 ≤ o) && (s.dirEnt (cohKey d.1 (pAddr k))).isSome with
    | some (d, agent) =>
      let key := cohKey d (pAddr k)
      if o = 0x15 then cohData s r key agent
      else if o = 0x17 then cohAck (dropReq s r.id) key agent k
      else cohWriteback s r key agent
    | none => match resolveLine s slot (pktReq r.id p 0 k) with
      | (t, .error (.wait w)) => setReq t { r with lines := [.wait w] }
      | (t, .error l) => match l, (domsOf t k p (· == 1)).head? with
        | .poisonL, some (d, agent) =>
          if 0x13 ≤ o then refuse t 12 else sendGrant (dropReq t r.id) (cohKey d (pAddr k)) agent k 0 true (List.replicate 64 0)
        | _, _ => cohUnresolved t r.id p k l
      | (t, .ok x) => match x.coh with
        | none => refuse t 12
        | some key => match (domsOf t k p fun _ => true).find? (·.1 == domOf key) with
          | none => refuse t 12
          | some (d, agent) =>
            if ¬ cohUp t d then refuse t (if t.rd XLT_COH_CTL.STATE d = 0 then 12 else 11)
            else if o = 0x15 ∨ o = 0x17 then (dropReq t r.id).count XLT_COH_CNT.STRAY d
            else if o = 0x13 then cohWriteback t r key agent
            else cohRequest t r.id key x.line agent r.port k

/-- A member or a requester owing DONE does not answer within SNOOP_TMO: its domain goes down with cause 1; in a
teardown, the line of a recall that is not answered is poisoned (R364, R365 step 3). -/
def snoopTmo (s : State) (key : Nat) : State :=
  let dom := domOf key
  match s.dirEnt key with
  | none => s
  | some e => match e.tx with
    | none => s
    | some tx =>
      let who := if tx.wb then e.owner else match tx.fwd with
        | some w => some w
        | none => match tx.acks.head? with
          | some a => some a
          | none => if tx.done then some tx.agent else none
      match who with
      | none => s
      | some a =>
        if cohUp s dom then teardown s dom 1 a
        else
          let t := if tx.fwd.isSome ∨ tx.wb then cohPoison s dom e.pl else s
          teardownDone (cohWake (delDir t key) key) dom

/-- The reserved member has not come back within 16 × BACKOFF: the reservation passes on (R362). -/
def backoffEnd (s : State) (key : Nat) : State :=
  match s.dirEnt key with
  | none => s
  | some e =>
    if e.tx.isSome ∨ e.resv.isNone then s
    else
      let e' := { e with resv := e.waiters.head?, waiters := e.waiters.tail }
      if e'.resv = none ∧ e'.owner = none ∧ e'.sharers = [] then delDir s key else setDir s key e'

/-- Brings a domain UP when its set-up is valid (R344). -/
def domainUp (s : State) (d : Nat) : State :=
  let st := s.rd XLT_COH_CTL.STATE d
  let n := s.rd XLT_COH_CFG.NMEMB d
  let nodes := (List.range n).map fun i => memberNode s d i
  let ok := (st == 0 || st == 3) && decide (1 ≤ n) && decide (n ≤ 256) && nodes.all (·.isSome) && decide nodes.Nodup &&
    match s.spaceSlot (s.rd XLT_COH_CFG.DSPACE d) with
    | some sl => s.rd XLT_SPACE_LO.HOME_PART sl == s.rd XLT_COH_CFG.PART d && !s.on XLT_SPACE_LO.JOINED sl
    | none => false
  if ok then
    let g := (s.rd XLT_COH_CTL.GEN d + 1) % 256
    let p := s.rd XLT_COH_CFG.PART d
    let t := (s.wr XLT_COH_CTL.STATE 1 d).wr XLT_COH_CTL.GEN g d
    evPf0 (evPart t p 0x0702 d g n) 0x0702 d g n p
  else s

end Sys2Proof.Machine
end

