-- ==== Sys2Proof/Machine/Control.lean ====
section
/-!
DEFINITION. Sys2Proof/Machine/Control.lean: SYNC_SET and SYNC_WAIT (07 R299, R304 to R307), KEY_LOAD (14 R530, R531),
ROUTE_STAGE and ROUTE_COMMIT (11 R441 to R446), and the step of every descriptor opcode.
-/
namespace Sys2Proof.Machine

/-! ## Sync descriptors -/

def syncSetStep (s : State) (x : Started) : DStep :=
  let ws := x.words
  let o := dOp ws 0 0 16
  let sop := dOp ws 0 16 8
  let p := (objPart s o).getD 16
  if p = 16 then .done s x 0x06 0 0
  else if ¬ objTurn s o (.desc x.ring x.idx) then .stop (objJoin s o (.desc x.ring x.idx)) x (.obj o)
  else if sop = 4 then
    match dRead s x (dSpace ws) (dOp ws 1 0 48) with
    | (t, .ok d) =>
      let l := bytesToWords 8 d
      let sp := if spSpace l = 0 then dSpace ws else spSpace l
      let c := if armCheck l = 0 then armSpaces t p l sp else armCheck l
      if c ≠ 0 then .done t x c 0 0
      else match armStart t o p l sp (.desc x.ring x.idx) with
        | (u, _, true) => .stop u x .ext
        | (u, st, false) => .done u x st 0 0
    | (t, l) => dFail t x l 0
  else
    let (t, st) := sopApply s o sop (dW ws 5).toNat
    .done t x st 0 0

/-- SYNC_WAIT: `aux` holds the object, COND, VALUE, GEN at its start, the status (0xFF while it waits), the value read. -/
def syncWaitStep (s : State) (x : Started) : DStep :=
  let o := dOp x.words 0 0 16
  let cond := dOp x.words 0 16 8
  let val := (dW x.words 5).toNat
  if x.aux ≠ [] then
    if nthN x.aux 4 = 0xFF then .stop s x .ext else .done s x (nthN x.aux 4) (nthN x.aux 5) 0
  else if (objPart s o).isNone then .done s x 0x06 0 0
  else if ¬ objTurn s o (.desc x.ring x.idx) then .stop (objJoin s o (.desc x.ring x.idx)) x (.obj o)
  else
    let g := oGen (objW1 s o)
    let t := if cond = 5 ∧ oType (objW1 s o) = 2 then (sopApply s o 0x10 0).1 else s
    let (st, v, w0) := waitEval cond val g (objW0 t o) (objW1 t o)
    let u := if w0 = objW0 t o then t else wakeWaits (setObj t o w0 (objW1 t o)) o false
    if st = 0xFF then .stop (objLeave u (.desc x.ring x.idx)) { x with aux := [o, cond, val, g, st, v] } .ext else .done u x st v 0

/-- An arming ends: its descriptor or its SYNC_OP is answered, and what waited behind it goes on (R298). -/
def armEnds (s : State) (a : Arming) (st : Nat) : State :=
  let t := match a.who with
    | .desc r d => match findStarted s r d with
      | some x => finishDesc s x st 0 0
      | none => s
    | .req id => syncArmed s id st
    | _ => s
  objWake t a.obj

/-- How a read of several lines that no descriptor makes stands. -/
inductive Bulk where
  | ok (data : List Byte)
  | fails (status : Nat)
  | waits (w : Wait) (addr : Nat)
deriving DecidableEq, Repr

/-- Reads `n` lines of a set's member list, for the ring or node that asked for the arming (03 R168). -/
def listRead (s : State) (o : Nat) (who : Nat × Bool) (tag a : Nat) : Nat → List Byte → State × Bulk
  | 0, acc => (s, .ok acc)
  | n + 1, acc =>
    let q0 : LReq := { who := .arm o, part := 0, tag := tag, addr := a, access := 7, need := 1, first := who.1, firstRing := who.2 }
    match lookFor s q0 with
    | none => (s, .fails 1)
    | some (slot, q) =>
      match lineRead s slot { q0 with part := q } with
      | (t, .okL d) => listRead t o who tag (a + 64) n (acc ++ d)
      | (t, .wait w) => (t, .waits w a)
      | (t, .nakL 1 _) => (t, .waits .retry a)
      | (t, .nakL _ _) => (t, .fails 5)
      | (t, .errL c) => (t, .fails (causeStatus c))
      | (t, .poisonL) => (t, .fails 8)

/-- Who asked for an arming, as a fault record names it. -/
def armAsker (s : State) (a : Arming) : Nat × Bool :=
  match a.who with
  | .desc r _ => (r, true)
  | .req id => match s.reqs.find? (·.id == id) with
    | some r => (pSrc r.pkt, false)
    | none => (nodeId s, false)
  | _ => (nodeId s, false)

/-- The member-list read of an arming ends (07 R307 step 3): arming goes on, or is undone. -/
def armListDone (s : State) (o : Nat) : State :=
  match s.arming.find? (·.obj == o) with
  | none => s
  | some a =>
    let l := a.set.line
    let ms := if spMspace l = 0 then a.set.space else spMspace l
    let a0 := spMembers l / 64 * 64
    let n := ceilDiv (spMembers l % 64 + 2 * spExpect l) 64
    let r := match a.wait with
      | .ends st => (s, Bulk.fails st)
      | w => if waitOver w then listRead s o (armAsker s a) ms a0 n [] else (s, Bulk.waits w a.at_)
    match r with
    | (t, .waits w b) =>
      { t with arming := t.arming.map fun (x : Arming) => if x.obj = o then { x with wait := w, at_ := b } else x }
    | (t, .fails st) => armEnds (armRelease t o) a st
    | (t, .ok bs) =>
      let ids := (chunks (bs.length + 1) 2 ((bs.drop (spMembers l % 64)).take (2 * spExpect l))).map fun b => leNat b % 2 ^ 15
      let t := endFlights { t with arming := t.arming.filter (·.obj != o) } (.arm o)
      armEnds (armFinish t o { a.set with members := ids } a.guard) a 0

/-! ## KEY_LOAD (14 R530, R531) -/

def klSlot (ws : List Word) : Nat := dOp ws 0 0 12
def klKind (ws : List Word) : Nat := dOp ws 0 12 2
def klPart (ws : List Word) : Nat := dOp ws 0 16 4

/-- Empties a key slot (14 R531 step 2). -/
def emptySlot (s : State) (k : Nat) : State :=
  let s := if s.rd SEC_KEY_SLOT.STATE k = 1 then s.countDown SEC_STAT.SLOTS_LIVE
    else if s.rd SEC_KEY_SLOT.STATE k = 2 then s.countDown SEC_STAT.SLOTS_RETIRED else s
  { (s.clrReg SEC_KEY_SLOT.reg k).clrReg SEC_KEY_CNT.reg k with keys := { s.keys with link := kdel k s.keys.link } }

def keyLoadStep (s : State) (x : Started) : DStep :=
  let ws := x.words
  let kk := klKind ws
  if x.aux ≠ [] then .stop s x .ext
  else if ((kk = 0 ∨ kk = 2) ∧ klSlot ws = 0) ∨ (kk = 1 ∧ klSlot ws ≠ 0) then .done s x 0x09 0 0
  else if kk = 1 ∧ s.rd PRT_EXT_USED.EXTENTS (klPart ws) ≠ 0 then .done s x 0x15 0 0
  else if kk = 2 then .done (emptySlot s (klSlot ws)) x 0 0 0
  else .stop (s.emit (.hostRead 0 (dW ws 5).toNat 128)) { x with aux := [1] } .ext

/-- The key of a blob that passes step 4 of 14 R531. -/
def unwrapBlob (s : State) (ws : List Word) (b : List Byte) : Option (List Byte) :=
  let kk := klKind ws
  let n := if kk = 0 then 40 else 104
  let f := fun (i k : Nat) => leNat ((b.drop i).take k)
  let ok := b.length == 128 && f 0 1 == 1 && f 1 1 == kk && f 2 2 == klSlot ws && f 4 1 == klPart ws && f 5 3 == 0 &&
    f 12 4 == 0 && f 120 8 == 0 && (kk == 1 || f 56 64 == 0)
  match s.keys.sess.find? fun e => e.up && e.id == f 8 4 with
  | none => none
  | some e =>
    if ok then keyUnwrap (hkdf32 e.secret ("darun key load".toList.map fun c => toB c.toNat)) ((b.drop 16).take n) else none

/-- Installs a key (14 R531 step 5). -/
def installKey (s : State) (ws : List Word) (key : List Byte) : State :=
  if klKind ws = 1 then
    let t := { s with keys := { s.keys with mem := kput (klPart ws) key s.keys.mem } }
    (t.wr PRT_SEC_CFG.KEY_SET 1 (klPart ws)).wr PRT_SEC_CFG.KEY_LOADED 1 (klPart ws)
  else
    let k := klSlot ws
    let t := emptySlot s k
    let t := { t with keys := { t.keys with link := kput k key t.keys.link } }
    ((t.wr SEC_KEY_SLOT.STATE 1 k).wr SEC_KEY_SLOT.PART (klPart ws) k).count SEC_STAT.SLOTS_LIVE

/-- The blob's read has ended (14 R531 steps 3 to 5). -/
def blobDone (s : State) (x : Started) (blob : Option (List Byte)) : State :=
  match blob.bind (unwrapBlob s x.words) with
  | some key =>
    if klKind x.words = 1 ∧ s.rd PRT_EXT_USED.EXTENTS (klPart x.words) ≠ 0 then finishDesc s x 0x15 0 0
    else finishDesc (installKey s x.words key) x 0 0 0
  | none => finishDesc s x 0x1B 0 0

/-! ## Routes (11 R441 to R446) -/

def rsFirst (ws : List Word) : Nat := dOp ws 1 0 15
def rsCount (ws : List Word) : Nat := dOp ws 1 16 16
def idleVersion (s : State) : Nat := 1 - s.rd XRD_EPOCH.CUR
def stageBusy (s : State) : Bool := !s.on XRD_EPOCH.IDLE || s.xrd.commit.isSome

/-- A FIRST + COUNT beyond the table, or a FIRST other than 0 with COUNT 0: host errors (11 R441, R442, log entry 11). -/
def stageBad (ws : List Word) : Bool := decide (32768 < rsFirst ws + rsCount ws) || (rsCount ws == 0 && rsFirst ws != 0)

def stageStep (s : State) (x : Started) : DStep :=
  if x.aux ≠ [] then .stop s x .ext
  else if stageBusy s then .done s x 0x15 0 0
  else if stageBad x.words then .stop s x .ext
  else
    let n := if rsCount x.words = 0 then 528 else 4 * rsCount x.words
    .stop (s.emit (.hostRead 0 (dW x.words 4).toNat n)) { x with aux := [1] } .ext

/-- Writes entries of the idle version from image bytes (11 R434, R438, R442). -/
def stageImage (s : State) (ws : List Word) (img : Nat → Byte) : State :=
  let v := idleVersion s
  let num := fun (at_ n : Nat) => leNat ((List.range n).map fun i => img (at_ + i))
  if rsCount ws = 0 then
    (List.range 33).foldl (fun s i =>
      (s.wrReg XRD_MCAST_LO.reg v i 0 (num (16 * i) 8)).wrReg XRD_MCAST_HI.reg v i 0 (num (16 * i + 8) 8)) s
  else (List.range (rsCount ws)).foldl (fun s i => s.wrReg XRD_ROUTE.reg v (rsFirst ws + i) 0 (num (4 * i) 4)) s

/-- The image's read has ended. An image that is not read in full leaves the named entries free (11 R441, log entry 3). -/
def stageDone (s : State) (x : Started) (img : Option (List Byte)) : State :=
  let n := if rsCount x.words = 0 then 528 else 4 * rsCount x.words
  match img with
  | some bs =>
    if bs.length = n then finishDesc (stageImage s x.words (nthB bs)) x 0 0 0
    else finishDesc (stageImage { s with fresh := s.fresh + n } x.words fun i => Config.lineFill (s.fresh + i)) x 0x0D 0 0
  | none => finishDesc (stageImage { s with fresh := s.fresh + n } x.words fun i => Config.lineFill (s.fresh + i)) x 0x0D 0 0

def commitStep (s : State) (x : Started) : DStep :=
  let at_ := (dW x.words 4).toNat
  let drain := dOp x.words 1 0 1 == 1
  if x.aux ≠ [] then .stop s x .ext
  else if at_ < s.now + 10000 then .done s x 0x1C 0 0
  else if stageBusy s then .done s x 0x15 0 0
  else if ¬ drain ∧ (List.range 32).any (fun n => usable s n && s.rd PORT_PARTNER.GEN n == 0) then .done s x 0x03 0 0
  else
    let t := { s with xrd := { s.xrd with commit := some ⟨drain, at_, x.ring, x.idx, 0, 0⟩ } }
    .stop (((t.wr XRD_EPOCH.PENDING 1).wr XRD_EPOCH.IDLE 0).wrReg XRD_COMMIT_AT.reg 0 0 0 at_) { x with aux := [1] } .ext

/-! ## FENCE and NOP (03 R156, R162) -/

def fenceStep (s : State) (x : Started) : DStep :=
  let scope := dOp x.words 0 0 1
  let o := ringOwner s x.ring
  let before := s.started.filter fun y => !(y.ring == x.ring && y.idx == x.idx) &&
    (y.ring == x.ring || (scope == 1 && ringOwner s y.ring == o))
  if before = [] then .done s x 0 0 0
  else .stop s { x with aux := before.map fun y => fetchKey y.ring y.idx } .ext

def nopStep (s : State) (x : Started) : DStep := .done s x 0 0 0

/-! ## Every opcode's step -/

/-- The step of a descriptor's work, by its opcode (03 R155). -/
def workStep (s : State) (x : Started) : DStep :=
  let o := dOpc x.words
  if o = 0x01 then copyStep s x
  else if o = 0x02 then fillStep s x
  else if o = 0x03 ∨ o = 0x08 then convertStep s x
  else if o = 0x04 then digestStep s x
  else if o = 0x09 then gatherStep s x
  else if o = 0x0A then scatterStep s x
  else if o = 0x0B then pageStep s x
  else if o = 0x10 then progStep s x
  else if o = 0x18 then syncSetStep s x
  else if o = 0x19 then syncWaitStep s x
  else if o = 0x1A then fenceStep s x
  else if o = 0x20 then hintStep s x
  else if o = 0x21 then prefetchStep s x
  else if o = 0x22 then demoteStep s x
  else if o = 0x28 then publishStep s x
  else if o = 0x29 then pinStep s x
  else if o = 0x2A then unpinStep s x
  else if o = 0x30 then invalStep s x
  else if o = 0x38 then addStep s x
  else if o = 0x39 then releaseStep s x
  else if o = 0x3A then moveStep s x
  else if o = 0x40 then keyLoadStep s x
  else if o = 0x41 then stageStep s x
  else if o = 0x42 then commitStep s x
  else if o = 0x48 then replyStep s x
  else nopStep s x

/-- RESULT of a descriptor that another command ends (03 R158): the value that a SYNC_WAIT last read, the current version
of a PUBLISH's region. -/
def forcedResult (s : State) (x : Started) : Nat :=
  if dOpc x.words = 0x19 then nthN x.aux 5
  else if dOpc x.words = 0x28 then rgnCurrent s (dOp x.words 0 16 4) (dOp x.words 0 0 10)
  else 0

/-- Ends a descriptor that another command has ended with a status (02 R121, R101): a program stops, at once at a reset (06
R289). -/
def forceEnd (s : State) (x : Started) (st : Nat) : State :=
  match getInvoc s x with
  | some v =>
    if st = 0x0C then finishDesc (invocReset s x v) x st 0 0
    else match invocFail s x v st with
      | .done t y st res cnt => finishDesc t y st res cnt
      | .stop t y w => setStarted t { y with wait := w }
      | .more t y => setStarted t { y with wait := .run }
  | none =>
    let o := dOpc x.words
    let s := if (o = 3 ∨ o = 8 ∨ o = 9 ∨ o = 0xA) ∧ x.aux ≠ [] then arithEnd s x else s
    finishDesc s x st (forcedResult s x) (if opcHasLen o then x.prog else 0)

/-- A descriptor that waited in the command log has its turn. -/
def descCommit (s : State) (r d : Nat) : State :=
  match findStarted s r d with
  | some x => if x.wait = .commit then dRun workStep runFuel s { x with wait := .run } else s
  | none => s

/-- Runs a started descriptor that waits for nothing as far as it goes. One whose writes cannot commit as they come waits in
the command log (17 R608, R616). -/
def runDesc (s : State) (r d : Nat) : State :=
  match findStarted s r d with
  | none => s
  | some x => match x.wait with
    | .run =>
      if opcCommits (dOpc x.words) ∧ ¬ commitFree s then logPut (setStarted s { x with wait := .commit }) (.desc r d)
      else dRun workStep runFuel s x
    | .ends st => forceEnd s x st
    | .sig _ res cnt true => finishDesc s x 0 res cnt
    | _ => s

end Sys2Proof.Machine
end

