-- ==== Sys2Proof/Machine/Pump.lean ====
section
/-!
DEFINITION. Sys2Proof/Machine/Pump.lean: whatever waits and can go on goes on, at the end of every command that may let it;
starting a descriptor.
-/
namespace Sys2Proof.Machine

def canGo (w : Wait) : Bool :=
  match w with
  | .run | .ends _ | .sig _ _ _ true => true
  | _ => false

def lineGoes (l : LineSt) : Bool :=
  match l with
  | .wait w => canGo w
  | _ => false

/-- Whether a held request has something to do: a line that can go on, or none left to wait for. -/
def reqGoes (r : HeldReq) : Bool := r.lines.any lineGoes || r.lines.all isFinal

/-- A held request goes on. -/
def runReq (s : State) (id : Nat) : State :=
  match s.reqs.find? (·.id == id) with
  | none => s
  | some r =>
    let o := pOpc r.pkt
    if o = 0x08 then serveSync s r else if 0x10 ≤ o ∧ o ≤ 0x17 then serveCoh s r else serveReq s r

/-- One pass: every descriptor, held request and coherence transaction that can go on goes on, oldest first. -/
def pumpOnce (s : State) : State :=
  let t := (s.started.filter fun x => canGo x.wait).foldl (fun t x => runDesc t x.ring x.idx) s
  let t := (t.reqs.filter reqGoes).foldl (fun t r => runReq t r.id) t
  (t.coh.dir.filter fun e => e.2.tx.isSome).foldl (fun t e => cohAdvance t e.1) t

/-- Whether anything can go on. -/
def pumpNeeded (s : State) : Bool :=
  s.started.any (fun x => canGo x.wait) || s.reqs.any reqGoes || s.coh.dir.any fun e => e.2.tx.isSome

def pumpN : Nat → State → State
  | 0, s => s
  | n + 1, s => if pumpNeeded s then pumpN n (pumpOnce s) else s

/-- What waits for a channel that is lost looks again, and moves with slots on one are abandoned (13 R511, 02 R126). -/
def lostChans (s : State) : State :=
  rewait (lostChanMoves s) (fun w => match w with
    | .chan c => s.rd DDR_CTL.STATE c == 6
    | _ => false) (.wait .run) .run

/-- Everything that can go on goes on. Passes are bounded by what there is to release. -/
def pump (s : State) : State :=
  let t := recallClosing (lostChans s)
  pumpN (t.started.length + t.reqs.length + 2) t

/-- The descriptor that a command starts: the next fetched one of its ring, when it may start, passes the checks of
03 R157, and is of the command's kind. -/
def startable (s : State) (r d : Nat) (kind : List Word → Bool) : Option (List Word) :=
  match nextFetched s r with
  | some (d', ws) => if d' = d ∧ kind ws ∧ descCheck s r ws = 0 ∧ mayStart s r d ws then some ws else none
  | none => none

/-- Starts a descriptor of a kind and runs it as far as it goes; where the command names none, nothing changes. -/
def startDesc (s : State) (r d : Nat) (kind : List Word → Bool) : State :=
  let s := drainBad (s.fetched.length + 1) s r
  match startable s r d kind with
  | none => s
  | some ws => pump (runDesc (beginDesc s r d ws) r d)

def isOpc (o : Nat) (ws : List Word) : Bool := dOpc ws == o
/-- An opcode with a sub-code in a field of OPW0. -/
def isSub (o lo w v : Nat) (ws : List Word) : Bool := dOpc ws == o && dOp ws 0 lo w == v

end Sys2Proof.Machine
end

