-- ==== Sys2Proof/Machine/LogApply.lean ====
section
/-!
DEFINITION. Sys2Proof/Machine/LogApply.lean: what the control plane commits after a descriptor's work in the units has
ended: extents that are initialised, drained, scrubbed or moved, key blobs and route images (02 R116 to R125, 11 R441,
14 R531). While no commit is accepted they wait in the command log (17 R616, R621).
-/
namespace Sys2Proof.Machine

/-- The storage of an OPENING extent reads as zero (02 R116 steps 3 and 4); with a channel lost meanwhile the add ends with
poison (13 R514). A release that was accepted meanwhile begins
(log entry 40). -/
def extentInit (s : State) (b : Nat) : State :=
  match s.ext b with
  | some e =>
    if e.st = .opening then
      let lost := e.slots.any fun t => s.rd DDR_CTL.STATE t.1 == 6
      let t := finishBy ((scrubExt s b e).setExt b { e with st := .open, by_ := none, closeAfter := none }) e (if lost then 0x08 else 0) 0
      pump (match e.closeAfter, t.ext b with
        | some who, some e' => closeExt t b e' (some who)
        | _, _ => t)
    else s
  | none => s

/-- The token count of a CLOSING extent is zero: it is scrubbed (02 R121 steps 3 and 4). -/
def extentDrained (s : State) (b : Nat) : State :=
  match s.ext b with
  | some e => if e.st = .closing ∧ ¬ releaseHalted s e ∧ ¬ tokensOut s b e then scrubBegin s b e else s
  | none => s

/-- Scrubbing of a released extent has ended (02 R121 steps 4 and 5). -/
def extentScrubbed (s : State) (b : Nat) : State :=
  match s.ext b with
  | some e => if e.st = .scrubbing ∧ ¬ releaseHalted s e ∧ s.verRels.all (fun v => !v.exts.contains b) then pump (scrubDone s b e) else s
  | none => s

/-- The copy of a moving extent has ended: the final switch (02 R125). -/
def extentMoved (s : State) (b : Nat) : State :=
  match s.ext b with
  | some e => if e.st = .moving then pump (moveDone s b e) else s
  | none => s

/-- A KEY_LOAD's blob has been read, or not (14 R531 steps 3 to 5). -/
def keyBlobRead (s : State) (r d : Nat) (blob : Option (List Byte)) : State :=
  match findStarted s r d with
  | some x => if dOpc x.words = 0x40 then pump (blobDone s x blob) else s
  | none => s

/-- A ROUTE_STAGE's image has been read, or not (11 R441). -/
def routeImageRead (s : State) (r d : Nat) (img : Option (List Byte)) : State :=
  match findStarted s r d with
  | some x => if dOpc x.words = 0x41 then pump (stageDone s x img) else s
  | none => s

/-- What an input of the log comes to at its commit, register writes apart. -/
def applyEnt (s : State) (e : LogEnt) : State :=
  match e with
  | .write _ _ _ => s
  | .initDone b => extentInit s b
  | .drained b => extentDrained s b
  | .scrubDone b => extentScrubbed s b
  | .moveDone b => extentMoved s b
  | .blob r d b => keyBlobRead s r d b
  | .image r d img => routeImageRead s r d img
  | .desc r d => pump (descCommit s r d)

/-- An input that commits now, or waits in the log. -/
def commitOr (s : State) (e : LogEnt) : State := if commitFree s then applyEnt s e else logPut s e

end Sys2Proof.Machine
end

