-- ==== Sys2Proof/Machine/ExecDesc.lean ====
section
/-!
DEFINITION. Sys2Proof/Machine/ExecDesc.lean: the commands that start a descriptor, and those that end what one started.
A start names a ring and an index: it acts when that descriptor is the next fetched one of its ring, may start
(03 R149, R161, R162), passes the checks of 03 R157 and is of the command's kind; otherwise the descriptors that fail
those checks fall through and nothing else changes (log entry 9).
-/
namespace Sys2Proof.Machine

/-- COPY (03 R156, R669). -/
def execCopy (r : Ring) (d : Nat) (s : State) : Host.Outcome State Fault Refusal :=
  .next (startDesc s r.val d (isOpc 0x01))

/-- FILL (03 R156). -/
def execFill (r : Ring) (d : Nat) (s : State) : Host.Outcome State Fault Refusal :=
  .next (startDesc s r.val d (isOpc 0x02))

/-- CONVERT (05 R246). -/
def execConvert (r : Ring) (d : Nat) (s : State) : Host.Outcome State Fault Refusal :=
  .next (startDesc s r.val d (isOpc 0x03))

/-- DIGEST (03 R156). -/
def execDigest (r : Ring) (d : Nat) (s : State) : Host.Outcome State Fault Refusal :=
  .next (startDesc s r.val d (isOpc 0x04))

/-- REDUCE (05 R247). -/
def execReduce (r : Ring) (d : Nat) (s : State) : Host.Outcome State Fault Refusal :=
  .next (startDesc s r.val d (isOpc 0x08))

/-- GATHER_POOL (05 R248). Its host errors on a management ring are given no outcome (00 R28). -/
def execGatherPool (r : Ring) (d : Nat) (s : State) : Host.Outcome State Fault Refusal :=
  match startable (drainBad (s.fetched.length + 1) s r.val) r.val d (isOpc 0x09) with
  | some ws => if rowsBad ws ∧ ringOwner s r.val = 16 then .fault (.hostError 248) else .next (startDesc s r.val d (isOpc 0x09))
  | none => .next (startDesc s r.val d (isOpc 0x09))

/-- SCATTER_ADD (05 R249). Its host errors on a management ring are given no outcome (00 R28). -/
def execScatterAdd (r : Ring) (d : Nat) (s : State) : Host.Outcome State Fault Refusal :=
  match startable (drainBad (s.fetched.length + 1) s r.val) r.val d (isOpc 0x0A) with
  | some ws => if rowsBad ws ∧ ringOwner s r.val = 16 then .fault (.hostError 249) else .next (startDesc s r.val d (isOpc 0x0A))
  | none => .next (startDesc s r.val d (isOpc 0x0A))

/-- PAGE_GATHER (05 R250). -/
def execPageGather (r : Ring) (d : Nat) (s : State) : Host.Outcome State Fault Refusal :=
  .next (startDesc s r.val d (isOpc 0x0B))

/-- PROGRAM (06 R285 steps 1 to 4). -/
def execProgram (r : Ring) (d : Nat) (s : State) : Host.Outcome State Fault Refusal :=
  .next (startDesc s r.val d (isOpc 0x10))

/-- FENCE (03 R162). -/
def execFence (r : Ring) (d : Nat) (s : State) : Host.Outcome State Fault Refusal :=
  .next (startDesc s r.val d (isOpc 0x1A))

/-- NOP (03 R156). -/
def execNop (r : Ring) (d : Nat) (s : State) : Host.Outcome State Fault Refusal :=
  .next (startDesc s r.val d (isOpc 0x50))

/-- HINT HOT (04 R199, R200). -/
def execHintHot (r : Ring) (d : Nat) (s : State) : Host.Outcome State Fault Refusal :=
  .next (startDesc s r.val d (isSub 0x20 0 3 0))

/-- HINT COLD (04 R199, R200). -/
def execHintCold (r : Ring) (d : Nat) (s : State) : Host.Outcome State Fault Refusal :=
  .next (startDesc s r.val d (isSub 0x20 0 3 1))

/-- HINT STREAM_ONCE (04 R199, R200). -/
def execHintStreamOnce (r : Ring) (d : Nat) (s : State) : Host.Outcome State Fault Refusal :=
  .next (startDesc s r.val d (isSub 0x20 0 3 2))

/-- HINT PIN_NEAR (04 R199, R200). -/
def execHintPinNear (r : Ring) (d : Nat) (s : State) : Host.Outcome State Fault Refusal :=
  .next (startDesc s r.val d (isSub 0x20 0 3 3))

/-- HINT PIN_DRAM (04 R199, R200). -/
def execHintPinDram (r : Ring) (d : Nat) (s : State) : Host.Outcome State Fault Refusal :=
  .next (startDesc s r.val d (isSub 0x20 0 3 4))

/-- HINT EVICT_FIRST (04 R199, R200). -/
def execHintEvictFirst (r : Ring) (d : Nat) (s : State) : Host.Outcome State Fault Refusal :=
  .next (startDesc s r.val d (isSub 0x20 0 3 5))

/-- HINT CLEAR (04 R199, R200). -/
def execHintClear (r : Ring) (d : Nat) (s : State) : Host.Outcome State Fault Refusal :=
  .next (startDesc s r.val d (isSub 0x20 0 3 6))

/-- PREFETCH with TIER 0 (04 R201). -/
def execPrefetchNear (r : Ring) (d : Nat) (s : State) : Host.Outcome State Fault Refusal :=
  .next (startDesc s r.val d (isSub 0x21 0 2 0))

/-- PREFETCH with TIER 1 (04 R201). -/
def execPrefetchDram (r : Ring) (d : Nat) (s : State) : Host.Outcome State Fault Refusal :=
  .next (startDesc s r.val d (isSub 0x21 0 2 1))

/-- DEMOTE with TIER 1 (04 R202). -/
def execDemoteDram (r : Ring) (d : Nat) (s : State) : Host.Outcome State Fault Refusal :=
  .next (startDesc s r.val d (isSub 0x22 0 2 1))

/-- DEMOTE with TIER 2 (04 R202). -/
def execDemoteGranary (r : Ring) (d : Nat) (s : State) : Host.Outcome State Fault Refusal :=
  .next (startDesc s r.val d (isSub 0x22 0 2 2))

/-- PUBLISH (08 R331). -/
def execPublish (r : Ring) (d : Nat) (s : State) : Host.Outcome State Fault Refusal :=
  .next (startDesc s r.val d (isOpc 0x28))

/-- PIN (08 R333). -/
def execPin (r : Ring) (d : Nat) (s : State) : Host.Outcome State Fault Refusal :=
  .next (startDesc s r.val d (isOpc 0x29))

/-- UNPIN (08 R334). -/
def execUnpin (r : Ring) (d : Nat) (s : State) : Host.Outcome State Fault Refusal :=
  .next (startDesc s r.val d (isOpc 0x2A))

/-- SPACE_INVAL, steps 1 and 2 of 02 R93. -/
def execSpaceInval (r : Ring) (d : Nat) (s : State) : Host.Outcome State Fault Refusal :=
  .next (startDesc s r.val d (isOpc 0x30))

/-- EXTENT_ADD, steps 1 and 2 of 02 R116. -/
def execExtentAdd (r : Ring) (d : Nat) (s : State) : Host.Outcome State Fault Refusal :=
  .next (startDesc s r.val d (isOpc 0x38))

/-- EXTENT_RELEASE, steps 1 and 2 of 02 R121. -/
def execExtentRelease (r : Ring) (d : Nat) (s : State) : Host.Outcome State Fault Refusal :=
  .next (startDesc s r.val d (isOpc 0x39))

/-- EXTENT_MOVE (02 R125). -/
def execExtentMove (r : Ring) (d : Nat) (s : State) : Host.Outcome State Fault Refusal :=
  .next (startDesc s r.val d (isOpc 0x3A))

/-- FAULT_REPLY with MAPPED (02 R101, R104). -/
def execFaultReplyMapped (r : Ring) (d : Nat) (s : State) : Host.Outcome State Fault Refusal :=
  .next (startDesc s r.val d (isSub 0x48 4 1 0))

/-- FAULT_REPLY with REFUSED (02 R101, R104). -/
def execFaultReplyRefused (r : Ring) (d : Nat) (s : State) : Host.Outcome State Fault Refusal :=
  .next (startDesc s r.val d (isSub 0x48 4 1 1))

/-- SYNC_SET (07 R299). -/
def execSyncSet (r : Ring) (d : Nat) (s : State) : Host.Outcome State Fault Refusal :=
  .next (startDesc s r.val d (isOpc 0x18))

/-- SYNC_WAIT with a condition that takes nothing and arrives nowhere (07 R304). -/
def execSyncWait (r : Ring) (d : Nat) (s : State) : Host.Outcome State Fault Refusal :=
  .next (startDesc s r.val d (fun ws => isOpc 0x19 ws && dOp ws 0 16 8 != 4 && dOp ws 0 16 8 != 5))

/-- SYNC_WAIT with ARRIVE_WAIT (07 R304). -/
def execSyncWaitArrive (r : Ring) (d : Nat) (s : State) : Host.Outcome State Fault Refusal :=
  .next (startDesc s r.val d (isSub 0x19 16 8 5))

/-- SYNC_WAIT with TAKE (07 R304). -/
def execSyncWaitTake (r : Ring) (d : Nat) (s : State) : Host.Outcome State Fault Refusal :=
  .next (startDesc s r.val d (isSub 0x19 16 8 4))

/-- KEY_LOAD with KKIND 0, to the read of its blob (14 R531). -/
def execKeyLoadJob (r : Ring) (d : Nat) (s : State) : Host.Outcome State Fault Refusal :=
  .next (startDesc s r.val d (isSub 0x40 12 2 0))

/-- KEY_LOAD with KKIND 1, to the read of its blob (14 R531). -/
def execKeyLoadMemory (r : Ring) (d : Nat) (s : State) : Host.Outcome State Fault Refusal :=
  .next (startDesc s r.val d (isSub 0x40 12 2 1))

/-- KEY_LOAD with KKIND 2 (14 R531). -/
def execKeyLoadEmpty (r : Ring) (d : Nat) (s : State) : Host.Outcome State Fault Refusal :=
  .next (startDesc s r.val d (isSub 0x40 12 2 2))

/-- ROUTE_STAGE, to the read of its image (11 R441). A FIRST + COUNT beyond the table is a PF0 host error (11 R442). -/
def execRouteStage (r : Ring) (d : Nat) (s : State) : Host.Outcome State Fault Refusal :=
  match startable (drainBad (s.fetched.length + 1) s r.val) r.val d (isOpc 0x41) with
  | some ws =>
    if !stageBusy s && stageBad ws then .fault (.hostError 442)
    else .next (startDesc s r.val d (isOpc 0x41))
  | none => .next (startDesc s r.val d (isOpc 0x41))

/-- ROUTE_COMMIT with MODE 0, to its PENDING state (11 R443, R444). -/
def execRouteCommitFlip (r : Ring) (d : Nat) (s : State) : Host.Outcome State Fault Refusal :=
  .next (startDesc s r.val d (fun ws => isOpc 0x42 ws && dOp ws 1 0 1 == 0))

/-- ROUTE_COMMIT with MODE 1, to its PENDING state (11 R443, R446). -/
def execRouteCommitDrain (r : Ring) (d : Nat) (s : State) : Host.Outcome State Fault Refusal :=
  .next (startDesc s r.val d (fun ws => isOpc 0x42 ws && dOp ws 1 0 1 == 1))

/-! ## What ends what a descriptor started -/

/-- Scrubbing of a released version's extents ends (08 R337 step 3). -/
def execVersionReleaseDone (p : Part) (region version : Nat) (s : State) : Host.Outcome State Fault Refusal :=
  match s.verRels.find? fun v => v.part == p.val && v.region == region && v.num == version with
  | none => .next s
  | some v =>
    let ready := v.exts.all fun b => match s.ext b with
      | some e => e.st == .scrubbing
      | none => true
    .next (if ready then pump (verReleased s v) else s)

/-- The requests translated under the tag's earlier generation have ended (02 R93 steps 2 and 3). -/
def execSpaceInvalDrained (r : Ring) (d : Nat) (s : State) : Host.Outcome State Fault Refusal :=
  match findStarted s r.val d with
  | none => .next s
  | some x =>
    if dOpc x.words = 0x30 ∧ (inFlight s (dSpace x.words)).all (fun k => !x.aux.contains k) then .next (pump (finishDesc s x 0 0 0))
    else .next s

/-- The storage of an OPENING extent reads as zero (02 R116 steps 3 and 4). -/
def execExtentInitDone (baseG : Nat) (s : State) : Host.Outcome State Fault Refusal := .next (commitOr s (.initDone baseG))

/-- The token count of a CLOSING extent is zero: it is scrubbed (02 R121 steps 3 and 4). -/
def execExtentReleaseDrained (baseG : Nat) (s : State) : Host.Outcome State Fault Refusal := .next (commitOr s (.drained baseG))

/-- RELEASE_TMO runs out: what still holds a token ends with poison (02 R121 step 3). -/
def execReleaseTmoExpiry (baseG : Nat) (s : State) : Host.Outcome State Fault Refusal :=
  match s.ext baseG with
  | some e => .next (if e.st = .closing ∧ ¬ e.absorbed ∧ ¬ releaseHalted s e then pump (poisonHolders s baseG e) else s)
  | none => .next s

/-- Scrubbing of a released extent has ended (02 R121 steps 4 and 5). -/
def execExtentScrubDone (baseG : Nat) (s : State) : Host.Outcome State Fault Refusal := .next (commitOr s (.scrubDone baseG))

/-- The copy of a moving extent has ended: the final switch (02 R125). -/
def execExtentMoveDone (baseG : Nat) (s : State) : Host.Outcome State Fault Refusal := .next (commitOr s (.moveDone baseG))

/-- A fault entry's coalescing window ends (02 R101 step 4). -/
def execCoalesceWindowEnd (p : Part) (tag page : Nat) (s : State) : Host.Outcome State Fault Refusal :=
  .next (pump (faultWindowEnd s p.val tag page))

/-- HOLD_TMO of a fault entry runs out (02 R103). -/
def execHoldTmoExpiry (p : Part) (tag page : Nat) (s : State) : Host.Outcome State Fault Refusal :=
  match s.faults.find? (isEntry p.val tag page) with
  | some e => .next (if e.written then pump (releaseHeld s p.val tag page (.nakL 1 (retryDelay s p.val)) .retry) else s)
  | none => .next s

/-- The key from which an access in flight that no packet or aperture request makes is named by its number, in place of a
request's (log entry 15). -/
def lifeFlight : Nat := 2 ^ 48

/-- The waits of a translated access (02 R94). -/
def translated (w : Wait) : Bool :=
  match w with
  | .fill _ | .coh _ | .chan _ | .way _ => true
  | _ => false

/-- A holder whose access has run out of time makes it again, and meets poison (02 R95). -/
def wakeHolder (s : State) (who : Holder) : State :=
  let f := fun (w : Wait) => if translated w then Wait.run else w
  match who with
  | .desc r d => { s with started := s.started.map fun (x : Started) => if x.ring = r ∧ x.idx = d then { x with wait := f x.wait } else x }
  | .set o => { s with sets := s.sets.map fun (x : Nat × SetX) => if x.1 = o then (x.1, { x.2 with wait := f x.2.wait }) else x }
  | .arm o => { s with arming := s.arming.map fun (a : Arming) => if a.obj = o then { a with wait := f a.wait } else a }
  | .load p => { s with loads := s.loads.map fun (l : Nat × Load) => if l.1 = p then (l.1, { l.2 with wait := f l.2.wait }) else l }
  | .req _ => s

/-- The access kind of a requester that sends no packet, for a record (03 R168). -/
def holderAccess (f : Flight) : Nat :=
  match f.who with
  | .set _ => 8
  | _ => if f.need = 1 then 7 else 8

/-- A request in flight reaches XLT_REQ_LIFE: it ends with poison and is recorded for its partition (02 R95). `id` is a
packet or aperture request's number, or `lifeFlight` + the number of an access in flight of a descriptor, a set, an arming
or a load. -/
def execXltReqLifeExpiry (id : Nat) (s : State) : Host.Outcome State Fault Refusal :=
  if lifeFlight ≤ id then
    match s.flights.find? fun f => f.id == id - lifeFlight with
    | some f =>
      if f.res.isSome then
        let t := { s with flights := s.flights.map fun (g : Flight) => if g.id = f.id then { g with poison := true } else g }
        .next (pump (watchUE (wakeHolder t f.who) 1 (t.homeSlice f.part f.addr) 0x0E f.part (holderAccess f) f.tag none 0 1))
      else .next s
    | none => .next s
  else match s.reqs.find? (·.id == id) with
  | some r =>
    if flies s (.req id) then
      let part := (r.look.map (·.2)).getD 16
      let t := setReq s (poisonWaits r)
      let t := watchUE t 1 (t.homeSlice part (pAddr r.pkt)) 0x0E part (pktReq id part 0 r.pkt).access (pSpace r.pkt) none 0 1
      .next (pump t)
    else .next s
  | none => .next s

/-- The member-list read of an ARM_SET ends (07 R307 step 3). -/
def execArmSetListReadDone (obj : Nat) (s : State) : Host.Outcome State Fault Refusal := .next (pump (armListDone s obj))

/-- A waited-on object has made the condition hold or fail (07 R305). -/
def execSyncWaitSatisfied (r : Ring) (d : Nat) (s : State) : Host.Outcome State Fault Refusal :=
  match findStarted s r.val d with
  | some x =>
    if dOpc x.words = 0x19 ∧ x.aux ≠ [] ∧ nthN x.aux 4 ≠ 0xFF then .next (pump (finishDesc s x (nthN x.aux 4) (nthN x.aux 5) 0))
    else .next s
  | none => .next s

/-- A SYNC_WAIT's TMO runs out; 0 means no limit (07 R305). -/
def execSyncWaitTmoExpiry (r : Ring) (d : Nat) (s : State) : Host.Outcome State Fault Refusal :=
  match findStarted s r.val d with
  | some x =>
    if dOpc x.words = 0x19 ∧ dOp x.words 2 0 32 ≠ 0 ∧ nthN x.aux 4 = 0xFF then .next (pump (finishDesc s x 0x0D (nthN x.aux 5) 0))
    else .next s
  | none => .next s

/-- An OPEN set's timer runs out (07 R306, R313): its limit is TMO, or SET_TMO where TMO is 0. -/
def execSetTimerExpiry (obj : Nat) (s : State) : Host.Outcome State Fault Refusal :=
  match kget obj s.sets with
  | some _ => .next (if oState (objW1 s obj) = 0 then pump (endSet s obj 3 true true) else s)
  | none => .next s

/-- A completing set's result is written and pushed (07 R311). -/
def execSetResultWritten (obj : Nat) (s : State) : Host.Outcome State Fault Refusal := .next (pump (completeSet s obj))

/-- Every tile of an invocation has ended: its targets are delivered and it completes (06 R285 steps 5 and 6). -/
def execProgramTilesDone (r : Ring) (d : Nat) (s : State) : Host.Outcome State Fault Refusal :=
  match findStarted s r.val d with
  | some x => match getInvoc s x with
    | some v =>
      if v.phase = 2 then .next (pump (dRun workStep runFuel (setInvoc s x { v with phase := 3 }) { x with wait := .run })) else .next s
    | none => .next s
  | none => .next s

/-- RUN_TMO of an invocation runs out; 0 means no limit (06 R289, R293). -/
def execProgRunTmoExpiry (r : Ring) (d : Nat) (s : State) : Host.Outcome State Fault Refusal :=
  match findStarted s r.val d with
  | some x => match getInvoc s x with
    | some v =>
      if s.rd PRT_PROG_CFG.RUN_TMO v.part ≠ 0 ∧ (v.phase = 1 ∨ v.phase = 2) then .next (pump (invocStop s x v)) else .next s
    | none => .next s
  | none => .next s

/-- A KEY_LOAD's blob has been read, or not (14 R531 steps 3 to 5). -/
def execKeyBlobReadDone (r : Ring) (d : Nat) (blob : Option (List Byte)) (s : State) : Host.Outcome State Fault Refusal :=
  .next (commitOr s (.blob r.val d blob))

/-- A ROUTE_STAGE's image has been read, or not (11 R441). -/
def execRouteImageReadDone (r : Ring) (d : Nat) (img : Option (List Byte)) (s : State) : Host.Outcome State Fault Refusal :=
  .next (commitOr s (.image r.val d img))

/-- An issuer access of a COPY has ended on the host link, or has run into FETCH_TMO (03 R669). -/
def execIssuerAccessDone (r : Ring) (d : Nat) (res : IssuerRes) (s : State) : Host.Outcome State Fault Refusal :=
  match findStarted s r.val d with
  | none => .next s
  | some x =>
    if dOpc x.words ≠ 0x01 ∨ x.wait ≠ .ext then .next s
    else
      let forget := fun (t : State) =>
        { t with xrd := { t.xrd with own := t.xrd.own.filter fun q => !(q.ring == r.val && q.idx == d &&
          (q.kind == .issuerRd || q.kind == .issuerWr)) } }
      match res with
      | .data bs =>
        if ringLoc1 s r.val ∨ x.buf ≠ [] then .next s
        else .next (pump (setStarted s { x with buf := (bs ++ List.replicate 64 0).take 64, wait := .run }))
      | .poison =>
        if ringLoc1 s r.val ∨ x.buf ≠ [] then .next s else .next (pump (setStarted s { x with bad := true, wait := .run }))
      | .err => if ringLoc1 s r.val then .next s else .next (pump (finishDesc s x 0x03 0 x.prog))
      | .tmo => .next (pump (finishDesc (forget s) x 0x0D 0 x.prog))

end Sys2Proof.Machine
end

