-- ==== Sys2Proof/Machine/Meter.lean ====
section
/-!
DEFINITION. Sys2Proof/Machine/Meter.lean: ingress policers (12 R462 to R464) and guard-band mode (12 R468).
-/
namespace Sys2Proof.Machine

def emptyClass : ClassX := ⟨0, 0, 0, 0, 0, 0, 0⟩
def State.classX (s : State) (n tc : Nat) : ClassX := kgetD emptyClass tc (s.portQ n).cls
def State.setClassX (s : State) (n tc : Nat) (x : ClassX) : State :=
  s.setPortQ n { s.portQ n with cls := kset emptyClass tc x (s.portQ n).cls }

/-! ## Link state -/

def emptyLink : LinkX :=
  ⟨0, false, 0, 0, 0, 0, 0, 0, [], [], none, 0, 0, false, false, false, [], [], 0, 0, 0, none, [], (0, 15), (0, 15), false, false,
    [], 0, [], false⟩
def State.link (s : State) (n : Nat) : LinkX := kgetD emptyLink n s.links
def State.setLink (s : State) (n : Nat) (x : LinkX) : State := { s with links := kset emptyLink n x s.links }

def emptyCredit : Credit := ⟨0, 0, 0, 0, 0, 0, 0, 0⟩
def creditOf (x : LinkX) (tc : Nat) : Credit := kgetD emptyCredit tc x.credits
def setCredit (x : LinkX) (tc : Nat) (c : Credit) : LinkX := { x with credits := kset emptyCredit tc c x.credits }

/-- Crossroads has taken a packet from the receive buffer: its credits are returned (10 R397). -/
def creditBack (s : State) (n tc len : Nat) : State :=
  let x := s.link n
  let c := creditOf x tc
  s.setLink n (setCredit x tc { c with rxH := c.rxH + 1, rxD := c.rxD + len })

/-- The colour a meter gives a packet. -/
inductive Colour where
  | green | yellow | red
deriving DecidableEq, Repr

/-- The pre-colour under COLOUR_AWARE (12 R463): whether it is yellow. -/
def preYellow (s : State) (n : Nat) (p : Pkt) : Bool :=
  s.on QOS_PORT_CFG.COLOUR_AWARE n &&
  ((s.on QOS_PORT_CFG.YELLOW_RETX n && (pFlags p).testBit 0) || (s.on QOS_PORT_CFG.YELLOW_MCAST n && wfld p.w0 47 2 != 0))

/-- Meters a packet at its ingress port: the two-rate three-colour meter of RFC 2698, in tenths of a byte, with the
buckets refilled by the fabric time that has passed (12 R462, R463). -/
def meter (s : State) (n : Nat) (p : Pkt) : State × Colour :=
  let t := wfld p.w0 30 3
  if t = 7 ∨ ¬ s.on QOS_METER_LO.EN n t then (s, .green)
  else
    let x := s.classX n t
    let cir := s.rd QOS_METER_LO.CIR n t
    let pir := max cir (s.rd QOS_METER_LO.PIR n t)
    let dt := s.now - x.mAt
    let cl := x.cBucket - cir * dt
    let pl := x.pBucket - pir * dt
    let b := 10 * pktBytes p
    let cCap := s.rd QOS_METER_HI.CBS n t * 640
    let pCap := s.rd QOS_METER_HI.PBS n t * 640
    let out := fun (c d : Nat) => s.setClassX n t { x with cBucket := c, pBucket := d, mAt := s.now }
    if pCap < pl + b then (out cl pl, .red)
    else if preYellow s n p ∨ cCap < cl + b then (out cl (pl + b), .yellow)
    else (out (cl + b) (pl + b), .green)

/-- The lowest-numbered cause of guard-band mode in effect at a port, 0 for none (12 R468). -/
def guardCause (s : State) (n : Nat) : Nat :=
  let q := s.portQ n
  let hold := s.rd QOS_PORT_CFG.GB_HOLD n != 0
  if s.on QOS_PORT_CFG.GB_FORCE n then 1
  else if ¬ s.on CHIP_START.READY then 2
  else if ¬ s.on XRD_TIME_CFG.MASTER ∧ ¬ s.on XRD_TIME_CFG.SYNCED then 3
  else if q.gbTrain.isSome && hold then 4
  else if q.gbStep.isSome && hold then 5
  else 0

/-- Brings GUARD and GUARD_CAUSE of a port up to date; entering and leaving write event 0x0A03 (12 R468). -/
def guardUpdate (s : State) (n : Nat) : State :=
  let c := guardCause s n
  let was := s.rd QOS_GATE_CTL.GUARD n
  let t := (s.wr QOS_GATE_CTL.GUARD (b2n (c != 0)) n).wr QOS_GATE_CTL.GUARD_CAUSE c n
  if was = b2n (c != 0) then t else evPf0 t 0x0A03 n (b2n (c != 0) + c * 2) s.now

/-- Every port's guard-band mode is brought up to date. -/
def guardAll (s : State) : State := (List.range 32).foldl guardUpdate s

/-! ## Gates and shapers (12 R460, R461, R465) -/

/-- Packet stream in tenths of a GB/s, which is tenths of a byte per ns, at a width code and rate (10 R375). -/
def streamRate (w rate : Nat) : Nat := 1875 * 2 ^ w / 8 / 2 ^ rate

def portRate (s : State) (n : Nat) : Nat := atLeast1 (streamRate (s.rd PORT_STATUS.WIDTH n) (s.rd PORT_STATUS.RATE n))

/-- Entries of a gate list. -/
def gateLen (s : State) (n l : Nat) : Nat := min 64 (s.rd (if l = 0 then QOS_GATE_CTL.NENT0 else QOS_GATE_CTL.NENT1) n)

/-- How long an entry of a list lasts (ns). -/
def gateDur (s : State) (n l e : Nat) : Nat := max 100 (s.rd QOS_GATE_ENT.DURATION n l e)

/-- Whether an entry of a list opens a class's gate. -/
def gateOpens (s : State) (n l e tc : Nat) : Bool := (s.rd QOS_GATE_ENT.OPEN n l e).testBit tc

/-- Whether a class's gate is open now. -/
def gateIsOpen (s : State) (n tc : Nat) : Bool :=
  let l := s.rd QOS_GATE_CTL.CUR n
  tc == 7 || gateLen s n l == 0 || gateOpens s n l (s.portQ n).gateEnt tc

/-- A class's shaper credit brought up to now, in tenths of a byte (12 R460, R461): frozen while the gate is closed or the
port trains; rising while the class holds a packet; a negative credit of an empty class recovers to 0, as IEEE 802.1Q has
it. -/
def shaperClass (s : State) (n tc : Nat) : State :=
  let x := s.classX n tc
  let slope := s.rd QOS_SHAPER.IDLE_SLOPE n tc
  let st := s.rd PORT_STATUS.STATE n
  if slope = 0 then s
  else if ¬ gateIsOpen s n tc ∨ st = 1 ∨ st = 3 then s.setClassX n tc { x with at_ := max x.at_ s.now }
  else
    let since := (s.portQ n).q.filterMap fun e => if e.tc = tc then some e.at_ else none
    let from_ := since.foldl min s.now
    let mid := max x.at_ (min s.now from_)
    let c : Int := if x.credit < 0 then min 0 (x.credit + ((slope * (mid - x.at_) : Nat) : Int)) else x.credit
    let cap := atLeast1 (s.rd QOS_SHAPER.HI_CREDIT n tc) * 640
    s.setClassX n tc { x with credit := min (cap : Int) (c + ((slope * (s.now - mid) : Nat) : Int)), at_ := max x.at_ s.now }

/-- Every shaper of a port brought up to now: done before a gate, the port's state or its queues change. -/
def shaperSync (s : State) (n : Nat) : State := (List.range 7).foldl (fun s t => shaperClass s n t) s

end Sys2Proof.Machine
end

