-- ==== Sys2Proof/Machine/Rings.lean ====
section
/-!
DEFINITION. Sys2Proof/Machine/Rings.lean: fetching descriptors (03 R145, R150), doorbells (03 R146 to R148, 11 R431),
and stopping rings for a reset (03 R150).
-/
namespace Sys2Proof.Machine

/-! ## Fetching -/

/-- Descriptors of the next fetch: up to 8, not past the producer index nor the end of the ring (03 R145). -/
def fetchSize (s : State) (r : Nat) : Nat :=
  let c := s.rd RNG_IDX.CIDX r
  min (min 8 ((s.rd RNG_IDX.PIDX r + 2 ^ 32 - c) % 2 ^ 32)) (descEntries s r - c % descEntries s r)

/-- Whether a ring has descriptors to fetch (03 R148, R149, R151). -/
def fetchable (s : State) (r : Nat) : Bool :=
  s.on RNG_CTL.ENABLE r && !ringShut s r && decide (s.rd RNG_CFG.CLASS r < 2) && decide ((s.ringX r).stopping = 0) &&
  decide (fetchSize s r ≠ 0)

/-- The ring of an owner that is served next, with the descriptors it may still take: rings with pending descriptors in
weighted round robin, each taking up to WEIGHT descriptors a round (03 R149). WEIGHT is read as a ring's round begins
(R144). -/
def nextRing (s : State) (o : Nat) : Option (Nat × Nat) :=
  let rs := ringsWhere s fun r => ringOwner s r == o && fetchable s r
  let (cur, left) := kgetD (4096, 0) o s.arb
  if left ≠ 0 ∧ rs.contains cur then some (cur, left)
  else (((rs.filter fun r => decide (cur < r)) ++ rs).head?).map fun r => (r, atLeast1 (s.rd RNG_CFG.WEIGHT r))

/-- Issues a fetch of `n` descriptors of a ring: a host read, or a READ on TC 3 (03 R140). False where its slot does not
seal (14 R526, R527). -/
def fetchIssue (s : State) (r n : Nat) : State × Bool :=
  let a := s.rdReg RNG_DESC_BASE.reg r 0 0 + s.rd RNG_IDX.CIDX r % descEntries s r * 64
  let t := s.setRingX r { s.ringX r with fetching := n }
  if ringLoc1 s r then ownRequest t .fetch r (s.rd RNG_IDX.CIDX r) 0x01 3 a n []
  else if canPost s (ringFunc s r) then (t.emit (.hostRead (ringFunc s r) a (64 * n)), true)
  else (t, true)

/-- The ring engine serves an owner: one fetch of its rings is outstanding at a time (DESIGN CHOICE, log entry 62), and the
next one is of the ring whose turn it is. A ring whose fetch cannot be sealed stops with cause 2 (14 R527), and the next ring
has its turn; `fuel` bounds the rings that stop so. -/
def fetchTurn : Nat → State → Nat → State
  | 0, s, _ => s
  | fuel + 1, s, o =>
    if s.rings.any fun e => e.2.fetching != 0 && ringOwner s e.1 == o then s
    else match nextRing s o with
      | none => s
      | some (r, left) =>
        let n := min left (fetchSize s r)
        match fetchIssue { s with arb := kput o (r, left - n) s.arb, arbOwner := o } r n with
        | (t, true) => t
        | (t, false) => fetchTurn fuel (stopRing (t.setRingX r { t.ringX r with fetching := 0 }) r 2) o

/-- Every ring of an owner can have its turn. -/
def fetchOwner (s : State) (o : Nat) : State := fetchTurn (s.regs.length + 1) s o

/-- Serves the owner of a ring. -/
def fetchGo (s : State) (r : Nat) : State := fetchOwner s (ringOwner s r)

/-- Serves the 17 owners round robin, from the one after the owner served last (03 R149). -/
def fetchRound (s : State) : State := (List.range 17).foldl (fun t i => fetchOwner t ((s.arbOwner + 1 + i) % 17)) s

/-- Lists fetched descriptors from index `d` on. -/
def putFetched (s : State) (r : Nat) : Nat → List (List Word) → State
  | _, [] => s
  | d, ws :: l => putFetched { s with fetched := kput (fetchKey r (d % 2 ^ 32)) ws s.fetched } r (d + 1) l

/-- The outstanding fetch of a ring has brought its descriptors: CIDX passes them, those that fail a check and may
start complete, and the next fetch goes out (03 R149, R151 step 1, R157). -/
def fetchDone (s : State) (r : Nat) (descs : List (List Word)) : State :=
  let x := s.ringX r
  if x.fetching = 0 ∨ descs.length ≠ x.fetching then s
  else
    let c := s.rd RNG_IDX.CIDX r
    let t := putFetched s r c (descs.map fun ws => (List.range 8).map fun i => nthW ws i)
    let t := (t.wr RNG_IDX.CIDX ((c + x.fetching) % 2 ^ 32) r).setRingX r { x with fetching := 0 }
    if x.stopping ≠ 0 then fetchGo (stopFinish t r) r
    else fetchGo (drainBad (t.fetched.length + 1) t r) r

/-- Drops the chip's own outstanding requests of a ring that a test picks. -/
def dropOwn (s : State) (f : OwnReq → Bool) : State :=
  { s with xrd := { s.xrd with own := s.xrd.own.filter fun q => !f q } }

/-- The outstanding fetch of a ring fails or is abandoned: the ring stops with cause 2, or the stop under way goes on
(03 R150, R151). -/
def fetchFail (s : State) (r : Nat) : State :=
  let x := s.ringX r
  if x.fetching = 0 then s
  else
    let t := dropOwn (s.setRingX r { x with fetching := 0 }) fun q => q.kind == .fetch && q.ring == r
    fetchGo (if x.stopping ≠ 0 then stopFinish t r else stopRing t r 2) r

def isCpl (q : OwnReq) : Bool :=
  match q.kind with
  | .cpl _ => true
  | _ => false

/-- A completion or record write of a ring fails: the unacknowledged ones count as dropped and the ring stops with
cause 3 (03 R150, R151). -/
def writeFail (s : State) (r : Nat) : State :=
  let mine := fun (q : OwnReq) => isCpl q && q.ring == r
  let n := (s.xrd.own.filter mine).length
  stopRing ((dropOwn s mine).count RNG_CTL.DROPPED r 0 0 (max 1 n)) r 3

/-! ## Doorbells -/

/-- Whether an index lies behind another, modulo 2^32 within half the range (11 R431). -/
def idxBack (new old : Nat) : Bool := decide (2 ^ 31 ≤ (new + 2 ^ 32 - old) % 2 ^ 32)

/-- The current value of a ring's producer (selector 0) or consumer (selector 1) index. -/
def dbCurrent (s : State) (r sel : Nat) : Nat := if sel = 0 then s.rd RNG_IDX.PIDX r else s.rd RNG_CPL_IDX.CCIDX r

/-- A doorbell value that 03 R172 calls a host error: an index that moves backwards, a PIDX more than the ring's
entries ahead of CIDX, a CCIDX ahead of CPIDX. -/
def dbBad (s : State) (r sel v : Nat) : Bool :=
  idxBack v (dbCurrent s r sel) ||
  (if sel = 0 then decide (descEntries s r < (v + 2 ^ 32 - s.rd RNG_IDX.CIDX r) % 2 ^ 32)
   else decide ((s.rd RNG_CPL_IDX.CPIDX r + 2 ^ 32 - s.rd RNG_CPL_IDX.CCIDX r) % 2 ^ 32 <
     (v + 2 ^ 32 - s.rd RNG_CPL_IDX.CCIDX r) % 2 ^ 32))

/-- Whether a ring takes a doorbell at all (03 R146, R148). -/
def dbLive (s : State) (r sel : Nat) : Bool := s.on RNG_CTL.ENABLE r && (sel == 1 || decide (s.rd RNG_CFG.CLASS r < 2))

/-- Room in a record ring lets its records-lost notice out (03 R171). -/
def flushLost (s : State) (r : Nat) : State :=
  if s.rd RNG_CFG.CLASS r < 2 ∨ ¬ ringLive s r ∨ ¬ canWriteRing s r then s
  else
    let x := s.ringX r
    if x.lost > 0 ∧ cplRoom s r then putSlot (s.setRingX r { x with lost := 0 }) r (lostNotice s r x.lost) true else s

/-- A doorbell of a ring owned by a partition of a dozing scope wakes it (16 R601). -/
def wakeDb (s : State) (r : Nat) : State :=
  if s.on CHIP_SLEEP.WAKE_ON_DB ∧ ringOwner s r < 16 then
    wakeWhere s 3 fun sc => sc == 5 * 1024 || sc == 4 * 1024 + s.wardOf (ringOwner s r)
  else s

/-- Whether a doorbell has no effect: its ring does not take it, or its PIDX is the current one (03 R146, R148). -/
def dbIgnored (s : State) (r sel v : Nat) : Bool := !dbLive s r sel || (sel == 0 && v == s.rd RNG_IDX.PIDX r)

/-- A doorbell that is not a host error takes effect: PIDX and the fetch it allows, or CCIDX and the completions,
records and starts it makes room for (03 R146 to R149). -/
def doorbell (s0 : State) (r sel v : Nat) : State :=
  if dbIgnored s0 r sel v then s0
  else
    let s := wakeDb s0 r
    if sel = 0 then fetchGo (s.wr RNG_IDX.PIDX v r) r
    else
      let t := s.wr RNG_CPL_IDX.CCIDX v r
      let t := flushLost (flushHeld t r (t.heldCpl.length + 1)) r
      drainBad (t.fetched.length + 1) t r

/-- The CLASS 1 ring of partition `p` with rank `k` (03 R142). A partition has at most 256; of more, which a host error alone
makes, those from rank 256 on have no page: DESIGN CHOICE, log entry 62. -/
def ringOfRank (s : State) (p k : Nat) : Option Nat :=
  if k < 256 then (ringsWhere s fun i => s.rd RNG_CFG.CLASS i == 1 && ringOwner s i == p)[k]? else none

/-- Aperture writes of a function that are under way as its doorbell of a ring comes: the descriptors it announces start after
them (03 R165). The code 0x3F is an aperture write's (Extent.lean). -/
def awaitApt (s : State) (func r : Nat) : State :=
  let ids := (s.reqs.filter fun q => pOpc q.pkt == aptWrite && (q.port - 64) / 16 == func).map (·.id)
  let x := s.ringX r
  let live := x.behind.filter fun b => s.reqs.any fun q => q.id == b.2
  if live = x.behind ∧ ids = [] then s
  else s.setRingX r { x with behind := live ++ ids.map fun i => (s.rd RNG_IDX.PIDX r, i) }

/-- Whether the pool apertures and doorbells of a function answer at all: not in SAFE (16 R580). -/
def barsServed (s : State) : Bool := s.rd CHIP_START.PHASE != 7

/-- Whether a function's scope is under reset: its aperture completes as Completer Abort and its doorbells are
ignored (16 R597). -/
def funcShut (s : State) (func : Nat) : Bool :=
  scopeShut s 5 0 || (func != 0 && (scopeShut s 3 (func - 1) || scopeShut s 4 (s.wardOf (func - 1))))

/-- The ring slot of a doorbell page of a function: PF0's page `i` is slot `i`; a VF's page is a rank, and a partition
that is not enabled ignores writes (03 R131, 19 R654, R655). -/
def dbSlot (s : State) (func page : Nat) : Option Nat :=
  if ¬ barsServed s ∨ funcShut s func then none
  else if func = 0 then some page
  else if s.partOn (func - 1) then ringOfRank s (func - 1) page
  else none

/-- A doorbell value that 03 R172 calls a host error, on a partition's ring: the index takes a free value, and nothing but
that ring is touched (00 R27; DESIGN CHOICE, log entry 11). -/
def wildDoorbell (s : State) (r sel : Nat) : State := doorbell s.tickFresh r sel ((Config.openValue s.fresh).toNat % 2 ^ 32)

/-- Such a value from the host link: on a ring of PF0 it has no outcome (00 R28). -/
def dbError (s : State) (r sel : Nat) : Host.Outcome State Fault Refusal :=
  if ringOwner s r < 16 then .next (pump (wildDoorbell s r sel)) else .fault (.hostError 172)

/-! ## Stops that end started descriptors with "reset" (03 R150 causes 4 and 5) -/

/-- Ends every started descriptor of a ring with status "reset" and stops it with a cause. -/
def resetRing (s : State) (r cause : Nat) : State :=
  if ¬ s.on RNG_CTL.ENABLE r then s
  else
    let x := s.ringX r
    let t := if x.stopping = 0 then s.setRingX r { x with stopping := cause, fetching := 0 } else s.setRingX r { x with fetching := 0 }
    let t := dropOwn t fun q => q.kind == .fetch && q.ring == r
    let t := (t.started.filter (·.ring == r)).foldl (fun t x =>
      match findStarted t x.ring x.idx with
      | some y => forceEnd t y 0x0C
      | none => t) t
    stopFinish t r

end Sys2Proof.Machine
end

