-- ==== Sys2Proof/Machine/Deliver.lean ====
section
/-!
DEFINITION. Sys2Proof/Machine/Deliver.lean: an arriving packet from its port to where it ends (11 R428 to R439, R445,
R450 to R452): arrival checks, meter, transit, replication, delivery, and the answers to the chip's own requests.
-/
namespace Sys2Proof.Machine

/-! ## Transit and replication -/

/-- Whether a port's link carries packets: its STATE is ACTIVE, RETRAIN, LPI or LEAVING (10 R381). -/
def linkUp (s : State) (n : Nat) : Bool :=
  let st := s.rd PORT_STATUS.STATE n
  st == 2 || st == 3 || st == 4 || st == 8

def hopLimit (s : State) : Nat := atLeast1 (s.rd XRD_CFG.HOP_LIMIT)

/-- HOPS raised by one, or none at HOP_LIMIT (11 R436). -/
def hop (s : State) (p : Pkt) : Option Pkt :=
  if pHops p = hopLimit s then none else some { p with w0 := wset p.w0 49 6 (pHops p + 1) }

/-- A unicast packet for another node (11 R435, R436). -/
def transit (s : State) (port : Nat) (yellow : Bool) (p : Pkt) : State :=
  match hop s p with
  | none => s.count XRD_PORT_CNT.HOPS_DROP port
  | some q => routeUnicast s 16 port yellow q

/-- Looks the queued packets of a port that stops being usable up again; multicast copies are dropped and counted
(11 R435). -/
def relookup (s : State) (n : Nat) : State :=
  let q := s.portQ n
  let t := s.setPortQ n { q with q := [] }
  countOld (q.q.foldl (fun t e => if e.copy then countNoRoute t e.inPort else routeUnicast t e.flow e.inPort e.yellow e.pkt) t)

/-! ## Answers to the chip's own requests (11 R421, R426, R430, R433) -/

/-- The open request that an answer answers. -/
def ownMatch (s : State) (p : Pkt) : Option OwnReq :=
  s.xrd.own.find? fun q =>
    pDst q.pkt == pSrc p && pSpace q.pkt == pSpace p && pAddr q.pkt == pAddr p && pSeq q.pkt == pSeq p &&
    pCtag q.pkt == pCtag p && pKey q.pkt == pKey p &&
    (let o := pOpc p
     o == 0x18 || o == 0x1E || (pOpc q.pkt == 0x01 && o == 0x02 && pLen p == pArg q.pkt) || (pOpc q.pkt == 0x03 && o == 0x04))

/-- A request of the chip has its good answer. -/
def ownDone (s : State) (q : OwnReq) (p : Pkt) : State :=
  match q.kind with
  | .fetch =>
    if pPoison p then fetchFail s q.ring
    else fetchDone s q.ring ((chunks (pLen p) 64 p.pay).map fun b => bytesToWords 8 b)
  | .cpl notify => if notify then pendRing s q.ring else s
  | .issuerRd => match findStarted s q.ring q.idx with
    | some x => setStarted s (if pPoison p then { x with bad := true, wait := .run } else { x with buf := payLine p 0, wait := .run })
    | none => s
  | .issuerWr => match findStarted s q.ring q.idx with
    | some x => setStarted s { x with prog := x.prog + 1, buf := [], wait := .run }
    | none => s

/-- A request of the chip has failed: ERROR_RESP, or a NAK other than "retry after" (03 R150, R669). A completion or record
write that fails is still listed, and is dropped and counted with the ring's other open ones. -/
def ownFail (s : State) (q : OwnReq) : State :=
  match q.kind with
  | .fetch => fetchFail s q.ring
  | .cpl _ => writeFail s q.ring
  | _ => match findStarted s q.ring q.idx with
    | some x => finishDesc s x 0x03 0 x.prog
    | none => s

/-- An answer addressed to this node: it ends or holds back the request it answers, or it is a stray (11 R429). -/
def answerIn (s : State) (port : Nat) (p : Pkt) : State :=
  match ownMatch s p with
  | none => s.count XRD_PORT_CNT2.STRAY port
  | some q =>
    if pOpc p = 0x18 ∧ pCode p = 1 then
      { s with xrd := { s.xrd with own := s.xrd.own.map fun (x : OwnReq) => if x.id = q.id then { x with naked := true } else x } }
    else
      let fails := pOpc p == 0x18 || pOpc p == 0x1E
      let t := dropOwn s fun x => x.id == q.id && !(fails && isCpl q)
      if fails then ownFail t q else ownDone t q p

/-- Sends one of the chip's own requests again, with RETX set (11 R430, R433). -/
def resendOwn (s : State) (id : Nat) : State :=
  match s.xrd.own.find? (·.id == id) with
  | none => s
  | some q =>
    let p := { q.pkt with w0 := wset q.pkt.w0 55 1 1 }
    let q' := { q with pkt := p, naked := false }
    let t := { s with xrd := { s.xrd with own := s.xrd.own.map fun (x : OwnReq) => if x.id = id then q' else x } }
    originate t (min 16 (ringOwner t q.ring)) p

/-! ## Fabric notices (11 R448, R452, R668) -/

/-- Sets the fabric time. -/
def setTime (s : State) (n : Nat) : State := s.wrReg XRD_TIME.reg 0 0 0 (n % 2 ^ 64)

/-- A pending take-over of a port's gate lists takes place: the other list runs from AT on (12 R467 step 4). -/
def gateTake (s : State) (n : Nat) : State :=
  let at_ := s.rd QOS_GATE_AT.AT n
  let t := shaperSync s n
  let cur := 1 - t.rd QOS_GATE_CTL.CUR n
  let t := (t.wr QOS_GATE_CTL.CUR cur n).wr QOS_GATE_CTL.PENDING 0 n
  evPf0 (t.setPortQ n { t.portQ n with gateEnt := 0, gateAt := at_ }) 0x0A02 n at_ cur

/-- Take-overs that the fabric time has passed (12 R467 step 3). -/
def gateLate (s : State) : State :=
  (List.range 32).foldl (fun t n => if t.on QOS_GATE_CTL.PENDING n && decide (t.rd QOS_GATE_AT.AT n ≤ t.now) then gateTake t n else t) s

/-- A TIME notice from the parent (11 R448): the offset is slewed away while it is at most 1 µs, and stepped otherwise. -/
def timeIn (s : State) (port : Nat) (p : Pkt) : State :=
  if s.on XRD_TIME_CFG.MASTER ∨ s.rd XRD_TIME_CFG.PARENT ≠ port then s
  else
    let target := payWord p 0 + s.rd PORT_FIBRE.RTT port / 2
    let off : Int := (target : Int) - s.now
    let t := (s.wr XRD_TIME_CFG.SYNCED 1).wr XRD_TIME_CFG.LAST_ERR (min 65535 off.natAbs)
    if off.natAbs ≤ 1000 then guardAll { t with xrd := { t.xrd with slew := off } }
    else
      let t := setTime { t with xrd := { t.xrd with slew := 0 } } target
      let t := { t with ports := (List.range 32).foldl (fun l n => kput n { kgetD emptyPortQ n l with gbStep := some t.now } l) t.ports }
      guardAll (gateLate (evPf0 t 0x0906 port (off % 2 ^ 64).toNat t.now))

/-- A ROUTE_CTL from the partner: LEAVING, GONE or TIME. -/
def routeCtl (s : State) (port : Nat) (p : Pkt) : State :=
  let node := s.rd PORT_PARTNER.NODE port
  if pCode p = 1 then
    let t := { s with xrd := { s.xrd with partnerLeft := sput port s.xrd.partnerLeft } }
    evPf0 (relookup t port) 0x0901 port node 0
  else if pCode p = 2 then evPf0 (s.count XRD_PORT_CNT2.LOST port 0 0 (pSync p)) 0x0905 port (pSync p) node
  else timeIn s port p

/-! ## Delivery (11 R429, R450) -/

/-- Whether a DOORBELL packet is accepted (03 R147, 11 R424), under a slot of the ring's owner (14 R526). -/
def dbPktOk (s : State) (p : Pkt) : Bool :=
  let w0 := payWord p 0
  let r := w0 % 4096
  decide (w0 < 8192) && decide (payWord p 1 < 2 ^ 32) && ((p.pay.take 64).drop 16).all (· == 0) &&
  ringLoc1 s r && s.rd RNG_LOC.NODE r == pSrc p && s.rd RNG_LOC.KEY_IDX r == pKey p && slotSeals s (pKey p) (ringOwner s r) &&
  (s.rd RNG_CFG.CLASS r == 1 || (w0 / 4096 == 1 && s.rd RNG_CFG.CLASS r == 3))

/-- Whether an accepted DOORBELL carries a value that 03 R172 calls a host error. -/
def dbPktBad (s : State) (p : Pkt) : Bool :=
  let r := payWord p 0 % 4096
  let sel := payWord p 0 / 4096 % 2
  let v := payWord p 1
  dbLive s r sel && dbBad s r sel v && !(pRetx p && idxBack v (dbCurrent s r sel))

/-- A DOORBELL packet that was accepted (03 R146 to R148, 11 R431). The effect of a value that is a host error stays on its
ring: no packet is a PF0 register or a management ring (00 R27, R28). -/
def dbPkt (s : State) (p : Pkt) : State :=
  let r := payWord p 0 % 4096
  let sel := payWord p 0 / 4096 % 2
  let v := payWord p 1
  let t := if ¬ dbLive s r sel then s
    else if pRetx p ∧ idxBack v (dbCurrent s r sel) then s.count XRD_RETX_STAT.DB_STALE
    else if dbPktBad s p ∧ ¬ dbIgnored s r sel v then wildDoorbell s r sel
    else doorbell s r sel v
  sendAnswer t (min 16 (ringOwner s r)) p (mkAnswer (nodeId t) p 0x04 5 0 0 0 0 0 [])

/-- Whether a READ asks for more than its answer's port can carry (11 R422). -/
def readTooLong (s : State) (p : Pkt) : Bool :=
  match routePort s (s.rd XRD_EPOCH.CUR) (pSrc p) with
  | some n => decide (s.rd PORT_PARTNER.MAX_LEN n < pArg p)
  | none => false

def isAnswer (o : Nat) : Bool := o == 0x02 || o == 0x04 || o == 0x07 || o == 0x18 || o == 0x1E

/-- A fabric request that resolves to a dozing scope wakes it when WAKE_ON_RX is 1 (16 R601). -/
def wakeRx (s : State) (part : Nat) : State :=
  if s.on CHIP_SLEEP.WAKE_ON_RX then wakeWhere s 2 fun sc => sc == 5 * 1024 || (decide (part < 16) && sc == 4 * 1024 + s.wardOf part) else s

/-- A request of `n` lines wakes the dozing scopes that they lie in. -/
def wakeShut (s : State) (slot a n : Nat) : State :=
  (List.range n).foldl (fun t i => match shutAt s slot (a + 64 * i) with
    | some (q, _) => wakeRx t q
    | none => t) s

/-- A request that has passed the delivery checks and is opened (01 R47 step 4, 11 R422, R450). A shut scope still takes the
write-backs and answers of its members (09 R358, R361). -/
def requestIn (s : State) (port : Nat) (p : Pkt) : State :=
  let o := pOpc p
  let owed := o == 0x13 || o == 0x15 || o == 0x17
  if ¬ owed ∧ (scopeShut s 5 0 ∨ s.ctl.asleep.contains (5 * 1024)) then sendNak (wakeRx s 16) 16 p 1 (poolRetry s) 0
  else if o = 0x09 then dbPkt s p
  else if o = 0x08 then
    match objPart s (pSync p) with
    | none => s
    | some q => match spaceLookup s p 0 with
      | (t, .error c) => sendErr t 16 p c 0
      | (t, .ok _) => match shutDelay t q (pSync p / 4096) with
        | some d => sendNak (wakeRx t q) q p 1 d 0
        | none =>
          let (u, r) := holdReq t port p 1
          serveSync u r
  else if o = 0x01 ∧ readTooLong s p then sendErr s 16 p 15 0
  else match spaceLookup s p (pAddr p) with
    | (t, .error c) =>
      let u := sendErr t 16 p c 0
      if pMcast p = 0 then u else dropArrival u port
    | (t, .ok (slot, part)) =>
      if 0x10 ≤ o ∧ o ≤ 0x17 then
        match shutDelay t part (t.homeSlice part (pAddr p)) with
        | some d => if owed then
            let (u, r) := holdReq t port p 1
            serveCoh u r
          else sendNak (wakeRx t part) part p 1 d 0
        | none =>
          let (u, r) := holdReq t port p 1
          serveCoh u r
      else
        let n := if o = 0x01 then pArg p else if o = 0x06 then 1 else pLen p
        match if n = 1 then shutAt t slot (pAddr p) else none with
        | some (q, d) => sendNak (wakeRx t q) q p 1 d 0
        | none => admitReq (wakeShut t slot (pAddr p) n) port p n

/-- Delivery of a packet to this node (11 R429). -/
def deliver (s : State) (port : Nat) (p : Pkt) : State :=
  let o := pOpc p
  if s.xrd.leaving ≠ 0 then
    { s with xrd := { s.xrd with leaveDrops := kput port (kgetD 0 port s.xrd.leaveDrops + 1) s.xrd.leaveDrops } }
  else if pTc p = 0 then dropArrival s port
  else if o = 0x1C then
    if pSrc p ≠ s.rd PORT_PARTNER.NODE port ∨ pHops p ≠ 0 then dropArrival s port else routeCtl s port p
  else if o = 0x0A ∨ ¬ addrFits p then dropArrival s port
  else match openPkt s port p with
    | .error t => t
    | .ok q =>
      if isAnswer o then
        if scopeShut s 5 0 then s.count XRD_PORT_CNT2.STRAY port else answerIn s port q
      else if (o = 0x09 ∧ ¬ dbPktOk s q) ∨ (o = 0x08 ∧ ¬ syncPktOk s q) then dropArrival s port
      else requestIn s port q

/-- Delivery of a multicast copy: checks 3 to 5, and no answer (11 R429, R438). -/
def deliverCopy (s : State) (port : Nat) (p : Pkt) : State :=
  if s.xrd.leaving ≠ 0 then
    { s with xrd := { s.xrd with leaveDrops := kput port (kgetD 0 port s.xrd.leaveDrops + 1) s.xrd.leaveDrops } }
  else if pOpc p = 0x0A ∨ ¬ addrFits p then dropArrival s port
  else match openPkt s port p with
    | .error t => t
    | .ok q => requestIn s port { q with w0 := wset q.w0 57 1 1 }

/-- A multicast packet: its copies by the table of its epoch, the column copy of a GRID row member, and the copy
delivered here (11 R438, R439). -/
def replicate (s : State) (port : Nat) (yellow : Bool) (p : Pkt) : State :=
  let v := pEpoch p
  let node := nodeId s
  let inRow := decide (node / 128 = pDst p / 128)
  let lo := s.rdReg XRD_MCAST_LO.reg v port 0
  let hi := s.rdReg XRD_MCAST_HI.reg v port 0
  let fan := if pMcast p = 1 then lo % 2 ^ 32 else hi % 2 ^ 32
  let t := match hop s p with
    | none => if fan = 0 then s else s.count XRD_PORT_CNT.HOPS_DROP port
    | some q => fanOut s fan 16 port yellow q
  let t := if pMcast p = 1 ∧ inRow ∧ pGrid p then
      let c := { p with w0 := wset (wset (wset p.w0 47 2 2) 56 1 0) 0 15 node }
      sendOrig t 16 c
    else t
  let here := if pMcast p = 1 then lo.testBit 32 && inRow else hi.testBit 32 && decide (node % 128 = pDst p % 128)
  if here then deliverCopy t port p else t

/-! ## Arrival -/

/-- A packet that Crossroads takes from a receive buffer (11 R434, R437, R445). -/
def takePkt (s0 : State) (port : Nat) (yellow : Bool) (p : Pkt) : State :=
  let s := creditBack s0 port (pTc p) (pLen p)
  if pEpoch p ≠ s.rd XRD_EPOCH.CUR ∧ s.on XRD_EPOCH.IDLE then s.count XRD_PORT_CNT.STALE port
  else if pMcast p ≠ 0 then replicate s port yellow p
  else if pDst p = nodeId s then deliver s port p
  else transit s port yellow p

/-- The packet as it counts on arrival: one from a partner with GEN 0 carries the current epoch (11 R437). -/
def arrived (s : State) (port : Nat) (p : Pkt) : Pkt :=
  if s.rd PORT_PARTNER.GEN port = 0 then { p with w0 := wset p.w0 33 1 (s.rd XRD_EPOCH.CUR) } else p

/-- A packet arrives whole on a port (11 R428, 12 R462, R464). While the node drains it waits in the receive buffer. -/
def receive (s : State) (port : Nat) (p0 : Pkt) : State :=
  if ¬ linkUp s port then s
  else
    let p := arrived s port p0
    if arrivalFail (nodeId s) (trusted s port) p ≠ 0 then creditBack (dropArrival s port) port (pTc p) (pLen p)
    else match meter s port p with
      | (t, .red) => creditBack (t.count QOS_METER_CNT.RED port (pTc p)) port (pTc p) (pLen p)
      | (t, c) =>
        let y := c == .yellow
        let t := if y then t.count QOS_METER_CNT.YELLOW port (pTc p) else t
        if s.on XRD_EPOCH.DRAINING then { t with xrd := { t.xrd with rxWait := t.xrd.rxWait ++ [(port, y, p)] } }
        else takePkt t port y p

/-! ## Route commits (11 R444 to R446) -/

/-- Copies the registers of [a, a + n) over those of [b, b + n). -/
def copyRegs (s : State) (a b n : Nat) : State :=
  let from_ := s.regs.filter fun e => decide (a ≤ e.1) && decide (e.1 < a + n)
  let rest := s.regs.filter fun e => !(decide (b ≤ e.1) && decide (e.1 < b + n))
  { s with regs := from_.foldl (fun l e => kput (e.1 - a + b) e.2 l) rest }

/-- One route-table version becomes a copy of the other. -/
def copyRoutes (s : State) (from_ to_ : Nat) : State :=
  let t := copyRegs s (XRD_ROUTE.reg.addr from_ 0 0) (XRD_ROUTE.reg.addr to_ 0 0) 0x20000
  copyRegs t (XRD_MCAST_LO.reg.addr from_ 0 0) (XRD_MCAST_LO.reg.addr to_ 0 0) 0x400

/-- The sum of STALE over the ports. -/
def staleTotal (s : State) : Nat := (List.range 32).foldl (fun a n => a + s.rd XRD_PORT_CNT.STALE n) 0

/-- Ends the descriptor of a commit with OK. -/
def commitDone (s : State) (c : Commit) (st : Nat) : State :=
  match findStarted s c.ring c.idx with
  | some x => finishDesc s x st 0 0
  | none => s

/-- The fabric time reaches AT of a pending commit: CUR flips, or the node begins to drain. -/
def commitAt (s0 : State) (c : Commit) : State :=
  let s := if s0.now < c.at_ then setTime s0 c.at_ else s0
  if c.drain then
    { s.wr XRD_EPOCH.DRAINING 1 with xrd := { s.xrd with commit := some { c with phase := 2 } } }
  else
    let new := 1 - s.rd XRD_EPOCH.CUR
    let t := (s.wr XRD_EPOCH.CUR new).wr XRD_EPOCH.PENDING 0
    let t := countOld { t with xrd := { t.xrd with commit := some { c with phase := 1 }, staleAt := staleTotal t } }
    commitDone (evPf0 t 0x0902 new c.at_ t.now) c 0

/-- The old version's hold ends: it becomes a copy of the current one, and idle (11 R444 step 4). -/
def holdEnd (s : State) : State :=
  let cur := s.rd XRD_EPOCH.CUR
  let t := (copyRoutes s cur (1 - cur)).wr XRD_EPOCH.IDLE 1
  let t := countOld { t with xrd := { t.xrd with commit := none } }
  evPf0 t 0x0903 (1 - cur) ((staleTotal t - t.xrd.staleAt) % 2 ^ 32) t.now

/-- Draining ends: what is left is dropped, the new routes are copied, and forwarding resumes (11 R446 steps 3 to 5). -/
def drainEnd (s : State) (c : Commit) : State :=
  let left := s.ports.flatMap fun q => q.2.q
  let t := { s with ports := s.ports.map fun (q : Nat × PortQ) => (q.1, { q.2 with q := [] }) }
  let t := left.foldl (fun (t : State) e => if e.inPort < 32 then t.count XRD_PORT_CNT2.DRAIN_DROP e.inPort else t) t
  let cur := t.rd XRD_EPOCH.CUR
  let t := copyRoutes t (1 - cur) cur
  let t := ((t.wr XRD_EPOCH.DRAINING 0).wr XRD_EPOCH.PENDING 0).wr XRD_EPOCH.IDLE 1
  let wait := t.xrd.waiting
  let rx := t.xrd.rxWait
  let t := countOld { t with xrd := { t.xrd with commit := none, waiting := [], rxWait := [] } }
  let t := evPf0 (commitDone t c 0) 0x0904 left.length c.at_ (t.now - c.at_)
  let t := wait.foldl (fun t w => sendOrig t w.1 w.2) t
  rx.foldl (fun t r => takePkt t r.1 r.2.1 r.2.2) t

/-! ## Leaving the fabric (11 R451) -/

/-- A ROUTE_CTL to a port's partner (11 R668). -/
def notice (s : State) (n code sync : Nat) (pay : List Byte) : Pkt :=
  mkPkt { dst := s.rd PORT_PARTNER.NODE n, src := nodeId s, tc := 7, opc := 0x1C, len := pay.length / 64, code := code,
          sync := sync, epoch := if s.rd PORT_PARTNER.GEN n = 0 then 0 else s.rd XRD_EPOCH.CUR } pay

/-- The chip begins to leave: LEAVING on every usable port, which takes STATE LEAVING (11 R451 steps 1 and 2). -/
def leaveStart (s : State) (kind : Nat) : State :=
  if s.xrd.leaving ≠ 0 then s
  else
    let ports := (List.range 32).filter (usable s)
    let t := ports.foldl (fun t n => (t.emit (.packet n (notice t n 1 0 []))).wr PORT_STATUS.STATE 8 n) s
    { t with xrd := { t.xrd with leaving := kind } }

/-- LEAVE_HOLD has run out: every packet held is dropped and counted, and GONE goes out on each port (11 R451 step 4). -/
def leaveEnd (s : State) : State :=
  let left := (s.ports.flatMap fun q => q.2.q.map (·.inPort)) ++ s.xrd.rxWait.map (·.1)
  let drops := left.foldl (fun l n => if n < 32 then kput n (kgetD 0 n l + 1) l else l) s.xrd.leaveDrops
  let t := { s with ports := s.ports.map fun (q : Nat × PortQ) => (q.1, { q.2 with q := [] }), xrd := { s.xrd with rxWait := [] } }
  ((List.range 32).filter fun n => s.rd PORT_STATUS.STATE n == 8).foldl (fun t n =>
    t.emit (.packet n (notice t n 2 (min 65535 (kgetD 0 n drops)) []))) t

end Sys2Proof.Machine
end

