-- ==== Sys2Proof/Machine/Link.lean ====
section
/-!
DEFINITION. Sys2Proof/Machine/Link.lean: the link layer of a port (10): training, retrain, going down, flits, replay,
credits, the ninth lane, low-power idle.
-/
namespace Sys2Proof.Machine

/-! ## What a port sends -/

/-- A control flit: its CTYPE and the fields of its words (10 R382). -/
def ctlOut (s : State) (n ctype : Nat) (args : List Nat) : State := s.emit (.link n ctype args)

/-- A control request that is repeated every 1 µs until it is answered (10 R382). -/
def ctlAsk (s : State) (n ctype : Nat) (args : List Nat) : State :=
  (ctlOut s n ctype args).setLink n { s.link n with ask := some (ctype, args) }

/-- The request of a type has its answer. -/
def answered (x : LinkX) (ctype : Nat) : LinkX :=
  match x.ask with
  | some (c, _) => if c = ctype then { x with ask := none } else x
  | none => x

/-- CAPS of this chip (10 R382): NODE, both rates, RS544, MAX_LEN 64, GCM, GEN 1, TURN 280; the receive buffer and the
replay buffer of 2 MiB. -/
def capsArgs (s : State) : List Nat :=
  [nodeId s + 3 * 2 ^ 16 + 2 ^ 20 + 64 * 2 ^ 24 + 2 ^ 32 + 1 * 2 ^ 36 + 280 * 2 ^ 40, 4096 + 30720 * 2 ^ 16 + 2048 * 2 ^ 32]

/-- The header and data credits that a class is advertised at training (10 R387). -/
def shareH (s : State) (n t : Nat) : Nat := fld (s.rdReg PORT_CREDIT_H.reg n 0 0) (8 * t) 8 * 16
def shareD (s : State) (n t : Nat) : Nat := fld (s.rdReg PORT_CREDIT_D.reg n 0 0) (8 * t) 8 * 120

/-- Header entries and data units of a class that wait in the receive buffer. -/
def heldH (s : State) (n t : Nat) : Nat := (s.xrd.rxWait.filter fun w => w.1 == n && pTc w.2.2 == t).length
def heldD (s : State) (n t : Nat) : Nat :=
  (s.xrd.rxWait.filter fun w => w.1 == n && pTc w.2.2 == t).foldl (fun a w => a + pLen w.2.2) 0

/-- Credit advertisement words for TC 0 to 7: what is free at that moment (10 R382, R402 step 3). -/
def advArgs (s : State) (n : Nat) : List Nat :=
  (List.range 8).map fun t => (shareH s n t - heldH s n t) + (shareD s n t - heldD s n t) * 2 ^ 16

/-! ## Widths and maps (10 R385) -/

def lanesOf (mask : Nat) : List Nat := bitsSet 9 mask

/-- The width code for a number of usable lanes; none below 1. -/
def widthCode (u : Nat) : Option Nat :=
  if 8 ≤ u then some 3 else if 4 ≤ u then some 2 else if 2 ≤ u then some 1 else if 1 ≤ u then some 0 else none

/-- A map: logical lane l in bits [4l + 3:4l], the ninth lane in [35:32], 0xF where there is none (10 R382). -/
def mapOf (mask w : Nat) : Nat :=
  let ls := lanesOf mask
  (List.range w).foldl (fun a l => a + nthN ls l * 2 ^ (4 * l)) 0 + (ls[w]?).getD 0xF * 2 ^ 32

/-! ## Going down (10 R405 to R408) -/

/-- A port goes down: its replay buffer and credits go, Crossroads stops choosing it (10 R407, 12 R457, R461). A start-up
training that fails adds a strike (10 R388). -/
def portDown (s : State) (n cause : Nat) : State :=
  let x := s.link n
  let win := s.rd PORT_STATUS.WIN_COUNT n
  let t := evPf0 s 0x0802 n cause (x.buf.length + win * 2 ^ 32)
  let t := ((t.wr PORT_STATUS.STATE 5 n).wr PORT_STATUS.DOWN_CAUSE cause n).wr PORT_STATUS.TX_SPARE_OK 0 n
  let t := t.wr PORT_STATUS.RX_SPARE_OK 0 n
  let t := if x.startup ∧ x.phase ≠ 0 then t.wr PORT_STATUS.STRIKES (min 2 (t.rd PORT_STATUS.STRIKES n + 1)) n else t
  let t := t.setLink n { emptyLink with tries := x.tries, laser := x.laser, laserLow := x.laserLow, laserGood := x.laserGood }
  let q := t.portQ n
  let t := t.setPortQ n { q with cls := q.cls.map (fun (c : Nat × ClassX) => (c.1, { c.2 with deficit := 0, credit := 0 })), flowDef := [] }
  floorSync (relookup t n)

/-! ## Training (10 R383, R388) -/

/-- Begins training with a preset: the link forgets what it carried (10 R383 step 1). -/
def trainBegin (s : State) (n preset : Nat) (startup : Bool) (tries : Nat) : State :=
  if portOut s n then s else
  let x := s.link n
  let was := usable s n
  let lanes := laneDefects s n
  let t := ((s.wr PORT_STATUS.STATE 1 n).wr PORT_STATUS.REFUSE_CAUSE 0 n).wr PORT_STATUS.RATE 0 n
  let t := (t.wr PORT_LANE_STAT.TX_FAIL 0 n).wr PORT_LANE_STAT.RX_FAIL 0 n
  let bad := x.laserLow ||| lanes
  let t := t.setLink n { emptyLink with phase := 1, startup := startup, tries := tries, preset := preset, txBad := bad, rxBad := lanes,
                                        laser := x.laser, laserLow := x.laserLow, laserGood := x.laserGood }
  let t := { t with xrd := { t.xrd with partnerLeft := sdel n t.xrd.partnerLeft } }
  let q := t.portQ n
  let t := t.setPortQ n { q with cls := q.cls.map (fun (c : Nat × ClassX) => (c.1, { c.2 with credit := 0 })) }
  (floorSync (if was then relookup t n else t)).emit (.link n 0x20 [preset])

/-- Start-up behaviour by the port's strikes (10 R388). -/
def trainStartup (s : State) (n : Nat) : State :=
  let k := s.rd PORT_STATUS.STRIKES n
  if k = 0 then trainBegin s n (s.rd PORT_CTL.PRESET n) true 0
  else if k = 1 then trainBegin s n (s.rd PORT_CTL.ALT_PRESET n) true 0
  else evPf0 (s.wr PORT_STATUS.STATE 7 n) 0x0807 n k 0

/-- Training is refused (10 R384). -/
def trainRefuse (s : State) (n cause : Nat) : State :=
  let t := ((s.wr PORT_STATUS.STATE 6 n).wr PORT_STATUS.REFUSE_CAUSE cause n).setLink n
    { s.link n with phase := 0, ask := none }
  evPf0 t 0x0806 n cause (t.rd PORT_PARTNER.NODE n)

/-- A lane cannot be used in one direction of the training under way (10 R383 steps 1 and 2). -/
def laneOut (s : State) (n lane : Nat) (rx : Bool) : State :=
  let x := s.link n
  let x := if rx then { x with rxBad := x.rxBad ||| 2 ^ lane, rxOk := x.rxOk &&& (511 - 2 ^ lane) }
    else { x with txBad := x.txBad ||| 2 ^ lane }
  let t := s.setLink n x
  if x.rxBad &&& 511 = 511 then portDown t n 4 else if x.txBad &&& 511 = 511 then portDown t n 6 else t

/-- A partner's training block on a lane, with its RX_OK mask (10 R383 step 2, R402 step 2). -/
def blockIn (s : State) (n lane mask : Nat) : State :=
  let x := s.link n
  let ph := if x.phase = 1 then 2 else if x.phase = 11 then 12 else x.phase
  if ph ≠ 2 ∧ ph ≠ 12 then s
  else
    let ok := if x.rxBad.testBit lane then x.rxOk else x.rxOk ||| 2 ^ lane
    (s.setLink n { x with phase := ph, rxOk := ok, partnerOk := mask }).emit (.link n 0x20 [x.preset, ok])

/-- Installs maps, the ninth lanes and the width of both directions. -/
def setMaps (s : State) (n w txm rxm : Nat) : State :=
  let t := ((s.wr PORT_STATUS.WIDTH w n).wr PORT_LANE_MAP.TX_MAP (txm % 2 ^ 32) n).wr PORT_LANE_MAP.RX_MAP (rxm % 2 ^ 32) n
  let t := (t.wr PORT_LANE_STAT.TX_SPARE (txm / 2 ^ 32) n).wr PORT_LANE_STAT.RX_SPARE (rxm / 2 ^ 32) n
  let t := (t.wr PORT_STATUS.TX_SPARE_OK 0 n).wr PORT_STATUS.RX_SPARE_OK 0 n
  t.setLink n { t.link n with cal := (List.range (2 ^ w)).map fun l => fld txm (4 * l) 4 }

/-- Both directions carry packets again, or for the first time: the port is offered to Crossroads. Shaper credit was
frozen till now (12 R461). -/
def linkLive (s : State) (n : Nat) : State :=
  let t := ((shaperSync s n).wr PORT_STATUS.STATE 2 n).setLink n { s.link n with phase := 0, startup := false, ask := none, lpiReq := false }
  let t := t.setPortQ n { t.portQ n with gbTrain := some t.now }
  floorSync (guardUpdate t n)

/-- Credits and sequence start afresh from the partner's advertisement (10 R383 step 6). -/
def advWindows (words : List Nat) : List (Nat × Credit) :=
  (List.range 8).foldl (fun l t =>
    let w := nthN words t
    kset emptyCredit t { emptyCredit with advH := fld w 0 16, advD := fld w 16 16 } l) []

/-- Training's last step: the partner's CREDIT_ADV is here (10 R383 steps 6 and 7). -/
def trainDone (s : State) (n : Nat) (adv : List Nat) : State :=
  let x := s.link n
  let t := s.setLink n { x with credits := advWindows adv, nextSeq := 0, expSeq := 0, ackV := false, buf := [], nakOut := false,
                                episode := false, tries := 0, early := [] }
  let t := linkLive (t.wr PORT_STATUS.STRIKES 0 n) n
  evPf0 t 0x0801 n (t.rd PORT_STATUS.WIDTH n + t.rd PORT_STATUS.RATE n * 4 + t.rd PORT_PARTNER.NODE n * 2 ^ 16)
    (t.rd PORT_FIBRE.LENGTH n + t.rd PORT_FIBRE.RTT n * 2 ^ 32)

/-- Fibre delay in tenths of a ns per metre (10 R413). -/
def dlyPerM (s : State) (n : Nat) : Nat :=
  let d := s.rd PORT_FIBRE.DLY_PER_M n
  if 40 ≤ d ∧ d ≤ 60 then d else 49

/-- Inserts a number in an ascending list. -/
def insertAsc (x : Nat) : List Nat → List Nat
  | [] => [x]
  | y :: l => if x ≤ y then x :: y :: l else y :: insertAsc x l
def sortAsc (l : List Nat) : List Nat := l.foldl (fun a x => insertAsc x a) []

/-- The middle of a list of numbers; of an even number, the mean of the two middle ones. -/
def median (l : List Nat) : Nat :=
  let a := sortAsc l
  let k := a.length
  if k % 2 = 1 then nthN a (k / 2) else (nthN a (k / 2 - 1) + nthN a (k / 2)) / 2

/-- The eighth echo has returned: RTT, LENGTH and LIMIT, refusal of a fibre that is too long, or CREDIT_ADV (10 R384,
R386, R387). -/
def fibreMeasured (s : State) (n : Nat) : State :=
  let x := s.link n
  let rtt := median (x.probes.map (·.2))
  let turns := (280 + s.rd PORT_PARTNER.TURN n) * 1000
  let dly := dlyPerM s n
  let len := ((rtt - turns) + 10 * dly) / (20 * dly)
  let ns := (rtt + 500) / 1000
  let t := (s.wr PORT_FIBRE.RTT ns n).wr PORT_FIBRE.LENGTH len n
  let lim := min (streamRate (t.rd PORT_STATUS.WIDTH n) (t.rd PORT_STATUS.RATE n)) (19660800 / atLeast1 ns)
  if 100000 < len then trainRefuse t n 3
  else
    let t := ctlAsk ((t.wr PORT_STATUS.LIMIT lim n).setLink n { x with phase := 6, ask := none }) n 4 (advArgs t n)
    if x.early = [] then t else trainDone t n (x.early.map (·.toNat))

/-! ## Retrain (10 R401 to R403) -/

/-- A retrain begins: data stops, RETRAIN_REQ goes out, a handoff is abandoned (10 R402 step 1, R404). Under reason 3 the
failed lanes are tested again. -/
def retrainBegin (s : State) (n reason : Nat) : State :=
  let s := shaperSync s n
  let x := s.link n
  let t := if reason = 3 then (s.wr PORT_LANE_STAT.TX_FAIL 0 n).wr PORT_LANE_STAT.RX_FAIL 0 n else s
  let w := s.rd PORT_STATUS.WIDTH n
  let t := (t.wr PORT_STATUS.STATE 3 n).setLink n
    { x with phase := if reason = 4 then 12 else 11, reason := reason, oldWidth := w, retrainAt := s.now, handoff := none,
             txBad := t.rd PORT_LANE_STAT.TX_FAIL n ||| x.laserLow ||| laneDefects s n, rxBad := t.rd PORT_LANE_STAT.RX_FAIL n ||| laneDefects s n, rxOk := 0, partnerOk := 0,
             early := [], lpiReq := false }
  ctlAsk t n 5 [w + reason * 16]

/-- A retrain that some event asks for: from ACTIVE or LPI it begins, in a retrain it is absorbed, otherwise nothing. -/
def retrainAsk (s : State) (n reason : Nat) : State :=
  let st := s.rd PORT_STATUS.STATE n
  if st = 2 ∨ st = 4 then retrainBegin s n reason else s

/-- Whether sequence number `a` lies before `b`, modulo 65,536 within a half-range (10 R393). -/
def seqBefore (a b : Nat) : Bool := a != b && decide ((b + 65536 - a) % 65536 < 32768)

/-- A retrain ends (10 R402 steps 4 and 5): the replay buffer from NEXT is resent, and its packets are charged to the new
windows. -/
def retrainDone (s : State) (n : Nat) (words : List Nat) : State :=
  let x := s.link n
  let next := fld (nthN words 0) 0 16
  let node := nodeId s
  let follows := (nthN words 0).testBit 18 && !decide (s.rd PORT_PARTNER.NODE n < node)
  let t := if follows then setMaps s n (fld (nthN words 0) 16 2) (nthN words 10 % 2 ^ 36) (nthN words 9 % 2 ^ 36) else s
  let buf := x.buf.filter fun f => !seqBefore f.seq next
  let win := buf.foldl (fun l f => match f.head with
    | some (tc, len) =>
      let c := kgetD emptyCredit tc l
      kset emptyCredit tc { c with useH := c.useH + 1, useD := c.useD + len } l
    | none => l) (advWindows (words.drop 1))
  let t := t.setLink n { t.link n with buf := buf.map (fun (f : BufFlit) => { f with tries := 0 }), credits := win, short := false, early := [],
                                       nakOut := false, episode := false }
  let t := (List.range 8).foldl (fun t tc => t.clrReg PORT_CREDIT_AUDIT.reg n tc) t
  let t := (linkLive t n).count PORT_LINK_CNT.RETRAINS n
  let t := if (t.link n).buf.isEmpty then t else t.emit (.link n 0x30 [next])
  evPf0 t 0x0803 n (x.reason + x.oldWidth * 16 + t.rd PORT_STATUS.WIDTH n * 64) (t.now - x.retrainAt)

/-- FEC lock: the width and maps follow from the usable lanes of both directions; training goes on with CAPS, a retrain
with RESYNC (10 R383 step 3, R402 steps 2 and 3). -/
def fecLocked (s : State) (n : Nat) : State :=
  let x := s.link n
  if x.phase ≠ 2 ∧ x.phase ≠ 12 then s
  else
    let tx := x.partnerOk &&& (511 - (x.txBad &&& 511))
    let rx := x.rxOk
    match widthCode (min (popc 9 tx) (popc 9 rx)) with
    | none => portDown s n 6
    | some w =>
      if w < s.rd PORT_CTL.MIN_WIDTH n then portDown s n 6
      else
        let t := setMaps s n w (mapOf tx (2 ^ w)) (mapOf rx (2 ^ w))
        if x.phase = 2 then ctlAsk (t.setLink n { t.link n with phase := 4 }) n 1 (capsArgs t)
        else
          let leader := b2n (decide (t.rd PORT_PARTNER.NODE n < nodeId t))
          let txm := mapOf tx (2 ^ w)
          let rxm := mapOf rx (2 ^ w)
          let u := ctlAsk (t.setLink n { t.link n with phase := 13 }) n 6
            ([x.expSeq + w * 2 ^ 16 + leader * 2 ^ 18] ++ advArgs t n ++ (if leader = 1 then [txm, rxm] else [rxm, txm]))
          if x.early = [] then u else retrainDone u n (x.early.map (·.toNat))

/-! ## Window count (10 R405) -/

/-- An error episode or a replay counts toward the window, except during a retrain (10 R404, R405). -/
def winCount (s : State) (n : Nat) : State :=
  if s.rd PORT_STATUS.STATE n = 3 then s
  else
    let t := s.count PORT_STATUS.WIN_COUNT n
    if atLeast1 (s.rd PORT_LINK_CFG.DOWN_THRESH n) < t.rd PORT_STATUS.WIN_COUNT n then portDown t n 1 else t

/-! ## Replay (10 R395) -/

/-- Resends every buffered flit from a sequence number on, or retrains when one of them has been resent REPLAY_MAX
times. -/
def replay (s : State) (n from_ : Nat) : State :=
  let x := s.link n
  let again := fun (f : BufFlit) => !seqBefore f.seq from_
  if x.buf.any (fun f => again f && decide (atLeast1 (s.rd PORT_LINK_CFG.REPLAY_MAX n) ≤ f.tries)) then retrainAsk s n 1
  else if x.buf.any again then
    let t := s.setLink n { x with buf := x.buf.map fun (f : BufFlit) => if again f then { f with tries := f.tries + 1 } else f }
    winCount ((t.count PORT_LINK_CNT.REPLAYS n).emit (.link n 0x30 [from_])) n
  else s

/-- The acknowledgement, NAK and credit return that every flit carries (10 R394, R395, R399). Returns are discarded
during a retrain. -/
def flitHead (s : State) (n : Nat) (f : Flit) : State :=
  let x := s.link n
  let a := f.ack.toNat
  let t :=
    if ¬ f.ackV then s
    else if seqBefore a x.nextSeq then s.setLink n { x with buf := x.buf.filter fun g => seqBefore a g.seq }
    else s.count PORT_LINK_CNT.RET_BAD n
  let t :=
    if f.crV ∧ s.rd PORT_STATUS.STATE n ≠ 3 then
      let y := t.link n
      let c := creditOf y f.crTc.toNat
      let dh := (f.crHdr.toNat + 4096 - c.retH % 4096) % 4096
      let dd := (f.crData.toNat + 65536 - c.retD % 65536) % 65536
      if dh ≤ c.useH - c.retH ∧ dd ≤ c.useD - c.retD then
        t.setLink n (setCredit y f.crTc.toNat { c with retH := c.retH + dh, retD := c.retD + dd })
      else t.count PORT_LINK_CNT.RET_BAD n
    else t
  if f.ackV ∧ f.nak ∧ seqBefore a x.nextSeq then replay t n ((a + 1) % 65536) else t

/-- A flit is discarded: the first of a run sets NAK (10 R394). -/
def flitBad (s : State) (n : Nat) : State :=
  let x := s.link n
  let t := s.setLink n { x with nakOut := true, episode := true }
  if x.nakOut then t else (t.count PORT_LINK_CNT.NAKS n).emit (.link n 0x31 [x.expSeq])

/-- A good data flit (10 R394). -/
def dataFlit (s : State) (n : Nat) (f : Flit) : State :=
  let t := flitHead s n f
  let x := t.link n
  let q := f.fseq.toNat
  if q = x.expSeq then
    let t := t.setLink n { x with expSeq := (q + 1) % 65536, ackV := true, nakOut := false, episode := false }
    if x.episode then winCount t n else t
  else if seqBefore q x.expSeq then t
  else flitBad t n

/-! ## The ninth lane (10 R389 to R392) -/

/-- A lane fails in one direction: it is excluded, event 0x0804 is written, and an active port retrains (10 R392). -/
def laneFail (s : State) (n lane : Nat) (rx : Bool) : State :=
  let fail := if rx then PORT_LANE_STAT.RX_FAIL else PORT_LANE_STAT.TX_FAIL
  let spare := s.rd (if rx then PORT_LANE_STAT.RX_SPARE else PORT_LANE_STAT.TX_SPARE) n
  let t := s.wr fail (s.rd fail n ||| 2 ^ lane) n
  let t := evPf0 t 0x0804 n (b2n rx + lane * 16) (b2n (spare != 0xF && spare != lane))
  if rx ∧ t.rd fail n &&& 511 = 511 then portDown t n 4 else retrainAsk t n 2

/-- Three aborts in a row with the same ninth lane mark it failed and stop rotation (10 R391). -/
def countAbort (s : State) (n spare : Nat) (rx : Bool) : State :=
  let x := s.link n
  let (k, l) := if rx then x.rxAborts else x.txAborts
  let k := if l = spare then k + 1 else 1
  let t := (s.setLink n (if rx then { x with rxAborts := (k, spare) } else { x with txAborts := (k, spare) })).count
    PORT_LANE_STAT.ROT_ABORTS n
  if k < 3 then t
  else
    let fail := if rx then PORT_LANE_STAT.RX_FAIL else PORT_LANE_STAT.TX_FAIL
    let t := t.wr fail (t.rd fail n ||| 2 ^ spare) n
    let t := (t.wr (if rx then PORT_LANE_STAT.RX_SPARE else PORT_LANE_STAT.TX_SPARE) 0xF n).wr
      (if rx then PORT_STATUS.RX_SPARE_OK else PORT_STATUS.TX_SPARE_OK) 0 n
    evPf0 t 0x0805 n (b2n rx + spare * 16) 0

/-! ## Low-power idle (10 R410) -/

/-- Whether a port may be in LPI: allowed, active, and with nothing to send. -/
def lpiReady (s : State) (n : Nat) : Bool :=
  (s.on PORT_CTL.LPI_EN n || s.ctl.asleep.contains (4 * 1024 + n / 8)) && s.rd PORT_STATUS.STATE n == 2 && (s.link n).buf.isEmpty

/-- A flit on another lane than 0 ends low-power idle (10 R410). -/
def wakeLpi (s : State) (n : Nat) : State := if s.rd PORT_STATUS.STATE n = 4 then s.wr PORT_STATUS.STATE 2 n else s

/-! ## Lasers (10 R374) -/

/-- A new reading of wavelength `k` of a port's feed, in tenths of a mW: the last five in range are kept. -/
def laserRead (x : LinkX) (k r : Nat) : LinkX :=
  if 1000 < r then x
  else { x with laser := kput k (((r :: kgetD [] k x.laser)).take 5) x.laser }

/-- What the readings of a poll do to one port: its low wavelengths, LOW and LOW_LANE; a lane that becomes low fails
(10 R374, R392). The wavelengths that became low come back. -/
def laserPort (s : State) (n : Nat) (rs : List Nat) : State × List Nat :=
  let x := (List.range 9).foldl (fun x k => match rs[k]? with
    | some r => laserRead x k r
    | none => x) (s.link n)
  let med := fun (k : Nat) => kget k (x.laser.map fun l => (l.1, median l.2))
  let lim := s.rd PORT_LASER.LASER_MIN n
  let isLow := fun (k : Nat) => match med k with
    | some m => decide (m < lim)
    | none => false
  let fresh := (List.range 9).filter fun k => isLow k && !x.laserLow.testBit k
  let good := (List.range 9).foldl (fun l k => kset 0 k (if isLow k then 0 else min 100 (kgetD 0 k l + 1)) l) x.laserGood
  let low := (List.range 9).foldl (fun a k =>
    a + (if isLow k ∨ (x.laserLow.testBit k ∧ kgetD 0 k good < 100) then 2 ^ k else 0)) 0
  let known := (List.range 9).filterMap fun k => (med k).map fun m => (k, m)
  let t := s.setLink n { x with laserLow := low, laserGood := good }
  let t := match argMin (fun (e : Nat × Nat) => e.2) known with
    | some (k, m) => (t.wr PORT_LASER.LOW m n).wr PORT_LASER.LOW_LANE k n
    | none => t
  let st := s.rd PORT_STATUS.STATE n
  let up := decide (1 ≤ st ∧ st ≤ 4)
  let t := if up ∧ low = 511 then portDown t n 3
    else fresh.foldl (fun t k =>
      let st := t.rd PORT_STATUS.STATE n
      if st = 2 ∨ st = 4 then laneFail t n k false else if st = 1 ∨ st = 3 then laneOut t n k false else t) t
  (t, fresh)

end Sys2Proof.Machine
end

