-- ==== Sys2Proof/Machine/RegFile.lean ====
section
/-!
DEFINITION. Sys2Proof/Machine/RegFile.lean: finding a set-up register by its offset, and writing one by its access codes
(00 R14 to R18, 19 R652 to R657).
-/
namespace Sys2Proof.Machine

/-- Which instance of a register lies at a distance from its base; the first index varies slowest. -/
def Reg.instOf (r : Reg) (off : Nat) : Option (Nat × Nat × Nat) :=
  if off < r.base then none
  else
    let d := off - r.base
    let i := if r.n1 ≤ 1 then 0 else d / r.s1
    let d := d - i * r.s1
    let j := if r.n2 ≤ 1 then 0 else d / r.s2
    let d := d - j * r.s2
    let k := if r.n3 ≤ 1 then 0 else d / r.s3
    if d = k * r.s3 ∧ i < r.n1 ∧ j < r.n2 ∧ k < r.n3 then some (i, j, k) else none

/-- Interrupt sources below 32 and key slot 0 have no registers (15 R576, 14 R523, 19 R667). -/
def instReal (r : Reg) (i : Nat) : Bool :=
  if r.base = IRQ_SRC_CFG.reg.base ∨ r.base = IRQ_SRC_CNT.reg.base then decide (32 ≤ i)
  else if r.base = SEC_KEY_SLOT.reg.base ∨ r.base = SEC_KEY_CNT.reg.base then decide (1 ≤ i)
  else true

/-- A set-up register, with its instance. -/
structure RegAt where
  row : RegRow
  i : Nat
  j : Nat
  k : Nat
deriving DecidableEq, Repr

/-- The register at an offset of PF0 BAR0, if any (00 R15, 19 R653). -/
def findReg (off : Nat) : Option RegAt :=
  regRows.findSome? fun row =>
    match row.reg.instOf off with
    | some (i, j, k) => if instReal row.reg i then some ⟨row, i, j, k⟩ else none
    | none => none

/-- Whether an offset names an instance of a register. -/
def RegAt.is (a : RegAt) (r : Reg) : Bool := a.row.reg.base == r.base

/-- The offset that a ring window of partition `p` stands for: rank k's registers are those of its slot (03 R142). -/
def ringWindow (s : State) (p off : Nat) : Option Nat :=
  (ringOfRank s p (off / 64)).map fun r => RNG_DESC_BASE.reg.base + r * 64 + off % 64

/-- The offset of PF0 BAR0 that function `func` reaches at `off` (19 R652, R654). -/
def viewOff (s : State) (func off : Nat) : Option Nat :=
  if func = 0 then
    if 0x01400000 ≤ off ∧ off < 0x01500000 ∧ 0xC000 ≤ off % 0x10000 then
      ringWindow s ((off - 0x01400000) / 0x10000) (off % 0x10000 - 0xC000)
    else some off
  else if 0x10000 ≤ off then none
  else if 0xC000 ≤ off then ringWindow s (func - 1) (off - 0xC000)
  else some (0x01400000 + (func - 1) * 0x10000 + off)

/-- Whether a function's register space is served: in SAFE and during a POOL reset PF0 serves the CHIP and AON blocks
alone, and a VF is shut while its partition or the pool is under reset (16 R580, R597). -/
def served (s : State) (func off : Nat) : Bool :=
  (barsServed s && !funcShut s func) || (func == 0 && decide (off < 0x200000))

/-- A write that PF0 makes outside the CHIP and AON blocks: where those alone are served, it is ignored (16 R580, R597). -/
def atPf0 (s t : State) : State := if barsServed s && !funcShut s 0 then t else s

/-- The lock that governs a register's RWL fields (19 R657): the partition's in a PRT block, else the chip's. -/
def regLocked (s : State) (a : RegAt) : Bool :=
  if a.row.scope = .prt then s.on PRT_CTL.LOCK a.i else s.on CHIP_LOCK.LOCK

/-- Whether the writes of a gate list are taken: only those of the idle list, while no take-over is pending
(12 R467). -/
def gateOpen (s : State) (n list : Nat) : Bool :=
  !s.on QOS_GATE_CTL.PENDING n && decide (s.rd QOS_GATE_CTL.CUR n ≠ list)

/-- Whether the RW field at bit `lo` of a register takes writes now, beside its lock: near-store sizes of a slice in a
partition (04 R213), numeric views that are enabled (05 R254), regions that are enabled (08 R326), domains that are UP or
tearing down (09 R344), gate lists in service (12 R467), the slices of an enabled partition (19 R660). -/
def takesWrite (s : State) (a : RegAt) (lo : Nat) : Bool :=
  if a.is SLC_NEAR_SIZE.reg then (s.partOfSlice a.i).isNone
  else if a.is PRT_COR_STORE.reg || a.is PRT_COR_VIEW.reg then !s.on PRT_COR_CTL.EN a.i a.j
  else if a.is PRT_COR_CTL.reg then lo == PRT_COR_CTL.EN.lo || !s.on PRT_COR_CTL.EN a.i a.j
  else if a.is PRT_RGN_CFG.reg then lo == PRT_RGN_CFG.EN.lo || !s.on PRT_RGN_CFG.EN a.i a.j
  else if a.is XLT_COH_CFG.reg || a.is XLT_COH_MEMBER.reg then s.rd XLT_COH_CTL.STATE a.i == 0 || decide (2 < s.rd XLT_COH_CTL.STATE a.i)
  else if a.is QOS_GATE_ENT.reg then gateOpen s a.i a.j
  else if a.is QOS_GATE_CTL.reg then
    if lo = QOS_GATE_CTL.NENT0.lo then gateOpen s a.i 0 else gateOpen s a.i 1
  else if a.is PRT_CTL.reg then lo != PRT_CTL.SLICES.lo || !s.on PRT_CTL.ENABLE a.i
  else true

/-- CLASS, PRIMARY and OWNER of a ring, and all of PRT_CTL, are RO through a VF view (03 R142, 19 R654). -/
def vfReadOnly (a : RegAt) (lo : Nat) : Bool :=
  (a.is RNG_CFG.reg && (lo == RNG_CFG.CLASS.lo || lo == RNG_CFG.PRIMARY.lo || lo == RNG_CFG.OWNER.lo)) || a.is PRT_CTL.reg

/-- One field of a write, by its access code (00 R17, R18). -/
def writeField (s : State) (a : RegAt) (vf : Bool) (v old : Nat) (f : FldRow) : Nat :=
  let x := fld v f.lo f.w
  let y := fld old f.lo f.w
  if vf ∧ vfReadOnly a f.lo then old
  else match f.acc with
  | .rw => if takesWrite s a f.lo then setFld old f.lo f.w x else old
  | .rwl => if regLocked s a then old else setFld old f.lo f.w x
  | .w1c => setFld old f.lo f.w (y - (y &&& x))
  | .w1s => setFld old f.lo f.w (y ||| x)
  | .ro | .wo => old

/-- A write to a register by its access codes alone: no action that a field describes is triggered. -/
def writeReg (s : State) (a : RegAt) (vf : Bool) (v : Nat) : State :=
  s.wrReg a.row.reg a.i a.j a.k
    (a.row.flds.foldl (fun w f => writeField s a vf v w f) (s.rdReg a.row.reg a.i a.j a.k))

/-- What a read of a register returns: WO fields and reserved bits read zero (00 R16, R17); XRD_ROUTE has 32 bits. -/
def readReg (s : State) (a : RegAt) : Nat :=
  a.row.flds.foldl (fun w f => if f.acc = .wo then w else w + fld (s.rdReg a.row.reg a.i a.j a.k) f.lo f.w * 2 ^ f.lo) 0

/-- The register row of a register. -/
def rowOf (r : Reg) : RegRow := (regRows.find? fun x => x.reg.base == r.base).getD ⟨r, .chip, []⟩

/-- A plain write to a named register. -/
def plainWrite (s : State) (r : Reg) (i j k : Nat) (v : Nat) (vf : Bool := false) : State :=
  writeReg s ⟨rowOf r, i, j, k⟩ vf v

/-- Bit `lo` of a written value. -/
def wrote (f : Fld) (v : Nat) : Nat := fld v f.lo f.w

/-! ## The control plane's output stages (17 R608 to R610, 19 R656) -/

/-- The output stage a register belongs to, 0 for none (17 R610). A register with both RWL and RW fields is written
through the log as a whole. -/
def stageOf (a : RegAt) : Nat :=
  if a.is XLT_SPACE_LO.reg || a.is XLT_SPACE_HI.reg || a.is XLT_APT_WIN.reg || a.is PRT_APT_WIN.reg then 2
  else if a.is XLT_COH_CFG.reg || a.is XLT_COH_CTL.reg || a.is XLT_COH_MEMBER.reg then 3
  else if a.is XRD_NODE.reg then 4
  else if a.is PRT_CTL.reg || a.is CHIP_LOCK.reg then 6
  else if a.row.scope = .prt && a.row.flds.any (fun f => f.acc == .rwl) then 6
  else 0

end Sys2Proof.Machine
end

