-- ==== Sys2Proof/Machine/Egress.lean ====
section
/-!
DEFINITION. Sys2Proof/Machine/Egress.lean: what a port sends next (12 R457 to R469), and the queue histograms (12 R479).
-/
namespace Sys2Proof.Machine

/-- Deficit round robin over `n` queues from the one last served: `cost` is an eligible queue's next cost, each visit
adds the quantum. The queue chosen and the deficits come back. -/
def drr (n : Nat) (cost : Nat → Option Nat) (quant : Nat → Nat) : Nat → Nat → List (Nat × Nat) → Option (Nat × List (Nat × Nat))
  | 0, _, _ => none
  | fuel + 1, i, l =>
    let nx := (i + 1) % n
    let move := if (cost nx).isSome then kset 0 nx (kgetD 0 nx l + quant nx) l else l
    match cost i with
    | some c => if c ≤ kgetD 0 i l then some (i, kset 0 i (kgetD 0 i l - c) l) else drr n cost quant fuel nx move
    | none => drr n cost quant fuel nx move

/-- The packet a flow of a class sends next. -/
def flowHead (q : PortQ) (tc f : Nat) : Option QEnt := q.q.find? fun e => e.tc == tc && e.flow == f

/-- Whether a class has the link credits that a packet needs (10 R397). -/
def creditsFor (s : State) (n : Nat) (e : QEnt) : Bool :=
  let c := creditOf (s.link n) e.tc
  decide (c.useH + 1 ≤ c.advH + c.retH) && decide (c.useD + pLen e.pkt ≤ c.advD + c.retD)

/-- The flow deficits of one class. -/
def flowsOf (q : PortQ) (tc : Nat) : List (Nat × Nat) :=
  q.flowDef.filterMap fun e => if e.1 / 32 = tc then some (e.1 % 32, e.2) else none

/-- The flow that a class serves next, and its deficits after (12 R457 step 3). -/
def pickFlow (s : State) (n : Nat) (q : PortQ) (tc : Nat) : Option (QEnt × List (Nat × Nat)) :=
  let cost := fun (f : Nat) => match flowHead q tc f with
    | some e => if creditsFor s n e then some (pktBytes e.pkt) else none
    | none => none
  match drr 17 cost (fun f => atLeast1 (s.rd QOS_FLOW_Q.FLOW_Q f) * 64) 1400 (kgetD 16 tc q.lastFlow) (flowsOf q tc) with
  | some (f, l) => (flowHead q tc f).map fun e => (e, l)
  | none => none

/-- When the run of open entries that the entry in service belongs to ends; none when the gate never closes. -/
def runEnd (s : State) (n l tc : Nat) : Nat → Nat → Nat → Option Nat
  | 0, _, _ => none
  | fuel + 1, e, at_ =>
    if gateOpens s n l e tc then runEnd s n l tc fuel ((e + 1) % atLeast1 (gateLen s n l)) (at_ + gateDur s n l e)
    else some at_

/-- When that run began. -/
def runStart (s : State) (n l tc : Nat) : Nat → Nat → Nat → Nat
  | 0, _, at_ => at_
  | fuel + 1, e, at_ =>
    let k := atLeast1 (gateLen s n l)
    let p := (e + k - 1) % k
    if gateOpens s n l p tc then runStart s n l tc fuel p (at_ - gateDur s n l p) else at_

/-- Lengths of the open runs that begin at each entry of a list. -/
def runLens (s : State) (n l tc : Nat) : List Nat :=
  (List.range (gateLen s n l)).map fun e => ((runEnd s n l tc (gateLen s n l) e 0).getD (2 ^ 64))

/-- How guard-band mode judges a packet (12 R469): it may start, it may start without fitting, or it waits. -/
inductive Guard where
  | fits | overrun | waits
deriving DecidableEq, Repr

def guardJudge (s : State) (n : Nat) (e : QEnt) : Guard :=
  if ¬ s.on QOS_GATE_CTL.GUARD n ∨ e.tc = 7 then .fits
  else
    let q := s.portQ n
    let l := s.rd QOS_GATE_CTL.CUR n
    let k := gateLen s n l
    let need := ceilDiv (pktBytes e.pkt * 10) (portRate s n)
    let inList := if k = 0 then none else runEnd s n l e.tc k q.gateEnt q.gateAt
    let byAt := if s.on QOS_GATE_CTL.PENDING n then some (s.rd QOS_GATE_AT.AT n) else none
    let before := fun (o : Option Nat) => match o with
      | some c => decide (s.now + need ≤ c)
      | none => true
    if before inList && before byAt then .fits
    else if k ≠ 0 ∧ (runLens s n l e.tc).all (fun r => decide (r < need)) then
      let st := runStart s n l e.tc k q.gateEnt q.gateAt
      if e.at_ ≤ st ∧ (s.classX n e.tc).sentAt ≤ st then .overrun else .waits
    else .waits

/-- The packet that a class would send now: its gate is open, its shaper lets it, and guard-band mode does too. -/
def classReady (s : State) (n : Nat) (q : PortQ) (tc : Nat) : Option (QEnt × List (Nat × Nat)) :=
  match pickFlow s n q tc with
  | none => none
  | some (e, l) =>
    let shaped := s.rd QOS_SHAPER.IDLE_SLOPE n tc == 0 || decide (0 ≤ (s.classX n tc).credit)
    if gateIsOpen s n tc && shaped && guardJudge s n e != .waits then some (e, l) else none

/-- The quantum of a class (12 R481). -/
def classQuant (s : State) (n tc : Nat) : Nat := atLeast1 (fld (s.rdReg QOS_PORT_QUANT.reg n 0 0) (8 * tc) 8) * 64

/-- What leaves next: the entry, the deficits of its class's flows, and for TCs 0 to 6 the deficits of the classes
(12 R457). -/
def pickPacket (s : State) (n : Nat) : Option (QEnt × List (Nat × Nat) × Option (List (Nat × Nat))) :=
  let q := s.portQ n
  match pickFlow s n q 7 with
  | some (e, l) => some (e, l, none)
  | none =>
    let ready := (List.range 7).map fun tc => classReady s n q tc
    let cost := fun (tc : Nat) => match ready[tc]? with
      | some (some (e, _)) => some (pktBytes e.pkt)
      | _ => none
    match drr 7 cost (classQuant s n) 600 q.lastTc (q.cls.filterMap fun c => if c.1 < 7 ∧ c.2.deficit ≠ 0 then some (c.1, c.2.deficit) else none) with
    | some (tc, d) => match ready[tc]? with
      | some (some (e, l)) => some (e, l, some d)
      | _ => none
    | none => none

/-- The delay bin of a wait in ns, and the depth bin of a number of bytes (12 R479). -/
def delayBin (d : Nat) : Nat := ((List.range 15).find? fun k => decide (d < 32 * 2 ^ k)).getD 15
def depthBin (d : Nat) : Nat := if d = 0 then 0 else ((List.range 15).find? fun k => k != 0 && decide (d < 64 * 2 ^ k)).getD 15

/-- The first packet that leaves the sampled queue after a depth sample counts its delay. -/
def portDelay (s : State) (n : Nat) (e : QEnt) : State :=
  let q := s.portQ n
  if q.sampled && e.tc == s.rd QOS_PORT_HSEL.TC n && !s.on QOS_PORT_HSEL.FREEZE n then
    (s.setPortQ n { q with sampled := false }).count QOS_PORT_HIST.DELAY n (delayBin (s.now - e.at_))
  else s

/-- Data flits that a packet takes: two granules of header and four a line, fifteen granules a flit (10 R379). -/
def flitsOf (p : Pkt) : Nat := ceilDiv (2 + 4 * pLen p) 15

/-- Appends a packet's flits to the replay buffer and charges its credits (10 R393, R397). -/
def linkSend (s : State) (n : Nat) (e : QEnt) : State :=
  let x := s.link n
  let k := flitsOf e.pkt
  let fl := (List.range k).map fun i => (⟨(x.nextSeq + i) % 65536, 0, if i = 0 then some (e.tc, pLen e.pkt) else none⟩ : BufFlit)
  let c := creditOf x e.tc
  s.setLink n (setCredit { x with buf := x.buf ++ fl, nextSeq := (x.nextSeq + k) % 65536 } e.tc
    { c with useH := c.useH + 1, useD := c.useD + pLen e.pkt })

/-- After a packet of a class has started: deficits, shaper credit, the class's time of starting (12 R457, R460). -/
def settle (s : State) (n : Nat) (e : QEnt) (fl : List (Nat × Nat)) (cl : Option (List (Nat × Nat))) : State :=
  let q := s.portQ n
  let rest := q.q.erase e
  let flows := fl.filter fun f => rest.any fun r => r.tc == e.tc && r.flow == f.1
  let fd := flows.foldl (fun l f => kset 0 (e.tc * 32 + f.1) f.2 l) (q.flowDef.filter fun f => f.1 / 32 != e.tc)
  let left := rest.any (·.tc == e.tc)
  let q := { q with q := rest, flowDef := fd, lastFlow := kset 16 e.tc e.flow q.lastFlow,
                    lastTc := if e.tc < 7 then e.tc else q.lastTc }
  let t := s.setPortQ n q
  let t := match cl with
    | none => t
    | some d => (List.range 7).foldl (fun t tc =>
        t.setClassX n tc { t.classX n tc with deficit := if tc = e.tc ∧ ¬ left then 0 else kgetD 0 tc d }) t
  let x := t.classX n e.tc
  let slope := t.rd QOS_SHAPER.IDLE_SLOPE n e.tc
  let x := { x with sentAt := t.now + 1 }
  if e.tc = 7 ∨ slope = 0 then t.setClassX n e.tc x
  else
    let bits := pktBytes e.pkt * 10
    let dt := ceilDiv bits (portRate t n)
    let c : Int := x.credit + ((slope * dt : Nat) : Int) - ((bits : Nat) : Int)
    t.setClassX n e.tc { x with credit := if left then c else min c 0, at_ := t.now + dt }

/-- A port that can start a packet does so (12 R457 to R469). -/
def egressStart (s : State) (n : Nat) : State :=
  let st := s.rd PORT_STATUS.STATE n
  if st ≠ 2 ∧ st ≠ 4 ∧ st ≠ 8 then s
  else
    let s := shaperSync s n
    match pickPacket s n with
    | none => s
    | some (e, fl, cl) =>
      if 8192 < (s.link n).buf.length + flitsOf e.pkt then s
      else
        let isOver := decide (guardJudge s n e = .overrun)
        let t := linkSend (settle (portDelay (wakeLpi s n) n e) n e fl cl) n e
        let t := if isOver then t.count QOS_PORT_DROP.GB_OVERRUN n else t
        let p := if t.rd PORT_PARTNER.GEN n = 0 then { e.pkt with w0 := wset e.pkt.w0 33 1 0 } else e.pkt
        (countOld t).emit (.packet n p)

end Sys2Proof.Machine
end

