-- ==== Sys2Proof/Machine/Regulate.lean ====
section
/-!
DEFINITION. Sys2Proof/Machine/Regulate.lean: the DRAM admission regulators (12 R470 to R477) and the channel histograms.
-/
namespace Sys2Proof.Machine

/-- A shared field of QOS_REG: values above 256 act as 256 (12 R482). -/
def share9 (s : State) (f : Fld) (p : Nat) : Nat := min 256 (s.rd f p)

/-- The credit cap in 1/256 of a slot (12 R472). -/
def burstCap (s : State) : Nat := atLeast1 (s.rd QOS_CFG.REG_BURST) * 256

/-- The first of 17 partitions after the one last served that passes a test. -/
def roundRobin (last : Nat) (f : Nat → Bool) : Option Nat := ((List.range 17).map fun i => (last + 1 + i) % 17).find? f

/-- Counts one of a quantity that a register gives in units of 1,024: the rest kept, and whether the register rises. -/
def bumpRem (r : Nat) : Nat × Bool := if r = 1023 then (0, true) else (r + 1, false)

/-- Adds stolen slots of a channel (12 R471, R483). -/
def stealSlots (s : State) (c k : Nat) : State :=
  let x := s.chanX c
  let n := x.reg.stolenRem + k
  (s.setChanX c { x with reg := { x.reg with stolenRem := n % 1024 } }).count QOS_CH_STAT.STOLEN c 0 0 (n / 1024)

/-- A slot of a granted partition: USED in units of 1,024. -/
def countUsed (s : State) (c p : Nat) : State :=
  let x := s.chanX c
  let (r, up) := bumpRem (kgetD 0 p x.reg.usedRem)
  let t := s.setChanX c { x with reg := { x.reg with usedRem := kset 0 p r x.reg.usedRem } }
  if up then t.count QOS_CH_USE.USED c p else t

/-- A slot refused to a partition for lack of cmax: THROTTLED in units of 1,024. -/
def countThrottled (s : State) (c p : Nat) : State :=
  let x := s.chanX c
  let (r, up) := bumpRem (kgetD 0 p x.reg.thrRem)
  let t := s.setChanX c { x with reg := { x.reg with thrRem := kset 0 p r x.reg.thrRem } }
  if up then t.count QOS_CH_USE.THROTTLED c p else t

/-- The first line that leaves the sampled queue after a depth sample counts its delay (12 R479). -/
def chanDelay (s : State) (c p k at_ : Nat) : State :=
  let x := s.chanX c
  if x.reg.sampled && p == s.rd QOS_CH_HSEL.PART c && k == s.rd QOS_CH_HSEL.KIND c && !s.on QOS_CH_HSEL.FREEZE c then
    (s.setChanX c { x with reg := { x.reg with sampled := false } }).count QOS_CH_HIST.DELAY c (delayBin (s.now - at_))
  else s

/-- The slot goes to a kind of the granted partition by deficit round robin, and its oldest line leaves (12 R473). -/
def grantKind (s : State) (c p : Nat) : State :=
  let x := s.chanX c
  let cost := fun (k : Nat) => if x.slotQ.any (fun e => e.cp == p && e.kind == k) then some 1 else none
  let quant := fun (k : Nat) => atLeast1 (fld (s.rdReg QOS_KIND_Q.reg 0 0 0) (8 * k) 8)
  let defs := x.reg.kindDef.filterMap fun e => if e.1 / 4 = p then some (e.1 % 4, e.2) else none
  match drr 4 cost quant 8 (kgetD 3 p x.reg.lastKind) defs with
  | none => s
  | some (k, d) => match x.slotQ.find? fun e => e.cp == p && e.kind == k with
    | none => s
    | some e =>
      let rest := if e.n ≤ 1 then x.slotQ.erase e else x.slotQ.replace e { e with n := e.n - 1 }
      let d := d.filter fun f => rest.any fun g => g.cp == p && g.kind == f.1
      let kd := d.foldl (fun l f => kset 0 (p * 4 + f.1) f.2 l) (x.reg.kindDef.filter fun f => f.1 / 4 != p)
      let t := s.setChanX c { x with slotQ := rest, reg := { x.reg with kindDef := kd, lastKind := kset 3 p k x.reg.lastKind } }
      countUsed (chanDelay t c p k e.at_) c p

/-- The two credits of a charge partition on a channel once a slot has raised them (12 R472). -/
def minCredit (s : State) (c p : Nat) : Nat := min (burstCap s) (kgetD 0 p (s.chanX c).reg.cmin + share9 s QOS_REG.EFF_MIN p)
def maxCredit (s : State) (c p : Nat) : Int := min (burstCap s : Int) (kgetD 0 p (s.chanX c).reg.cmax + (share9 s QOS_REG.MAX p : Nat))

/-- Whether a charge partition has a line queued at a channel. -/
def hasLine (s : State) (c p : Nat) : Bool := (s.chanX c).slotQ.any (·.cp == p)

/-- The credits after a slot, which `g1` pays of both or `g2` of cmax, and what the slot counts (12 R472, R473, R477). -/
def slotPaid (s : State) (c : Nat) (g1 g2 : Option Nat) : State :=
  let x := s.chanX c
  let bump := fun (l : List (Nat × Nat)) (p : Nat) => kset 0 p (kgetD 0 p l + 1) l
  let starved := (List.range 17).filter fun p => hasLine s c p && decide (minCredit s c p < 256)
  s.setChanX c { x with reg := { x.reg with
    cmin := (List.range 17).foldl (fun l p => kset 0 p (if g1 = some p then minCredit s c p - 256 else minCredit s c p) l) [],
    cmax := (List.range 17).foldl (fun l p => kset 0 p (if g1 = some p ∨ g2 = some p then maxCredit s c p - 256 else maxCredit s c p) l) [],
    rrMin := g1.getD x.reg.rrMin, rrMax := g2.getD x.reg.rrMax, avail := x.reg.avail + 1,
    starved := starved.foldl bump x.reg.starved, granted := (g1.toList ++ g2.toList).foldl bump x.reg.granted } }

/-- Partitions that a slot is refused to for lack of cmax (12 R473). -/
def slotThrottled (s : State) (c : Nat) (g1 g2 : Option Nat) : List Nat :=
  (List.range 17).filter fun p => hasLine s c p && !(g1 == some p || g2 == some p) &&
    decide (minCredit s c p < 256) && decide (maxCredit s c p < 256)

/-- One available line slot of a channel (12 R472, R473): credits rise, and the slot is granted by cmin, else by cmax, else
left to the scrubber. -/
def slotGrant (s : State) (c : Nat) : State :=
  if ¬ chanServes s c then s
  else
    let r := (s.chanX c).reg
    let g1 := roundRobin r.rrMin fun p => hasLine s c p && decide (256 ≤ minCredit s c p)
    let g2 := if g1.isSome then none else roundRobin r.rrMax fun p => hasLine s c p && decide (256 ≤ maxCredit s c p)
    let t := slotPaid s c g1 g2
    let t := match g1.or g2 with
      | some p => grantKind t c p
      | none => t
    (slotThrottled s c g1 g2).foldl (fun t p => countThrottled t c p) t

/-- Credits above the cap are cut to it (12 R476). -/
def cutCredits (s : State) : State :=
  let cap := burstCap s
  { s with chans := s.chans.map (fun (e : Nat × ChanX) => (e.1, { e.2 with reg := { e.2.reg with
      cmin := e.2.reg.cmin.map (fun (x : Nat × Nat) => (x.1, min cap x.2)),
      cmax := e.2.reg.cmax.map (fun (x : Nat × Int) => (x.1, min (cap : Int) x.2)) } })) }

/-- A write to QOS_REG: MIN is written, so EFF_MIN becomes MIN, and credits are cut to their caps (12 R476, R477). -/
def qosRegWrite (s : State) (p v : Nat) : State :=
  let t := plainWrite s QOS_REG.reg p 0 0 v
  cutCredits (t.wr QOS_REG.EFF_MIN (share9 t QOS_REG.MIN p) p)

/-- The channels whose slots count for a charge partition: its own, or all of them for the pool (12 R477). -/
def adaptChans (s : State) (p : Nat) : List Nat := if p = 16 then List.range 32 else chansOf s p

/-- EFF_MIN changes, with event 0x0A01 (12 R477, R480). -/
def adaptTo (s : State) (p new : Nat) : State :=
  let old := s.rd QOS_REG.EFF_MIN p
  if new = old then s
  else
    let most := (adaptChans s p).foldl (fun m c => max m (kgetD 0 p (s.chanX c).reg.starved)) 0
    let t := s.wr QOS_REG.EFF_MIN new p
    let t := evPf0 t 0x0A01 p (old + new * 2 ^ 16) (most / 1024) p
    if p < 16 then evPart t p 0x0A01 p (old + new * 2 ^ 16) (most / 1024) else t

/-- A charge partition that was granted less than half of its share of the period's slots on every channel, and one that
starved for more than a sixteenth of them on some channel (12 R477). -/
def adaptIdle (s : State) (p : Nat) : Bool :=
  (adaptChans s p).all fun c =>
    decide (kgetD 0 p (s.chanX c).reg.granted * 512 < s.rd QOS_REG.EFF_MIN p * (s.chanX c).reg.avail)
def adaptHungry (s : State) (p : Nat) : Bool :=
  (adaptChans s p).any fun c => decide ((s.chanX c).reg.avail < 16 * kgetD 0 p (s.chanX c).reg.starved)

/-- The decrease of a charge partition, and its increase, by what the period of `s` counted (12 R477): within MIN, MIN_CEIL
and a sum of 256. -/
def adaptDown (s t : State) (p : Nat) : State :=
  let e := t.rd QOS_REG.EFF_MIN p
  let m := share9 t QOS_REG.MIN p
  if adaptIdle s p && decide (m < e) then adaptTo t p (max m (e - 8)) else t
def adaptUp (s t : State) (p : Nat) : State :=
  let e := t.rd QOS_REG.EFF_MIN p
  let ceil := max (share9 t QOS_REG.MIN_CEIL p) (share9 t QOS_REG.MIN p)
  let sum := (List.range 17).foldl (fun a q => a + t.rd QOS_REG.EFF_MIN q) 0
  if adaptHungry s p && decide (e < ceil) then adaptTo t p (e + min (min 8 (ceil - e)) (256 - sum)) else t

/-- The period's counts start again (12 R477). -/
def adaptCounts (s : State) : State :=
  { s with chans := s.chans.map fun (e : Nat × ChanX) =>
      (e.1, { e.2 with reg := { e.2.reg with avail := 0, granted := [], starved := [] } }) }

/-- One adaptation period ends (12 R477): every decrease, then every increase in ascending order. -/
def adaptTick (s : State) : State :=
  let ps := (List.range 17).filter fun p => s.on QOS_REG.ADAPT p
  adaptCounts (ps.foldl (adaptUp s) (ps.foldl (adaptDown s) s))

/-! ## Histograms (12 R479) -/

def clearPortHist (s : State) (n : Nat) : State := (List.range 16).foldl (fun t b => t.clrReg QOS_PORT_HIST.reg n b) s
def clearChHist (s : State) (c : Nat) : State := (List.range 16).foldl (fun t b => t.clrReg QOS_CH_HIST.reg c b) s

/-- A depth sample of a port's or a channel's chosen queue. -/
def histSample (s : State) (port : Bool) (n : Nat) : State :=
  if port then
    let q := s.portQ n
    if s.on QOS_PORT_HSEL.FREEZE n then s
    else (s.setPortQ n { q with sampled := true }).count QOS_PORT_HIST.DEPTH n (depthBin (classDepth q (s.rd QOS_PORT_HSEL.TC n)))
  else
    let x := s.chanX n
    if s.on QOS_CH_HSEL.FREEZE n then s
    else
      let k := (x.slotQ.filter fun e => e.cp == s.rd QOS_CH_HSEL.PART n && e.kind == s.rd QOS_CH_HSEL.KIND n).foldl (fun n e => n + e.n) 0
      (s.setChanX n { x with reg := { x.reg with sampled := true } }).count QOS_CH_HIST.DEPTH n (depthBin (k * 64))

/-- A write to QOS_PORT_HSEL: CLEAR, or another class, zeroes the bins. -/
def portHselWrite (s : State) (n v : Nat) : State :=
  let t := plainWrite s QOS_PORT_HSEL.reg n 0 0 v
  if wrote QOS_PORT_HSEL.CLEAR v = 1 ∨ t.rd QOS_PORT_HSEL.TC n ≠ s.rd QOS_PORT_HSEL.TC n then
    clearPortHist (t.setPortQ n { t.portQ n with sampled := false }) n else t

/-- A write to QOS_CH_HSEL: CLEAR, or another queue, zeroes the bins. -/
def chHselWrite (s : State) (c v : Nat) : State :=
  let t := plainWrite s QOS_CH_HSEL.reg c 0 0 v
  if wrote QOS_CH_HSEL.CLEAR v = 1 ∨ t.rd QOS_CH_HSEL.PART c ≠ s.rd QOS_CH_HSEL.PART c ∨
     t.rd QOS_CH_HSEL.KIND c ≠ s.rd QOS_CH_HSEL.KIND c then
    clearChHist (t.setChanX c { t.chanX c with reg := { (t.chanX c).reg with sampled := false } }) c else t

/-- Sum of MIN of the regulators, were partition `p`'s `m` (12 R474). -/
def minSum (s : State) (p m : Nat) : Nat :=
  (List.range 17).foldl (fun n q => n + if q = p then min 256 m else share9 s QOS_REG.MIN q) 0

end Sys2Proof.Machine
end

