-- ==== Sys2Proof/Machine/Channel.lean ====
section
/-!
DEFINITION. Sys2Proof/Machine/Channel.lean: a DRAM channel's training, quiet windows, retrains, refresh, temperature,
scrubbing, loss and return (13 R484 to R514).
-/
namespace Sys2Proof.Machine

/-! ## Waking what waits -/

/-- What waits for something goes on. -/
def wakeOn (s : State) (w : Wait) : State := rewait s (· == w) (.wait .run) .run

/-- Whatever waits for a channel goes on: once it serves, or as poison when it is lost (13 R502, R511). -/
def wakeChan (s : State) (c : Nat) : State := pump (wakeOn s (.chan c))

/-- A channel leaves service; what waits for it ends with poison, and a sister's window that waited begins (13 R510,
R511, R514). -/
def chanLose (s : State) (c cause : Nat) : State := wakeChan (channelLost s c cause) c

/-! ## Quiet windows (13 R502) -/

def sister (c : Nat) : Nat := if c % 2 = 0 then c + 1 else c - 1

/-- A window begins: rows close (13 R492, R502). -/
def windowBegin (s : State) (c : Nat) : State :=
  let x := s.chanX c
  (s.setChanX c { x with inWin := true, winDue := false, winAt := s.now, rows := [] }).count DDR_LOAD2.QWINDOWS c

/-- A window falls due: it waits while the slice's other channel is in one. -/
def windowDue (s : State) (c : Nat) : State :=
  let x := s.chanX c
  if s.rd DDR_CTL.STATE c ≠ 2 ∨ x.inWin then s
  else if (s.chanX (sister c)).inWin then s.setChanX c { x with winDue := true }
  else windowBegin s c

/-- The channel enters HOLD (13 R506). -/
def holdBegin (s : State) (c : Nat) : State :=
  let t := (s.setChanX c { s.chanX c with holdDue := false, rows := [] }).wr DDR_CTL.STATE 4 c
  let e := fun (t : State) (f : State → Nat → Nat → Nat → Nat → State) => f t 0x0B07 c 1 (t.rd DDR_THERM.TEMP c)
  let t := e t fun t code a0 a1 a2 => evPf0 t code a0 a1 a2
  match t.partOfChan c with
  | some p => e t fun t code a0 a1 a2 => evPart t p code a0 a1 a2
  | none => t

/-- Event 0x0B07 with ARG1 bit 0 at 0: a warning, or HOLD left. -/
def thermalEvent (s : State) (c : Nat) : State :=
  let t := evPf0 s 0x0B07 c 0 (s.rd DDR_THERM.TEMP c)
  match t.partOfChan c with
  | some p => evPart t p 0x0B07 c 0 (t.rd DDR_THERM.TEMP c)
  | none => t

/-- A runtime retrain begins (13 R503). -/
def retrainChan (s : State) (c reason : Nat) : State :=
  let x := s.chanX c
  (s.setChanX c { x with inWin := false, drift := 0, retrain := reason, retrainAt := s.now, rows := [] }).wr DDR_CTL.STATE 3 c

/-- Slots of a channel in a time in ns, at its data rate (12 R470, 13 R484). -/
def slotsIn (s : State) (c ns : Nat) : Nat := ns * s.rd DDR_CTL.RATE c / 80

/-- A window ends: its slots were stolen; a third window in a row that ends with drift starts a retrain; HOLD that waited
begins; the sister's window that waited begins; otherwise requests go on (13 R502, R503, R506, R514). -/
def windowEnd0 (s : State) (c : Nat) (drift : Bool) : State :=
  let x := s.chanX c
  if ¬ x.inWin then s
  else
    let ns := min (s.now - x.winAt) (clampN 500 2000 (s.rd DDR_CFG.QW_MAX c))
    let t := stealSlots s c (slotsIn s c ns)
    let k := if drift then x.drift + 1 else 0
    let t := t.setChanX c { t.chanX c with inWin := false, drift := k, parity := if drift then x.parity else 0 }
    let t := if 3 ≤ k then retrainChan t c 1 else if x.holdDue then holdBegin t c else wakeChan t c
    if (t.chanX (sister c)).winDue then windowDue t (sister c) else t

/-- The window in which a start checks a kept training ends (13 R513): with drift the channel trains anew. A slice in no
partition then rests in self-refresh (01 R31). -/
def checkEnd (s : State) (c : Nat) (drift : Bool) : State :=
  let x := s.chanX c
  if ¬ x.inWin then s
  else
    let t := (s.setChanX c { x with inWin := false }).wr DDR_CTL.STATE (if drift then 1 else 5) c
    if (t.chanX (sister c)).winDue then windowDue t (sister c) else t

/-- A quiet window ends, at run time or in step 8 of a start. -/
def windowEnd (s : State) (c : Nat) (drift : Bool) : State :=
  if s.start.step = 8 then checkEnd s c drift else windowEnd0 s c drift

/-! ## Training (13 R485, R500, R501) -/

/-- Data rates of a kind of module, highest first (13 R485). -/
def ratesOf (kind : Nat) : List Nat := if kind = 2 then [128, 112, 96, 88] else [64, 56, 48]

/-- Whether the DIMMs keep the population rules (13 R485). -/
def dimmsOk (d : Dimms) : Bool :=
  d.readable && d.x4 && (d.kind == 1 || (d.kind == 2 && d.n == 1)) && decide (d.n ≤ 2) && (d.n == 1 || d.alike) &&
  decide (1 ≤ d.ranks) && decide (d.ranks ≤ 4) && decide (d.capG ≤ 256 * d.n) && (ratesOf d.kind).any fun r => decide (r ≤ d.rate)

/-- The rate a channel trains at: the highest that its DIMMs and its step-downs allow (13 R500 step 1). -/
def trainRate (s : State) (c : Nat) (d : Dimms) : Nat :=
  let rs := (ratesOf d.kind).filter fun r => decide (r ≤ d.rate)
  nthN rs (min (s.rd DDR_CTL.STEPDOWN c) (rs.length - 1))

/-- The measured fields of DDR_CTL and DDR_THERM read zero (13 R516). -/
def measZero (s : State) (c : Nat) : State :=
  let t := ((s.wr DDR_CTL.RATE 0 c).wr DDR_CTL.DIMMS 0 c).wr DDR_CTL.KIND 0 c
  let t := ((t.wr DDR_CTL.RANKS 0 c).wr DDR_CTL.CAP_G 0 c).wr DDR_THERM.TEMP 0 c
  t.wr DDR_THERM.REF_FACTOR 0 c

/-- Copies SPD bytes to DDR_SPD (13 R487). -/
def putSpd (s : State) (c : Nat) (spd : List Byte) : State :=
  (List.range 256).foldl (fun t i => t.wrReg DDR_SPD.reg c i 0 (leNat ((spd.drop (8 * i)).take 8))) s

/-- Training begins with what the SPD hubs gave: an empty channel stays EMPTY, one that breaks R485 is lost with cause 2
(13 R500 step 1). -/
def chanTrain (s : State) (c : Nat) (d : Dimms) : State :=
  let st := s.rd DDR_CTL.STATE c
  if ¬ s.on DDR_CTL.ENABLE c ∨ 1 < st ∨ (s.chanX c).dead ∨ wardOut s (c / 8) then s
  else
    let t := putSpd (s.setChanX c { s.chanX c with dimms := some d, rows := [] }) c d.spd
    if d.n = 0 then t.wr DDR_CTL.STATE 0 c
    else if ¬ dimmsOk d then chanLose t c 2
    else measZero (t.wr DDR_CTL.STATE 1 c) c

/-- Whether the DRAM copy of a fast line lies on a channel, and the near store holds no newer bytes of it (13 R511, R512). -/
def onChan (s : State) (c line : Nat) : Bool :=
  match s.extentOfLine line with
  | none => false
  | some (base, e) => !e.deep && (fastPlace s base e line).1 == c && !nearDirty s line

def chanLines (s : State) (c : Nat) : List Nat :=
  s.extents.flatMap fun e => ((List.range (e.2.lenG * 2 ^ 24)).map (e.1 * 2 ^ 24 + ·)).filter (onChan s c)

/-- Blocks of deep extents whose written bits a channel holds and that are not cached. -/
def chanMaps (s : State) (c : Nat) : List Nat :=
  s.extents.flatMap fun e => if e.2.deep then ((List.range (e.2.lenG * 2 ^ 18)).map (e.1 * 2 ^ 18 + ·)).filter fun b =>
    s.cacheChan e.2.part (b * 4096) == c && (kget b s.tier.blocks).isNone else []

/-- Every line of the partition's slots and areas on a channel becomes poison (13 R512): fast lines, and the copies of
cached blocks. The lines of written maps do too, so that blocks whose bits they held read as poison (R509; log entry 35). -/
def poisonChan (s : State) (c : Nat) : State :=
  let blk := fun (b : Nat × Blk) => if b.2.ch = c then
    (b.1, { b.2 with bad := ((List.range 64).map (b.1 * 64 + ·)).filter fun l => !nearDirty s l }) else b
  { s with mem := s.mem.filter fun x => !onChan s c (x.1 / 64)
           poison := (chanLines s c).foldl (fun l k => sput k l) s.poison
           tier := { s.tier with blocks := s.tier.blocks.map blk
                                 mapBad := (chanMaps s c).foldl (fun l k => sput k l) s.tier.mapBad } }

/-- The channels of a slice in no partition are held in self-refresh (01 R31). -/
def restChan (s : State) (c : Nat) : State := if (s.partOfChan c).isNone then s.wr DDR_CTL.STATE 5 c else s

/-- A training or a runtime retrain ends: the channel enters service with event 0x0B01, or returns to it with 0x0B08. A
failed known-answer test loses it with cause 8 (13 R499, R500, R503, R512). -/
def chanTrained (s : State) (c : Nat) (katOk : Bool) : State :=
  let st := s.rd DDR_CTL.STATE c
  let x := s.chanX c
  if st = 3 then
    let t := (s.setChanX c { x with retrain := 0, parity := if x.retrain = 2 then 1 else 0 }).wr DDR_CTL.STATE 2 c
    let t := evPf0 (t.count DDR_LOAD2.RETRAINS c) 0x0B08 c x.retrain ((s.now - x.retrainAt) / 1000)
    if x.holdDue then holdBegin t c else wakeChan t c
  else if st ≠ 1 then s
  else match x.dimms with
    | none => s
    | some d =>
      if ¬ katOk then chanLose s c 8
      else
        let r := trainRate s c d
        let t := ((s.wr DDR_CTL.STATE 2 c).wr DDR_CTL.LOSS_CAUSE 0 c).wr DDR_CTL.RATE r c
        let t := ((t.wr DDR_CTL.DIMMS d.n c).wr DDR_CTL.KIND d.kind c).wr DDR_CTL.RANKS d.ranks c
        let t := t.wr DDR_CTL.CAP_G d.capG c
        let t := if x.rearm then poisonChan t c else t
        let t := t.setChanX c { t.chanX c with rearm := false, errs := if x.rearm then [] else x.errs, lapAt := t.now }
        let t := floorSync (evPf0 t 0x0B01 c (r + t.rd DDR_CTL.STEPDOWN c * 2 ^ 8) d.capG)
        wakeChan (restChan t c) c

/-- A training runs past its limit: a start-up training adds a step-down, or at the lowest rate ends until REARM; the
channel is lost with cause 1 (13 R501, R510). -/
def trainFail (s : State) (c : Nat) : State :=
  if s.rd DDR_CTL.STATE c ≠ 1 then s
  else
    let x := s.chanX c
    let low := match x.dimms with
      | some d => ((ratesOf d.kind).filter fun r => decide (r ≤ d.rate)).length - 1
      | none => 0
    let t := if s.rd DDR_CTL.STEPDOWN c < low then (if x.rearm then s else s.count DDR_CTL.STEPDOWN c)
      else s.setChanX c { x with dead := true }
    chanLose t c 1

/-! ## Command/address parity (13 R503, R510) -/

/-- A command failed its parity: the third retry starts a retrain, or, after a retrain for parity, loses the channel. -/
def parityFail (s : State) (c retry : Nat) : State :=
  if retry < 3 ∨ s.rd DDR_CTL.STATE c ≠ 2 then s
  else if (s.chanX c).parity ≠ 0 then chanLose s c 4
  else retrainChan s c 2

/-! ## Refresh and temperature (13 R504 to R506) -/

/-- A refresh stop of a subchannel: its slots in that time are stolen, and its rows close. One that falls into a quiet
window is taken inside it (13 R504, 12 R476). -/
def refreshStop (s : State) (c : Nat) (sub : Bool) : State :=
  let x := s.chanX c
  let st := s.rd DDR_CTL.STATE c
  if st ≠ 2 ∨ x.inWin then s
  else
    let ns := max 100 (s.rd DDR_CFG.REF_STOP c)
    let ns := if s.on DDR_CFG.REF_MODE c then ns else max ns ((x.dimms.map (·.trfc)).getD 0)
    stealSlots (s.setChanX c { x with rows := x.rows.filter fun r => r.1 % 2 != b2n sub }) c (slotsIn s c ns / 2)

/-- Inserts an integer in an ascending list. -/
def insertInt (x : Int) : List Int → List Int
  | [] => [x]
  | y :: l => if x ≤ y then x :: y :: l else y :: insertInt x l

/-- The median of integers; of an even number, the mean of the middle two. -/
def medianInt (l : List Int) : Int :=
  let a := l.foldl (fun a x => insertInt x a) []
  let k := a.length
  if k % 2 = 1 then a.getD (k / 2) 0 else (a.getD (k / 2 - 1) 0 + a.getD (k / 2) 0) / 2

/-- The factor code that a rate multiple asks for: 0 ×1, 1 ×2, 2 ×4. -/
def factorCode (n : Nat) : Nat := if n ≤ 1 then 0 else if n ≤ 2 then 1 else 2

/-- A temperature period ends with the hub's reading and the highest refresh rate that MR4 asks for (13 R505, R506). -/
def tempPoll (s : State) (c : Nat) (hub : Option Int) (mr4 : Nat) : State :=
  let st := s.rd DDR_CTL.STATE c
  if ¬ (2 ≤ st ∧ st ≤ 5) then s
  else
    let x := s.chanX c
    let good := hub.filter fun h => decide (-40 ≤ h) && decide (h ≤ 150)
    let (ts, no) := match good with
      | some h => ((h :: x.temps).take 3, 0)
      | none => (x.temps, x.noTemp + 1)
    let unknown := decide (3 ≤ no)
    let med := medianInt ts
    let t := s.setChanX c { x with temps := ts, noTemp := no }
    let t := (t.wr DDR_THERM.TEMP (if ts = [] then 0 else (med % 256).toNat) c).wr DDR_THERM.TEMP_UNKNOWN (b2n unknown) c
    let old := s.rd DDR_THERM.REF_FACTOR c
    let want := max (min 2 (s.rd DDR_CFG.REF_FLOOR c)) (max (factorCode mr4) (if unknown || decide (85 < med) then 1 else 0))
    let low := if want < old then x.lowFor + 1 else 0
    let new := if old < want ∨ low = 3 then want else old
    let t := t.setChanX c { t.chanX c with lowFor := if low = 3 then 0 else low }
    let t := if new = old then t
      else evPf0 (t.wr DDR_THERM.REF_FACTOR new c) 0x0B03 c (old + new * 4) (t.rd DDR_THERM.TEMP c)
    if ts = [] then t
    else
      let warn := s.rd DDR_THERM.TEMP_WARN c
      let hold := if s.rd DDR_THERM.TEMP_HOLD c < warn then warn + 5 else s.rd DDR_THERM.TEMP_HOLD c
      let hot := decide ((warn : Int) ≤ med)
      let t := if hot ∧ ¬ x.warned then thermalEvent t c else t
      let t := t.setChanX c { t.chanX c with warned := hot }
      let st := t.rd DDR_CTL.STATE c
      if (hold : Int) ≤ med then
        if st = 3 ∨ (t.chanX c).inWin then t.setChanX c { t.chanX c with holdDue := true }
        else if st = 2 then holdBegin t c else t
      else if st = 4 ∧ ¬ hot then windowDue (thermalEvent (t.wr DDR_CTL.STATE 2 c) c) c
      else t

/-! ## Scrubbing (13 R507, R508) -/

/-- The channel and the byte offset there of a line that DRAM holds. -/
def dramPlace (s : State) (line : Nat) : Option (Nat × Nat) :=
  match s.extentOfLine line with
  | none => none
  | some (base, e) =>
    if e.deep then (kget (line / 64) s.tier.blocks).map fun b => (b.ch, Config.areaOffset line)
    else some (fastPlace s base e line)

/-- The offset of a line in error on a channel, by its number there: of a pool line, of a MAC, tag or map line. -/
def keyOff (s : State) (c key : Nat) : Option Nat :=
  if key < 2 ^ 60 then match dramPlace s key with
    | some (c', o) => if c' = c then some o else none
    | none => none
  else if key < 2 ^ 61 then some (macOff s c (key - 2 ^ 60))
  else if key < 2 ^ 62 then some (Config.tagOffset (key - 2 ^ 61))
  else some ((key - 2 ^ 62) * 64)

/-- The scrubber reads the line at its place: corrected lines are rewritten, uncorrectable ones have the effects of R509,
and those that belong to no slot or area are zeroed (13 R507). -/
def scrubLine (s : State) (c at_ : Nat) : State :=
  let here := fun (l : Nat) => dramPlace s l == some (c, at_ * 64)
  match (s.chanX c).errs.find? fun e => keyOff s c e.1 == some (at_ * 64) with
  | some (key, es) =>
    if badCopy s key then s.count DDR_ECC_CNT.POISON_RD c
    else
      let e := markEntry s c (at_ * 64)
      match decodeLine (markedDev s c e) (es.map (·.1)) with
      | .clean => s
      | .corrected d =>
        let t := lineCorrected s c e d
        t.setChanX c { t.chanX c with errs := kdel key (t.chanX c).errs }
      | .uncorrectable =>
        if 2 ^ 60 ≤ key then auxLost s c key (at_ * 64) 0xFF 0 ((s.partOfChan c).getD 16)
        else lineUncorrectable s c e key 0xFF 0 (((s.extentOfLine key).map (·.2.part)).getD 16)
  | none => match s.poison.find? here with
    | some _ => s.count DDR_ECC_CNT.POISON_RD c
    | none => s

/-- Errors of lines that belong to no slot or area any more go: the scrubber writes zero there (13 R507). -/
def scrubStray (s : State) (c : Nat) : State :=
  let x := s.chanX c
  s.setChanX c { x with errs := x.errs.filter fun e => decide (2 ^ 60 ≤ e.1) || (dramPlace s e.1).isSome }

/-- Lines of a channel. -/
def chanTotal (s : State) (c : Nat) : Nat := s.rd DDR_CTL.CAP_G c * 2 ^ 24

/-- A slot that no queue claims goes to the scrubber (12 R471, 13 R507, R508). -/
def scrubSlot (s : State) (c : Nat) : State :=
  if ¬ s.on DDR_SCRUB.SCRUB_EN c ∨ ¬ chanServes s c ∨ chanTotal s c = 0 then s
  else
    let k := (s.chanX c).scrubAt
    let t := scrubLine s c k
    let x := t.chanX c
    let (r, up) := bumpRem x.reg.scrubRem
    let t := t.setChanX c { x with scrubAt := k + 1, reg := { x.reg with scrubRem := r } }
    let t := if up then t.count QOS_CH_STAT.SCRUB c else t
    if k + 1 < chanTotal s c then t.wr DDR_SCRUB_STAT.PROGRESS ((k + 1) * 100 / chanTotal s c) c
    else
      let t := (t.wr DDR_SCRUB_STAT.LAP_LAST ((t.now - x.lapAt) / 10 ^ 9) c).wr DDR_SCRUB_STAT.PROGRESS 0 c
      let t := (t.wr DDR_SCRUB_STAT.SLOW 0 c).count DDR_SCRUB_STAT.LAPS c
      scrubStray (t.setChanX c { t.chanX c with scrubAt := 0, lapAt := t.now }) c

/-- The running lap passes LAP_MAX (13 R508). -/
def lapSlow (s : State) (c : Nat) : State :=
  if s.rd DDR_SCRUB.LAP_MAX c = 0 ∨ s.on DDR_SCRUB_STAT.SLOW c then s
  else evPf0 (s.wr DDR_SCRUB_STAT.SLOW 1 c) 0x0B06 c ((s.now - (s.chanX c).lapAt) / 10 ^ 9) (s.rd DDR_SCRUB_STAT.PROGRESS c)

/-! ## Registers (13 R510, R512, R516) -/

/-- A write to DDR_CTL: ENABLE 0 loses the channel with cause 6; ENABLE 1 trains it; REARM clears the step-downs and
retrains a channel that does not serve; MARK_CLR clears every mark. -/
def ddrCtlWrite (s : State) (c v : Nat) : State :=
  let was := s.on DDR_CTL.ENABLE c
  let t := plainWrite s DDR_CTL.reg c 0 0 v
  let en := t.on DDR_CTL.ENABLE c
  let st := t.rd DDR_CTL.STATE c
  let t := if was && !en && decide (1 ≤ st) && decide (st ≤ 5) then chanLose t c 6
    else if !was && en && st == 6 then measZero (t.wr DDR_CTL.STATE 1 c) c
    else t
  let t := if wrote DDR_CTL.REARM v = 0 then t
    else
      let t := (t.wr DDR_CTL.STEPDOWN 0 c).setChanX c { t.chanX c with dead := false }
      if t.rd DDR_CTL.STATE c = 6 ∧ en then
        measZero ((t.setChanX c { t.chanX c with rearm := true, ueAt := [] }).wr DDR_CTL.STATE 1 c) c
      else t
  if wrote DDR_CTL.MARK_CLR v = 0 then t else t.wr DDR_MARK.MARK 0xFFFFFFFF c

/-- A write to DDR_CNT_CLR. -/
def ddrCntClr (s : State) (c v : Nat) : State :=
  if wrote DDR_CNT_CLR.CLEAR v = 0 then s
  else
    let x := s.chanX c
    let t := s.setChanX c { x with rdRem := 0, wrRem := 0, actRem := 0 }
    ((t.clrReg DDR_ECC_CNT.reg c).clrReg DDR_LOAD.reg c).clrReg DDR_LOAD2.reg c

end Sys2Proof.Machine
end

