-- ==== Sys2Proof/Machine/ExecDram.lean ====
section
/-!
DEFINITION. Sys2Proof/Machine/ExecDram.lean: the commands of the DRAM channels (13).
-/
namespace Sys2Proof.Machine

/-- DRAM_TRAIN (13 R500 step 1). -/
def execDramTrain (ch : Chan) (d : Dimms) (s : State) : Host.Outcome State Fault Refusal := .next (chanTrain s ch d)
/-- DRAM_TRAINING_DONE (13 R500 step 5, R503). -/
def execDramTrainingDone (ch : Chan) (katOk : Bool) (s : State) : Host.Outcome State Fault Refusal := .next (chanTrained s ch katOk)
/-- DRAM_TRAIN_TMO_EXPIRY (13 R501). -/
def execDramTrainTmoExpiry (ch : Chan) (s : State) : Host.Outcome State Fault Refusal := .next (trainFail s ch)
/-- QUIET_WINDOW_DUE (13 R502). -/
def execQuietWindowDue (ch : Chan) (s : State) : Host.Outcome State Fault Refusal := .next (windowDue s ch)
/-- QUIET_WINDOW_END (13 R502, R503). -/
def execQuietWindowEnd (ch : Chan) (drift : Bool) (s : State) : Host.Outcome State Fault Refusal := .next (windowEnd s ch drift)
/-- DRAM_RETRAIN_TMO_EXPIRY (13 R503). -/
def execDramRetrainTmoExpiry (ch : Chan) (s : State) : Host.Outcome State Fault Refusal :=
  .next (if s.rd DDR_CTL.STATE ch = 3 then chanLose s ch 1 else s)
/-- COMMAND_ADDRESS_PARITY_FAIL: `retry` counts the retries of the command that have failed (13 R503). -/
def execCommandAddressParityFail (ch : Chan) (retry : Nat) (s : State) : Host.Outcome State Fault Refusal := .next (parityFail s ch retry)
/-- REFRESH_STOP (13 R504). -/
def execRefreshStop (ch : Chan) (sub : Bool) (s : State) : Host.Outcome State Fault Refusal := .next (refreshStop s ch sub)
/-- DRAM_TEMP_POLL (13 R505, R506). -/
def execDramTempPoll (ch : Chan) (hub : Option Int) (mr4 : Nat) (s : State) : Host.Outcome State Fault Refusal :=
  .next (tempPoll s ch hub mr4)
/-- SCRUB_SLOT (13 R507). -/
def execScrubSlot (ch : Chan) (s : State) : Host.Outcome State Fault Refusal := .next (scrubSlot s ch)
/-- LAP_MAX_EXPIRY (13 R508). -/
def execLapMaxExpiry (ch : Chan) (s : State) : Host.Outcome State Fault Refusal := .next (lapSlow s ch)
/-- DRAM_CE_WINDOW_END (13 R497, R498). -/
def execDramCeWindowEnd (ch : Chan) (s : State) : Host.Outcome State Fault Refusal :=
  .next (s.setChanX ch { s.chanX ch with devCnt := [], ceWin := 0, ceSent := false })
/-- DDR_ENABLE (13 R500). -/
def execDdrEnable (ch : Chan) (v : Word) (s : State) : Host.Outcome State Fault Refusal := .next (atPf0 s (ddrCtlWrite s ch v.toNat))
/-- DDR_DISABLE (13 R510). -/
def execDdrDisable (ch : Chan) (v : Word) (s : State) : Host.Outcome State Fault Refusal := .next (atPf0 s (ddrCtlWrite s ch v.toNat))
/-- DDR_REARM (13 R512). -/
def execDdrRearm (ch : Chan) (v : Word) (s : State) : Host.Outcome State Fault Refusal := .next (atPf0 s (ddrCtlWrite s ch v.toNat))
/-- DDR_MARK_CLR (13 R497). -/
def execDdrMarkClr (ch : Chan) (v : Word) (s : State) : Host.Outcome State Fault Refusal := .next (atPf0 s (ddrCtlWrite s ch v.toNat))
/-- DDR_CNT_CLR (13 R516). -/
def execDdrCntClr (ch : Chan) (v : Word) (s : State) : Host.Outcome State Fault Refusal := .next (atPf0 s (ddrCntClr s ch v.toNat))

end Sys2Proof.Machine
end

