-- ==== Sys2Proof/Machine/Drive.lean ====
section
/-!
DEFINITION. Sys2Proof/Machine/Drive.lean: the Granary's drives (04 R189 to R193, R204 to R211): bring-up, commands and
their failures, the end of fills and write-backs, SMART, loss.
-/
namespace Sys2Proof.Machine

/-! ## Waking -/

/-- Whatever waits for a fill, a write-back or a way goes on (04 R189 step 4, R193). -/
def wakeTier (s : State) : State := pump (freeWays s)

/-- A move of some blocks has ended: descriptors that started meanwhile may touch them (04 R197). -/
def movesEnd (s : State) (f : Nat → Bool) : State :=
  { s with started := s.started.map fun x => { x with moves := x.moves.filter fun b => !f b } }

/-- The drive of a block, if its extent still stands. -/
def driveOf (s : State) (block : Nat) : Option Nat :=
  match s.extentAt (block * 4096) with
  | some (base, e) => (blockPlace base e block).map (·.1)
  | none => none

/-- Outstanding commands of some kinds with an argument. -/
def openCmds (x : DriveX) (kinds : List Nat) (arg : Nat) : Bool :=
  (x.cmds ++ x.held).any fun c => kinds.contains c.kind && c.arg == arg

/-! ## The end of a fill and of a write-back -/

/-- The block of a fill is in DRAM (04 R189 step 3): its lines and their MACs are written, and the MAC cache holds the MAC
LBA that was read. With a failed Read every line of it is poisoned there, with event 0x0305; a line that has newer bytes on
their way from the near store is not (R193). -/
def fillIn (s : State) (p d block ch : Nat) (failed : Option Nat) : State :=
  let t := (List.range 64).foldl (fun t j =>
    memWrite t ch p (p * 4 + 3) (Config.areaOffset (block * 64 + j)) (block * 64 + j)) s
  match failed with
  | none => macPut (macRoom t (ch / 2) (p * 4 + 3) 64 128) (2 ^ 60 + block / 16) (ch / 2) 64 false
  | some st =>
    let x := t.driveX d
    let t := t.setDriveX d { x with failed := kdel (2 * block) x.failed }
    evPart (((List.range 64).map (block * 64 + ·)).foldl poisonCopy t) p 0x0305 d block st

/-- A fill ends once its Reads have, and what waited for it goes on (04 R189 steps 3 and 4, R193). -/
def fillDone (s : State) (block : Nat) : State :=
  match kget block s.tier.blocks, driveOf s block with
  | some b, some d =>
    let x := s.driveX d
    if ¬ b.filling ∨ openCmds x [0, 10] block then s
    else
      let t := { s with tier := { s.tier with blocks := kput block { b with filling := false } s.tier.blocks } }
      let p := ((t.extentAt (block * 4096)).map (·.2.part)).getD 16
      idleWriteBack (wakeTier (movesEnd (fillIn t p d block b.ch (kget (2 * block) x.failed)) (· == block))) d
  | _, _ => s

/-- The blocks of a group whose write-back is under way. -/
def wbBlocks (s : State) (group : Nat) : List (Nat × Blk) := s.tier.blocks.filter fun b => b.1 / 16 == group && b.2.wb

/-- Lines that a write-back wrote as poison are poison in the Granary too (04 R187). -/
def poisonWritten (s : State) (bs : List (Nat × Blk)) : State :=
  bs.foldl (fun t b => b.2.bad.foldl (fun t l => if nearDirty t l then t else t.poisonLine l) t) s

/-- The line of the written map that holds the bits of a group is read and written (04 R184, R190). -/
def mapWritten (s : State) (group : Nat) : State :=
  match s.extentAt (group * 65536) with
  | some (base, e) => mapTouch s base e (group * 16) (e.part * 4 + 3) true
  | none => s

/-- The write-back of a group ends: with success its blocks are written and clean, but for those written meanwhile
(04 R190); with a failure they stay dirty (R206). -/
def groupEnd (s : State) (group : Nat) (ok : Bool) : State :=
  let bs := wbBlocks s group
  let f := fun (b : Nat × Blk) => if b.1 / 16 = group ∧ b.2.wb then
    (b.1, { b.2 with wb := false, dirty := if ok then b.2.wbDirty else b.2.dirty, wbDirty := false }) else b
  let t := movesEnd { s with tier := { s.tier with blocks := s.tier.blocks.map f } } fun b => b / 16 == group
  if ok then
    let t := mapWritten (poisonWritten t bs) group
    { t with tier := { t.tier with written := bs.foldl (fun l b => sput b.1 l) t.tier.written
                                   mapBad := t.tier.mapBad.filter fun k => bs.all fun b => b.1 != k } }
  else t

/-- GROUP_WRITEBACK_DONE once every Write of the group has completed. -/
def groupDone (s : State) (group : Nat) : State :=
  match s.extentAt (group * 65536), driveOf s (group * 16) with
  | some (_, e), some d =>
    let n := (wbBlocks s group).length
    if n = 0 ∨ openCmds (s.driveX d) [1, 11, 12] group then s
    else
      let t := (s.setDriveX d { s.driveX d with macRead := kdel group (s.driveX d).macRead })
      let t := (groupEnd t group true).count PRT_TIER_CNT.WRITEBACKS e.part 0 0 n
      idleWriteBack (wakeTier (tierStat (writeBackEngine t e.part) e.part)) d
  | _, _ => s

/-- Access counters of a partition's pages and cached blocks halve; idle write-back looks again (04 R191, R194). -/
def decayTick (s : State) (p : Nat) : State :=
  let mine := fun (sl : Nat) => s.partOfSlice sl == some p
  let cnt := s.tier.pageCnt.filterMap fun e =>
    let c := if mine (e.1 % 16) then e.2 / 2 else e.2
    if c = 0 then none else some (e.1, c)
  let blk := s.tier.blocks.map fun (b : Nat × Blk) => if mine (b.2.ch / 2) then (b.1, { b.2 with cnt := b.2.cnt / 2 }) else b
  let t := { s with tier := { s.tier with pageCnt := cnt, blocks := blk } }
  (List.range 16).foldl idleWriteBack t

/-! ## Loss (04 R208, R209) -/

/-- Blocks of a lost drive: dirty ones become held, fills end without a block, write-backs end. -/
def loseBlocks (s : State) (d : Nat) : State :=
  let on_ := fun (b : Nat × Blk) => driveOf s b.1 == some d
  let bs := (s.tier.blocks.filter fun b => !(on_ b && b.2.filling)).map fun (b : Nat × Blk) =>
    if on_ b then (b.1, { b.2 with held := b.2.held || b.2.dirty, wb := false, wbDirty := false }) else b
  movesEnd { s with tier := { s.tier with blocks := bs } } fun b => driveOf s b == some d

/-- Extents with chunks on a lost drive become degraded; each deep one is told to its partition with event 0x0304. -/
def degrade (s : State) (d : Nat) : State :=
  let on_ := fun (e : Ext) => e.units.any fun u => u.1 == d
  s.extents.foldl (fun (t : State) (be : Nat × Ext) =>
    let e := be.2
    if ¬ on_ e ∨ e.lost.contains d then t
    else
      let t := t.setExt be.1 { e with lost := sput d e.lost }
      if ¬ e.deep then t
      else
        let held := t.tier.blocks.filter fun b => b.2.held && driveOf t b.1 == some d && inExt be.1 e (b.1 * 64)
        evPart t e.part 0x0304 d be.1 held.length) s

/-- A drive is lost (04 R208, R209). -/
def driveLost (s : State) (d cause : Nat) : State :=
  let st := s.rd NVM_CTL.STATE d
  if st = 0 ∨ st = 3 then s
  else
    let n := (s.extents.filter fun e => e.2.deep && !e.2.lost.contains d && e.2.units.any fun u => u.1 == d).length
    let t := (s.wr NVM_CTL.STATE 3 d).wr NVM_CTL.LOSS_CAUSE cause d
    let x := t.driveX d
    let t := t.setDriveX d { emptyDrive with nextId := x.nextId }
    let t := evPf0 (floorSync t) 0x0301 d cause n
    let t := faultMoves t fun e => e.newUnits.any fun u => u.1 == d
    wakeTier (tierStats (degrade (loseBlocks t d) d))

/-- Flush before CC.EN is cleared on purpose (04 R208). -/
def flushDrive (s : State) (d : Nat) : State := if s.rd NVM_CTL.STATE d = 2 then nvmeIssue s d 2 0 0 0 else s

/-! ## Bring-up (04 R205) -/

/-- Step 1: the root port trains the link. -/
def driveBegin (s : State) (d : Nat) : State :=
  if wardOut s (d / 4) then s else
  let t := ((s.wr NVM_CTL.STATE 1 d).wr NVM_CTL.LOSS_CAUSE 0 d)
  (floorSync (t.setDriveX d { emptyDrive with step := 1, nextId := (s.driveX d).nextId })).emit (.nvme d 20 [])

/-- A drive that is off and enabled is brought up; one that is lost only when ENABLE goes to 1. -/
def driveBringup (s : State) (d : Nat) : State :=
  if s.on NVM_CTL.ENABLE d ∧ s.rd NVM_CTL.STATE d = 0 then driveBegin s d else s

/-- Step 2: CC.EN is cleared and set, and RDY is awaited. -/
def driveEnableCtl (s : State) (d : Nat) : State := s.emit (.nvme d 21 [])

def driveLinkUp (s : State) (d : Nat) : State :=
  let x := s.driveX d
  if x.step = 1 then driveEnableCtl (s.setDriveX d { x with step := 2 }) d
  else s.setDriveX d { x with linkDown := false }

def driveLinkDown (s : State) (d : Nat) : State :=
  let st := s.rd NVM_CTL.STATE d
  let x := s.driveX d
  if (st = 1 ∨ st = 2) ∧ x.step ≠ 1 then s.setDriveX d { x with linkDown := true } else s

/-- LINKUP_TMO has run out. -/
def driveLinkTmo (s : State) (d : Nat) : State :=
  let x := s.driveX d
  if x.step = 1 ∨ x.linkDown then driveLost s d 1 else s

/-- The ready limit has run out. -/
def driveReadyTmo (s : State) (d : Nat) : State :=
  let x := s.driveX d
  if x.resetting = 2 ∨ (x.step = 2 ∧ x.resetting = 0) then driveLost s d 4 else s

/-- Step 4: the Number of Queues is asked for. -/
def driveQueues (s : State) (d : Nat) : State := nvmeIssue s d 7 0 0 0

/-- RDY is 1: step 3, or step 4 of a controller reset. QDEPTH follows MQES. -/
def driveReady (s : State) (d mqes : Nat) : State :=
  let x := s.driveX d
  let t := s.wr NVM_CTL.QDEPTH (min 1024 (mqes + 1)) d
  if x.resetting = 2 then driveQueues (t.setDriveX d { x with resetting := 4 }) d
  else if x.step = 2 then nvmeIssue (nvmeIssue (t.setDriveX d { x with step := 3 }) d 5 0 0 0) d 6 1 0 0
  else s

/-- The controller data of Identify Controller against R204: version 1.4 or later, I/O controller type, MDTS 0 or at
least 64 KiB. The byte offsets are the NVMe base specification's (log entry 16). -/
def identOk (data : List Byte) : Bool :=
  decide (0x00010400 ≤ leNat ((data.drop 80).take 4)) && (nthB data 111).toNat == 1 &&
  ((nthB data 77).toNat == 0 || decide (4 ≤ (nthB data 77).toNat))

/-- The namespace data of Identify Namespace against R204: 4,096-byte blocks and no metadata (log entry 16). -/
def nsOk (data : List Byte) : Bool :=
  let f := leNat ((data.drop (128 + 4 * ((nthB data 26).toNat % 16))).take 4)
  fld f 0 16 == 0 && fld f 16 8 == 12

/-- NVM_IDENT takes the controller data (04 R205 step 3). -/
def putIdent (s : State) (d : Nat) (data : List Byte) : State :=
  (List.range 512).foldl (fun (t : State) i => t.wrReg NVM_IDENT.reg d i 0 (leNat ((data.drop (8 * i)).take 8))) s

/-- Step 6: the drive enters service (04 R205). -/
def driveServe (s : State) (d : Nat) : State :=
  let x := s.driveX d
  let units := min x.nsBytes (2 ^ 47) / (1088 * 2 ^ 20)
  let t := ((s.wr NVM_CAP.UNITS units d).wr NVM_CAP.FREE units d).wr NVM_CTL.STATE 2 d
  evPf0 (floorSync (extCount (t.setDriveX d { x with step := 0 }))) 0x0303 d units (t.rd NVM_CTL.IOQ d)

/-! ## Commands (04 R206) -/

/-- One more failed command in a row; the third loses the drive. -/
def failRow (s : State) (d : Nat) : State :=
  let x := s.driveX d
  let t := s.setDriveX d { x with failRow := x.failRow + 1 }
  if 3 ≤ x.failRow + 1 then driveLost t d 3 else t

/-- A command of a write-back has ended: the MAC LBA is written once the group's data are, and a group with a failed
command ends dirty (04 R190, R206). -/
def groupStep (s : State) (d group : Nat) : State :=
  let x := s.driveX d
  if openCmds x [1, 11, 12] group then s
  else match kget (2 * group + 1) x.failed with
    | some _ => wakeTier (groupEnd (s.setDriveX d { x with failed := kdel (2 * group + 1) x.failed }) group false)
    | none => s

/-- The data Writes of a group have completed: its MAC LBA is written. -/
def groupMac (s : State) (d group sl : Nat) : State :=
  let x := s.driveX d
  if openCmds x [1, 12] group ∨ (kget (2 * group + 1) x.failed).isSome then s
  else match s.extentAt (group * 65536) with
    | none => s
    | some (base, e) => match blockPlace base e (group * 16) with
      | some (_, _, mac) => nvmeIssue s d 11 group mac 1 sl
      | none => s

/-- The queue pairs exist: step 5, or the end of a controller reset, when what was outstanding is issued again. -/
def queuesMade (s : State) (d : Nat) : State :=
  let x := s.driveX d
  if x.resetting ≠ 0 then
    let t := nvmeDrain (s.setDriveX d { x with resetting := 0 }) d
    if x.step = 4 then nvmeIssue (t.setDriveX d { t.driveX d with step := 5 }) d 9 0 0 0 else t
  else if x.step = 4 then nvmeIssue (s.setDriveX d { x with step := 5 }) d 9 0 0 0
  else s

/-! ## SMART (04 R207) -/

/-- After the SMART log of the bring-up the drive enters service, unless it is lost (04 R205 step 5). -/
def smartEnd (s : State) (d : Nat) : State :=
  if (s.driveX d).step = 5 ∧ s.rd NVM_CTL.STATE d = 1 then driveServe s d else s

/-- The SMART log could not be read: a failed command (04 R207). -/
def smartFail (s : State) (d : Nat) : State := smartEnd (failRow s d) d

/-- What the SMART log says: composite temperature (°C), critical warning, percentage used. -/
def smartRead (s : State) (d : Nat) (temp : Int) (warn used : Nat) : State :=
  let x := s.driveX d
  let ts := if -40 ≤ temp ∧ temp ≤ 150 then (temp :: x.temps).take 3 else x.temps
  let t := (s.wr NVM_STAT.CRIT_WARN warn d).wr NVM_STAT.PCT_USED used d
  let med := medianInt ts
  let hot := !ts.isEmpty && decide ((s.rd NVM_CFG.TEMP_WARN d : Int) < med)
  let cond := fld warn 0 3 + 8 * b2n hot
  let t := t.setDriveX d { x with temps := ts, cond := cond, failRow := 0 }
  let t := if cond ≠ 0 ∧ cond ≠ x.cond then
      evPf0 t 0x0302 d (fld warn 0 8 + (if ts = [] then 0 else (med % 65536).toNat) * 256) (fld used 0 8)
    else t
  if warn.testBit 3 then driveLost t d 5 else smartEnd t d

/-- The SMART read that is open at a drive, if one is. -/
def smartOpen (x : DriveX) : Bool := (x.cmds ++ x.held).any fun c => c.kind == 9

/-- SMART_POLL: the log's Get Log Page command, which each has CMD_TMO (04 R206, R207). Where one is open its result comes:
the log, or that it failed. Otherwise a drive in service is asked, unless SMART_PERIOD is 0, and `ok` says whether the
log comes at once or is still awaited (log entry 37). -/
def smartPoll (s : State) (d : Nat) (ok : Bool) (temp : Int) (warn used : Nat) : State :=
  let x := s.driveX d
  if ¬ (s.rd NVM_CTL.STATE d = 2 ∨ x.step = 5) then s
  else if smartOpen x ∨ x.step = 5 then
    let t := s.setDriveX d { x with cmds := x.cmds.filter (fun c => c.kind != 9), held := x.held.filter (fun c => c.kind != 9) }
    if ok then smartRead t d temp warn used else smartFail t d
  else if s.rd NVM_CFG.SMART_PERIOD d = 0 then s
  else if ¬ ok then nvmeIssue s d 9 0 0 0
  else smartRead ((s.setDriveX d { x with nextId := x.nextId + 1 }).emit (.nvme d 9 [x.nextId, 0, 0])) d temp warn used

/-! ## The ends of commands (04 R206) -/

/-- What a command that succeeded brings (its entry is gone from the list). The places of the fields in Identify data and
in the SMART log are the NVMe base specification's (log entry 16). -/
def cmdOk (s : State) (d : Nat) (c : NvmeCmd) (data : List Byte) : State :=
  let x := s.driveX d
  let next := fun (t : State) => if openCmds (t.driveX d) [5, 6] 0 || openCmds (t.driveX d) [6] 1 then t
    else if t.rd NVM_CTL.STATE d = 1 then driveQueues (t.setDriveX d { t.driveX d with step := 4 }) d else t
  let done := s.setDriveX d { x with qTries := kdel (256 * (c.kind - 7) + c.arg) x.qTries }
  match c.kind with
  | 1 => groupStep (groupMac s d c.arg c.sl) d c.arg
  | 12 => groupStep (groupMac (s.setDriveX d { x with macRead := kput c.arg data x.macRead }) d c.arg c.sl) d c.arg
  | 11 => match kget (2 ^ 60 + c.arg) s.tier.macs with
    | some m => macPut s (2 ^ 60 + c.arg) m.slice 64 false
    | none => s
  | 5 => if identOk data then next (putIdent s d data) else driveLost (putIdent s d data) d 6
  | 6 => if nsOk data then next (s.setDriveX d { x with nsBytes := leNat (data.take 8) * 4096 }) else driveLost s d 6
  | 7 =>
    let n := min 64 (min (leNat (data.take 2)) (leNat ((data.drop 2).take 2)) + 1)
    nvmeIssue (done.wr NVM_CTL.IOQ n d) d 8 0 0 0
  | 8 => if c.arg + 1 < 2 * s.rd NVM_CTL.IOQ d then nvmeIssue done d 8 (c.arg + 1) 0 0 else queuesMade done d
  | 9 => smartRead s d ((leNat ((data.drop 1).take 2) : Int) - 273) ((nthB data 0).toNat) ((nthB data 5).toNat)
  | _ => s

/-- What a command that failed comes to. `st` is its NVMe status. One of the bring-up is made again, until three failures in
a row lose the drive (log entry 37); a queue command of a controller reset is made again by the reset's step 4. -/
def cmdFail (s : State) (d : Nat) (c : NvmeCmd) (st : Nat) : State :=
  let x := s.driveX d
  match c.kind with
  | 0 | 10 => failRow (s.setDriveX d { x with failed := kput (2 * c.arg) st x.failed }) d
  | 1 | 11 | 12 =>
    failRow (groupStep (s.setDriveX d { x with failed := kput (2 * c.arg + 1) st x.failed }) d c.arg) d
  | 5 | 6 =>
    let t := failRow s d
    if t.rd NVM_CTL.STATE d = 3 then t else nvmeIssue t d c.kind c.arg 0 0
  | 7 | 8 =>
    let t := failRow (s.setDriveX d { x with qTries := kdel (256 * (c.kind - 7) + c.arg) x.qTries }) d
    if t.rd NVM_CTL.STATE d = 3 ∨ (t.driveX d).resetting = 2 then t else nvmeIssue t d c.kind c.arg 0 0
  | 9 => smartFail s d
  | _ => failRow s d

/-- A command completes with a status: success, a Read's media error, or an error that is retried until it has been
issued RETRY + 1 times (04 R206). Its queue entry is free for another. -/
def cmdComplete (s : State) (d id sct sc : Nat) (data : List Byte) : State :=
  let x := s.driveX d
  match x.cmds.find? (·.id == id) with
  | none => s
  | some c =>
    let t := s.setDriveX d { x with cmds := x.cmds.filter (·.id != id) }
    let media := decide (sct = 2) && [0, 10, 12].contains c.kind
    if sct = 0 ∧ sc = 0 then
      idleWriteBack (nvmeDrain (cmdOk (t.setDriveX d { t.driveX d with failRow := 0 }) d c data) d) d
    else if media then nvmeDrain (cmdFail (t.count NVM_STAT.MEDIA_ERR d) d c (fld sct 0 3 * 256 + fld sc 0 8)) d
    else if c.tries ≤ s.rd NVM_CFG.RETRY d then nvmeSend t d c
    else nvmeDrain (cmdFail t d c (fld sct 0 3 * 256 + fld sc 0 8)) d

/-- A command exceeds CMD_TMO: the controller is reset, and what was outstanding is issued again once its queues exist;
the command itself fails once it has been issued RETRY + 1 times (04 R206). A Read that so fails has no NVMe status, and
event 0x0305 gives 0 for it, which R212 does not say: DESIGN CHOICE, log entry 37. -/
def cmdTmo (s : State) (d id : Nat) : State :=
  let x := s.driveX d
  match x.cmds.find? (·.id == id) with
  | none => s
  | some c =>
    let t := (s.count NVM_STAT.TIMEOUTS d).count NVM_STAT.RESETS d
    let last := decide (s.rd NVM_CFG.RETRY d < c.tries)
    let keep := (x.cmds ++ x.held).filter fun k => k.kind != 7 && k.kind != 8 && !(last && k.id == id)
    let t := driveEnableCtl (t.setDriveX d { x with resetting := 2, cmds := [], held := keep }) d
    if last then cmdFail t d c 0 else t

/-! ## NVM_CTL (04 R205, R208) -/

/-- A write to NVM_CTL: ENABLE to 1 brings the drive up, ENABLE to 0 flushes it and loses it with cause 7. -/
def nvmCtlWrite (s : State) (d v : Nat) : State :=
  let was := s.on NVM_CTL.ENABLE d
  let t := plainWrite s NVM_CTL.reg d 0 0 v
  let en := t.on NVM_CTL.ENABLE d
  if was && !en then driveLost (flushDrive t d) d 7
  else if !was && en then driveBegin t d
  else t

end Sys2Proof.Machine
end

