-- ==== Sys2Proof/Machine/ExecDrive.lean ====
section
/-!
DEFINITION. Sys2Proof/Machine/ExecDrive.lean: the commands of the tiers and the drives (04).
-/
namespace Sys2Proof.Machine

/-- GRANARY_FILL_DONE (04 R189). -/
def execGranaryFillDone (block : Nat) (s : State) : Host.Outcome State Fault Refusal := .next (fillDone s block)
/-- GROUP_WRITEBACK_DONE (04 R190). -/
def execGroupWritebackDone (group : Nat) (s : State) : Host.Outcome State Fault Refusal := .next (groupDone s group)
/-- DECAY_TICK (04 R194). -/
def execDecayTick (p : Part) (s : State) : Host.Outcome State Fault Refusal := .next (decayTick s p)
/-- DRIVE_BRINGUP (04 R205). -/
def execDriveBringup (dr : Drive) (s : State) : Host.Outcome State Fault Refusal := .next (driveBringup s dr)
/-- NVM_DISABLE (04 R208). -/
def execNvmDisable (dr : Drive) (v : Word) (s : State) : Host.Outcome State Fault Refusal := .next (atPf0 s (nvmCtlWrite s dr v.toNat))
/-- NVME_CMD_COMPLETE, with the data that the command returns (04 R206). -/
def execNvmeCmdComplete (dr : Drive) (id sct sc : Nat) (data : List Byte) (s : State) : Host.Outcome State Fault Refusal :=
  .next (cmdComplete s dr id sct sc data)
/-- NVME_CMD_TMO_EXPIRY (04 R206). -/
def execNvmeCmdTmoExpiry (dr : Drive) (id : Nat) (s : State) : Host.Outcome State Fault Refusal := .next (cmdTmo s dr id)
/-- NVME_LINKUP_TMO_EXPIRY (04 R205, R208). -/
def execNvmeLinkupTmoExpiry (dr : Drive) (s : State) : Host.Outcome State Fault Refusal := .next (driveLinkTmo s dr)
/-- NVME_READY_TMO_EXPIRY (04 R205). -/
def execNvmeReadyTmoExpiry (dr : Drive) (s : State) : Host.Outcome State Fault Refusal := .next (driveReadyTmo s dr)
/-- SMART_POLL: whether the log could be read, and what it says (04 R207). -/
def execSmartPoll (dr : Drive) (ok : Bool) (temp : Int) (warn used : Nat) (s : State) : Host.Outcome State Fault Refusal :=
  .next (smartPoll s dr ok temp warn used)
/-- NVME_LINK_DOWN (04 R208). -/
def execNvmeLinkDown (dr : Drive) (s : State) : Host.Outcome State Fault Refusal := .next (driveLinkDown s dr)
/-- NVME_LINK_UP (04 R205). -/
def execNvmeLinkUp (dr : Drive) (s : State) : Host.Outcome State Fault Refusal := .next (driveLinkUp s dr)
/-- NVME_CONTROLLER_READY, with CAP.MQES (04 R205, R206). -/
def execNvmeControllerReady (dr : Drive) (mqes : Nat) (s : State) : Host.Outcome State Fault Refusal := .next (driveReady s dr mqes)
/-- NVME_CONTROLLER_FATAL: CSTS.CFS is set (04 R208). -/
def execNvmeControllerFatal (dr : Drive) (s : State) : Host.Outcome State Fault Refusal := .next (driveLost s dr 2)

end Sys2Proof.Machine
end

