-- ==== Sys2Proof/Machine/ExecQos.lean ====
section
/-!
DEFINITION. Sys2Proof/Machine/ExecQos.lean: the commands of scheduling, gates, regulators and histograms (12).
-/
namespace Sys2Proof.Machine

/-- EGRESS_PACKET_START (12 R457). -/
def execEgressPacketStart (port : Port) (s : State) : Host.Outcome State Fault Refusal := .next (egressStart s port)

/-- The entry in service of a gate list ends and the next one begins (12 R465). -/
def gateAdvance (s : State) (n : Nat) : State :=
  let l := s.rd QOS_GATE_CTL.CUR n
  let k := gateLen s n l
  if k = 0 then s
  else
    let t := shaperSync s n
    let q := t.portQ n
    t.setPortQ n { q with gateEnt := (q.gateEnt + 1) % k, gateAt := q.gateAt + gateDur s n l q.gateEnt }

/-- GATE_ENTRY_ADVANCE (12 R465). -/
def execGateEntryAdvance (port : Port) (s : State) : Host.Outcome State Fault Refusal := .next (gateAdvance s port)

/-- A write to QOS_GATE_CTL: the idle list's NENT, then COMMIT (12 R467 steps 1 and 2). -/
def gateCtlWrite (s : State) (n v : Nat) : State :=
  let t := plainWrite s QOS_GATE_CTL.reg n 0 0 v
  if wrote QOS_GATE_CTL.COMMIT v = 0 then t
  else if t.on QOS_GATE_CTL.PENDING n ∨ t.rd QOS_GATE_AT.AT n < t.now + 10000 then t.wr QOS_GATE_CTL.COMMIT_ERR 1 n
  else (t.wr QOS_GATE_CTL.COMMIT_ERR 0 n).wr QOS_GATE_CTL.PENDING 1 n

/-- QOS_GATE_COMMIT (12 R467). -/
def execQosGateCommit (port : Port) (v : Word) (s : State) : Host.Outcome State Fault Refusal := .next (atPf0 s (gateCtlWrite s port v.toNat))

/-- The fabric time reaches AT: the other list takes over (12 R467 step 4). -/
def gateTakeover (s : State) (n : Nat) : State :=
  if ¬ s.on QOS_GATE_CTL.PENDING n then s
  else gateTake (setTime s (max s.now (s.rd QOS_GATE_AT.AT n))) n

/-- GATE_TAKEOVER_AT (12 R467). -/
def execGateTakeoverAt (port : Port) (s : State) : Host.Outcome State Fault Refusal := .next (gateTakeover s port)

/-- GB_HOLD has passed since the older of the two happenings (12 R468). -/
def gbHoldEnd (s : State) (n : Nat) : State :=
  let q := s.portQ n
  let q' := match q.gbTrain, q.gbStep with
    | some a, some b => if a < b then { q with gbTrain := none } else if b < a then { q with gbStep := none }
        else { q with gbTrain := none, gbStep := none }
    | _, _ => { q with gbTrain := none, gbStep := none }
  guardUpdate (s.setPortQ n q') n

/-- GB_HOLD_EXPIRY (12 R468). -/
def execGbHoldExpiry (port : Port) (s : State) : Host.Outcome State Fault Refusal := .next (gbHoldEnd s port)

/-- DRAM_SLOT_GRANT (12 R473). -/
def execDramSlotGrant (ch : Chan) (s : State) : Host.Outcome State Fault Refusal := .next (slotGrant s ch)

/-- ADAPT_TICK (12 R477). -/
def execAdaptTick (s : State) : Host.Outcome State Fault Refusal := .next (adaptTick s)

/-- HIST_SAMPLE_TICK (12 R479). -/
def execHistSampleTick (port : Bool) (n : Fin 32) (s : State) : Host.Outcome State Fault Refusal := .next (histSample s port n)

/-- QOS_PORT_HIST_CLEAR (12 R479). -/
def execQosPortHistClear (port : Port) (v : Word) (s : State) : Host.Outcome State Fault Refusal := .next (atPf0 s (portHselWrite s port v.toNat))

/-- QOS_CH_HIST_CLEAR (12 R479). -/
def execQosChHistClear (ch : Chan) (v : Word) (s : State) : Host.Outcome State Fault Refusal := .next (atPf0 s (chHselWrite s ch v.toNat))

/-- QOS_REG_WRITE: a sum of MIN above 256 is a host error (12 R474, R477). -/
def execQosRegWrite (o : Fin 17) (v : Word) (s : State) : Host.Outcome State Fault Refusal :=
  if 256 < minSum s o (wrote QOS_REG.MIN v.toNat) then .fault (.hostError 474) else .next (atPf0 s (qosRegWrite s o v.toNat))

/-- A write to XRD_CNT_CLR (11 R454). -/
def xrdCntClr (s : State) (v : Nat) : State :=
  if wrote XRD_CNT_CLR.CLEAR v = 0 then s
  else
    let t := (s.clrReg XRD_RETX_STAT.reg).clrReg XRD_ORIG_CNT.reg
    (List.range 32).foldl (fun t n => (t.clrReg XRD_PORT_CNT.reg n).clrReg XRD_PORT_CNT2.reg n) t

/-- XRD_CNT_CLR (11 R454). -/
def execXrdCntClr (v : Word) (s : State) : Host.Outcome State Fault Refusal := .next (atPf0 s (xrdCntClr s v.toNat))

end Sys2Proof.Machine
end

