-- ==== Sys2Proof/Machine/PartRegs.lean ====
section
/-!
DEFINITION. Sys2Proof/Machine/PartRegs.lean: what writes to the registers of a partition's block, of the rings and of the
coherent domains do beyond their access codes (02 R128, 03 R143, R144, 05 R254, R259, 06 R281, R283, 07 R320,
08 R326, 09 R344, 14 R546), and the pool apertures (03 R136 to R138).
-/
namespace Sys2Proof.Machine

/-! ## Partition registers -/

/-- Whether partition `p` may use a space for a view or a region: live, its own home, not joined (05 R254, 08 R326). -/
def ownSpace (s : State) (p tag : Nat) : Bool :=
  match s.spaceSlot tag with
  | some sl => s.rd XLT_SPACE_LO.HOME_PART sl == p && !s.on XLT_SPACE_LO.JOINED sl
  | none => false

/-- Whether a view's settings are valid (05 R254). -/
def viewOk (s : State) (p k : Nat) : Bool :=
  let sf := s.rd PRT_COR_CTL.SFMT p k
  let vf := s.rd PRT_COR_CTL.VFMT p k
  ownSpace s p (s.rd PRT_COR_STORE.SPACE p k) && (sf == 0 || sf == 1 || sf == 2 || sf == 12) && decide (vf ≤ 10) &&
  decide (fmtBits vf < fmtBits sf) && s.rd PRT_COR_CTL.LEN p k != 0

/-- A write to PRT_COR_CTL (05 R254). -/
def corCtlWrite (s : State) (p k v : Nat) (vf : Bool := false) : State :=
  let t := plainWrite s PRT_COR_CTL.reg p k 0 v vf
  if !s.on PRT_COR_CTL.EN p k && t.on PRT_COR_CTL.EN p k && !viewOk t p k then t.wr PRT_COR_CTL.EN 0 p k else t

/-- A write to PRT_SR_SEED: the generators start anew, so later draws are fresh ones (05 R230). -/
def seedWrite (s : State) (p v : Nat) (vf : Bool := false) : State := seedCells (plainWrite s PRT_SR_SEED.reg p 0 0 v vf) p

/-- A write to PRT_ARITH_STAT (05 R259). -/
def arithStatWrite (s : State) (p v : Nat) (vf : Bool := false) : State :=
  let t := plainWrite s PRT_ARITH_STAT.reg p 0 0 v vf
  if wrote PRT_ARITH_STAT.DESC_CLR v = 0 then t else t.wr PRT_ARITH_STAT.DESC_EXC 0 p

/-- A write to PRT_XLT_STAT_CLR (02 R128). -/
def xltStatClr (s : State) (p v : Nat) : State := if wrote PRT_XLT_STAT_CLR.CLEAR v = 0 then s else s.clrReg PRT_XLT_STAT.reg p

/-- A write to PRT_PROG_LOAD: CLEAR takes effect before GO (06 R283). -/
def progLoadWrite (s : State) (p v : Nat) (vf : Bool := false) : State :=
  let t := plainWrite s PRT_PROG_LOAD.reg p 0 0 v vf
  let t := if wrote PRT_PROG_LOAD.CLEAR v = 0 then t else progClear t p
  if wrote PRT_PROG_LOAD.GO v = 0 then t else loadGo t p

/-- Whether a region may be enabled (08 R326). -/
def regionOk (s : State) (p r : Nat) : Bool :=
  let g := s.rd PRT_RGN_CFG.SLOT_G p r
  ownSpace s p (s.rd PRT_RGN_CFG.SPACE p r) && decide (1 ≤ g) && decide (g ≤ 1024) &&
  decide (s.rd PRT_RGN_CFG.WIN_G p r + 4 * g ≤ 2 ^ 18)

/-- Whether a region may be retired: it has no live version but an empty current one (08 R326). -/
def regionIdle (s : State) (p r : Nat) : Bool :=
  (s.vers.filter fun v => v.1 / 4 == p * 1024 + r).all fun v => v.2.num == s.rd PRT_RGN_STAT.CURRENT p r && v.2.exts == []

/-- A write to PRT_RGN_CFG (08 R326). -/
def rgnCfgWrite (s : State) (p r v : Nat) (vf : Bool := false) : State :=
  let was := s.on PRT_RGN_CFG.EN p r
  let t := plainWrite s PRT_RGN_CFG.reg p r 0 v vf
  let en := t.on PRT_RGN_CFG.EN p r
  if !was && en && !regionOk t p r then t.wr PRT_RGN_CFG.EN 0 p r
  else if was && !en && !regionIdle s p r then t.wr PRT_RGN_CFG.EN 1 p r
  else t

/-- A write to PRT_RGN_CLR (08 R341). -/
def rgnClr (s : State) (p v : Nat) : State := if wrote PRT_RGN_CLR.CLEAR v = 0 then s else s.clrReg PRT_RGN_CNT.reg p

/-- A write to PRT_SYNC_CLR (07 R320). -/
def syncClr (s : State) (p v : Nat) : State :=
  if wrote PRT_SYNC_CLR.CLEAR v = 0 then s else (s.clrReg PRT_SYNC_STAT.reg p).clrReg PRT_SYNC_STAT2.reg p

/-- A write to PRT_SEC_CLR (14 R546). -/
def secClr (s : State) (p v : Nat) : State := if wrote PRT_SEC_CLR.CLEAR v = 0 then s else s.clrReg PRT_SEC_CNT.reg p

/-! ## Rings -/

/-- A write to RNG_CTL: STOP, or ENABLE 0 while 1, stops the ring with cause 1; ENABLE 0 to 1 starts it afresh
(03 R143, R144). A write of both STOP and ENABLE to a ring that is off changes nothing (log entry 17). -/
def rngCtlWrite (s : State) (r v : Nat) : State :=
  let en := decide (wrote RNG_CTL.ENABLE v ≠ 0)
  let stop := decide (wrote RNG_CTL.STOP v ≠ 0)
  if s.on RNG_CTL.ENABLE r then if stop || !en then stopRing s r 1 else s
  else if en && !stop then
    let t := (s.clrReg RNG_IDX.reg r).clrReg RNG_CPL_IDX.reg r
    let t := ((t.wr RNG_CTL.ENABLE 1 r).wr RNG_CTL.STOPPED 0 r).setRingX r freshRing
    { t with fetched := t.fetched.filter (fun f => f.1 / 2 ^ 32 != r), heldCpl := t.heldCpl.filter (·.ring != r) }
  else s

/-! ## Coherent domains -/

/-- A write to XLT_COH_CTL: EN 1 brings the domain UP when its set-up is valid, EN 0 tears an UP domain down with cause 4
(09 R344, R364). -/
def cohCtlWrite (s : State) (d v : Nat) : State :=
  let t := plainWrite s XLT_COH_CTL.reg d 0 0 v
  if t.on XLT_COH_CTL.EN d then domainUp t d
  else if cohUp t d then teardown t d 4 0x100
  else t

/-! ## Pool apertures -/

/-- An access of `n` lines at offset `off` of a window: what the window maps it to, when it is enabled and the access
covers whole lines of the window (03 R136, R138, 19 R655). A VF has one window. -/
def aptMap (s : State) (func win off n : Nat) : Option (Nat × Nat) :=
  let o := off % 2 ^ 32
  let ok := off % 64 == 0 && n != 0 && decide (o + n * 64 ≤ 2 ^ 32) && barsServed s
  if func = 0 then
    if ok && s.on XLT_APT_WIN.EN win then some (s.rd XLT_APT_WIN.SPACE win, s.rd XLT_APT_WIN.ADDR_HI win * 2 ^ 32 + o) else none
  else if ok && win == 0 && s.partOn (func - 1) && s.on PRT_APT_WIN.EN (func - 1) then
    some (s.rd PRT_APT_WIN.SPACE (func - 1), s.rd PRT_APT_WIN.ADDR_HI (func - 1) * 2 ^ 32 + o)
  else none

/-- Whether a function may name a space: a VF's partition must be its home or a span partition (02 R73). -/
def aptAllowed (s : State) (func tag : Nat) : Bool :=
  func == 0 || (match s.spaceSlot tag with
    | some sl => s.spaceAllows sl (func - 1)
    | none => false)

/-- The first requester that a fault record of an aperture access names: 03 R168 gives none, so it is a free value. -/
def aptFirst (s : State) : Nat := (Config.openValue s.fresh).toNat % 2 ^ 15

/-- A read of `n` lines through a pool aperture (03 R138). -/
def aptReadGo (s : State) (func win off n : Nat) : State :=
  match aptMap s func win off n with
  | none => s.emit (.hostReply func 1 [])
  | some (tag, a) =>
    if funcShut s func ∨ ¬ aptAllowed s func tag then s.emit (.hostReply func 2 [])
    else pump (admitReq s.tickFresh (64 + func * 16 + win) (mkPkt { opc := aptRead, src := aptFirst s, space := tag, addr := a, arg := n } []) n)

/-- A write of whole lines through a pool aperture (03 R138). -/
def aptWriteGo (s : State) (func win off : Nat) (data : List Byte) : State :=
  let n := data.length / 64
  match aptMap s func win off (if data.length % 64 = 0 then n else 0) with
  | none => s.emit (.hostReply func 1 [])
  | some (tag, a) =>
    if funcShut s func ∨ ¬ aptAllowed s func tag then aptDrop s func win
    else pump (admitReq s.tickFresh (64 + func * 16 + win) (mkPkt { opc := aptWrite, src := aptFirst s, space := tag, addr := a, len := n } data) n)

end Sys2Proof.Machine
end

