-- ==== Sys2Proof/Machine/Irq.lean ====
section
/-!
DEFINITION. Sys2Proof/Machine/Irq.lean: the interrupt controller's deliveries and registers (15 R563 to R568, R575) and
the MSI-X tables (03 R131, R132).
-/
namespace Sys2Proof.Machine

/-- The fabric time is at least `n`: a command that says a time has passed moves it there. -/
def timeAtLeast (s : State) (n : Nat) : State := if s.now < n then setTime s n else s

/-- MSI-X vectors of a function (03 R132). -/
def vecCount (func : Nat) : Nat := if func = 0 then 2048 else 64

def msixKey (func vec : Nat) : Nat := func * 2048 + vec

/-- COUNT and SAT of a source are set to zero (15 R566). -/
def irqZero (s : State) (src : Nat) : State := (s.wr IRQ_SRC_CNT.COUNT 0 src).wr IRQ_SRC_CNT.SAT 0 src

/-- Sends or pends an MSI-X message. -/
def msixSend (s : State) (func vec : Nat) : State :=
  if s.irq.unmasked.contains (msixKey func vec) then s.emit (.msix func vec)
  else { s with irq := { s.irq with msixPend := sput (msixKey func vec) s.irq.msixPend } }

/-- Whether a source's message can go out: a message that the host link cannot carry waits (log entry 18). -/
def irqCanGo (s : State) (src : Nat) : Bool :=
  s.rd IRQ_SRC_CFG.KIND src != 2 || canPost s (s.rd IRQ_SRC_CFG.FUNC src)

/-- Whether a source delivers, its MOD apart (15 R565). -/
def irqReady (s : State) (src : Nat) : Bool :=
  decide (32 ≤ src) && s.on IRQ_SRC_CFG.EN src && !s.on IRQ_SRC_CFG.MASK src && !s.on IRQ_SRC_CFG.BAD src &&
  irqTargetOk s src && s.rd IRQ_SRC_CNT.COUNT src != 0 && irqCanGo s src

/-- A source delivers to its target (15 R566). -/
def irqSend (s : State) (src : Nat) : State :=
  let k := s.rd IRQ_SRC_CFG.KIND src
  let s := { s with irq := { s.irq with lastAt := kput src s.now s.irq.lastAt } }
  if k = 1 then
    { s with irq := { s.irq with coreSig := sput (src * 8 + s.rd IRQ_SRC_CFG.CORE src) s.irq.coreSig } }
  else if k = 2 then irqZero (msixSend s (s.rd IRQ_SRC_CFG.FUNC src) (s.rd IRQ_SRC_CFG.VECTOR src)) src
  else if k = 3 then
    let o := s.rd IRQ_SRC_CFG.OWNER src
    let a1 := s.rd IRQ_SRC_CNT.COUNT src + s.rd IRQ_SRC_CNT.SAT src * 256
    irqZero (evRing s (s.rd IRQ_SRC_CFG.RING src) o 0x0D03 src a1 0) src
  else s

/-- A source whose MOD has passed delivers; one whose target breaks R564 is marked BAD (15 R564, R565). -/
def irqDeliver (s : State) (src : Nat) : State :=
  if src < 32 then s
  else if ¬ irqTargetOk s src then s.wr IRQ_SRC_CFG.BAD 1 src
  else if irqReady s src then
    irqSend (timeAtLeast s (kgetD 0 src s.irq.lastAt + s.rd IRQ_SRC_CFG.MOD src * 1000)) src
  else s

/-- Whether MOD has passed since a source's last delivery (15 R565). -/
def modPassed (s : State) (src : Nat) : Bool :=
  match kget src s.irq.lastAt with
  | some a => decide (a + s.rd IRQ_SRC_CFG.MOD src * 1000 ≤ s.now)
  | none => true

/-- A write to IRQ_SRC_CNT: ACK is subtracted, the core's signal ends, and the source delivers again once MOD lets it
(15 R565, R566, R575). -/
def irqAck (s : State) (src v : Nat) : State :=
  if src < 32 then s
  else
    let n := s.rd IRQ_SRC_CNT.COUNT src
    let m := n - min (wrote IRQ_SRC_CNT.ACK v) n
    let t := s.wr IRQ_SRC_CNT.COUNT m src
    let t := if m = 0 then t.wr IRQ_SRC_CNT.SAT 0 src else t
    let t := { t with irq := { t.irq with coreSig := t.irq.coreSig.filter (fun (x : Nat) => x / 8 != src) } }
    if s.rd IRQ_SRC_CFG.KIND src = 1 ∧ irqReady t src ∧ modPassed t src then irqSend t src else t

/-- A write to IRQ_SRC_CFG: BAD follows the target (15 R564). -/
def irqCfgWrite (s : State) (src v : Nat) : State :=
  if src < 32 then s
  else
    let t := plainWrite s IRQ_SRC_CFG.reg src 0 0 v
    t.wr IRQ_SRC_CFG.BAD (b2n (!irqTargetOk t src)) src

/-- A write to IRQ_STAT_CLR (15 R575). -/
def irqStatClr (s : State) (v : Nat) : State := if wrote IRQ_STAT_CLR.CLEAR v = 0 then s else s.clrReg IRQ_STAT.reg

/-- Unmasking an MSI-X vector sends its pending message (15 R566). -/
def msixUnmask (s : State) (func vec : Nat) : State :=
  if vecCount func ≤ vec then s
  else
    let k := msixKey func vec
    let t := { s with irq := { s.irq with unmasked := sput k s.irq.unmasked } }
    if t.irq.msixPend.contains k then { t with irq := { t.irq with msixPend := sdel k t.irq.msixPend } }.emit (.msix func vec)
    else t

/-- Word `w` of a vector's table entry: the message address, or its data with the mask bit in bit 32; a vector that is not
unmasked reads masked (03 R131, log entry 7). -/
def msixWord (s : State) (func vec w : Nat) : Nat :=
  let v := (kgetD 0 (msixKey func vec * 2 + w) s.irq.table).toNat
  if w = 0 then v else setFld v 32 1 (b2n (!s.irq.unmasked.contains (msixKey func vec)))

/-- A write of word `w` of a vector's table entry: 0 the message address, 1 its data with the mask bit in bit 32. -/
def msixWrite (s : State) (func vec w v : Nat) : State :=
  let t := { s with irq := { s.irq with table := kset 0 (msixKey func vec * 2 + w) (toW (if w = 0 then v else v % 2 ^ 33)) s.irq.table } }
  if w = 0 then t
  else if v.testBit 32 then { t with irq := { t.irq with unmasked := sdel (msixKey func vec) t.irq.unmasked } }
  else msixUnmask t func vec

/-- The offset of a function's MSI-X table (03 R131). -/
def msixBase (func : Nat) : Nat := if func = 0 then 0x03F00000 else 0x10000

/-- The vector and word that an offset of a function's BAR0 names in its MSI-X table. -/
def msixAt (func off : Nat) : Option (Nat × Nat) :=
  let b := msixBase func
  if b ≤ off ∧ off < b + vecCount func * 16 then some ((off - b) / 16, (off - b) / 8 % 2) else none

/-- A function's MSI-X table and pending bits return to their reset state: every vector masked (03 R133). -/
def msixReset (s : State) (func : Nat) : State :=
  let mine := fun (k : Nat) => k / 2048 == func
  { s with irq := { s.irq with
      unmasked := s.irq.unmasked.filter (fun k => !mine k)
      msixPend := s.irq.msixPend.filter (fun k => !mine k)
      table := s.irq.table.filter (fun e => !mine (e.1 / 2)) } }

end Sys2Proof.Machine
end

