-- ==== Sys2Proof/Machine/Scope.lean ====
section
/-!
DEFINITION. Sys2Proof/Machine/Scope.lean: what a scope holds, how Curfew absorbs it (16 R598), and what each kind of reset
clears in it (00 R21, R22, 01 R38, 16 R604).
-/
namespace Sys2Proof.Machine

/-! ## What a scope holds (01 R30) -/

/-- Enabled partitions that lie wholly in a scope. -/
def partsIn (s : State) (sc : Nat) : List Nat := (List.range 16).filter fun p => s.partOn p && scopeIn s (3 * 1024 + p) sc

/-- Slices that lie in a scope. -/
def slicesIn (s : State) (sc : Nat) : List Nat := (List.range 16).filter fun i => scopeIn s (2 * 1024 + i) sc

/-- Ring slots that are enabled and owned in a scope; PF0's rings belong to the pool. -/
def ringsIn (s : State) (sc : Nat) : List Nat :=
  let ps := partsIn s sc
  ringsWhere s fun r => s.on RNG_CTL.ENABLE r && (decide (sc / 1024 = 5) || ps.contains (ringOwner s r))

/-- The partition and slice that line `i` of a held request falls on. -/
def reqPlace (s : State) (r : HeldReq) (i : Nat) : Option (Nat × Nat) :=
  if pOpc r.pkt = 0x08 then (objPart s (pSync r.pkt)).map fun p => (p, pSync r.pkt / 4096 % 16)
  else
    let a := pAddr r.pkt + 64 * i
    r.look.map fun x => (s.spacePart x.1 a, s.homeSlice (s.spacePart x.1 a) a)

/-- Whether a held request still has work in a scope. -/
def reqIn (s : State) (sc : Nat) (r : HeldReq) : Bool :=
  decide (sc / 1024 = 5) || (List.range r.lines.length).any fun i =>
    match r.lines[i]? with
    | some (.wait _) => match reqPlace s r i with
      | some (p, sl) => scopeIn s (3 * 1024 + p) sc || scopeIn s (2 * 1024 + sl) sc
      | none => false
    | _ => false

/-- Whether a coherent transaction is open in a scope. -/
def cohIn (s : State) (sc : Nat) : Bool :=
  s.coh.dir.any fun e => e.2.tx.isSome && scopeIn s (3 * 1024 + s.rd XLT_COH_CFG.PART (domOf e.1)) sc

/-- Whether a channel of a scope is in a runtime retrain: Curfew waits for it (13 R514). -/
def retrainIn (s : State) (sc : Nat) : Bool :=
  (slicesIn s sc).any fun i => s.rd DDR_CTL.STATE (2 * i) == 3 || s.rd DDR_CTL.STATE (2 * i + 1) == 3

/-- Whether admitted work is left in a scope (16 R598 step 2). -/
def scopeBusy (s : State) (sc : Nat) : Bool :=
  let rs := ringsIn s sc
  s.started.any (fun x => rs.contains x.ring) || s.reqs.any (reqIn s sc) || s.loads.any (fun l => (partsIn s sc).contains l.1) ||
  cohIn s sc || retrainIn s sc

/-! ## Absorbing (16 R598 step 3) -/

/-- A held request ends: a packet request with ERROR_RESP cause 14, an aperture access as Completer Abort. -/
def absorbReq (s : State) (r : HeldReq) : State :=
  let t := dropReq s r.id
  if isApt r.pkt then answerApt t r.port r.pkt [.errL 14]
  else
    let p := match r.look with
      | some (_, p) => p
      | none => 16
    copyFail (sendErr t p r.pkt 14 0) r [.errL 14]

/-- The fault entries of a partition close without a record, and whoever they held ends with a reset error (02 R108). -/
def closeFaults (s : State) (p : Nat) : State :=
  (s.faults.filter (·.part == p)).foldl (fun t e => releaseHeld t p e.tag e.page (.errL 14) (.ends 0x0C)) s

/-- An open set, or a set being armed, of an object ends RESET, with its event except after a PART reset (07 R313, R318). -/
def resetSet (event : Bool) (s : State) (o : Nat) : State :=
  let t := match s.arming.find? (·.obj == o) with
    | some a => armEnds (armRelease s o) a 0x0C
    | none => s
  endSet t o 6 event event

/-- Extent work of a partition meets its reset: moves are abandoned, releases are absorbed and need wait for no token
(02 R123, R126). -/
def absorbExts (s : State) (p : Nat) : State :=
  (s.extents.filter fun e => e.2.part == p).foldl (fun t be =>
    match t.ext be.1 with
    | none => t
    | some e =>
      if e.st = .moving then abandonMove t be.1 e 0x0C
      else if e.st = .closing then scrubBegin t be.1 { e with absorbed := e.by_.isSome }
      else if e.st = .scrubbing then t.setExt be.1 { e with absorbed := e.by_.isSome }
      else t) s

/-- A Curfew of a partition absorbs the releases of its extents from its start (02 R123). -/
def absorbReleases (s : State) (p : Nat) : State :=
  { s with extents := s.extents.map fun be => if be.2.part = p ∧ (be.2.st = .closing ∨ be.2.st = .scrubbing) then
      (be.1, { be.2 with absorbed := be.2.by_.isSome }) else be }

/-- What is left in a scope is absorbed; the number of requests and descriptors that ended. -/
def absorb (s : State) (sc : Nat) : State × Nat :=
  let rs := ringsIn s sc
  let ps := partsIn s sc
  let mine := s.started.filter fun x => rs.contains x.ring
  let n := mine.length + (s.reqs.filter (reqIn s sc)).length
  let t := (s.reqs.filter (reqIn s sc)).foldl absorbReq s
  let t := rs.foldl (fun t r => resetRing t r 4) t
  let t := ps.foldl (fun t p => absorbExts (closeFaults t p) p) t
  let t := { t with loads := t.loads.filter (fun l => !ps.contains l.1) }
  (t, n)

/-! ## Curfew's last steps and what a scope loses -/

/-- The near store of a slice is written back and empty (04 R180, 16 R598 step 4). -/
def emptyNear (s : State) (sl : Nat) : State :=
  let t := (s.tier.near.filter fun n => n.2.slice == sl).foldl (fun t n => nearEvict t n.1) s
  { t with tier := { t.tier with near := t.tier.near.filter (fun n => n.2.slice != sl) } }

/-- Lines whose write-back still waits for their block when Curfew has ended cannot be written back: those that a slice
homes, or whose block it would have held, are poisoned (04 R180). -/
def poisonWbuf (s : State) (sl : Nat) : State :=
  let mine := fun (l : Nat) => match s.extentOfLine l with
    | some (_, e) => s.homeSlice e.part (l * 64) == sl || s.cacheChan e.part (l * 64) / 2 == sl
    | none => true
  let t := (s.tier.wbuf.filter mine).foldl State.poisonLine s
  { t with tier := { t.tier with wbuf := t.tier.wbuf.filter fun l => !mine l } }

/-- The MAC cache of a slice is written back and empty, and so is its tag cache (13 R491, 16 R602). -/
def emptyMacs (s : State) (sl : Nat) : State :=
  let t := (s.tier.macs.filter fun m => m.2.slice == sl).foldl (fun t m => macDrop t ((s.partOfSlice sl).getD 16 * 4 + 3) m.1 m.2) s
  { t with tier := { t.tier with tagLines := t.tier.tagLines.filter fun k => k.1 / 2 ^ 48 / 2 != sl } }

/-- The directory entries that a slice holds go; a line that still has an owner is poisoned (09 R365), and teardowns that
waited for them end. -/
def dropDir (s : State) (sl : Nat) : State :=
  let home := fun (e : Nat × DirEnt) =>
    match s.extentOfLine e.2.pl with
    | some (_, x) => s.homeSlice x.part (e.2.pl * 64) == sl
    | none => false
  let t := (s.coh.dir.filter home).foldl (fun t e =>
    delDir (if e.2.owner.isSome then cohPoison t (domOf e.1) e.2.pl else t) e.1) s
  (s.coh.down.map (·.1)).foldl teardownDone t

/-- A slice's cached state goes: near store, directory entries, translation copies, counts (16 R602). -/
def dropCached (s : State) (sl : Nat) : State :=
  let t := emptyMacs (poisonWbuf (dropDir (emptyNear s sl) sl) sl) sl
  let blk := fun (b : Nat × Blk) => if b.2.ch / 2 = sl then (b.1, { b.2 with cnt := 0 }) else b
  tierStats { t with copies := t.copies.filter (fun c => c.slice != sl)
                     tier := { t.tier with pageCnt := t.tier.pageCnt.filter (fun c => c.1 % 16 != sl)
                                           blocks := t.tier.blocks.map blk } }

/-- The DIMMs of a slice's channels in service go into self-refresh (13 R513). -/
def restSlice (s : State) (sl : Nat) : State :=
  [2 * sl, 2 * sl + 1].foldl (fun t c =>
    let st := t.rd DDR_CTL.STATE c
    if 2 ≤ st ∧ st ≤ 4 then
      (t.setChanX c { t.chanX c with inWin := false, winDue := false, retrain := 0, holdDue := false, rows := [] }).wr DDR_CTL.STATE 5 c
    else t) s

/-- A slice's channels leave self-refresh and take a quiet window before they serve (13 R513). A slice in no partition
stays in self-refresh (01 R31). -/
def wakeSlice (s : State) (sl : Nat) : State :=
  if (s.partOfSlice sl).isNone then s
  else
    let back := fun (t : State) (c : Nat) => if t.rd DDR_CTL.STATE c = 5 then windowDue (t.wr DDR_CTL.STATE 2 c) c else t
    back (back s (2 * sl)) (2 * sl + 1)

/-- The channel engines of a slice start anew: their queues, counts and windows are empty and a new scrub lap begins at offset
0. What the DIMMs hold, and what training and the SPD hubs said, stays (01 R38, 13 R508, R513). -/
def resetChans (s : State) (sl : Nat) : State :=
  [2 * sl, 2 * sl + 1].foldl (fun t c =>
    let x := t.chanX c
    let t := t.setChanX c { emptyChan with errs := x.errs, rdRem := x.rdRem, wrRem := x.wrRem, actRem := x.actRem,
                                           dead := x.dead, dimms := x.dimms, rearm := x.rearm, lapAt := t.now }
    (t.wr DDR_SCRUB_STAT.PROGRESS 0 c).wr DDR_SCRUB_STAT.SLOW 0 c) s

/-- The fault entries that a slice coalesces close with it, as at a PART reset (02 R108; log entry 65). -/
def closeFaultsAt (s : State) (sl : Nat) : State :=
  (s.faults.filter (·.slice == sl)).foldl (fun t e => releaseHeld t e.part e.tag e.page (.errL 14) (.ends 0x0C)) s

/-- Objects of a slice that are not FREE. -/
def liveObjs (s : State) (sl : Nat) : List Nat :=
  (List.range 4096).filter fun o => oType (objW1 s (sl * 4096 + o)) != 0

/-- Open sets that hold accumulator lines on a slice. -/
def setsOn (s : State) (sl : Nat) : List Nat :=
  (s.sets.filter fun x => s.tier.near.any fun n => decide (2 ^ 60 ≤ n.1) && (n.1 - 2 ^ 60) / 2 ^ 32 == x.1 && n.2.slice == sl).map (·.1)

/-- Every sync object of a slice becomes FREE, with its sets ended RESET and its waits ended "reset" (07 R318). The
slice's answer cache is empty. -/
def freeObjs (event : Bool) (s : State) (sl : Nat) : State :=
  let mine := fun (o : Nat) => o / 4096 == sl
  let t := ((s.sets.map (·.1)).filter mine ++ (s.arming.map (·.obj)).filter mine).foldl (resetSet event) s
  let waits := (t.started.filter fun d => decide (d.aux ≠ []) && isWaitOn (nthN d.aux 0) d && mine (nthN d.aux 0)).map fun d => nthN d.aux 0
  let t := waits.foldl (fun t o => wakeWaits t o true) t
  let objs := t.regs.filter fun e => !(decide (SLC_SYNC_OBJ_LO.reg.base + sl * 0x20000 ≤ e.1) &&
    decide (e.1 < SLC_SYNC_OBJ_LO.reg.base + sl * 0x20000 + 0x10000))
  { t with regs := objs, oldSets := t.oldSets.filter (fun x => !mine x.1),
           answers := t.answers.filter (fun a => a.1 / 2 ^ 47 != sl) }

/-- Pin counts of a partition's regions become zero, on the regions that `f` picks; the regions affected and the pins
dropped (08 R339). -/
def dropRegionPins (s : State) (p : Nat) (f : Nat → Bool) : State × Nat × Nat :=
  let mine := s.vers.filter fun v => v.1 / 4096 == p && f (v.1 / 4 % 1024) && v.2.pins != 0
  let rs := mine.foldl (fun l v => sput (v.1 / 4 % 1024) l) []
  let t := { s with vers := s.vers.map (fun v => if v.1 / 4096 = p ∧ f (v.1 / 4 % 1024) then (v.1, { v.2 with pins := 0 }) else v) }
  (rs.foldl (fun t r => rgnStat t p r) t, rs.length, mine.foldl (fun n v => n + v.2.pins) 0)

/-- Superseded versions without pins are released (08 R337, R339). -/
def releaseOld (s : State) (p : Nat) (f : Nat → Bool) : State :=
  (s.vers.filter fun v => v.1 / 4096 == p && f (v.1 / 4 % 1024) && v.2.pins == 0).foldl (fun t v =>
    let r := v.1 / 4 % 1024
    if v.2.num = rgnCurrent t p r then t else verRelease t p r v.2.num) s

/-- The region's home slice (08 R322). -/
def regionHome (s : State) (p r : Nat) : Nat :=
  let sl := s.slicesOf p
  nthN sl (r % atLeast1 sl.length)

/-! ## Register fields (00 R21, R22) -/

/-- How strong a "Cleared by" entry is: the weakest reset that clears the field. -/
def Clr.rank : Clr → Nat
  | .power => 1 | .cold => 2 | .warm => 3 | .pool => 4 | .ward => 5 | .part => 6 | .never => 0

/-- Fields of listed registers that a test picks return to their reset values. -/
def clearRegs (s : State) (f : RegAt → FldRow → Bool) : State :=
  { s with regs := s.regs.filterMap (fun e =>
      match findReg e.1 with
      | none => some e
      | some a =>
        let rv := a.row.reg.rvAt a.i
        let v := a.row.flds.foldl (fun v x => if f a x then setFld v x.lo x.w (fld rv x.lo x.w) else v) e.2.toNat
        if v = rv then none else some (e.1, toW v)) }

/-- Whether an instance of a register belongs to the partitions and slices given. -/
def regIn (s : State) (ps sls : List Nat) (a : RegAt) : Bool :=
  match a.row.scope with
  | .prt => ps.contains a.i
  | .rng => ps.contains (ringOwner s a.i)
  | .slc => sls.contains a.i
  | .ddr => sls.contains (a.i / 2)
  | _ => false

/-- What training found of a channel, marked "meas" in DDR_CTL: it lasts as long as training results do (13 R513, R516). -/
def chanMeas (a : RegAt) (x : FldRow) : Bool := a.is DDR_CTL.reg && decide (8 ≤ x.lo) && x.lo != DDR_CTL.LOSS_CAUSE.lo

/-- Whether a ward's shared registers include an instance. -/
def regInWard (w : Nat) (a : RegAt) : Bool :=
  match a.row.scope with
  | .nvm => a.i / 4 == w
  | .ddr => a.i / 8 == w
  | .flt => a.i == w
  | .slc => a.i / 4 == w
  | _ => false

/-- A PART reset of partition `p` clears its fields (00 R22). -/
def clearPart (s : State) (p : Nat) : State :=
  let sls := s.slicesOf p
  clearRegs s fun a x => x.clr == .part && regIn s [p] sls a

/-- What a WARD reset clears beside the PART resets (16 R596). Channels keep what they measured (13 R513). -/
def clearWard (s : State) (w : Nat) : State := 
  clearRegs s fun a x => decide (5 ≤ x.clr.rank) && regInWard w a && !chanMeas a x

/-! ## Resets of scopes in the pool (01 R38, 16 R594, R604) -/

/-- The PART reset of a partition, once Curfew has drained or absorbed its traffic. -/
def partReset (s : State) (p : Nat) : State :=
  let sls := s.slicesOf p
  let t := (sls.foldl (fun t sl => resetChans (restSlice (dropCached (freeObjs false t sl) sl) sl) sl) s)
  let t := (dropRegionPins t p fun _ => true).1
  let owned := fun (r : Nat) => ringOwner t r == p
  let t := { t with
    tier := { t.tier with pins := t.tier.pins.filter (fun r => r.part != p)
                          attrs := t.tier.attrs.filter (fun a => a.2.part != p) }
    rings := t.rings.filter (fun r => !owned r.1)
    fetched := t.fetched.filter (fun f => !owned (f.1 / 2 ^ 32))
    heldCpl := t.heldCpl.filter (fun h => !owned h.ring)
    progs := t.progs.filter (fun g => g.1 / 256 != p)
    cells := t.cells.filter (fun c => t.partOfSlice (c.1 / 17) != some p)
    keys := { t.keys with lastMacEvt := t.keys.lastMacEvt.filter (fun e => e.1 != p) } }
  seedCells (clearPart t p) p

/-- The first region that slice `sl` is home of. -/
def firstRegion (s : State) (p sl : Nat) : Nat := ((s.slicesOf p).idxOf? sl).getD 0

/-- The SLICE reset of a slice: its objects are lost, its regions' pins dropped, its domains torn down (07 R318, 08 R339,
09 R364). -/
def sliceReset (s : State) (sl : Nat) : State :=
  let objs := liveObjs s sl
  let sets := setsOn s sl
  let t := sets.foldl (resetSet true) s
  let t := closeFaultsAt (resetChans (restSlice (dropCached (freeObjs true t sl) sl) sl) sl) sl
  match t.partOfSlice sl with
  | none => t
  | some p =>
    let t := evPart t p 0x0505 (sl * 4096) objs.length sets.length
    let (t, n, pins) := dropRegionPins t p fun r => regionHome t p r == sl
    evPart t p 0x0603 (firstRegion t p sl) n pins

/-- Commands of a drive that a reset of its root port drops: fills go, group write-backs start anew (04 R206, R208). -/
def driveDrop (s : State) (d : Nat) : State :=
  let on := fun (b : Nat) => driveOf s b == some d
  let keep := s.tier.blocks.filter fun b => !(on b.1 && b.2.filling)
  let idle := fun (b : Nat × Blk) => if on b.1 then (b.1, { b.2 with wb := false }) else b
  let t := { s with tier := { s.tier with blocks := keep.map idle } }
  movesEnd (t.setDriveX d { emptyDrive with nextId := (s.driveX d).nextId }) on

/-- The WARD reset of a ward: its partitions, then its shared resources, its Watch and link crypto among them (01 R38, 16
R596). Drives are flushed first (04 R208). -/
def wardReset (s : State) (w : Nat) : State :=
  let ds := (List.range 4).map (4 * w + ·)
  let t := ds.foldl flushDrive s
  let t := (partsIn t (4 * 1024 + w)).foldl partReset t
  let t := ds.foldl driveDrop t
  let t := { t with watch := { t.watch with ceWin := kdel w t.watch.ceWin, ceSent := sdel w t.watch.ceSent }
                    start := { t.start with noCrypto := sdel w t.start.noCrypto } }
  floorSync (clearWard t w)

end Sys2Proof.Machine
end

