-- ==== Sys2Proof/Machine/Tally.lean ====
section
/-!
DEFINITION. Sys2Proof/Machine/Tally.lean: the Tally (16 R589 to R593, R605): records of starts, their persistent copy in the
SPI NOR, and the start events that the current record holds.
-/
namespace Sys2Proof.Machine

/-! ## Records and entries (16 R590, R591) -/

/-- A field of header word `w` of record `r`. -/
def hdrFld (s : State) (r w lo n : Nat) : Nat := fld (s.rdReg CHIP_TALLY_HDR.reg r w 0) lo n

def setHdr (s : State) (w lo n v : Nat) : State :=
  s.wrReg CHIP_TALLY_HDR.reg 0 w 0 (setFld (s.rdReg CHIP_TALLY_HDR.reg 0 w 0) lo n v)

/-- The entries of record `r`. -/
def entriesOf (s : State) (r : Nat) : List Nat :=
  (List.range (hdrFld s r 0 40 8)).map fun e => s.rdReg CHIP_TALLY_ENT.reg r e 0

def entStep (e : Nat) : Nat := fld e 0 8
def entInst (e : Nat) : Nat := fld e 8 8
def entOutcome (e : Nat) : Nat := fld e 16 3
def entNext (e : Nat) : Nat := fld e 23 4

/-- What record `r` chose for a step and instance for the next start; the default, 0, where it has no such entry. -/
def nextOf (s : State) (r step inst : Nat) : Nat :=
  (((entriesOf s r).find? fun e => entStep e == step && entInst e == inst).map entNext).getD 0

/-- Brings SUPPLY_CLEAN, CLEAN and CRC of the newest record up to date: the record has been written (16 R590). -/
def sealRec (s : State) : State :=
  let t := setHdr s 0 36 1 (s.rd AON_HOLD.SUPPLY_CLEAN)
  let es := entriesOf t 0
  let t := setHdr t 0 48 1 (b2n (es.all fun e => [1, 4, 5, 6].contains (entOutcome e)))
  let ws := (List.range 3).map (fun w => t.rdReg CHIP_TALLY_HDR.reg 0 w 0) ++ es
  setHdr t 3 0 32 (crc32 (ws.flatMap fun w => leBytes 8 w))

/-- Events of group 0x0E go to PF0's event ring, and the ready entry holds their codes as a bitmap (16 R592, R605). -/
def evStart (s : State) (code a0 a1 a2 : Nat) : State :=
  let t := evPf0 s code a0 a1 a2
  let h := t.start.held ||| 2 ^ (code % 16)
  let t := { t with start := { t.start with held := h } }
  match (List.range (hdrFld t 0 0 40 8)).find? fun i => entStep (t.rdReg CHIP_TALLY_ENT.reg 0 i 0) == 0x0C with
  | some i => sealRec (t.wrReg CHIP_TALLY_ENT.reg 0 i 0 (setFld (t.rdReg CHIP_TALLY_ENT.reg 0 i 0) 32 16 h))
  | none => t

/-- Adds an entry to the newest record: its time is that since the step began. A failure or a time-out writes event 0x0E07. -/
def tallyEntry (s : State) (step inst outcome alt next detail : Nat) : State :=
  let n := hdrFld s 0 0 40 8
  if 128 ≤ n then s
  else
    let ms := min 65535 ((s.rd AON_TIME.TIME - s.start.stepAt) / 1000)
    let e := step + inst * 2 ^ 8 + outcome * 2 ^ 16 + alt % 16 * 2 ^ 19 + next % 16 * 2 ^ 23 + detail % 65536 * 2 ^ 32 + ms * 2 ^ 48
    let t := sealRec (setHdr (s.wrReg CHIP_TALLY_ENT.reg 0 n 0 e) 0 40 8 (n + 1))
    if outcome = 2 ∨ outcome = 3 then evStart t 0x0E07 (t.rd CHIP_START.START_NO) e 0 else t

/-- How the newest record ends: RESULT and CAUSE. -/
def endRec (s : State) (result cause : Nat) : State := sealRec (setHdr (setHdr s 0 37 3 result) 2 32 8 cause)

/-! ## Shifting and copies (16 R589) -/

def tallyLo : Nat := 0x2000
def tallyHi : Nat := 0xA000
def inTally (a : Nat) : Bool := decide (tallyLo ≤ a) && decide (a < tallyHi)

/-- Makes room for a new record: every record becomes one older, and the sixteenth goes. -/
def tallyShift (s : State) : State :=
  { s with regs := s.regs.filterMap (fun e =>
      if inTally e.1 then if e.1 + 0x800 < tallyHi then some (e.1 + 0x800, e.2) else none else some e) }

/-- Writes the persistent copy to the bank with the older sequence number. Whether the SPI NOR takes it is open: a write that
fails leaves the other bank intact, and event 0x0E08 (16 R589, log entry 20). -/
def tallyCopy (s : State) : State :=
  let rs := s.regs.filter fun e => inTally e.1
  let sq := fun (b : Option (Nat × List (Nat × Word))) => ((b.map (fun (x : Nat × List (Nat × Word)) => x.1)).getD 0 : Nat)
  let a : Nat := sq s.start.bankA
  let b : Nat := sq s.start.bankB
  let fails := Config.spiFails s.fresh
  let copy := if fails then none else some (max a b + 1, rs)
  let t := if a ≤ b then { s.tickFresh with start := { s.start with bankA := copy } }
    else { s.tickFresh with start := { s.start with bankB := copy } }
  if fails then evStart t 0x0E08 1 (b2n (decide (b < a))) 0 else t.emit (.board 0 [max a b + 1])

/-- The bank with the newer sequence number. -/
def newerBank (s : State) : Option (Nat × List (Nat × Word)) :=
  match s.start.bankA, s.start.bankB with
  | some a, some b => if b.1 < a.1 then some a else some b
  | some a, none => some a
  | none, b => b

/-- The boot ROM restores the Tally behind the record of this start, which takes its number; step-downs and strikes are what
the newest record chose. With no valid bank, event 0x0E08 is held (16 R589, R592). -/
def tallyRestore (s : State) : State :=
  match newerBank s with
  | none => evStart s 0x0E08 0 0 0
  | some (_, rs) =>
    let t := rs.foldl (fun t e => if e.1 + 0x800 < tallyHi then { t with regs := kput (e.1 + 0x800) e.2 t.regs } else t) s
    let no := (hdrFld t 1 0 0 32 + 1) % 2 ^ 32
    let t := (setHdr t 0 0 32 no).wr CHIP_START.START_NO no
    let t := (List.range 32).foldl (fun t c => t.wr DDR_CTL.STEPDOWN (nextOf t 1 0x06 c) c) t
    sealRec ((List.range 32).foldl (fun t n => t.wr PORT_STATUS.STRIKES (min 2 (nextOf t 1 0x07 n)) n) t)

/-- TALLY_FORGET: every NEXT of the newest record takes its default, and the copy is written (16 R593). -/
def tallyForget (s : State) : State :=
  tallyCopy (sealRec ((List.range (hdrFld s 0 0 40 8)).foldl (fun t i =>
    t.wrReg CHIP_TALLY_ENT.reg 0 i 0 (setFld (t.rdReg CHIP_TALLY_ENT.reg 0 i 0) 23 4 0)) s))

end Sys2Proof.Machine
end

