-- ==== Sys2Proof/Machine/Start.lean ====
section
/-!
DEFINITION. Sys2Proof/Machine/Start.lean: what a chip-wide reset clears (16 R604) and the steps of a start (16 R576 to R588).
-/
namespace Sys2Proof.Machine

/-! ## What a chip-wide reset clears (00 R21, 16 R604) -/

/-- Whether a reset of `kind` (0 POWER, 1 COLD, 2 WARM, 3 POOL, 4 DEEP exit, which acts as COLD) clears a field. Channels
in service keep what they measured through WARM and POOL (13 R513). -/
def clears (s : State) (kind : Nat) (a : RegAt) (x : FldRow) : Bool :=
  let k := if kind = 4 then 1 else kind
  let kept := decide (2 ≤ k) && chanMeas a x && chanInService s a.i
  decide (k + 1 ≤ x.clr.rank) && !kept

/-- Keys, sessions and the identity key that a chip-wide reset keeps: link and memory keys go at POOL, sessions, IDE streams
and measurements at WARM, the nonce at POWER (14 R532, R537, R540, R544). -/
def keptKeys (s : State) (k : Nat) : Keys :=
  { State.reset.keys with
    identity := k = 0 || s.keys.identity
    nonce := if k = 0 then none else s.keys.nonce
    sess := if k = 3 then s.keys.sess else []
    spdm := if k = 3 then s.keys.spdm else 0
    ide := if k = 3 then s.keys.ide else []
    meas := if k = 3 then s.keys.meas else [] }

/-- Every unit returns to its reset state, but for what 16 R604 keeps. The commands that wait, what has gone out, and
the model's counters stay. -/
def clearedChip (s : State) (kind : Nat) : State :=
  let k := if kind = 4 then 1 else kind
  let z := State.reset
  let regs := (clearRegs s (clears s kind)).regs
  let chan := fun (c : Nat × ChanX) =>
    (c.1, { emptyChan with dead := c.2.dead, dimms := if 2 ≤ k ∧ chanInService s c.1 then c.2.dimms else none })
  let cell := fun (c : Nat) => s.watch.masked.contains c
  { z with
    pending := s.pending
    regs := regs
    out := s.out
    fresh := s.fresh
    nextReq := s.nextReq
    keys := keptKeys s k
    chans := if k = 0 then [] else (s.chans.map chan).filter fun c => c.2 != emptyChan
    watch := { z.watch with nextRec := s.watch.nextRec
                            masked := if k = 0 then [] else s.watch.masked
                            retired := if k = 0 then [] else s.watch.retired.filter cell }
    ctl := { z.ctl with hostUp := decide (k = 3) && s.ctl.hostUp
                        bme := if k ≤ 1 then z.ctl.bme else s.ctl.bme
                        low := s.ctl.low
                        wardPop := s.ctl.wardPop
                        bootSrc := s.ctl.bootSrc
                        homeElder := s.ctl.homeElder
                        floorMode := s.ctl.floorMode
                        tap := s.ctl.tap }
    start := { s.start with pend := if k = 0 then [] else s.start.pend }
    pwr := { z.pwr with outs := if k = 0 then [] else s.pwr.outs } }

/-- The links, the ports and the interrupt tables that a POOL reset keeps too (16 R604). -/
def keptPorts (s t : State) : State :=
  { t with
    ports := s.ports
    links := s.links
    xrd := { s.xrd with own := [], seqs := s.xrd.seqs.filter fun q => decide (q.1 < 2 ^ 16) }
    pwr := s.pwr
    irq := { State.reset.irq with table := s.irq.table, unmasked := s.irq.unmasked, msixPend := s.irq.msixPend } }

/-- Channels that were in service in `s` are in self-refresh. -/
def restChans (s t : State) : State :=
  (List.range 32).foldl (fun t c => if chanInService s c then t.wr DDR_CTL.STATE 5 c else t) t

/-- Every unit returns to its reset state, but for what 16 R604 keeps. -/
def chipClear (s : State) (kind : Nat) : State :=
  if kind = 3 then restChans s (keptPorts s (clearedChip s kind))
  else (List.range 32).foldl (fun t c => if chanInService t c then t.wr DDR_CTL.STATE 5 c else t) (clearedChip s kind)

/-! ## Ways a start stops (16 R577, R580) -/

def leaveStep (s : State) : State := { s with start := { s.start with step := 0 } }

/-- Held in reset with a cause (16 R580). -/
def startHold (s : State) (cause : Nat) : State := endRec (s.wr AON_HOLD.HOLD_CAUSE cause) 3 cause

/-- Every port is off: the link layer and Crossroads are in reset. -/
def portsOff (s : State) : State :=
  let t := (List.range 32).foldl (fun t n => if t.rd PORT_STATUS.STATE n = 0 then t else t.wr PORT_STATUS.STATE 0 n) s
  { t with ports := [], links := [], xrd := State.reset.xrd }

/-- The chip enters SAFE (16 R580): event 0x0E02 is held, and the Tally's copy is written. -/
def toSafe (s : State) (cause result detail : Nat) : State :=
  let t := (s.wr CHIP_START.PHASE 7).wr CHIP_START.SAFE_CAUSE cause
  let t := evStart (leaveStep t) 0x0E02 (t.rd CHIP_START.START_NO) cause detail
  let t := tallyEntry t 0x0C 0 0 0 0 t.start.held
  floorSync (portsOff { (tallyCopy (endRec t result cause)).wr CHIP_RST_STAT.BUSY 0 with ctl := { t.ctl with rsts := [], closed := [] } })

/-! ## Steps -/

def phase (s : State) (p : Nat) : State := s.wr CHIP_START.PHASE p

/-- Step `k` begins now. -/
def stepAt (s : State) (k : Nat) : State := { s with start := { s.start with step := k, stepAt := s.rd AON_TIME.TIME } }

/-- Populated wards. -/
def wardsIn (s : State) : List Nat := bitsSet 4 (s.rd CHIP_STRAP.WARD_POP)

/-- Units of the wards that are populated: `k` in each ward. -/
def unitsIn (s : State) (k : Nat) : List Nat := (wardsIn s).flatMap fun w => (List.range k).map (k * w + ·)

/-- Lantern samples the straps (16 R579). -/
def sampleStraps (s : State) : State :=
  let c := s.ctl
  let t := ((s.wr CHIP_STRAP.WARD_POP c.wardPop).wr CHIP_STRAP.BOOT_SRC c.bootSrc).wr CHIP_STRAP.HOME_ELDER c.homeElder
  let t := (t.wr CHIP_STRAP.FLOOR_MODE c.floorMode).wr AON_HOLD.WARD_POP c.wardPop
  let t := ((t.wr AON_HOLD.BOOT_SRC c.bootSrc).wr AON_HOLD.HOME_ELDER c.homeElder).wr AON_HOLD.FLOOR_MODE c.floorMode
  let t := (List.range 4).foldl (fun t w => t.wr CHIP_FLOOR_WARD.POP (b2n (c.wardPop.testBit w)) w) t
  t.wr AON_HOLD.STRAP_BAD (b2n (c.wardPop % 16 == 0 || c.bootSrc == 3))

/-- Supplies out of range that step 2 checks: those of unpopulated wards are not checked (16 R578). -/
def suppliesBad (s : State) : List Nat :=
  s.pwr.outs.filter fun r => !((decide (r < 4) && !(s.rd CHIP_STRAP.WARD_POP).testBit r) ||
    (decide (5 ≤ r) && decide (r ≤ 8) && !(s.rd CHIP_STRAP.WARD_POP).testBit (r - 5)))

/-- What holds the chip in step 2, if anything does (16 R578, R580). -/
def holdCause (s : State) : Nat :=
  if s.on AON_HOLD.STRAP_BAD then 3 else if suppliesBad s ≠ [] then 1 else if s.rd AON_HOLD.CLOCK_BAD ≠ 0 then 2 else 0

/-- Step 5 begins: both Elders run the boot ROM's self-check with claims 0, the Tally is restored after POWER, and the source
of Rinide is chosen (16 R581, 17 R617). An Elder that failed power-on self-test is out with code 1. -/
def begin5 (s : State) : State :=
  let s := stepAt (phase s 2) 5
  let t : State := { s with eld := { State.reset.eld with trigger := 3, frozenAt := s.now } }
  let bad := fun (u : Nat) => t.start.found.contains (10 + 16 * u)
  let t := (t.wr ELD_STAT.STATE_A (if bad 0 then 6 else 1)).wr ELD_STAT.STATE_B (if bad 1 then 6 else 1)
  let t := (t.wr ELD_STAT.CHECK_A (b2n (bad 0))).wr ELD_STAT.CHECK_B (b2n (bad 1))
  let codes := (if bad 0 then [(0, 1)] else []) ++ (if bad 1 then [(1, 1)] else [])
  let t : State := { t with eld := { t.eld with codes := codes } }
  let t := if t.start.kind = 0 then tallyRestore t else t
  let src := t.rd CHIP_STRAP.BOOT_SRC
  let host := src == 1 || (src == 0 && nextOf t 1 0x03 0 == 1)
  let t : State := { t with start := { t.start with host := host, loaded := false } }
  if host then t.wr CHIP_RECOVERY_CTL.RSTAT 1 else t

/-- A ward whose supply is still out of range stays held in reset through a POOL start, which has no step 2 (01 R35). -/
def heldWards (s : State) : State :=
  (List.range 4).foldl (fun t w => if s.pwr.outs.contains w ∨ s.pwr.outs.contains (5 + w) then t.wr CHIP_FLOOR_WARD.HELD 1 w else t) s

/-- A start of a kind begins (16 R576, R588, R590): the record before it ends if it was still running, a new one is begun,
and SUPPLY_CLEAN is set again. -/
def startBegin (s : State) (kind : Nat) : State :=
  let ready := hdrFld s 0 0 37 3 == 1 && hdrFld s 0 0 48 1 == 1 && s.on AON_HOLD.SUPPLY_CLEAN
  let no := (s.rd CHIP_START.START_NO + 1) % 2 ^ 32
  let t := if s.rd CHIP_START.START_NO ≠ 0 ∧ hdrFld s 0 0 37 3 = 0 then endRec s 4 0 else s
  let now := t.rd AON_TIME.TIME
  let t := (tallyShift t).wr CHIP_START.START_NO no
  let t := ((t.wr AON_HOLD.SUPPLY_CLEAN 1).wr AON_HOLD.HOLD_CAUSE 0).wr AON_HOLD.DEEP_READY 0
  let t := (sealRec (setHdr (setHdr (setHdr t 0 0 32 no) 0 32 3 kind) 1 0 64 now)).wr CHIP_RST_STAT.BUSY 1
  let warm := kind == 2 || kind == 3
  let t := { t with
    start := { t.start with kind := kind, t0 := now, stepAt := now, lastClean := ready, fast := false, host := false,
                            found := if warm then t.start.found else [], noCrypto := [], loaded := false, held := 0 }
    ctl := { t.ctl with closed := sput (5 * 1024) t.ctl.closed } }
  if kind = 3 then begin5 (tallyEntry (tallyEntry (heldWards t) 0x01 0 6 0 0 0) 0x02 0 6 0 0 0)
  else
    let t := sampleStraps (stepAt t 2)
    if holdCause t = 0 then t else startHold t (holdCause t)

/-- Step 2 ends once every precondition has held for 10 ms (16 R576, R578). -/
def preconditions (s : State) : State :=
  let s' := s.wr AON_HOLD.CLOCK_BAD 0
  if s.start.step ≠ 2 ∨ s.ctl.low % 4 ≠ 0 ∨ holdCause s' ≠ 0 then s
  else
    let t := tallyEntry (endRec (s'.wr AON_HOLD.HOLD_CAUSE 0) 0 0) 0x01 0 1 0 0 0
    if t.start.kind = 2 then begin5 (tallyEntry t 0x02 0 6 0 0 0) else stepAt (phase t 1) 3

/-- The unit that a report names first, as DETAIL of step 0x02. -/
def badDetail (bad : List Nat) : Nat := bad.headD 0 % 2 ^ 13

def hasKind (bad ks : List Nat) : Bool := bad.any fun u => ks.contains (u % 16)

/-- Slices that a failing unit hides for its pipelines, as kind 7 units (16 R585). -/
def hidden (u : Nat) : List Nat :=
  let i := u / 16 % 512
  if u % 16 = 1 ∨ u % 16 = 7 then [7 + 16 * i] else if u % 16 = 14 then (List.range 4).map fun k => 7 + 16 * (4 * i + k) else []

/-- A unit outside the pool-level ones is out of service for this start (16 R583, R587). -/
def startUnitOut (s : State) (u : Nat) : State :=
  let i := u / 16 % 512
  let k := u % 16
  let found := fun (t : State) (l : List Nat) => { t with start := { t.start with found := t.start.found ++ l } }
  if k = 0 then found s [u % 2 ^ 13]
  else if k = 1 ∨ k = 7 ∨ k = 14 then found s (hidden u)
  else if k = 2 then channelLost s i 8
  else if k = 3 then found s [3 + 16 * i + 15 * 2 ^ 13]
  else if k = 5 then evPf0 ((s.wr NVM_CTL.STATE 3 i).wr NVM_CTL.LOSS_CAUSE 6 i) 0x0301 i 6 0
  else if k = 8 then { s with start := { s.start with noCrypto := sput i s.start.noCrypto } }
  else s

/-- Step 3 has ended: the key store is zeroised, and failing units are sorted by what they are needed for (16 R576, R580,
14 R542). -/
def selfTested (s : State) (ok : Bool) (bad : List Nat) : State :=
  let t := { s with keys := { s.keys with mem := [], link := [] } }
  let outcome := if ok ∧ bad = [] then 1 else 2
  let t := tallyEntry t 0x02 0 outcome 0 0 (badDetail bad)
  let needed := (!ok && bad.isEmpty) || hasKind bad [13, 15] || bad.any fun u => u % 16 == 12 && u / 16 == 4
  if needed then leaveStep (startHold t 4)
  else if hasKind bad [9, 6, 11, 4] then toSafe t 4 2 (badDetail bad)
  else if bad.contains (10 + 16 * 0) ∧ bad.contains (10 + 16 * 1) then toSafe t 3 2 (badDetail bad)
  else begin5 { t with start := { t.start with found := bad } }

/-! ## Firmware (16 R581, R582, 14 R535, R536) -/

/-- Whether the boot ROM accepts an image: `ok` says that its header, digests and signature hold. -/
def imageOk (s : State) (ok : Bool) (svn keysel : Nat) : Bool :=
  ok && decide (s.rd SEC_FW.SVN_FUSED ≤ svn) && decide (svn ≤ 64) && decide (keysel ≤ 2) && !(s.rd SEC_FW.REVOKED).testBit keysel

/-- The floor table that step 6 leaves (16 R585, 19 R665, R666). -/
def cellsGood (s : State) (i : Nat) : Nat :=
  17 - ((List.range 17).filter fun k =>
    (defects s).contains (16 * (17 * i + k)) || s.watch.retired.contains (17 * i + k)).length

def banksBad (s : State) (i : Nat) : Nat := min 17 ((defects s).filter (· == 1 + 16 * i)).length

/-- One slice as step 6 leaves it. -/
def planSlice (s : State) (i : Nat) : State :=
  if ¬ s.on CHIP_FLOOR_WARD.POP (i / 4) then s.wr CHIP_FLOOR_SLICE.STATE 0 i
  else
    let good := cellsGood s i
    let hide := !s.on CHIP_START.FLOOR && decide (good < 16)
    let cells := if hide then 0 else min good 16
    let st := if hide ∨ 2 ≤ banksBad s i ∨ (defects s).contains (7 + 16 * i) then 3 else 1
    let t := ((s.wr CHIP_FLOOR_SLICE.STATE st i).wr CHIP_FLOOR_SLICE.CELLS cells i).wr CHIP_FLOOR_SLICE.CELLS_GOOD good i
    (t.wr CHIP_FLOOR_SLICE.SPARE_FREE (b2n (decide (cells < good))) i).wr CHIP_FLOOR_SLICE.BANKS_BAD (banksBad s i) i

def floorPlan (s : State) : State := floorSync ((List.range 16).foldl planSlice s)

/-- Step 7 begins: the defect list is final (16 R583). -/
def begin7 (s : State) : State := floorPlan (stepAt s 7)

/-- Step 6 begins: the floor mode is set, and the start-up test runs unless the fast path applies (16 R584, R588). -/
def begin6 (s : State) : State :=
  let pop := s.rd CHIP_STRAP.WARD_POP
  let mode := s.rd CHIP_STRAP.FLOOR_MODE
  let forced := mode == 0 && pop != 15
  let t := stepAt (phase s 3) 6
  let t := (t.wr CHIP_START.FLOOR (b2n (mode == 1 || forced))).wr CHIP_START.FLOOR_FORCED (b2n forced)
  let t := if forced then evStart t 0x0E04 pop mode 0 else t
  let warm := t.start.kind == 2 || t.start.kind == 3
  if warm && t.on CHIP_CFG.FAST_EN && t.start.lastClean then
    let t := { t with start := { t.start with fast := true } }
    let t := setHdr (t.wr CHIP_START.FAST 1) 0 35 1 1
    begin7 ((wardsIn t).foldl (fun t w => tallyEntry t 0x04 w 5 0 0 0) t)
  else { t with start := { t.start with found := if warm then [] else t.start.found } }

/-- Step 5 ends once an image is accepted and an Elder is in control. -/
def step5Check (s : State) : State :=
  if s.start.step = 5 ∧ s.start.loaded ∧ (activeElder s).isSome then begin6 s else s

/-- An accepted image runs (16 R581, 14 R544). A host load that succeeds keeps the host as NEXT; otherwise NEXT stays. -/
def imageLoaded (s : State) (svn keysel : Nat) : State :=
  let host := s.start.host
  let next := if host then 1 else nextOf s 1 0x03 0
  let t := ((s.wr SEC_FW.SVN_IMAGE svn).wr SEC_FW.KEYSEL keysel).wr SEC_FW.FROM_HOST (b2n host)
  let t := ((t.wr CHIP_START.FROM_HOST (b2n host)).wr SEC_DEBUG.ID_KEY (b2n t.keys.identity)).wr CHIP_RECOVERY_CTL.RSTAT 0
  let t := tallyEntry t 0x03 0 1 (b2n host) next svn
  step5Check { t with start := { t.start with loaded := true } }

/-- The SPI image was unreadable or refused (16 R580, R581). -/
def spiFail (s : State) (outcome : Nat) : State :=
  let next := if s.rd CHIP_STRAP.BOOT_SRC = 0 then 1 else nextOf s 1 0x03 0
  toSafe (tallyEntry s 0x03 0 outcome 0 next 1) 1 2 0

/-- The host did not write GO, or its image was unreadable or refused (16 R580 to R582). -/
def hostFail (s : State) (outcome : Nat) : State :=
  toSafe (tallyEntry (s.wr CHIP_RECOVERY_CTL.RSTAT 3) 0x03 0 outcome 1 0 2) 2 2 0

/-- A write of CHIP_RECOVERY_CTL with GO while the boot ROM waits starts the fetch; a length out of range, or a host link
that cannot read, fails it at once (16 R582). -/
def recoveryGo (s : State) (v : Nat) : State :=
  let t := plainWrite s CHIP_RECOVERY_CTL.reg 0 0 0 v
  let len := t.rd CHIP_RECOVERY_CTL.LEN
  if wrote CHIP_RECOVERY_CTL.GO v = 0 ∨ s.rd CHIP_RECOVERY_CTL.RSTAT ≠ 1 then t
  else if len < 1024 ∨ 12 * 2 ^ 20 + 1024 < len ∨ ¬ canPost t 0 then hostFail t 2
  else (t.wr CHIP_RECOVERY_CTL.RSTAT 2).emit (.hostRead 0 (t.rd CHIP_RECOVERY_ADDR.ADDR / 4096 * 4096) len)

/-- The recovery fetch has ended. -/
def recoveryDone (s : State) (ok : Bool) (svn keysel : Nat) : State :=
  if s.rd CHIP_RECOVERY_CTL.RSTAT ≠ 2 ∨ s.start.step ≠ 5 then s
  else if imageOk s ok svn keysel then imageLoaded s svn keysel else hostFail s 2

/-! ## Defects (16 R585, R586) -/

/-- Event 0x0E03 for a unit. -/
def evDefect (s : State) (u cause : Nat) : State :=
  evStart s 0x0E03 (u % 2 ^ 13 + 7 * 2 ^ 13) cause (256 - s.start.rows.length)

/-- A unit that the test found and no list holds: burned into a field-defect row, or held in Lantern for want of one. -/
def newDefect (s : State) (u : Nat) : State :=
  if s.start.rows.length < 256 then
    let t := { s with start := { s.start with rows := s.start.rows ++ [u] } }
    evDefect (t.count CHIP_DEFECT.ROWS_USED) u 1
  else
    let t := { s with start := { s.start with pend := s.start.pend ++ [u] } }
    evDefect (t.count CHIP_DEFECT.PENDING) u 3

/-- What the test found beyond the lists, each unit as often as it was found more than they hold it. -/
def beyond : List Nat → List Nat → List Nat
  | [], _ => []
  | u :: l, known => if known.contains u then beyond l (known.erase u) else u :: beyond l known

/-- The ward of a cell, slice or port unit. -/
def wardOfUnit (u : Nat) : Nat :=
  let i := u / 16 % 512
  if u % 16 = 0 then i / 68 else if u % 16 = 3 then i / 8 else i / 4

/-- The start-up test has ended (16 R585, R586). `done` is 1, or 3 when it timed out. -/
def tested (s : State) (bad : List Nat) (done : Nat) : State :=
  let fresh := beyond bad (s.start.almanac ++ s.start.rows ++ s.start.pend)
  let t := (s.start.almanac.filter fun u => !bad.contains u).foldl (fun t u => evDefect t u 2) s
  let t := (s.start.pend.filter fun u => bad.contains u).foldl (fun t u => evDefect t u 3) t
  let t := fresh.foldl newDefect t
  let t := (wardsIn t).foldl (fun t w =>
    let n := (fresh.filter fun u => wardOfUnit u == w).length
    tallyEntry t 0x04 w (if done = 3 then 3 else if n = 0 then 1 else 2) 0 0 n) t
  let post := t.start.found
  begin7 (post.foldl startUnitOut { t with start := { t.start with found := [] } })

/-! ## Steps 8 to 10 -/

/-- Channels in service whose kept training the start checks with a quiet window (13 R513). -/
def checkChan (s : State) (c : Nat) : State :=
  if s.rd DDR_CTL.STATE c = 5 then windowDue (s.wr DDR_CTL.STATE 2 c) c else s

/-- Step 8 begins (16 R576): kept training is checked, drives and, but at POOL, ports are brought up. -/
def begin8 (s : State) : State :=
  let t := stepAt (phase s 4) 8
  let t := (unitsIn t 8).foldl checkChan t
  let t := (unitsIn t 4).foldl driveBringup t
  if t.start.kind = 3 then t
  else (unitsIn t 8).foldl (fun t n => if t.on PORT_CTL.ENABLE n ∧ t.rd PORT_STATUS.STATE n = 0 then trainStartup t n else t) t

/-- The microcode broadcast has ended (16 R583). -/
def broadcast (s : State) (bad : List Nat) (done : Nat) : State :=
  let t := tallyEntry s 0x05 0 (if done = 3 then 3 else if bad = [] then 1 else 2) 0 0 bad.length
  if hasKind bad [4, 6, 9, 10, 11, 12, 13, 15] then toSafe t 5 2 (badDetail bad)
  else
    let t := bad.foldl startUnitOut t
    begin8 (floorPlan t)

/-- A channel's entry, once it has trained or left service (16 R592). -/
def chanEntry (s : State) (c : Nat) : State :=
  let k := s.rd DDR_CTL.STEPDOWN c
  let st := s.rd DDR_CTL.STATE c
  let rate := fun (t : State) => match (s.chanX c).dimms with
    | some d => trainRate t c d
    | none => 0
  if chanInService s c then tallyEntry s 0x06 c 1 k k (s.rd DDR_CTL.RATE c)
  else if st ≠ 6 then s
  else if s.rd DDR_CTL.LOSS_CAUSE c = 1 ∧ ¬ (s.chanX c).dead then
    tallyEntry s 0x06 c 2 (k - 1) k (rate (s.wr DDR_CTL.STEPDOWN (k - 1) c))
  else if s.rd DDR_CTL.LOSS_CAUSE c = 1 then tallyEntry s 0x06 c 2 k (min 3 (k + 1)) (rate s)
  else tallyEntry s 0x06 c 2 k k 0

/-- A port's entry (16 R592): the strikes it started with are what the record before chose. -/
def portEntry (s : State) (n : Nat) : State :=
  let st := s.rd PORT_STATUS.STATE n
  let k := s.rd PORT_STATUS.STRIKES n
  let was := min 2 (nextOf s 1 0x07 n)
  if s.start.kind = 3 then tallyEntry s 0x07 n 6 k k 0
  else if 2 ≤ st ∧ st ≤ 4 then tallyEntry s 0x07 n 1 was k 0
  else if st = 5 then tallyEntry s 0x07 n 2 was k (s.rd PORT_STATUS.DOWN_CAUSE n)
  else if st = 6 then tallyEntry s 0x07 n 2 was k (s.rd PORT_STATUS.REFUSE_CAUSE n)
  else if st = 7 then tallyEntry s 0x07 n 4 k k 0
  else s

/-- A drive's entry. -/
def driveEntry (s : State) (d : Nat) : State :=
  let st := s.rd NVM_CTL.STATE d
  if st = 2 then tallyEntry s 0x08 d 1 0 0 0
  else if st = 3 then tallyEntry s 0x08 d 2 0 0 (s.rd NVM_CTL.LOSS_CAUSE d) else s

/-- The ready entry holds the codes of every event so far, and the event of an unlock is written (14 R540). -/
def readyCodes (t : State) : State :=
  let n := hdrFld t 0 0 40 8 - 1
  let t := if entStep (t.rdReg CHIP_TALLY_ENT.reg 0 n 0) = 0x0C then
      sealRec (t.wrReg CHIP_TALLY_ENT.reg 0 n 0 (setFld (t.rdReg CHIP_TALLY_ENT.reg 0 n 0) 32 16 t.start.held))
    else t
  match t.start.unlock with
  | some sc => { evPf0 t 0x0C04 sc 0 t.now with start := { t.start with unlock := none } }
  | none => t

/-- What registers say of measurement `i`: SVN, KEYSEL and source of the image; fused SVN and revoke bits; debug state;
configuration (14 R537). -/
def measureRegs (s : State) (i : Nat) : List Byte :=
  if i = 3 then [toB (s.rd SEC_FW.SVN_IMAGE), toB (s.rd SEC_FW.KEYSEL), toB (s.rd SEC_FW.FROM_HOST)]
  else if i = 5 then [toB (s.rd SEC_FW.SVN_FUSED), toB (s.rd SEC_FW.REVOKED)]
  else if i = 6 then [toB (s.rd SEC_DEBUG.UNLOCKED), toB (s.rd SEC_DEBUG.SCAN)]
  else if i = 7 then [toB (s.rd CHIP_STRAP.WARD_POP), toB (s.rd CHIP_STRAP.BOOT_SRC), toB (s.rd CHIP_STRAP.HOME_ELDER),
    toB (s.rd CHIP_STRAP.FLOOR_MODE), toB (s.rd CHIP_LOCK.LOCK)]
  else []

/-- The measurements are recorded, once between two WARM or stronger resets: indices 1, 2, 4 and 5 carry a SHA-256 (14 R537). -/
def measure (s : State) : State :=
  if s.keys.meas ≠ [] then s
  else
    let hash := fun (k : Nat) => (List.range 32).map fun i => Config.attest (s.fresh + 32 * k + i)
    let hashed := fun (i : Nat) => if i = 3 ∨ 6 ≤ i then [] else hash i
    { s with fresh := s.fresh + 192, keys := { s.keys with meas := (List.range 7).map fun i => measureRegs s (i + 1) ++ hashed (i + 1) } }

/-- A write to CHIP_LOCK: measurement 7 is renewed when the lock is set (14 R537, 19 R657). -/
def lockWrite (s : State) (v : Nat) : State :=
  let t := plainWrite s CHIP_LOCK.reg 0 0 0 v
  if s.on CHIP_LOCK.LOCK ∨ ¬ t.on CHIP_LOCK.LOCK then t
  else { t with keys := { t.keys with meas := t.keys.meas.set 6 (measureRegs t 7) } }

/-- Step 10: the chip is ready (16 R576, R605). -/
def toReady (s : State) : State :=
  let ms := (s.rd AON_TIME.TIME - s.start.t0) / 1000
  let t := setHdr (endRec (leaveStep (measure s)) 1 0) 2 0 32 ms
  let t := (phase t 6).wr CHIP_START.READY 1
  let own := fun (r : RstX) => decide (4 ≤ r.kind) && decide (r.kind ≠ 8)
  let t := { t with ctl := { t.ctl with closed := sdel (5 * 1024) t.ctl.closed, rsts := t.ctl.rsts.filter own } }
  let t := t.wr CHIP_RST_STAT.BUSY 0
  let kind := t.start.kind + b2n t.start.fast * 8 + b2n (t.on CHIP_START.FROM_HOST) * 16
  let t := tallyEntry (evStart t 0x0E01 (t.rd CHIP_START.START_NO) kind ms) 0x0C 0 1 0 0 0
  let t := readyCodes t
  floorSync (guardAll (tallyCopy t))

/-- Channels that the extended DRAM test covers. -/
def extChans (s : State) : List Nat := (unitsIn s 8).filter (chanInService s)

/-- The extended DRAM test begins, where it is asked for (16 R592). -/
def begin11 (s : State) : State :=
  if ¬ s.on CHIP_CFG.EXT_TEST then toReady s
  else
    let skip := (extChans s).filter fun c => nextOf s 1 0x0B c == 1
    let t := skip.foldl (fun t c => tallyEntry t 0x0B c 4 1 1 0) (stepAt s 11)
    if (extChans t).all skip.contains then toReady t else t

/-- The extended DRAM test has ended: every failing line counts as uncorrectable (16 R592). -/
def extTested (s : State) (bad : List Nat) (done : Nat) : State :=
  let todo := (extChans s).filter fun c => nextOf s 1 0x0B c != 1
  toReady (todo.foldl (fun t c =>
    let n := (bad.filter fun u => u % 2 ^ 13 == 2 + 16 * c).length
    let t := (List.range n).foldl (fun t _ => watchUE (t.count DDR_ECC_CNT.UE c) 2 c 0x08 16 0xFF 0 none (0xF + 0xFF00) 1) t
    if done = 3 then tallyEntry t 0x0B c 3 0 1 n else if n = 0 then tallyEntry t 0x0B c 1 0 0 0 else tallyEntry t 0x0B c 2 0 1 n) s)

/-- Step 9 begins, unless the fast path applies (16 R588). -/
def begin9 (s : State) : State :=
  let t := stepAt (phase s 5) 9
  if t.start.fast then begin11 ((List.range 5).foldl (fun t i => tallyEntry t 0x09 i 5 0 0 0) t) else t

/-- The kinds of units that each known-answer test covers, by INST of entry 0x09. -/
def katKinds (i : Nat) : List Nat := if i = 0 then [0] else if i = 1 then [1, 7] else if i = 2 then [8] else if i = 3 then [2] else [9]

/-- The known-answer tests have ended (16 R587). -/
def katDone (s : State) (bad : List Nat) (done : Nat) : State :=
  let t := (List.range 5).foldl (fun t i =>
    let n := (bad.filter fun u => (katKinds i).contains (u % 16)).length
    tallyEntry t 0x09 i (if done = 3 then 3 else if n = 0 then 1 else 2) 0 0 n) s
  if hasKind bad [4, 6, 9, 11] then toSafe t 6 2 (badDetail bad)
  else begin11 (floorPlan (bad.foldl startUnitOut t))

/-- Whether a channel still trains or checks its training. -/
def chanBusy (s : State) (c : Nat) : Bool := s.rd DDR_CTL.STATE c == 1 || (s.chanX c).inWin || (s.chanX c).winDue

/-- Step 8 ends once no channel trains; ports and drives are not waited for (16 R576). -/
def trained (s : State) : State :=
  if (unitsIn s 8).any (chanBusy s) then s
  else begin9 ((unitsIn s 4).foldl driveEntry ((unitsIn s 8).foldl portEntry ((unitsIn s 8).foldl chanEntry s)))

/-- START_STEP_DONE: a step that waited has ended (16 R576). -/
def startStepDone (s : State) (ok : Bool) (bad : List Nat) (svn keysel : Nat) : State :=
  let k := s.start.step
  if k = 3 then selfTested s ok bad
  else if k = 5 then
    if s.start.host ∨ s.start.loaded then s
    else if imageOk s ok svn keysel then imageLoaded s svn keysel else spiFail s 2
  else if k = 6 then tested s bad 1
  else if k = 7 then broadcast s bad 1
  else if k = 8 then trained s
  else if k = 9 then katDone s bad 1
  else if k = 11 then extTested s bad 1
  else s

/-- START_STEP_TMO_EXPIRY: the step under way runs past its limit; in a step without one, the whole start does (16 R577). A step
that may end with failing units goes on with none named (log entry 21). -/
def startTmo (s : State) : State :=
  let k := s.start.step
  if k = 3 then leaveStep (startHold (tallyEntry s 0x02 0 3 0 0 0) 4)
  else if k = 5 ∧ ¬ s.start.loaded then if s.start.host then hostFail s 3 else spiFail s 3
  else if k = 6 then tested s [] 3
  else if k = 7 then broadcast s [] 3
  else if k = 9 then katDone s [] 3
  else if k = 11 then extTested s [] 3
  else if k = 5 ∨ k = 8 then toSafe s 7 5 0
  else s

/-- POWER_ON: VDD_AON comes into range (16 R576 step 1). -/
def powerOn (s : State) : State :=
  if s.rd CHIP_START.PHASE = 0 ∧ s.start.step = 0 ∧ s.rd AON_HOLD.HOLD_CAUSE = 0 then startBegin s 0 else s

end Sys2Proof.Machine
end

