-- ==== Sys2Proof/Machine/Elder.lean ====
section
/-!
DEFINITION. Sys2Proof/Machine/Elder.lean: Elders that leave service and the beginning of a freeze (17 R614, R615, R619).
-/
namespace Sys2Proof.Machine

/-- Whether a unit is in service: ACTIVE or STANDBY. -/
def inService (s : State) (u : Nat) : Bool := eldSt s u == 2 || eldSt s u == 3

/-- Whether a unit is returning: RESYNC or WINDOW. -/
def returning (s : State) (u : Nat) : Bool := eldSt s u == 4 || eldSt s u == 5

/-- A freeze begins (17 R615 step 1). One that runs takes no second trigger (17 R621). -/
def freezeBegin (s : State) (trigger : Nat) : State :=
  if s.on ELD_STAT.FROZEN then s
  else { s.wr ELD_STAT.FROZEN 1 with eld := { s.eld with trigger := trigger, frozenAt := s.now, codes := [] } }

/-- A unit leaves service with a self-check code: its claim is 0, and event 0x0F02 is written (17 R614, R615 step 3, R619). -/
def eldLeave (s : State) (u code : Nat) : State :=
  let t := if returning s u then { s.wr ELD_LOG.WINDOW_LEFT 0 with eld := { s.eld with step := 0 } } else s
  let t := setCheck (setEldSt (setClaim t u 0) u 6) u code
  evPf0 t 0x0F02 u code (t.rd ELD_LOG.COMMIT_SEQ)

/-- A unit drops out while the chip runs: without the active unit a freeze begins, otherwise the active one goes on alone
(17 R614). -/
def eldOut (s : State) (u code trigger : Nat) : State :=
  let st := eldSt s u
  if st = 0 ∨ st = 6 then s
  else
    let t := eldLeave s u code
    if st = 2 then freezeBegin t trigger else t.wr ELD_STAT.SOLO 1

/-- A unit begins to return (17 R618 step 1). -/
def resyncBegin (s : State) (u : Nat) : State :=
  let t := setClaim (setEldSt s u 4) u 0
  { t.wr ELD_STAT.SOLO 1 with eld := { t.eld with step := 1, since := t.now, entries := 0 } }

/-- A mismatch in step 4 or 5 of the return: code 7, and the return starts again up to RESYNC_TRIES times (17 R619). -/
def returnFails (s : State) (u : Nat) : State :=
  let t := eldLeave s u 7
  let n := s.eld.tries + 1
  let t : State := { t with eld := { t.eld with tries := n } }
  if n < atLeast1 (t.rd ELD_CFG.RESYNC_TRIES) then resyncBegin t u else t

/-- A unit in service that is a heartbeat late: HB_MISS counts it (17 R614). -/
def heartbeatMissed (s : State) (u : Nat) : State :=
  if ¬ inService s u then s
  else
    let at_ := kgetD 0 u s.eld.beats + atLeast1 (s.rd ELD_CFG.HB_TMO) * 100000
    eldOut ((timeAtLeast s at_).count ELD_CNT.HB_MISS) u 4 1

end Sys2Proof.Machine
end

