-- ==== Sys2Proof/Machine/ExecLink.lean ====
section
/-!
DEFINITION. Sys2Proof/Machine/ExecLink.lean: the commands of a port's link layer (10).
-/
namespace Sys2Proof.Machine

/-! ## Flits -/

/-- Whether a port's receiver takes flits of its stream: ACTIVE, LPI, LEAVING, or a retrain whose physical link still
runs (10 R394, R402 step 1, R410). -/
def flitsFlow (s : State) (n : Nat) : Bool :=
  let st := s.rd PORT_STATUS.STATE n
  st == 2 || st == 4 || st == 8 || (st == 3 && (s.link n).phase == 11)

/-- DATA_FLIT_RX (10 R393 to R395). -/
def execDataFlitRx (port : Port) (f : Flit) (s : State) : Host.Outcome State Fault Refusal :=
  .next (if flitsFlow s port then dataFlit (wakeLpi s port) port f else s)

/-- IDLE_FLIT_RX (10 R395, R396, R399). -/
def execIdleFlitRx (port : Port) (f : Flit) (s : State) : Host.Outcome State Fault Refusal :=
  .next (if flitsFlow s port then flitHead s port f else s)

/-- CORRUPT_FLIT_RX: more than 15 symbol errors are beyond FEC; fewer were corrected, and the flit fails another check
(10 R381, R394). -/
def execCorruptFlitRx (port : Port) (symErrs : Nat) (s : State) : Host.Outcome State Fault Refusal :=
  .next (if flitsFlow s port then
    let t := if 15 < symErrs then s.count PORT_ERR_CNT.CW_UNCORR port
      else
        let t := s.count PORT_ERR_CNT.FLIT_BAD port
        if symErrs = 0 then t else t.count PORT_ERR_CNT.CW_CORR port
    flitBad t port
  else s)

/-- The acknowledgement, NAK and credit return of a control flit: every flit carries them (10 R380, R395, R399). -/
def ctlHead (s : State) (n : Nat) (m : CtlMsg) : State := if flitsFlow s n then flitHead s n m.flit else s

/-! ## Training -/

def ctlW (m : CtlMsg) (i : Nat) : Nat := (nthW m.words i).toNat

/-- CAPS (10 R382, R383 steps 4 and 5, R384): the partner's CAPS are recorded, and refused or followed by the eight
probes. -/
def capsIn (s : State) (n : Nat) (m : CtlMsg) : State :=
  if (s.link n).phase ≠ 4 then s
  else
    let w := ctlW m 0
    let w2 := ctlW m 1
    let t := ((s.wr PORT_PARTNER.NODE (fld w 0 15) n).wr PORT_PARTNER.MAX_LEN (fld w 24 7) n).wr PORT_PARTNER.GCM (fld w 32 1) n
    let t := (t.wr PORT_PARTNER.GEN (fld w 36 4) n).wr PORT_PARTNER.TURN (fld w 40 16) n
    let x := answered (t.link n) 1
    if fld w 0 15 = nodeId s then trainRefuse t n 1
    else if fld w 20 1 = 0 then trainRefuse t n 2
    else if fld w2 0 16 = 0 ∨ fld w2 16 16 = 0 then trainRefuse t n 4
    else (List.range 8).foldl (fun t k => ctlOut t n 2 [k]) (t.setLink n { x with phase := 5, probes := [] })

def execCaps (port : Port) (m : CtlMsg) (s : State) : Host.Outcome State Fault Refusal :=
  .next (capsIn (ctlHead s port m) port m)

/-- LEN_PROBE is answered at once by LEN_ECHO with HOLD 0 (10 R386). -/
def execLenProbe (port : Port) (m : CtlMsg) (s : State) : Host.Outcome State Fault Refusal :=
  .next (let s := ctlHead s port m
    if 4 ≤ (s.link port).phase ∧ (s.link port).phase ≤ 6 then ctlOut s port 3 [fld (ctlW m 0) 0 32, 0] else s)

/-- LEN_ECHO: `rtt` is the time in ps from the probe's sending to this echo; the round trip adds the turnaround of both
ends, and the eighth one ends the measurement (10 R386). -/
def echoIn (s : State) (n : Nat) (m : CtlMsg) (rtt : Nat) : State :=
  let x := s.link n
  let k := fld (ctlW m 0) 0 32
  if x.phase ≠ 5 ∨ 8 ≤ k ∨ (kget k x.probes).isSome then s
  else
    let r := rtt - fld (ctlW m 1) 0 32 + (280 + s.rd PORT_PARTNER.TURN n) * 1000
    let t := s.setLink n { x with probes := kput k r x.probes }
    if x.probes.length + 1 = 8 then fibreMeasured t n else t

def execLenEcho (port : Port) (m : CtlMsg) (rtt : Nat) (s : State) : Host.Outcome State Fault Refusal :=
  .next (echoIn (ctlHead s port m) port m rtt)

/-- CREDIT_ADV ends the training, or is kept until this end has measured the fibre (10 R383 step 6, R387). -/
def advIn (s : State) (n : Nat) (m : CtlMsg) : State :=
  let x := s.link n
  if x.phase = 6 then trainDone s n (m.words.map (·.toNat))
  else if x.phase = 5 then s.setLink n { x with early := m.words }
  else s

def execCreditAdv (port : Port) (m : CtlMsg) (s : State) : Host.Outcome State Fault Refusal :=
  .next (advIn (ctlHead s port m) port m)

/-- PORT_TRAIN: a port that has not trained since reset trains as its strikes say (10 R383, R388). -/
def execPortTrain (port : Port) (s : State) : Host.Outcome State Fault Refusal :=
  .next (if s.rd PORT_STATUS.STATE port = 0 ∧ s.on PORT_CTL.ENABLE port then trainStartup s port else s)

/-- TRAIN_TMO_EXPIRY (10 R402, R406 cause 2). -/
def execTrainTmoExpiry (port : Port) (s : State) : Host.Outcome State Fault Refusal :=
  .next (let st := s.rd PORT_STATUS.STATE port
    if st = 1 ∨ st = 3 then portDown s port 2 else s)

/-- TRAINING_BLOCK_RX: the partner's block on a lane with its RX_OK mask (10 R383 step 2). -/
def execTrainingBlockRx (port : Port) (lane : Fin 9) (mask : BitVec 9) (s : State) : Host.Outcome State Fault Refusal :=
  .next (blockIn s port lane mask.toNat)

/-- RING_LOCK_TMO_EXPIRY: a ring not locked within 20 ms makes its lane unusable in its direction (10 R383 step 1). -/
def execRingLockTmoExpiry (port : Port) (lane : Fin 9) (rx : Bool) (s : State) : Host.Outcome State Fault Refusal :=
  .next (if (s.link port).phase = 1 then laneOut s port lane rx else s)

/-- RATE_FALLBACK_TMO_EXPIRY: no blocks at 212.5 Gb/s within 10 ms, so the partner is tried at 106.25 Gb/s
(10 R383 step 2). -/
def execRateFallbackTmoExpiry (port : Port) (s : State) : Host.Outcome State Fault Refusal :=
  .next (let x := s.link port
    if (x.phase = 1 ∨ x.phase = 2) ∧ x.rxOk = 0 ∧ s.rd PORT_STATUS.RATE port = 0 then s.wr PORT_STATUS.RATE 1 port else s)

/-- FEC_LOCK_GAINED (10 R383 step 3, R402 step 2). -/
def execFecLockGained (port : Port) (s : State) : Host.Outcome State Fault Refusal := .next (fecLocked s port)

/-- FEC_LOCK_LOST retrains with reason 5 (10 R401). -/
def execFecLockLost (port : Port) (s : State) : Host.Outcome State Fault Refusal := .next (retrainAsk s port 5)

/-- CONTROL_FLIT_REPEAT_TICK: every 1 µs the request that waits for its answer is sent again, and so are the probes
that have no echo (10 R382). -/
def repeatAsk (s : State) (n : Nat) : State :=
  let x := s.link n
  if x.phase = 5 then
    (List.range 8).foldl (fun t k => if (kget k x.probes).isSome then t else ctlOut t n 2 [k]) s
  else match x.ask with
    | some (c, args) => ctlOut s n c args
    | none => s

def execControlFlitRepeatTick (port : Port) (s : State) : Host.Outcome State Fault Refusal := .next (repeatAsk s port)

/-! ## Retrain -/

/-- RETRAIN_REQ starts a retrain with reason 4, or joins the one under way (10 R402 step 1, R403). -/
def retrainReqIn (s : State) (n : Nat) : State :=
  let x := s.link n
  if x.phase = 11 then s.setLink n { x with phase := 12 } else retrainAsk s n 4

def execRetrainReq (port : Port) (m : CtlMsg) (s : State) : Host.Outcome State Fault Refusal :=
  .next (retrainReqIn (ctlHead s port m) port)

/-- RESYNC ends the retrain, or is kept until this end has sent its own (10 R402 steps 3 and 4). -/
def resyncIn (s : State) (n : Nat) (m : CtlMsg) : State :=
  let x := s.link n
  if x.phase = 13 then retrainDone s n (m.words.map (·.toNat))
  else if x.phase = 11 ∨ x.phase = 12 then s.setLink n { x with early := m.words }
  else s

def execResync (port : Port) (m : CtlMsg) (s : State) : Host.Outcome State Fault Refusal :=
  .next (resyncIn (ctlHead s port m) port m)

/-! ## The ninth lane -/

/-- The physical lane that a handoff takes (10 R389): the least recently calibrated one, `p`, or the noisiest, after a handoff
that took that one. Which lane is noisy no command reports: a free value (log entry 43). -/
def handoffLane (s : State) (n p : Nat) : Nat :=
  let k := Config.noisyLane s.fresh
  if (s.link n).lrc ∧ k < 2 ^ s.rd PORT_STATUS.WIDTH n then fld (s.rd PORT_LANE_MAP.TX_MAP n) (4 * k) 4 else p

/-- HANDOFF_START: the transmitter hands a lane to the ninth lane (10 R389, R390 step 1). -/
def handoffStart (s : State) (n : Nat) : State :=
  let x := s.link n
  let sp := s.rd PORT_LANE_STAT.TX_SPARE n
  let m := s.rd PORT_LANE_MAP.TX_MAP n
  if s.rd PORT_LINK_CFG.ROT_PERIOD n = 0 ∨ ¬ s.on PORT_STATUS.TX_SPARE_OK n ∨ s.rd PORT_STATUS.STATE n ≠ 2 ∨
     sp = 0xF ∨ x.handoff.isSome then s
  else match x.cal with
    | [] => s
    | oldest :: _ =>
    let p := handoffLane s n oldest
    match (List.range (2 ^ s.rd PORT_STATUS.WIDTH n)).find? fun l => fld m (4 * l) 4 == p with
      | none => s
      | some l => (s.tickFresh.setLink n { x with handoff := some (l, p, sp), lrc := p == oldest }).emit
          (.link n 0x32 [l, p, sp, max 8 (s.rd PORT_LINK_CFG.HANDOFF_CW n)])

def execHandoffStart (port : Port) (s : State) : Host.Outcome State Fault Refusal := .next (handoffStart s port)

/-- LANE_ANS: the partner has switched, or has aborted, the handoff under way (10 R390 step 4, R391). -/
def laneAnsIn (s : State) (n : Nat) (m : CtlMsg) : State :=
  let x := s.link n
  match x.handoff with
  | none => s
  | some (l, p, sp) =>
    if fld (ctlW m 0) 0 4 ≠ l then s
    else if (ctlW m 0).testBit 4 then
      let t := s.setLink n { x with handoff := none, cal := x.cal.filter (· != p) ++ [sp], txAborts := (0, 15) }
      let t := (t.wr PORT_LANE_MAP.TX_MAP (setFld (t.rd PORT_LANE_MAP.TX_MAP n) (4 * l) 4 sp) n).wr PORT_LANE_STAT.TX_SPARE p n
      (t.wr PORT_STATUS.TX_SPARE_OK 0 n).count PORT_LANE_STAT.ROTATIONS n
    else countAbort (s.setLink n { x with handoff := none }) n sp false

def execLaneAns (port : Port) (m : CtlMsg) (s : State) : Host.Outcome State Fault Refusal :=
  .next (laneAnsIn (ctlHead s port m) port m)

/-- HANDOFF_COUNTDOWN_END: the receiver has compared the two lanes (10 R390 steps 2 and 3). -/
def countdownEnd (s : State) (n l : Nat) (same : Bool) : State :=
  let sp := s.rd PORT_LANE_STAT.RX_SPARE n
  if s.rd PORT_STATUS.STATE n ≠ 2 ∨ sp = 0xF ∨ 2 ^ s.rd PORT_STATUS.WIDTH n ≤ l then s
  else if same then
    let m := s.rd PORT_LANE_MAP.RX_MAP n
    let t := (s.wr PORT_LANE_MAP.RX_MAP (setFld m (4 * l) 4 sp) n).wr PORT_LANE_STAT.RX_SPARE (fld m (4 * l) 4) n
    let t := (t.wr PORT_STATUS.RX_SPARE_OK 0 n).count PORT_LANE_STAT.ROTATIONS n
    ctlOut (t.setLink n { t.link n with rxAborts := (0, 15) }) n 7 [l + 16]
  else ctlOut (countAbort s n sp true) n 7 [l]

def execHandoffCountdownEnd (port : Port) (lane : Fin 8) (same : Bool) (s : State) : Host.Outcome State Fault Refusal :=
  .next (countdownEnd s port lane same)

/-- HANDOFF_ANSWER_TMO: no LANE_ANS within 1 ms (10 R391). -/
def execHandoffAnswerTmo (port : Port) (s : State) : Host.Outcome State Fault Refusal :=
  .next (if (s.link port).handoff.isSome then retrainAsk s port 5 else s)

/-- NINTH_LANE_CAL_DONE: a ninth lane that is there is ready (10 R390 step 5). -/
def execNinthLaneCalDone (port : Port) (s : State) : Host.Outcome State Fault Refusal :=
  .next (let t := if s.rd PORT_LANE_STAT.TX_SPARE port = 0xF then s else s.wr PORT_STATUS.TX_SPARE_OK 1 port
    if t.rd PORT_LANE_STAT.RX_SPARE port = 0xF then t else t.wr PORT_STATUS.RX_SPARE_OK 1 port)

/-- LANE_FAILURE: an active port retrains without the lane; in a training or retrain it is unusable (10 R392, R404). -/
def laneFailure (s : State) (n lane : Nat) (rx : Bool) : State :=
  let st := s.rd PORT_STATUS.STATE n
  if st = 2 ∨ st = 4 then laneFail s n lane rx else if st = 1 ∨ st = 3 then laneOut s n lane rx else s

def execLaneFailure (port : Port) (rx : Bool) (lane : Fin 9) (s : State) : Host.Outcome State Fault Refusal :=
  .next (laneFailure s port lane rx)

/-- LASER_POLL: the photodiodes of a port's feed are read; the feed serves four ports, and each wavelength that becomes
low writes event 0x0808 once (10 R374). -/
def laserPoll (s : State) (n : Nat) (readings : List Nat) : State :=
  let feed := n / 4
  let r := (List.range 4).foldl (fun (a : State × List Nat) k =>
    let (t, fresh) := laserPort a.1 (4 * feed + k) readings
    (t, fresh.foldl (fun l w => sput w l) a.2)) (s, [])
  r.2.foldl (fun t k => evPf0 t 0x0808 feed k (median (kgetD [] k (t.link n).laser))) r.1

def execLaserPoll (port : Port) (readings : List Nat) (s : State) : Host.Outcome State Fault Refusal :=
  .next (laserPoll s port readings)

/-! ## Replay, credits, low-power idle, timers -/

/-- REPLAY_TIMER_EXPIRY resends from the oldest flit in the buffer (10 R395). -/
def execReplayTimerExpiry (port : Port) (s : State) : Host.Outcome State Fault Refusal :=
  .next (match (s.link port).buf with
    | [] => s
    | f :: _ => if flitsFlow s port then replay s port f.seq else s)

/-- NAK_REPEAT_EXPIRY (10 R394). -/
def execNakRepeatExpiry (port : Port) (s : State) : Host.Outcome State Fault Refusal :=
  .next (if (s.link port).nakOut ∧ flitsFlow s port then
    (s.count PORT_LINK_CNT.NAKS port).emit (.link port 0x31 [(s.link port).expSeq]) else s)

/-- The credits of a class that were outstanding at a flit, less the returns an AUDIT names and what the receiver
holds: headers and data units (10 R400). -/
def shortfall (x : LinkX) (tc seq w : Nat) : Nat × Nat :=
  let c := creditOf x tc
  let later := x.buf.filter fun f => seqBefore seq f.seq
  let h := later.foldl (fun a f => match f.head with | some (t, _) => if t = tc then a + 1 else a | none => a) 0
  let d := later.foldl (fun a f => match f.head with | some (t, l) => if t = tc then a + l else a | none => a) 0
  let oh := (c.useH - h + 4096 - fld w 48 12 % 4096) % 4096
  let od := (c.useD - d + 65536 - fld w 32 16) % 65536
  (oh - fld w 0 16, od - fld w 16 16)

/-- What an AUDIT does for one class: the largest shortfall is kept, and the first after a retrain writes event 0x0809
(10 R400). -/
def auditClass (s : State) (n : Nat) (m : CtlMsg) (tc : Nat) : State :=
  let x := s.link n
  let (h, d) := shortfall x tc (fld (ctlW m 0) 0 16) (ctlW m (tc + 1))
  if h = 0 ∧ d = 0 then s
  else
    let t := (s.wr PORT_CREDIT_AUDIT.HDR_SHORT (max h (s.rd PORT_CREDIT_AUDIT.HDR_SHORT n tc)) n tc).wr
      PORT_CREDIT_AUDIT.DATA_SHORT (max d (s.rd PORT_CREDIT_AUDIT.DATA_SHORT n tc)) n tc
    if x.short then t else evPf0 (t.setLink n { x with short := true }) 0x0809 n tc (h % 2 ^ 16 + d % 2 ^ 16 * 2 ^ 16)

/-- AUDIT (10 R400): class by class. -/
def auditIn (s : State) (n : Nat) (m : CtlMsg) : State :=
  let st := s.rd PORT_STATUS.STATE n
  if st ≠ 2 ∧ st ≠ 4 ∧ st ≠ 8 then s else (List.range 8).foldl (fun t tc => auditClass t n m tc) s

def execAudit (port : Port) (m : CtlMsg) (s : State) : Host.Outcome State Fault Refusal :=
  .next (auditIn (ctlHead s port m) port m)

/-- AUDIT_SEND_TICK: the receiver reports what it holds and what it has returned (10 R382, R400). -/
def auditSend (s : State) (n : Nat) : State :=
  let st := s.rd PORT_STATUS.STATE n
  if st ≠ 2 ∧ st ≠ 4 ∧ st ≠ 8 then s
  else
    let x := s.link n
    ctlOut s n 8 ((x.expSeq + 65535) % 65536 :: (List.range 8).map fun t =>
      let c := creditOf x t
      heldH s n t + heldD s n t * 2 ^ 16 + c.rxD % 65536 * 2 ^ 32 + c.rxH % 4096 * 2 ^ 48)

def execAuditSendTick (port : Port) (s : State) : Host.Outcome State Fault Refusal := .next (auditSend s port)

/-- Low-power idle begins. -/
def lpiEnter (s : State) (n : Nat) : State :=
  (s.wr PORT_STATUS.STATE 4 n).setLink n { answered (s.link n) 9 with lpiReq := false }

/-- LPI_REQ: requests that cross answer each other; an idle port answers LPI_ACK (10 R410). -/
def execLpiReq (port : Port) (m : CtlMsg) (s : State) : Host.Outcome State Fault Refusal :=
  .next (let s := ctlHead s port m
    if (s.link port).lpiReq then lpiEnter s port else if lpiReady s port then lpiEnter (ctlOut s port 10 []) port else s)

/-- LPI_ACK (10 R410). -/
def execLpiAck (port : Port) (m : CtlMsg) (s : State) : Host.Outcome State Fault Refusal :=
  .next (let s := ctlHead s port m
    if (s.link port).lpiReq ∧ s.rd PORT_STATUS.STATE port = 2 then lpiEnter s port else s)

/-- LPI_IDLE_EXPIRY: both directions have been idle for LPI_IDLE, so the port asks (10 R410). -/
def execLpiIdleExpiry (port : Port) (s : State) : Host.Outcome State Fault Refusal :=
  .next (if lpiReady s port then
    let t := ctlAsk s port 9 []
    t.setLink port { t.link port with lpiReq := true } else s)

/-- LPI_WAKE: a flit to send resumes full transmission (10 R410). -/
def execLpiWake (port : Port) (s : State) : Host.Outcome State Fault Refusal := .next (wakeLpi s port)

/-- LPI_ANSWER_TMO_EXPIRY: without an answer the port stays active (10 R410). -/
def execLpiAnswerTmoExpiry (port : Port) (s : State) : Host.Outcome State Fault Refusal :=
  .next (s.setLink port { answered (s.link port) 9 with lpiReq := false })

/-- ERROR_WINDOW_END (10 R405). -/
def execErrorWindowEnd (port : Port) (s : State) : Host.Outcome State Fault Refusal :=
  .next (s.wr PORT_STATUS.WIN_COUNT 0 port)

/-- PORT_RETRY_TIMER: PRESET, ALT_PRESET, PRESET (10 R408). -/
def portRetry (s : State) (n : Nat) : State :=
  let x := s.link n
  if s.rd PORT_STATUS.STATE n = 5 ∧ s.rd PORT_STATUS.DOWN_CAUSE n ≠ 5 ∧ x.tries < 3 then
    trainBegin s n (s.rd (if x.tries = 1 then PORT_CTL.ALT_PRESET else PORT_CTL.PRESET) n) false (x.tries + 1)
  else s

def execPortRetryTimer (port : Port) (s : State) : Host.Outcome State Fault Refusal := .next (portRetry s port)

/-! ## Registers -/

/-- A write to PORT_CTL (10 R383, R384, R388, R401, R404, R406, R413). -/
def portCtlWrite (s : State) (n v : Nat) : State :=
  let was := s.on PORT_CTL.ENABLE n
  let t := plainWrite s PORT_CTL.reg n 0 0 v
  let en := t.on PORT_CTL.ENABLE n
  let st := t.rd PORT_STATUS.STATE n
  let preset := t.rd PORT_CTL.PRESET n
  let t :=
    if was && !en then
      if st = 0 ∨ st = 5 ∨ st = 7 then (t.wr PORT_STATUS.STATE 5 n).wr PORT_STATUS.DOWN_CAUSE 5 n else portDown t n 5
    else if !was && en then trainBegin t n preset false 0
    else t
  let t := if wrote PORT_CTL.REARM v = 0 then t
    else
      let t := t.wr PORT_STATUS.STRIKES 0 n
      if en then trainBegin t n preset false 0 else t
  if wrote PORT_CTL.RETRAIN v = 0 then t
  else if t.rd PORT_STATUS.STATE n = 6 then trainBegin t n preset false 0
  else retrainAsk t n 3

def execPortEnable (port : Port) (v : Word) (s : State) : Host.Outcome State Fault Refusal := .next (atPf0 s (portCtlWrite s port v.toNat))
def execPortDisable (port : Port) (v : Word) (s : State) : Host.Outcome State Fault Refusal := .next (atPf0 s (portCtlWrite s port v.toNat))
def execPortRearm (port : Port) (v : Word) (s : State) : Host.Outcome State Fault Refusal := .next (atPf0 s (portCtlWrite s port v.toNat))
def execPortRetrain (port : Port) (v : Word) (s : State) : Host.Outcome State Fault Refusal := .next (atPf0 s (portCtlWrite s port v.toNat))

/-- A write to PORT_CNT_CLR (10 R413). -/
def portCntClr (s : State) (n v : Nat) : State :=
  if wrote PORT_CNT_CLR.CLEAR v = 0 then s
  else
    let t := (s.clrReg PORT_ERR_CNT.reg n).clrReg PORT_LINK_CNT.reg n
    (t.wr PORT_LANE_STAT.ROTATIONS 0 n).wr PORT_LANE_STAT.ROT_ABORTS 0 n

def execPortCntClr (port : Port) (v : Word) (s : State) : Host.Outcome State Fault Refusal := .next (atPf0 s (portCntClr s port v.toNat))

end Sys2Proof.Machine
end

