-- ==== Sys2Proof/Machine/Reset.lean ====
section
/-!
DEFINITION. Sys2Proof/Machine/Reset.lean: fatal errors and their reactions (15 R548 to R562, 01 R35 to R37), and resets: the
leaving sequence, Curfew, the reset itself, the return and escalation (16 R594 to R598).
-/
namespace Sys2Proof.Machine

/-! ## Actions under way -/

/-- How strong a chip-wide action is. -/
def rstRank (k : Nat) : Nat := if k = 1 ∨ k = 8 then 4 else if k = 2 then 3 else if k = 3 then 2 else 1

/-- A PART reset, alone or as the first step of dissolving a partition (kind 11, 19 R662). -/
def isPartRst (k : Nat) : Bool := k == 5 || k == 11

/-- A reset of a scope under way, sleep entries and the link crypto engine's own resets apart. -/
def rstOf (s : State) (scope : Nat) : Option RstX := s.ctl.rsts.find? fun r => r.scope == scope && !isSleep r.kind

def rstSet (s : State) (r : RstX) : State :=
  let f := fun (x : RstX) => if x.scope = r.scope ∧ ¬ isSleep x.kind ∧ ¬ isSleep r.kind then r else x
  { s with ctl := { s.ctl with rsts := s.ctl.rsts.map f } }

def rstDrop (s : State) (scope : Nat) : State :=
  { s with ctl := { s.ctl with rsts := s.ctl.rsts.filter (fun r => r.scope != scope || isSleep r.kind) } }

/-- BUSY: a reset, a Curfew or a start is under way (16 R606). -/
def busySync (s : State) : State :=
  s.wr CHIP_RST_STAT.BUSY (b2n (s.start.step != 0 || s.ctl.rsts.any fun r => r.kind != 9 || r.step != 3))

/-- Whether a chip-wide reset or its start runs: errors are then kept in Lantern only (15 R554). -/
def chipResetting (s : State) : Bool :=
  s.start.step != 0 || s.ctl.rsts.any fun r => decide (r.kind ≤ 3) && decide (2 ≤ r.step)

/-! ## Records of fatal errors (15 R552, R554, R571) -/

/-- Writes the records of the fatal errors whose scope lies in `sc`: their handling has ended. -/
def recsDone (s : State) (sc : Nat) : State :=
  let mine := fun (r : ErrRec) => r.cls == 3 && scopeIn s r.scope sc
  let t := { s with watch := { s.watch with recs := s.watch.recs.filter (fun r => !mine r) } }
  (s.watch.recs.filter mine).foldl writeErrRec t

/-- An escalation continues the record: LEVEL and RUNG rise (15 R552, R571). -/
def escalate (s : State) (sc level rung : Nat) : State :=
  let f := fun (r : ErrRec) => if r.cls = 3 ∧ scopeIn s r.scope sc then { r with level := level, esc := true, rung := rung } else r
  { s with watch := { s.watch with recs := s.watch.recs.map f } }

/-- Opens a record of a fatal error: latched and counted. -/
def openFatal (s : State) (r : ErrRec) : State :=
  let s := s.count FLT_CNT.FATAL r.coll
  watchLatch { s with watch := { s.watch with nextRec := s.watch.nextRec + 1, recs := s.watch.recs ++ [r] } } r

/-- Event 0x0D06 to the partitions of a scope, their accelerators and PF0 (15 R559). `who` is the partition or ward, 16 for
the pool. -/
def scopeEvent (s : State) (sc level who src : Nat) : State :=
  let a0 := level + who * 8
  evPf0 ((partsIn s sc).foldl (fun t p => evPartAll t p 0x0D06 a0 src t.now) s) 0x0D06 a0 src s.now

/-! ## Lines that a reaction poisons (01 R49) -/

/-- Lines that are poisoned in `t` and were not in `s`. -/
def newPoison (s t : State) : Nat := (t.poison.filter fun l => !s.poison.contains l).length

/-- What a reaction has poisoned on the way from `s` to `t` counts in its record. -/
def recPoison (rec_ : Option Nat) (s t : State) : State :=
  let f := fun (x : ErrRec) => if some x.id = rec_ then { x with poisoned := x.poisoned + newPoison s t } else x
  { t with watch := { t.watch with recs := t.watch.recs.map f } }

/-! ## What each reset does once Curfew has ended -/

/-- The chip loses its secrets, its identity key among them (14 R541). -/
def zeroise (s : State) : State := { s with keys := { State.reset.keys with identity := false, nonce := s.keys.nonce } }

/-- An unlock takes effect: the secrets are gone, and Lantern keeps UNLOCKED and SCAN (14 R540 steps 5 and 6). -/
def unlocked (s : State) : State := ((zeroise s).wr SEC_DEBUG.UNLOCKED 1).wr SEC_DEBUG.SCAN 1

def noteReset (s : State) (r : RstX) : State :=
  let kind := if isPartRst r.kind then 5 else if r.kind = 8 then 1 else r.kind
  let i := r.scope % 1024
  let tgt := if r.kind = 7 then i / 17 else if r.kind ≤ 3 then 0 else i
  if r.kind = 10 then s
  else ((s.wr CHIP_RST_STAT.LAST_KIND kind).wr CHIP_RST_STAT.LAST_TARGET tgt).wr CHIP_RST_STAT.LAST_SRC r.src

/-- The drives flush, and every unit of the chip returns to its reset state. -/
def poolClear (s : State) (kind : Nat) : State := chipClear ((unitsIn s 4).foldl flushDrive s) kind

/-- The pool scope is closed while the reset runs. -/
def poolShut (s : State) (r : RstX) : State := { s with ctl := { s.ctl with closed := [5 * 1024], rsts := [r] } }

/-- The chip enters DEEP (16 R600): Lantern takes its copy of the wake list, keys go, ports are off. -/
def deepEnter (s : State) : State :=
  let t := ((unitsIn s 4).foldl flushDrive s).wr CHIP_SLEEP.STATE 3
  let on := (List.range 64).filter fun k => t.on IRQ_WAKE.VALID k
  let t := { t with irq := { t.irq with wake := on.foldl (fun l k => sput (t.rd IRQ_WAKE.SOURCE k) l) [] } }
  let t := evStart t 0x0E06 (3 + t.rd CHIP_SLEEP.WARD_STATE * 16) 0 ((t.now - t.ctl.sleepAt) / 1000)
  let t := (portsOff (zeroise (tallyCopy t))).wr AON_HOLD.DEEP_READY 1
  { t with ctl := { t.ctl with closed := [5 * 1024], asleep := [5 * 1024], rsts := [] } }

/-- The reset of a scope whose Curfew has ended. A chip-wide one keeps the action itself, so that it can be seen to end. -/
def doReset (s : State) (r : RstX) : State :=
  let i := r.scope % 1024
  let r3 := { r with step := 3 }
  if isPartRst r.kind then noteReset (rstSet (partReset s i) r3) r
  else if r.kind = 4 then noteReset (rstSet (wardReset s i) r3) r
  else if r.kind = 6 then noteReset (rstSet (sliceReset s i) r3) r
  else if r.kind = 7 then noteReset (rstSet (cellLost s i) r3) r
  else if r.kind = 3 then busySync (noteReset (poolShut (poolClear s 3) r3) r)
  else if r.kind = 2 then startBegin (noteReset (poolClear s 2) r) 2
  else if r.kind = 1 then startBegin (noteReset (poolClear (if r.src = 6 then unlocked s else s) 1) r) 1
  else if r.kind = 8 then deepEnter s
  else noteReset (rstSet s r3) r

/-- Curfew's drain has ended, or has run out: what is left is absorbed and counted, and the reset proceeds (16 R598
steps 3 to 6). -/
def curfewEnd (s : State) (r : RstX) : State :=
  let (t, n) := absorb s r.scope
  let f := fun (x : ErrRec) => if some x.id = r.rec_ then { x with ended := x.ended + n } else x
  let t := { t with watch := { t.watch with recs := t.watch.recs.map f } }
  busySync (recPoison r.rec_ s (doReset t { r with ended := r.ended + n }))

/-- The domains of a slice's partition go down (09 R364). -/
def teardownSlice (s : State) (sl cause : Nat) : State :=
  match s.partOfSlice sl with
  | some p => teardownPart s p cause
  | none => s

/-- Curfew of a scope begins (16 R598 steps 1 and 2). Records of a chip-wide reset are written before it (15 R554). A CELL
reset and that of the link crypto engine have none. -/
def closeScope (s : State) (r : RstX) : State :=
  if r.kind = 7 ∨ r.kind = 10 then busySync (doReset s r)
  else
    let s := if r.kind ≤ 3 then recsDone s r.scope else s
    let t := rstSet { s with ctl := { s.ctl with closed := sput r.scope s.ctl.closed } } { r with step := 2 }
    let t := if r.kind = 6 then teardownSlice t (r.scope % 1024) 3
      else (partsIn t r.scope).foldl (fun t p => teardownPart (absorbReleases t p) p 5) t
    let t := busySync (recPoison r.rec_ s t)
    if scopeBusy t r.scope then t
    else match rstOf t r.scope with
      | some r => curfewEnd t r
      | none => t

/-- Whether the leaving notice is sent: not for a fatal fault of Crossroads (11 R451). -/
def givesNotice (s : State) (r : RstX) : Bool :=
  match s.watch.recs.find? fun x => some x.id == r.rec_ with
  | some x => x.kind != 4
  | none => true

/-- An action that waits for nothing more begins: with the leaving sequence for WARM, COLD and DEEP (11 R451). -/
def resetBegin (s : State) (r : RstX) : State :=
  if r.kind ≠ 1 ∧ r.kind ≠ 2 ∧ r.kind ≠ 8 then closeScope s r
  else
    let s := leaveStep s
    if r.step = 1 then busySync s
    else if givesNotice s r ∧ s.xrd.leaving = 0 ∧ (List.range 32).any (usable s) then
      busySync (rstSet (leaveStart s (if r.kind = 2 then 1 else if r.kind = 1 then 2 else 3)) { r with step := 1 })
    else closeScope s r

/-- LEAVE_HOLD has run out: GONE is sent, the ports stop, and the reset goes on (11 R451 steps 4 and 5). -/
def leaveDone (s : State) : State :=
  if s.xrd.leaving = 0 then s
  else match s.ctl.rsts.find? fun r => r.step == 1 with
    | some r => closeScope (portsOff (leaveEnd s)) { r with step := 2 }
    | none => s

/-- Whether an action's scope lies in one that a running action of no less strength encloses (01 R37). -/
def absorbedBy (s : State) (kind scope : Nat) : Bool :=
  (s.ctl.rsts.any fun r => !isSleep r.kind && r.kind != 10 && scopeIn s scope r.scope &&
    (r.scope != scope || decide (rstRank kind ≤ rstRank r.kind))) ||
  (s.start.step != 0 && decide (rstRank kind ≤ 2))

/-- Whether a scope, or one that holds it, sleeps: it wakes before its reset (16 R601). -/
def sleepsIn (s : State) (scope : Nat) : Bool := s.ctl.asleep.any fun a => scopeIn s scope a

/-- Asks for a reset (01 R37, 16 R594, R601). A POOL reset in SAFE acts as WARM (16 R580). -/
def resetAsk (s : State) (kind0 scope src : Nat) (rec_ : Option Nat) : State :=
  let kind := if kind0 = 3 ∧ s.rd CHIP_START.PHASE = 7 then 2 else kind0
  if absorbedBy s kind scope then s
  else
    let inner := fun (r : RstX) => r.kind != 9 && scopeIn s r.scope scope
    let gone := s.ctl.rsts.filter inner
    let leaving := gone.any fun r => r.step == 1
    let r : RstX := ⟨kind, scope, src, if leaving then 1 else 0, rec_, gone.foldl (fun n r => n + r.ended) 0⟩
    let shut := fun (c : Nat) => gone.any fun r => r.scope == c
    let t := { s with ctl := { s.ctl with rsts := s.ctl.rsts.filter (fun r => !inner r) ++ [r],
                                          closed := s.ctl.closed.filter fun c => !shut c } }
    if sleepsIn t scope then busySync (wakeWhere t 4 fun a => scopeIn s scope a) else resetBegin t r

/-- Resets that waited for their scope to wake begin. -/
def resetsWoken (s : State) : State :=
  (s.ctl.rsts.filter fun r => !isSleep r.kind && r.step == 0 && !sleepsIn s r.scope).foldl resetBegin s

/-! ## Retired cells and lost scopes (01 R35, 19 R665) -/

/-- A slice is quarantined: the domains of its partition go down with cause 3 (01 R35, 09 R364). -/
def quarantine (s : State) (sl : Nat) : State := teardownSlice (s.wr CHIP_FLOOR_SLICE.QUAR 1 sl) sl 3

/-- A fatal error of a slice's directory: an entry that reads as uncorrectable takes its domain down with cause 6, and a
directory that cannot be read poisons what the slice homes (09 R364, R365). -/
def dirFails (s : State) (e : ErrRep) : State :=
  if e.kind ≠ 1 ∨ ¬ e.flag then s
  else match e.addr, s.partOfSlice e.inst with
    | some pl, _ => dirEntBad s e.inst pl
    | none, some p => dirUnreadable s p e.inst
    | none, none => s

/-- A slice is unavailable: it stays quarantined, and its record recommends PART reset (01 R35). -/
def sliceLost (s : State) (sl : Nat) : State :=
  let t := quarantine (s.wr CHIP_FLOOR_SLICE.STATE 3 sl) sl
  floorSync { t with ctl := { t.ctl with closed := sput (2 * 1024 + sl) t.ctl.closed } }

/-- A cell is retired: the spare takes its work, or, with none left, the slice is unavailable. True where a spare was left. -/
def retireCell (s : State) (c : Nat) : State × Bool :=
  let sl := c / 17
  let s := cellLost { s with watch := { s.watch with retired := sput c s.watch.retired } } c
  let good := s.rd CHIP_FLOOR_SLICE.CELLS_GOOD sl - 1
  let spare := s.on CHIP_FLOOR_SLICE.SPARE_FREE sl
  let t := s.wr CHIP_FLOOR_SLICE.CELLS_GOOD good sl
  let shown := t.rd CHIP_FLOOR_SLICE.CELLS sl
  if spare then (floorSync (t.wr CHIP_FLOOR_SLICE.SPARE_FREE (b2n (decide (shown < good))) sl), true)
  else (sliceLost (t.wr CHIP_FLOOR_SLICE.CELLS (if s.on CHIP_START.FLOOR then min good 16 else 0) sl) sl, false)

/-! ## The end of a reset -/

/-- A partition is dissolved (19 R662 steps 2 and 3). -/
def dissolve (s : State) (p : Nat) : State :=
  let t := { s with keys := { s.keys with mem := kdel p s.keys.mem } }
  let t := ((t.wr PRT_SEC_CFG.KEY_SET 0 p).wr PRT_SEC_CFG.KEY_LOADED 0 p)
  let bound := (t.regs.filterMap fun e =>
    if SEC_KEY_SLOT.reg.base ≤ e.1 ∧ e.1 < SEC_KEY_SLOT.reg.base + 4096 * 16 ∧ (e.1 - SEC_KEY_SLOT.reg.base) % 16 = 0
    then some ((e.1 - SEC_KEY_SLOT.reg.base) / 16) else none).filter fun k =>
      slotLive t k && t.rd SEC_KEY_SLOT.PART k == p
  let t := bound.foldl emptySlot t
  floorSync ((t.wr PRT_CTL.ENABLE 0 p).wr PRT_CTL.SETUP_ERR 0 p)

/-- PIN_NEAR lines of a scope's slices are loaded again (04 R203). -/
def reloadPins (s : State) (sc : Nat) : State :=
  let sls := slicesIn s sc
  let near := s.tier.pins.filter fun r => !r.dram
  near.foldl (fun t r => (List.range (r.hi - r.lo)).foldl (fun t k =>
    let l := r.lo + k
    let sl := t.homeSlice r.part (l * 64)
    if sls.contains sl then setNear t (kput l ⟨sl, false, 1, t.tier.clock⟩ t.tier.near) else t) t) s

/-- A scope opens again: its joins reopen, its PIN_NEAR lines are loaded, its slices return with stale state discarded, superseded versions are released,
and rings fetch (16 R602, 08 R339). -/
def reopen (s : State) (r : RstX) : State :=
  let sc := r.scope
  let t := reloadPins (rstDrop { s with ctl := { s.ctl with closed := sdel sc s.ctl.closed } } sc) sc
  let t := (slicesIn t sc).foldl wakeSlice t
  let t := (partsIn t sc).foldl (fun t p => releaseOld t p fun _ => true) t
  let t := if r.kind ≠ 6 then t else match t.partOfSlice (sc % 1024) with
    | some p => releaseOld t p fun g => regionHome t p g == sc % 1024
    | none => t
  busySync (floorSync (pump t))

/-- The record of a reset that fails: a reset past its limit is a further error of its handling, ERR 0x0D; one that fails
without a record opens one. The unit that reports it is the model's choice (log entry 22). -/
def failRec (s : State) (r : RstX) (err : Nat) : State :=
  let i := r.scope % 1024
  let (kind, inst, level, part) :=
    if r.kind = 7 then (0, i, 1, (s.partOfSlice (i / 17)).getD 16)
    else if r.kind = 6 then (1, i, 2, (s.partOfSlice i).getD 16)
    else if isPartRst r.kind then (6, i + 1, 3, i)
    else if r.kind = 4 ∨ r.kind = 10 then (14, i, 4, 16)
    else (6, 0, 5, 16)
  match handling s r.scope with
  | some x =>
    if err = 0x0D then setRec s { x with count := x.count + 1, merged := true, lastSrc := srcCode kind inst err } else s
  | none => openFatal s (newErrRec s kind inst err 3 level part 0xFF 0 none 0 r.scope)

/-- A reset fails or does not end in time, and escalates (01 R35, 16 R594). -/
def resetFails (s : State) (r : RstX) : State :=
  let i := r.scope % 1024
  if r.kind = 7 then
    let (t, spare) := retireCell s i
    let t := if spare then escalate t r.scope 2 0 else escalate t r.scope 3 2
    recsDone (busySync (rstDrop t r.scope)) r.scope
  else if r.kind = 6 then
    let t := escalate (sliceLost s i) r.scope 3 2
    recsDone (busySync (rstDrop t r.scope)) r.scope
  else if isPartRst r.kind then
    let t := if r.kind = 11 then dissolve s i else floorSync (s.wr PRT_CTL.ENABLE 0 i)
    let t := rstDrop { t with ctl := { t.ctl with closed := sdel r.scope t.ctl.closed } } r.scope
    recsDone (busySync (escalate t r.scope 3 3)) r.scope
  else if r.kind = 4 then
    let t := s.wr CHIP_FLOOR_WARD.HELD 1 i
    recsDone (busySync (floorSync (rstDrop (escalate t r.scope 4 3) r.scope))) r.scope
  else if r.kind = 3 then resetAsk (rstDrop s r.scope) 2 r.scope 2 r.rec_
  else recsDone (busySync (rstDrop s r.scope)) r.scope

/-- A reset of a scope has ended well. -/
def resetEnds (s : State) (r : RstX) : State :=
  let i := r.scope % 1024
  if r.kind = 3 then if s.start.step = 0 then startBegin s 3 else s
  else if r.kind = 10 then
    let t := { s with start := { s.start with noCrypto := sdel i s.start.noCrypto } }
    recsDone (busySync (rstDrop t r.scope)) r.scope
  else if r.kind = 7 then recsDone (busySync (rstDrop s r.scope)) r.scope
  else if r.kind = 6 then
    recsDone (reopen (s.wr CHIP_FLOOR_SLICE.QUAR 0 i) r) r.scope
  else if r.kind = 4 then
    if s.on CHIP_FLOOR_WARD.HELD i then recsDone (busySync (rstDrop s r.scope)) r.scope
    else recsDone ((List.range 4).foldl (fun t k => driveBringup t (4 * i + k)) (reopen s r)) r.scope
  else if r.kind = 11 then recsDone (reopen (dissolve s i) r) r.scope
  else recsDone (reopen s r) r.scope

/-- SCOPE_RESET_LIMIT_EXPIRY: what Curfew had left is absorbed, and the reset escalates (16 R594). -/
def resetLimit (s : State) (scope : Nat) : State :=
  match rstOf s scope with
  | none => s
  | some r =>
    if r.step < 2 ∨ r.kind < 3 ∨ r.kind = 8 then s
    else
      let t := if r.step = 2 then curfewEnd s r else s
      resetFails (failRec t r 0x0D) r

/-- A chip-wide reset or a scope's own has ended, or has failed. -/
def resetResult (s : State) (r : RstX) (ok : Bool) : State :=
  if r.step ≠ 3 then s else if ok then resetEnds s r else resetFails (failRec s r 0x07) r

/-! ## Fatal errors (15 R557) -/

/-- The controller of a drive is reset (04 R206): steps 2 and 4 of its bring-up run again, and what was outstanding is
reissued. -/
def driveReset (s : State) (d : Nat) : State :=
  let st := s.rd NVM_CTL.STATE d
  if st ≠ 1 ∧ st ≠ 2 then s
  else
    let x := s.driveX d
    let keep := (x.cmds ++ x.held).filter fun k => k.kind != 7 && k.kind != 8
    driveEnableCtl ((s.count NVM_STAT.RESETS d).setDriveX d { x with resetting := 2, cmds := [], held := keep }) d

/-- LEVEL and the containing scope of a fatal error. -/
def fatalScope (s : State) (e : ErrRep) : Nat × Nat :=
  let k := e.kind
  let i := e.inst
  if k = 0 then (1, 1024 + i)
  else if k = 1 ∨ k = 7 then (2, 2 * 1024 + i)
  else if k = 2 then (3, 2 * 1024 + i / 2)
  else if k = 3 then (4, 4 * 1024 + i / 8)
  else if k = 5 then (4, 4 * 1024 + i / 4)
  else if k = 6 ∧ ¬ (e.flag ∨ i = 0) then (3, if i ≤ 16 then 3 * 1024 + (i - 1) else 5 * 1024)
  else if k = 8 ∨ k = 14 ∨ (k = 12 ∧ i < 4 ∧ ¬ e.flag) then (4, 4 * 1024 + i)
  else (5, 5 * 1024)

/-- What 15 R557 does on a fatal error, whose record is `id`. An action that ends at once ends its handling. -/
def react (s : State) (e : ErrRep) (id : Nat) : State :=
  let k := e.kind
  let i := e.inst
  let src := srcCode k i e.err
  let (level, sc) := fatalScope s e
  let ends := fun (t : State) =>
    let x := t.watch.recs.filter fun r => r.id == id
    x.foldl writeErrRec { t with watch := { t.watch with recs := t.watch.recs.filter fun r => r.id != id } }
  let pool := fun (t : State) (kind : Nat) => resetAsk (scopeEvent t sc 5 16 src) kind (5 * 1024) 2 (some id)
  if k = 0 then
    if 1 ≤ e.retry ∧ e.retry ≤ atLeast1 (s.rd FLT_CELL_RETRY.ATTEMPTS) then ends s else resetAsk s 7 sc 2 (some id)
  else if k = 1 ∨ k = 7 then
    resetAsk (recPoison (some id) s (quarantine (dirFails s e) i)) 6 sc 2 (some id)
  else if k = 2 then ends (recPoison (some id) s (chanLose s i (if e.err = 0x0B then 5 else 8)))
  else if k = 3 then ends (retrainAsk s i 5)
  else if k = 5 then ends (driveReset s i)
  else if k = 6 ∧ level = 3 then
    let o := if i = 17 then 16 else i - 1
    let rs := ringsWhere s fun r => s.on RNG_CTL.ENABLE r && ringOwner s r == o
    ends (rs.foldl (fun t r => resetRing t r (if o = 16 then 5 else 4)) s)
  else if k = 8 then
    resetAsk { s with start := { s.start with noCrypto := sput i s.start.noCrypto } } 10 sc 2 (some id)
  else if k = 10 then
    if inService s (1 - i) then ends (eldOut s.tickFresh i ((Config.openValue s.fresh).toNat % 256) 1)
    else pool (eldOut s.tickFresh i ((Config.openValue s.fresh).toNat % 256) 1) 3
  else if k = 13 then ends s
  else if k = 14 then resetAsk (scopeEvent s sc 4 i src) 4 sc 2 (some id)
  else if k = 12 ∧ level = 4 then
    resetAsk (scopeEvent (s.wr CHIP_FLOOR_WARD.HELD 1 i) sc 4 i src) 4 sc 2 (some id)
  else if k = 4 ∨ k = 15 ∨ k = 12 then pool s 2
  else pool s 3

/-- A fatal error (15 R551, R552): it merges into the record of a handling whose scope holds it, and acts only where it needs
a higher level. Otherwise it opens a record of its own. During a chip-wide reset it is kept in Lantern alone. -/
def fatal (s : State) (e : ErrRep) : State :=
  let (level, sc) := fatalScope s e
  let r := { newErrRec s e.kind e.inst e.err 3 level e.part e.access e.space e.addr e.synd sc with
    poisoned := e.lines.length
    rung := if e.kind = 13 then 4 else if e.kind = 12 ∧ level = 4 then 3 else 0
    coll := if e.kind = 14 ∧ e.flag then 4 else collectorOf e.kind e.inst }
  if chipResetting s then
    let t := lanternCopy s (errWords r false)
    if level = 5 ∧ (e.kind = 4 ∨ e.kind = 15 ∨ e.kind = 12) then resetAsk t 2 sc 2 none else t
  else match handling s sc with
    | some x =>
      let t := mergeRec (s.count FLT_CNT.FATAL r.coll) x e.kind e.inst e.err level e.lines.length
      if x.level < level then
        let f := fun (y : ErrRec) => if y.id = x.id then { y with scope := sc } else y
        react { t with watch := { t.watch with recs := t.watch.recs.map f } } e x.id
      else t
    | none => react (openFatal s r) e r.id

/-- An accumulator line is found poisoned: its set keeps which elements it held (05 R245). Accumulator line `k` of
object `o` is line 2^60 + o × 2^32 + k. -/
def poisonAcc (s : State) (l : Nat) : State :=
  let o := (l - 2 ^ 60) / 2 ^ 32
  match kget o s.sets with
  | none => s
  | some x =>
    let per := if spAcc x.line = 1 ∧ ¬ isInt (spCfmt x.line) then 8 else 16
    { s with sets := kput o { x with bad := x.bad ++ [(l - 2 ^ 60) % 2 ^ 32 * per] } s.sets }

/-- The lines of an error are poisoned (15 R555, 01 R49). -/
def poisonLines (s : State) (ls : List Nat) : State :=
  ls.foldl (fun t l => if 2 ^ 60 ≤ l then poisonAcc t l else t.poisonLine l) s

/-- A line's MAC fails: MAC_FAIL counts it, and event 0x0C01 is written at most once a millisecond for each partition, with the
failures since the last one. The flag says that the line was filled from the Granary (14 R521, R543). -/
def macFail (s : State) (e : ErrRep) : State :=
  let p := e.part
  if 16 ≤ p then s
  else
    let t := s.count PRT_SEC_CNT.MAC_FAIL p
    let (n, at_) := (kget p t.keys.lastMacEvt).getD (0, 0)
    let put := fun (t : State) (v : Nat × Nat) => { t with keys := { t.keys with lastMacEvt := kput p v t.keys.lastMacEvt } }
    if at_ ≠ 0 ∧ t.now < at_ - 1 + 1000000 then put t (n + 1, at_)
    else
      let ev := fun (t : State) (f : State → Nat → Nat → Nat → Nat → State) => f t 0x0C01 (e.addr.getD 0) (n + 1) (b2n e.flag)
      let t := ev t fun t c a b d => evPf0 t c a b d p
      put (ev t fun t c a b d => evPart t p c a b d) (0, t.now + 1)

/-- A storage error of an Elder raises banked source 8 or 9 of one of its cores; the record does not say of which (15 R568, log
entry 66). -/
def sramRaise (s : State) (e : ErrRep) : State :=
  let core := e.inst % 2 * 4 + (Config.openValue s.fresh).toNat % 4
  if e.kind = 10 ∧ (e.err = 1 ∨ e.err = 2) then bankRaise s.tickFresh core (7 + e.err) else s

/-- ERROR_REPORT (15 R555 to R557). A MAC failure also counts for its partition (14 R521). -/
def errorReport (s0 : State) (e : ErrRep) : State :=
  let s := sramRaise s0 e
  if e.cls = 1 then watchCE s e.kind e.inst
  else if e.cls = 2 then
    if chipResetting s then
      lanternCopy s (errWords (newErrRec s e.kind e.inst e.err 2 0 e.part e.access e.space e.addr e.synd 0) false)
    else
      let t := poisonLines s e.lines
      let t := if e.kind = 7 then macFail t e else t
      watchUE t e.kind e.inst e.err e.part e.access e.space e.addr e.synd e.lines.length
  else if e.cls = 3 then fatal (poisonLines s e.lines) e
  else s

/-- A masked pair takes its slice out of service: an escalation to partition level of the record under handling, or of one of
its own. -/
def sliceMasked (t : State) (e : ErrRep) (sl : Nat) : State :=
  match handling t (2 * 1024 + sl) with
  | some _ => escalate t (2 * 1024 + sl) 3 2
  | none =>
    let r := { newErrRec t e.kind e.inst 0x04 3 3 e.part 0xFF 0 none 0 (2 * 1024 + sl) with rung := 2, esc := true }
    recsDone (openFatal t r) (2 * 1024 + sl)

/-- A masked pair of a unit is held out of service (15 R549). -/
def wireMasked (s : State) (e : ErrRep) (reset : Bool) : State :=
  let i := e.inst
  let key := e.kind * 512 + i
  let t := { s with watch := { s.watch with masked := sput key s.watch.masked } }
  let t := t.count FLT_WIRE.MASKED (collectorOf e.kind i)
  if e.kind = 0 then
    let (t, spare) := retireCell t i
    if spare then t else sliceMasked t e (i / 17)
  else if e.kind = 1 then sliceMasked (sliceLost t i) e i
  else if e.kind = 2 then chanLose t i 8
  else if e.kind = 3 then portDown t i 4
  else if reset then
    let u := fatal t e
    match u.watch.recs.find? fun r => r.cls == 3 && r.kind == e.kind && r.inst == i with
    | some r => setRec u { r with rung := 4 }
    | none => u
  else t

/-- BROKEN_WIRE (15 R548, R549): a pair that is masked is not seen again. -/
def brokenWire (s : State) (kind inst : Nat) (still : Bool) : State :=
  let key := kind * 512 + inst
  if s.watch.masked.contains key then s
  else
    let c := collectorOf kind inst
    let part := if kind = 0 then s.partOfSlice (inst / 17) else if kind = 1 ∨ kind = 7 then s.partOfSlice inst
      else if kind = 2 then s.partOfChan inst else none
    let e : ErrRep := ⟨kind, inst, 0x04, 3, part.getD 16, 0xFF, 0, none, 0, [], false, 0⟩
    let t := evPf0 s 0x0D02 (srcCode kind inst 0x04) (b2n still) c
    if still then wireMasked t e true else fatal (t.count FLT_WIRE.BROKEN c) e

end Sys2Proof.Machine
end

