-- ==== Sys2Proof/Machine/Sleep.lean ====
section
/-!
DEFINITION. Sys2Proof/Machine/Sleep.lean: QUIET, DOZE and DEEP (16 R599 to R603).
-/
namespace Sys2Proof.Machine

/-- Wards in DOZE as a bitmap. -/
def dozing (s : State) : Nat := s.rd CHIP_SLEEP.WARD_STATE

/-- Event 0x0E06: the new state, the wake cause, and how long the change took (16 R605). -/
def sleepEvent (s : State) (cause : Nat) : State :=
  evStart s 0x0E06 (s.rd CHIP_SLEEP.STATE + dozing s * 16) cause ((s.now - s.ctl.sleepAt) / 1000)

/-- Lantern copies the wake list (15 R567). -/
def copyWake (s : State) : State :=
  let on := (List.range 64).filter fun k => s.on IRQ_WAKE.VALID k
  { s with irq := { s.irq with wake := on.foldl (fun l k => sput (s.rd IRQ_WAKE.SOURCE k) l) [] } }

/-- The slices of a scope go off: open sets end RESET, what is cached is written back and dropped, and the DIMMs go into
self-refresh (16 R598, R600, 07 R318). -/
def dozeSlices (s : State) (sc : Nat) : State :=
  let sls := slicesIn s sc
  let sets := (s.sets.map (·.1) ++ s.arming.map (·.obj)).filter fun o => sls.contains (o / 4096)
  sls.foldl (fun t sl => restSlice (dropCached t sl) sl) (sets.foldl (resetSet true) s)

/-- A scope is in DOZE: STATE or WARD_STATE is set, and a wake that came meanwhile is taken at once (16 R600, R603). -/
def dozeEnd (s : State) (r : RstX) : State :=
  let sc := r.scope
  let t := copyWake (dozeSlices s sc)
  let t := if sc / 1024 = 5 then t.wr CHIP_SLEEP.STATE 2
    else t.wr CHIP_SLEEP.WARD_STATE (dozing t ||| 2 ^ (sc % 1024))
  let left := fun (x : RstX) => !(x.kind == 9 && x.scope == sc)
  let t := sleepEvent { t with ctl := { t.ctl with rsts := t.ctl.rsts.filter left } } 0
  let wake := kget sc t.ctl.wakes
  let t := busySync (floorSync { t with ctl := { t.ctl with wakes := kdel sc t.ctl.wakes } })
  match wake with
  | some cause => wakeScope t sc cause
  | none => t

/-- Curfew of a scope that falls asleep has ended or has run out. -/
def dozeCurfewEnd (s : State) (r : RstX) : State := dozeEnd (if scopeBusy s r.scope then (absorb s r.scope).1 else s) r

/-- Whether a sleep of a scope meets a reset or Curfew of an overlapping one, or a chip that is not running (16 R603). -/
def sleepBlocked (s : State) (sc : Nat) : Bool :=
  s.start.step != 0 || s.rd CHIP_START.PHASE == 7 ||
  s.ctl.rsts.any fun r => scopeIn s sc r.scope || scopeIn s r.scope sc

def sleepErr (s : State) : State := s.wr CHIP_SLEEP.SLEEP_ERR 1

/-- A scope is asked to DOZE: from now on its requests are turned away, and its Curfew runs (16 R600). -/
def dozeAsk (s : State) (sc : Nat) : State :=
  if sleepsIn s sc then s
  else if sleepBlocked s sc then sleepErr s
  else
    let r : RstX := ⟨9, sc, 0, 2, none, 0⟩
    let t := { s with ctl := { s.ctl with asleep := sput sc s.ctl.asleep, rsts := s.ctl.rsts ++ [r], sleepAt := s.now } }
    let t := busySync (dozeRecall t sc)
    if scopeBusy t sc then t else dozeEnd t r

/-- A scope returns from DOZE (16 R602): its slices' channels leave self-refresh, rings fetch, and resets that waited for it
begin. -/
def dozeReturn (s : State) (r : RstX) : State :=
  let sc := r.scope
  let left := fun (x : RstX) => !(x.kind == 9 && x.scope == sc)
  let t := { s with ctl := { s.ctl with asleep := sdel sc s.ctl.asleep, rsts := s.ctl.rsts.filter left } }
  let t := if sc / 1024 = 5 then t.wr CHIP_SLEEP.STATE 0
    else t.wr CHIP_SLEEP.WARD_STATE (dozing t &&& (15 - 2 ^ (sc % 1024)))
  let t := (slicesIn t sc).foldl wakeSlice (reloadPins t sc)
  let t := sleepEvent t r.src
  let t := fetchRound (floorSync t)
  resetsWoken (pump (busySync t))

/-- QUIET is entered, its Curfew over, or left: nothing that it keeps is touched (16 R599, R604; log entry 23). -/
def quietSet (s : State) (st : Nat) : State :=
  sleepEvent ({ s with ctl := { s.ctl with gated := [] } }.wr CHIP_SLEEP.STATE st) 0

/-- The dirty lines of the near store are written back, and stay (04 R180, 16 R598 step 4, R604). -/
def cleanNear (s : State) : State :=
  (s.tier.near.filter (·.2.dirty)).foldl (fun t n =>
    nearWriteBack (setNear t (t.tier.near.map fun m => if m.1 = n.1 then (m.1, { m.2 with dirty := false }) else m)) n.1 n.2) s

/-- The Curfew of an entry to QUIET has ended or has run out (16 R598): what is left is absorbed, dirty lines are written back,
and the chip serves again in QUIET, which a write of ACTIVE meanwhile ends at once. -/
def quietEnd (s : State) (r : RstX) : State :=
  let t := cleanNear (if scopeBusy s r.scope then (absorb s r.scope).1 else s)
  let left := fun (x : RstX) => x.kind != 12
  let t := { t with ctl := { t.ctl with rsts := t.ctl.rsts.filter left } }
  let t := quietSet t 1
  let t := if t.rd CHIP_SLEEP.REQ = 0 then quietSet t 0 else t
  pump (fetchRound (busySync t))

/-- The chip is asked to QUIET: Curfew of the pool scope runs first, in which its rings fetch no more and requests are served
(11 R450, 16 R598, R599). -/
def quietAsk (s : State) : State :=
  let r : RstX := ⟨12, 5 * 1024, 0, 2, none, 0⟩
  let t := busySync { s with ctl := { s.ctl with rsts := s.ctl.rsts ++ [r], sleepAt := s.now } }
  if scopeBusy t r.scope then t else quietEnd t r

/-- QUIET or ACTIVE is asked for. -/
def awakeAsk (s : State) (st : Nat) : State :=
  if st = 1 then quietAsk s else quietSet { s with ctl := { s.ctl with sleepAt := s.now } } st

/-- The chip is asked to DEEP: leaving sequence, Curfew, drives flushed, secrets gone (16 R600). -/
def deepAsk (s : State) : State :=
  if s.ctl.rsts.any (fun r => r.kind != 9 || r.step != 3) ∨ s.start.step ≠ 0 ∨ s.rd CHIP_START.PHASE = 7 then sleepErr s
  else resetAsk { s with ctl := { s.ctl with sleepAt := s.now } } 8 (5 * 1024) 1 none

/-- A write to CHIP_SLEEP (16 R599 to R603). In DEEP, only AON_SLEEP, COLD_RST_N and POWER apply. -/
def sleepWrite (s : State) (v : Nat) : State :=
  if s.rd CHIP_SLEEP.STATE = 3 then s
  else
    let t := (plainWrite s CHIP_SLEEP.reg 0 0 0 v).wr CHIP_SLEEP.SLEEP_ERR 0
    let req := t.rd CHIP_SLEEP.REQ
    let wards := t.rd CHIP_SLEEP.WARD_DOZE
    let st := t.rd CHIP_SLEEP.STATE
    let t := if req = 3 then deepAsk t
      else if req = 2 then dozeAsk t (5 * 1024)
      else if st = 2 ∨ t.ctl.asleep.contains (5 * 1024) then if req = 0 then wakeScope t (5 * 1024) 0 else t
      else if req = st then t
      else if sleepBlocked t (5 * 1024) then sleepErr t
      else awakeAsk t req
    if 2 ≤ req then t
    else (List.range 4).foldl (fun t w =>
      let sc := 4 * 1024 + w
      if wards.testBit w then if wardOut t w then t else dozeAsk t sc
      else wakeScope t sc 0) t

/-- Whether a cell's clock is gated: QUIET gated it, or its slice belongs to no partition (01 R31, 16 R599). -/
def cellGated (s : State) (cell : Nat) : Bool := s.ctl.gated.contains cell || (s.partOfSlice (cell / 17)).isNone

/-- QUIET_IDLE_EXPIRY: a cell that was idle for QUIET_IDLE is gated (16 R599). -/
def quietIdle (s : State) (cell : Nat) : State :=
  if s.rd CHIP_SLEEP.STATE = 1 ∧ cell < 272 ∧ ¬ cellGated s cell then { s with ctl := { s.ctl with gated := sput cell s.ctl.gated } } else s

/-- DOZE_WAKE: a wake reaches a dozing scope: 1 a source, 2 an arrival, 3 a doorbell (16 R601). -/
def dozeWake (s : State) (scope cause : Nat) : State :=
  if (cause = 1 ∨ (cause = 2 ∧ s.on CHIP_SLEEP.WAKE_ON_RX) ∨ (cause = 3 ∧ s.on CHIP_SLEEP.WAKE_ON_DB)) ∧ s.rd CHIP_SLEEP.STATE ≠ 3
  then wakeScope s scope cause else s

/-- DEEP is left: a COLD start of KIND 4 (16 R601, R590). -/
def deepExit (s : State) : State := if s.rd CHIP_SLEEP.STATE = 3 then startBegin (chipClear s 4) 4 else s

/-- Curfews whose scope has drained go on. -/
def settleCurfews (s : State) : State :=
  (s.ctl.rsts.filter fun r => r.step == 2).foldl (fun t r =>
    if ¬ t.ctl.rsts.contains r ∨ scopeBusy t r.scope then t
    else if r.kind = 9 then dozeEnd t r else if r.kind = 12 then quietEnd t r else curfewEnd t r) s

/-- CURFEW_DRAIN_EXPIRY (16 R598 step 3). -/
def drainExpired (s : State) (scope : Nat) : State :=
  match s.ctl.rsts.find? fun r => r.scope == scope && r.step == 2 with
  | some r => if r.kind = 9 then dozeCurfewEnd s r else if r.kind = 12 then quietEnd s r else curfewEnd s r
  | none => s

/-- SCOPE_RESET_DONE (16 R602). -/
def scopeDone (s : State) (scope : Nat) (ok : Bool) : State :=
  match rstOf s scope with
  | some r => if r.step = 3 then resetResult s r ok else s
  | none => match s.ctl.rsts.find? fun r => r.kind == 9 && r.scope == scope && r.step == 3 with
    | some r => dozeReturn s r
    | none => s

end Sys2Proof.Machine
end

