-- ==== Sys2Proof/Machine/PrtCtl.lean ====
section
/-!
DEFINITION. Sys2Proof/Machine/PrtCtl.lean: making and dissolving partitions (19 R660 to R663).
-/
namespace Sys2Proof.Machine

/-- What the chip finds wrong with an enabling of partition `p`, in the order of 19 R661; 0 when nothing is. -/
def enableErr (s : State) (p : Nat) : Nat :=
  let sls := s.slicesOf p
  let w := sls.headD 0 / 4
  if sls = [] ∨ 4 < sls.length then 1
  else if sls.any fun i => i / 4 != w then 2
  else if wardOut s w then 3
  else if (List.range 16).any fun q => q != p && s.partOn q && sls.any fun i => (s.rd PRT_CTL.SLICES q).testBit i then 4
  else if sls.any fun i => s.rd CHIP_FLOOR_SLICE.STATE i == 0 || s.rd CHIP_FLOOR_SLICE.STATE i == 3 then 5
  else 0

/-- ENABLE goes from 0 to 1, or the commit refuses it (19 R661). `s` has ENABLE 0. -/
def prtEnable (s : State) (p : Nat) : State :=
  let e := enableErr s p
  if e ≠ 0 then (s.wr PRT_CTL.SETUP_ERR 1 p).wr PRT_CTL.ERR_CAUSE e p
  else
    let t := (s.slicesOf p).foldl dropCached s
    let t := (t.wr PRT_CTL.ENABLE 1 p).wr PRT_CTL.SETUP_ERR 0 p
    floorSync ((t.slicesOf p).foldl wakeSlice t)

/-- The live space slots that partition `p` may not leave behind (19 R662). -/
def namesPart (s : State) (p : Nat) : Bool :=
  (s.regs.filterMap fun e =>
    if XLT_SPACE_LO.reg.base ≤ e.1 ∧ e.1 < XLT_SPACE_LO.reg.base + 4096 * 16 ∧ (e.1 - XLT_SPACE_LO.reg.base) % 16 = 0
    then some ((e.1 - XLT_SPACE_LO.reg.base) / 16) else none).any fun k =>
      s.on XLT_SPACE_LO.LIVE k && s.spaceAllows k p

/-- Why partition `p` cannot be dissolved (19 R662); 0 when it can. -/
def disableErr (s : State) (p : Nat) : Nat :=
  if s.rdReg PRT_EXT_USED.reg p 0 0 ≠ 0 then 6
  else if (ringsWhere s fun r => s.on RNG_CTL.ENABLE r && ringOwner s r == p) ≠ [] ∨ namesPart s p ∨
    ((List.range 64).any fun d => cohUp s d && s.rd XLT_COH_CFG.PART d == p) then 7
  else 0

/-- ENABLE is written 0 while it is 1: refused, or the partition's PART reset begins, at whose end it is dissolved (19 R662). -/
def prtDisable (s : State) (p : Nat) : State :=
  let e := disableErr s p
  if e ≠ 0 then (s.wr PRT_CTL.SETUP_ERR 1 p).wr PRT_CTL.ERR_CAUSE e p
  else resetAsk s 11 (3 * 1024 + p) 1 none

/-- Whether a reset that encloses partition `p` runs: a write of ENABLE 0 then waits in the log (19 R663). -/
def partResetting (s : State) (p : Nat) : Bool :=
  s.ctl.rsts.any fun r => !isSleep r.kind && r.kind != 10 && scopeIn s (3 * 1024 + p) r.scope

/-- A write to PRT_CTL at its commit: SLICES first, then ENABLE is judged (19 R660). -/
def prtCtlWrite (s : State) (p v : Nat) (vf : Bool := false) : State :=
  if vf then s
  else
    let was := s.partOn p
    let t := plainWrite s PRT_CTL.reg p 0 0 v
    if !was && decide (wrote PRT_CTL.ENABLE v = 1) then prtEnable (t.wr PRT_CTL.ENABLE 0 p) p
    else if was && decide (wrote PRT_CTL.ENABLE v = 0) then prtDisable (t.wr PRT_CTL.ENABLE 1 p) p
    else t

end Sys2Proof.Machine
end

