-- ==== Sys2Proof/Machine/Power.lean ====
section
/-!
DEFINITION. Sys2Proof/Machine/Power.lean: measurement of supplies and temperatures, the AVSBus links and the power governor
(18 R628 to R640, R644). Voltages are in mV, currents in 0.1 A, clocks in 25 MHz units. Supplies are numbered as SUPPLY_BAD
numbers them, VDD_AON as 11; temperature sensors 16w to 16w + 15 are ward w's, 64 to 71 the chip's.
-/
namespace Sys2Proof.Machine

/-! ## Sensors (18 R633, R635) -/

def freshSens : Sens := ⟨[], 0, false, 0⟩

/-- A sensor takes a reading: the last `depth` plausible ones are kept, and ten implausible ones in a row drop it. -/
def sensNext (x : Sens) (v : Int) (ok : Bool) (depth : Nat) : Sens :=
  if x.dropped then x
  else if ok then { x with last := (v :: x.last).take depth, bad := 0 }
  else { x with bad := x.bad + 1, dropped := decide (10 ≤ x.bad + 1) }

/-- A reading as the argument of an event, in two's complement. -/
def intArg (v : Int) : Nat := (v % (2 ^ 64 : Int)).toNat

/-- Upper bound of a supply's range, its lower bound, and its peak current (18 R628). -/
def supplyLimits (r : Nat) : Nat × Nat × Nat :=
  if r < 4 then (900, 600, 3250) else if r = 4 then (840, 760, 1100) else if r ≤ 8 then (1133, 1067, 240)
  else if r = 9 then (1236, 1164, 450) else if r = 10 then (1890, 1710, 40) else (890, 810, 15)

/-- Whether a filtered voltage lies in a supply's range: VDD_CORE also within 40 mV of what is commanded, once a voltage is
(18 R628). -/
def inRange (s : State) (r : Nat) (v : Int) : Bool :=
  let (hi, lo, _) := supplyLimits r
  let cmd := if r < 4 then s.rd AON_WARD_CLK.V_NOW r else 0
  decide ((lo : Int) ≤ v) && decide (v ≤ (hi : Int)) &&
  (cmd == 0 || (decide ((cmd : Int) - 40 ≤ v) && decide (v ≤ (cmd : Int) + 40)))

/-- The ward that a supply serves alone, 4 for none. -/
def supplyWard (r : Nat) : Nat := if r < 4 then r else if 5 ≤ r ∧ r ≤ 8 then r - 5 else 4

/-- Whether a supply is checked at all: not that of an unpopulated ward (16 R578). -/
def supplyChecked (s : State) (r : Nat) : Bool :=
  decide (r ≤ 10) && (supplyWard r == 4 || s.rd CHIP_START.START_NO == 0 || (s.rd CHIP_STRAP.WARD_POP).testBit (supplyWard r))

/-- SMB_ALERT_N is low (18 R644). -/
def smbAlert (s : State) : Bool :=
  s.rd AON_HOLD.HOLD_CAUSE != 0 || s.on AON_THERM.TRIPPED || s.rd CHIP_START.PHASE == 7 || s.rd AON_HOLD.SUPPLY_BAD != 0

/-- A supply is out of range: it holds the start that checks it, else it is a fatal error of kind 12 (18 R629, 16 R580, 15 R557). A
ward whose VDD_CORE is lost has its ports down (01 R63, 10 R406). In DEEP nothing follows. -/
def supplyOut (s : State) (r : Nat) : State :=
  let t := { s.wr AON_HOLD.SUPPLY_BAD (s.rd AON_HOLD.SUPPLY_BAD ||| 2 ^ r) with pwr := { s.pwr with outs := sput r s.pwr.outs } }
  if s.rd CHIP_SLEEP.STATE = 3 then t
  else if s.start.step = 2 then if s.rd AON_HOLD.HOLD_CAUSE = 4 then t else startHold t 1
  else
    let t := irqRaise (t.wr AON_HOLD.SUPPLY_CLEAN 0) 37
    let t := if r < 4 then ((List.range 8).map (8 * r + ·)).foldl (fun t n =>
        let st := t.rd PORT_STATUS.STATE n
        if (1 ≤ st ∧ st ≤ 4) ∨ st = 8 then portDown t n 7 else t) t
      else t
    errorReport t ⟨12, supplyWard r, 0x0B, 3, 16, 0xFF, 0, none, 0, [], false, 0⟩

/-- A supply is in range again. -/
def supplyBack (s : State) (r : Nat) : State :=
  let bad := s.rd AON_HOLD.SUPPLY_BAD
  { s.wr AON_HOLD.SUPPLY_BAD (bad - (bad &&& 2 ^ r)) with pwr := { s.pwr with outs := sdel r s.pwr.outs } }

/-- Event 0x1002: a sensor is dropped. -/
def sensDropped (s : State) (kind num : Nat) (v : Int) : State := evPf0 s 0x1002 (kind + num * 256) (intArg v) 0

/-- The voltage of supply `r` is read. -/
def voltRead (s : State) (r : Nat) (v : Int) : State :=
  let x := kgetD freshSens r s.pwr.volt
  if x.dropped then s
  else
    let ok := decide (0 ≤ v) && decide (2 * v ≤ 3 * ((supplyLimits r).1 : Int))
    let y := sensNext x v ok 5
    let m := medianInt y.last
    let good := inRange s r m
    let y := if ok then { y with out_ := if good then 0 else y.out_ + 1 } else y
    let t := { s with pwr := { s.pwr with volt := kput r y s.pwr.volt } }
    if 10 < r then t
    else if ok then
      let t := t.wr AON_SUPPLY.V m.toNat r
      if ¬ supplyChecked t r then t
      else if good then if t.pwr.outs.contains r then supplyBack t r else t
      else if 3 ≤ y.out_ ∧ ¬ t.pwr.outs.contains r then supplyOut t r else t
    else
      let t := t.count AON_SUPPLY.DISCARDED r
      if y.dropped then
        let t := sensDropped t 0 r v
        if supplyChecked t r ∧ ¬ t.pwr.outs.contains r then supplyOut t r else t
      else t

/-- The on-die current of supply `r`, one of VDD_CORE_W0 to W3 and VDD_SRAM, is read. -/
def ampRead (s : State) (r : Nat) (v : Int) : State :=
  let x := kgetD freshSens r s.pwr.cur
  if x.dropped then s
  else
    let ok := decide (0 ≤ v) && decide (v ≤ 5000)
    let y := sensNext x v ok 5
    let t := { s with pwr := { s.pwr with cur := kput r y s.pwr.cur } }
    if ok then t
    else
      let t := t.count AON_SUPPLY.DISCARDED r
      if y.dropped then sensDropped t 1 r v else t

/-- The current of a supply as R633 and R634 choose it, and whether it is the peak current. -/
def supplyAmps (s : State) (r : Nat) : Nat × Bool :=
  let peak := (supplyLimits r).2.2
  let avs := fun (_ : Unit) => match kget r s.pwr.avs with
    | some a => (a, false)
    | none => (peak, true)
  if r ≤ 4 then
    let x := kgetD freshSens r s.pwr.cur
    if x.dropped ∨ x.last = [] then avs () else ((medianInt x.last).toNat, false)
  else avs ()

/-- AON_SUPPLY.I and SENSE_FAIL follow the choice. -/
def ampsShown (s : State) (r : Nat) : State :=
  let (a, peak) := supplyAmps s r
  (s.wr AON_SUPPLY.I a r).wr AON_SUPPLY.SENSE_FAIL (b2n peak) r

/-- SUPPLY_SAMPLE_TICK (18 R633). -/
def supplySample (s : State) (volts amps : List Int) : State :=
  let t := ((List.range 12).zip volts).foldl (fun t x => voltRead t x.1 x.2) s
  let t := ((List.range 5).zip amps).foldl (fun t x => ampRead t x.1 x.2) t
  (List.range 11).foldl ampsShown t

/-! ## Temperature (18 R635, R636) -/

/-- A sensor's value: the median of its last three plausible readings. -/
def tempOf (s : State) (k : Nat) : Option Int :=
  let x := kgetD freshSens k s.pwr.temp
  if x.last = [] ∨ x.dropped then none else some (medianInt x.last)

def maxInt : List Int → Option Int
  | [] => none
  | a :: l => some (l.foldl max a)

/-- The over-temperature stop: THERMTRIP_N falls, and every clock but Lantern's stops with no leaving notice. -/
def thermTrip (s : State) : State :=
  let t := (portsOff s).wr AON_THERM.TRIPPED 1
  let t := { t with start := { t.start with step := 0 }, ctl := { t.ctl with closed := [5 * 1024], rsts := [], hostUp := false } }
  t.emit (.board 3 [0])

/-- One temperature sensor is read. -/
def tempRead (s : State) (k : Nat) (v : Int) : State :=
  let x := kgetD freshSens k s.pwr.temp
  if x.dropped then s
  else
    let y := sensNext x v (decide (-40 ≤ v) && decide (v ≤ 150)) 3
    let t := { s with pwr := { s.pwr with temp := kput k y s.pwr.temp } }
    if y.dropped then sensDropped (t.count AON_THERM.DROPPED) 2 k v else t

/-- TEMP_SENSOR_TICK (18 R635, R636). -/
def tempSample (s : State) (readings : List Int) : State :=
  let t := ((List.range 72).zip readings).foldl (fun t x => tempRead t x.1 x.2) s
  match maxInt ((List.range 72).filterMap (tempOf t)) with
  | none => t
  | some m =>
    let t := t.wr AON_THERM.TJ_MAX (m % 256).toNat
    if 115 ≤ m ∧ ¬ t.on AON_THERM.TRIPPED then thermTrip t else t

/-! ## AVSBus (18 R630 to R632) -/

/-- The supplies whose current a bus carries. -/
def busRails (b : Nat) : List Nat := if b < 4 then [b, 5 + b] else [4, 9]

def avsFailed (s : State) (b : Nat) : Bool := s.rd AON_AVS.STATE b == 2

/-- A transaction of a bus has failed: it is retried three times, and then the bus is failed. -/
def avsFail (s : State) (b : Nat) : State :=
  let n := kgetD 0 b s.pwr.tries
  if n < 3 then
    let t := (s.wr AON_AVS.STATE 1 b)
    let t := if n = 0 then t.count AON_AVS.ERRS b else t
    { t with pwr := { t.pwr with tries := kput b (n + 1) t.pwr.tries } }
  else
    let rails := busRails b
    let t := evPf0 (s.wr AON_AVS.STATE 2 b) 0x1003 b (if b < 4 then s.rd AON_WARD_CLK.V_NOW b else 0) 0
    { t with pwr := { t.pwr with tries := kdel b t.pwr.tries, want := kdel b t.pwr.want,
                                 avs := t.pwr.avs.filter fun a => !rails.contains a.1 } }

/-- A transaction of a bus has succeeded. -/
def avsGood (s : State) (b : Nat) : State :=
  { s.wr AON_AVS.STATE 0 b with pwr := { s.pwr with tries := kdel b s.pwr.tries } }

/-- AVS_CURRENT_POLL: the Current of a bus's rails (18 R630). A failed bus is left to its retry. -/
def avsPoll (s : State) (b : Nat) (ok : Bool) (amps : List Nat) : State :=
  if avsFailed s b then s
  else if ok then
    let t := avsGood s b
    let avs := ((busRails b).zip amps).foldl (fun l x => kput x.1 x.2 l) t.pwr.avs
    { t with pwr := { t.pwr with avs := avs } }
  else avsFail s b

/-- AVS_RETRY_TICK (18 R632). -/
def avsRetry (s : State) (b : Nat) (ok : Bool) : State := if avsFailed s b ∧ ok then avsGood s b else s

/-! ## The governor (18 R637 to R640) -/

/-- Wards that the governor acts on: populated, not asleep, not held or under reset. -/
def governed (s : State) (w : Nat) : Bool :=
  !wardOut s w && !s.on AON_THERM.TRIPPED && !(s.ctl.asleep.any fun a => scopeIn s (4 * 1024 + w) a) &&
  !(s.ctl.rsts.any fun r => r.kind != 10 && decide (2 ≤ r.step) && scopeIn s (4 * 1024 + w) r.scope)

/-- Power of a supply in units of 0.1 mW. -/
def supplyPower (s : State) (r : Nat) : Nat :=
  let x := kgetD freshSens r s.pwr.volt
  let v := if x.last = [] then (if r = 11 then 850 else 0) else (medianInt x.last).toNat
  v * (supplyAmps s r).1

/-- The chip's power P in W (18 R634): the supplies of wards that the governor does not act on leave it. -/
def chipPower (s : State) : Nat :=
  let own := fun (r : Nat) => supplyWard r == 4 || governed s (supplyWard r)
  (((List.range 12).filter own).foldl (fun n r => n + supplyPower s r) 0) / 10000

def capW (s : State) : Nat := clampN 300 (fld (AON_GOV_CFG.reg.rvAt 0) 0 12) (s.rd AON_GOV_CFG.CAP)
def hystW (s : State) : Nat := atLeast1 (s.rd AON_GOV_CFG.HYST)
def throttleAt (s : State) : Nat := min 110 (s.rd AON_GOV_CFG.THROTTLE_AT)
def clkMax (s : State) (w : Nat) : Nat := clampN 32 (fld (AON_WARD_CLK.reg.rvAt w) 0 7) (s.rd AON_WARD_CLK.CLK_MAX w)
def clkNow (s : State) (w : Nat) : Nat := s.rd AON_WARD_CLK.CLK_NOW w

/-- A ward's hottest value; one with more than four dropped sensors counts as at THROTTLE_AT (18 R635). -/
def wardTemp (s : State) (w : Nat) : Int :=
  let ks := (List.range 16).map (16 * w + ·)
  let hot := (maxInt (ks.filterMap (tempOf s))).getD (-40)
  if 4 < (ks.filter fun k => (kgetD freshSens k s.pwr.temp).dropped).length then throttleAt s else hot

/-- A ward's clock changed, for event 0x1001: the lowest clock of this window, and the last cause. -/
def noteClock (s : State) (w cause : Nat) : State :=
  let low := match kget w s.pwr.win with
    | some (c, _) => min c (clkNow s w)
    | none => clkNow s w
  { s with pwr := { s.pwr with win := kput w (low, cause) s.pwr.win } }

/-- Voltage commanded to a ward's rail, where its bus works (18 R631, R632). -/
def voltCommand (s : State) (w mv : Nat) : State :=
  if avsFailed s w then s else (s.wr AON_WARD_CLK.V_NOW mv w).emit (.board 2 [w, mv])

/-- A clock falls: first the clock, then the voltage. -/
def clkLower (s : State) (w c cause : Nat) : State :=
  let c := max 32 c
  if clkNow s w ≤ c then s
  else
    let t := { s.wr AON_WARD_CLK.CLK_NOW c w with pwr := { s.pwr with want := kdel w s.pwr.want } }
    voltCommand (noteClock t w cause) w (Config.vfCurve w c)

/-- A clock rises: first the voltage; the clock follows once it has settled. -/
def clkRaise (s : State) (w c : Nat) : State :=
  let t := voltCommand s w (Config.vfCurve w c)
  { t with pwr := { t.pwr with want := kput w c t.pwr.want } }

/-- LIMITED and ISSUE follow the clocks; source 38 is raised when a ward becomes LIMITED (18 R639). -/
def limitedSync (s : State) : State :=
  let was := s.rd AON_GOV_STAT.LIMITED
  let lim := fun (w : Nat) => !wardOut s w && (decide (clkNow s w < clkMax s w) || (governed s w && decide (0 < s.pwr.issue)))
  let t := s.wr AON_GOV_STAT.LIMITED (packBits ((List.range 4).map lim))
  let t := t.wr AON_GOV_STAT.ISSUE (packBits ((List.range 4).map fun w => governed s w && decide (0 < s.pwr.issue)))
  (List.range 4).foldl (fun t w => if lim w ∧ ¬ was.testBit w then irqRaise t 38 else t) t

/-- The issue step changes for every governed ward. -/
def issueSet (s : State) (n : Nat) : State :=
  let t := { s with pwr := { s.pwr with issue := n } }
  (((List.range 4).filter (governed t)).foldl (fun t w => noteClock t w 0) t)

/-- The member of a list with the least value of `f`, the first of equals. -/
def firstMin (f : Nat → Int) : List Nat → Option Nat
  | [] => none
  | a :: l => some (l.foldl (fun b x => if f x < f b then x else b) a)

/-- P is written to the registers. A ward whose clock has no value yet runs at CLK_MAX. -/
def governStart (s : State) (p : Nat) : State :=
  let t := s.wr AON_GOV_STAT.P_CHIP (min 4095 p)
  (List.range 4).foldl (fun t w =>
    let t := t.wr AON_WARD_CLK.P_CORE (if governed t w then min 1023 (supplyPower t w / 10000) else 0) w
    if governed t w ∧ clkNow t w = 0 then
      voltCommand (t.wr AON_WARD_CLK.CLK_NOW (clkMax t w) w) w (Config.vfCurve w (clkMax t w))
    else t) t

/-- Raising: issue throttling goes first, then the ward with the lowest clock rises (R637 step 4, R638). A ward that is hot,
or whose bus has failed, or whose clock already waits for its voltage, is skipped. -/
def governRaise (s : State) (gs : List Nat) (p : Nat) : State :=
  if capW s - hystW s ≤ p then { s with pwr := { s.pwr with below := 0 } }
  else if 0 < s.pwr.issue then issueSet s (s.pwr.issue - 1)
  else
    let n := s.pwr.below + 1
    let t := { s with pwr := { s.pwr with below := n } }
    if n < 10 then t
    else
      let can := fun (w : Nat) => decide (clkNow t w < clkMax t w) && !t.pwr.hot.contains w && !avsFailed t w &&
        (kget w t.pwr.want).isNone
      match firstMin (fun w => (clkNow t w : Int)) (gs.filter can) with
      | some w => clkRaise { t with pwr := { t.pwr with below := 0 } } w (clkNow t w + 1)
      | none => t

/-- Lowering for power (R637 steps 2 and 3, R638). `thermal` is the ward a thermal lowering is due for. -/
def governLower (s : State) (gs : List Nat) (p : Nat) (thermal : Option Nat) : State :=
  let cap := capW s
  let fast := decide (11 * cap < 10 * p)
  let t : State := match thermal with
    | some w => if fast then s else clkLower s w (clkNow s w - 4) 1
    | none => s
  if p ≤ cap then t
  else if gs.all fun w => clkNow s w ≤ 32 then
    if s.pwr.issue = 3 then t.count AON_GOV_STAT.OVER_CAP else issueSet t (s.pwr.issue + 1)
  else if fast then gs.foldl (fun t w => clkLower t w (clkNow t w - 20) 0) t
  else match firstMin (fun w => -(s.rd AON_WARD_CLK.P_CORE w : Int)) (gs.filter fun w => decide (32 < clkNow s w)) with
    | some w => if thermal = some w then t else clkLower t w (clkNow t w - 4) 0
    | none => t

/-- GOVERNOR_TICK (18 R637). -/
def governTick (s : State) : State :=
  let p := chipPower s
  let gs := (List.range 4).filter (governed s)
  let t := governStart s p
  let t := gs.foldl (fun t w => if clkMax t w < clkNow t w then clkLower t w (clkMax t w) 2 else t) t
  let limit : Int := throttleAt t
  let hot := (List.range 4).filter fun w => decide (limit ≤ wardTemp t w) || (t.pwr.hot.contains w && decide (limit - 3 ≤ wardTemp t w))
  let t := { t with pwr := { t.pwr with hot := hot } }
  let thermal := firstMin (fun w => -(wardTemp t w)) (gs.filter fun w => decide (limit ≤ wardTemp t w))
  let t := governLower t gs p thermal
  limitedSync (if p ≤ capW t then governRaise t gs p else { t with pwr := { t.pwr with below := 0 } })

/-- VOLTAGE_SETTLED: the clock that waited for its voltage switches (18 R631). -/
def voltSettled (s : State) (w : Nat) : State :=
  match kget w s.pwr.want with
  | none => s
  | some c =>
    let t := avsGood { s.wr AON_WARD_CLK.CLK_NOW c w with pwr := { s.pwr with want := kdel w s.pwr.want } } w
    limitedSync (noteClock t w 0)

/-- VOLTAGE_SETTLE_TMO_EXPIRY: a step that has not settled is a failed transaction, and is commanded again (18 R631, R632). -/
def voltLate (s : State) (w : Nat) : State :=
  if avsFailed s w then s
  else
    let t := avsFail s w
    match kget w t.pwr.want with
    | some c => voltCommand t w (Config.vfCurve w c)
    | none => t

/-- GOV_EVENT_WINDOW: one event 0x1001 for each ward that changed (18 R639, R650). -/
def govWindow (s : State) : State :=
  let t := s.pwr.win.foldl (fun t e =>
    evPf0 t 0x1001 e.1 (e.2.1 + clkNow t e.1 * 2 ^ 8 + e.2.2 * 2 ^ 16 + t.pwr.issue * 2 ^ 18) (t.rd AON_GOV_STAT.P_CHIP)) s
  { t with pwr := { t.pwr with win := [] } }

end Sys2Proof.Machine
end

