-- ==== Sys2Proof/Machine/Trust.lean ====
section
/-!
DEFINITION. Sys2Proof/Machine/Trust.lean: the SPDM responder (14 R538, R539), the test port (14 R540, 18 R642, R646) and the
firmware fuses (14 R536). Codes of SPDM messages are those of the SPDM 1.2 specification (log entry 30).
-/
namespace Sys2Proof.Machine

/-! ## SPDM -/

/-- `n` bytes that the spec does not give: digests, certificates, signatures, measured images. -/
def attestBytes (s : State) (n : Nat) : List Byte := (List.range n).map fun i => Config.attest (s.fresh + i)

/-- An answer: its header, the bytes that are known, and as many more as it has. -/
def spdmSay (s : State) (code p1 p2 : Nat) (known : List Byte) : State :=
  let n := Config.answerLen s.fresh
  let t := s.emit (.spdm ([toB 0x12, toB code, toB p1, toB p2] ++ known ++ attestBytes s n))
  { t with fresh := s.fresh + n + 1 }

/-- ERROR: 1 invalid request, 3 busy, 4 unexpected request, 5 unspecified. -/
def spdmError (s : State) (code : Nat) : State := s.emit (.spdm [toB 0x12, toB 0x7F, toB code, 0])

/-- GET_VERSION starts the negotiation anew: SPDM 1.2 alone. -/
def spdmVersion (s : State) : State :=
  { s with keys := { s.keys with spdm := 1 } }.emit (.spdm [toB 0x10, toB 0x04, 0, 0, 0, 1, 0, toB 0x12])

/-- CERT, CHAL, MEAS with signature, ENCRYPT, MAC, KEY_EX, HBEAT, KEY_UPD. -/
def spdmFlags : Nat := 0x62D6

def spdmCapabilities (s : State) : State :=
  if s.keys.spdm < 1 then spdmError s 4
  else spdmSay { s with keys := { s.keys with spdm := max 2 s.keys.spdm } } 0x61 0 0 ([0, 0, 0, 0] ++ leBytes 4 spdmFlags)

def spdmAlgorithms (s : State) : State :=
  if s.keys.spdm < 2 then spdmError s 4 else spdmSay { s with keys := { s.keys with spdm := 3 } } 0x63 0 0 []

/-- Requests that need the whole negotiation. -/
def spdmNeeds (s : State) (f : State → State) : State := if s.keys.spdm < 3 then spdmError s 4 else f s

/-- Certificates are in slot 0 only: DIGESTS names it. -/
def spdmDigests (s : State) : State := spdmNeeds s fun s => spdmSay s 0x01 0 1 []

def spdmCertificate (s : State) (msg : List Byte) : State :=
  spdmNeeds s fun s => if (nthB msg 2).toNat % 16 ≠ 0 then spdmError s 1 else spdmSay s 0x02 0 0 []

/-- Signed answers need the identity key, which a chip that was unlocked has not (14 R539). -/
def spdmSigned (s : State) (f : State → State) : State := if s.keys.identity then f s else spdmError s 5

def spdmChallenge (s : State) (msg : List Byte) : State :=
  spdmNeeds s fun s => spdmSigned s fun s => if (nthB msg 2).toNat % 16 ≠ 0 then spdmError s 1 else spdmSay s 0x03 0 1 []

/-- What measurement `i` reports: what was recorded at readiness, or before it what its registers say (14 R537). -/
def measured (s : State) (i : Nat) : List Byte := (s.keys.meas[i - 1]?).getD (measureRegs s i)

/-- GET_MEASUREMENTS: parameter 1 bit 0 asks for a signature; parameter 2 is 0 for how many there are, an index, or 0xFF for
all. -/
def spdmMeasurements (s : State) (msg : List Byte) : State :=
  let i := (nthB msg 3).toNat
  let say := fun (s : State) =>
    if i = 0 then spdmSay s 0x60 7 0 []
    else if i ≤ 7 then spdmSay s 0x60 0 0 (measured s i)
    else if i = 0xFF then spdmSay s 0x60 0 0 ((List.range 7).flatMap fun k => measured s (k + 1))
    else spdmError s 1
  spdmNeeds s fun s => if (nthB msg 2).toNat % 2 = 1 then spdmSigned s say else say s

def sessSync (s : State) : State := s.wr SEC_STAT.SESSIONS s.keys.sess.length

/-- KEY_EXCHANGE opens a session, two at most. Its ID is the requester's half, bytes 4 and 5, below a half that the chip chooses. -/
def spdmKeyExchange (s : State) (msg : List Byte) : State :=
  spdmNeeds s fun s => spdmSigned s fun s =>
    if 2 ≤ s.keys.sess.length then spdmError s 3
    else
      let own := [Config.drbg s.fresh, Config.drbg (s.fresh + 1)]
      let id := leNat ((msg.drop 4).take 2) + leNat own * 2 ^ 16
      let secret := (List.range 32).map fun i => Config.drbg (s.fresh + 2 + i)
      let t := { s with fresh := s.fresh + 34, keys := { s.keys with sess := s.keys.sess ++ [⟨id, false, secret⟩] } }
      spdmSay (sessSync t) 0x64 0 0 own

/-- The session that a message in a session names in its first four bytes. -/
def sessOf (s : State) (msg : List Byte) (up : Bool) : Option Sess :=
  s.keys.sess.find? fun x => x.id == leNat (msg.take 4) && x.up == up

/-- FINISH ends a session's handshake. -/
def spdmFinish (s : State) (msg : List Byte) : State :=
  match sessOf s msg false with
  | none => spdmError s 4
  | some x =>
    let f := fun (y : Sess) => if y.id = x.id then { y with up := true } else y
    spdmSay { s with keys := { s.keys with sess := s.keys.sess.map f } } 0x65 0 0 []

/-- A request of an open session, and its answer's code. -/
def spdmInSession (s : State) (msg : List Byte) (code : Nat) : State :=
  if (sessOf s msg true).isSome then spdmSay s code 0 0 [] else spdmError s 4

/-- END_SESSION closes a session: its secrets go. -/
def spdmEnd (s : State) (msg : List Byte) : State :=
  match sessOf s msg true with
  | none => spdmError s 4
  | some x =>
    spdmSay (sessSync { s with keys := { s.keys with sess := s.keys.sess.filter fun y => y.id != x.id } }) 0x6C 0 0 []

/-! ## IDE_KM (03 R134, 14 R538) -/

/-- The VENDOR_DEFINED_RESPONSE that carries an IDE_KM message. -/
def ideSay (s : State) (km : List Byte) : State :=
  s.emit (.spdm ([toB 0x12, toB 0x7E, 0, 0, 3, 0, 2, 1, 0] ++ leBytes 2 km.length ++ km))

/-- The key that byte 6 of an IDE_KM message names: sub-stream, key set, direction. -/
def ideKey (b : Nat) : Nat := b / 16 * 32 + b % 2 * 2 + b / 2 % 2

/-- Changes a stream. -/
def ideMap (s : State) (id : Nat) (f : IdeStream → IdeStream) : State :=
  { s with keys := { s.keys with ide := s.keys.ide.map fun x => if x.id = id then f x else x } }

/-- KEY_PROG: the status of KP_ACK (0 success, 1 wrong length, 2 no such port, 3 another field) and the state after it. A fifth
stream has no place (R134). The requester IDs of a new stream are those of its configuration registers, which no command of the
table writes: none. -/
def keyProg (s : State) (km : List Byte) : State × Nat :=
  let id := (nthB km 4).toNat
  let k := ideKey (nthB km 6).toNat
  let key := (km.drop 8).take 40
  let put := fun (x : IdeStream) => { x with keys := kput k key x.keys }
  if key.length ≠ 40 then (s, 1)
  else if nthB km 7 ≠ 0 then (s, 2)
  else if s.keys.ide.any fun x => x.id == id then (ideMap s id put, 0)
  else if 4 ≤ s.keys.ide.length then (s, 3)
  else ({ s with keys := { s.keys with ide := s.keys.ide ++ [⟨id, (0, 0), [(k, key)], []⟩] } }, 0)

/-- An IDE_KM message: QUERY, KEY_PROG, K_SET_GO or K_SET_STOP; a stopped key set loses its key, and a stream without keys its
place. Its layout is that of the PCI Express base specification (PRESUMED, log entry 30). -/
def ideKm (s : State) (km : List Byte) : State :=
  let op := (nthB km 1).toNat
  let id := (nthB km 4).toNat
  let k := ideKey (nthB km 6).toNat
  let ack := fun (code mid : Nat) => [0, toB code, 0, 0, nthB km 4, toB mid, nthB km 6, nthB km 7]
  if op = 0 then spdmSay s 0x7E 0 0 [3, 0, 2, 1, 0]
  else if op = 2 then ideSay (keyProg s km).1 (ack 3 (keyProg s km).2)
  else if op = 4 then
    ideSay (ideMap s id fun x => if (kget k x.keys).isSome then { x with going := sput k x.going } else x) (ack 6 0)
  else if op = 5 then
    let t := ideMap s id fun x => { x with keys := kdel k x.keys, going := x.going.filter (· != k) }
    ideSay { t with keys := { t.keys with ide := t.keys.ide.filter fun x => decide (x.keys ≠ []) } } (ack 6 0)
  else spdmError s 1

/-- VENDOR_DEFINED_REQUEST of an open session: after the session's ID and its own header of 11 bytes, an IDE_KM message. -/
def spdmVendor (s : State) (msg : List Byte) : State :=
  if (sessOf s msg true).isSome then ideKm s (msg.drop 15) else spdmError s 4

/-! ## Test port -/

/-- The chip's unique ID (14 R540 step 1, 19 R659). -/
def uniqueId (s : State) : List Byte := leBytes 8 (s.rd CHIP_UID_LO.UID_LO) ++ leBytes 8 (s.rd CHIP_UID_HI.UID_HI)

/-- UNLOCK_REQ: a fresh nonce, which voids the one before. -/
def unlockReq (s : State) : State :=
  let nonce := (List.range 32).map fun i => Config.drbg (s.fresh + i)
  { s with fresh := s.fresh + 32, keys := { s.keys with nonce := some nonce } }.emit (.tap (uniqueId s ++ nonce))

/-- UNLOCK_TOKEN: the unique ID, the nonce, the scope in 8 bytes, and the signature (log entry 31). One that verifies resets
the chip (14 R540 steps 4 to 6). -/
def unlockToken (s : State) (token : List Byte) : State :=
  if some ((token.drop 16).take 32) = s.keys.nonce ∧ token.take 16 = uniqueId s ∧ Config.tokenSigned token then
    let t := { s with start := { s.start with unlock := some (leNat ((token.drop 48).take 8)) } }
    if t.rd CHIP_SLEEP.STATE = 3 then deepExit (unlocked t) else resetAsk t 1 (5 * 1024) 6 none
  else s

/-- IDCODE (18 R646). -/
def idcode (s : State) : Nat := s.rd CHIP_ID.STEP_MAJOR * 2 ^ 28 + s.rd CHIP_ID.PART * 2 ^ 12 + 0x51A * 2 + 1

/-- TAP_INSTRUCTION: 0x01 IDCODE, 0x02 SAMPLE/PRELOAD, 0x00 EXTEST, 0x03 HIGHZ, 0x04 CLAMP, 0x10 internal scan; every other
code is BYPASS (log entry 31). One that is not available acts as BYPASS (14 R540). -/
def tapInstr (s : State) (ir : Nat) : State :=
  let ok := ir == 1 || ir == 2 || ((ir == 0 || ir == 3 || ir == 4) && s.ctl.low.testBit 0) || (ir == 0x10 && s.on SEC_DEBUG.SCAN)
  let t := { s with ctl := { s.ctl with tap := if ok then ir else 0xFF } }
  if ir = 1 then t.emit (.tap (leBytes 4 (idcode s))) else t

/-- TEST_PORT_RESET: IDCODE is selected. -/
def tapReset (s : State) : State := { s with ctl := { s.ctl with tap := 1 } }

/-! ## Firmware fuses -/

/-- A write to SEC_FW (14 R536). -/
def secFwWrite (s : State) (v : Nat) : State :=
  if s.on CHIP_LOCK.LOCK then s
  else
    let ks := wrote SEC_FW.REVOKE v
    let own := 2 ^ s.rd SEC_FW.KEYSEL
    let t := s.wr SEC_FW.REVOKED (s.rd SEC_FW.REVOKED ||| (ks - (ks &&& own)))
    if wrote SEC_FW.ADVANCE v = 0 then t
    else
      let old := s.rd SEC_FW.SVN_FUSED
      let new := max old (s.rd SEC_FW.SVN_IMAGE)
      evPf0 (t.wr SEC_FW.SVN_FUSED new) 0x0C03 old new 0

end Sys2Proof.Machine
end

