-- ==== Sys2Proof/Machine/RegWrite.lean ====
section
/-!
DEFINITION. Sys2Proof/Machine/RegWrite.lean: what a write to each set-up register does, through the control plane's log where the
register belongs to an output stage (00 R14 to R18, 17 R608 to R610, 19 R652 to R657).
-/
namespace Sys2Proof.Machine

/-! ## Watch, reset and Elder registers -/

/-- A write to FLT_FIRST: VALID 1 empties the latch and clears OVF (15 R551, R574). -/
def fltFirstWrite (s : State) (c v : Nat) : State :=
  if wrote FLT_FIRST.VALID v = 0 then s
  else
    let t := (s.wr FLT_FIRST.VALID 0 c).wr FLT_FIRST.OVF 0 c
    { t with watch := { t.watch with latched := kdel c t.watch.latched } }

/-- A write to FLT_CNT_CLR (15 R574). -/
def fltCntClr (s : State) (c v : Nat) : State :=
  if wrote FLT_CNT_CLR.CLEAR v = 0 then s else (s.clrReg FLT_CNT.reg c).wr FLT_WIRE.BROKEN 0 c

/-- The enabled partition that a unit works for, 16 for none or several. -/
def unitPart (s : State) (kind inst : Nat) : Nat :=
  let p := if kind = 0 then s.partOfSlice (inst / 17) else if kind = 1 ∨ kind = 7 then s.partOfSlice inst
    else if kind = 2 then s.partOfChan inst
    else if kind = 6 ∧ 1 ≤ inst ∧ inst ≤ 16 then some (inst - 1) else none
  p.getD 16

/-- A write to FLT_INJECT: GO injects one error, or a broken wire, while the chip lock is 0 (15 R574). -/
def injectWrite (s : State) (v : Nat) : State :=
  let t := plainWrite s FLT_INJECT.reg 0 0 0 v
  if wrote FLT_INJECT.GO v = 0 ∨ t.on CHIP_LOCK.LOCK then t
  else
    let src := t.rd FLT_INJECT.SRC
    let kind := fld src 0 4
    let inst := fld src 4 9
    let cls := t.rd FLT_INJECT.CLASS
    if t.on FLT_INJECT.WIRE then brokenWire t kind inst false
    else if cls = 0 then t
    else errorReport t.tickFresh
      ⟨kind, inst, fld src 13 8, cls, unitPart t kind inst, 0xFF, 0, none, 0, [], false, (Config.openValue t.fresh).toNat % 8⟩

/-- A write to CHIP_RST_CTL (16 R594, R596). A TARGET that names no ward, or no enabled partition, starts nothing. -/
def rstCtlWrite (s : State) (v : Nat) : State :=
  if s.rd CHIP_SLEEP.STATE = 3 then s
  else
    let t := plainWrite s CHIP_RST_CTL.reg 0 0 0 v
    let k := t.rd CHIP_RST_CTL.KIND
    let i := t.rd CHIP_RST_CTL.TARGET
    if wrote CHIP_RST_CTL.GO v = 0 then t
    else if 1 ≤ k ∧ k ≤ 3 then resetAsk t k (5 * 1024) 1 none
    else if k = 4 ∧ i < 4 then resetAsk t 4 (4 * 1024 + i) 1 none
    else if k = 5 ∧ i < 16 ∧ t.partOn i then resetAsk t 5 (3 * 1024 + i) 1 none
    else t

/-- A write to CHIP_CFG (16 R593). -/
def chipCfgWrite (s : State) (v : Nat) : State :=
  let t := plainWrite s CHIP_CFG.reg 0 0 0 v
  if wrote CHIP_CFG.TALLY_FORGET v = 0 then t else tallyForget t

/-- A write to AON_SLEEP: WAKE leaves DEEP (16 R601). -/
def aonSleepWrite (s : State) (v : Nat) : State := if wrote AON_SLEEP.WAKE v = 0 then s else deepExit s

/-- REARM of a unit that is out of service (17 R618, R621). -/
def rearmUnit (s : State) (u : Nat) : State :=
  if eldSt s u = 6 ∧ (activeElder s).isSome then resyncBegin { s with eld := { s.eld with tries := 0 } } u else s

/-- A write to ELD_CTL (17 R618, R620). -/
def eldCtlWrite (s : State) (v : Nat) : State :=
  let t := if wrote ELD_CTL.REARM_A v = 0 then s else rearmUnit s 0
  let t := if wrote ELD_CTL.REARM_B v = 0 then t else rearmUnit t 1
  if wrote ELD_CTL.HANDOVER v = 0 ∨ ¬ commitOk t then t
  else if eldSt t 0 = 3 then takeControl t 0 4 0
  else if eldSt t 1 = 3 then takeControl t 1 4 0
  else t

/-- A write to ELD_CNT_CLR (17 R623). -/
def eldCntClr (s : State) (v : Nat) : State := if wrote ELD_CNT_CLR.CLEAR v = 0 then s else s.clrReg ELD_CNT.reg

/-! ## One register -/

/-- What a write to a register does, once it takes effect. -/
def regAct (s : State) (a : RegAt) (vf : Bool) (v : Nat) : State :=
  let i := a.i
  if a.is PRT_CTL.reg then prtCtlWrite s i v vf
  else if a.is PRT_COR_CTL.reg then corCtlWrite s i a.j v vf
  else if a.is PRT_SR_SEED.reg then seedWrite s i v vf
  else if a.is PRT_ARITH_STAT.reg then arithStatWrite s i v vf
  else if a.is PRT_XLT_STAT_CLR.reg then xltStatClr s i v
  else if a.is PRT_PROG_LOAD.reg then progLoadWrite s i v vf
  else if a.is PRT_RGN_CFG.reg then rgnCfgWrite s i a.j v vf
  else if a.is PRT_RGN_CLR.reg then rgnClr s i v
  else if a.is PRT_SYNC_CLR.reg then syncClr s i v
  else if a.is PRT_NEAR_CFG.reg then nearTrim (writeReg s a vf v) i
  else if a.is PRT_SEC_CLR.reg then secClr s i v
  else if a.is RNG_CTL.reg then pump (rngCtlWrite s i v)
  else if a.is XLT_COH_CTL.reg then pump (cohCtlWrite s i v)
  else if a.is PORT_CTL.reg then portCtlWrite s i v
  else if a.is PORT_CNT_CLR.reg then portCntClr s i v
  else if a.is XRD_CNT_CLR.reg then xrdCntClr s v
  else if a.is XRD_TIME_CFG.reg then guardAll (writeReg s a vf v)
  else if a.is QOS_PORT_CFG.reg then guardUpdate (writeReg s a vf v) i
  else if a.is QOS_GATE_CTL.reg then gateCtlWrite s i v
  else if a.is QOS_PORT_HSEL.reg then portHselWrite s i v
  else if a.is QOS_CH_HSEL.reg then chHselWrite s i v
  else if a.is QOS_CFG.reg then cutCredits (writeReg s a vf v)
  else if a.is QOS_REG.reg then qosRegWrite s i v
  else if a.is DDR_CTL.reg then ddrCtlWrite s i v
  else if a.is DDR_CNT_CLR.reg then ddrCntClr s i v
  else if a.is NVM_CTL.reg then nvmCtlWrite s i v
  else if a.is SEC_FW.reg then secFwWrite s v
  else if a.is FLT_INJECT.reg then injectWrite s v
  else if a.is FLT_FIRST.reg then fltFirstWrite s i v
  else if a.is FLT_CNT_CLR.reg then fltCntClr s i v
  else if a.is IRQ_SRC_CFG.reg then irqCfgWrite s i v
  else if a.is IRQ_SRC_CNT.reg then irqAck s i v
  else if a.is IRQ_STAT_CLR.reg then irqStatClr s v
  else if a.is CHIP_RST_CTL.reg then rstCtlWrite s v
  else if a.is CHIP_CFG.reg then chipCfgWrite s v
  else if a.is CHIP_LOCK.reg then lockWrite s v
  else if a.is CHIP_SLEEP.reg then sleepWrite s v
  else if a.is CHIP_RECOVERY_CTL.reg then recoveryGo s v
  else if a.is AON_SLEEP.reg then aonSleepWrite s v
  else if a.is ELD_CTL.reg then eldCtlWrite s v
  else if a.is ELD_CNT_CLR.reg then eldCntClr s v
  else writeReg s a vf v

/-- A write at an offset of PF0 BAR0 takes effect; an offset without a register ignores it (00 R15, 19 R653). -/
def applyWrite (s : State) (vf : Bool) (off v : Nat) : State :=
  match findReg off with
  | some a => regAct s a vf v
  | none => s

/-! ## Output stages (17 R608 to R610) -/

/-- Whether a write that waits cannot commit yet: PRT_CTL.ENABLE is written 0 while a reset encloses its partition (19 R663). -/
def writeWaits (s : State) (off v : Nat) : Bool :=
  match findReg off with
  | some a => a.is PRT_CTL.reg && s.partOn a.i && wrote PRT_CTL.ENABLE v == 0 && partResetting s a.i
  | none => false

/-- A write to an output-stage register enters the log, and is committed at once where nothing is before it (17 R610). -/
def stagedWrite (s : State) (vf : Bool) (off v : Nat) : State :=
  if commitFree s && !writeWaits s off v then committed (applyWrite s vf off v) else logPut s (.write vf off v)

/-- Whether the input at the head of the log goes on waiting. -/
def entWaits (s : State) (e : LogEnt) : Bool :=
  match e with
  | .write _ off v => writeWaits s off v
  | _ => false

/-- One input that waited in the log commits. -/
def logCommit (s : State) (e : LogEnt) : State :=
  match e with
  | .write vf off v => committed (applyWrite s vf off v)
  | _ => applyEnt s e

/-- Inputs that wait in the log commit in its order, up to one that has to wait (17 R608, R615 step 4, R616). -/
def logRun : Nat → State → State
  | 0, s => s
  | n + 1, s => match s.eld.log with
    | [] => s
    | e :: l =>
      if ¬ commitOk s ∨ entWaits s e then s
      else logRun n (logFill (logCommit { s with eld := { s.eld with log := l } } e))

/-- What waits in the log goes on, and descriptors with it. -/
def logDrain (s : State) : State := pump (logRun (s.eld.log.length + s.eld.more.length + s.started.length) s)

/-! ## A host write -/

/-- The rule that calls a write a host error without an outcome, 0 for none: a set-up field of a running ring (03 R144) or a value
that its table excludes (03 R142), a change of GRAIN under extents (02 R111) or to an excluded value (02 R128), two live slots with
one tag (02 R74), near-store shares that leave too little (04 R179) or less than is pinned (04 R214), WB_LOW above WB_HIGH
(04 R191), credit shares above 256
(10 R387), regulator minimums above 256 (12 R474). `new` is the value the register would hold. -/
def writeError (s : State) (a : RegAt) (new : Nat) : Nat :=
  let old := s.rdReg a.row.reg a.i a.j a.k
  let i := a.i
  let byteSum := fun (v : Nat) => (List.range 8).foldl (fun n k => n + fld v (8 * k) 8) 0
  if (a.is RNG_DESC_BASE.reg || a.is RNG_CPL_BASE.reg || a.is RNG_LOC.reg) && s.on RNG_CTL.ENABLE i then
    if old = new then 0 else 144
  else if a.is RNG_CFG.reg then
    if s.on RNG_CTL.ENABLE i ∧ setFld old RNG_CFG.WEIGHT.lo 8 0 ≠ setFld new RNG_CFG.WEIGHT.lo 8 0 then 144
    else if 16 < wrote RNG_CFG.OWNER new ∨ 10 < wrote RNG_CFG.LOG_DESC new ∨ 10 < wrote RNG_CFG.LOG_CPL new then 142
    else 0
  else if a.is PRT_XLT_CFG.reg then
    if wrote PRT_XLT_CFG.GRAIN old = wrote PRT_XLT_CFG.GRAIN new then 0
    else if 8 < wrote PRT_XLT_CFG.GRAIN new then 128
    else if s.extents.any fun e => e.2.part == i then 111 else 0
  else if a.is XLT_SPACE_LO.reg then
    match s.spaceSlot (wrote XLT_SPACE_LO.TAG new) with
    | some k => if k ≠ i ∧ wrote XLT_SPACE_LO.LIVE new = 1 then 74 else 0
    | none => 0
  else if a.is PRT_NEAR_CFG.reg then
    let used := wrote PRT_NEAR_CFG.ACC_RES new + wrote PRT_NEAR_CFG.PIN_MAX new
    if (s.slicesOf i).any fun sl => decide (clampN 16 48 (s.rd SLC_NEAR_SIZE.NEAR_MIB sl) < used + 4) then 179
    else if (s.slicesOf i).any fun sl => decide (wrote PRT_NEAR_CFG.PIN_MAX new * 2 ^ 14 < homedOn s i sl (pinRuns s i false)) then 214
    else 0
  else if a.is PRT_DCACHE_CFG.reg then
    if atLeast1 (wrote PRT_DCACHE_CFG.WB_HIGH new) < wrote PRT_DCACHE_CFG.WB_LOW new then 191 else 0
  else if a.is PORT_CREDIT_H.reg || a.is PORT_CREDIT_D.reg then if 256 < byteSum new then 387 else 0
  else if a.is QOS_REG.reg then if 256 < minSum s i (wrote QOS_REG.MIN new) then 474 else 0
  else 0

/-- The value that a register would hold after a write by its access codes. -/
def newValue (s : State) (a : RegAt) (vf : Bool) (v : Nat) : Nat := (writeReg s a vf v).rdReg a.row.reg a.i a.j a.k

/-- Bytes of the register at an offset: XRD_ROUTE has 32 bits, every other register 64 (00 R14). -/
def regWidth (off : Nat) : Nat := if XRD_ROUTE.reg.base ≤ off ∧ off < XRD_ROUTE.reg.base + 0x40000 then 4 else 8

/-- The register that a byte at an offset belongs to (00 R14, R15). -/
def regOfByte (b : Nat) : Option RegAt := findReg (b / regWidth b * regWidth b)

/-- What a read of a doorbell page returns at an offset in it (03 R146). -/
def doorbellRead (s : State) (r off : Nat) : Nat :=
  if off = 0 then s.rd RNG_IDX.PIDX r else if off = 8 then s.rd RNG_CPL_IDX.CCIDX r
  else if off = 0x10 then s.rd RNG_IDX.CIDX r else 0

/-- A word of a function's pending-bit array: the pending bits of 64 vectors (03 R131, R132). -/
def pbaWord (s : State) (func i : Nat) : Nat :=
  packBits ((List.range 64).map fun k => s.irq.msixPend.contains (msixKey func (64 * i + k)))

/-- The offset of a function's pending-bit array (03 R131). -/
def pbaBase (func : Nat) : Nat := if func = 0 then 0x03F80000 else 0x18000

/-- What function `func` reads at offset `off` of its BAR0 (00 R15, R16, 03 R131, R146): its MSI-X table, its pending-bit
array, a VF's doorbell pages, the set-up registers; an offset that holds none of these, or that SAFE or a reset keeps from
being served, reads zero (16 R580, R597). A read changes nothing, and the command table has no row for it. -/
def hostRead (s : State) (func off : Nat) : Nat :=
  if ¬ served s func off then 0
  else match msixAt func off with
  | some (vec, i) => msixWord s func vec i
  | none =>
    if pbaBase func ≤ off ∧ off < pbaBase func + vecCount func / 8 then pbaWord s func ((off - pbaBase func) / 8)
    else if func ≠ 0 ∧ 0x100000 ≤ off then
      match dbSlot s func ((off - 0x100000) / 0x1000) with
      | some r => doorbellRead s r (off % 0x1000)
      | none => 0
    else match (viewOff s func off).bind findReg with
      | some a => readReg s a
      | none => 0

/-! ## Configuration space IDs (19 R659) -/

/-- Vendor ID and Subsystem Vendor ID of PF0. -/
def pciVendor (s : State) : Nat := s.rd CHIP_ID.PCI_VID

/-- Device ID of PF0 (function 0), and VF Device ID. -/
def pciDevice (s : State) (func : Nat) : Nat := s.rd CHIP_ID.PART + (if func = 0 then 0 else 1)

/-- Revision ID. -/
def pciRevision (s : State) : Nat := s.rd CHIP_ID.STEP_MAJOR * 16 + s.rd CHIP_ID.STEP_MINOR

/-- Subsystem ID. -/
def pciSubsystem (_s : State) : Nat := 0

/-! ## Host errors (00 R26 to R28) -/

/-- What a host error in a VF's registers comes to: the fields that the VF may write in the register at that place hold free
values, and nothing else changes, so that it stays within the partition (00 R27; DESIGN CHOICE, log entry 11). -/
def wildWrite (s : State) (off : Nat) : State :=
  match findReg (off / 8 * 8) with
  | some a => writeReg s.tickFresh a true (Config.openValue s.fresh).toNat
  | none => s

/-- A host error that a register access makes: PF0's may reach the whole chip and has no outcome (00 R26, R28); a VF's, and
those that their rules bound by R27 whoever makes them (02 R111, 04 R179, R191), stay within the partition (00 R27). -/
def accessError (s : State) (func off rule : Nat) : Host.Outcome State Fault Refusal :=
  if func = 0 ∧ ¬ [111, 179, 191].contains rule then .fault (.hostError rule) else .next (wildWrite s off)

/-- REGISTER_WRITE: function `func` writes `v` at offset `off` of its BAR0, with a 64-bit access, or a 32-bit one where
`narrow` is set (00 R14). -/
def hostWrite (s : State) (func off v : Nat) (narrow : Bool) : Host.Outcome State Fault Refusal :=
  if s.rd CHIP_SLEEP.STATE = 3 ∧ ¬ (0x100000 ≤ off ∧ off < 0x200000 ∧ func = 0) then .next s
  else if ¬ served s func off then .next s
  else
    let w := if narrow then 4 else 8
    match msixAt func off with
    | some (vec, i) =>
      if off % w ≠ 0 then accessError s func off 14
      else if narrow then .next (msixWrite s func vec i (setFld (msixWord s func vec i) (off % 8 * 8) 32 v))
      else .next (msixWrite s func vec i v)
    | none =>
      match viewOff s func off with
      | none => .next s
      | some o =>
        if regOfByte o = none ∧ regOfByte (o + w - 1) = none then .next s
        else if o % w ≠ 0 ∨ w ≠ regWidth o then accessError s func o 14
        else match findReg o with
          | none => .next s
          | some a =>
            let e := writeError s a (newValue s a (func != 0) v)
            if e ≠ 0 then accessError s func o e
            else if stageOf a = 0 then .next (regAct s a (func != 0) v)
            else .next (stagedWrite s (func != 0) o v)

end Sys2Proof.Machine
end

