-- ==== Sys2Proof/Machine/ElderRun.lean ====
section
/-!
DEFINITION. Sys2Proof/Machine/ElderRun.lean: self-checks, freezes and their ends, commits of the Elders' proposals, and
resynchronisation (17 R613 to R621).
-/
namespace Sys2Proof.Machine

/-! ## Freeze and start (17 R615 to R617) -/

/-- Units whose self-check a freeze, or the start, waits for. -/
def checking (s : State) : List Nat :=
  if s.on ELD_STAT.FROZEN then [0, 1].filter (inService s) else [0, 1].filter fun u => eldSt s u == 1

/-- The unit that wins: the home Elder where both passed. -/
def winner (s : State) : Option Nat :=
  let ok := (checking s).filter fun u => kget u s.eld.codes == some 0
  if ok.contains (homeElder s) then some (homeElder s) else ok.head?

/-- Neither Elder can go on: a fatal error of kind 10, and a POOL reset follows (17 R616). The spec gives its ERR no value. -/
def eldersGone (s : State) : State :=
  errorReport s.tickFresh ⟨10, s.rd ELD_STAT.ACTIVE, (Config.openValue s.fresh).toNat % 256, 3, 16, 0xFF, 0, none, 0, [], false, 0⟩

/-- The freeze ends: the winner takes control, the log is replayed, and a loser that passed returns (17 R615 steps 3 to 5). -/
def thaw (s : State) : State :=
  match winner s with
  | none =>
    eldersGone ((checking s).foldl (fun t u => eldLeave t u (kgetD 4 u t.eld.codes)) s)
  | some u =>
    let us := (s.now - s.eld.frozenAt) / 1000
    let lost := (checking s).filter fun x => x != u
    let t := (lost.filter fun x => kget x s.eld.codes != some 0).foldl (fun t x => eldLeave t x (kgetD 4 x t.eld.codes)) s
    let t := setCheck ((t.wr ELD_STAT.FROZEN 0).wr ELD_CNT.LONGEST_FREEZE (max (t.rd ELD_CNT.LONGEST_FREEZE) (min 65535 us))) u 0
    let t := { takeControl t u t.eld.trigger us with eld := { t.eld with trigger := 0, codes := [] } }
    let t := t.wr ELD_STAT.SOLO 1
    let t := (lost.filter fun x => kget x s.eld.codes == some 0).foldl resyncBegin t
    logDrain t

/-- A unit's self-check of the start, for the Tally (17 R617). -/
def checkEntry (s : State) (u : Nat) : State :=
  let c := kgetD 4 u s.eld.codes
  setCheck (tallyEntry s 0x0A u (if c = 0 then 1 else if c = 4 then 3 else 2) 0 0 c) u c

/-- Both units of a starting chip have reported: the winner loads Rinide, or the chip enters SAFE (17 R617). -/
def startChecked (s : State) : State :=
  let t := (s.eld.codes.map (·.1)).foldl checkEntry s
  match winner s with
  | none => toSafe t 3 2 0
  | some u =>
    let lost := (checking s).filter fun x => x != u
    let t := (lost.filter fun x => kget x s.eld.codes != some 0).foldl (fun t x => eldLeave t x (kgetD 4 x t.eld.codes)) t
    let t := { takeControl t u 3 0 with eld := { t.eld with trigger := 0, codes := [] } }
    let t := t.wr ELD_STAT.SOLO 1
    step5Check (logDrain ((lost.filter fun x => kget x s.eld.codes == some 0).foldl resyncBegin t))

/-- Goes on once every unit that is waited for has reported. -/
def checksDone (s : State) : State :=
  if ¬ (checking s).all fun u => (kget u s.eld.codes).isSome then s
  else if s.on ELD_STAT.FROZEN then thaw s
  else if s.eld.trigger = 3 then startChecked s
  else s

/-- A unit reports its self-check code, once in each freeze or start (17 R615 step 2). -/
def selfCheck (s : State) (u code : Nat) : State :=
  if ¬ (checking s).contains u ∨ (kget u s.eld.codes).isSome then s
  else checksDone { s with eld := { s.eld with codes := kput u (code % 256) s.eld.codes } }

/-- HB_TMO_EXPIRY (17 R614). A freeze that waits for nobody any more ends. -/
def hbLate (s : State) (u : Nat) : State :=
  if ¬ inService s u then s
  else
    let t := heartbeatMissed s u
    if t.on ELD_STAT.FROZEN then checksDone t else t

/-- FREEZE_MAX_EXPIRY (17 R616). -/
def freezeLate (s : State) : State :=
  if ¬ s.on ELD_STAT.FROZEN then s
  else eldersGone ((checking s).foldl (fun t u => eldLeave t u (kgetD 4 u t.eld.codes)) s)

/-! ## Commits (17 R613, R619) -/

/-- A value under a byte mask. -/
def underMask (old val mask : Nat) : Nat :=
  (List.range 8).foldl (fun v k => if mask.testBit k then setFld v (8 * k) 8 (fld val (8 * k) 8) else v) old

/-- Whether a register belongs to a stage that only the control plane itself writes: route tables and CUR, key slots (17 R610). -/
def ownStage (a : RegAt) : Nat :=
  if a.is XRD_ROUTE.reg || a.is XRD_EPOCH.reg then 4 else if a.is SEC_KEY_SLOT.reg then 5 else 0

/-- A stage applies a proposal: to a register of that stage. -/
def applyProposal (s : State) (p : Proposal) : State :=
  let t := match findReg p.off with
    | none => s
    | some a =>
      let old := s.rdReg a.row.reg a.i a.j a.k
      let v := underMask old p.val.toNat p.mask.toNat
      if stageOf a = p.stage then regAct s a false v
      else if ownStage a = p.stage then s.wrReg a.row.reg a.i a.j a.k v
      else s
  committed t

/-- COMMIT_PROPOSAL: what the checker does with the units' proposals for one commit. -/
def propose (s : State) (pa pb : Option Proposal) : State :=
  match activeElder s with
  | none => s
  | some u =>
    if s.on ELD_STAT.FROZEN then s
    else
      let mine := if u = 0 then pa else pb
      let other := if u = 0 then pb else pa
      let o := 1 - u
      let apply := fun (t : State) => match mine with
        | some p => applyProposal t p
        | none => t
      if eldSt s o ≠ 3 ∧ eldSt s o ≠ 5 then apply s
      else if mine = other then apply s
      else
        let stage := match mine, other with
          | some p, _ => p.stage
          | none, some p => p.stage
          | none, none => 0
        let t := evPf0 (s.count ELD_CNT.MISMATCH) 0x0F04 (s.rd ELD_LOG.COMMIT_SEQ) stage 0
        if eldSt s o = 3 then freezeBegin t 2 else apply (returnFails t o)

/-! ## Resynchronisation (17 R618) -/

/-- A step of the returning unit has ended, or has failed with a code. `entries` counts what step 4 replayed. -/
def resyncStep (s : State) (code entries : Nat) : State :=
  match [0, 1].find? (returning s) with
  | none => s
  | some u =>
    let k := s.eld.step
    if code ≠ 0 then if 4 ≤ k then returnFails (s.count ELD_CNT.MISMATCH) u else eldLeave s u code
    else if k < 4 then { s with eld := { s.eld with step := k + 1 } }
    else if k = 4 then
      let t := (setEldSt s u 5).wr ELD_LOG.WINDOW_LEFT (atLeast1 (s.rd ELD_CFG.CMP_WINDOW))
      { t with eld := { t.eld with step := 5, entries := entries } }
    else s

end Sys2Proof.Machine
end

