-- ==== Sys2Proof/Machine/ExecElder.lean ====
section
/-!
DEFINITION. Sys2Proof/Machine/ExecElder.lean: the commands of the Elders (17). A unit is false for Elder A and true for Elder B.
-/
namespace Sys2Proof.Machine

/-- ELDER_HEARTBEAT (17 R614). -/
def execElderHeartbeat (b : Bool) (s : State) : Host.Outcome State Fault Refusal :=
  .next { s with eld := { s.eld with beats := kput (b2n b) s.now s.eld.beats } }
/-- HB_TMO_EXPIRY (17 R614). -/
def execHbTmoExpiry (b : Bool) (s : State) : Host.Outcome State Fault Refusal := .next (hbLate s (b2n b))
/-- SELFCHECK_REPORT (17 R615). -/
def execSelfcheckReport (b : Bool) (code : Nat) (s : State) : Host.Outcome State Fault Refusal := .next (selfCheck s (b2n b) code)
/-- SELFCHECK_TMO_EXPIRY: code 4 (17 R615 step 2). -/
def execSelfcheckTmoExpiry (b : Bool) (s : State) : Host.Outcome State Fault Refusal := .next (selfCheck s (b2n b) 4)
/-- FREEZE_MAX_EXPIRY (17 R616). -/
def execFreezeMaxExpiry (s : State) : Host.Outcome State Fault Refusal := .next (freezeLate s)
/-- COMMIT_PROPOSAL (17 R613, R619). -/
def execCommitProposal (a b : Option Proposal) (s : State) : Host.Outcome State Fault Refusal := .next (propose s a b)
/-- ELDER_REARM: a write to ELD_CTL (17 R618). -/
def execElderRearm (v : Word) (s : State) : Host.Outcome State Fault Refusal := .next (atPf0 s (eldCtlWrite s v.toNat))
/-- RESYNC_STEP_DONE (17 R618). -/
def execResyncStepDone (code entries : Nat) (s : State) : Host.Outcome State Fault Refusal := .next (resyncStep s code entries)
/-- HANDOVER: a write to ELD_CTL (17 R620). -/
def execHandover (v : Word) (s : State) : Host.Outcome State Fault Refusal := .next (atPf0 s (eldCtlWrite s v.toNat))
/-- ELD_CNT_CLR (17 R623). -/
def execEldCntClr (v : Word) (s : State) : Host.Outcome State Fault Refusal := .next (atPf0 s (eldCntClr s v.toNat))

end Sys2Proof.Machine
end

