-- ==== Sys2Proof/Machine/ExecPacket.lean ====
section
/-!
DEFINITION. Sys2Proof/Machine/ExecPacket.lean: the commands that are packets arriving on a port (11 R419), sync operations
(07 R294, R299), coherence messages (09 R355), and the end-to-end and route timers (11).
A packet command acts when its packet is of the command's kind (log entry 9); whatever the packet then meets on its way
(11 R428, R429) is its effect.
-/
namespace Sys2Proof.Machine

/-- A packet of the command's kind arrives on a port. -/
def packetIn (s : State) (port : Port) (p : Pkt) (kind : Bool) : State := if kind then pump (receive s port.val p) else s

/-- The SOP of a SYNC_OP packet, once opened (07 R301). -/
def pktSop (s : State) (port : Nat) (p : Pkt) : Option Nat :=
  if pOpc p ≠ 0x08 then none
  else match openPkt s port p with
    | .ok q => some (payWord q 0 % 256)
    | .error _ => none

/-- A sync operation with a SOP code, from a descriptor or a packet (07 R294). -/
def syncCmd (s : State) (c : SyncCall) (sop : Nat) : State :=
  match c with
  | .desc r d => startDesc s r.val d (isSub 0x18 16 8 sop)
  | .pkt port p => packetIn s port p (pktSop s port.val p == some sop)

/-- READ (11 R421, R422). -/
def execRead (port : Port) (p : Pkt) (s : State) : Host.Outcome State Fault Refusal :=
  .next (packetIn s port p (pOpc p == 0x01))

/-- WRITE (11 R421). -/
def execWrite (port : Port) (p : Pkt) (s : State) : Host.Outcome State Fault Refusal :=
  .next (packetIn s port p (pOpc p == 0x03))

/-- REDUCE_WRITE (01 R50, 07 R309). -/
def execReduceWrite (port : Port) (p : Pkt) (s : State) : Host.Outcome State Fault Refusal :=
  .next (packetIn s port p (pOpc p == 0x05))

/-- ATOMIC FADD (11 R423). -/
def execAtomicFadd (port : Port) (p : Pkt) (s : State) : Host.Outcome State Fault Refusal :=
  .next (packetIn s port p (pOpc p == 0x06 && pCode p == 1))

/-- ATOMIC SWAP (11 R423). -/
def execAtomicSwap (port : Port) (p : Pkt) (s : State) : Host.Outcome State Fault Refusal :=
  .next (packetIn s port p (pOpc p == 0x06 && pCode p == 2))

/-- ATOMIC CAS (11 R423). -/
def execAtomicCas (port : Port) (p : Pkt) (s : State) : Host.Outcome State Fault Refusal :=
  .next (packetIn s port p (pOpc p == 0x06 && pCode p == 3))

/-- ATOMIC UMAX (11 R423). -/
def execAtomicUmax (port : Port) (p : Pkt) (s : State) : Host.Outcome State Fault Refusal :=
  .next (packetIn s port p (pOpc p == 0x06 && pCode p == 4))

/-- SYNC_OP, with any SOP (07 R301, R302). -/
def execSyncOp (port : Port) (p : Pkt) (s : State) : Host.Outcome State Fault Refusal :=
  .next (packetIn s port p (pOpc p == 0x08))

/-- EVENT: forwarded or replicated, never served here (11 R425, R429). -/
def execEventPacket (port : Port) (p : Pkt) (s : State) : Host.Outcome State Fault Refusal :=
  .next (packetIn s port p (pOpc p == 0x0A))

/-- READ_DATA (11 R421, R429). -/
def execReadDataRx (port : Port) (p : Pkt) (s : State) : Host.Outcome State Fault Refusal :=
  .next (packetIn s port p (pOpc p == 0x02))

/-- WRITE_ACK (11 R421, R429). -/
def execWriteAckRx (port : Port) (p : Pkt) (s : State) : Host.Outcome State Fault Refusal :=
  .next (packetIn s port p (pOpc p == 0x04))

/-- NAK (11 R426, R429). -/
def execNakRx (port : Port) (p : Pkt) (s : State) : Host.Outcome State Fault Refusal :=
  .next (packetIn s port p (pOpc p == 0x18))

/-- ERROR_RESP (11 R427, R429). -/
def execErrorRespRx (port : Port) (p : Pkt) (s : State) : Host.Outcome State Fault Refusal :=
  .next (packetIn s port p (pOpc p == 0x1E))

/-- ATOMIC_RESP: the chip sends no ATOMIC, so one for this node is a stray (11 R429). -/
def execAtomicRespRx (port : Port) (p : Pkt) (s : State) : Host.Outcome State Fault Refusal :=
  .next (packetIn s port p (pOpc p == 0x07))

/-- ROUTE_CTL LEAVING (11 R452). -/
def execRouteCtlLeaving (port : Port) (p : Pkt) (s : State) : Host.Outcome State Fault Refusal :=
  .next (packetIn s port p (pOpc p == 0x1C && pCode p == 1))

/-- ROUTE_CTL GONE (11 R452). -/
def execRouteCtlGone (port : Port) (p : Pkt) (s : State) : Host.Outcome State Fault Refusal :=
  .next (packetIn s port p (pOpc p == 0x1C && pCode p == 2))

/-- ROUTE_CTL TIME (11 R448). -/
def execRouteCtlTime (port : Port) (p : Pkt) (s : State) : Host.Outcome State Fault Refusal :=
  .next (packetIn s port p (pOpc p == 0x1C && pCode p == 3))

/-- A unicast packet of any opcode for another node (11 R435), or one whose opcode R419 does not list. -/
def execTransitForward (port : Port) (p : Pkt) (s : State) : Host.Outcome State Fault Refusal :=
  .next (packetIn s port p (!opcListed (pOpc p) || (pMcast p == 0 && pDst p != nodeId s)))

/-- A multicast packet (11 R438, R439). -/
def execMulticastReplicate (port : Port) (p : Pkt) (s : State) : Host.Outcome State Fault Refusal :=
  .next (packetIn s port p (pMcast p != 0))

/-- COH_RD_SHARED (09 R359). -/
def execCohRdShared (port : Port) (p : Pkt) (s : State) : Host.Outcome State Fault Refusal :=
  .next (packetIn s port p (pOpc p == 0x10))

/-- COH_RD_OWN (09 R359). -/
def execCohRdOwn (port : Port) (p : Pkt) (s : State) : Host.Outcome State Fault Refusal :=
  .next (packetIn s port p (pOpc p == 0x11))

/-- COH_UPGRADE (09 R359). -/
def execCohUpgrade (port : Port) (p : Pkt) (s : State) : Host.Outcome State Fault Refusal :=
  .next (packetIn s port p (pOpc p == 0x12))

/-- COH_WRITEBACK (09 R359, R361). -/
def execCohWriteback (port : Port) (p : Pkt) (s : State) : Host.Outcome State Fault Refusal :=
  .next (packetIn s port p (pOpc p == 0x13))

/-- COH_FWD_DATA sent to the home (09 R358, R359). -/
def execCohFwdDataRx (port : Port) (p : Pkt) (s : State) : Host.Outcome State Fault Refusal :=
  .next (packetIn s port p (pOpc p == 0x15))

/-- COH_ACK (09 R357, R360). -/
def execCohAck (port : Port) (p : Pkt) (s : State) : Host.Outcome State Fault Refusal :=
  .next (packetIn s port p (pOpc p == 0x17))

/-- DOORBELL (03 R147, 11 R424). -/
def execDoorbellPacket (port : Port) (p : Pkt) (s : State) : Host.Outcome State Fault Refusal :=
  .next (packetIn s port p (pOpc p == 0x09))

/-- SOP READ (07 R299). -/
def execSopRead (c : SyncCall) (s : State) : Host.Outcome State Fault Refusal := .next (syncCmd s c 0)

/-- SOP INIT_COUNTER (07 R299). -/
def execInitCounter (c : SyncCall) (s : State) : Host.Outcome State Fault Refusal := .next (syncCmd s c 1)

/-- SOP INIT_SEM (07 R299). -/
def execInitSem (c : SyncCall) (s : State) : Host.Outcome State Fault Refusal := .next (syncCmd s c 2)

/-- SOP INIT_BARRIER (07 R299). -/
def execInitBarrier (c : SyncCall) (s : State) : Host.Outcome State Fault Refusal := .next (syncCmd s c 3)

/-- SOP ARM_SET, to the read of its member list (07 R299). -/
def execArmSet (c : SyncCall) (s : State) : Host.Outcome State Fault Refusal := .next (syncCmd s c 4)

/-- SOP FREE (07 R299). -/
def execSopFree (c : SyncCall) (s : State) : Host.Outcome State Fault Refusal := .next (syncCmd s c 5)

/-- SOP ADD (07 R299). -/
def execSopAdd (c : SyncCall) (s : State) : Host.Outcome State Fault Refusal := .next (syncCmd s c 8)

/-- SOP STORE (07 R299). -/
def execStore (c : SyncCall) (s : State) : Host.Outcome State Fault Refusal := .next (syncCmd s c 9)

/-- SOP STORE_LO (07 R299). -/
def execStoreLo (c : SyncCall) (s : State) : Host.Outcome State Fault Refusal := .next (syncCmd s c 10)

/-- SOP MAX (07 R299). -/
def execSopMax (c : SyncCall) (s : State) : Host.Outcome State Fault Refusal := .next (syncCmd s c 11)

/-- SOP ARRIVE (07 R299). -/
def execArrive (c : SyncCall) (s : State) : Host.Outcome State Fault Refusal := .next (syncCmd s c 16)

/-- SOP POST (07 R299). -/
def execPost (c : SyncCall) (s : State) : Host.Outcome State Fault Refusal := .next (syncCmd s c 24)

/-- SOP TAKE (07 R299). -/
def execTake (c : SyncCall) (s : State) : Host.Outcome State Fault Refusal := .next (syncCmd s c 25)

/-- SOP CANCEL (07 R299). -/
def execCancel (c : SyncCall) (s : State) : Host.Outcome State Fault Refusal := .next (syncCmd s c 32)

/-- A snooped member or a requester owing DONE misses SNOOP_TMO (09 R364, R365). `line` is the line's directory key. -/
def execSnoopTmoExpiry (line : Nat) (s : State) : Host.Outcome State Fault Refusal := .next (pump (snoopTmo s line))

/-- 16 × BACKOFF of a reserved line have passed (09 R362). -/
def execBackoffReservationExpiry (line : Nat) (s : State) : Host.Outcome State Fault Refusal := .next (backoffEnd s line)

/-- E2E_TMO of one of the chip's own requests (11 R433). -/
def execE2eTmoExpiry (id : Nat) (s : State) : Host.Outcome State Fault Refusal :=
  .next (match s.xrd.own.find? (·.id == id) with
  | some q => if q.naked then s else resendOwn s id
  | none => s)

/-- The key of a retry that is a contribution set's, and of one that is a request of the chip; a program load's is
retrySet + 2^17 + its partition (log entry 15). -/
def retrySet : Nat := 2 ^ 48
def retryOwn : Nat := 2 ^ 49

/-- RETRY_AFTER or a NAK's DELAY has passed for a descriptor, a set's result write or list read, an image read, or a request of the chip (02 R105,
11 R426). -/
def execRetryAfterExpiry (id : Nat) (s : State) : Host.Outcome State Fault Refusal :=
  .next (if retryOwn ≤ id then
    match s.xrd.own.find? (·.id == id - retryOwn) with
    | some q => if q.naked then resendOwn s (id - retryOwn) else s
    | none => s
  else if retrySet + 2 ^ 17 ≤ id then
    match kget (id - retrySet - 2 ^ 17) s.loads with
    | some x => if x.wait = .retry then { s with loads := kput (id - retrySet - 2 ^ 17) { x with wait := .run } s.loads } else s
    | none => s
  else if retrySet ≤ id then
    let o := id - retrySet
    let t := { s with arming := s.arming.map fun (a : Arming) => if a.obj = o ∧ a.wait = .retry then { a with wait := .run } else a }
    match kget o t.sets with
    | some x => if x.wait = .retry then { t with sets := kput o { x with wait := .run } t.sets } else t
    | none => t
  else match findStarted s (id / 2 ^ 32) (id % 2 ^ 32) with
    | some x => if x.wait = .retry then pump (setStarted s { x with wait := .run }) else s
    | none => s)

/-- An answer-cache entry reaches E2E_HOLD (11 R432). -/
def execAnswerCacheExpiry (sl : Slice) (src seq ctag : Nat) (t : State) : Host.Outcome State Fault Refusal :=
  .next { t with answers := kdel (((sl.val * 2 ^ 15 + src % 2 ^ 15) * 2 ^ 16 + seq % 2 ^ 16) * 2 ^ 16 + ctag % 2 ^ 16) t.answers }

/-- The fabric time reaches AT of a pending commit (11 R444 step 2, R446 step 2). -/
def execCommitAtReached (s : State) : Host.Outcome State Fault Refusal :=
  .next (match s.xrd.commit with
  | some c => if c.phase = 0 then pump (commitAt s c) else s
  | none => s)

/-- EPOCH_HOLD has run out; the old version becomes idle when no packet of it is held (11 R444 steps 3 and 4). -/
def execEpochHoldExpiry (s : State) : Host.Outcome State Fault Refusal :=
  .next (match s.xrd.commit with
  | some c => if c.phase = 1 ∧ s.rd XRD_EPOCH.OLD_PKTS = 0 then holdEnd s else s
  | none => s)

/-- The queues are empty, or DRAIN_TMO has run out (11 R446 steps 3 to 5). -/
def execDrainEnd (s : State) : Host.Outcome State Fault Refusal :=
  .next (match s.xrd.commit with
  | some c => if c.phase = 2 then pump (drainEnd s c) else s
  | none => s)

/-- The 1 ms tick of the fabric time: TIME on each usable child port (11 R448). -/
def execTimeSendTick (s : State) : Host.Outcome State Fault Refusal :=
  .next (if s.xrd.leaving ≠ 0 ∨ s.on XRD_EPOCH.DRAINING then s
  else ((List.range 32).filter fun n => (s.rd XRD_TIME_CFG.CHILD).testBit n && usable s n).foldl (fun t n =>
    enqueue t n 16 32 false false (notice t n 3 0 (lineOfWords [t.now]))) s)

/-- 10 ms have passed without a TIME (11 R448). -/
def execTimeLossExpiry (s : State) : Host.Outcome State Fault Refusal :=
  .next (if s.on XRD_TIME_CFG.MASTER then s
  else guardAll ({ s with xrd := { s.xrd with slew := 0 } }.wr XRD_TIME_CFG.SYNCED 0))

end Sys2Proof.Machine
end

