-- ==== Sys2Proof/Machine/ExecPart.lean ====
section
/-!
DEFINITION. Sys2Proof/Machine/ExecPart.lean: the commands on a partition's own registers, on rings' control registers,
and of the host link's memory requests (02, 03, 05 to 08, 14).
-/
namespace Sys2Proof.Machine

/-- PRT_COR_EN_WRITE: a write to PRT_COR_CTL of view `k` (05 R254). -/
def execPrtCorEnWrite (p : Part) (k : Fin 16) (v : Word) (s : State) : Host.Outcome State Fault Refusal :=
  .next (atPf0 s (corCtlWrite s p k v.toNat))
/-- PRT_SR_SEED_WRITE (05 R230). -/
def execPrtSrSeedWrite (p : Part) (v : Word) (s : State) : Host.Outcome State Fault Refusal := .next (atPf0 s (seedWrite s p v.toNat))
/-- ARITH_DESC_CLR: a write to PRT_ARITH_STAT (05 R259). -/
def execArithDescClr (p : Part) (v : Word) (s : State) : Host.Outcome State Fault Refusal := .next (atPf0 s (arithStatWrite s p v.toNat))
/-- PRT_XLT_STAT_CLR (02 R128). -/
def execPrtXltStatClr (p : Part) (v : Word) (s : State) : Host.Outcome State Fault Refusal := .next (atPf0 s (xltStatClr s p v.toNat))
/-- PROG_LOAD_GO: a write to PRT_PROG_LOAD (06 R281). -/
def execProgLoadGo (p : Part) (v : Word) (s : State) : Host.Outcome State Fault Refusal := .next (atPf0 s (progLoadWrite s p v.toNat))
/-- PROG_CLEAR: a write to PRT_PROG_LOAD (06 R283). -/
def execProgClear (p : Part) (v : Word) (s : State) : Host.Outcome State Fault Refusal := .next (atPf0 s (progLoadWrite s p v.toNat))
/-- PROG_IMAGE_READ_DONE (06 R281 steps 3 to 5). -/
def execProgImageReadDone (p : Part) (s : State) : Host.Outcome State Fault Refusal := .next (loadRun s p)
/-- PRT_RGN_EN_WRITE: a write to PRT_RGN_CFG (08 R326). -/
def execPrtRgnEnWrite (p : Part) (region : Fin 1024) (v : Word) (s : State) : Host.Outcome State Fault Refusal :=
  .next (atPf0 s (rgnCfgWrite s p region v.toNat))
/-- PRT_RGN_CLR (08 R341). -/
def execPrtRgnClr (p : Part) (v : Word) (s : State) : Host.Outcome State Fault Refusal := .next (atPf0 s (rgnClr s p v.toNat))
/-- PRT_SYNC_CLR (07 R320). -/
def execPrtSyncClr (p : Part) (v : Word) (s : State) : Host.Outcome State Fault Refusal := .next (atPf0 s (syncClr s p v.toNat))
/-- PRT_SEC_CLR (14 R546). -/
def execPrtSecClr (p : Part) (v : Word) (s : State) : Host.Outcome State Fault Refusal := .next (atPf0 s (secClr s p v.toNat))
/-- RNG_ENABLE: a write to RNG_CTL (03 R143). -/
def execRngEnable (r : Ring) (v : Word) (s : State) : Host.Outcome State Fault Refusal := .next (atPf0 s (pump (rngCtlWrite s r v.toNat)))
/-- RNG_STOP: a write to RNG_CTL (03 R144, R151). -/
def execRngStop (r : Ring) (v : Word) (s : State) : Host.Outcome State Fault Refusal := .next (atPf0 s (pump (rngCtlWrite s r v.toNat)))
/-- APERTURE_READ: a host read of `lines` lines at offset `off` of a window (03 R138). -/
def execApertureRead (func : Fin 17) (win : Fin 16) (off lines : Nat) (s : State) : Host.Outcome State Fault Refusal :=
  .next (aptReadGo s func win off lines)
/-- APERTURE_WRITE: a host write at offset `off` of a window (03 R138). -/
def execApertureWrite (func : Fin 17) (win : Fin 16) (off : Nat) (data : List Byte) (s : State) : Host.Outcome State Fault Refusal :=
  .next (aptWriteGo s func win off data)
/-- HOST_REQ_NO_BAR (03 R135). -/
def execHostReqNoBar (func : Fin 17) (_addr : Nat) (s : State) : Host.Outcome State Fault Refusal := .next (s.emit (.hostReply func 1 []))
/-- HOST_LINK_DOWN (03 R150). -/
def execHostLinkDown (s : State) : Host.Outcome State Fault Refusal := .next { s with ctl := { s.ctl with hostUp := false } }
/-- HOST_LINK_UP (16 R576 step 4): the host has found the functions and lets them issue requests (log entry 5). -/
def execHostLinkUp (s : State) : Host.Outcome State Fault Refusal := .next { s with ctl := { s.ctl with hostUp := true, bme := State.reset.ctl.bme } }

end Sys2Proof.Machine
end

