-- ==== Sys2Proof/Machine/ExecPower.lean ====
section
/-!
DEFINITION. Sys2Proof/Machine/ExecPower.lean: the commands of measurement, AVSBus and the governor (18), of the SPDM mailbox, the test
port and the firmware fuses (14).
-/
namespace Sys2Proof.Machine

/-- SUPPLY_SAMPLE_TICK: `volts` (mV) in SUPPLY_BAD's order and VDD_AON last, `amps` (0.1 A) of VDD_CORE_W0 to W3 and VDD_SRAM
(18 R633). -/
def execSupplySampleTick (volts amps : List Int) (s : State) : Host.Outcome State Fault Refusal := .next (supplySample s volts amps)
/-- TEMP_SENSOR_TICK: °C, sixteen sensors for each ward, then the chip's eight (18 R635). -/
def execTempSensorTick (readings : List Int) (s : State) : Host.Outcome State Fault Refusal := .next (tempSample s readings)
/-- GOVERNOR_TICK (18 R637). -/
def execGovernorTick (s : State) : Host.Outcome State Fault Refusal := .next (governTick s)
/-- GOV_EVENT_WINDOW (18 R639). -/
def execGovEventWindow (s : State) : Host.Outcome State Fault Refusal := .next (govWindow s)
/-- VOLTAGE_SETTLED (18 R631). -/
def execVoltageSettled (w : Ward) (s : State) : Host.Outcome State Fault Refusal := .next (voltSettled s w)
/-- VOLTAGE_SETTLE_TMO_EXPIRY (18 R631). -/
def execVoltageSettleTmoExpiry (w : Ward) (s : State) : Host.Outcome State Fault Refusal := .next (voltLate s w)
/-- AVS_CURRENT_POLL: `amps` (0.1 A) by rail (18 R630). -/
def execAvsCurrentPoll (bus : Fin 5) (ok : Bool) (amps : List Nat) (s : State) : Host.Outcome State Fault Refusal :=
  .next (avsPoll s bus ok amps)
/-- AVS_RETRY_TICK (18 R632). -/
def execAvsRetryTick (bus : Fin 5) (ok : Bool) (s : State) : Host.Outcome State Fault Refusal := .next (avsRetry s bus ok)
/-- SMBUS_CLOCK_TIMEOUT resets the SMBus target, which holds nothing that the spec names (18 R644). -/
def execSmbusClockTimeout (s : State) : Host.Outcome State Fault Refusal := .next s

/-- GET_VERSION (14 R538). -/
def execGetVersion (_msg : List Byte) (s : State) : Host.Outcome State Fault Refusal := .next (spdmVersion s)
/-- GET_CAPABILITIES (14 R538). -/
def execGetCapabilities (_msg : List Byte) (s : State) : Host.Outcome State Fault Refusal := .next (spdmCapabilities s)
/-- NEGOTIATE_ALGORITHMS (14 R538). -/
def execNegotiateAlgorithms (_msg : List Byte) (s : State) : Host.Outcome State Fault Refusal := .next (spdmAlgorithms s)
/-- GET_DIGESTS (14 R538). -/
def execGetDigests (_msg : List Byte) (s : State) : Host.Outcome State Fault Refusal := .next (spdmDigests s)
/-- GET_CERTIFICATE (14 R538). -/
def execGetCertificate (msg : List Byte) (s : State) : Host.Outcome State Fault Refusal := .next (spdmCertificate s msg)
/-- CHALLENGE (14 R538, R539). -/
def execChallenge (msg : List Byte) (s : State) : Host.Outcome State Fault Refusal := .next (spdmChallenge s msg)
/-- GET_MEASUREMENTS (14 R537, R539). -/
def execGetMeasurements (msg : List Byte) (s : State) : Host.Outcome State Fault Refusal := .next (spdmMeasurements s msg)
/-- KEY_EXCHANGE (14 R538, R539). -/
def execKeyExchange (msg : List Byte) (s : State) : Host.Outcome State Fault Refusal := .next (spdmKeyExchange s msg)
/-- FINISH (14 R538). -/
def execFinish (msg : List Byte) (s : State) : Host.Outcome State Fault Refusal := .next (spdmFinish s msg)
/-- HEARTBEAT (14 R538). -/
def execHeartbeatSpdm (msg : List Byte) (s : State) : Host.Outcome State Fault Refusal := .next (spdmInSession s msg 0x68)
/-- KEY_UPDATE (14 R538). -/
def execKeyUpdate (msg : List Byte) (s : State) : Host.Outcome State Fault Refusal := .next (spdmInSession s msg 0x69)
/-- END_SESSION (14 R538). -/
def execEndSession (msg : List Byte) (s : State) : Host.Outcome State Fault Refusal := .next (spdmEnd s msg)
/-- VENDOR_DEFINED_REQUEST carrying IDE_KM (14 R538). -/
def execVendorDefinedRequest (msg : List Byte) (s : State) : Host.Outcome State Fault Refusal := .next (spdmVendor s msg)

/-- UNLOCK_REQ (14 R540 step 1). -/
def execUnlockReq (s : State) : Host.Outcome State Fault Refusal := .next (unlockReq s)
/-- UNLOCK_TOKEN (14 R540 steps 3 to 6). -/
def execUnlockToken (token : List Byte) (s : State) : Host.Outcome State Fault Refusal := .next (unlockToken s token)
/-- TAP_INSTRUCTION (14 R540). -/
def execTapInstruction (ir : BitVec 8) (s : State) : Host.Outcome State Fault Refusal := .next (tapInstr s ir.toNat)
/-- TEST_PORT_RESET (18 R642). -/
def execTestPortReset (s : State) : Host.Outcome State Fault Refusal := .next (tapReset s)

/-- SEC_FW_ADVANCE: a write to SEC_FW (14 R536). -/
def execSecFwAdvance (v : Word) (s : State) : Host.Outcome State Fault Refusal := .next (atPf0 s (secFwWrite s v.toNat))
/-- SEC_FW_REVOKE: a write to SEC_FW (14 R536). -/
def execSecFwRevoke (v : Word) (s : State) : Host.Outcome State Fault Refusal := .next (atPf0 s (secFwWrite s v.toNat))

end Sys2Proof.Machine
end

