-- ==== Sys2Proof/Machine/ExecRing.lean ====
section
/-!
DEFINITION. Sys2Proof/Machine/ExecRing.lean: the commands of the command rings (03): doorbells of the host link, fetches,
notifications, watchdogs.
-/
namespace Sys2Proof.Machine

/-- A host write of PIDX to a doorbell page (03 R146, R148, R165). -/
def execDoorbellPidxWrite (func : Fin 17) (page : Ring) (v : BitVec 32) (s : State) : Host.Outcome State Fault Refusal :=
  match dbSlot s func.val page.val with
  | none => .next s
  | some r =>
    if dbIgnored s r 0 v.toNat then .next s
    else if dbBad s r 0 v.toNat then dbError s r 0
    else .next (pump (doorbell (awaitApt s func.val r) r 0 v.toNat))

/-- A host write of CCIDX to a doorbell page (03 R146, R149). -/
def execDoorbellCcidxWrite (func : Fin 17) (page : Ring) (v : BitVec 32) (s : State) : Host.Outcome State Fault Refusal :=
  match dbSlot s func.val page.val with
  | none => .next s
  | some r =>
    if dbIgnored s r 1 v.toNat then .next s
    else if dbBad s r 1 v.toNat then dbError s r 1
    else .next (pump (doorbell s r 1 v.toNat))

/-- A fetch over the host link has ended (03 R157). -/
def execDescFetchDone (r : Ring) (descs : List (List Word)) (s : State) : Host.Outcome State Fault Refusal :=
  .next (if ringLoc1 s r.val then s else pump (fetchDone s r.val descs))

/-- A fetch, or a completion or record write, of a ring has failed or run into FETCH_TMO (03 R150). -/
def execRingFetchTmoExpiry (r : Ring) (write : Bool) (s : State) : Host.Outcome State Fault Refusal :=
  .next (if write then (if s.on RNG_CTL.ENABLE r.val then pump (writeFail s r.val) else s) else pump (fetchFail s r.val))

/-- TIME µs have passed since the first pending completion (03 R166). -/
def execNotifyTimeExpiry (r : Ring) (s : State) : Host.Outcome State Fault Refusal :=
  let x := s.ringX r.val
  .next (if s.on RNG_NOTIFY.EN r.val ∧ s.rd RNG_NOTIFY.TIME r.val ≠ 0 ∧ x.pend ≠ 0 then
    notifyRing (s.setRingX r.val { x with pend := 0 }) r.val else s)

/-- WDOG ms without a completion while descriptors are started: event 0x0102, once for the stall (03 R152). -/
def execRingWdogExpiry (r : Ring) (s : State) : Host.Outcome State Fault Refusal :=
  let x := s.ringX r.val
  let n := (ringStarted s r.val).length
  .next (if s.rd RNG_CFG.WDOG r.val ≠ 0 ∧ n ≠ 0 ∧ ¬ x.stalled then
    evOwner (s.setRingX r.val { x with stalled := true }) (ringOwner s r.val) (ringOwner s r.val) 0x0102 r.val
      (s.rd RNG_IDX.CIDX r.val) n
    else s)

/-- WEDGE_MULT × WDOG ms without a completion: event 0x0D04 to the owner and PF0, once for the stall (15 R569). -/
def execWedgeExpiry (r : Ring) (s : State) : Host.Outcome State Fault Refusal :=
  let x := s.ringX r.val
  let o := ringOwner s r.val
  let ms := atLeast1 (s.rd FLT_CFG.WEDGE_MULT) * s.rd RNG_CFG.WDOG r.val
  .next (if s.rd RNG_CFG.WDOG r.val ≠ 0 ∧ ringStarted s r.val ≠ [] ∧ ¬ x.wedged then
    let t := evOwner (s.setRingX r.val { x with wedged := true }) o o 0x0D04 r.val o ms
    if o = 16 then t else evPf0 t 0x0D04 r.val o ms o
    else s)

end Sys2Proof.Machine
end

