-- ==== Sys2Proof/Machine/ExecStart.lean ====
section
/-!
DEFINITION. Sys2Proof/Machine/ExecStart.lean: the commands of starts, resets and sleep (16), of function-level resets (03 R133) and of
a partition's making and dissolving (19).
-/
namespace Sys2Proof.Machine

/-! ## Pins and supplies -/

/-- POWER_ON: VDD_AON comes into range (16 R576 step 1). -/
def execPowerOn (s : State) : Host.Outcome State Fault Refusal := .next (powerOn s)

/-- A POWER reset: what is fused and what the SPI NOR holds stay (16 R594, R604). -/
def powerLoss (s : State) : State :=
  let t := chipClear s 0
  { t with
    start := { State.reset.start with almanac := s.start.almanac, rows := s.start.rows, bankA := s.start.bankA, bankB := s.start.bankB }
    ctl := { t.ctl with tap := 1 } }

/-- VDD_AON_LOSS (16 R594). -/
def execVddAonLoss (s : State) : Host.Outcome State Fault Refusal := .next (powerLoss s)

/-- A pin's level. -/
def pinLow (s : State) (k : Nat) (low : Bool) : State :=
  { s with ctl := { s.ctl with low := setFld s.ctl.low k 1 (b2n low) } }

/-- COLD_RST_N: low resets the chip, and ends DEEP; high ends what the test port drives only meanwhile (16 R594, R601,
14 R540). -/
def coldPin (s : State) (low : Bool) : State :=
  let t := pinLow s 0 low
  if ¬ low then if [0, 3, 4].contains t.ctl.tap then { t with ctl := { t.ctl with tap := 0xFF } } else t
  else if s.ctl.low.testBit 0 then t
  else if t.rd CHIP_SLEEP.STATE = 3 then deepExit t
  else resetAsk t 1 (5 * 1024) 0 none

/-- COLD_RST_PIN (16 R594). -/
def execColdRstPin (low : Bool) (s : State) : Host.Outcome State Fault Refusal := .next (coldPin s low)

/-- WARM_RST_N; in DEEP it does nothing (16 R594, R601). -/
def warmPin (s : State) (low : Bool) : State :=
  let t := pinLow s 1 low
  if ¬ low ∨ s.ctl.low.testBit 1 ∨ t.rd CHIP_SLEEP.STATE = 3 then t else resetAsk t 2 (5 * 1024) 0 none

/-- WARM_RST_PIN (16 R594). -/
def execWarmRstPin (low : Bool) (s : State) : Host.Outcome State Fault Refusal := .next (warmPin s low)

/-- PERST_N goes low: the host link alone is reset, or the chip (16 R594, R595). -/
def perstLow (s : State) : State :=
  let t := pinLow s 2 true
  if s.ctl.low.testBit 2 ∨ t.rd CHIP_SLEEP.STATE = 3 then t
  else if t.on CHIP_CFG.PERST_LINK_ONLY then
    let t := (List.range 17).foldl msixReset t
    { t with ctl := { t.ctl with hostUp := false, bme := State.reset.ctl.bme }, keys := { t.keys with ide := [] } }
  else resetAsk t 2 (5 * 1024) 4 none

/-- PERST_LOW (16 R595). -/
def execPerstLow (s : State) : Host.Outcome State Fault Refusal := .next (perstLow s)

/-- PERST_HIGH: the host link trains; HOST_LINK_UP ends its training (16 R595). -/
def execPerstHigh (s : State) : Host.Outcome State Fault Refusal := .next (pinLow s 2 false)

/-! ## Starts -/

/-- PRECONDITIONS_HELD (16 R576 step 2, R578). -/
def execPreconditionsHeld (s : State) : Host.Outcome State Fault Refusal := .next (preconditions s)

/-- START_STEP_DONE (16 R576). -/
def execStartStepDone (r : StepReport) (s : State) : Host.Outcome State Fault Refusal :=
  .next (startStepDone s r.ok r.bad r.svn r.keysel)

/-- START_STEP_TMO_EXPIRY (16 R577). -/
def execStartStepTmoExpiry (s : State) : Host.Outcome State Fault Refusal := .next (startTmo s)

/-- RECOVERY_GO: a write to CHIP_RECOVERY_CTL (16 R582). -/
def execRecoveryGo (v : Word) (s : State) : Host.Outcome State Fault Refusal := .next (recoveryGo s v.toNat)

/-- RECOVERY_FETCH_DONE (16 R582). -/
def execRecoveryFetchDone (ok : Bool) (svn keysel : Nat) (s : State) : Host.Outcome State Fault Refusal :=
  .next (recoveryDone s ok svn keysel)

/-- RECOVERY_WAIT_EXPIRY (16 R580, R582). -/
def execRecoveryWaitExpiry (s : State) : Host.Outcome State Fault Refusal :=
  .next (if s.rd CHIP_RECOVERY_CTL.RSTAT = 1 ∧ s.start.step = 5 then hostFail s 3 else s)

/-- TALLY_COPY_TICK: 10 s after ready (16 R589). -/
def execTallyCopyTick (s : State) : Host.Outcome State Fault Refusal := .next (if s.rd CHIP_START.PHASE = 6 then tallyCopy s else s)

/-- TALLY_FORGET: a write to CHIP_CFG (16 R593). -/
def execTallyForget (v : Word) (s : State) : Host.Outcome State Fault Refusal := .next (chipCfgWrite s v.toNat)

/-! ## Resets -/

/-- RESET_COLD: a write to CHIP_RST_CTL (16 R594). -/
def execResetCold (v : Word) (s : State) : Host.Outcome State Fault Refusal := .next (rstCtlWrite s v.toNat)
/-- RESET_WARM: a write to CHIP_RST_CTL (16 R594). -/
def execResetWarm (v : Word) (s : State) : Host.Outcome State Fault Refusal := .next (rstCtlWrite s v.toNat)
/-- RESET_POOL: a write to CHIP_RST_CTL (16 R594). -/
def execResetPool (v : Word) (s : State) : Host.Outcome State Fault Refusal := .next (rstCtlWrite s v.toNat)
/-- RESET_WARD: a write to CHIP_RST_CTL (16 R596). -/
def execResetWard (v : Word) (s : State) : Host.Outcome State Fault Refusal := .next (rstCtlWrite s v.toNat)
/-- RESET_PART: a write to CHIP_RST_CTL (16 R594). -/
def execResetPart (v : Word) (s : State) : Host.Outcome State Fault Refusal := .next (rstCtlWrite s v.toNat)

/-- The function-level reset of a VF: its MSI-X table is cleared, and its enabled partition takes a PART reset (03 R133). -/
def vfFlr (s : State) (p : Nat) : State :=
  let t := msixReset s (p + 1)
  if t.partOn p then resetAsk t 5 (3 * 1024 + p) 3 none else t

/-- VF_FLR: `vf` is the partition of the VF (03 R133). -/
def execVfFlr (vf : Part) (s : State) : Host.Outcome State Fault Refusal := .next (vfFlr s vf)

/-- PF0's configuration state is cleared: its MSI-X table, Bus Master Enable and IDE streams. The virtual functions keep their
own (03 R133; DESIGN CHOICE, log entry 5). -/
def cfgReset (s : State) : State :=
  let t := msixReset s 0
  { t with ctl := { t.ctl with bme := setFld t.ctl.bme 0 1 0 }, keys := { t.keys with ide := [] } }

/-- The function-level reset of PF0: its rings stop with cause 5, and then its configuration state is cleared, so that what
the stop writes still goes out (03 R133, R150, R151; DEDUCED, log entry 5). -/
def pf0Flr (s : State) : State :=
  pump (cfgReset ((ringsWhere s fun r => s.on RNG_CTL.ENABLE r && ringOwner s r == 16).foldl (fun t r => resetRing t r 5) s))

/-- PF0_FLR (03 R133). -/
def execPf0Flr (s : State) : Host.Outcome State Fault Refusal := .next (pf0Flr s)

/-- LEAVE_HOLD_EXPIRY (11 R451 steps 4 and 5). -/
def execLeaveHoldExpiry (s : State) : Host.Outcome State Fault Refusal := .next (leaveDone s)

/-- CURFEW_DRAIN_EXPIRY (16 R598). -/
def execCurfewDrainExpiry (scope : Nat) (s : State) : Host.Outcome State Fault Refusal := .next (drainExpired s scope)

/-- SCOPE_RESET_LIMIT_EXPIRY: writes that waited for the reset commit (16 R594, 19 R663). -/
def execScopeResetLimitExpiry (scope : Nat) (s : State) : Host.Outcome State Fault Refusal := .next (logDrain (resetLimit s scope))

/-- SCOPE_RESET_DONE: writes that waited for the reset commit (16 R602, 19 R663). -/
def execScopeResetDone (scope : Nat) (ok : Bool) (s : State) : Host.Outcome State Fault Refusal := .next (logDrain (scopeDone s scope ok))

/-! ## Sleep -/

/-- SLEEP_REQ_ACTIVE: a write to CHIP_SLEEP (16 R601). -/
def execSleepReqActive (v : Word) (s : State) : Host.Outcome State Fault Refusal := .next (sleepWrite s v.toNat)
/-- SLEEP_REQ_QUIET: a write to CHIP_SLEEP (16 R599). -/
def execSleepReqQuiet (v : Word) (s : State) : Host.Outcome State Fault Refusal := .next (sleepWrite s v.toNat)
/-- SLEEP_REQ_DOZE: a write to CHIP_SLEEP (16 R600). -/
def execSleepReqDoze (v : Word) (s : State) : Host.Outcome State Fault Refusal := .next (sleepWrite s v.toNat)
/-- SLEEP_REQ_DEEP: a write to CHIP_SLEEP (16 R600). -/
def execSleepReqDeep (v : Word) (s : State) : Host.Outcome State Fault Refusal := .next (sleepWrite s v.toNat)
/-- QUIET_IDLE_EXPIRY (16 R599). -/
def execQuietIdleExpiry (cell : Nat) (s : State) : Host.Outcome State Fault Refusal := .next (quietIdle s cell)
/-- DOZE_WAKE (16 R601). -/
def execDozeWake (scope cause : Nat) (s : State) : Host.Outcome State Fault Refusal := .next (dozeWake s scope cause)
/-- AON_WAKE: a write to AON_SLEEP (16 R601). -/
def execAonWake (v : Word) (s : State) : Host.Outcome State Fault Refusal := .next (aonSleepWrite s v.toNat)

/-! ## Output-stage writes with commands of their own (17 R610) -/

/-- CHIP_LOCK_SET: a write to CHIP_LOCK (19 R657). -/
def execChipLockSet (v : Word) (s : State) : Host.Outcome State Fault Refusal :=
  .next (stagedWrite s false CHIP_LOCK.reg.base v.toNat)
/-- PRT_CTL_ENABLE: a write to PRT_CTL (19 R660, R661). -/
def execPrtCtlEnable (p : Part) (v : Word) (s : State) : Host.Outcome State Fault Refusal :=
  .next (atPf0 s (stagedWrite s false (PRT_CTL.reg.addr p 0 0) v.toNat))
/-- PRT_CTL_DISABLE: a write to PRT_CTL (19 R660, R662). -/
def execPrtCtlDisable (p : Part) (v : Word) (s : State) : Host.Outcome State Fault Refusal :=
  .next (atPf0 s (stagedWrite s false (PRT_CTL.reg.addr p 0 0) v.toNat))
/-- PRT_CTL_LOCK: a write to PRT_CTL (19 R657, R660). -/
def execPrtCtlLock (p : Part) (v : Word) (s : State) : Host.Outcome State Fault Refusal :=
  .next (atPf0 s (stagedWrite s false (PRT_CTL.reg.addr p 0 0) v.toNat))
/-- COH_DOMAIN_EN: a write to XLT_COH_CTL (09 R344). -/
def execCohDomainEn (dom : Dom) (v : Word) (s : State) : Host.Outcome State Fault Refusal :=
  .next (atPf0 s (stagedWrite s false (XLT_COH_CTL.reg.addr dom 0 0) v.toNat))
/-- COH_DOMAIN_DISABLE: a write to XLT_COH_CTL (09 R364). -/
def execCohDomainDisable (dom : Dom) (v : Word) (s : State) : Host.Outcome State Fault Refusal :=
  .next (atPf0 s (stagedWrite s false (XLT_COH_CTL.reg.addr dom 0 0) v.toNat))

/-- REGISTER_WRITE (00 R14 to R18, 19 R652); a narrow access carries 32 bits. -/
def execRegisterWrite (func : Fin 17) (off : Nat) (v : Word) (s : State) (narrow : Bool := false) : Host.Outcome State Fault Refusal :=
  hostWrite s func off v.toNat narrow

end Sys2Proof.Machine
end

