-- ==== Sys2Proof/Machine/ExecWatch.lean ====
section
/-!
DEFINITION. Sys2Proof/Machine/ExecWatch.lean: the commands of the Watch collectors and of the interrupt controller (15).
-/
namespace Sys2Proof.Machine

/-- ERROR_REPORT (15 R551 to R557). -/
def execErrorReport (e : ErrRep) (s : State) : Host.Outcome State Fault Refusal := .next (errorReport s e)

/-- BROKEN_WIRE: `still` says that the pair is broken again after the unit's reset (15 R548, R549). -/
def execBrokenWire (kind inst : Nat) (still : Bool) (s : State) : Host.Outcome State Fault Refusal := .next (brokenWire s kind inst still)

/-- A coalescing window ends: the record is written, and later errors open a new one (15 R553). -/
def coalesceEnd (s : State) (c src part : Nat) : State :=
  let mine := fun (r : ErrRec) => r.cls == 2 && r.coll == c && srcCode r.kind r.inst r.err == src && r.part == part
  (s.watch.recs.filter mine).foldl writeErrRec { s with watch := { s.watch with recs := s.watch.recs.filter fun r => !mine r } }

/-- UE_COALESCE_EXPIRY (15 R553). -/
def execUeCoalesceExpiry (c : Coll) (src part : Nat) (s : State) : Host.Outcome State Fault Refusal := .next (coalesceEnd s c src part)

/-- WATCH_CE_WINDOW_END (15 R556). -/
def execWatchCeWindowEnd (c : Coll) (s : State) : Host.Outcome State Fault Refusal :=
  .next { s with watch := { s.watch with ceWin := kdel c s.watch.ceWin, ceSent := sdel c s.watch.ceSent } }

/-- FLT_FIRST_CLEAR: a write to FLT_FIRST (15 R551). -/
def execFltFirstClear (c : Coll) (v : Word) (s : State) : Host.Outcome State Fault Refusal := .next (atPf0 s (fltFirstWrite s c v.toNat))
/-- FLT_INJECT_GO: a write to FLT_INJECT (15 R574). -/
def execFltInjectGo (v : Word) (s : State) : Host.Outcome State Fault Refusal := .next (atPf0 s (injectWrite s v.toNat))
/-- FLT_CNT_CLR (15 R574). -/
def execFltCntClr (c : Coll) (v : Word) (s : State) : Host.Outcome State Fault Refusal := .next (atPf0 s (fltCntClr s c v.toNat))
/-- IRQ_DELIVER (15 R565, R566). -/
def execIrqDeliver (src : Fin 2048) (s : State) : Host.Outcome State Fault Refusal := .next (irqDeliver s src)
/-- IRQ_ACK: a write to IRQ_SRC_CNT (15 R566). -/
def execIrqAck (src : Fin 2048) (v : Word) (s : State) : Host.Outcome State Fault Refusal := .next (atPf0 s (irqAck s src v.toNat))
/-- MSIX_UNMASK (15 R566). -/
def execMsixUnmask (func : Fin 17) (vec : Fin 2048) (s : State) : Host.Outcome State Fault Refusal := .next (msixUnmask s func vec)
/-- IRQ_STAT_CLR (15 R575). -/
def execIrqStatClr (v : Word) (s : State) : Host.Outcome State Fault Refusal := .next (atPf0 s (irqStatClr s v.toNat))

end Sys2Proof.Machine
end

