-- ==== Sys2Proof/Machine/Dispatch.lean ====
section
/-!
DEFINITION. Sys2Proof/Machine/Dispatch.lean: one arm per command, each one direct call of its meaning.
-/
namespace Sys2Proof.Machine

def exec (i : Instr) (s : State) : Host.Outcome State Fault Refusal :=
  match i with
  | .copy r d => Sys2Proof.Machine.execCopy r d s
  | .fill r d => Sys2Proof.Machine.execFill r d s
  | .convert r d => Sys2Proof.Machine.execConvert r d s
  | .digest r d => Sys2Proof.Machine.execDigest r d s
  | .reduce r d => Sys2Proof.Machine.execReduce r d s
  | .gatherPool r d => Sys2Proof.Machine.execGatherPool r d s
  | .scatterAdd r d => Sys2Proof.Machine.execScatterAdd r d s
  | .pageGather r d => Sys2Proof.Machine.execPageGather r d s
  | .program r d => Sys2Proof.Machine.execProgram r d s
  | .fence r d => Sys2Proof.Machine.execFence r d s
  | .nop r d => Sys2Proof.Machine.execNop r d s
  | .hintHot r d => Sys2Proof.Machine.execHintHot r d s
  | .hintCold r d => Sys2Proof.Machine.execHintCold r d s
  | .hintStreamOnce r d => Sys2Proof.Machine.execHintStreamOnce r d s
  | .hintPinNear r d => Sys2Proof.Machine.execHintPinNear r d s
  | .hintPinDram r d => Sys2Proof.Machine.execHintPinDram r d s
  | .hintEvictFirst r d => Sys2Proof.Machine.execHintEvictFirst r d s
  | .hintClear r d => Sys2Proof.Machine.execHintClear r d s
  | .prefetchNear r d => Sys2Proof.Machine.execPrefetchNear r d s
  | .prefetchDram r d => Sys2Proof.Machine.execPrefetchDram r d s
  | .demoteDram r d => Sys2Proof.Machine.execDemoteDram r d s
  | .demoteGranary r d => Sys2Proof.Machine.execDemoteGranary r d s
  | .publish r d => Sys2Proof.Machine.execPublish r d s
  | .pin r d => Sys2Proof.Machine.execPin r d s
  | .unpin r d => Sys2Proof.Machine.execUnpin r d s
  | .versionReleaseDone p region version => Sys2Proof.Machine.execVersionReleaseDone p region version s
  | .spaceInval r d => Sys2Proof.Machine.execSpaceInval r d s
  | .spaceInvalDrained r d => Sys2Proof.Machine.execSpaceInvalDrained r d s
  | .extentAdd r d => Sys2Proof.Machine.execExtentAdd r d s
  | .extentInitDone baseG => Sys2Proof.Machine.execExtentInitDone baseG s
  | .extentRelease r d => Sys2Proof.Machine.execExtentRelease r d s
  | .extentReleaseDrained baseG => Sys2Proof.Machine.execExtentReleaseDrained baseG s
  | .releaseTmoExpiry baseG => Sys2Proof.Machine.execReleaseTmoExpiry baseG s
  | .extentScrubDone baseG => Sys2Proof.Machine.execExtentScrubDone baseG s
  | .extentMove r d => Sys2Proof.Machine.execExtentMove r d s
  | .extentMoveDone baseG => Sys2Proof.Machine.execExtentMoveDone baseG s
  | .faultReplyMapped r d => Sys2Proof.Machine.execFaultReplyMapped r d s
  | .faultReplyRefused r d => Sys2Proof.Machine.execFaultReplyRefused r d s
  | .coalesceWindowEnd p tag page => Sys2Proof.Machine.execCoalesceWindowEnd p tag page s
  | .holdTmoExpiry p tag page => Sys2Proof.Machine.execHoldTmoExpiry p tag page s
  | .xltReqLifeExpiry id => Sys2Proof.Machine.execXltReqLifeExpiry id s
  | .syncSet r d => Sys2Proof.Machine.execSyncSet r d s
  | .sopRead c => Sys2Proof.Machine.execSopRead c s
  | .initCounter c => Sys2Proof.Machine.execInitCounter c s
  | .initSem c => Sys2Proof.Machine.execInitSem c s
  | .initBarrier c => Sys2Proof.Machine.execInitBarrier c s
  | .armSet c => Sys2Proof.Machine.execArmSet c s
  | .armSetListReadDone obj => Sys2Proof.Machine.execArmSetListReadDone obj s
  | .sopFree c => Sys2Proof.Machine.execSopFree c s
  | .sopAdd c => Sys2Proof.Machine.execSopAdd c s
  | .store c => Sys2Proof.Machine.execStore c s
  | .storeLo c => Sys2Proof.Machine.execStoreLo c s
  | .sopMax c => Sys2Proof.Machine.execSopMax c s
  | .arrive c => Sys2Proof.Machine.execArrive c s
  | .post c => Sys2Proof.Machine.execPost c s
  | .take c => Sys2Proof.Machine.execTake c s
  | .cancel c => Sys2Proof.Machine.execCancel c s
  | .syncWait r d => Sys2Proof.Machine.execSyncWait r d s
  | .syncWaitArrive r d => Sys2Proof.Machine.execSyncWaitArrive r d s
  | .syncWaitTake r d => Sys2Proof.Machine.execSyncWaitTake r d s
  | .syncWaitSatisfied r d => Sys2Proof.Machine.execSyncWaitSatisfied r d s
  | .syncWaitTmoExpiry r d => Sys2Proof.Machine.execSyncWaitTmoExpiry r d s
  | .setTimerExpiry obj => Sys2Proof.Machine.execSetTimerExpiry obj s
  | .setResultWritten obj => Sys2Proof.Machine.execSetResultWritten obj s
  | .read port p => Sys2Proof.Machine.execRead port p s
  | .write port p => Sys2Proof.Machine.execWrite port p s
  | .reduceWrite port p => Sys2Proof.Machine.execReduceWrite port p s
  | .atomicFadd port p => Sys2Proof.Machine.execAtomicFadd port p s
  | .atomicSwap port p => Sys2Proof.Machine.execAtomicSwap port p s
  | .atomicCas port p => Sys2Proof.Machine.execAtomicCas port p s
  | .atomicUmax port p => Sys2Proof.Machine.execAtomicUmax port p s
  | .syncOp port p => Sys2Proof.Machine.execSyncOp port p s
  | .doorbellPacket port p => Sys2Proof.Machine.execDoorbellPacket port p s
  | .eventPacket port p => Sys2Proof.Machine.execEventPacket port p s
  | .readDataRx port p => Sys2Proof.Machine.execReadDataRx port p s
  | .writeAckRx port p => Sys2Proof.Machine.execWriteAckRx port p s
  | .nakRx port p => Sys2Proof.Machine.execNakRx port p s
  | .errorRespRx port p => Sys2Proof.Machine.execErrorRespRx port p s
  | .routeCtlLeaving port p => Sys2Proof.Machine.execRouteCtlLeaving port p s
  | .routeCtlGone port p => Sys2Proof.Machine.execRouteCtlGone port p s
  | .routeCtlTime port p => Sys2Proof.Machine.execRouteCtlTime port p s
  | .transitForward port p => Sys2Proof.Machine.execTransitForward port p s
  | .multicastReplicate port p => Sys2Proof.Machine.execMulticastReplicate port p s
  | .e2eTmoExpiry id => Sys2Proof.Machine.execE2eTmoExpiry id s
  | .answerCacheExpiry sl src seq ctag => Sys2Proof.Machine.execAnswerCacheExpiry sl src seq ctag s
  | .cohRdShared port p => Sys2Proof.Machine.execCohRdShared port p s
  | .cohRdOwn port p => Sys2Proof.Machine.execCohRdOwn port p s
  | .cohUpgrade port p => Sys2Proof.Machine.execCohUpgrade port p s
  | .cohWriteback port p => Sys2Proof.Machine.execCohWriteback port p s
  | .cohFwdDataRx port p => Sys2Proof.Machine.execCohFwdDataRx port p s
  | .cohAck port p => Sys2Proof.Machine.execCohAck port p s
  | .snoopTmoExpiry line => Sys2Proof.Machine.execSnoopTmoExpiry line s
  | .backoffReservationExpiry line => Sys2Proof.Machine.execBackoffReservationExpiry line s
  | .cohDomainEn dom v => Sys2Proof.Machine.execCohDomainEn dom v s
  | .cohDomainDisable dom v => Sys2Proof.Machine.execCohDomainDisable dom v s
  | .dataFlitRx port f => Sys2Proof.Machine.execDataFlitRx port f s
  | .idleFlitRx port f => Sys2Proof.Machine.execIdleFlitRx port f s
  | .corruptFlitRx port symErrs => Sys2Proof.Machine.execCorruptFlitRx port symErrs s
  | .caps port m => Sys2Proof.Machine.execCaps port m s
  | .lenProbe port m => Sys2Proof.Machine.execLenProbe port m s
  | .lenEcho port m rtt => Sys2Proof.Machine.execLenEcho port m rtt s
  | .creditAdv port m => Sys2Proof.Machine.execCreditAdv port m s
  | .retrainReq port m => Sys2Proof.Machine.execRetrainReq port m s
  | .resync port m => Sys2Proof.Machine.execResync port m s
  | .laneAns port m => Sys2Proof.Machine.execLaneAns port m s
  | .audit port m => Sys2Proof.Machine.execAudit port m s
  | .lpiReq port m => Sys2Proof.Machine.execLpiReq port m s
  | .lpiAck port m => Sys2Proof.Machine.execLpiAck port m s
  | .portTrain port => Sys2Proof.Machine.execPortTrain port s
  | .trainTmoExpiry port => Sys2Proof.Machine.execTrainTmoExpiry port s
  | .replayTimerExpiry port => Sys2Proof.Machine.execReplayTimerExpiry port s
  | .nakRepeatExpiry port => Sys2Proof.Machine.execNakRepeatExpiry port s
  | .handoffStart port => Sys2Proof.Machine.execHandoffStart port s
  | .handoffCountdownEnd port lane same => Sys2Proof.Machine.execHandoffCountdownEnd port lane same s
  | .handoffAnswerTmo port => Sys2Proof.Machine.execHandoffAnswerTmo port s
  | .ninthLaneCalDone port => Sys2Proof.Machine.execNinthLaneCalDone port s
  | .laneFailure port rx lane => Sys2Proof.Machine.execLaneFailure port rx lane s
  | .laserPoll port readings => Sys2Proof.Machine.execLaserPoll port readings s
  | .errorWindowEnd port => Sys2Proof.Machine.execErrorWindowEnd port s
  | .portRetryTimer port => Sys2Proof.Machine.execPortRetryTimer port s
  | .auditSendTick port => Sys2Proof.Machine.execAuditSendTick port s
  | .lpiIdleExpiry port => Sys2Proof.Machine.execLpiIdleExpiry port s
  | .lpiWake port => Sys2Proof.Machine.execLpiWake port s
  | .portEnable port v => Sys2Proof.Machine.execPortEnable port v s
  | .portDisable port v => Sys2Proof.Machine.execPortDisable port v s
  | .portRearm port v => Sys2Proof.Machine.execPortRearm port v s
  | .portRetrain port v => Sys2Proof.Machine.execPortRetrain port v s
  | .portCntClr port v => Sys2Proof.Machine.execPortCntClr port v s
  | .egressPacketStart port => Sys2Proof.Machine.execEgressPacketStart port s
  | .gateEntryAdvance port => Sys2Proof.Machine.execGateEntryAdvance port s
  | .qosGateCommit port v => Sys2Proof.Machine.execQosGateCommit port v s
  | .gateTakeoverAt port => Sys2Proof.Machine.execGateTakeoverAt port s
  | .gbHoldExpiry port => Sys2Proof.Machine.execGbHoldExpiry port s
  | .dramSlotGrant ch => Sys2Proof.Machine.execDramSlotGrant ch s
  | .adaptTick => Sys2Proof.Machine.execAdaptTick s
  | .histSampleTick port n => Sys2Proof.Machine.execHistSampleTick port n s
  | .qosPortHistClear port v => Sys2Proof.Machine.execQosPortHistClear port v s
  | .qosChHistClear ch v => Sys2Proof.Machine.execQosChHistClear ch v s
  | .qosRegWrite o v => Sys2Proof.Machine.execQosRegWrite o v s
  | .routeStage r d => Sys2Proof.Machine.execRouteStage r d s
  | .routeCommitFlip r d => Sys2Proof.Machine.execRouteCommitFlip r d s
  | .routeCommitDrain r d => Sys2Proof.Machine.execRouteCommitDrain r d s
  | .commitAtReached => Sys2Proof.Machine.execCommitAtReached s
  | .epochHoldExpiry => Sys2Proof.Machine.execEpochHoldExpiry s
  | .drainEnd => Sys2Proof.Machine.execDrainEnd s
  | .timeSendTick => Sys2Proof.Machine.execTimeSendTick s
  | .timeLossExpiry => Sys2Proof.Machine.execTimeLossExpiry s
  | .xrdCntClr v => Sys2Proof.Machine.execXrdCntClr v s
  | .leaveHoldExpiry => Sys2Proof.Machine.execLeaveHoldExpiry s
  | .dramTrain ch d => Sys2Proof.Machine.execDramTrain ch d s
  | .dramTrainTmoExpiry ch => Sys2Proof.Machine.execDramTrainTmoExpiry ch s
  | .quietWindowDue ch => Sys2Proof.Machine.execQuietWindowDue ch s
  | .quietWindowEnd ch drift => Sys2Proof.Machine.execQuietWindowEnd ch drift s
  | .dramRetrainTmoExpiry ch => Sys2Proof.Machine.execDramRetrainTmoExpiry ch s
  | .refreshStop ch sub => Sys2Proof.Machine.execRefreshStop ch sub s
  | .dramTempPoll ch hub mr4 => Sys2Proof.Machine.execDramTempPoll ch hub mr4 s
  | .scrubSlot ch => Sys2Proof.Machine.execScrubSlot ch s
  | .lapMaxExpiry ch => Sys2Proof.Machine.execLapMaxExpiry ch s
  | .dramCeWindowEnd ch => Sys2Proof.Machine.execDramCeWindowEnd ch s
  | .ddrEnable ch v => Sys2Proof.Machine.execDdrEnable ch v s
  | .ddrDisable ch v => Sys2Proof.Machine.execDdrDisable ch v s
  | .ddrRearm ch v => Sys2Proof.Machine.execDdrRearm ch v s
  | .ddrMarkClr ch v => Sys2Proof.Machine.execDdrMarkClr ch v s
  | .ddrCntClr ch v => Sys2Proof.Machine.execDdrCntClr ch v s
  | .granaryFillDone block => Sys2Proof.Machine.execGranaryFillDone block s
  | .groupWritebackDone group => Sys2Proof.Machine.execGroupWritebackDone group s
  | .decayTick p => Sys2Proof.Machine.execDecayTick p s
  | .driveBringup dr => Sys2Proof.Machine.execDriveBringup dr s
  | .nvmDisable dr v => Sys2Proof.Machine.execNvmDisable dr v s
  | .nvmeCmdComplete dr id sct sc data => Sys2Proof.Machine.execNvmeCmdComplete dr id sct sc data s
  | .nvmeCmdTmoExpiry dr id => Sys2Proof.Machine.execNvmeCmdTmoExpiry dr id s
  | .nvmeLinkupTmoExpiry dr => Sys2Proof.Machine.execNvmeLinkupTmoExpiry dr s
  | .nvmeReadyTmoExpiry dr => Sys2Proof.Machine.execNvmeReadyTmoExpiry dr s
  | .smartPoll dr ok temp warn used => Sys2Proof.Machine.execSmartPoll dr ok temp warn used s
  | .prtCorEnWrite p k v => Sys2Proof.Machine.execPrtCorEnWrite p k v s
  | .prtSrSeedWrite p v => Sys2Proof.Machine.execPrtSrSeedWrite p v s
  | .arithDescClr p v => Sys2Proof.Machine.execArithDescClr p v s
  | .prtXltStatClr p v => Sys2Proof.Machine.execPrtXltStatClr p v s
  | .progLoadGo p v => Sys2Proof.Machine.execProgLoadGo p v s
  | .progImageReadDone p => Sys2Proof.Machine.execProgImageReadDone p s
  | .progClear p v => Sys2Proof.Machine.execProgClear p v s
  | .programTilesDone r d => Sys2Proof.Machine.execProgramTilesDone r d s
  | .progRunTmoExpiry r d => Sys2Proof.Machine.execProgRunTmoExpiry r d s
  | .prtRgnEnWrite p region v => Sys2Proof.Machine.execPrtRgnEnWrite p region v s
  | .prtRgnClr p v => Sys2Proof.Machine.execPrtRgnClr p v s
  | .prtSyncClr p v => Sys2Proof.Machine.execPrtSyncClr p v s
  | .rngEnable r v => Sys2Proof.Machine.execRngEnable r v s
  | .rngStop r v => Sys2Proof.Machine.execRngStop r v s
  | .doorbellPidxWrite func page v => Sys2Proof.Machine.execDoorbellPidxWrite func page v s
  | .doorbellCcidxWrite func page v => Sys2Proof.Machine.execDoorbellCcidxWrite func page v s
  | .descFetchDone r descs => Sys2Proof.Machine.execDescFetchDone r descs s
  | .ringFetchTmoExpiry r write => Sys2Proof.Machine.execRingFetchTmoExpiry r write s
  | .notifyTimeExpiry r => Sys2Proof.Machine.execNotifyTimeExpiry r s
  | .ringWdogExpiry r => Sys2Proof.Machine.execRingWdogExpiry r s
  | .wedgeExpiry r => Sys2Proof.Machine.execWedgeExpiry r s
  | .apertureRead func win off lines => Sys2Proof.Machine.execApertureRead func win off lines s
  | .apertureWrite func win off data => Sys2Proof.Machine.execApertureWrite func win off data s
  | .hostReqNoBar func addr => Sys2Proof.Machine.execHostReqNoBar func addr s
  | .vfFlr vf => Sys2Proof.Machine.execVfFlr vf s
  | .pf0Flr => Sys2Proof.Machine.execPf0Flr s
  | .keyLoadJob r d => Sys2Proof.Machine.execKeyLoadJob r d s
  | .keyLoadMemory r d => Sys2Proof.Machine.execKeyLoadMemory r d s
  | .keyLoadEmpty r d => Sys2Proof.Machine.execKeyLoadEmpty r d s
  | .keyBlobReadDone r d blob => Sys2Proof.Machine.execKeyBlobReadDone r d blob s
  | .secFwAdvance v => Sys2Proof.Machine.execSecFwAdvance v s
  | .secFwRevoke v => Sys2Proof.Machine.execSecFwRevoke v s
  | .getVersion msg => Sys2Proof.Machine.execGetVersion msg s
  | .getCapabilities msg => Sys2Proof.Machine.execGetCapabilities msg s
  | .negotiateAlgorithms msg => Sys2Proof.Machine.execNegotiateAlgorithms msg s
  | .getDigests msg => Sys2Proof.Machine.execGetDigests msg s
  | .getCertificate msg => Sys2Proof.Machine.execGetCertificate msg s
  | .challenge msg => Sys2Proof.Machine.execChallenge msg s
  | .getMeasurements msg => Sys2Proof.Machine.execGetMeasurements msg s
  | .keyExchange msg => Sys2Proof.Machine.execKeyExchange msg s
  | .finish msg => Sys2Proof.Machine.execFinish msg s
  | .heartbeatSpdm msg => Sys2Proof.Machine.execHeartbeatSpdm msg s
  | .keyUpdate msg => Sys2Proof.Machine.execKeyUpdate msg s
  | .endSession msg => Sys2Proof.Machine.execEndSession msg s
  | .vendorDefinedRequest msg => Sys2Proof.Machine.execVendorDefinedRequest msg s
  | .unlockReq => Sys2Proof.Machine.execUnlockReq s
  | .unlockToken token => Sys2Proof.Machine.execUnlockToken token s
  | .tapInstruction ir => Sys2Proof.Machine.execTapInstruction ir s
  | .errorReport e => Sys2Proof.Machine.execErrorReport e s
  | .brokenWire kind inst still => Sys2Proof.Machine.execBrokenWire kind inst still s
  | .ueCoalesceExpiry c src part => Sys2Proof.Machine.execUeCoalesceExpiry c src part s
  | .watchCeWindowEnd c => Sys2Proof.Machine.execWatchCeWindowEnd c s
  | .fltFirstClear c v => Sys2Proof.Machine.execFltFirstClear c v s
  | .fltInjectGo v => Sys2Proof.Machine.execFltInjectGo v s
  | .fltCntClr c v => Sys2Proof.Machine.execFltCntClr c v s
  | .irqDeliver src => Sys2Proof.Machine.execIrqDeliver src s
  | .irqAck src v => Sys2Proof.Machine.execIrqAck src v s
  | .msixUnmask func vec => Sys2Proof.Machine.execMsixUnmask func vec s
  | .irqStatClr v => Sys2Proof.Machine.execIrqStatClr v s
  | .powerOn => Sys2Proof.Machine.execPowerOn s
  | .vddAonLoss => Sys2Proof.Machine.execVddAonLoss s
  | .coldRstPin low => Sys2Proof.Machine.execColdRstPin low s
  | .warmRstPin low => Sys2Proof.Machine.execWarmRstPin low s
  | .perstLow => Sys2Proof.Machine.execPerstLow s
  | .perstHigh => Sys2Proof.Machine.execPerstHigh s
  | .preconditionsHeld => Sys2Proof.Machine.execPreconditionsHeld s
  | .startStepDone r => Sys2Proof.Machine.execStartStepDone r s
  | .startStepTmoExpiry => Sys2Proof.Machine.execStartStepTmoExpiry s
  | .recoveryGo v => Sys2Proof.Machine.execRecoveryGo v s
  | .recoveryFetchDone ok svn keysel => Sys2Proof.Machine.execRecoveryFetchDone ok svn keysel s
  | .recoveryWaitExpiry => Sys2Proof.Machine.execRecoveryWaitExpiry s
  | .tallyCopyTick => Sys2Proof.Machine.execTallyCopyTick s
  | .tallyForget v => Sys2Proof.Machine.execTallyForget v s
  | .resetCold v => Sys2Proof.Machine.execResetCold v s
  | .resetWarm v => Sys2Proof.Machine.execResetWarm v s
  | .resetPool v => Sys2Proof.Machine.execResetPool v s
  | .resetWard v => Sys2Proof.Machine.execResetWard v s
  | .resetPart v => Sys2Proof.Machine.execResetPart v s
  | .curfewDrainExpiry scope => Sys2Proof.Machine.execCurfewDrainExpiry scope s
  | .scopeResetLimitExpiry scope => Sys2Proof.Machine.execScopeResetLimitExpiry scope s
  | .sleepReqActive v => Sys2Proof.Machine.execSleepReqActive v s
  | .sleepReqQuiet v => Sys2Proof.Machine.execSleepReqQuiet v s
  | .sleepReqDoze v => Sys2Proof.Machine.execSleepReqDoze v s
  | .sleepReqDeep v => Sys2Proof.Machine.execSleepReqDeep v s
  | .quietIdleExpiry cell => Sys2Proof.Machine.execQuietIdleExpiry cell s
  | .dozeWake scope cause => Sys2Proof.Machine.execDozeWake scope cause s
  | .aonWake v => Sys2Proof.Machine.execAonWake v s
  | .chipLockSet v => Sys2Proof.Machine.execChipLockSet v s
  | .prtCtlEnable p v => Sys2Proof.Machine.execPrtCtlEnable p v s
  | .prtCtlDisable p v => Sys2Proof.Machine.execPrtCtlDisable p v s
  | .prtCtlLock p v => Sys2Proof.Machine.execPrtCtlLock p v s
  | .prtSecClr p v => Sys2Proof.Machine.execPrtSecClr p v s
  | .elderHeartbeat b => Sys2Proof.Machine.execElderHeartbeat b s
  | .hbTmoExpiry b => Sys2Proof.Machine.execHbTmoExpiry b s
  | .selfcheckReport b code => Sys2Proof.Machine.execSelfcheckReport b code s
  | .selfcheckTmoExpiry b => Sys2Proof.Machine.execSelfcheckTmoExpiry b s
  | .freezeMaxExpiry => Sys2Proof.Machine.execFreezeMaxExpiry s
  | .commitProposal a b => Sys2Proof.Machine.execCommitProposal a b s
  | .elderRearm v => Sys2Proof.Machine.execElderRearm v s
  | .resyncStepDone code entries => Sys2Proof.Machine.execResyncStepDone code entries s
  | .handover v => Sys2Proof.Machine.execHandover v s
  | .eldCntClr v => Sys2Proof.Machine.execEldCntClr v s
  | .supplySampleTick volts amps => Sys2Proof.Machine.execSupplySampleTick volts amps s
  | .tempSensorTick readings => Sys2Proof.Machine.execTempSensorTick readings s
  | .governorTick => Sys2Proof.Machine.execGovernorTick s
  | .govEventWindow => Sys2Proof.Machine.execGovEventWindow s
  | .voltageSettled w => Sys2Proof.Machine.execVoltageSettled w s
  | .avsCurrentPoll bus ok amps => Sys2Proof.Machine.execAvsCurrentPoll bus ok amps s
  | .avsRetryTick bus ok => Sys2Proof.Machine.execAvsRetryTick bus ok s
  | .smbusClockTimeout => Sys2Proof.Machine.execSmbusClockTimeout s
  | .registerWrite func off v narrow => Sys2Proof.Machine.execRegisterWrite func off v s narrow
  | .fecLockLost port => Sys2Proof.Machine.execFecLockLost port s
  | .fecLockGained port => Sys2Proof.Machine.execFecLockGained port s
  | .trainingBlockRx port lane mask => Sys2Proof.Machine.execTrainingBlockRx port lane mask s
  | .ringLockTmoExpiry port lane rx => Sys2Proof.Machine.execRingLockTmoExpiry port lane rx s
  | .rateFallbackTmoExpiry port => Sys2Proof.Machine.execRateFallbackTmoExpiry port s
  | .lpiAnswerTmoExpiry port => Sys2Proof.Machine.execLpiAnswerTmoExpiry port s
  | .controlFlitRepeatTick port => Sys2Proof.Machine.execControlFlitRepeatTick port s
  | .nvmeLinkDown dr => Sys2Proof.Machine.execNvmeLinkDown dr s
  | .nvmeLinkUp dr => Sys2Proof.Machine.execNvmeLinkUp dr s
  | .nvmeControllerReady dr mqes => Sys2Proof.Machine.execNvmeControllerReady dr mqes s
  | .nvmeControllerFatal dr => Sys2Proof.Machine.execNvmeControllerFatal dr s
  | .commandAddressParityFail ch retry => Sys2Proof.Machine.execCommandAddressParityFail ch retry s
  | .dramTrainingDone ch katOk => Sys2Proof.Machine.execDramTrainingDone ch katOk s
  | .scopeResetDone scope ok => Sys2Proof.Machine.execScopeResetDone scope ok s
  | .retryAfterExpiry id => Sys2Proof.Machine.execRetryAfterExpiry id s
  | .routeImageReadDone r d img => Sys2Proof.Machine.execRouteImageReadDone r d img s
  | .issuerAccessDone r d res => Sys2Proof.Machine.execIssuerAccessDone r d res s
  | .atomicRespRx port p => Sys2Proof.Machine.execAtomicRespRx port p s
  | .hostLinkDown => Sys2Proof.Machine.execHostLinkDown s
  | .hostLinkUp => Sys2Proof.Machine.execHostLinkUp s
  | .voltageSettleTmoExpiry w => Sys2Proof.Machine.execVoltageSettleTmoExpiry w s
  | .testPortReset => Sys2Proof.Machine.execTestPortReset s

end Sys2Proof.Machine
end

