-- ==== Sys2Proof/Machine/Idle.lean ====
section
/-!
DEFINITION. Sys2Proof/Machine/Idle.lean: what passes while no command waits (log entry 1).
-/
namespace Sys2Proof.Machine

/-- Whether Crossroads and its fabric time run: not before the chip has power, in SAFE, in DEEP or after a thermal trip. -/
def timeRuns (s : State) : Bool :=
  s.rd CHIP_START.PHASE != 0 && s.rd CHIP_START.PHASE != 7 && s.rd CHIP_SLEEP.STATE != 3 && !s.on AON_THERM.TRIPPED

/-- The fabric time moves on by one nanosecond; every 10,000th one also slews it by at most one (11 R448). -/
def timeTick (s : State) : State :=
  let k := (s.xrd.slewTicks + 1) % 10000
  let d : Int := if k ≠ 0 ∨ s.xrd.slew = 0 then 0 else if 0 < s.xrd.slew then 1 else -1
  let t := { s with xrd := { s.xrd with slewTicks := k, slew := s.xrd.slew - d } }
  if timeRuns t then setTime t ((t.now : Int) + 1 + d).toNat else t

/-- A nanosecond passes: Lantern's time counts microseconds while it has power, the fabric time runs, and Curfews whose scope
has drained go on (16 R598, R607). -/
def idleTick (s : State) : State :=
  let t := timeTick s
  let t := if t.rd CHIP_START.START_NO ≠ 0 ∧ t.xrd.slewTicks % 1000 = 0 then t.wr AON_TIME.TIME ((t.rd AON_TIME.TIME + 1) % 2 ^ 64) else t
  settleCurfews t

end Sys2Proof.Machine
end

