-- ==== Sys2Proof/Safety.lean ====
section
/-!
DEFINITION. Sys2Proof/Safety.lean: the invariant of the block's state, and the words that its statements are made of.
-/
namespace Sys2Proof.Machine

/-! ## The invariant -/

/-- Pool memory is in its canonical form; the poisoned lines are listed in order, and each reads as 64 zero bytes
(01 R49, 13 R496). -/
def MemOk (s : State) : Prop :=
  Memory.wf s.mem = true ∧ s.poison.Pairwise (· < ·) ∧ ∀ l ∈ s.poison, ∀ i, i < 64 → s.byte (l * 64 + i) = 0

/-- What every state that a run reaches satisfies: the register file is in order of its offsets, and memory is sound. -/
def Inv (s : State) : Prop := ksorted s.regs = true ∧ MemOk s

/-! ## Commands that never touch pool memory -/

/-- The commands of links, schedulers, measurement, SPDM, the Watch, the Elders, drives' bring-up and counters, whose
effect lies outside pool memory. -/
def leavesMemory : Instr → Bool
  | .e2eTmoExpiry _ | .answerCacheExpiry _ _ _ _ | .backoffReservationExpiry _ | .dataFlitRx _ _ | .idleFlitRx _ _
  | .corruptFlitRx _ _ | .caps _ _ | .lenProbe _ _ | .lenEcho _ _ _ | .creditAdv _ _ | .retrainReq _ _
  | .resync _ _ | .laneAns _ _ | .audit _ _ | .lpiReq _ _ | .lpiAck _ _ | .portTrain _ | .trainTmoExpiry _
  | .replayTimerExpiry _ | .nakRepeatExpiry _ | .handoffStart _ | .handoffCountdownEnd _ _ _ | .handoffAnswerTmo _
  | .ninthLaneCalDone _ | .laneFailure _ _ _ | .laserPoll _ _ | .errorWindowEnd _ | .portRetryTimer _
  | .auditSendTick _ | .lpiIdleExpiry _ | .lpiWake _ | .portEnable _ _ | .portDisable _ _ | .portRearm _ _
  | .portRetrain _ _ | .portCntClr _ _ | .egressPacketStart _ | .gateEntryAdvance _ | .qosGateCommit _ _
  | .gateTakeoverAt _ | .gbHoldExpiry _ | .dramSlotGrant _ | .adaptTick | .histSampleTick _ _
  | .qosPortHistClear _ _ | .qosChHistClear _ _ | .qosRegWrite _ _ | .epochHoldExpiry | .timeSendTick
  | .timeLossExpiry | .xrdCntClr _ | .quietWindowDue _ | .refreshStop _ _ | .dramTempPoll _ _ _ | .lapMaxExpiry _
  | .dramCeWindowEnd _ | .ddrCntClr _ _ | .driveBringup _ | .prtCorEnWrite _ _ _
  | .prtSrSeedWrite _ _ | .arithDescClr _ _ | .prtXltStatClr _ _ | .progLoadGo _ _ | .progClear _ _
  | .prtRgnEnWrite _ _ _ | .prtRgnClr _ _ | .prtSyncClr _ _ | .notifyTimeExpiry _ | .ringWdogExpiry _
  | .wedgeExpiry _ | .hostReqNoBar _ _ | .secFwAdvance _ | .secFwRevoke _ | .getVersion _ | .getCapabilities _
  | .negotiateAlgorithms _ | .getDigests _ | .getCertificate _ | .challenge _ | .getMeasurements _ | .keyExchange _
  | .finish _ | .heartbeatSpdm _ | .keyUpdate _ | .endSession _ | .vendorDefinedRequest _ | .unlockReq
  | .tapInstruction _ | .ueCoalesceExpiry _ _ _ | .watchCeWindowEnd _ | .fltFirstClear _ _ | .fltCntClr _ _
  | .irqDeliver _ | .irqAck _ _ | .msixUnmask _ _ | .irqStatClr _ | .powerOn | .perstHigh | .preconditionsHeld
  | .startStepDone _ | .startStepTmoExpiry | .recoveryGo _ | .recoveryFetchDone _ _ _ | .recoveryWaitExpiry
  | .tallyCopyTick | .tallyForget _ | .quietIdleExpiry _ | .dozeWake _ _ | .prtSecClr _ _ | .elderHeartbeat _
  | .elderRearm _ | .resyncStepDone _ _ | .handover _ | .eldCntClr _ | .tempSensorTick _ | .governorTick
  | .govEventWindow | .voltageSettled _ | .avsCurrentPoll _ _ _ | .avsRetryTick _ _ | .smbusClockTimeout
  | .fecLockLost _ | .fecLockGained _ | .trainingBlockRx _ _ _ | .ringLockTmoExpiry _ _ _
  | .rateFallbackTmoExpiry _ | .lpiAnswerTmoExpiry _ | .controlFlitRepeatTick _ | .nvmeLinkDown _ | .nvmeLinkUp _
  | .nvmeControllerReady _ _ | .hostLinkDown | .hostLinkUp | .voltageSettleTmoExpiry _ | .testPortReset => true
  | _ => false

/-! ## Host accesses -/

/-- PF0's register space answers as a whole: not in SAFE, and no POOL reset runs (16 R580, R597). -/
def pf0Open (s : State) : Bool := barsServed s && !funcShut s 0

/-- The registers whose writes do more than their access codes say, but for PRT_NEAR_CFG, whose shares are held at once
(`nearTrim`). -/
def actionRegs : List Nat :=
  [PRT_CTL.reg, PRT_COR_CTL.reg, PRT_SR_SEED.reg, PRT_ARITH_STAT.reg, PRT_XLT_STAT_CLR.reg, PRT_PROG_LOAD.reg, PRT_RGN_CFG.reg,
   PRT_RGN_CLR.reg, PRT_SYNC_CLR.reg, PRT_SEC_CLR.reg, RNG_CTL.reg, XLT_COH_CTL.reg, PORT_CTL.reg, PORT_CNT_CLR.reg, XRD_CNT_CLR.reg,
   XRD_TIME_CFG.reg, QOS_PORT_CFG.reg, QOS_GATE_CTL.reg, QOS_PORT_HSEL.reg, QOS_CH_HSEL.reg, QOS_CFG.reg, QOS_REG.reg, DDR_CTL.reg,
   DDR_CNT_CLR.reg, NVM_CTL.reg, SEC_FW.reg, FLT_INJECT.reg, FLT_FIRST.reg, FLT_CNT_CLR.reg, IRQ_SRC_CFG.reg, IRQ_SRC_CNT.reg,
   IRQ_STAT_CLR.reg, CHIP_RST_CTL.reg, CHIP_CFG.reg, CHIP_LOCK.reg, CHIP_SLEEP.reg, CHIP_RECOVERY_CTL.reg, AON_SLEEP.reg, ELD_CTL.reg,
   ELD_CNT_CLR.reg].map (·.base)

/-- Bytes of a host access: 4 where it is narrow, else 8 (00 R14). -/
def accessBytes (narrow : Bool) : Nat := if narrow then 4 else 8

/-- A write at an offset of PF0's BAR0 reaches register `a` with its own width, which belongs to no output stage, and is no
host error. -/
def reaches (s : State) (off : Nat) (a : RegAt) (v : Nat) (narrow : Bool) : Prop :=
  s.rd CHIP_SLEEP.STATE ≠ 3 ∧ served s 0 off = true ∧ msixAt 0 off = none ∧ viewOff s 0 off = some off ∧
  off % accessBytes narrow = 0 ∧ regWidth off = accessBytes narrow ∧ findReg off = some a ∧
  writeError s a (newValue s a false v) = 0 ∧ stageOf a = 0

/-- Commands that may end without a next state: host errors on PF0's side, which have no outcome (00 R26, R28). -/
def mayStop : Instr → Bool
  | .registerWrite _ _ _ _ | .doorbellPidxWrite _ _ _ | .doorbellCcidxWrite _ _ _ | .gatherPool _ _ | .scatterAdd _ _
  | .routeStage _ _ | .qosRegWrite _ _ => true
  | _ => false

/-- What a field of a register holds after a write of `v` by its access code (00 R17, R18). -/
def fieldAfter (s : State) (a : RegAt) (v : Nat) (f : FldRow) : Nat :=
  let old := fld (s.rdReg a.row.reg a.i a.j a.k) f.lo f.w
  let x := fld v f.lo f.w
  match f.acc with
  | .rw => if takesWrite s a f.lo then x else old
  | .rwl => if regLocked s a then old else x
  | .w1c => old - (old &&& x)
  | .w1s => old ||| x
  | .ro | .wo => old

/-! ## What a command leaves alone -/

/-- Every register at an offset that the list does not name reads as before. -/
def regsKept (s t : State) (l : List Nat) : Prop :=
  ∀ (r : Reg) (i j k : Nat), r.addr i j k ∉ l → t.rdReg r i j k = s.rdReg r i j k

/-- Nothing of the state changes but the registers at the listed offsets. -/
def onlyRegs (s t : State) (l : List Nat) : Prop := t = { s with regs := t.regs } ∧ regsKept s t l

/-- Pool memory and the poison of its lines are what they were. -/
def sameMem (s t : State) : Prop := t.mem = s.mem ∧ t.poison = s.poison

/-! ## Descriptors -/

/-- A descriptor's work goes on for `n` steps, from one state and record to another; the accesses of each step have ended. -/
def goesOn : Nat → State → Started → State → Started → Prop
  | 0, s, x, t, y => t = s ∧ y = x
  | n + 1, s, x, t, y => ∃ u z, workStep s x = .more u z ∧ goesOn n (endFlights u (.desc z.ring z.idx)) z t y

/-! ## Packets -/

/-- A packet that arrives whole on a port is taken from its receive buffer: the link is up, the arrival checks pass, the
meter lets it through yellow or not, the node does not drain, and its epoch is no stale one. It counts as `q`, in `t`. -/
def taken (s : State) (port : Nat) (p : Pkt) (t : State) (yellow : Bool) (q : Pkt) : Prop :=
  q = arrived s port p ∧ linkUp s port = true ∧ arrivalFail (nodeId s) (trusted s port) q = 0 ∧
  ∃ u c, meter s port q = (u, c) ∧ c ≠ .red ∧ yellow = (c == .yellow) ∧
    let v := if yellow then u.count QOS_METER_CNT.YELLOW port (pTc q) else u
    s.on XRD_EPOCH.DRAINING = false ∧ t = creditBack v port (pTc q) (pLen q) ∧
    (pEpoch q = t.rd XRD_EPOCH.CUR ∨ t.on XRD_EPOCH.IDLE = false)

/-- A taken packet is delivered here and opens as `o`: it is unicast for this node, the node is not leaving, it came on a
data or control class, and its address range fits a space (11 R429). -/
def opened (t : State) (port : Nat) (q o : Pkt) : Prop :=
  pMcast q = 0 ∧ pDst q = nodeId t ∧ t.xrd.leaving = 0 ∧ pTc q ≠ 0 ∧ addrFits q = true ∧ openPkt t port q = .ok o

end Sys2Proof.Machine
end

