-- ==== Sys2Proof/WellFormed.lean ====
section
/-!
DEFINITION. Sys2Proof/WellFormed.lean: the commands whose operands the spec can name: every number within the width of what
it numbers, every list of the length its rule gives. No meaning depends on it: exec answers for every command.
-/
namespace Sys2Proof

/-- A descriptor's index is a 32-bit ring index (03 R142). -/
def idxOk (d : Nat) : Bool := decide (d < 2 ^ 32)
/-- The base of an extent: a whole GiB of the 52-bit pool range below the reserved range (02 R66, R68). -/
def nameOk (baseG : Nat) : Bool := decide (baseG < 2 ^ 22 - 2 ^ 10)
/-- A sync object's number (07 R294). -/
def objOk (obj : Nat) : Bool := decide (obj < 2 ^ 16)
def tagOk (tag : Nat) : Bool := decide (0 < tag && tag < 2 ^ 16)
/-- A 64 MiB page of a 48-bit space address (02 R66, R107). -/
def pageOk (page : Nat) : Bool := decide (page < 2 ^ 22)
def regionOk (region : Nat) : Bool := decide (region < 1024)
/-- A version's number (08 R323). -/
def versionOk (version : Nat) : Bool := decide (1 ≤ version && version ≤ 0xFFFFFFFC)
/-- A 4 KiB block and a 64 KiB group of the pool range (04 R183). -/
def blockOk (block : Nat) : Bool := decide (block < 2 ^ 40)
def groupOk (group : Nat) : Bool := decide (group < 2 ^ 36)
/-- A directory key: domain × 2^42 + line (09 R349). -/
def dirKeyOk (line : Nat) : Bool := decide (line < 2 ^ 48)
def srcOk (src : Nat) : Bool := decide (src < 2 ^ 15)
def u16 (n : Nat) : Bool := decide (n < 2 ^ 16)
/-- A flit lies in at most two codewords of 544 symbols (10 R377). -/
def symsOk (n : Nat) : Bool := decide (n ≤ 1088)
/-- A scope: its level (1 cell to 5 pool) × 1024 + its instance (01 R30). -/
def scopeOk (scope : Nat) : Bool := decide (1024 ≤ scope && scope < 6 * 1024)
def causeOk (cause : Nat) : Bool := decide (cause < 256)
/-- A cell: slice × 17 + position (01 R35). -/
def cellOk (cell : Nat) : Bool := decide (cell < 16 * 17)
/-- A unit of the Watch: KIND and INSTANCE (15 R560, R561). -/
def unitOk (kind inst : Nat) : Bool := decide (kind < 16 && inst < 512)
/-- A source code: KIND, INSTANCE and error code (15 R574). -/
def srcCodeOk (src : Nat) : Bool := decide (src < 2 ^ 21)
/-- A charge partition: 0 to 15, or 16 for none (12 R470). -/
def chargeOk (part : Nat) : Bool := decide (part ≤ 16)
def svnOk (svn : Nat) : Bool := decide (svn ≤ 64)
def keyselOk (keysel : Nat) : Bool := decide (keysel ≤ 2)
def mr4Ok (mr4 : Nat) : Bool := decide (mr4 < 256)
def sctOk (sct : Nat) : Bool := decide (sct < 8)
def scOk (sc : Nat) : Bool := decide (sc < 256)
/-- A self-check code is one byte (17 R615). -/
def codeOk (code : Nat) : Bool := decide (code < 256)
def retryOk (retry : Nat) : Bool := decide (1 ≤ retry && retry ≤ 3)
/-- An offset in a function's BAR0, or in an aperture window (03 R131, R136). -/
def offOk (off : Nat) : Bool := decide (off < 2 ^ 48)
def linesOk (lines : Nat) : Bool := decide (1 ≤ lines && lines ≤ 64)
def wholeLines (n : Nat) : Bool := n % 64 == 0 && linesOk (n / 64)
/-- A debug token: the ID, the nonce, the scope and a 384-byte signature (14 R540; log entry 31). -/
def tokenLen : Nat := 16 + 32 + 8 + 384
/-- An SPDM message: a whole request within the mailbox (14 R538; log entry 30). -/
def msgOk (msg : List Byte) : Bool := decide (4 ≤ msg.length && msg.length ≤ 4096)
/-- Up to eight descriptors of eight words are fetched at a time (03 R149). -/
def descsOk (descs : List (List Word)) : Bool := decide (descs.length ≤ 8) && descs.all (fun ws => ws.length == 8)

/-- A wrapped key is 128 bytes (14 R530). -/
def blobOk : Option (List Byte) → Bool
  | some b => b.length == 128
  | none => true

/-- A route image: entries of 4 bytes each, or 33 × 16 bytes (11 R442). -/
def imgOk : Option (List Byte) → Bool
  | some b => b.length % 4 == 0 && decide (b.length ≤ 4 * 32768)
  | none => true

/-- A packet's payload has the length that its header states (11 R414, R416). -/
def Pkt.wf (p : Pkt) : Bool :=
  let len := (p.w0.toNat >>> 40) % 128
  decide (len ≤ 64) && p.pay.length == 64 * len

def SyncCall.wf : SyncCall → Bool
  | .desc _ d => idxOk d
  | .pkt _ p => p.wf

/-- A control flit's body has 30 words, of which word 0 holds the type (10 R379, R382). -/
def CtlMsg.wf (m : CtlMsg) : Bool := decide (m.words.length ≤ 29)

/-- What the SPD of zero, one or two modules can say (13 R485 to R487). -/
def Dimms.wf (d : Dimms) : Bool :=
  decide (d.n ≤ 2) && decide (d.ranks ≤ 8) && d.spd.length == 1024 * d.n

def ErrRep.wf (e : ErrRep) : Bool :=
  unitOk e.kind e.inst && decide (e.err < 256) && decide (1 ≤ e.cls && e.cls ≤ 3) && chargeOk e.part

def StepReport.wf (r : StepReport) : Bool := r.bad.all (fun u => decide (u < 2 ^ 13)) && svnOk r.svn && keyselOk r.keysel

/-- The write of a proposal goes to one of the output stages (17 R610). -/
def propOk : Option Proposal → Bool
  | some p => decide (1 ≤ p.stage && p.stage ≤ 7) && p.off % 8 == 0
  | none => true

def IssuerRes.wf : IssuerRes → Bool
  | .data b => b.length == 64
  | _ => true

/-- A well-formed command. -/
def Instr.wf : Instr → Bool
  | .copy _ d | .fill _ d | .convert _ d | .digest _ d | .reduce _ d | .gatherPool _ d | .scatterAdd _ d
  | .pageGather _ d | .program _ d | .fence _ d | .nop _ d | .hintHot _ d | .hintCold _ d | .hintStreamOnce _ d
  | .hintPinNear _ d | .hintPinDram _ d | .hintEvictFirst _ d | .hintClear _ d | .prefetchNear _ d
  | .prefetchDram _ d | .demoteDram _ d | .demoteGranary _ d | .publish _ d | .pin _ d | .unpin _ d
  | .spaceInval _ d | .spaceInvalDrained _ d | .extentAdd _ d | .extentRelease _ d | .extentMove _ d
  | .faultReplyMapped _ d | .faultReplyRefused _ d | .syncSet _ d | .syncWait _ d | .syncWaitArrive _ d
  | .syncWaitTake _ d | .syncWaitSatisfied _ d | .syncWaitTmoExpiry _ d | .routeStage _ d
  | .routeCommitFlip _ d | .routeCommitDrain _ d | .programTilesDone _ d | .progRunTmoExpiry _ d
  | .keyLoadJob _ d | .keyLoadMemory _ d | .keyLoadEmpty _ d => idxOk d
  | .versionReleaseDone _ region version => regionOk region && versionOk version
  | .extentInitDone baseG | .extentReleaseDrained baseG | .releaseTmoExpiry baseG | .extentScrubDone baseG
  | .extentMoveDone baseG => nameOk baseG
  | .coalesceWindowEnd _ tag page | .holdTmoExpiry _ tag page => tagOk tag && pageOk page
  | .xltReqLifeExpiry _ | .e2eTmoExpiry _ | .cohDomainEn _ _ | .cohDomainDisable _ _ | .dataFlitRx _ _
  | .idleFlitRx _ _ | .portTrain _ | .trainTmoExpiry _ | .replayTimerExpiry _ | .nakRepeatExpiry _
  | .handoffStart _ | .handoffCountdownEnd _ _ _ | .handoffAnswerTmo _ | .ninthLaneCalDone _
  | .laneFailure _ _ _ | .errorWindowEnd _ | .portRetryTimer _ | .auditSendTick _ | .lpiIdleExpiry _
  | .lpiWake _ | .portEnable _ _ | .portDisable _ _ | .portRearm _ _ | .portRetrain _ _ | .portCntClr _ _
  | .egressPacketStart _ | .gateEntryAdvance _ | .qosGateCommit _ _ | .gateTakeoverAt _ | .gbHoldExpiry _
  | .dramSlotGrant _ | .adaptTick | .histSampleTick _ _ | .qosPortHistClear _ _ | .qosChHistClear _ _
  | .qosRegWrite _ _ | .commitAtReached | .epochHoldExpiry | .drainEnd | .timeSendTick | .timeLossExpiry
  | .xrdCntClr _ | .leaveHoldExpiry | .dramTrainTmoExpiry _ | .quietWindowDue _ | .quietWindowEnd _ _
  | .dramRetrainTmoExpiry _ | .refreshStop _ _ | .scrubSlot _ | .lapMaxExpiry _ | .dramCeWindowEnd _
  | .ddrEnable _ _ | .ddrDisable _ _ | .ddrRearm _ _ | .ddrMarkClr _ _ | .ddrCntClr _ _ | .decayTick _
  | .driveBringup _ | .nvmDisable _ _ | .nvmeCmdTmoExpiry _ _ | .nvmeLinkupTmoExpiry _ | .nvmeReadyTmoExpiry _
  | .prtCorEnWrite _ _ _ | .prtSrSeedWrite _ _ | .arithDescClr _ _ | .prtXltStatClr _ _ | .progLoadGo _ _
  | .progImageReadDone _ | .progClear _ _ | .prtRgnEnWrite _ _ _ | .prtRgnClr _ _ | .prtSyncClr _ _
  | .rngEnable _ _ | .rngStop _ _ | .doorbellPidxWrite _ _ _ | .doorbellCcidxWrite _ _ _
  | .ringFetchTmoExpiry _ _ | .notifyTimeExpiry _ | .ringWdogExpiry _ | .wedgeExpiry _ | .hostReqNoBar _ _
  | .vfFlr _ | .pf0Flr | .secFwAdvance _ | .secFwRevoke _ | .unlockReq | .tapInstruction _
  | .watchCeWindowEnd _ | .fltFirstClear _ _ | .fltInjectGo _ | .fltCntClr _ _ | .irqDeliver _ | .irqAck _ _
  | .msixUnmask _ _ | .irqStatClr _ | .powerOn | .vddAonLoss | .coldRstPin _ | .warmRstPin _ | .perstLow
  | .perstHigh | .preconditionsHeld | .startStepTmoExpiry | .recoveryGo _ | .recoveryWaitExpiry
  | .tallyCopyTick | .tallyForget _ | .resetCold _ | .resetWarm _ | .resetPool _ | .resetWard _ | .resetPart _
  | .sleepReqActive _ | .sleepReqQuiet _ | .sleepReqDoze _ | .sleepReqDeep _ | .aonWake _ | .chipLockSet _
  | .prtCtlEnable _ _ | .prtCtlDisable _ _ | .prtCtlLock _ _ | .prtSecClr _ _ | .elderHeartbeat _
  | .hbTmoExpiry _ | .selfcheckTmoExpiry _ | .freezeMaxExpiry | .elderRearm _ | .handover _ | .eldCntClr _
  | .governorTick | .govEventWindow | .voltageSettled _ | .avsCurrentPoll _ _ _ | .avsRetryTick _ _
  | .smbusClockTimeout | .fecLockLost _ | .fecLockGained _ | .trainingBlockRx _ _ _ | .ringLockTmoExpiry _ _ _
  | .rateFallbackTmoExpiry _ | .lpiAnswerTmoExpiry _ | .controlFlitRepeatTick _ | .nvmeLinkDown _
  | .nvmeLinkUp _ | .nvmeControllerFatal _ | .dramTrainingDone _ _ | .retryAfterExpiry _ | .hostLinkDown
  | .hostLinkUp | .voltageSettleTmoExpiry _ | .testPortReset => true
  | .sopRead c | .initCounter c | .initSem c | .initBarrier c | .armSet c | .sopFree c | .sopAdd c | .store c
  | .storeLo c | .sopMax c | .arrive c | .post c | .take c | .cancel c => c.wf
  | .armSetListReadDone obj | .setTimerExpiry obj | .setResultWritten obj => objOk obj
  | .read _ p | .write _ p | .reduceWrite _ p | .atomicFadd _ p | .atomicSwap _ p | .atomicCas _ p
  | .atomicUmax _ p | .syncOp _ p | .doorbellPacket _ p | .eventPacket _ p | .readDataRx _ p | .writeAckRx _ p
  | .nakRx _ p | .errorRespRx _ p | .routeCtlLeaving _ p | .routeCtlGone _ p | .routeCtlTime _ p
  | .transitForward _ p | .multicastReplicate _ p | .cohRdShared _ p | .cohRdOwn _ p | .cohUpgrade _ p
  | .cohWriteback _ p | .cohFwdDataRx _ p | .cohAck _ p | .atomicRespRx _ p => p.wf
  | .answerCacheExpiry _ src seq ctag => srcOk src && u16 seq && u16 ctag
  | .snoopTmoExpiry line | .backoffReservationExpiry line => dirKeyOk line
  | .corruptFlitRx _ symErrs => symsOk symErrs
  | .caps _ m | .lenProbe _ m | .lenEcho _ m _ | .creditAdv _ m | .retrainReq _ m | .resync _ m | .laneAns _ m
  | .audit _ m | .lpiReq _ m | .lpiAck _ m => m.wf
  | .laserPoll _ readings => readings.length == 9
  | .dramTrain _ d => d.wf
  | .dramTempPoll _ _ mr4 => mr4Ok mr4
  | .granaryFillDone block => blockOk block
  | .groupWritebackDone group => groupOk group
  | .nvmeCmdComplete _ _ sct sc _ => sctOk sct && scOk sc
  | .smartPoll _ _ _ warn used => scOk warn && scOk used
  | .descFetchDone _ descs => descsOk descs
  | .apertureRead _ _ off lines => offOk off && linesOk lines
  | .apertureWrite _ _ off data => offOk off && wholeLines data.length
  | .keyBlobReadDone _ d blob => idxOk d && blobOk blob
  | .getVersion msg | .getCapabilities msg | .negotiateAlgorithms msg | .getDigests msg | .getCertificate msg
  | .challenge msg | .getMeasurements msg | .keyExchange msg | .finish msg | .heartbeatSpdm msg
  | .keyUpdate msg | .endSession msg | .vendorDefinedRequest msg => msgOk msg
  | .unlockToken token => token.length == tokenLen
  | .errorReport e => e.wf
  | .brokenWire kind inst _ => unitOk kind inst
  | .ueCoalesceExpiry _ src part => srcCodeOk src && chargeOk part
  | .startStepDone r => r.wf
  | .recoveryFetchDone _ svn keysel => svnOk svn && keyselOk keysel
  | .curfewDrainExpiry scope | .scopeResetLimitExpiry scope | .scopeResetDone scope _ => scopeOk scope
  | .quietIdleExpiry cell => cellOk cell
  | .dozeWake scope cause => scopeOk scope && causeOk cause
  | .selfcheckReport _ code | .resyncStepDone code _ => codeOk code
  | .commitProposal a b => propOk a && propOk b
  | .supplySampleTick volts amps => volts.length == 12 && amps.length == 5
  | .tempSensorTick readings => readings.length == 72
  | .registerWrite _ off _ _ => offOk off
  | .nvmeControllerReady _ mqes => u16 mqes
  | .commandAddressParityFail _ retry => retryOk retry
  | .routeImageReadDone _ d img => idxOk d && imgOk img
  | .issuerAccessDone _ d res => idxOk d && res.wf

end Sys2Proof
end

