-- ==== Sys2Proof/Certificates/Slice0/Obligations.lean ====
section
/-!
DEFINITION. Sys2Proof/Certificates/Slice0/Obligations.lean: what is claimed of the block, rule by rule. Every command that
has an effect completes under some statement; the frames say what each leaves alone.
-/
open Sys2Proof Sys2Proof.Machine

/-- A step takes the command at the front of the queue and is `exec` of it on the state with the rest of the queue (log
entry 1). -/
def Obligations.StepRunsTheFrontCommand : Prop :=
  ∀ (c : Instr) (rest : List Instr) (s : State),
    step { s with pending := c :: rest } = exec c { s with pending := rest }

/-- The model's choice (log entry 1): with an empty queue a nanosecond passes. Where the fabric time runs, no slew is left
and no Curfew is under way, XRD_TIME rises by one and no byte of memory changes. -/
def Obligations.EmptyQueueTicks : Prop :=
  ∀ s : State, s.pending = [] → s.ctl.rsts = [] → timeRuns s = true → s.xrd.slew = 0 → ksorted s.regs = true →
    ∃ t, step s = .next t ∧ t.pending = [] ∧ t.mem = s.mem ∧ t.poison = s.poison ∧ t.now = (s.now + 1) % 2 ^ 64

/-- No command puts a command into the queue or takes one out: commands come only from outside (log entry 1). A command
that `mayStop` does not name answers a next state, whatever the state. -/
def Obligations.CommandsLeaveTheQueue : Prop :=
  (∀ (c : Instr) (s t : State), exec c s = .next t → t.pending = s.pending) ∧
  ∀ (c : Instr) (s : State), mayStop c = false → ∃ t, exec c s = .next t ∧ t.pending = s.pending

/-- The state after a POWER reset satisfies the invariant that every step keeps. -/
def Obligations.InvariantAtReset : Prop :=
  Inv State.reset

/-- Every step, whatever command is in front, keeps the invariant: registers in order, memory in canonical form, and every
poisoned line holding 64 zero bytes until it is written again (01 R49, 13 R496). -/
def Obligations.StepKeepsInvariant : Prop :=
  ∀ s t : State, Inv s → step s = .next t → Inv t

/-- The commands named by `leavesMemory` leave every byte of pool memory and the poison of every line as they were. -/
def Obligations.CommandsThatLeaveMemory : Prop :=
  ∀ (c : Instr) (s t : State), leavesMemory c = true → exec c s = .next t →
    (∀ a, t.byte a = s.byte a) ∧ ∀ l, t.isPoison l = s.isPoison l

/-- What a POWER reset leaves: every register at its table's reset value, nothing waiting, memory and every table empty.
Values that the spec leaves open are the model's (log entries 4, 5, 7). -/
def Obligations.ResetLeavesResetValues : Prop :=
  (∀ r i j k, State.reset.rdReg r i j k = r.rvAt i) ∧ State.reset.pending = [] ∧ State.reset.mem = [] ∧ State.reset.poison = [] ∧
  State.reset.started = [] ∧ State.reset.fetched = [] ∧ State.reset.reqs = [] ∧ State.reset.extents = [] ∧
  State.reset.faults = [] ∧ State.reset.sets = [] ∧ State.reset.keys.mem = [] ∧ State.reset.keys.link = []

/-- REGISTER_WRITE to a register without an action of its own: each field follows its access code (00 R17), a locked RWL
field is unchanged (00 R18), and every other register and all of memory stay as they were. The near store then holds
the shares of a new PRT_NEAR_CFG (04 R179): `nearTrim`. -/
def Obligations.RegisterWriteByAccessCode : Prop :=
  ∀ (s : State) (off : Nat) (v : Word) (a : RegAt) (narrow : Bool), ksorted s.regs = true → reaches s off a v.toNat narrow →
    actionRegs.contains a.row.reg.base = false →
    ∃ t, exec (.registerWrite 0 off v narrow) s = .next (if a.is PRT_NEAR_CFG.reg then nearTrim t a.i else t) ∧
      (∀ f ∈ a.row.flds, fld (t.rdReg a.row.reg a.i a.j a.k) f.lo f.w = fieldAfter s a v.toNat f) ∧
      (∀ (r : Reg) (i j k : Nat), r.addr i j k ≠ a.row.reg.addr a.i a.j a.k → t.rdReg r i j k = s.rdReg r i j k) ∧
      t.mem = s.mem ∧ t.poison = s.poison

/-- A write to an offset that holds no register has no effect, and a read there returns zero (00 R15, 19 R653). Doorbell
pages read as 03 R146 says. `regOfByte` is the register that a byte belongs to. -/
def Obligations.WriteWithoutRegister : Prop :=
  ∀ (s : State) (func : Fin 17) (off : Nat) (v : Word) (narrow : Bool),
    (s.rd CHIP_SLEEP.STATE ≠ 3 → served s func off = true → msixAt func off = none →
      (∀ o, viewOff s func off = some o → regOfByte o = none ∧ regOfByte (o + accessBytes narrow - 1) = none) →
      exec (.registerWrite func off v narrow) s = .next s) ∧
    (served s func off = false → hostRead s func off = 0) ∧
    (∀ a, served s 0 off = true → msixAt 0 off = none → off < pbaBase 0 → viewOff s 0 off = some off → findReg off = some a →
      hostRead s 0 off = readReg s a) ∧
    (served s 0 off = true → msixAt 0 off = none → off < pbaBase 0 → viewOff s 0 off = some off → findReg off = none →
      hostRead s 0 off = 0) ∧
    (∀ r, doorbellRead s r 0 = s.rd RNG_IDX.PIDX r ∧ doorbellRead s r 8 = s.rd RNG_CPL_IDX.CCIDX r ∧
      doorbellRead s r 0x10 = s.rd RNG_IDX.CIDX r ∧ ∀ o, o ≠ 0 → o ≠ 8 → o ≠ 0x10 → doorbellRead s r o = 0)

/-- Host errors that the spec calls unpredictable without an effect (00 R14, R26, R28, 03 R172): the command ends in a
fault that names the rule. Those of a VF or of a partition's ring stay within the partition (00 R27): the model's free
values (log entry 11). -/
def Obligations.HostErrorsStop : Prop :=
  (∀ (s : State) (off o : Nat) (v : Word) (narrow : Bool), s.rd CHIP_SLEEP.STATE ≠ 3 → served s 0 off = true → msixAt 0 off = none →
    viewOff s 0 off = some o → regOfByte o ≠ none → (o % accessBytes narrow ≠ 0 ∨ regWidth o ≠ accessBytes narrow) →
    exec (.registerWrite 0 off v narrow) s = .fault (.hostError 14)) ∧
  (∀ (s : State) (off o : Nat) (v : Word) (narrow : Bool) (p : Part), s.rd CHIP_SLEEP.STATE ≠ 3 → served s (p + 1) off = true →
    msixAt (p + 1) off = none → viewOff s (p + 1) off = some o → regOfByte o ≠ none →
    (o % accessBytes narrow ≠ 0 ∨ regWidth o ≠ accessBytes narrow) →
    exec (.registerWrite p.succ off v narrow) s = .next (wildWrite s o)) ∧
  (∀ (s : State) (off : Nat) (v : Word) (a : RegAt) (narrow : Bool) (e : Nat), s.rd CHIP_SLEEP.STATE ≠ 3 → served s 0 off = true →
    msixAt 0 off = none → viewOff s 0 off = some off → off % accessBytes narrow = 0 → regWidth off = accessBytes narrow →
    findReg off = some a → e = writeError s a (newValue s a false v.toNat) → e ≠ 0 →
    (e ≠ 111 → e ≠ 179 → e ≠ 191 → exec (.registerWrite 0 off v narrow) s = .fault (.hostError e)) ∧
    (e = 111 ∨ e = 179 ∨ e = 191 → exec (.registerWrite 0 off v narrow) s = .next (wildWrite s off))) ∧
  (∀ (s : State) (off o : Nat) (v : Word) (a : RegAt) (narrow : Bool) (p : Part), s.rd CHIP_SLEEP.STATE ≠ 3 → served s (p + 1) off = true →
    msixAt (p + 1) off = none → viewOff s (p + 1) off = some o → o % accessBytes narrow = 0 → regWidth o = accessBytes narrow →
    findReg o = some a → writeError s a (newValue s a true v.toNat) ≠ 0 →
    exec (.registerWrite p.succ off v narrow) s = .next (wildWrite s o)) ∧
  (∀ (s : State) (o : Nat) (a : RegAt), findReg (o / 8 * 8) = some a → wildWrite s o = { s with regs := (wildWrite s o).regs, fresh := s.fresh + 1 } ∧
    (ksorted s.regs = true → regsKept s (wildWrite s o) [a.row.reg.addr a.i a.j a.k])) ∧
  (∀ (s : State) (func : Fin 17) (page r : Ring) (v : BitVec 32), dbSlot s func.val page.val = some r.val → ringOwner s r = 16 →
    (dbIgnored s r.val 0 v.toNat = false → dbBad s r.val 0 v.toNat = true → exec (.doorbellPidxWrite func page v) s = .fault (.hostError 172)) ∧
    (dbIgnored s r.val 1 v.toNat = false → dbBad s r.val 1 v.toNat = true → exec (.doorbellCcidxWrite func page v) s = .fault (.hostError 172))) ∧
  (∀ (s : State) (func : Fin 17) (page r : Ring) (v : BitVec 32) (n : Nat), dbSlot s func.val page.val = some r.val → ringOwner s r < 16 →
    n = (Config.openValue s.fresh).toNat % 2 ^ 32 →
    (dbIgnored s r.val 0 v.toNat = false → dbBad s r.val 0 v.toNat = true →
      exec (.doorbellPidxWrite func page v) s = .next (pump (doorbell s.tickFresh r 0 n))) ∧
    (dbIgnored s r.val 1 v.toNat = false → dbBad s r.val 1 v.toNat = true →
      exec (.doorbellCcidxWrite func page v) s = .next (pump (doorbell s.tickFresh r 1 n)))) ∧
  (∀ (s : State) (o : Fin 17) (v : Word), 256 < minSum s o (wrote QOS_REG.MIN v.toNat) →
    exec (.qosRegWrite o v) s = .fault (.hostError 474))

/-- A VF's view (19 R654, 03 R142): an offset stands for a register of its own partition's block or of a ring slot that
its partition owns, and for nothing else. -/
def Obligations.VfReachesOnlyItsOwn : Prop :=
  ∀ (s : State) (p : Part) (off o : Nat), viewOff s (p.val + 1) off = some o →
    (0x01400000 + p.val * 0x10000 ≤ o ∧ o < 0x01400000 + p.val * 0x10000 + 0xC000) ∨
    ∃ r, r < 4096 ∧ ringOwner s r = p.val ∧ RNG_DESC_BASE.reg.base + r * 64 ≤ o ∧ o < RNG_DESC_BASE.reg.base + r * 64 + 64

/-- The CLEAR commands of the counter blocks complete with the counters at 0 and everything else as it was: of
PORT_LANE_STAT and FLT_WIRE only the counters clear. -/
def Obligations.ClearsZeroTheirCounters : Prop :=
  ∀ (s : State) (p : Part) (n : Port) (c : Coll) (v : Word), ksorted s.regs = true → pf0Open s = true →
    (wrote PRT_XLT_STAT_CLR.CLEAR v.toNat = 1 → ∃ t, exec (.prtXltStatClr p v) s = .next t ∧
      t.rdReg PRT_XLT_STAT.reg p 0 0 = 0 ∧ onlyRegs s t [PRT_XLT_STAT.reg.addr p 0 0]) ∧
    (wrote PRT_RGN_CLR.CLEAR v.toNat = 1 → ∃ t, exec (.prtRgnClr p v) s = .next t ∧
      t.rdReg PRT_RGN_CNT.reg p 0 0 = 0 ∧ onlyRegs s t [PRT_RGN_CNT.reg.addr p 0 0]) ∧
    (wrote PRT_SYNC_CLR.CLEAR v.toNat = 1 → ∃ t, exec (.prtSyncClr p v) s = .next t ∧
      t.rdReg PRT_SYNC_STAT.reg p 0 0 = 0 ∧ t.rdReg PRT_SYNC_STAT2.reg p 0 0 = 0 ∧
      onlyRegs s t [PRT_SYNC_STAT.reg.addr p 0 0, PRT_SYNC_STAT2.reg.addr p 0 0]) ∧
    (wrote PRT_SEC_CLR.CLEAR v.toNat = 1 → ∃ t, exec (.prtSecClr p v) s = .next t ∧
      t.rdReg PRT_SEC_CNT.reg p 0 0 = 0 ∧ onlyRegs s t [PRT_SEC_CNT.reg.addr p 0 0]) ∧
    (wrote PORT_CNT_CLR.CLEAR v.toNat = 1 → ∃ t, exec (.portCntClr n v) s = .next t ∧
      t.rdReg PORT_ERR_CNT.reg n 0 0 = 0 ∧ t.rdReg PORT_LINK_CNT.reg n 0 0 = 0 ∧ t.rd PORT_LANE_STAT.ROTATIONS n = 0 ∧
      t.rd PORT_LANE_STAT.ROT_ABORTS n = 0 ∧ t.rd PORT_LANE_STAT.TX_SPARE n = s.rd PORT_LANE_STAT.TX_SPARE n ∧
      t.rd PORT_LANE_STAT.RX_SPARE n = s.rd PORT_LANE_STAT.RX_SPARE n ∧ t.rd PORT_LANE_STAT.TX_FAIL n = s.rd PORT_LANE_STAT.TX_FAIL n ∧
      t.rd PORT_LANE_STAT.RX_FAIL n = s.rd PORT_LANE_STAT.RX_FAIL n ∧
      onlyRegs s t [PORT_ERR_CNT.reg.addr n 0 0, PORT_LINK_CNT.reg.addr n 0 0, PORT_LANE_STAT.reg.addr n 0 0]) ∧
    (wrote XRD_CNT_CLR.CLEAR v.toNat = 1 → ∃ t, exec (.xrdCntClr v) s = .next t ∧
      t.rdReg XRD_RETX_STAT.reg 0 0 0 = 0 ∧ t.rdReg XRD_ORIG_CNT.reg 0 0 0 = 0 ∧
      (∀ m : Port, t.rdReg XRD_PORT_CNT.reg m 0 0 = 0 ∧ t.rdReg XRD_PORT_CNT2.reg m 0 0 = 0) ∧
      onlyRegs s t (XRD_RETX_STAT.reg.addr 0 0 0 :: XRD_ORIG_CNT.reg.addr 0 0 0 ::
        (List.range 32).flatMap fun m => [XRD_PORT_CNT.reg.addr m 0 0, XRD_PORT_CNT2.reg.addr m 0 0])) ∧
    (wrote FLT_CNT_CLR.CLEAR v.toNat = 1 → ∃ t, exec (.fltCntClr c v) s = .next t ∧
      t.rdReg FLT_CNT.reg c 0 0 = 0 ∧ t.rd FLT_WIRE.BROKEN c = 0 ∧ t.rd FLT_WIRE.MASKED c = s.rd FLT_WIRE.MASKED c ∧
      onlyRegs s t [FLT_CNT.reg.addr c 0 0, FLT_WIRE.reg.addr c 0 0]) ∧
    (wrote IRQ_STAT_CLR.CLEAR v.toNat = 1 → ∃ t, exec (.irqStatClr v) s = .next t ∧
      t.rdReg IRQ_STAT.reg 0 0 0 = 0 ∧ onlyRegs s t [IRQ_STAT.reg.addr 0 0 0]) ∧
    (wrote ELD_CNT_CLR.CLEAR v.toNat = 1 → ∃ t, exec (.eldCntClr v) s = .next t ∧
      t.rdReg ELD_CNT.reg 0 0 0 = 0 ∧ onlyRegs s t [ELD_CNT.reg.addr 0 0 0])

/-- PRT_SR_SEED_WRITE, ARITH_DESC_CLR, PRT_COR_EN_WRITE and PRT_RGN_EN_WRITE. A view or a region is enabled only where its
settings, as this write leaves them, are valid. -/
def Obligations.PartitionRegisterWrites : Prop :=
  ∀ (s : State) (p : Part) (k : Fin 16) (g : Fin 1024) (v : Word), ksorted s.regs = true → pf0Open s = true →
    (∃ t, exec (.prtSrSeedWrite p v) s = .next t ∧ t.rd PRT_SR_SEED.SEED p = v.toNat ∧
      t = { s with regs := t.regs, fresh := t.fresh, cells := t.cells } ∧ regsKept s t [PRT_SR_SEED.reg.addr p 0 0] ∧
      (v.toNat ≠ 0 → ksorted s.cells = true → ∀ sl ∈ t.slicesOf p, ∀ c ∈ cellsOf t sl, cellAt t c = { cellAt s c with seed := v.toNat })) ∧
    (∃ t, exec (.arithDescClr p v) s = .next t ∧
      t.rd PRT_ARITH_STAT.FLAGS p = s.rd PRT_ARITH_STAT.FLAGS p - (s.rd PRT_ARITH_STAT.FLAGS p &&& wrote PRT_ARITH_STAT.FLAGS v.toNat) ∧
      t.rd PRT_ARITH_STAT.DESC_EXC p = (if wrote PRT_ARITH_STAT.DESC_CLR v.toNat = 1 then 0 else s.rd PRT_ARITH_STAT.DESC_EXC p) ∧
      onlyRegs s t [PRT_ARITH_STAT.reg.addr p 0 0]) ∧
    (s.on PRT_COR_CTL.EN p k = false → wrote PRT_COR_CTL.EN v.toNat = 1 → ∃ t, exec (.prtCorEnWrite p k v) s = .next t ∧
      t.rd PRT_COR_CTL.SFMT p k = wrote PRT_COR_CTL.SFMT v.toNat ∧ t.rd PRT_COR_CTL.VFMT p k = wrote PRT_COR_CTL.VFMT v.toNat ∧
      t.rd PRT_COR_CTL.LEN p k = wrote PRT_COR_CTL.LEN v.toNat ∧ t.on PRT_COR_CTL.EN p k = viewOk t p k ∧
      onlyRegs s t [PRT_COR_CTL.reg.addr p k 0]) ∧
    (s.on PRT_COR_CTL.EN p k = true → ∃ t, exec (.prtCorEnWrite p k v) s = .next t ∧
      t.rd PRT_COR_CTL.EN p k = wrote PRT_COR_CTL.EN v.toNat ∧ t.rd PRT_COR_CTL.SFMT p k = s.rd PRT_COR_CTL.SFMT p k ∧
      t.rd PRT_COR_CTL.VFMT p k = s.rd PRT_COR_CTL.VFMT p k ∧ t.rd PRT_COR_CTL.LEN p k = s.rd PRT_COR_CTL.LEN p k ∧
      onlyRegs s t [PRT_COR_CTL.reg.addr p k 0]) ∧
    (s.on PRT_RGN_CFG.EN p g = false → wrote PRT_RGN_CFG.EN v.toNat = 1 → ∃ t, exec (.prtRgnEnWrite p g v) s = .next t ∧
      t.rd PRT_RGN_CFG.SPACE p g = wrote PRT_RGN_CFG.SPACE v.toNat ∧ t.rd PRT_RGN_CFG.WIN_G p g = wrote PRT_RGN_CFG.WIN_G v.toNat ∧
      t.rd PRT_RGN_CFG.SLOT_G p g = wrote PRT_RGN_CFG.SLOT_G v.toNat ∧ t.on PRT_RGN_CFG.EN p g = regionOk t p g ∧
      onlyRegs s t [PRT_RGN_CFG.reg.addr p g 0]) ∧
    (s.on PRT_RGN_CFG.EN p g = true → wrote PRT_RGN_CFG.EN v.toNat = 0 → ∃ t, exec (.prtRgnEnWrite p g v) s = .next t ∧
      t.on PRT_RGN_CFG.EN p g = !regionIdle s p g ∧ onlyRegs s t [PRT_RGN_CFG.reg.addr p g 0])

/-- PROG_LOAD_GO, PROG_IMAGE_READ_DONE and PROG_CLEAR on a partition whose load, slot and image allow them (06 R280 to
R283). -/
def Obligations.ProgramLoadsAndClears : Prop :=
  ∀ (s : State) (p : Part) (v : Word),
    (pf0Open s = true → s.rd PRT_PROG_STAT.STATE p ≠ 1 → wrote PRT_PROG_LOAD.GO v.toNat = 1 → wrote PRT_PROG_LOAD.CLEAR v.toNat = 0 →
      ∀ t, t = plainWrite s PRT_PROG_LOAD.reg p 0 0 v.toNat → t.rd PRT_PROG_STAT.STATE p ≠ 1 →
      slotBusy t p (t.rd PRT_PROG_LOAD.SLOT p) = false →
      ∀ l : Load, l = ⟨t.rd PRT_PROG_LOAD.SLOT p, t.rd PRT_PROG_SRC.ADDR p, t.rd PRT_PROG_SRC.SPACE p, .run, 0⟩ →
      exec (.progLoadGo p v) s = .next (progStat { t with loads := kput p l t.loads } p 1 0 0 (t.rd PRT_PROG_LOAD.SLOT p))) ∧
    (pf0Open s = true → wrote PRT_PROG_LOAD.GO v.toNat = 0 → wrote PRT_PROG_LOAD.CLEAR v.toNat = 1 →
      ∀ t, t = plainWrite s PRT_PROG_LOAD.reg p 0 0 v.toNat → t.rd PRT_PROG_STAT.STATE p ≠ 1 →
      slotBusy t p (t.rd PRT_PROG_LOAD.SLOT p) = false →
      exec (.progClear p v) s = .next (progStat (setProgValid { t with progs := kdel (progKey p (t.rd PRT_PROG_LOAD.SLOT p)) t.progs }
        p (t.rd PRT_PROG_LOAD.SLOT p) 0) p 0 0 0 (t.rd PRT_PROG_LOAD.SLOT p))) ∧
    (∀ (l : Load) (t u : State) (h bs : List Byte) (n j : Nat), kget p s.loads = some l → l.wait = .run →
      readImage s p l.space l.addr 1 [] = (t, .ok h) → n = fld (leNat (h.take 8)) 24 7 →
      readImage t p l.space (l.addr + 64) (ceilDiv n 4) h = (u, .ok bs) → imageCheck (bytesToWords (8 + 2 * n) bs) = (0, j) →
      ∀ x, x = kput (progKey p l.slot) (bytesToWords (8 + 2 * n) bs) u.progs →
      exec (.progImageReadDone p) s = .next (loadEnd (setProgValid { u with progs := x } p l.slot 1) p l.slot 2 0 0))

/-- RNG_ENABLE and RNG_STOP. What waits for the ring's change goes on afterwards (`pump`). -/
def Obligations.RingEnableAndStop : Prop :=
  ∀ (s : State) (r : Ring) (v : Word), ksorted s.regs = true → pf0Open s = true →
    (s.on RNG_CTL.ENABLE r = false → wrote RNG_CTL.ENABLE v.toNat = 1 → wrote RNG_CTL.STOP v.toNat = 0 →
      ∃ t, exec (.rngEnable r v) s = .next (pump t) ∧ t.rd RNG_CTL.ENABLE r = 1 ∧ t.rd RNG_CTL.STOPPED r = 0 ∧
        t.rd RNG_IDX.PIDX r = 0 ∧ t.rd RNG_IDX.CIDX r = 0 ∧ t.rd RNG_CPL_IDX.CPIDX r = 0 ∧ t.rd RNG_CPL_IDX.CCIDX r = 0 ∧
        t.rd RNG_CTL.DROPPED r = s.rd RNG_CTL.DROPPED r ∧
        (∀ f ∈ t.fetched, f.1 / 2 ^ 32 ≠ r) ∧ (∀ h ∈ t.heldCpl, h.ring ≠ r) ∧
        (∀ f ∈ s.fetched, f.1 / 2 ^ 32 ≠ r → f ∈ t.fetched) ∧ t.started = s.started ∧ sameMem s t ∧
        regsKept s t [RNG_CTL.reg.addr r 0 0, RNG_IDX.reg.addr r 0 0, RNG_CPL_IDX.reg.addr r 0 0]) ∧
    (s.on RNG_CTL.ENABLE r = true → (wrote RNG_CTL.STOP v.toNat = 1 ∨ wrote RNG_CTL.ENABLE v.toNat = 0) →
      (s.ringX r).stopping = 0 → (s.ringX r).fetching = 0 → ringStarted s r = [] → (∀ f ∈ s.fetched, f.1 / 2 ^ 32 ≠ r) →
      (∀ h ∈ s.heldCpl, h.ring ≠ r) →
      ∃ t, exec (.rngStop r v) s = .next (pump (evOwner t (ringOwner s r) (ringOwner s r) 0x0101 r
          (1 + s.rd RNG_IDX.CIDX r * 2 ^ 32) (s.rd RNG_CTL.DROPPED r))) ∧
        t.rd RNG_CTL.ENABLE r = 0 ∧ t.rd RNG_CTL.STOPPED r = 1 ∧ t.rd RNG_CTL.STOP_CAUSE r = 1 ∧
        t.rd RNG_CTL.DROPPED r = s.rd RNG_CTL.DROPPED r ∧ t.rd RNG_IDX.CIDX r = s.rd RNG_IDX.CIDX r ∧
        t.rd RNG_IDX.PIDX r = s.rd RNG_IDX.PIDX r ∧ sameMem s t ∧
        regsKept s t [RNG_CTL.reg.addr r 0 0, RNG_IDX.reg.addr r 0 0])

/-- R148: a doorbell written to a ring with ENABLE 0 is ignored, and a PIDX write equal to the current PIDX has no effect,
from the host and by packet. -/
def Obligations.IgnoredDoorbells : Prop :=
  ∀ (s : State) (func : Fin 17) (page r : Ring) (v : BitVec 32),
    (dbSlot s func.val page.val = some r.val → s.on RNG_CTL.ENABLE r = false →
      exec (.doorbellPidxWrite func page v) s = .next s ∧ exec (.doorbellCcidxWrite func page v) s = .next s) ∧
    (dbSlot s func.val page.val = some r.val → v.toNat = s.rd RNG_IDX.PIDX r → exec (.doorbellPidxWrite func page v) s = .next s) ∧
    (s.on RNG_CTL.ENABLE r = false → ∀ sel, doorbell s r sel v.toNat = s) ∧
    (v.toNat = s.rd RNG_IDX.PIDX r → doorbell s r 0 v.toNat = s)

/-- DOORBELL_PIDX_WRITE and DOORBELL_CCIDX_WRITE on a live ring, while nothing sleeps. `fetchGo`, `flushHeld`, `flushLost`
and `drainBad` are what the ring may do next. -/
def Obligations.DoorbellsMoveAnIndex : Prop :=
  ∀ (s : State) (func : Fin 17) (page r : Ring) (v : BitVec 32), ksorted s.regs = true → dbSlot s func.val page.val = some r.val →
    s.on RNG_CTL.ENABLE r = true → s.on CHIP_SLEEP.WAKE_ON_DB = false →
    (s.rd RNG_CFG.CLASS r < 2 → v.toNat ≠ s.rd RNG_IDX.PIDX r → dbBad s r 0 v.toNat = false →
      ∃ t, exec (.doorbellPidxWrite func page v) s = .next (pump (fetchGo t r)) ∧ t.rd RNG_IDX.PIDX r = v.toNat ∧
        t.rd RNG_IDX.CIDX r = s.rd RNG_IDX.CIDX r ∧ t = { s with regs := t.regs, rings := t.rings } ∧ regsKept s t [RNG_IDX.reg.addr r 0 0] ∧
        (ksorted s.rings = true → ∀ q ∈ s.reqs, pOpc q.pkt = aptWrite → (q.port - 64) / 16 = func.val →
          (s.rd RNG_IDX.PIDX r, q.id) ∈ (t.ringX r).behind)) ∧
    (dbBad s r 1 v.toNat = false →
      ∃ t u, exec (.doorbellCcidxWrite func page v) s = .next (pump (drainBad (u.fetched.length + 1) u r)) ∧
        u = flushLost (flushHeld t r (t.heldCpl.length + 1)) r ∧ t.rd RNG_CPL_IDX.CCIDX r = v.toNat ∧
        t.rd RNG_CPL_IDX.CPIDX r = s.rd RNG_CPL_IDX.CPIDX r ∧ onlyRegs s t [RNG_CPL_IDX.reg.addr r 0 0])

/-- DESC_FETCH_DONE, RING_FETCH_TMO_EXPIRY, NOTIFY_TIME_EXPIRY, RING_WDOG_EXPIRY and WEDGE_EXPIRY on a ring that they
concern. Once a ring is marked stalled or wedged, its timer changes nothing. -/
def Obligations.RingTimersAndFetches : Prop :=
  ∀ (s : State) (r : Ring) (descs : List (List Word)),
    (ringLoc1 s r = false → (s.ringX r).fetching ≠ 0 → descs.length = (s.ringX r).fetching → (s.ringX r).stopping = 0 →
      ∃ t, exec (.descFetchDone r descs) s = .next (pump (fetchGo (drainBad (t.fetched.length + 1) t r) r)) ∧
        t = ((putFetched s r (s.rd RNG_IDX.CIDX r) (descs.map fun ws => (List.range 8).map fun i => nthW ws i)).wr RNG_IDX.CIDX
          ((s.rd RNG_IDX.CIDX r + (s.ringX r).fetching) % 2 ^ 32) r).setRingX r { s.ringX r with fetching := 0 }) ∧
    ((s.ringX r).fetching ≠ 0 → (s.ringX r).stopping = 0 → exec (.ringFetchTmoExpiry r false) s =
      .next (pump (fetchGo (stopRing (dropOwn (s.setRingX r { s.ringX r with fetching := 0 }) fun q => q.kind == .fetch && q.ring == r) r 2) r))) ∧
    (s.on RNG_CTL.ENABLE r = true → exec (.ringFetchTmoExpiry r true) s = .next (pump (stopRing
      ((dropOwn s fun q => isCpl q && q.ring == r).count RNG_CTL.DROPPED r 0 0
        (max 1 (s.xrd.own.filter fun q => isCpl q && q.ring == r).length)) r 3))) ∧
    (s.on RNG_NOTIFY.EN r = true → s.rd RNG_NOTIFY.TIME r ≠ 0 → (s.ringX r).pend ≠ 0 →
      exec (.notifyTimeExpiry r) s = .next (notifyRing (s.setRingX r { s.ringX r with pend := 0 }) r)) ∧
    (s.rd RNG_CFG.WDOG r ≠ 0 → ringStarted s r ≠ [] → (s.ringX r).stalled = false →
      exec (.ringWdogExpiry r) s = .next (evOwner (s.setRingX r { s.ringX r with stalled := true }) (ringOwner s r) (ringOwner s r)
        0x0102 r (s.rd RNG_IDX.CIDX r) (ringStarted s r).length)) ∧
    ((s.ringX r).stalled = true → exec (.ringWdogExpiry r) s = .next s) ∧
    (s.rd RNG_CFG.WDOG r ≠ 0 → ringStarted s r ≠ [] → (s.ringX r).wedged = false → ringOwner s r ≠ 16 →
      exec (.wedgeExpiry r) s = .next (evPf0 (evOwner (s.setRingX r { s.ringX r with wedged := true }) (ringOwner s r) (ringOwner s r)
        0x0D04 r (ringOwner s r) (atLeast1 (s.rd FLT_CFG.WEDGE_MULT) * s.rd RNG_CFG.WDOG r)) 0x0D04 r (ringOwner s r)
        (atLeast1 (s.rd FLT_CFG.WEDGE_MULT) * s.rd RNG_CFG.WDOG r) (ringOwner s r))) ∧
    ((s.ringX r).wedged = true → exec (.wedgeExpiry r) s = .next s)

/-- HOST_REQ_NO_BAR, APERTURE_READ and APERTURE_WRITE. The requester that a fault record of an aperture access names is a
free value (log entry 3). -/
def Obligations.ApertureOutcomes : Prop :=
  ∀ (s : State) (func : Fin 17) (win : Fin 16) (off n addr : Nat) (data : List Byte),
    exec (.hostReqNoBar func addr) s = .next (s.emit (.hostReply func 1 [])) ∧
    (aptMap s func win off n = none → exec (.apertureRead func win off n) s = .next (s.emit (.hostReply func 1 []))) ∧
    ((data.length % 64 ≠ 0 ∨ aptMap s func win off (data.length / 64) = none) →
      exec (.apertureWrite func win off data) s = .next (s.emit (.hostReply func 1 []))) ∧
    (func ≠ 0 → s.partOn (func.val - 1) = false → aptMap s func win off n = none) ∧
    (∀ tag a, aptMap s func win off n = some (tag, a) → (funcShut s func = true ∨ aptAllowed s func tag = false) →
      exec (.apertureRead func win off n) s = .next (s.emit (.hostReply func 2 []))) ∧
    (∀ tag a, aptMap s func win off n = some (tag, a) → data.length = 64 * n →
      (funcShut s func = true ∨ aptAllowed s func tag = false) →
      exec (.apertureWrite func win off data) s = .next ((if func.val = 0 then s.count XLT_APT_WIN.DROPS win
        else s.count PRT_APT_WIN.DROPS (func.val - 1)).emit (.aer func 2))) ∧
    (∀ tag a, aptMap s func win off n = some (tag, a) → funcShut s func = false → aptAllowed s func tag = true →
      exec (.apertureRead func win off n) s = .next (pump (admitReq s.tickFresh (64 + func.val * 16 + win.val)
        (mkPkt { opc := aptRead, src := aptFirst s, space := tag, addr := a, arg := n } []) n))) ∧
    (∀ tag a, aptMap s func win off n = some (tag, a) → data.length = 64 * n → funcShut s func = false →
      aptAllowed s func tag = true →
      exec (.apertureWrite func win off data) s = .next (pump (admitReq s.tickFresh (64 + func.val * 16 + win.val)
        (mkPkt { opc := aptWrite, src := aptFirst s, space := tag, addr := a, len := n } data) n)))

/-- R612: what a raise does to the two claims, and source 39 on each change of a claim. A unit that is not in service
holds claim 0 (R611). -/
def Obligations.ClaimsAreRaised : Prop :=
  ∀ (s : State) (u : Nat), u < 2 → ksorted s.regs = true →
    (claimOf s (1 - u) + 1 ≤ 255 → raiseClaim s u = setClaim s u (claimOf s (1 - u) + 1)) ∧
    (255 < claimOf s (1 - u) + 1 →
      raiseClaim s u = setClaim (setClaim s (1 - u) (if inService s (1 - u) then 1 else 0)) u 2) ∧
    (∀ v, claimOf s u = v → setClaim s u v = s) ∧
    (∀ v, v < 256 → claimOf s u ≠ v → ∃ t, setClaim s u v = irqRaise t 39 ∧ claimOf t u = v ∧
      claimOf t (1 - u) = claimOf s (1 - u) ∧ onlyRegs s t [ELD_STAT.reg.addr 0 0 0])

/-- ELDER_HEARTBEAT, HB_TMO_EXPIRY, SELFCHECK_REPORT, SELFCHECK_TMO_EXPIRY and FREEZE_MAX_EXPIRY, for a unit that each
concerns. The ERR of that fatal error is a free value (log entry 3). -/
def Obligations.HeartbeatsAndSelfChecks : Prop :=
  ∀ (s : State) (b : Bool) (code : Nat),
    exec (.elderHeartbeat b) s = .next { s with eld := { s.eld with beats := kput (b2n b) s.now s.eld.beats } } ∧
    (s.on ELD_STAT.FROZEN = false → inService s (b2n b) = true → ∃ t u,
      t = (timeAtLeast s (kgetD 0 (b2n b) s.eld.beats + atLeast1 (s.rd ELD_CFG.HB_TMO) * 100000)).count ELD_CNT.HB_MISS ∧
      u = eldOut t (b2n b) 4 1 ∧ exec (.hbTmoExpiry b) s = .next (if u.on ELD_STAT.FROZEN then checksDone u else u)) ∧
    (∀ u, eldSt s u = 3 → eldOut s u code 1 = (eldLeave s u code).wr ELD_STAT.SOLO 1) ∧
    (∀ u, eldSt s u = 2 → eldOut s u code 1 = freezeBegin (eldLeave s u code) 1) ∧
    (ksorted s.regs = true → s.on ELD_STAT.FROZEN = false → ∀ n, commitOk (freezeBegin s n) = false ∧
      (freezeBegin s n).rd ELD_STAT.FROZEN = 1) ∧
    ((checking s).contains (b2n b) = true → kget (b2n b) s.eld.codes = none → exec (.selfcheckReport b code) s =
      .next (checksDone { s with eld := { s.eld with codes := kput (b2n b) (code % 256) s.eld.codes } }) ∧
      exec (.selfcheckTmoExpiry b) s = .next (checksDone { s with eld := { s.eld with codes := kput (b2n b) 4 s.eld.codes } })) ∧
    (s.on ELD_STAT.FROZEN = true →
      exec .freezeMaxExpiry s = .next (eldersGone ((checking s).foldl (fun t u => eldLeave t u (kgetD 4 u t.eld.codes)) s)))

/-- COMMIT_PROPOSAL, ELDER_REARM, RESYNC_STEP_DONE and HANDOVER. -/
def Obligations.CommitsAreCompared : Prop :=
  ∀ (s : State) (u : Nat) (v : Word) (p q : Proposal) (code n : Nat), u < 2 → activeElder s = some u → s.on ELD_STAT.FROZEN = false →
    (eldSt s (1 - u) = 3 → exec (.commitProposal (some p) (some p)) s = .next (applyProposal s p)) ∧
    (eldSt s (1 - u) = 3 → p ≠ q → exec (.commitProposal (some p) (some q)) s = .next (freezeBegin (evPf0 (s.count ELD_CNT.MISMATCH) 0x0F04
      (s.rd ELD_LOG.COMMIT_SEQ) (if u = 0 then p else q).stage 0) 2)) ∧
    (eldSt s (1 - u) ≠ 3 → eldSt s (1 - u) ≠ 5 →
      exec (.commitProposal (some p) (some q)) s = .next (applyProposal s (if u = 0 then p else q))) ∧
    (pf0Open s = true → eldSt s 0 = 6 → wrote ELD_CTL.REARM_A v.toNat = 1 → wrote ELD_CTL.REARM_B v.toNat = 0 →
      wrote ELD_CTL.HANDOVER v.toNat = 0 → exec (.elderRearm v) s = .next (resyncBegin { s with eld := { s.eld with tries := 0 } } 0)) ∧
    (eldSt s (1 - u) = 4 → s.eld.step < 4 →
      exec (.resyncStepDone 0 n) s = .next { s with eld := { s.eld with step := s.eld.step + 1 } }) ∧
    (eldSt s (1 - u) = 4 → s.eld.step < 4 → code ≠ 0 → exec (.resyncStepDone code n) s = .next (eldLeave s (1 - u) code)) ∧
    (ksorted s.regs = true → eldSt s (1 - u) = 4 → s.eld.step = 4 → ∃ t, exec (.resyncStepDone 0 n) s = .next t ∧ eldSt t (1 - u) = 5 ∧
      t.rd ELD_LOG.WINDOW_LEFT = atLeast1 (s.rd ELD_CFG.CMP_WINDOW) ∧ t.eld = { s.eld with step := 5, entries := n } ∧
      t = { s with regs := t.regs, eld := t.eld } ∧ regsKept s t [ELD_STAT.reg.addr 0 0 0, ELD_LOG.reg.addr 0 0 0]) ∧
    (pf0Open s = true → eldSt s (1 - u) = 3 → wrote ELD_CTL.REARM_A v.toNat = 0 → wrote ELD_CTL.REARM_B v.toNat = 0 →
      wrote ELD_CTL.HANDOVER v.toNat = 1 → exec (.handover v) s = .next (takeControl s (1 - u) 4 0))

/-- The thirteen SPDM requests. Message codes and layouts are those of SPDM 1.2 (log entry 30); digests, signatures and
answer lengths are free values (log entry 3). -/
def Obligations.SpdmAnswers : Prop :=
  ∀ (s : State) (msg : List Byte),
    exec (.getVersion msg) s = .next ({ s with keys := { s.keys with spdm := 1 } }.emit (.spdm [0x10, 0x04, 0, 0, 0, 1, 0, 0x12])) ∧
    (1 ≤ s.keys.spdm → exec (.getCapabilities msg) s = .next (spdmSay { s with keys := { s.keys with spdm := max 2 s.keys.spdm } }
      0x61 0 0 ([0, 0, 0, 0] ++ leBytes 4 spdmFlags))) ∧
    (2 ≤ s.keys.spdm → exec (.negotiateAlgorithms msg) s = .next (spdmSay { s with keys := { s.keys with spdm := 3 } } 0x63 0 0 [])) ∧
    (3 ≤ s.keys.spdm → exec (.getDigests msg) s = .next (spdmSay s 0x01 0 1 []) ∧
      ((nthB msg 2).toNat % 16 = 0 → exec (.getCertificate msg) s = .next (spdmSay s 0x02 0 0 [])) ∧
      ((nthB msg 2).toNat % 16 = 0 → s.keys.identity = true → exec (.challenge msg) s = .next (spdmSay s 0x03 0 1 [])) ∧
      ((nthB msg 2).toNat % 2 = 0 → 1 ≤ (nthB msg 3).toNat → (nthB msg 3).toNat ≤ 7 →
        exec (.getMeasurements msg) s = .next (spdmSay s 0x60 0 0 (measured s (nthB msg 3).toNat))) ∧
      (s.keys.identity = true → s.keys.sess.length < 2 → ∃ own id secret, own = [Config.drbg s.fresh, Config.drbg (s.fresh + 1)] ∧
        id = leNat ((msg.drop 4).take 2) + leNat own * 2 ^ 16 ∧ secret.length = 32 ∧
        exec (.keyExchange msg) s = .next (spdmSay (sessSync
          { s with fresh := s.fresh + 34, keys := { s.keys with sess := s.keys.sess ++ [⟨id, false, secret⟩] } }) 0x64 0 0 own))) ∧
    (∀ x, sessOf s msg false = some x → exec (.finish msg) s = .next (spdmSay { s with keys := { s.keys with
      sess := s.keys.sess.map fun y => if y.id = x.id then { y with up := true } else y } } 0x65 0 0 [])) ∧
    (∀ x, sessOf s msg true = some x → exec (.heartbeatSpdm msg) s = .next (spdmSay s 0x68 0 0 []) ∧
      exec (.keyUpdate msg) s = .next (spdmSay s 0x69 0 0 []) ∧ exec (.vendorDefinedRequest msg) s = .next (ideKm s (msg.drop 15)) ∧
      exec (.endSession msg) s = .next (spdmSay (sessSync { s with keys := { s.keys with
        sess := s.keys.sess.filter fun y => y.id != x.id } }) 0x6C 0 0 [])) ∧
    (∀ k id key, msg = [0, 2, 0, 0, id, 0, k, 0] ++ key → key.length = 40 → s.keys.ide.length < 4 →
      (∀ x ∈ s.keys.ide, x.id ≠ id.toNat) → ideKm s msg = ideSay { s with keys := { s.keys with
        ide := s.keys.ide ++ [⟨id.toNat, (0, 0), [(ideKey k.toNat, key)], []⟩] } } [0, 3, 0, 0, id, 0, k, 0])

/-- UNLOCK_REQ, UNLOCK_TOKEN, TAP_INSTRUCTION, TEST_PORT_RESET, SEC_FW_ADVANCE and SEC_FW_REVOKE. The token's layout and
the instruction codes are the model's (log entry 31); the nonce and what a signature says are free values (log entry
3). -/
def Obligations.TestPortAndFuses : Prop :=
  ∀ (s : State) (token : List Byte) (ir : BitVec 8) (v : Word), ksorted s.regs = true →
    (∃ nonce, nonce = (List.range 32).map (fun i => Config.drbg (s.fresh + i)) ∧ exec .unlockReq s = .next ({ s with
      fresh := s.fresh + 32, keys := { s.keys with nonce := some nonce } }.emit (.tap (uniqueId s ++ nonce)))) ∧
    (s.keys.nonce = some ((token.drop 16).take 32) → token.take 16 = uniqueId s → Config.tokenSigned token = true →
      s.rd CHIP_SLEEP.STATE ≠ 3 → exec (.unlockToken token) s = .next (resetAsk
        { s with start := { s.start with unlock := some (leNat ((token.drop 48).take 8)) } } 1 (5 * 1024) 6 none)) ∧
    (s.keys.nonce ≠ some ((token.drop 16).take 32) → exec (.unlockToken token) s = .next s) ∧
    (ir = 1 → exec (.tapInstruction ir) s = .next ({ s with ctl := { s.ctl with tap := 1 } }.emit (.tap (leBytes 4
      (s.rd CHIP_ID.STEP_MAJOR * 2 ^ 28 + s.rd CHIP_ID.PART * 2 ^ 12 + 0x51A * 2 + 1))))) ∧
    ((ir = 0 ∨ ir = 3 ∨ ir = 4) → exec (.tapInstruction ir) s = .next { s with ctl := { s.ctl with
      tap := if s.ctl.low.testBit 0 then ir.toNat else 0xFF } }) ∧
    (ir = 0x10 → exec (.tapInstruction ir) s = .next { s with ctl := { s.ctl with tap := if s.on SEC_DEBUG.SCAN then 0x10 else 0xFF } }) ∧
    exec .testPortReset s = .next { s with ctl := { s.ctl with tap := 1 } } ∧
    (pf0Open s = true → s.on CHIP_LOCK.LOCK = false → wrote SEC_FW.ADVANCE v.toNat = 1 → wrote SEC_FW.REVOKE v.toNat = 0 →
      ∃ t, exec (.secFwAdvance v) s = .next (evPf0 t 0x0C03 (s.rd SEC_FW.SVN_FUSED) (max (s.rd SEC_FW.SVN_FUSED) (s.rd SEC_FW.SVN_IMAGE)) 0) ∧
        t.rd SEC_FW.SVN_FUSED = max (s.rd SEC_FW.SVN_FUSED) (s.rd SEC_FW.SVN_IMAGE) ∧ t.rd SEC_FW.REVOKED = s.rd SEC_FW.REVOKED ∧
        onlyRegs s t [SEC_FW.reg.addr 0 0 0]) ∧
    (pf0Open s = true → s.on CHIP_LOCK.LOCK = false → wrote SEC_FW.ADVANCE v.toNat = 0 →
      ∃ t, exec (.secFwRevoke v) s = .next t ∧ t.rd SEC_FW.SVN_FUSED = s.rd SEC_FW.SVN_FUSED ∧
        t.rd SEC_FW.REVOKED = s.rd SEC_FW.REVOKED ||| (wrote SEC_FW.REVOKE v.toNat - (wrote SEC_FW.REVOKE v.toNat &&& 2 ^ s.rd SEC_FW.KEYSEL)) ∧
        onlyRegs s t [SEC_FW.reg.addr 0 0 0]) ∧
    (s.on CHIP_LOCK.LOCK = true → exec (.secFwAdvance v) s = .next s ∧ exec (.secFwRevoke v) s = .next s)

/-- The 41 commands that start a descriptor of a ring, each with the kind of descriptor it starts (03 R155). `drainBad`
completes the descriptors in front that fail a check of R157; `startable` is the next fetched descriptor when it may
start. -/
def Obligations.DescriptorStarts : Prop :=
  ∀ (s : State) (r : Ring) (d : Nat) (c : Instr) (kind : List Word → Bool) (s0 : State), s0 = drainBad (s.fetched.length + 1) s r →
    (c, kind) ∈ [(Instr.copy r d, isOpc 0x01), (.fill r d, isOpc 0x02), (.convert r d, isOpc 0x03), (.digest r d, isOpc 0x04),
      (.reduce r d, isOpc 0x08), (.gatherPool r d, isOpc 0x09), (.scatterAdd r d, isOpc 0x0A), (.pageGather r d, isOpc 0x0B),
      (.program r d, isOpc 0x10), (.fence r d, isOpc 0x1A), (.nop r d, isOpc 0x50), (.hintHot r d, isSub 0x20 0 3 0),
      (.hintCold r d, isSub 0x20 0 3 1), (.hintStreamOnce r d, isSub 0x20 0 3 2), (.hintPinNear r d, isSub 0x20 0 3 3),
      (.hintPinDram r d, isSub 0x20 0 3 4), (.hintEvictFirst r d, isSub 0x20 0 3 5), (.hintClear r d, isSub 0x20 0 3 6),
      (.prefetchNear r d, isSub 0x21 0 2 0), (.prefetchDram r d, isSub 0x21 0 2 1), (.demoteDram r d, isSub 0x22 0 2 1),
      (.demoteGranary r d, isSub 0x22 0 2 2), (.publish r d, isOpc 0x28), (.pin r d, isOpc 0x29), (.unpin r d, isOpc 0x2A),
      (.spaceInval r d, isOpc 0x30), (.extentAdd r d, isOpc 0x38), (.extentRelease r d, isOpc 0x39), (.extentMove r d, isOpc 0x3A),
      (.faultReplyMapped r d, isSub 0x48 4 1 0), (.faultReplyRefused r d, isSub 0x48 4 1 1), (.syncSet r d, isOpc 0x18),
      (.syncWait r d, fun ws => isOpc 0x19 ws && dOp ws 0 16 8 != 4 && dOp ws 0 16 8 != 5),
      (.syncWaitArrive r d, isSub 0x19 16 8 5), (.syncWaitTake r d, isSub 0x19 16 8 4), (.keyLoadJob r d, isSub 0x40 12 2 0),
      (.keyLoadMemory r d, isSub 0x40 12 2 1), (.keyLoadEmpty r d, isSub 0x40 12 2 2), (.routeStage r d, isOpc 0x41),
      (.routeCommitFlip r d, fun ws => isOpc 0x42 ws && dOp ws 1 0 1 == 0),
      (.routeCommitDrain r d, fun ws => isOpc 0x42 ws && dOp ws 1 0 1 == 1)] →
    (∀ ws, startable s0 r d kind = some ws →
      (dOpc ws = 0x09 → rowsBad ws = true → ringOwner s r = 16 → exec c s = .fault (.hostError 248)) ∧
      (dOpc ws = 0x0A → rowsBad ws = true → ringOwner s r = 16 → exec c s = .fault (.hostError 249)) ∧
      (dOpc ws = 0x41 → stageBusy s = false → stageBad ws = true → exec c s = .fault (.hostError 442)) ∧
      ((dOpc ws = 0x09 ∨ dOpc ws = 0x0A → rowsBad ws = false ∨ ringOwner s r ≠ 16) →
        (dOpc ws = 0x41 → stageBusy s = true ∨ stageBad ws = false) →
        exec c s = .next (pump (runDesc (beginDesc s0 r d ws) r d)) ∧
        (beginDesc s0 r d ws).fetched = kdel (fetchKey r d) s0.fetched ∧
        (beginDesc s0 r d ws).started = s0.started ++ [⟨r, d, ws, 0, .run, [], [], false, [],
          (tagsUsed ws).filterMap fun t => (s0.spaceSlot t).map fun sl => (t, sl), [], movesNow s0⟩])) ∧
    (startable s0 r d kind = none → exec c s = .next s0)

/-- `runDesc` is what starting a descriptor runs, and what runs it again once what it waited for has come. `runFuel` is
more steps than any descriptor has. `winMoved` and `dropWin` give back the ways that its move pin no longer covers (04
R192, R197). -/
def Obligations.DescriptorsRunToAnEnd : Prop :=
  ∀ (s : State) (r d : Nat) (x : Started), findStarted s r d = some x → x.wait = .run →
    (opcCommits (dOpc x.words) = true → commitFree s = false →
      runDesc s r d = logPut (setStarted s { x with wait := .commit }) (.desc r d)) ∧
    ((opcCommits (dOpc x.words) = true → commitFree s = true) → ∀ (n : Nat) (t : State) (y : Started), n < runFuel → goesOn n s x t y →
      (∀ u z st res cnt, workStep t y = .done u z st res cnt → runDesc s r d = winMoved s (finishDesc u z st res cnt) x.ring x.idx) ∧
      (∀ u z w, workStep t y = .stop u z w → runDesc s r d = winMoved s (setStarted (dropWin u z w) { z with wait := w }) x.ring x.idx))

/-- One step of the work of NOP, FENCE, SPACE_INVAL, EXTENT_ADD, FAULT_REPLY, KEY_LOAD, PIN, UNPIN and ROUTE_COMMIT. An
EXTENT_ADD refused has changed nothing. -/
def Obligations.WorkOfControlDescriptors : Prop :=
  ∀ (s : State) (x : Started),
    (dOpc x.words = 0x50 → workStep s x = .done s x 0 0 0) ∧
    (dOpc x.words = 0x1A → (∀ y ∈ s.started, (y.ring = x.ring → y.idx = x.idx) ∧
      (y.ring = x.ring ∨ dOp x.words 0 0 1 = 0 ∨ ringOwner s y.ring ≠ ringOwner s x.ring)) → workStep s x = .done s x 0 0 0) ∧
    (dOpc x.words = 0x30 → workStep s x =
      .stop { s with copies := s.copies.filter (·.tag != dSpace x.words) } { x with aux := inFlight s (dSpace x.words) } .ext) ∧
    (dOpc x.words = 0x38 → addRefused s x.words ≠ 0 → workStep s x = .done s x (addRefused s x.words) 0 0) ∧
    (dOpc x.words = 0x38 → addRefused s x.words = 0 → ∃ t, workStep s x = .stop t x .ext ∧
      ∃ e, t.ext (eoBase x.words) = some e ∧ e.st = .opening ∧ e.lenG = eoLen x.words ∧ e.part = eoPart x.words) ∧
    (dOpc x.words = 0x48 → s.faults.any (isEntry (dOp x.words 0 0 4) (dSpace x.words) (dOp x.words 1 0 22)) = false →
      workStep s x = .done s x 0x1E 0 0) ∧
    (dOpc x.words = 0x40 → x.aux = [] → klKind x.words = 2 → klSlot x.words ≠ 0 →
      workStep s x = .done (emptySlot s (klSlot x.words)) x 0 0 0) ∧
    (∀ num v, (dOpc x.words = 0x29 → s.on PRT_RGN_CFG.EN (dOp x.words 0 16 4) (dOp x.words 0 0 10) = true →
      num = (if dOp x.words 1 0 32 = 0xFFFFFFFF then rgnCurrent s (dOp x.words 0 16 4) (dOp x.words 0 0 10) else dOp x.words 1 0 32) →
      rgnVer s (dOp x.words 0 16 4) (dOp x.words 0 0 10) num = some v → v.pins < 16777215 → ∃ t, workStep s x = .done t x 0 num 0 ∧
        kget (verKey (dOp x.words 0 16 4) (dOp x.words 0 0 10) num) t.vers = some { v with pins := v.pins + 1 })) ∧
    (∀ v, dOpc x.words = 0x2A → rgnVer s (dOp x.words 0 16 4) (dOp x.words 0 0 10) (dOp x.words 1 0 32) = some v → 1 < v.pins →
      ∃ t, workStep s x = .done t x 0 0 0 ∧
        kget (verKey (dOp x.words 0 16 4) (dOp x.words 0 0 10) (dOp x.words 1 0 32)) t.vers = some { v with pins := v.pins - 1 }) ∧
    (dOpc x.words = 0x42 → x.aux = [] → (dW x.words 4).toNat < s.now + 10000 → workStep s x = .done s x 0x1C 0 0) ∧
    (dOpc x.words = 0x42 → x.aux = [] → s.now + 10000 ≤ (dW x.words 4).toNat → stageBusy s = false → dOp x.words 1 0 1 = 1 →
      ∃ t, workStep s x = .stop t { x with aux := [1] } .ext ∧
        t.xrd.commit = some ⟨true, (dW x.words 4).toNat, x.ring, x.idx, 0, 0⟩)

/-- One step of COPY between pool addresses and of FILL (03 R156), and the near-store write underneath them: `tierWrite`
answers at once for a line the near store holds. -/
def Obligations.DataDescriptorsMoveLines : Prop :=
  ∀ (s : State) (x : Started),
    (dOpc x.words = 0x02 → x.prog = dLen x.words → workStep s x = .done s x 0 0 x.prog) ∧
    (dOpc x.words = 0x01 → x.prog = dLen x.words → workStep s x = .done s x 0 0 x.prog) ∧
    (∀ t d, dOpc x.words = 0x02 → x.prog ≠ dLen x.words → dWrite s x (dSpace x.words) (dDst x.words + 64 * x.prog)
        ((List.replicate 8 (leBytes 8 (dW x.words 4).toNat)).flatten) = (t, .ok d) →
      workStep s x = .more t { x with prog := x.prog + 1 }) ∧
    (∀ t d, dOpc x.words = 0x01 → x.prog ≠ dLen x.words → x.bad = false → x.buf = [] → dFlag x.words 3 = false →
      dRead s x (dSrcSpace x.words) (dSrc x.words + 64 * x.prog) = (t, .ok d) → workStep s x = .more t { x with buf := d }) ∧
    (∀ t d, dOpc x.words = 0x01 → x.prog ≠ dLen x.words → x.bad = false → x.buf ≠ [] → dFlag x.words 4 = false →
      dWrite s x (dSpace x.words) (dDst x.words + 64 * x.prog) x.buf = (t, .ok d) →
      workStep s x = .more t { x with prog := x.prog + 1, buf := [] }) ∧
    (∀ base e line chg data n, ksorted s.mem = true → kget line s.tier.near = some n → data.length = 64 →
      (n.dirty = true ∨ s.rd DDR_CTL.STATE (if e.deep then s.cacheChan e.part (line * 64) else (fastPlace s base e line).1) ≠ 6) →
      ∃ t, tierWrite s base e line chg data = (t, .okL []) ∧ t.line line = data ∧ t.isPoison line = false ∧
        (∀ a, a / 64 ≠ line → t.byte a = s.byte a) ∧ (∀ l, l ≠ line → t.isPoison l = s.isPoison l) ∧ t.regs = s.regs)

/-- EXTENT_INIT_DONE, EXTENT_RELEASE_DRAINED, EXTENT_SCRUB_DONE, EXTENT_MOVE_DONE and RELEASE_TMO_EXPIRY. -/
def Obligations.ExtentsChangeState : Prop :=
  ∀ (s : State) (b : Nat) (e : Ext), s.ext b = some e →
    (commitFree s = true → e.st = .opening → ∃ t, t = finishBy ((scrubExt s b e).setExt b { e with st := .open, by_ := none, closeAfter := none }) e
        (if (e.slots.any fun x => s.rd DDR_CTL.STATE x.1 == 6) then 0x08 else 0) 0 ∧
      (e.closeAfter = none → exec (.extentInitDone b) s = .next (pump t)) ∧
      (∀ who e', e.closeAfter = some who → t.ext b = some e' → exec (.extentInitDone b) s = .next (pump (closeExt t b e' (some who))))) ∧
    (commitFree s = true → e.st = .closing → releaseHalted s e = false → tokensOut s b e = false → exec (.extentReleaseDrained b) s =
      .next (scrubBegin s b e)) ∧
    (commitFree s = true → e.st = .scrubbing → releaseHalted s e = false → (∀ v ∈ s.verRels, v.exts.contains b = false) → exec (.extentScrubDone b) s =
      .next (pump (evPart (finishBy (freeExt s b e) e (if e.absorbed then 0x19 else 0) e.poisoned) e.part 0x0201 e.poisoned b
        (if e.absorbed then 0x19 else 0)))) ∧
    (commitFree s = true → e.st = .moving → exec (.extentMoveDone b) s = .next (pump (moveDone s b e))) ∧
    (e.st = .closing → e.absorbed = false → releaseHalted s e = false → exec (.releaseTmoExpiry b) s = .next (pump (poisonHolders s b e))) ∧
    (e.st ≠ .opening → commitFree s = true → exec (.extentInitDone b) s = .next s) ∧
    (e.st ≠ .closing ∨ releaseHalted s e = true → commitFree s = true → exec (.extentReleaseDrained b) s = .next s ∧ exec (.releaseTmoExpiry b) s = .next s) ∧
    (e.st ≠ .scrubbing → commitFree s = true → exec (.extentScrubDone b) s = .next s) ∧
    (e.st ≠ .moving → commitFree s = true → exec (.extentMoveDone b) s = .next s) ∧
    (commitFree s = false → exec (.extentInitDone b) s = .next (logPut s (.initDone b)) ∧
      exec (.extentReleaseDrained b) s = .next (logPut s (.drained b)) ∧ exec (.extentScrubDone b) s = .next (logPut s (.scrubDone b)) ∧
      exec (.extentMoveDone b) s = .next (logPut s (.moveDone b)))

/-- `scrubExt` is what EXTENT_INIT_DONE and EXTENT_SCRUB_DONE do to storage; `freeExt` also takes the entry away. An
extent at base b (GiB) with length L covers the bytes from b × 2^30 up to (b + L) × 2^30 (02 R112). -/
def Obligations.ScrubbedExtentsReadZero : Prop :=
  ∀ (s : State) (b : Nat) (e : Ext), ksorted s.mem = true → ksorted s.extents = true →
    (∀ a, b * 2 ^ 30 ≤ a → a < (b + e.lenG) * 2 ^ 30 → (scrubExt s b e).byte a = 0 ∧ (scrubExt s b e).isPoison (a / 64) = false) ∧
    (∀ a, (a < b * 2 ^ 30 ∨ (b + e.lenG) * 2 ^ 30 ≤ a) →
      (scrubExt s b e).byte a = s.byte a ∧ (scrubExt s b e).isPoison (a / 64) = s.isPoison (a / 64)) ∧
    ((∀ n ∈ s.tier.near, n.2.dirty = true → inExt b e n.1 = true) → (∀ l ∈ s.tier.wbuf, inExt b e l = true) →
      sameMem (scrubExt s b e) (freeExt s b e) ∧ (freeExt s b e).ext b = none)

/-- KEY_BLOB_READ_DONE, ROUTE_IMAGE_READ_DONE, VERSION_RELEASE_DONE and SPACE_INVAL_DRAINED. -/
def Obligations.ReadsForTheControlPlane : Prop :=
  ∀ (s : State) (r : Ring) (d : Nat) (x : Started), findStarted s r d = some x →
    (∀ blob key, commitFree s = true → dOpc x.words = 0x40 → blob.bind (unwrapBlob s x.words) = some key →
      (klKind x.words = 1 → s.rd PRT_EXT_USED.EXTENTS (klPart x.words) = 0) →
      exec (.keyBlobReadDone r d blob) s = .next (pump (finishDesc (installKey s x.words key) x 0 0 0))) ∧
    (∀ blob, commitFree s = true → dOpc x.words = 0x40 → blob.bind (unwrapBlob s x.words) = none →
      exec (.keyBlobReadDone r d blob) s = .next (pump (finishDesc s x 0x1B 0 0))) ∧
    (∀ bs, commitFree s = true → dOpc x.words = 0x41 → rsCount x.words ≠ 0 → bs.length = 4 * rsCount x.words →
      exec (.routeImageReadDone r d (some bs)) s = .next (pump (finishDesc (stageImage s x.words (nthB bs)) x 0 0 0))) ∧
    (∀ blob img, commitFree s = false → exec (.keyBlobReadDone r d blob) s = .next (logPut s (.blob r d blob)) ∧
      exec (.routeImageReadDone r d img) s = .next (logPut s (.image r d img))) ∧
    (∀ (p : Part) (region version : Nat) (v : VerRel),
      s.verRels.find? (fun v => v.part == p.val && v.region == region && v.num == version) = some v →
      (∀ b ∈ v.exts, ∀ e, s.ext b = some e → e.st = .scrubbing) →
      exec (.versionReleaseDone p region version) s = .next (pump (verReleased s v))) ∧
    (dOpc x.words = 0x30 → (∀ k ∈ x.aux, k ∉ inFlight s (dSpace x.words)) →
      exec (.spaceInvalDrained r d) s = .next (pump (finishDesc s x 0 0 0)))

/-- COALESCE_WINDOW_END, HOLD_TMO_EXPIRY, SYNC_WAIT_SATISFIED, SYNC_WAIT_TMO_EXPIRY, XLT_REQ_LIFE_EXPIRY,
RETRY_AFTER_EXPIRY and E2E_TMO_EXPIRY. The keys of RETRY_AFTER_EXPIRY are log entry 15. -/
def Obligations.FaultsAndWaitsEnd : Prop :=
  ∀ (s : State),
    (∀ (p : Part) (tag page : Nat) (e : FaultEnt) (t : State), s.faults.find? (isEntry p.val tag page) = some e →
      (e.written = false → faultRecord s p.val (xltRecord p.val 1 e.acc tag e.count page e.first e.firstRing s.now 0) = (t, true) →
        ∀ set : FaultEnt → FaultEnt, (set = fun x => if isEntry p.val tag page x then { x with written := true } else x) →
        exec (.coalesceWindowEnd p tag page) s = .next (pump { t with faults := t.faults.map set })) ∧
      (e.written = false → faultRecord s p.val (xltRecord p.val 1 e.acc tag e.count page e.first e.firstRing s.now 0) = (t, false) →
        exec (.coalesceWindowEnd p tag page) s = .next (pump (releaseHeld (t.count PRT_XLT_STAT.FAULT_OVF p) p tag page
          (.nakL 1 (retryDelay t p)) .retry))) ∧
      (e.written = true → exec (.coalesceWindowEnd p tag page) s = .next (pump s) ∧
        exec (.holdTmoExpiry p tag page) s = .next (pump (releaseHeld s p tag page (.nakL 1 (retryDelay s p)) .retry))) ∧
      (e.written = false → exec (.holdTmoExpiry p tag page) s = .next s)) ∧
    (∀ (r : Ring) (d : Nat) (x : Started), findStarted s r d = some x → dOpc x.words = 0x19 →
      (x.aux ≠ [] → nthN x.aux 4 ≠ 0xFF →
        exec (.syncWaitSatisfied r d) s = .next (pump (finishDesc s x (nthN x.aux 4) (nthN x.aux 5) 0))) ∧
      (dOp x.words 2 0 32 ≠ 0 → nthN x.aux 4 = 0xFF →
        exec (.syncWaitTmoExpiry r d) s = .next (pump (finishDesc s x 0x0D (nthN x.aux 5) 0))) ∧
      (dOp x.words 2 0 32 = 0 → exec (.syncWaitTmoExpiry r d) s = .next s)) ∧
    (∀ (id : Nat) (r : HeldReq) (slot part : Nat) (t : State), id < 2 ^ 48 → s.reqs.find? (fun q => q.id == id) = some r → r.look = some (slot, part) →
      t = setReq s (poisonWaits r) →
      (flies s (.req id) = true → exec (.xltReqLifeExpiry id) s = .next (pump (watchUE t 1 (t.homeSlice part (pAddr r.pkt)) 0x0E part
        (pktReq id part 0 r.pkt).access (pSpace r.pkt) none 0 1))) ∧
      (flies s (.req id) = false → exec (.xltReqLifeExpiry id) s = .next s)) ∧
    (∀ (f : Flight) (t : State), s.flights.find? (fun g => g.id == f.id) = some f →
      t = wakeHolder { s with flights := s.flights.map fun (g : Flight) => if g.id = f.id then { g with poison := true } else g } f.who →
      (f.res.isSome = true → exec (.xltReqLifeExpiry (2 ^ 48 + f.id)) s = .next (pump (watchUE t 1 (s.homeSlice f.part f.addr) 0x0E f.part (holderAccess f) f.tag none 0 1))) ∧
      (f.res = none → exec (.xltReqLifeExpiry (2 ^ 48 + f.id)) s = .next s)) ∧
    (∀ (r : Ring) (d : Nat) (x : Started), d < 2 ^ 32 → findStarted s r d = some x → x.wait = .retry →
      exec (.retryAfterExpiry (r * 2 ^ 32 + d)) s = .next (pump (setStarted s { x with wait := .run }))) ∧
    (∀ (o : Nat) (x : SetX), o < 2 ^ 17 → kget o s.sets = some x → x.wait = .retry → ∃ t, exec (.retryAfterExpiry (2 ^ 48 + o)) s = .next t ∧
      kget o t.sets = some { x with wait := .run } ∧ t.regs = s.regs ∧ sameMem s t) ∧
    (∀ (p : Part) (x : Load), kget p.val s.loads = some x → x.wait = .retry →
      exec (.retryAfterExpiry (2 ^ 48 + 2 ^ 17 + p)) s = .next { s with loads := kput p.val { x with wait := .run } s.loads }) ∧
    (∀ (id : Nat) (q : OwnReq), s.xrd.own.find? (fun q => q.id == id) = some q →
      (q.naked = true → exec (.retryAfterExpiry (2 ^ 49 + id)) s = .next (resendOwn s id) ∧ exec (.e2eTmoExpiry id) s = .next s) ∧
      (q.naked = false → exec (.e2eTmoExpiry id) s = .next (resendOwn s id) ∧ exec (.retryAfterExpiry (2 ^ 49 + id)) s = .next s))

/-- PROGRAM_TILES_DONE, PROG_RUN_TMO_EXPIRY, ARM_SET_LIST_READ_DONE, SET_RESULT_WRITTEN, SET_TIMER_EXPIRY and
ISSUER_ACCESS_DONE. -/
def Obligations.ProgramsSetsAndIssuerAccesses : Prop :=
  ∀ (s : State) (r : Ring) (d : Nat),
    (∀ x v, findStarted s r d = some x → getInvoc s x = some v →
      (v.phase = 2 → exec (.programTilesDone r d) s =
        .next (pump (dRun workStep runFuel (setInvoc s x { v with phase := 3 }) { x with wait := .run }))) ∧
      (v.phase ≠ 2 → exec (.programTilesDone r d) s = .next s) ∧
      (s.rd PRT_PROG_CFG.RUN_TMO v.part ≠ 0 → v.phase = 1 ∨ v.phase = 2 → exec (.progRunTmoExpiry r d) s = .next (pump (invocStop s x v))) ∧
      (v.phase ≠ 1 → v.phase ≠ 2 → exec (.progRunTmoExpiry r d) s = .next s) ∧
      (s.rd PRT_PROG_CFG.RUN_TMO v.part = 0 → exec (.progRunTmoExpiry r d) s = .next s)) ∧
    (∀ obj, exec (.armSetListReadDone obj) s = .next (pump (armListDone s obj)) ∧
      exec (.setResultWritten obj) s = .next (pump (completeSet s obj)) ∧
      (∀ x, kget obj s.sets = some x → oState (objW1 s obj) = 0 → exec (.setTimerExpiry obj) s = .next (pump (endSet s obj 3 true true))) ∧
      (kget obj s.sets = none → exec (.setTimerExpiry obj) s = .next s)) ∧
    (∀ x, findStarted s r d = some x → dOpc x.words = 0x01 → x.wait = .ext → ringLoc1 s r = false →
      (∀ bs, x.buf = [] → bs.length = 64 →
        exec (.issuerAccessDone r d (.data bs)) s = .next (pump (setStarted s { x with buf := bs, wait := .run }))) ∧
      (x.buf = [] → exec (.issuerAccessDone r d .poison) s = .next (pump (setStarted s { x with bad := true, wait := .run }))) ∧
      exec (.issuerAccessDone r d .err) s = .next (pump (finishDesc s x 0x03 0 x.prog)) ∧
      ∃ t, exec (.issuerAccessDone r d .tmo) s = .next (pump (finishDesc t x 0x0D 0 x.prog)) ∧ t.regs = s.regs ∧ sameMem s t)

/-- `sopApply` is the operation both SYNC_SET and SYNC_OP make. Statuses: 0 OK, 0x09 bad code, 0x14 not found, 0x15 busy
(03 R159). `wakeWaits` lets the SYNC_WAITs of the object see the new value. -/
def Obligations.SyncOperations : Prop :=
  ∀ (s : State) (o v : Nat) (upd : Nat → State × Nat) (init : Nat → Nat → State × Nat),
    (upd = fun x => (wakeWaits (setObj s o x (objW1 s o)) o false, 0)) → (init = fun a b => (wakeWaits (setObj s o a b) o true, 0)) →
    (oType (objW1 s o) = 1 → sopApply s o 0x08 v = upd ((objW0 s o + v) % 2 ^ 64) ∧ sopApply s o 0x09 v = upd v ∧
      sopApply s o 0x0A v = upd (objW0 s o / 2 ^ 32 * 2 ^ 32 + v % 2 ^ 32) ∧ sopApply s o 0x0B v = upd (max (objW0 s o) v)) ∧
    (oType (objW1 s o) ≠ 1 → ∀ sop ∈ [0x08, 0x09, 0x0A, 0x0B], sopApply s o sop v = (s, 0x14)) ∧
    (oType (objW1 s o) = 2 → objW0 s o % 2 ^ 32 + 1 ≠ oExpect (objW1 s o) → sopApply s o 0x10 v = upd (objW0 s o % 2 ^ 32 + 1)) ∧
    (oType (objW1 s o) ≠ 2 → sopApply s o 0x10 v = (s, 0x14)) ∧
    (oType (objW1 s o) = 3 → sopApply s o 0x18 v = upd (min (objW0 s o + v % 2 ^ 32) (2 ^ 64 - 1)) ∧
      (v % 2 ^ 32 ≤ objW0 s o → sopApply s o 0x19 v = upd (objW0 s o - v % 2 ^ 32)) ∧
      (objW0 s o < v % 2 ^ 32 → sopApply s o 0x19 v = (s, 0x15))) ∧
    (oType (objW1 s o) ≠ 3 → sopApply s o 0x18 v = (s, 0x14) ∧ sopApply s o 0x19 v = (s, 0x14)) ∧
    (oOpen (objW1 s o) = false → sopApply s o 0x01 v = init v 1 ∧ sopApply s o 0x02 v = init v 3 ∧ sopApply s o 0x05 v = init 0 0 ∧
      (1 ≤ v % 2 ^ 16 → v % 2 ^ 16 ≤ 32768 → sopApply s o 0x03 v = init 0 (2 + fld v 16 1 * 2 ^ 8 + v % 2 ^ 16 * 2 ^ 16))) ∧
    (oOpen (objW1 s o) = true → ∀ sop ∈ [0x01, 0x02, 0x05], sopApply s o sop v = (s, 0x15)) ∧
    ((v % 2 ^ 16 = 0 ∨ 32768 < v % 2 ^ 16) → sopApply s o 0x03 v = (s, 0x09)) ∧
    (oType (objW1 s o) = 4 → oState (objW1 s o) = 0 → sopApply s o 0x20 v = (endSet s o 5 true true, 0)) ∧
    (oType (objW1 s o) = 4 → oState (objW1 s o) = 1 → sopApply s o 0x20 v = (s, 0x15)) ∧
    (oType (objW1 s o) ≠ 4 → sopApply s o 0x20 v = (s, 0x14))

/-- The SOP commands take either form (07 R294). Whatever else can go on then goes on. -/
def Obligations.SyncCommands : Prop :=
  ∀ (s : State) (call : SyncCall) (c : Instr) (sop : Nat), (c, sop) ∈ [(Instr.sopRead call, 0x00), (.initCounter call, 0x01),
      (.initSem call, 0x02), (.initBarrier call, 0x03), (.armSet call, 0x04), (.sopFree call, 0x05), (.sopAdd call, 0x08),
      (.store call, 0x09), (.storeLo call, 0x0A), (.sopMax call, 0x0B), (.arrive call, 0x10), (.post call, 0x18), (.take call, 0x19),
      (.cancel call, 0x20)] →
    (∀ (r : Ring) (d : Nat) (s0 : State) (ws : List Word), call = .desc r d → s0 = drainBad (s.fetched.length + 1) s r →
      (startable s0 r d (isSub 0x18 16 8 sop) = some ws → exec c s = .next (pump (runDesc (beginDesc s0 r d ws) r d)) ∧
        sop ≠ 0x00 ∧ sop ≠ 0x19) ∧
      (startable s0 r d (isSub 0x18 16 8 sop) = none → exec c s = .next s0)) ∧
    (∀ (port : Port) (p : Pkt), call = .pkt port p →
      (pktSop s port p = some sop → exec c s = .next (pump (receive s port p))) ∧
      (pktSop s port p ≠ some sop → exec c s = .next s))

/-- READ, WRITE, REDUCE_WRITE, the four ATOMICs, the coherence messages, SYNC_OP, DOORBELL, and the answers READ_DATA,
WRITE_ACK, NAK, ERROR_RESP and ATOMIC_RESP. `taken` and `opened` say what the packet has passed (11 R428, R429). -/
def Obligations.PacketsAreServed : Prop :=
  ∀ (s t : State) (port : Port) (p q o : Pkt) (yellow : Bool), taken s port p t yellow q → opened t port q o →
    (∀ c k, (c, k) ∈ [(Instr.read port p, 0x01), (.write port p, 0x03), (.reduceWrite port p, 0x05), (.cohRdShared port p, 0x10),
        (.cohRdOwn port p, 0x11), (.cohUpgrade port p, 0x12), (.cohWriteback port p, 0x13), (.cohFwdDataRx port p, 0x15),
        (.cohAck port p, 0x17)] → pOpc p = k → exec c s = .next (pump (requestIn t port o))) ∧
    (∀ c k, (c, k) ∈ [(Instr.atomicFadd port p, 1), (.atomicSwap port p, 2), (.atomicCas port p, 3), (.atomicUmax port p, 4)] →
      pOpc p = 0x06 → pCode p = k → exec c s = .next (pump (requestIn t port o))) ∧
    (pOpc p = 0x08 → syncPktOk t o = true → exec (.syncOp port p) s = .next (pump (requestIn t port o))) ∧
    (pOpc p = 0x08 → syncPktOk t o = false → exec (.syncOp port p) s = .next (pump (dropArrival t port))) ∧
    (pOpc p = 0x09 → dbPktOk t o = true →
      exec (.doorbellPacket port p) s = .next (pump (requestIn t port o))) ∧
    (pOpc p = 0x09 → dbPktOk t o = false →
      exec (.doorbellPacket port p) s = .next (pump (dropArrival t port))) ∧
    (∀ c k, (c, k) ∈ [(Instr.readDataRx port p, 0x02), (.writeAckRx port p, 0x04), (.nakRx port p, 0x18), (.errorRespRx port p, 0x1E),
        (.atomicRespRx port p, 0x07)] → pOpc p = k → scopeShut t 5 0 = false → exec c s = .next (pump (answerIn t port o)))

/-- TRANSIT_FORWARD, MULTICAST_REPLICATE, EVENT_PACKET and the three ROUTE_CTL notices, and what every packet command does
with a packet that Crossroads does not take. -/
def Obligations.PacketsPassOn : Prop :=
  ∀ (s t : State) (port : Port) (p q : Pkt) (yellow : Bool),
    (taken s port p t yellow q → pMcast q = 0 → pDst q ≠ nodeId t → pMcast p = 0 → pDst p ≠ nodeId s →
      (pHops q = hopLimit t → exec (.transitForward port p) s = .next (pump (t.count XRD_PORT_CNT.HOPS_DROP port))) ∧
      (pHops q ≠ hopLimit t → exec (.transitForward port p) s =
        .next (pump (routeUnicast t 16 port yellow { q with w0 := wset q.w0 49 6 (pHops q + 1) })))) ∧
    (taken s port p t yellow q → pMcast q ≠ 0 → pMcast p ≠ 0 → exec (.multicastReplicate port p) s = .next (pump (replicate t port yellow q))) ∧
    (taken s port p t yellow q → pMcast q = 0 → pDst q = nodeId t → t.xrd.leaving = 0 → pTc q ≠ 0 → pOpc q = 0x0A → pOpc p = 0x0A →
      exec (.eventPacket port p) s = .next (pump (dropArrival t port))) ∧
    (taken s port p t yellow q → pMcast q = 0 → pDst q = nodeId t → t.xrd.leaving = 0 → pTc q ≠ 0 → pOpc q = 0x1C → pOpc p = 0x1C →
      pSrc q = t.rd PORT_PARTNER.NODE port → pHops q = 0 → ∀ c k, (c, k) ∈ [(Instr.routeCtlLeaving port p, 1), (.routeCtlGone port p, 2),
        (.routeCtlTime port p, 3)] → pCode p = k → exec c s = .next (pump (routeCtl t port q))) ∧
    (∀ c k, (c, k) ∈ [(Instr.read port p, 0x01), (.write port p, 0x03), (.syncOp port p, 0x08), (.eventPacket port p, 0x0A)] → pOpc p = k →
      (linkUp s port = false → exec c s = .next (pump s)) ∧
      (linkUp s port = true → q = arrived s port p → arrivalFail (nodeId s) (trusted s port) q ≠ 0 →
        exec c s = .next (pump (creditBack (dropArrival s port) port (pTc q) (pLen q)))) ∧
      (∀ u, linkUp s port = true → q = arrived s port p → arrivalFail (nodeId s) (trusted s port) q = 0 → meter s port q = (u, .green) →
        s.on XRD_EPOCH.DRAINING = true →
        exec c s = .next (pump { u with xrd := { u.xrd with rxWait := u.xrd.rxWait ++ [(port.val, false, q)] } })) ∧
      (∀ u, linkUp s port = true → q = arrived s port p → arrivalFail (nodeId s) (trusted s port) q = 0 → meter s port q = (u, .green) →
        s.on XRD_EPOCH.DRAINING = false → pEpoch q ≠ u.rd XRD_EPOCH.CUR → u.on XRD_EPOCH.IDLE = true →
        exec c s = .next (pump ((creditBack u port (pTc q) (pLen q)).count XRD_PORT_CNT.STALE port))))

/-- COH_RD_SHARED at the home, SNOOP_TMO_EXPIRY and BACKOFF_RESERVATION_EXPIRY. `line` is the directory key of the line. -/
def Obligations.CoherenceTransactions : Prop :=
  ∀ (s : State) (key agent port : Nat) (e : DirEnt) (k : Pkt),
    (pOpc k = 0x10 → e.owner = none → e.coarse = false → e.isO = false → cohServe s key e agent port k = cohAdvance (openTx s key
      { e with resv := none, sharers := e.sharers.filter (· != agent) } e.holding .rdShared agent (some k) port none [] none) key) ∧
    (∀ w, pOpc k = 0x10 → e.owner = some w → w ≠ agent → e.coarse = false → cohServe s key e agent port k = cohAdvance (openTx s key
      { e with resv := none, sharers := e.sharers.filter (· != agent) } e.holding .rdShared agent (some k) port none [] (some (w, 0))) key) ∧
    (s.dirEnt key = some e → e.tx = none → exec (.snoopTmoExpiry key) s = .next (pump s)) ∧
    (∀ tx a, s.dirEnt key = some e → e.tx = some tx → tx.wb = false → tx.fwd = none → tx.acks.head? = some a → cohUp s (domOf key) = true →
      exec (.snoopTmoExpiry key) s = .next (pump (teardown s (domOf key) 1 a))) ∧
    (∀ tx w, s.dirEnt key = some e → e.tx = some tx → tx.wb = false → tx.fwd = some w → cohUp s (domOf key) = true →
      exec (.snoopTmoExpiry key) s = .next (pump (teardown s (domOf key) 1 w))) ∧
    (s.dirEnt key = some e → e.tx = none → e.resv.isSome = true → e.waiters ≠ [] →
      exec (.backoffReservationExpiry key) s = .next (setDir s key { e with resv := e.waiters.head?, waiters := e.waiters.tail })) ∧
    (s.dirEnt key = some e → e.tx = none → e.resv.isSome = true → e.waiters = [] → e.owner = none → e.sharers = [] →
      exec (.backoffReservationExpiry key) s = .next (delDir s key)) ∧
    (s.dirEnt key = some e → e.tx.isSome = true → exec (.backoffReservationExpiry key) s = .next s)

/-- COMMIT_AT_REACHED, EPOCH_HOLD_EXPIRY, DRAIN_END, ANSWER_CACHE_EXPIRY, TIME_SEND_TICK and TIME_LOSS_EXPIRY. The time is
taken to be at least AT. -/
def Obligations.CrossroadsTimers : Prop :=
  ∀ (s : State), ksorted s.regs = true →
    (∀ c, s.xrd.commit = some c → c.phase = 0 → c.drain = false → s.now = c.at_ → ∃ t, exec .commitAtReached s =
        .next (pump (commitDone (evPf0 t 0x0902 (1 - s.rd XRD_EPOCH.CUR) c.at_ s.now) c 0)) ∧
      t.rd XRD_EPOCH.CUR = (1 - s.rd XRD_EPOCH.CUR) % 2 ∧ t.rd XRD_EPOCH.PENDING = 0 ∧ t.xrd.commit = some { c with phase := 1 }) ∧
    (∀ c, s.xrd.commit = some c → c.phase = 0 → c.drain = true → s.now = c.at_ → ∃ t, exec .commitAtReached s = .next (pump t) ∧
      t.rd XRD_EPOCH.DRAINING = 1 ∧ t.xrd.commit = some { c with phase := 2 } ∧ regsKept s t [XRD_EPOCH.reg.addr 0 0 0]) ∧
    (∀ c, s.xrd.commit = some c → c.phase = 1 → s.rd XRD_EPOCH.OLD_PKTS = 0 → exec .epochHoldExpiry s = .next (holdEnd s)) ∧
    (∀ c, s.xrd.commit = some c → c.phase = 1 → s.rd XRD_EPOCH.OLD_PKTS ≠ 0 → exec .epochHoldExpiry s = .next s) ∧
    (∀ c, s.xrd.commit = some c → c.phase = 2 → exec .drainEnd s = .next (pump (drainEnd s c))) ∧
    (s.xrd.commit = none → exec .commitAtReached s = .next s ∧ exec .epochHoldExpiry s = .next s ∧ exec .drainEnd s = .next s) ∧
    (∀ (sl : Slice) (src seq ctag k : Nat), ksorted s.answers = true →
      k = ((sl.val * 2 ^ 15 + src % 2 ^ 15) * 2 ^ 16 + seq % 2 ^ 16) * 2 ^ 16 + ctag % 2 ^ 16 →
      ∃ t, exec (.answerCacheExpiry sl src seq ctag) s = .next t ∧ t = { s with answers := t.answers } ∧ kget k t.answers = none ∧
        ∀ j, j ≠ k → kget j t.answers = kget j s.answers) ∧
    (s.xrd.leaving = 0 → s.on XRD_EPOCH.DRAINING = false →
      (∀ n, n < 32 → (s.rd XRD_TIME_CFG.CHILD).testBit n = true → usable s n = false) → exec .timeSendTick s = .next s) ∧
    (∀ n, n < 32 → s.xrd.leaving = 0 → s.on XRD_EPOCH.DRAINING = false → s.rd XRD_TIME_CFG.CHILD = 2 ^ n → usable s n = true →
      exec .timeSendTick s = .next (enqueue s n 16 32 false false (notice s n 3 0 (lineOfWords [s.now])))) ∧
    (s.on XRD_TIME_CFG.MASTER = true → exec .timeLossExpiry s = .next s) ∧
    (s.on XRD_TIME_CFG.MASTER = false → ∃ t, exec .timeLossExpiry s = .next (guardAll t) ∧ t.rd XRD_TIME_CFG.SYNCED = 0 ∧
      t.xrd.slew = 0 ∧ regsKept s t [XRD_TIME_CFG.reg.addr 0 0 0])

/-- DATA_FLIT_RX, IDLE_FLIT_RX, CORRUPT_FLIT_RX, REPLAY_TIMER_EXPIRY and NAK_REPEAT_EXPIRY on a port in ACTIVE; in LPI a
data flit first wakes it. -/
def Obligations.FlitsOnALink : Prop :=
  ∀ (s : State) (n : Port) (f : Flit) (x : LinkX), ksorted s.regs = true → ksorted s.links = true → x = s.link n →
    (flitsFlow s n = true → s.rd PORT_STATUS.STATE n = 2 → f.ackV = false → f.crV = false →
      (f.fseq.toNat = x.expSeq → x.episode = false → ∃ t, exec (.dataFlitRx n f) s = .next t ∧ t = { s with links := t.links } ∧
        t.link n = { x with expSeq := (x.expSeq + 1) % 65536, ackV := true, nakOut := false } ∧ ∀ m, m ≠ n.val → t.link m = s.link m) ∧
      (f.fseq.toNat ≠ x.expSeq → seqBefore f.fseq.toNat x.expSeq = true → exec (.dataFlitRx n f) s = .next s) ∧
      (f.fseq.toNat ≠ x.expSeq → seqBefore f.fseq.toNat x.expSeq = false → x.nakOut = false → ∃ t,
        exec (.dataFlitRx n f) s = .next (t.emit (.link n 0x31 [x.expSeq])) ∧ t.link n = { x with nakOut := true, episode := true } ∧
        t.rd PORT_LINK_CNT.NAKS n = min (s.rd PORT_LINK_CNT.NAKS n + 1) (2 ^ PORT_LINK_CNT.NAKS.w - 1) ∧
        regsKept s t [PORT_LINK_CNT.reg.addr n 0 0]) ∧
      (f.fseq.toNat ≠ x.expSeq → seqBefore f.fseq.toNat x.expSeq = false → x.nakOut = true → ∃ t,
        exec (.dataFlitRx n f) s = .next t ∧ t = { s with links := t.links } ∧ t.link n = { x with nakOut := true, episode := true })) ∧
    (flitsFlow s n = true → f.ackV = false → f.crV = false → exec (.idleFlitRx n f) s = .next s) ∧
    (flitsFlow s n = true → f.ackV = true → f.nak = false → f.crV = false → seqBefore f.ack.toNat x.nextSeq = true →
      ∃ t, exec (.idleFlitRx n f) s = .next t ∧ t = { s with links := t.links } ∧
        t.link n = { x with buf := x.buf.filter fun g => seqBefore f.ack.toNat g.seq }) ∧
    (∀ e, flitsFlow s n = true → 15 < e → exec (.corruptFlitRx n e) s = .next (flitBad (s.count PORT_ERR_CNT.CW_UNCORR n) n)) ∧
    (∀ e, flitsFlow s n = true → 0 < e → e ≤ 15 → exec (.corruptFlitRx n e) s =
      .next (flitBad ((s.count PORT_ERR_CNT.FLIT_BAD n).count PORT_ERR_CNT.CW_CORR n) n)) ∧
    (flitsFlow s n = true → exec (.corruptFlitRx n 0) s = .next (flitBad (s.count PORT_ERR_CNT.FLIT_BAD n) n)) ∧
    (∀ e, flitsFlow s n = false → exec (.dataFlitRx n f) s = .next s ∧ exec (.idleFlitRx n f) s = .next s ∧
      exec (.corruptFlitRx n e) s = .next s ∧ exec (.nakRepeatExpiry n) s = .next s) ∧
    (x.buf = [] → exec (.replayTimerExpiry n) s = .next s) ∧
    (∀ g l, x.buf = g :: l → flitsFlow s n = true → exec (.replayTimerExpiry n) s = .next (replay s n g.seq)) ∧
    (x.nakOut = true → flitsFlow s n = true → exec (.nakRepeatExpiry n) s =
      .next ((s.count PORT_LINK_CNT.NAKS n).emit (.link n 0x31 [x.expSeq])))

/-- PORT_TRAIN, TRAIN_TMO_EXPIRY, TRAINING_BLOCK_RX, RING_LOCK_TMO_EXPIRY, RATE_FALLBACK_TMO_EXPIRY, FEC_LOCK_GAINED,
FEC_LOCK_LOST, CAPS, LEN_PROBE, LEN_ECHO, CREDIT_ADV, CONTROL_FLIT_REPEAT_TICK and PORT_RETRY_TIMER. `ctlHead` is the
part that every flit carries (10 R380, R395, R399). -/
def Obligations.TrainingSteps : Prop :=
  ∀ (s : State) (n : Port) (x : LinkX), x = s.link n →
    (s.rd PORT_STATUS.STATE n = 0 → s.on PORT_CTL.ENABLE n = true →
      (s.rd PORT_STATUS.STRIKES n = 0 → exec (.portTrain n) s = .next (trainBegin s n (s.rd PORT_CTL.PRESET n) true 0)) ∧
      (s.rd PORT_STATUS.STRIKES n = 1 → exec (.portTrain n) s = .next (trainBegin s n (s.rd PORT_CTL.ALT_PRESET n) true 0)) ∧
      (2 ≤ s.rd PORT_STATUS.STRIKES n → exec (.portTrain n) s =
        .next (evPf0 (s.wr PORT_STATUS.STATE 7 n) 0x0807 n (s.rd PORT_STATUS.STRIKES n) 0))) ∧
    (s.rd PORT_STATUS.STATE n ≠ 0 → exec (.portTrain n) s = .next s) ∧
    (s.rd PORT_STATUS.STATE n = 1 ∨ s.rd PORT_STATUS.STATE n = 3 → exec (.trainTmoExpiry n) s = .next (portDown s n 2)) ∧
    (s.rd PORT_STATUS.STATE n = 2 → exec (.trainTmoExpiry n) s = .next s) ∧
    (∀ (lane : Fin 9) (mask : BitVec 9), (x.phase = 1 ∨ x.phase = 2) → x.rxBad.testBit lane = false → ∀ y,
      y = { x with phase := 2, rxOk := x.rxOk ||| 2 ^ lane.val, partnerOk := mask.toNat } →
      exec (.trainingBlockRx n lane mask) s = .next ((s.setLink n y).emit (.link n 0x20 [x.preset, x.rxOk ||| 2 ^ lane.val]))) ∧
    (∀ (lane : Fin 9) (rx : Bool), x.phase = 1 → exec (.ringLockTmoExpiry n lane rx) s = .next (laneOut s n lane rx)) ∧
    (x.phase = 1 → x.rxOk = 0 → s.rd PORT_STATUS.RATE n = 0 → exec (.rateFallbackTmoExpiry n) s = .next (s.wr PORT_STATUS.RATE 1 n)) ∧
    (x.phase ≠ 2 → x.phase ≠ 12 → exec (.fecLockGained n) s = .next s) ∧
    (∀ w tx t, x.phase = 2 → tx = x.partnerOk &&& (511 - (x.txBad &&& 511)) → widthCode (min (popc 9 tx) (popc 9 x.rxOk)) = some w →
      s.rd PORT_CTL.MIN_WIDTH n ≤ w → t = setMaps s n w (mapOf tx (2 ^ w)) (mapOf x.rxOk (2 ^ w)) →
      exec (.fecLockGained n) s = .next (ctlAsk (t.setLink n { t.link n with phase := 4 }) n 1 (capsArgs t))) ∧
    (s.rd PORT_STATUS.STATE n = 2 → exec (.fecLockLost n) s = .next (retrainBegin s n 5)) ∧
    (∀ (m : CtlMsg) (u : State) (z : LinkX), u = ctlHead s n m → z = u.link n →
      (flitsFlow s n = false → u = s) ∧
      (z.phase ≠ 4 → exec (.caps n m) s = .next u) ∧
      (z.phase = 4 → fld (ctlW m 0) 0 15 = nodeId u → ∃ t, t.links = u.links ∧ sameMem u t ∧ exec (.caps n m) s = .next (trainRefuse t n 1)) ∧
      (z.phase = 4 → fld (ctlW m 0) 0 15 ≠ nodeId u → fld (ctlW m 0) 20 1 = 1 → fld (ctlW m 1) 0 16 ≠ 0 → fld (ctlW m 1) 16 16 ≠ 0 →
        ∃ t, t.links = u.links ∧ sameMem u t ∧ exec (.caps n m) s = .next ((List.range 8).foldl (fun t k => ctlOut t n 2 [k])
          (t.setLink n { answered z 1 with phase := 5, probes := [] }))) ∧
      (z.phase = 4 ∨ z.phase = 5 ∨ z.phase = 6 → exec (.lenProbe n m) s = .next (u.emit (.link n 3 [fld (ctlW m 0) 0 32, 0]))) ∧
      (∀ rtt k y, z.phase = 5 → k = fld (ctlW m 0) 0 32 → k < 8 → kget k z.probes = none →
        y = { z with probes := kput k (rtt - fld (ctlW m 1) 0 32 + (280 + u.rd PORT_PARTNER.TURN n) * 1000) z.probes } →
        (z.probes.length + 1 = 8 → exec (.lenEcho n m rtt) s = .next (fibreMeasured (u.setLink n y) n)) ∧
        (z.probes.length + 1 ≠ 8 → exec (.lenEcho n m rtt) s = .next (u.setLink n y))) ∧
      (z.phase = 6 → exec (.creditAdv n m) s = .next (trainDone u n (m.words.map (·.toNat)))) ∧
      (z.phase = 5 → exec (.creditAdv n m) s = .next (u.setLink n { z with early := m.words }))) ∧
    (∀ c args, x.phase ≠ 5 → x.ask = some (c, args) → exec (.controlFlitRepeatTick n) s = .next (s.emit (.link n c args))) ∧
    (s.rd PORT_STATUS.STATE n = 5 → s.rd PORT_STATUS.DOWN_CAUSE n ≠ 5 →
      (x.tries = 0 ∨ x.tries = 2 → exec (.portRetryTimer n) s = .next (trainBegin s n (s.rd PORT_CTL.PRESET n) false (x.tries + 1))) ∧
      (x.tries = 1 → exec (.portRetryTimer n) s = .next (trainBegin s n (s.rd PORT_CTL.ALT_PRESET n) false 2)) ∧
      (3 ≤ x.tries → exec (.portRetryTimer n) s = .next s)) ∧
    (s.rd PORT_STATUS.STATE n = 5 → s.rd PORT_STATUS.DOWN_CAUSE n = 5 → exec (.portRetryTimer n) s = .next s)

/-- RETRAIN_REQ, RESYNC, HANDOFF_START, LANE_ANS, HANDOFF_COUNTDOWN_END, HANDOFF_ANSWER_TMO, NINTH_LANE_CAL_DONE,
LANE_FAILURE and LASER_POLL. `ctlHead` is the part that every flit carries (10 R380, R395, R399); `handoffLane` is the
lane of 10 R389, of which which lane is noisiest is a free value (log entry 43). -/
def Obligations.RetrainsAndHandoffs : Prop :=
  ∀ (s : State) (n : Port) (x : LinkX), x = s.link n →
    (∀ (m : CtlMsg) (u : State) (z : LinkX), u = ctlHead s n m → z = u.link n →
      (z.phase = 11 → exec (.retrainReq n m) s = .next (u.setLink n { z with phase := 12 })) ∧
      (z.phase ≠ 11 → u.rd PORT_STATUS.STATE n = 2 → exec (.retrainReq n m) s = .next (retrainBegin u n 4)) ∧
      (z.phase = 13 → exec (.resync n m) s = .next (retrainDone u n (m.words.map (·.toNat)))) ∧
      (z.phase = 11 ∨ z.phase = 12 → exec (.resync n m) s = .next (u.setLink n { z with early := m.words })) ∧
      (z.handoff = none → exec (.laneAns n m) s = .next u) ∧
      (∀ l p sp, z.handoff = some (l, p, sp) → fld (ctlW m 0) 0 4 = l → (ctlW m 0).testBit 4 = false →
        exec (.laneAns n m) s = .next (countAbort (u.setLink n { z with handoff := none }) n sp false)) ∧
      (∀ l p sp t v, z.handoff = some (l, p, sp) → fld (ctlW m 0) 0 4 = l → (ctlW m 0).testBit 4 = true →
        t = u.setLink n { z with handoff := none, cal := z.cal.filter (· != p) ++ [sp], txAborts := (0, 15) } →
        v = (t.wr PORT_LANE_MAP.TX_MAP (setFld (t.rd PORT_LANE_MAP.TX_MAP n) (4 * l) 4 sp) n).wr PORT_LANE_STAT.TX_SPARE p n →
        exec (.laneAns n m) s = .next ((v.wr PORT_STATUS.TX_SPARE_OK 0 n).count PORT_LANE_STAT.ROTATIONS n))) ∧
    (∀ p ps q l sp, s.rd PORT_LINK_CFG.ROT_PERIOD n ≠ 0 → s.on PORT_STATUS.TX_SPARE_OK n = true → s.rd PORT_STATUS.STATE n = 2 →
      sp = s.rd PORT_LANE_STAT.TX_SPARE n → sp ≠ 0xF → x.handoff = none → x.cal = p :: ps → q = handoffLane s n p →
      (List.range (2 ^ s.rd PORT_STATUS.WIDTH n)).find? (fun l => fld (s.rd PORT_LANE_MAP.TX_MAP n) (4 * l) 4 == q) = some l →
      exec (.handoffStart n) s = .next ((s.tickFresh.setLink n { x with handoff := some (l, q, sp), lrc := q == p }).emit
        (.link n 0x32 [l, q, sp, max 8 (s.rd PORT_LINK_CFG.HANDOFF_CW n)])) ∧ (x.lrc = false → q = p)) ∧
    (s.rd PORT_LINK_CFG.ROT_PERIOD n = 0 → exec (.handoffStart n) s = .next s) ∧
    (x.handoff = none → exec (.handoffAnswerTmo n) s = .next s) ∧
    (x.handoff.isSome = true → s.rd PORT_STATUS.STATE n = 2 → exec (.handoffAnswerTmo n) s = .next (retrainBegin s n 5)) ∧
    (∀ (l : Fin 8), s.rd PORT_STATUS.STATE n = 2 → s.rd PORT_LANE_STAT.RX_SPARE n ≠ 0xF → l.val < 2 ^ s.rd PORT_STATUS.WIDTH n →
      exec (.handoffCountdownEnd n l false) s =
        .next ((countAbort s n (s.rd PORT_LANE_STAT.RX_SPARE n) true).emit (.link n 7 [l.val])) ∧
      ∃ t, exec (.handoffCountdownEnd n l true) s = .next (t.emit (.link n 7 [l.val + 16])) ∧ sameMem s t ∧
        (ksorted s.links = true → (t.link n).rxAborts = (0, 15))) ∧
    (s.rd PORT_LANE_STAT.TX_SPARE n = 0xF → s.rd PORT_LANE_STAT.RX_SPARE n = 0xF → exec (.ninthLaneCalDone n) s = .next s) ∧
    (ksorted s.regs = true → s.rd PORT_LANE_STAT.TX_SPARE n ≠ 0xF → s.rd PORT_LANE_STAT.RX_SPARE n ≠ 0xF → ∃ t,
      exec (.ninthLaneCalDone n) s = .next t ∧ t.rd PORT_STATUS.TX_SPARE_OK n = 1 ∧ t.rd PORT_STATUS.RX_SPARE_OK n = 1 ∧
        t.rd PORT_STATUS.STATE n = s.rd PORT_STATUS.STATE n ∧ onlyRegs s t [PORT_STATUS.reg.addr n 0 0]) ∧
    (∀ (rx : Bool) (lane : Fin 9),
      (s.rd PORT_STATUS.STATE n = 2 → exec (.laneFailure n rx lane) s = .next (laneFail s n lane rx)) ∧
      (s.rd PORT_STATUS.STATE n = 1 → exec (.laneFailure n rx lane) s = .next (laneOut s n lane rx)) ∧
      (s.rd PORT_STATUS.STATE n = 5 → exec (.laneFailure n rx lane) s = .next s)) ∧
    (∀ rs, exec (.laserPoll n rs) s = .next (laserPoll s n rs))

/-- LPI_REQ, LPI_ACK, LPI_IDLE_EXPIRY, LPI_WAKE, LPI_ANSWER_TMO_EXPIRY, ERROR_WINDOW_END, AUDIT and AUDIT_SEND_TICK.
`ctlHead` is the part that every flit carries (10 R380, R395, R399). -/
def Obligations.LowPowerAuditsAndWindows : Prop :=
  ∀ (s : State) (n : Port) (x : LinkX), ksorted s.regs = true → ksorted s.links = true → x = s.link n →
    (lpiReady s n = true → ∃ t, exec (.lpiIdleExpiry n) s = .next t ∧ (t.link n).lpiReq = true ∧ (t.link n).ask = some (9, []) ∧
      t.regs = s.regs ∧ sameMem s t) ∧
    (lpiReady s n = false → exec (.lpiIdleExpiry n) s = .next s) ∧
    (∀ (m : CtlMsg) (u : State) (z : LinkX), u = ctlHead s n m → z = u.link n → ksorted u.regs = true → ksorted u.links = true →
      (z.lpiReq = true → ∃ t, exec (.lpiReq n m) s = .next t ∧ t.rd PORT_STATUS.STATE n = 4 ∧ (t.link n).lpiReq = false ∧
        sameMem u t ∧ regsKept u t [PORT_STATUS.reg.addr n 0 0]) ∧
      (z.lpiReq = false → lpiReady u n = true → ∃ t, exec (.lpiReq n m) s = .next t ∧ t.rd PORT_STATUS.STATE n = 4 ∧
        t.out = .link n 10 [] :: u.out ∧ sameMem u t ∧ regsKept u t [PORT_STATUS.reg.addr n 0 0]) ∧
      (z.lpiReq = false → lpiReady u n = false → exec (.lpiReq n m) s = .next u) ∧
      (z.lpiReq = true → u.rd PORT_STATUS.STATE n = 2 → ∃ t, exec (.lpiAck n m) s = .next t ∧ t.rd PORT_STATUS.STATE n = 4 ∧
        sameMem u t ∧ regsKept u t [PORT_STATUS.reg.addr n 0 0]) ∧
      (z.lpiReq = false → exec (.lpiAck n m) s = .next u) ∧
      (u.rd PORT_STATUS.STATE n = 2 ∨ u.rd PORT_STATUS.STATE n = 4 →
        exec (.audit n m) s = .next ((List.range 8).foldl (fun t tc => auditClass t n m tc) u)) ∧
      (u.rd PORT_STATUS.STATE n = 5 → exec (.audit n m) s = .next u)) ∧
    (∀ (m : CtlMsg) (tc : Fin 8) (h d : Nat) (v : State), shortfall x tc (fld (ctlW m 0) 0 16) (ctlW m (tc + 1)) = (h, d) →
      v = (s.wr PORT_CREDIT_AUDIT.HDR_SHORT (max h (s.rd PORT_CREDIT_AUDIT.HDR_SHORT n tc)) n tc).wr
        PORT_CREDIT_AUDIT.DATA_SHORT (max d (s.rd PORT_CREDIT_AUDIT.DATA_SHORT n tc)) n tc →
      v.rd PORT_CREDIT_AUDIT.HDR_SHORT n tc = max h (s.rd PORT_CREDIT_AUDIT.HDR_SHORT n tc) ∧
      v.rd PORT_CREDIT_AUDIT.DATA_SHORT n tc = max d (s.rd PORT_CREDIT_AUDIT.DATA_SHORT n tc) ∧
      onlyRegs s v [PORT_CREDIT_AUDIT.reg.addr n tc 0] ∧
      (h = 0 → d = 0 → auditClass s n m tc = s) ∧
      (h ≠ 0 ∨ d ≠ 0 → x.short = true → auditClass s n m tc = v) ∧
      (h ≠ 0 ∨ d ≠ 0 → x.short = false →
        auditClass s n m tc = evPf0 (v.setLink n { x with short := true }) 0x0809 n tc (h % 2 ^ 16 + d % 2 ^ 16 * 2 ^ 16))) ∧
    (s.rd PORT_STATUS.STATE n = 4 → ∃ t, exec (.lpiWake n) s = .next t ∧ t.rd PORT_STATUS.STATE n = 2 ∧
      onlyRegs s t [PORT_STATUS.reg.addr n 0 0]) ∧
    (s.rd PORT_STATUS.STATE n ≠ 4 → exec (.lpiWake n) s = .next s) ∧
    (∃ t, exec (.lpiAnswerTmoExpiry n) s = .next t ∧ t = { s with links := t.links } ∧ (t.link n).lpiReq = false) ∧
    (∃ t, exec (.errorWindowEnd n) s = .next t ∧ t.rd PORT_STATUS.WIN_COUNT n = 0 ∧
      t.rd PORT_STATUS.STATE n = s.rd PORT_STATUS.STATE n ∧ onlyRegs s t [PORT_STATUS.reg.addr n 0 0]) ∧
    (s.rd PORT_STATUS.STATE n = 5 → exec (.auditSendTick n) s = .next s) ∧
    (s.rd PORT_STATUS.STATE n = 2 → ∃ args, exec (.auditSendTick n) s = .next (s.emit (.link n 8 args)) ∧ args.length = 9 ∧
      args.head? = some ((x.expSeq + 65535) % 65536))

/-- PORT_ENABLE, PORT_DISABLE, PORT_REARM and PORT_RETRAIN are host writes of PORT_CTL. In each, `t` is the state with the
fields written by their access codes. -/
def Obligations.PortControlWrites : Prop :=
  ∀ (s t : State) (n : Port) (v : Word), ksorted s.regs = true → pf0Open s = true → t = plainWrite s PORT_CTL.reg n 0 0 v.toNat →
    t.rd PORT_CTL.ENABLE n = wrote PORT_CTL.ENABLE v.toNat ∧ t.rd PORT_CTL.PRESET n = wrote PORT_CTL.PRESET v.toNat ∧
    onlyRegs s t [PORT_CTL.reg.addr n 0 0] ∧
    (s.on PORT_CTL.ENABLE n = false → wrote PORT_CTL.ENABLE v.toNat = 1 → wrote PORT_CTL.REARM v.toNat = 0 →
      wrote PORT_CTL.RETRAIN v.toNat = 0 → exec (.portEnable n v) s = .next (trainBegin t n (t.rd PORT_CTL.PRESET n) false 0)) ∧
    (s.on PORT_CTL.ENABLE n = true → wrote PORT_CTL.ENABLE v.toNat = 0 → wrote PORT_CTL.REARM v.toNat = 0 →
      wrote PORT_CTL.RETRAIN v.toNat = 0 → s.rd PORT_STATUS.STATE n = 2 → exec (.portDisable n v) s = .next (portDown t n 5)) ∧
    (s.on PORT_CTL.ENABLE n = true → wrote PORT_CTL.ENABLE v.toNat = 1 → wrote PORT_CTL.REARM v.toNat = 1 →
      wrote PORT_CTL.RETRAIN v.toNat = 0 → exec (.portRearm n v) s =
      .next (trainBegin (t.wr PORT_STATUS.STRIKES 0 n) n (t.rd PORT_CTL.PRESET n) false 0)) ∧
    (s.on PORT_CTL.ENABLE n = true → wrote PORT_CTL.ENABLE v.toNat = 1 → wrote PORT_CTL.REARM v.toNat = 0 →
      wrote PORT_CTL.RETRAIN v.toNat = 1 → s.rd PORT_STATUS.STATE n = 2 → exec (.portRetrain n v) s = .next (retrainBegin t n 3)) ∧
    (s.on PORT_CTL.ENABLE n = true → wrote PORT_CTL.ENABLE v.toNat = 1 → wrote PORT_CTL.REARM v.toNat = 0 →
      wrote PORT_CTL.RETRAIN v.toNat = 0 → exec (.portEnable n v) s = .next t ∧ exec (.portRetrain n v) s = .next t)

/-- EGRESS_PACKET_START, GATE_ENTRY_ADVANCE, QOS_GATE_COMMIT, GATE_TAKEOVER_AT, GB_HOLD_EXPIRY, HIST_SAMPLE_TICK,
QOS_PORT_HIST_CLEAR and QOS_CH_HIST_CLEAR. -/
def Obligations.EgressAndGates : Prop :=
  ∀ (s : State) (n : Port) (c : Chan) (v : Word), ksorted s.regs = true →
    (s.rd PORT_STATUS.STATE n = 5 → exec (.egressPacketStart n) s = .next s) ∧
    (s.rd PORT_STATUS.STATE n = 2 → pickPacket (shaperSync s n) n = none → exec (.egressPacketStart n) s = .next (shaperSync s n)) ∧
    (∀ t e fl cl u, s.rd PORT_STATUS.STATE n = 2 → t = shaperSync s n → pickPacket t n = some (e, fl, cl) →
      (t.link n).buf.length + flitsOf e.pkt ≤ 8192 → guardJudge t n e ≠ .overrun →
      u = linkSend (settle (portDelay (wakeLpi t n) n e) n e fl cl) n e → u.rd PORT_PARTNER.GEN n ≠ 0 →
      exec (.egressPacketStart n) s = .next ((countOld u).emit (.packet n e.pkt))) ∧
    (gateLen s n (s.rd QOS_GATE_CTL.CUR n) = 0 → exec (.gateEntryAdvance n) s = .next s) ∧
    (gateLen s n (s.rd QOS_GATE_CTL.CUR n) ≠ 0 → ∃ t, exec (.gateEntryAdvance n) s = .next t ∧
      (ksorted s.ports = true → (t.portQ n).gateEnt = (((shaperSync s n).portQ n).gateEnt + 1) % gateLen s n (s.rd QOS_GATE_CTL.CUR n)) ∧
      t.regs = s.regs ∧ sameMem s t) ∧
    (pf0Open s = true → wrote QOS_GATE_CTL.COMMIT v.toNat = 1 →
      (s.on QOS_GATE_CTL.PENDING n = true ∨ s.rd QOS_GATE_AT.AT n < s.now + 10000 → ∃ t, exec (.qosGateCommit n v) s = .next t ∧
        t.rd QOS_GATE_CTL.COMMIT_ERR n = 1 ∧ t.rd QOS_GATE_CTL.PENDING n = s.rd QOS_GATE_CTL.PENDING n ∧
        onlyRegs s t [QOS_GATE_CTL.reg.addr n 0 0]) ∧
      (s.on QOS_GATE_CTL.PENDING n = false → s.now + 10000 ≤ s.rd QOS_GATE_AT.AT n → ∃ t, exec (.qosGateCommit n v) s = .next t ∧
        t.rd QOS_GATE_CTL.COMMIT_ERR n = 0 ∧ t.rd QOS_GATE_CTL.PENDING n = 1 ∧ t.rd QOS_GATE_CTL.CUR n = s.rd QOS_GATE_CTL.CUR n ∧
        onlyRegs s t [QOS_GATE_CTL.reg.addr n 0 0])) ∧
    (s.on QOS_GATE_CTL.PENDING n = false → exec (.gateTakeoverAt n) s = .next s) ∧
    (s.on QOS_GATE_CTL.PENDING n = true → ∃ t, exec (.gateTakeoverAt n) s =
        .next (evPf0 t 0x0A02 n (s.rd QOS_GATE_AT.AT n) (1 - s.rd QOS_GATE_CTL.CUR n)) ∧
      t.now = max s.now (s.rd QOS_GATE_AT.AT n) ∧
      t.rd QOS_GATE_CTL.CUR n = (1 - s.rd QOS_GATE_CTL.CUR n) % 2 ∧ t.rd QOS_GATE_CTL.PENDING n = 0 ∧
      (ksorted s.ports = true → (t.portQ n).gateEnt = 0 ∧ (t.portQ n).gateAt = s.rd QOS_GATE_AT.AT n) ∧ sameMem s t) ∧
    (∀ a b q, s.portQ n = q → q.gbTrain = some a → q.gbStep = some b → a < b →
      exec (.gbHoldExpiry n) s = .next (guardUpdate (s.setPortQ n { q with gbTrain := none }) n)) ∧
    (∀ (m : Fin 32), s.on QOS_PORT_HSEL.FREEZE m = true → exec (.histSampleTick true m) s = .next s) ∧
    (∀ (m : Fin 32), s.on QOS_CH_HSEL.FREEZE m = true → exec (.histSampleTick false m) s = .next s) ∧
    (∀ (m : Fin 32) b, s.on QOS_PORT_HSEL.FREEZE m = false → b = depthBin (classDepth (s.portQ m) (s.rd QOS_PORT_HSEL.TC m)) →
      ∃ t, exec (.histSampleTick true m) s = .next t ∧
        t.rd QOS_PORT_HIST.DEPTH m b = min (s.rd QOS_PORT_HIST.DEPTH m b + 1) (2 ^ QOS_PORT_HIST.DEPTH.w - 1) ∧
        regsKept s t [QOS_PORT_HIST.reg.addr m b 0]) ∧
    (pf0Open s = true → wrote QOS_PORT_HSEL.CLEAR v.toNat = 1 → ∃ t, exec (.qosPortHistClear n v) s = .next t ∧
      (∀ b, b < 16 → t.rd QOS_PORT_HIST.DEPTH n b = 0 ∧ t.rd QOS_PORT_HIST.DELAY n b = 0) ∧
      regsKept s t (QOS_PORT_HSEL.reg.addr n 0 0 :: (List.range 16).map (QOS_PORT_HIST.reg.addr n · 0)) ∧ sameMem s t) ∧
    (pf0Open s = true → wrote QOS_CH_HSEL.CLEAR v.toNat = 1 → ∃ t, exec (.qosChHistClear c v) s = .next t ∧
      (∀ b, b < 16 → t.rd QOS_CH_HIST.DEPTH c b = 0 ∧ t.rd QOS_CH_HIST.DELAY c b = 0) ∧
      regsKept s t (QOS_CH_HSEL.reg.addr c 0 0 :: (List.range 16).map (QOS_CH_HIST.reg.addr c · 0)) ∧ sameMem s t)

/-- DRAM_SLOT_GRANT, ADAPT_TICK and QOS_REG_WRITE. `minCredit` and `maxCredit` are a partition's two credits once the slot
has raised them (12 R472). -/
def Obligations.RegulatorsGrantAndAdapt : Prop :=
  ∀ (s : State) (c : Chan) (o : Fin 17) (v : Word) (x : ChanX), ksorted s.regs = true → ksorted s.chans = true → x = s.chanX c →
    (chanServes s c = false → exec (.dramSlotGrant c) s = .next s) ∧
    (chanServes s c = true → x.slotQ = [] → exec (.dramSlotGrant c) s = .next (slotPaid s c none none)) ∧
    (∀ p, chanServes s c = true → roundRobin x.reg.rrMin (fun q => hasLine s c q && decide (256 ≤ minCredit s c q)) = some p →
      exec (.dramSlotGrant c) s = .next ((slotThrottled s c (some p) none).foldl (fun t q => countThrottled t c q)
        (grantKind (slotPaid s c (some p) none) c p))) ∧
    (chanServes s c = true → roundRobin x.reg.rrMin (fun q => hasLine s c q && decide (256 ≤ minCredit s c q)) = none →
      (∀ p, roundRobin x.reg.rrMax (fun q => hasLine s c q && decide (256 ≤ maxCredit s c q)) = some p →
        exec (.dramSlotGrant c) s = .next ((slotThrottled s c none (some p)).foldl (fun t q => countThrottled t c q)
          (grantKind (slotPaid s c none (some p)) c p))) ∧
      (roundRobin x.reg.rrMax (fun q => hasLine s c q && decide (256 ≤ maxCredit s c q)) = none →
        exec (.dramSlotGrant c) s = .next ((slotThrottled s c none none).foldl (fun t q => countThrottled t c q) (slotPaid s c none none)))) ∧
    (∀ (g1 g2 : Option Nat) (t : State), t = slotPaid s c g1 g2 → t = { s with chans := t.chans } ∧ (t.chanX c).slotQ = x.slotQ ∧
      (t.chanX c).reg.avail = x.reg.avail + 1 ∧ ∀ q, q < 17 →
        kgetD 0 q (t.chanX c).reg.cmin = (if g1 = some q then minCredit s c q - 256 else minCredit s c q) ∧
        kgetD 0 q (t.chanX c).reg.cmax = if g1 = some q ∨ g2 = some q then maxCredit s c q - 256 else maxCredit s c q) ∧
    (∀ p k d e, drr 4 (fun k => if x.slotQ.any (fun e => e.cp == p && e.kind == k) then some 1 else none)
        (fun k => atLeast1 (fld (s.rdReg QOS_KIND_Q.reg 0 0 0) (8 * k) 8)) 8 (kgetD 3 p x.reg.lastKind)
        (x.reg.kindDef.filterMap fun e => if e.1 / 4 = p then some (e.1 % 4, e.2) else none) = some (k, d) →
      (x.slotQ.find? fun e => e.cp == p && e.kind == k) = some e →
      ((grantKind s c p).chanX c).slotQ = (if e.n ≤ 1 then x.slotQ.erase e else x.slotQ.replace e { e with n := e.n - 1 }) ∧
      sameMem s (grantKind s c p)) ∧
    (∀ ps, ps = (List.range 17).filter (fun p => s.on QOS_REG.ADAPT p) →
      exec .adaptTick s = .next (adaptCounts (ps.foldl (adaptUp s) (ps.foldl (adaptDown s) s)))) ∧
    (∀ (t : State) (p : Nat), p < 17 →
      (adaptIdle s p = true → share9 t QOS_REG.MIN p < t.rd QOS_REG.EFF_MIN p →
        adaptDown s t p = adaptTo t p (max (share9 t QOS_REG.MIN p) (t.rd QOS_REG.EFF_MIN p - 8))) ∧
      (adaptIdle s p = false ∨ t.rd QOS_REG.EFF_MIN p ≤ share9 t QOS_REG.MIN p → adaptDown s t p = t) ∧
      (∀ top, top = max (share9 t QOS_REG.MIN_CEIL p) (share9 t QOS_REG.MIN p) → adaptHungry s p = true → t.rd QOS_REG.EFF_MIN p < top →
        adaptUp s t p = adaptTo t p (t.rd QOS_REG.EFF_MIN p +
          min (min 8 (top - t.rd QOS_REG.EFF_MIN p)) (256 - (List.range 17).foldl (fun a q => a + t.rd QOS_REG.EFF_MIN q) 0))) ∧
      (adaptHungry s p = false → adaptUp s t p = t)) ∧
    ((∀ p, p < 17 → s.on QOS_REG.ADAPT p = false) → exec .adaptTick s = .next (adaptCounts s)) ∧
    (256 < minSum s o (wrote QOS_REG.MIN v.toNat) → exec (.qosRegWrite o v) s = .fault (.hostError 474)) ∧
    (pf0Open s = true → minSum s o (wrote QOS_REG.MIN v.toNat) ≤ 256 → ∃ u, exec (.qosRegWrite o v) s = .next (cutCredits u) ∧
      u.rd QOS_REG.MIN o = wrote QOS_REG.MIN v.toNat ∧ u.rd QOS_REG.EFF_MIN o = min 256 (wrote QOS_REG.MIN v.toNat) ∧
      u.rd QOS_REG.MAX o = wrote QOS_REG.MAX v.toNat ∧ u.rd QOS_REG.ADAPT o = wrote QOS_REG.ADAPT v.toNat ∧
      onlyRegs s u [QOS_REG.reg.addr o 0 0]) ∧
    (cutCredits s = { s with chans := (cutCredits s).chans } ∧ ∀ e ∈ (cutCredits s).chans,
      (∀ y ∈ e.2.reg.cmin, y.2 ≤ burstCap s) ∧ ∀ y ∈ e.2.reg.cmax, y.2 ≤ (burstCap s : Int))

/-- DRAM_TRAIN, DRAM_TRAINING_DONE, DRAM_TRAIN_TMO_EXPIRY, DRAM_RETRAIN_TMO_EXPIRY and COMMAND_ADDRESS_PARITY_FAIL. -/
def Obligations.ChannelsTrainAndRetrain : Prop :=
  ∀ (s : State) (c : Chan) (x : ChanX), x = s.chanX c →
    (∀ d t, s.on DDR_CTL.ENABLE c = true → s.rd DDR_CTL.STATE c ≤ 1 → x.dead = false → wardOut s (c.val / 8) = false →
      t = putSpd (s.setChanX c { x with dimms := some d, rows := [] }) c d.spd →
      (d.n = 0 → exec (.dramTrain c d) s = .next (t.wr DDR_CTL.STATE 0 c)) ∧
      (d.n ≠ 0 → dimmsOk d = false → exec (.dramTrain c d) s = .next (chanLose t c 2)) ∧
      (d.n ≠ 0 → dimmsOk d = true → exec (.dramTrain c d) s = .next (measZero (t.wr DDR_CTL.STATE 1 c) c))) ∧
    (∀ d, s.on DDR_CTL.ENABLE c = false → exec (.dramTrain c d) s = .next s) ∧
    (∀ d, s.rd DDR_CTL.STATE c = 1 → x.dimms = some d → exec (.dramTrainingDone c false) s = .next (chanLose s c 8)) ∧
    (∀ d, s.rd DDR_CTL.STATE c = 1 → x.dimms = some d → x.rearm = false → ∃ t, exec (.dramTrainingDone c true) s =
        .next (wakeChan (restChan (floorSync (evPf0 t 0x0B01 c (trainRate s c d + t.rd DDR_CTL.STEPDOWN c * 2 ^ 8) d.capG)) c) c) ∧
      (ksorted s.regs = true → t.rd DDR_CTL.STATE c = 2 ∧ t.rd DDR_CTL.RATE c = trainRate s c d % 2 ^ DDR_CTL.RATE.w ∧
        t.rd DDR_CTL.CAP_G c = d.capG % 2 ^ DDR_CTL.CAP_G.w ∧ t.rd DDR_CTL.LOSS_CAUSE c = 0)) ∧
    (s.rd DDR_CTL.STATE c = 3 → x.holdDue = false → ∃ t, ∀ ok, exec (.dramTrainingDone c ok) s =
        .next (wakeChan (evPf0 t 0x0B08 c x.retrain ((s.now - x.retrainAt) / 1000)) c) ∧
      (ksorted s.regs = true → t.rd DDR_CTL.STATE c = 2)) ∧
    (∀ d, s.rd DDR_CTL.STATE c = 1 → x.dimms = some d → x.rearm = false →
      s.rd DDR_CTL.STEPDOWN c < ((ratesOf d.kind).filter fun r => decide (r ≤ d.rate)).length - 1 →
      exec (.dramTrainTmoExpiry c) s = .next (chanLose (s.count DDR_CTL.STEPDOWN c) c 1)) ∧
    (s.rd DDR_CTL.STATE c ≠ 1 → exec (.dramTrainTmoExpiry c) s = .next s) ∧
    (s.rd DDR_CTL.STATE c = 3 → exec (.dramRetrainTmoExpiry c) s = .next (chanLose s c 1)) ∧
    (s.rd DDR_CTL.STATE c ≠ 3 → exec (.dramRetrainTmoExpiry c) s = .next s) ∧
    (∀ k, k < 3 → exec (.commandAddressParityFail c k) s = .next s) ∧
    (∀ k, 3 ≤ k → s.rd DDR_CTL.STATE c = 2 → x.parity = 0 → exec (.commandAddressParityFail c k) s = .next (retrainChan s c 2)) ∧
    (∀ k, 3 ≤ k → s.rd DDR_CTL.STATE c = 2 → x.parity ≠ 0 → exec (.commandAddressParityFail c k) s = .next (chanLose s c 4))

/-- QUIET_WINDOW_DUE, QUIET_WINDOW_END, REFRESH_STOP, DRAM_TEMP_POLL, SCRUB_SLOT, LAP_MAX_EXPIRY and DRAM_CE_WINDOW_END. -/
def Obligations.WindowsRefreshAndScrub : Prop :=
  ∀ (s : State) (c : Chan) (x : ChanX), ksorted s.regs = true → ksorted s.chans = true → x = s.chanX c →
    (s.rd DDR_CTL.STATE c = 2 → x.inWin = false → (s.chanX (sister c)).inWin = false → ∃ t, exec (.quietWindowDue c) s = .next t ∧
      t.chanX c = { x with inWin := true, winDue := false, winAt := s.now, rows := [] } ∧
      t.rd DDR_LOAD2.QWINDOWS c = min (s.rd DDR_LOAD2.QWINDOWS c + 1) (2 ^ DDR_LOAD2.QWINDOWS.w - 1) ∧
      regsKept s t [DDR_LOAD2.reg.addr c 0 0] ∧ sameMem s t) ∧
    (s.rd DDR_CTL.STATE c = 2 → x.inWin = false → (s.chanX (sister c)).inWin = true → exec (.quietWindowDue c) s =
      .next (s.setChanX c { x with winDue := true })) ∧
    (s.rd DDR_CTL.STATE c ≠ 2 → exec (.quietWindowDue c) s = .next s) ∧
    (∀ d, x.inWin = false → exec (.quietWindowEnd c d) s = .next s) ∧
    (∀ t, s.start.step ≠ 8 → x.inWin = true → x.holdDue = false →
      t = stealSlots s c (slotsIn s c (min (s.now - x.winAt) (clampN 500 2000 (s.rd DDR_CFG.QW_MAX c)))) → ∃ u w,
      exec (.quietWindowEnd c false) s = .next (if (w.chanX (sister c)).winDue then windowDue w (sister c) else w) ∧ w = wakeChan u c ∧
      u = { t with chans := u.chans } ∧ (u.chanX c).inWin = false ∧ (u.chanX c).drift = 0 ∧ (u.chanX c).parity = 0) ∧
    (∀ sub, s.rd DDR_CTL.STATE c ≠ 2 ∨ x.inWin = true → exec (.refreshStop c sub) s = .next s) ∧
    (∀ sub, s.rd DDR_CTL.STATE c = 2 → x.inWin = false → ∃ t, exec (.refreshStop c sub) s = .next t ∧
      (t.chanX c).rows = x.rows.filter (fun r => r.1 % 2 != b2n sub) ∧ regsKept s t [QOS_CH_STAT.reg.addr c 0 0] ∧ sameMem s t) ∧
    (∀ hub mr4, s.rd DDR_CTL.STATE c = 6 → exec (.dramTempPoll c hub mr4) s = .next s) ∧
    (∀ (h : Int) (mr4 : Nat), s.rd DDR_CTL.STATE c = 2 → -40 ≤ h → h ≤ 85 → x.temps = [] → mr4 ≤ 1 → s.rd DDR_CFG.REF_FLOOR c = 0 →
      s.rd DDR_THERM.REF_FACTOR c = 0 → h < s.rd DDR_THERM.TEMP_WARN c → x.inWin = false → ∃ t, exec (.dramTempPoll c (some h) mr4) s = .next t ∧
      t.rd DDR_THERM.TEMP c = (h % 256).toNat ∧ t.rd DDR_THERM.REF_FACTOR c = 0 ∧ (t.chanX c).temps = [h] ∧ sameMem s t ∧
      regsKept s t [DDR_THERM.reg.addr c 0 0]) ∧
    (s.on DDR_SCRUB.SCRUB_EN c = false → exec (.scrubSlot c) s = .next s) ∧
    (s.on DDR_SCRUB.SCRUB_EN c = true → chanServes s c = true → x.scrubAt + 1 < chanTotal s c → x.errs = [] → s.poison = [] →
      x.reg.scrubRem < 1023 → ∃ t, exec (.scrubSlot c) s = .next t ∧ (t.chanX c).scrubAt = x.scrubAt + 1 ∧ sameMem s t ∧
      regsKept s t [DDR_SCRUB_STAT.reg.addr c 0 0]) ∧
    (s.rd DDR_SCRUB.LAP_MAX c ≠ 0 → s.on DDR_SCRUB_STAT.SLOW c = false → exec (.lapMaxExpiry c) s = .next (evPf0
      (s.wr DDR_SCRUB_STAT.SLOW 1 c) 0x0B06 c ((s.now - x.lapAt) / 10 ^ 9) (s.rd DDR_SCRUB_STAT.PROGRESS c))) ∧
    (s.on DDR_SCRUB_STAT.SLOW c = true → exec (.lapMaxExpiry c) s = .next s) ∧
    exec (.dramCeWindowEnd c) s = .next (s.setChanX c { x with devCnt := [], ceWin := 0, ceSent := false })

/-- DDR_ENABLE, DDR_DISABLE, DDR_REARM and DDR_MARK_CLR are host writes of DDR_CTL, DDR_CNT_CLR one of its own register.
`t` is the state with the fields written by their access codes. -/
def Obligations.ChannelControlWrites : Prop :=
  ∀ (s t : State) (c : Chan) (v : Word), ksorted s.regs = true → pf0Open s = true → t = plainWrite s DDR_CTL.reg c 0 0 v.toNat →
    (wrote DDR_CTL.REARM v.toNat = 0 → wrote DDR_CTL.MARK_CLR v.toNat = 0 →
      (s.on DDR_CTL.ENABLE c = true → wrote DDR_CTL.ENABLE v.toNat = 0 → s.rd DDR_CTL.STATE c = 2 →
        exec (.ddrDisable c v) s = .next (chanLose t c 6)) ∧
      (s.on DDR_CTL.ENABLE c = false → wrote DDR_CTL.ENABLE v.toNat = 1 → s.rd DDR_CTL.STATE c = 6 →
        exec (.ddrEnable c v) s = .next (measZero (t.wr DDR_CTL.STATE 1 c) c)) ∧
      (s.on DDR_CTL.ENABLE c = true → wrote DDR_CTL.ENABLE v.toNat = 1 → exec (.ddrEnable c v) s = .next t)) ∧
    (s.on DDR_CTL.ENABLE c = true → wrote DDR_CTL.ENABLE v.toNat = 1 → wrote DDR_CTL.REARM v.toNat = 1 → wrote DDR_CTL.MARK_CLR v.toNat = 0 →
      s.rd DDR_CTL.STATE c = 2 → ∃ u, exec (.ddrRearm c v) s = .next u ∧ u.rd DDR_CTL.STEPDOWN c = 0 ∧ u.rd DDR_CTL.STATE c = 2 ∧
      (ksorted s.chans = true → u.chanX c = { s.chanX c with dead := false }) ∧ sameMem s u ∧ regsKept s u [DDR_CTL.reg.addr c 0 0]) ∧
    (s.on DDR_CTL.ENABLE c = true → wrote DDR_CTL.ENABLE v.toNat = 1 → wrote DDR_CTL.REARM v.toNat = 0 → wrote DDR_CTL.MARK_CLR v.toNat = 1 →
      ∃ u, exec (.ddrMarkClr c v) s = .next u ∧ u.rd DDR_MARK.MARK c = 0xFFFFFFFF ∧
      onlyRegs s u [DDR_CTL.reg.addr c 0 0, DDR_MARK.reg.addr c 0 0]) ∧
    (wrote DDR_CNT_CLR.CLEAR v.toNat = 1 → ∃ u, exec (.ddrCntClr c v) s = .next u ∧ u.rdReg DDR_ECC_CNT.reg c 0 0 = 0 ∧
      u.rdReg DDR_LOAD.reg c 0 0 = 0 ∧ u.rdReg DDR_LOAD2.reg c 0 0 = 0 ∧ u = { s with regs := u.regs, chans := u.chans } ∧
      regsKept s u [DDR_ECC_CNT.reg.addr c 0 0, DDR_LOAD.reg.addr c 0 0, DDR_LOAD2.reg.addr c 0 0])

/-- GRANARY_FILL_DONE, GROUP_WRITEBACK_DONE and DECAY_TICK. `idleWriteBack` gives idle drives the write-backs that 04 R191
allows. -/
def Obligations.FillsAndWritebacks : Prop :=
  ∀ (s : State),
    (∀ (block d : Nat) (b : Blk), kget block s.tier.blocks = some b → driveOf s block = some d →
      (b.filling = false ∨ openCmds (s.driveX d) [0, 10] block = true → exec (.granaryFillDone block) s = .next s) ∧
      (∀ base e t u, b.filling = true → openCmds (s.driveX d) [0, 10] block = false → s.extentAt (block * 4096) = some (base, e) →
        t = { s with tier := { s.tier with blocks := kput block { b with filling := false } s.tier.blocks } } →
        u = fillIn t e.part d block b.ch (kget (2 * block) (s.driveX d).failed) →
        exec (.granaryFillDone block) s = .next (idleWriteBack (wakeTier (movesEnd u (· == block))) d) ∧
        kget block t.tier.blocks = some { b with filling := false })) ∧
    (∀ block, kget block s.tier.blocks = none → exec (.granaryFillDone block) s = .next s) ∧
    (∀ (g d n : Nat) (base : Nat) (e : Ext) (t u : State), s.extentAt (g * 65536) = some (base, e) → driveOf s (g * 16) = some d →
      n = (wbBlocks s g).length → t = s.setDriveX d { s.driveX d with macRead := kdel g (s.driveX d).macRead } →
      u = (groupEnd t g true).count PRT_TIER_CNT.WRITEBACKS e.part 0 0 n →
      (n = 0 ∨ openCmds (s.driveX d) [1, 11, 12] g = true → exec (.groupWritebackDone g) s = .next s) ∧
      (n ≠ 0 → openCmds (s.driveX d) [1, 11, 12] g = false → exec (.groupWritebackDone g) s =
        .next (idleWriteBack (wakeTier (tierStat (writeBackEngine u e.part) e.part)) d))) ∧
    (∀ g : Nat, ∃ t u, groupEnd s g true = { u with tier := { u.tier with
          written := (wbBlocks s g).foldl (fun l b => sput b.1 l) u.tier.written
          mapBad := u.tier.mapBad.filter fun k => (wbBlocks s g).all fun b => b.1 != k } } ∧
      u = mapWritten (poisonWritten t (wbBlocks s g)) g ∧ t = { s with tier := t.tier, started := t.started } ∧
      (∀ k b, (k, b) ∈ s.tier.blocks → k / 16 = g → b.wb = true →
        (k, { b with wb := false, dirty := b.wbDirty, wbDirty := false }) ∈ t.tier.blocks) ∧
      (∀ k b, (k, b) ∈ s.tier.blocks → k / 16 ≠ g ∨ b.wb = false → (k, b) ∈ t.tier.blocks) ∧
      (∀ k b, (k, b) ∈ wbBlocks s g → k ∈ (groupEnd s g true).tier.written ∧ k ∉ (groupEnd s g true).tier.mapBad)) ∧
    (∀ (p : Part), ∃ t, exec (.decayTick p) s = .next ((List.range 16).foldl idleWriteBack t) ∧ t = { s with tier := t.tier } ∧
      (∀ k c, (k, c) ∈ s.tier.pageCnt → s.partOfSlice (k % 16) = some p.val → 2 ≤ c → (k, c / 2) ∈ t.tier.pageCnt) ∧
      (∀ k c, (k, c) ∈ s.tier.pageCnt → s.partOfSlice (k % 16) ≠ some p.val → c ≠ 0 → (k, c) ∈ t.tier.pageCnt) ∧
      (∀ k b, (k, b) ∈ s.tier.blocks → s.partOfSlice (b.ch / 2) = some p.val → (k, { b with cnt := b.cnt / 2 }) ∈ t.tier.blocks) ∧
      (∀ k b, (k, b) ∈ s.tier.blocks → s.partOfSlice (b.ch / 2) ≠ some p.val → (k, b) ∈ t.tier.blocks))

/-- DRIVE_BRINGUP, NVM_DISABLE, NVME_CMD_COMPLETE, NVME_CMD_TMO_EXPIRY, NVME_LINKUP_TMO_EXPIRY, NVME_READY_TMO_EXPIRY,
SMART_POLL, NVME_LINK_DOWN, NVME_LINK_UP, NVME_CONTROLLER_READY and NVME_CONTROLLER_FATAL. In SMART_POLL, `ok` false
with no log read open says that the log is still awaited (log entry 37). -/
def Obligations.DrivesComeAndGo : Prop :=
  ∀ (s : State) (d : Drive) (x : DriveX), x = s.driveX d →
    (s.on NVM_CTL.ENABLE d = true → s.rd NVM_CTL.STATE d = 0 → exec (.driveBringup d) s = .next (driveBegin s d)) ∧
    (s.rd NVM_CTL.STATE d ≠ 0 → exec (.driveBringup d) s = .next s) ∧
    (x.step = 1 → exec (.nvmeLinkUp d) s = .next ((s.setDriveX d { x with step := 2 }).emit (.nvme d 21 []))) ∧
    (x.step ≠ 1 → exec (.nvmeLinkUp d) s = .next (s.setDriveX d { x with linkDown := false })) ∧
    (s.rd NVM_CTL.STATE d = 2 → x.step ≠ 1 → exec (.nvmeLinkDown d) s = .next (s.setDriveX d { x with linkDown := true })) ∧
    (x.step = 1 ∨ x.linkDown = true → exec (.nvmeLinkupTmoExpiry d) s = .next (driveLost s d 1)) ∧
    (x.step ≠ 1 → x.linkDown = false → exec (.nvmeLinkupTmoExpiry d) s = .next s) ∧
    (x.resetting = 2 → exec (.nvmeReadyTmoExpiry d) s = .next (driveLost s d 4)) ∧
    (x.resetting = 0 → x.step ≠ 2 → exec (.nvmeReadyTmoExpiry d) s = .next s) ∧
    exec (.nvmeControllerFatal d) s = .next (driveLost s d 2) ∧
    (∀ q t, x.resetting = 0 → x.step = 2 → t = (s.wr NVM_CTL.QDEPTH (min 1024 (q + 1)) d).setDriveX d { x with step := 3 } →
      exec (.nvmeControllerReady d q) s = .next (nvmeIssue (nvmeIssue t d 5 0 0 0) d 6 1 0 0)) ∧
    (∀ id sct sc data, x.cmds.find? (fun c => c.id == id) = none → exec (.nvmeCmdComplete d id sct sc data) s = .next s ∧
      exec (.nvmeCmdTmoExpiry d id) s = .next s) ∧
    (∀ id c data t, x.cmds.find? (fun c => c.id == id) = some c → t = s.setDriveX d { x with cmds := x.cmds.filter (fun k => k.id != id) } →
      exec (.nvmeCmdComplete d id 0 0 data) s =
        .next (idleWriteBack (nvmeDrain (cmdOk (t.setDriveX d { t.driveX d with failRow := 0 }) d c data) d) d) ∧
      (∀ sc, [0, 10, 12].contains c.kind = true → exec (.nvmeCmdComplete d id 2 sc data) s =
        .next (nvmeDrain (cmdFail (t.count NVM_STAT.MEDIA_ERR d) d c (512 + fld sc 0 8)) d)) ∧
      (∀ sc, 0 < sc → c.tries ≤ s.rd NVM_CFG.RETRY d → exec (.nvmeCmdComplete d id 0 sc data) s = .next (nvmeSend t d c)) ∧
      (∀ sc, 0 < sc → s.rd NVM_CFG.RETRY d < c.tries → exec (.nvmeCmdComplete d id 0 sc data) s =
        .next (nvmeDrain (cmdFail t d c (fld sc 0 8)) d))) ∧
    (∀ id c y, x.cmds.find? (fun c => c.id == id) = some c → c.tries ≤ s.rd NVM_CFG.RETRY d →
      y = { x with resetting := 2, cmds := [], held := (x.cmds ++ x.held).filter fun k => k.kind != 7 && k.kind != 8 } →
      exec (.nvmeCmdTmoExpiry d id) s = .next ((((s.count NVM_STAT.TIMEOUTS d).count NVM_STAT.RESETS d).setDriveX d y).emit
        (.nvme d 21 []))) ∧
    (∀ id c u, x.cmds.find? (fun c => c.id == id) = some c → s.rd NVM_CFG.RETRY d < c.tries →
      u = ((s.count NVM_STAT.TIMEOUTS d).count NVM_STAT.RESETS d).setDriveX d 
        { x with resetting := 2, cmds := [], held := (x.cmds ++ x.held).filter fun k => k.kind != 7 && k.kind != 8 && k.id != id } →
      exec (.nvmeCmdTmoExpiry d id) s = .next (cmdFail (u.emit (.nvme d 21 [])) d c 0)) ∧
    (∀ temp warn used t, s.rd NVM_CTL.STATE d = 2 ∨ x.step = 5 → smartOpen x = true ∨ x.step = 5 →
      t = s.setDriveX d { x with cmds := x.cmds.filter (fun c => c.kind != 9), held := x.held.filter (fun c => c.kind != 9) } →
      exec (.smartPoll d true temp warn used) s = .next (smartRead t d temp warn used) ∧
      exec (.smartPoll d false temp warn used) s = .next (smartEnd (failRow t d) d)) ∧
    (∀ temp warn used, s.rd NVM_CTL.STATE d = 2 → x.step ≠ 5 → smartOpen x = false → s.rd NVM_CFG.SMART_PERIOD d ≠ 0 →
      exec (.smartPoll d true temp warn used) s =
        .next (smartRead ((s.setDriveX d { x with nextId := x.nextId + 1 }).emit (.nvme d 9 [x.nextId, 0, 0])) d temp warn used) ∧
      exec (.smartPoll d false temp warn used) s = .next (nvmeIssue s d 9 0 0 0)) ∧
    (∀ ok temp warn used, s.rd NVM_CTL.STATE d = 2 → x.step ≠ 5 → smartOpen x = false → s.rd NVM_CFG.SMART_PERIOD d = 0 →
      exec (.smartPoll d ok temp warn used) s = .next s) ∧
    (∀ ok temp warn used, s.rd NVM_CTL.STATE d = 3 → x.step = 0 → exec (.smartPoll d ok temp warn used) s = .next s) ∧
    (∀ (temp : Int) (warn used cond : Nat) (ts : List Int) (v : State),
      ts = (if -40 ≤ temp ∧ temp ≤ 150 then (temp :: x.temps).take 3 else x.temps) →
      cond = fld warn 0 3 + 8 * b2n (!ts.isEmpty && decide ((s.rd NVM_CFG.TEMP_WARN d : Int) < medianInt ts)) →
      v = ((s.wr NVM_STAT.CRIT_WARN warn d).wr NVM_STAT.PCT_USED used d).setDriveX d { x with temps := ts, cond := cond, failRow := 0 } →
      (cond = 0 ∨ cond = x.cond → warn.testBit 3 = false → smartRead s d temp warn used = smartEnd v d) ∧
      (cond = 0 ∨ cond = x.cond → warn.testBit 3 = true → smartRead s d temp warn used = driveLost v d 5) ∧
      (cond ≠ 0 → cond ≠ x.cond → warn.testBit 3 = false → smartRead s d temp warn used = smartEnd (evPf0 v 0x0302 d
        (fld warn 0 8 + (if ts = [] then 0 else (medianInt ts % 65536).toNat) * 256) (fld used 0 8)) d)) ∧
    (∀ (v : Word) t, ksorted s.regs = true → pf0Open s = true → s.on NVM_CTL.ENABLE d = true → wrote NVM_CTL.ENABLE v.toNat = 0 →
      t = plainWrite s NVM_CTL.reg d 0 0 v.toNat → exec (.nvmDisable d v) s = .next (driveLost (flushDrive t d) d 7))

/-- ERROR_REPORT, BROKEN_WIRE, UE_COALESCE_EXPIRY, WATCH_CE_WINDOW_END, FLT_FIRST_CLEAR and FLT_INJECT_GO. Of which of an
Elder's cores `sramRaise` raises the source is a free value (log entry 66). -/
def Obligations.ErrorsAreCollected : Prop :=
  ∀ (s : State) (c : Coll), ksorted s.regs = true →
    (∀ (e : ErrRep) (u : State), u = sramRaise s e →
      (e.kind ≠ 10 ∨ (e.err ≠ 1 ∧ e.err ≠ 2) → u = s) ∧
      (∀ n w, e.cls = 1 → c.val = collectorOf e.kind e.inst → n = kgetD 0 c.val u.watch.ceWin + 1 →
        w = { u.watch with ceWin := kput c.val n u.watch.ceWin } →
        (u.rd FLT_CE_CFG.CE_THRESH c = 0 ∨ n < u.rd FLT_CE_CFG.CE_THRESH c ∨ u.watch.ceSent.contains c.val = true →
          exec (.errorReport e) s = .next { u.count FLT_CNT.CE c with watch := w }) ∧
        (u.rd FLT_CE_CFG.CE_THRESH c ≠ 0 → u.rd FLT_CE_CFG.CE_THRESH c ≤ n → u.watch.ceSent.contains c.val = false → ksorted u.regs = true → ∃ t,
          exec (.errorReport e) s = .next (evPf0 t 0x0D01 c n (u.rd FLT_CE_CFG.CE_THRESH c)) ∧
          t.rd FLT_CNT.CE c = min (u.rd FLT_CNT.CE c + 1) (2 ^ FLT_CNT.CE.w - 1) ∧ t.watch.ceSent = sput c.val u.watch.ceSent ∧
          sameMem u t ∧ regsKept u t [FLT_CNT.reg.addr c 0 0])) ∧
      (e.cls = 0 → exec (.errorReport e) s = .next u) ∧
      (e.cls = 3 → exec (.errorReport e) s = .next (fatal (poisonLines u e.lines) e)) ∧
      (e.cls = 2 → e.kind ≠ 7 → chipResetting u = false → exec (.errorReport e) s =
        .next (watchUE (poisonLines u e.lines) e.kind e.inst e.err e.part e.access e.space e.addr e.synd e.lines.length)) ∧
      (e.cls = 2 → e.kind = 7 → chipResetting u = false → exec (.errorReport e) s =
        .next (watchUE (macFail (poisonLines u e.lines) e) e.kind e.inst e.err e.part e.access e.space e.addr e.synd e.lines.length))) ∧
    (∀ src part mine w, (mine = fun (r : ErrRec) => r.cls == 2 && r.coll == c.val && srcCode r.kind r.inst r.err == src && r.part == part) →
      w = { s.watch with recs := s.watch.recs.filter fun r => !mine r } →
      exec (.ueCoalesceExpiry c src part) s = .next ((s.watch.recs.filter mine).foldl writeErrRec { s with watch := w })) ∧
    (∃ t, exec (.watchCeWindowEnd c) s = .next t ∧ t = { s with watch := t.watch } ∧ t.watch.ceSent.contains c.val = false ∧
      (ksorted s.watch.ceWin = true → kgetD 0 c.val t.watch.ceWin = 0)) ∧
    (∀ kind inst still, s.watch.masked.contains (kind * 512 + inst) = true → exec (.brokenWire kind inst still) s = .next s) ∧
    (∀ inst, s.watch.masked.contains (3 * 512 + inst) = false → ∃ e : ErrRep, e.kind = 3 ∧ e.inst = inst ∧ e.cls = 3 ∧ e.err = 0x04 ∧
      exec (.brokenWire 3 inst false) s = .next (fatal ((evPf0 s 0x0D02 (srcCode 3 inst 0x04) 0 (collectorOf 3 inst)).count FLT_WIRE.BROKEN
        (collectorOf 3 inst)) e)) ∧
    (∀ v : Word, pf0Open s = true → wrote FLT_FIRST.VALID v.toNat = 1 → ∃ t, exec (.fltFirstClear c v) s = .next t ∧
      t.rd FLT_FIRST.VALID c = 0 ∧ t.rd FLT_FIRST.OVF c = 0 ∧ t.rd FLT_FIRST.SRC c = s.rd FLT_FIRST.SRC c ∧
      t = { s with regs := t.regs, watch := t.watch } ∧ regsKept s t [FLT_FIRST.reg.addr c 0 0]) ∧
    (∀ v : Word, pf0Open s = true → (wrote FLT_INJECT.GO v.toNat = 0 ∨ s.on CHIP_LOCK.LOCK = true) →
      exec (.fltInjectGo v) s = .next (plainWrite s FLT_INJECT.reg 0 0 0 v.toNat)) ∧
    (∀ (v : Word) t, pf0Open s = true → wrote FLT_INJECT.GO v.toNat = 1 → s.on CHIP_LOCK.LOCK = false → t = plainWrite s FLT_INJECT.reg 0 0 0 v.toNat →
      (t.on FLT_INJECT.WIRE = true → exec (.fltInjectGo v) s = .next (brokenWire t (fld (t.rd FLT_INJECT.SRC) 0 4) (fld (t.rd FLT_INJECT.SRC) 4 9) false)) ∧
      (t.on FLT_INJECT.WIRE = false → t.rd FLT_INJECT.CLASS ≠ 0 → ∃ e : ErrRep, exec (.fltInjectGo v) s = .next (errorReport t.tickFresh e) ∧
        e.kind = fld (t.rd FLT_INJECT.SRC) 0 4 ∧ e.inst = fld (t.rd FLT_INJECT.SRC) 4 9 ∧ e.err = fld (t.rd FLT_INJECT.SRC) 13 8 ∧
        e.cls = t.rd FLT_INJECT.CLASS ∧ e.lines = []))

/-- IRQ_DELIVER, IRQ_ACK and MSIX_UNMASK. A source's MOD is taken to have passed. -/
def Obligations.InterruptsAreDelivered : Prop :=
  ∀ (s : State) (src : Fin 2048), ksorted s.regs = true →
    (src.val < 32 → exec (.irqDeliver src) s = .next s) ∧
    (32 ≤ src.val → irqTargetOk s src = false → ∃ t, exec (.irqDeliver src) s = .next t ∧ t.rd IRQ_SRC_CFG.BAD src = 1 ∧
      t.rd IRQ_SRC_CFG.KIND src = s.rd IRQ_SRC_CFG.KIND src ∧ onlyRegs s t [IRQ_SRC_CFG.reg.addr src 0 0]) ∧
    (32 ≤ src.val → irqTargetOk s src = true → irqReady s src = false → exec (.irqDeliver src) s = .next s) ∧
    (irqTargetOk s src = true → irqReady s src = true →
      kgetD 0 src.val s.irq.lastAt + s.rd IRQ_SRC_CFG.MOD src * 1000 ≤ s.now →
      (s.rd IRQ_SRC_CFG.KIND src = 2 → s.irq.unmasked.contains (msixKey (s.rd IRQ_SRC_CFG.FUNC src) (s.rd IRQ_SRC_CFG.VECTOR src)) = true →
        ∃ t, exec (.irqDeliver src) s = .next t ∧ t.out = .msix (s.rd IRQ_SRC_CFG.FUNC src) (s.rd IRQ_SRC_CFG.VECTOR src) :: s.out ∧
          t.rd IRQ_SRC_CNT.COUNT src = 0 ∧ t.rd IRQ_SRC_CNT.SAT src = 0 ∧ sameMem s t ∧ regsKept s t [IRQ_SRC_CNT.reg.addr src 0 0]) ∧
      (s.rd IRQ_SRC_CFG.KIND src = 1 → ∃ t, exec (.irqDeliver src) s = .next t ∧ t = { s with irq := t.irq } ∧
          src.val * 8 + s.rd IRQ_SRC_CFG.CORE src ∈ t.irq.coreSig)) ∧
    (∀ v : Word, pf0Open s = true → 32 ≤ src.val → s.rd IRQ_SRC_CFG.KIND src ≠ 1 → ∃ t, exec (.irqAck src v) s = .next t ∧
      t.rd IRQ_SRC_CNT.COUNT src = s.rd IRQ_SRC_CNT.COUNT src - wrote IRQ_SRC_CNT.ACK v.toNat ∧
      (t.rd IRQ_SRC_CNT.COUNT src = 0 → t.rd IRQ_SRC_CNT.SAT src = 0) ∧ (∀ x ∈ t.irq.coreSig, x / 8 ≠ src.val) ∧
      t = { s with regs := t.regs, irq := t.irq } ∧ regsKept s t [IRQ_SRC_CNT.reg.addr src 0 0]) ∧
    (∀ (f : Fin 17) (vec : Fin 2048), vec.val < vecCount f → s.irq.msixPend.contains (msixKey f vec) = false →
      ∃ t, exec (.msixUnmask f vec) s = .next t ∧ msixKey f vec ∈ t.irq.unmasked ∧ t = { s with irq := t.irq }) ∧
    (∀ (f : Fin 17) (vec : Fin 2048), vec.val < vecCount f → s.irq.msixPend.contains (msixKey f vec) = true →
      ∃ t, exec (.msixUnmask f vec) s = .next t ∧ t.out = .msix f.val vec.val :: s.out ∧ msixKey f vec ∉ t.irq.msixPend ∧
        msixKey f vec ∈ t.irq.unmasked ∧ t.regs = s.regs ∧ sameMem s t)

/-- POWER_ON, VDD_AON_LOSS, COLD_RST_PIN, WARM_RST_PIN, PERST_LOW, PERST_HIGH, HOST_LINK_DOWN, HOST_LINK_UP, VF_FLR and
PF0_FLR. `startBegin s k` begins a start of KIND k, and `resetAsk` asks for a reset with a source of R606; pins 0, 1
and 2 are COLD_RST_N, WARM_RST_N and PERST_N. That TAP instructions which drive pins end with COLD_RST_N high is 14
R540. -/
def Obligations.PinsStartAndResetTheChip : Prop :=
  ∀ (s : State),
    (s.rd CHIP_START.PHASE = 0 → s.start.step = 0 → s.rd AON_HOLD.HOLD_CAUSE = 0 → exec .powerOn s = .next (startBegin s 0)) ∧
    (s.rd CHIP_START.PHASE ≠ 0 ∨ s.start.step ≠ 0 ∨ s.rd AON_HOLD.HOLD_CAUSE ≠ 0 → exec .powerOn s = .next s) ∧
    (∃ t, exec .vddAonLoss s = .next t ∧ t.mem = State.reset.mem ∧ t.poison = [] ∧ t.extents = [] ∧ t.started = [] ∧ t.keys.mem = [] ∧
      t.keys.link = [] ∧ t.keys.sess = [] ∧ t.keys.nonce = none ∧ t.start.almanac = s.start.almanac ∧ t.start.rows = s.start.rows ∧
      t.start.bankA = s.start.bankA ∧ t.start.bankB = s.start.bankB ∧ t.start.step = 0 ∧ t.ctl.hostUp = false) ∧
    (s.ctl.low.testBit 0 = true → exec (.coldRstPin true) s = .next (pinLow s 0 true)) ∧
    (s.ctl.low.testBit 0 = false → s.rd CHIP_SLEEP.STATE = 3 →
      exec (.coldRstPin true) s = .next (startBegin (chipClear (pinLow s 0 true) 4) 4)) ∧
    (s.ctl.low.testBit 0 = false → s.rd CHIP_SLEEP.STATE ≠ 3 →
      exec (.coldRstPin true) s = .next (resetAsk (pinLow s 0 true) 1 (5 * 1024) 0 none)) ∧
    (s.ctl.tap ≠ 0 → s.ctl.tap ≠ 3 → s.ctl.tap ≠ 4 → exec (.coldRstPin false) s = .next (pinLow s 0 false)) ∧
    (s.ctl.tap = 0 ∨ s.ctl.tap = 3 ∨ s.ctl.tap = 4 → exec (.coldRstPin false) s =
      .next { s with ctl := { s.ctl with low := setFld s.ctl.low 0 1 0, tap := 0xFF } }) ∧
    (s.ctl.low.testBit 1 = true ∨ s.rd CHIP_SLEEP.STATE = 3 → exec (.warmRstPin true) s = .next (pinLow s 1 true)) ∧
    (s.ctl.low.testBit 1 = false → s.rd CHIP_SLEEP.STATE ≠ 3 →
      exec (.warmRstPin true) s = .next (resetAsk (pinLow s 1 true) 2 (5 * 1024) 0 none)) ∧
    exec (.warmRstPin false) s = .next (pinLow s 1 false) ∧
    (s.ctl.low.testBit 2 = true ∨ s.rd CHIP_SLEEP.STATE = 3 → exec .perstLow s = .next (pinLow s 2 true)) ∧
    (s.ctl.low.testBit 2 = false → s.rd CHIP_SLEEP.STATE ≠ 3 → s.on CHIP_CFG.PERST_LINK_ONLY = false →
      exec .perstLow s = .next (resetAsk (pinLow s 2 true) 2 (5 * 1024) 4 none)) ∧
    (s.ctl.low.testBit 2 = false → s.rd CHIP_SLEEP.STATE ≠ 3 → s.on CHIP_CFG.PERST_LINK_ONLY = true → ∃ t,
      exec .perstLow s = .next t ∧ t.regs = s.regs ∧ sameMem s t ∧ t.rings = s.rings ∧ t.ports = s.ports ∧ t.started = s.started ∧
      t.ctl.hostUp = false ∧ t.ctl.low.testBit 2 = true ∧ t.keys.ide = [] ∧ t.irq.table = (List.range 17).foldl (fun l f => l.filter fun e => e.1 / 2 / 2048 != f) s.irq.table) ∧
    (∃ t, exec .perstHigh s = .next t ∧ t = { s with ctl := t.ctl } ∧ t.ctl.low.testBit 2 = false ∧ t.ctl.hostUp = s.ctl.hostUp) ∧
    exec .hostLinkDown s = .next { s with ctl := { s.ctl with hostUp := false } } ∧
    exec .hostLinkUp s = .next { s with ctl := { s.ctl with hostUp := true, bme := State.reset.ctl.bme } } ∧
    (∀ (p : Part) (t : State), t = msixReset s (p + 1) →
      (s.partOn p = true → exec (.vfFlr p) s = .next (resetAsk t 5 (3 * 1024 + p) 3 none)) ∧
      (s.partOn p = false → exec (.vfFlr p) s = .next t) ∧ (∀ k ∈ t.irq.unmasked, k / 2048 ≠ p + 1) ∧
      (∀ k ∈ t.irq.msixPend, k / 2048 ≠ p + 1)) ∧
    (∀ rs u, rs = ringsWhere s (fun r => s.on RNG_CTL.ENABLE r && ringOwner s r == 16) →
      u = rs.foldl (fun t r => resetRing t r 5) s →
      exec .pf0Flr s = .next (pump { msixReset u 0 with
        ctl := { u.ctl with bme := setFld u.ctl.bme 0 1 0 }
        keys := { u.keys with ide := [] } }) ∧
      (∀ r ∈ rs, s.on RNG_CTL.ENABLE r = true ∧ ringOwner s r = 16)) ∧
    (∀ r x, x = s.ringX r → s.on RNG_CTL.ENABLE r = true → x.stopping = 0 → s.started.any (·.ring == r) = false →
      resetRing s r 5 = stopFinish (dropOwn (s.setRingX r { x with stopping := 5, fetching := 0 })
        fun q => q.kind == .fetch && q.ring == r) r)

/-- PRECONDITIONS_HELD, START_STEP_DONE, START_STEP_TMO_EXPIRY, RECOVERY_GO, RECOVERY_FETCH_DONE, RECOVERY_WAIT_EXPIRY,
TALLY_COPY_TICK and TALLY_FORGET. The step number stands in `start.step`, 11 for the extended DRAM test. What a
timed-out step 6, 7 or 9 does without a list of units is the model's (log entry 21). -/
def Obligations.StartsGoStepByStep : Prop :=
  ∀ (s : State),
    (∀ u t, u = s.wr AON_HOLD.CLOCK_BAD 0 → t = tallyEntry (endRec (u.wr AON_HOLD.HOLD_CAUSE 0) 0 0) 0x01 0 1 0 0 0 →
      (s.start.step ≠ 2 ∨ s.ctl.low % 4 ≠ 0 ∨ holdCause u ≠ 0 → exec .preconditionsHeld s = .next s) ∧
      (s.start.step = 2 → s.ctl.low % 4 = 0 → holdCause u = 0 → t.start.kind ≠ 2 →
        exec .preconditionsHeld s = .next (stepAt (phase t 1) 3)) ∧
      (s.start.step = 2 → s.ctl.low % 4 = 0 → holdCause u = 0 → t.start.kind = 2 →
        exec .preconditionsHeld s = .next (begin5 (tallyEntry t 0x02 0 6 0 0 0)))) ∧
    (∀ r : StepReport,
      (s.start.step = 0 ∨ s.start.step = 2 ∨ (s.start.step = 5 ∧ (s.start.host = true ∨ s.start.loaded = true)) →
        exec (.startStepDone r) s = .next s) ∧
      (s.start.step = 3 → exec (.startStepDone r) s = .next (selfTested s r.ok r.bad)) ∧
      (s.start.step = 5 → s.start.host = false → s.start.loaded = false →
        (r.ok = true → s.rd SEC_FW.SVN_FUSED ≤ r.svn → r.svn ≤ 64 → r.keysel ≤ 2 → (s.rd SEC_FW.REVOKED).testBit r.keysel = false →
          exec (.startStepDone r) s = .next (imageLoaded s r.svn r.keysel)) ∧
        (r.ok = false ∨ r.svn < s.rd SEC_FW.SVN_FUSED ∨ 64 < r.svn ∨ 2 < r.keysel ∨ (s.rd SEC_FW.REVOKED).testBit r.keysel = true →
          exec (.startStepDone r) s = .next (spiFail s 2))) ∧
      (s.start.step = 6 → exec (.startStepDone r) s = .next (tested s r.bad 1)) ∧
      (s.start.step = 7 → exec (.startStepDone r) s = .next (broadcast s r.bad 1)) ∧
      (s.start.step = 8 → (unitsIn s 8).any (chanBusy s) = true → exec (.startStepDone r) s = .next s) ∧
      (s.start.step = 8 → (unitsIn s 8).any (chanBusy s) = false → exec (.startStepDone r) s =
        .next (begin9 ((unitsIn s 4).foldl driveEntry ((unitsIn s 8).foldl portEntry ((unitsIn s 8).foldl chanEntry s))))) ∧
      (s.start.step = 9 → exec (.startStepDone r) s = .next (katDone s r.bad 1)) ∧
      (s.start.step = 11 → exec (.startStepDone r) s = .next (extTested s r.bad 1))) ∧
    (∀ bad, hasKind bad [4, 6, 9, 10, 11, 12, 13, 15] = false → bad ≠ [] →
      broadcast s bad 1 = begin8 (floorPlan (bad.foldl startUnitOut (tallyEntry s 0x05 0 2 0 0 bad.length)))) ∧
    (∀ bad, hasKind bad [4, 6, 9, 10, 11, 12, 13, 15] = true → bad ≠ [] →
      broadcast s bad 1 = toSafe (tallyEntry s 0x05 0 2 0 0 bad.length) 5 2 (badDetail bad)) ∧
    (s.start.step = 3 → exec .startStepTmoExpiry s = .next (leaveStep (startHold (tallyEntry s 0x02 0 3 0 0 0) 4))) ∧
    (s.start.step = 5 → s.start.loaded = false → s.start.host = true → exec .startStepTmoExpiry s = .next (hostFail s 3)) ∧
    (s.start.step = 5 → s.start.loaded = false → s.start.host = false → exec .startStepTmoExpiry s = .next (spiFail s 3)) ∧
    (s.start.step = 8 ∨ (s.start.step = 5 ∧ s.start.loaded = true) → exec .startStepTmoExpiry s = .next (toSafe s 7 5 0)) ∧
    (s.start.step = 6 → exec .startStepTmoExpiry s = .next (tested s [] 3)) ∧
    (s.start.step = 0 ∨ s.start.step = 2 → exec .startStepTmoExpiry s = .next s) ∧
    (∀ (v : Word) (t : State), t = plainWrite s CHIP_RECOVERY_CTL.reg 0 0 0 v.toNat →
      (wrote CHIP_RECOVERY_CTL.GO v.toNat = 0 ∨ s.rd CHIP_RECOVERY_CTL.RSTAT ≠ 1 → exec (.recoveryGo v) s = .next t) ∧
      (wrote CHIP_RECOVERY_CTL.GO v.toNat = 1 → s.rd CHIP_RECOVERY_CTL.RSTAT = 1 → 1024 ≤ t.rd CHIP_RECOVERY_CTL.LEN →
        t.rd CHIP_RECOVERY_CTL.LEN ≤ 12 * 2 ^ 20 + 1024 → canPost t 0 = true → exec (.recoveryGo v) s =
        .next ((t.wr CHIP_RECOVERY_CTL.RSTAT 2).emit (.hostRead 0 (t.rd CHIP_RECOVERY_ADDR.ADDR / 4096 * 4096)
          (t.rd CHIP_RECOVERY_CTL.LEN)))) ∧
      (wrote CHIP_RECOVERY_CTL.GO v.toNat = 1 → s.rd CHIP_RECOVERY_CTL.RSTAT = 1 → t.rd CHIP_RECOVERY_CTL.LEN < 1024 ∨
        12 * 2 ^ 20 + 1024 < t.rd CHIP_RECOVERY_CTL.LEN ∨ canPost t 0 = false → exec (.recoveryGo v) s = .next (hostFail t 2))) ∧
    (∀ ok svn ks, (s.rd CHIP_RECOVERY_CTL.RSTAT ≠ 2 ∨ s.start.step ≠ 5 → exec (.recoveryFetchDone ok svn ks) s = .next s) ∧
      (s.rd CHIP_RECOVERY_CTL.RSTAT = 2 → s.start.step = 5 →
        (imageOk s ok svn ks = true → exec (.recoveryFetchDone ok svn ks) s = .next (imageLoaded s svn ks)) ∧
        (imageOk s ok svn ks = false → exec (.recoveryFetchDone ok svn ks) s = .next (hostFail s 2)))) ∧
    (s.rd CHIP_RECOVERY_CTL.RSTAT = 1 → s.start.step = 5 → exec .recoveryWaitExpiry s = .next (hostFail s 3)) ∧
    (s.rd CHIP_RECOVERY_CTL.RSTAT ≠ 1 ∨ s.start.step ≠ 5 → exec .recoveryWaitExpiry s = .next s) ∧
    (s.rd CHIP_START.PHASE = 6 → ∀ a b ra rb copy, s.start.bankA = some (a, ra) → s.start.bankB = some (b, rb) →
      copy = (max a b + 1, s.regs.filter fun e => inTally e.1) →
      (Config.spiFails s.fresh = false → ∃ t, exec .tallyCopyTick s = .next t ∧ t.regs = s.regs ∧
        t.start = (if a ≤ b then { s.start with bankA := some copy } else { s.start with bankB := some copy })) ∧
      (Config.spiFails s.fresh = true → ∀ t, (a ≤ b → t = { s.tickFresh with start := { s.start with bankA := none } }) →
        (b < a → t = { s.tickFresh with start := { s.start with bankB := none } }) →
        exec .tallyCopyTick s = .next (evStart t 0x0E08 1 (b2n (decide (b < a))) 0))) ∧
    (s.rd CHIP_START.PHASE ≠ 6 → exec .tallyCopyTick s = .next s) ∧
    (∀ (v : Word) (t : State), t = plainWrite s CHIP_CFG.reg 0 0 0 v.toNat →
      (wrote CHIP_CFG.TALLY_FORGET v.toNat = 0 → exec (.tallyForget v) s = .next t) ∧
      (wrote CHIP_CFG.TALLY_FORGET v.toNat = 1 → exec (.tallyForget v) s = .next (tallyForget t)))

/-- RESET_COLD, RESET_WARM, RESET_POOL, RESET_WARD, RESET_PART, CURFEW_DRAIN_EXPIRY, SCOPE_RESET_LIMIT_EXPIRY,
SCOPE_RESET_DONE and LEAVE_HOLD_EXPIRY. `rsts` lists the resets and sleeps under way: STEP 1 is the leaving sequence,
2 Curfew, 3 the reset itself; KIND 9 is a sleep or a wake, KIND 12 the Curfew before QUIET. -/
def Obligations.ResetsAreAskedAndEnd : Prop :=
  (∀ (s t : State) (v : Word) (c : Instr), ksorted s.regs = true → c ∈ [Instr.resetCold v, .resetWarm v, .resetPool v, .resetWard v, .resetPart v] →
    t = plainWrite s CHIP_RST_CTL.reg 0 0 0 v.toNat → ∀ i, i = wrote CHIP_RST_CTL.TARGET v.toNat →
    onlyRegs s t [CHIP_RST_CTL.reg.addr 0 0 0] ∧ t.rd CHIP_RST_CTL.KIND = wrote CHIP_RST_CTL.KIND v.toNat ∧ t.rd CHIP_RST_CTL.TARGET = i ∧
    (s.rd CHIP_SLEEP.STATE = 3 → exec c s = .next s) ∧
    (s.rd CHIP_SLEEP.STATE ≠ 3 → wrote CHIP_RST_CTL.GO v.toNat = 0 → exec c s = .next t) ∧
    (s.rd CHIP_SLEEP.STATE ≠ 3 → wrote CHIP_RST_CTL.GO v.toNat = 1 →
      (∀ k, 1 ≤ k → k ≤ 3 → wrote CHIP_RST_CTL.KIND v.toNat = k → exec c s = .next (resetAsk t k (5 * 1024) 1 none)) ∧
      (wrote CHIP_RST_CTL.KIND v.toNat = 4 → i < 4 → exec c s = .next (resetAsk t 4 (4 * 1024 + i) 1 none)) ∧
      (wrote CHIP_RST_CTL.KIND v.toNat = 5 → i < 16 → t.partOn i = true → exec c s = .next (resetAsk t 5 (3 * 1024 + i) 1 none)) ∧
      (wrote CHIP_RST_CTL.KIND v.toNat = 0 ∨ 6 ≤ wrote CHIP_RST_CTL.KIND v.toNat ∨ (wrote CHIP_RST_CTL.KIND v.toNat = 4 ∧ 4 ≤ i) ∨
        (wrote CHIP_RST_CTL.KIND v.toNat = 5 ∧ (16 ≤ i ∨ t.partOn i = false)) → exec c s = .next t))) ∧
  (∀ (s : State) (kind sc src : Nat), absorbedBy s kind sc = true → kind ≠ 3 → resetAsk s kind sc src none = s) ∧
  (∀ (s : State) (sc : Nat),
    (s.ctl.rsts.find? (fun r => r.scope == sc && r.step == 2) = none → exec (.curfewDrainExpiry sc) s = .next s) ∧
    (∀ r, s.ctl.rsts.find? (fun r => r.scope == sc && r.step == 2) = some r →
      (r.kind ≠ 9 → r.kind ≠ 12 → exec (.curfewDrainExpiry sc) s = .next (curfewEnd s r)) ∧
      (r.kind = 12 → exec (.curfewDrainExpiry sc) s = .next (quietEnd s r)) ∧
      (r.kind = 9 → scopeBusy s r.scope = true → exec (.curfewDrainExpiry sc) s = .next (dozeEnd (absorb s r.scope).1 r)) ∧
      (r.kind = 9 → scopeBusy s r.scope = false → exec (.curfewDrainExpiry sc) s = .next (dozeEnd s r))) ∧
    (s.ctl.rsts.find? (fun r => r.scope == sc && !isSleep r.kind) = none → exec (.scopeResetLimitExpiry sc) s = .next (logDrain s) ∧
      (s.ctl.rsts.find? (fun r => r.kind == 9 && r.scope == sc && r.step == 3) = none → exec (.scopeResetDone sc true) s =
        .next (logDrain s)) ∧
      (∀ r, s.ctl.rsts.find? (fun r => r.kind == 9 && r.scope == sc && r.step == 3) = some r →
        exec (.scopeResetDone sc true) s = .next (logDrain (dozeReturn s r)))) ∧
    (∀ r, s.ctl.rsts.find? (fun r => r.scope == sc && !isSleep r.kind) = some r →
      (r.step ≠ 3 → ∀ ok, exec (.scopeResetDone sc ok) s = .next (logDrain s)) ∧
      (r.step = 3 → exec (.scopeResetDone sc true) s = .next (logDrain (resetEnds s r)) ∧
        exec (.scopeResetDone sc false) s = .next (logDrain (resetFails (failRec s r 7) r))) ∧
      (r.step < 2 ∨ r.kind < 3 ∨ r.kind = 8 → exec (.scopeResetLimitExpiry sc) s = .next (logDrain s)) ∧
      (3 ≤ r.kind → r.kind ≠ 8 → r.step = 2 → exec (.scopeResetLimitExpiry sc) s =
        .next (logDrain (resetFails (failRec (curfewEnd s r) r 13) r))) ∧
      (3 ≤ r.kind → r.kind ≠ 8 → r.step = 3 → exec (.scopeResetLimitExpiry sc) s =
        .next (logDrain (resetFails (failRec s r 13) r))))) ∧
  (∀ s : State, (s.xrd.leaving = 0 → exec .leaveHoldExpiry s = .next s) ∧
    (∀ r, s.xrd.leaving ≠ 0 → s.ctl.rsts.find? (fun r => r.step == 1) = some r →
      exec .leaveHoldExpiry s = .next (closeScope (portsOff (leaveEnd s)) { r with step := 2 })))

/-- SLEEP_REQ_ACTIVE, SLEEP_REQ_QUIET, SLEEP_REQ_DOZE, SLEEP_REQ_DEEP, QUIET_IDLE_EXPIRY, DOZE_WAKE and AON_WAKE. `w4` is
what a write does for the four wards. QUIET and DOZE are entered when Curfew has drained what the scope holds (KIND 12
and 9 of `rsts`), at once where it holds nothing. Wake causes are those of R601: 1 a wake source, 2 an arrival, 3 a
doorbell. -/
def Obligations.SleepsAreEnteredAndLeft : Prop :=
  (∀ (s t : State) (v : Word) (c : Instr), ksorted s.regs = true →
    c ∈ [Instr.sleepReqActive v, .sleepReqQuiet v, .sleepReqDoze v, .sleepReqDeep v] →
    t = (plainWrite s CHIP_SLEEP.reg 0 0 0 v.toNat).wr CHIP_SLEEP.SLEEP_ERR 0 → ∀ (req wd : Nat) (w4 : State → State),
    req = wrote CHIP_SLEEP.REQ v.toNat → wd = wrote CHIP_SLEEP.WARD_DOZE v.toNat →
    w4 = (fun u => (List.range 4).foldl (fun u w =>
      if wd.testBit w then (if wardOut u w then u else dozeAsk u (4 * 1024 + w)) else wakeScope u (4 * 1024 + w) 0) u) →
    onlyRegs s t [CHIP_SLEEP.reg.addr 0 0 0] ∧ t.rd CHIP_SLEEP.REQ = req ∧ t.rd CHIP_SLEEP.WARD_DOZE = wd ∧
    t.rd CHIP_SLEEP.STATE = s.rd CHIP_SLEEP.STATE ∧
    (s.rd CHIP_SLEEP.STATE = 3 → exec c s = .next s) ∧
    (s.rd CHIP_SLEEP.STATE ≠ 3 →
      (req = 3 → exec c s = .next (deepAsk t)) ∧
      (req = 2 → exec c s = .next (dozeAsk t (5 * 1024))) ∧
      (req ≤ 1 → s.rd CHIP_SLEEP.STATE ≠ 2 → s.ctl.asleep.contains (5 * 1024) = false → req = s.rd CHIP_SLEEP.STATE →
        exec c s = .next (w4 t)) ∧
      (req ≤ 1 → s.rd CHIP_SLEEP.STATE ≠ 2 → s.ctl.asleep.contains (5 * 1024) = false → req ≠ s.rd CHIP_SLEEP.STATE →
        (sleepBlocked t (5 * 1024) = true → exec c s = .next (w4 (t.wr CHIP_SLEEP.SLEEP_ERR 1))) ∧
        (sleepBlocked t (5 * 1024) = false → req = 0 → exec c s =
          .next (w4 (quietSet { t with ctl := { t.ctl with sleepAt := t.now } } 0))) ∧
        (sleepBlocked t (5 * 1024) = false → req = 1 → exec c s = .next (w4 (quietAsk t)))) ∧
      (s.rd CHIP_SLEEP.STATE = 2 ∨ s.ctl.asleep.contains (5 * 1024) = true → req = 0 →
        exec c s = .next (w4 (wakeScope t (5 * 1024) 0))) ∧
      (s.rd CHIP_SLEEP.STATE = 2 ∨ s.ctl.asleep.contains (5 * 1024) = true → req = 1 → exec c s = .next (w4 t)))) ∧
  (∀ (u x : State), x = busySync { u with ctl := { u.ctl with rsts := u.ctl.rsts ++ [⟨12, 5 * 1024, 0, 2, none, 0⟩], sleepAt := u.now } } →
    x.ctl.rsts = u.ctl.rsts ++ [⟨12, 5 * 1024, 0, 2, none, 0⟩] ∧ (scopeBusy x (5 * 1024) = true → quietAsk u = x) ∧
    (scopeBusy x (5 * 1024) = false → quietAsk u = quietEnd x ⟨12, 5 * 1024, 0, 2, none, 0⟩)) ∧
  (∀ (u x : State) (sc : Nat), sleepsIn u sc = false → sleepBlocked u sc = false → x = busySync (dozeRecall { u with ctl :=
      { u.ctl with asleep := sput sc u.ctl.asleep, rsts := u.ctl.rsts ++ [⟨9, sc, 0, 2, none, 0⟩], sleepAt := u.now } } sc) →
    (scopeBusy x sc = true → dozeAsk u sc = x) ∧ (scopeBusy x sc = false → dozeAsk u sc = dozeEnd x ⟨9, sc, 0, 2, none, 0⟩)) ∧
  (∀ u : State, (u.ctl.rsts = [] → u.start.step = 0 → u.rd CHIP_START.PHASE ≠ 7 →
      deepAsk u = resetAsk { u with ctl := { u.ctl with sleepAt := u.now } } 8 (5 * 1024) 1 none) ∧
    ((∃ r ∈ u.ctl.rsts, r.kind ≠ 9 ∨ r.step ≠ 3) ∨ u.start.step ≠ 0 ∨ u.rd CHIP_START.PHASE = 7 →
      deepAsk u = u.wr CHIP_SLEEP.SLEEP_ERR 1)) ∧
  (∀ (s : State) (sc : Nat), sleepsIn s sc = false → sleepBlocked s sc = true → dozeAsk s sc = s.wr CHIP_SLEEP.SLEEP_ERR 1) ∧
  (∀ (s : State) (sc : Nat), sleepsIn s sc = true → dozeAsk s sc = s) ∧
  (∀ (s : State) (cell : Nat),
    (s.rd CHIP_SLEEP.STATE = 1 → cell < 272 → cellGated s cell = false → exec (.quietIdleExpiry cell) s =
      .next { s with ctl := { s.ctl with gated := sput cell s.ctl.gated } }) ∧
    (s.rd CHIP_SLEEP.STATE ≠ 1 ∨ 272 ≤ cell ∨ cellGated s cell = true → exec (.quietIdleExpiry cell) s = .next s)) ∧
  (∀ (s : State) (sc cause : Nat),
    (s.rd CHIP_SLEEP.STATE = 3 ∨ cause = 0 ∨ 3 < cause ∨ (cause = 2 ∧ s.on CHIP_SLEEP.WAKE_ON_RX = false) ∨
      (cause = 3 ∧ s.on CHIP_SLEEP.WAKE_ON_DB = false) ∨ s.ctl.asleep.contains sc = false ∨
      s.ctl.rsts.any (fun r => r.kind == 9 && r.scope == sc && r.step == 3) = true ∧
        s.ctl.rsts.any (fun r => r.kind == 9 && r.scope == sc && r.step == 2) = false → exec (.dozeWake sc cause) s = .next s) ∧
    (s.rd CHIP_SLEEP.STATE ≠ 3 → cause = 1 ∨ (cause = 2 ∧ s.on CHIP_SLEEP.WAKE_ON_RX = true) ∨
        (cause = 3 ∧ s.on CHIP_SLEEP.WAKE_ON_DB = true) → s.ctl.asleep.contains sc = true →
      (s.ctl.rsts.any (fun r => r.kind == 9 && r.scope == sc && r.step == 2) = true → exec (.dozeWake sc cause) s =
        .next { s with ctl := { s.ctl with wakes := kput sc cause s.ctl.wakes } }) ∧
      (s.ctl.rsts.any (fun r => r.kind == 9 && r.scope == sc) = false → exec (.dozeWake sc cause) s =
        .next { s with ctl := { s.ctl with rsts := s.ctl.rsts ++ [⟨9, sc, cause, 3, none, 0⟩], sleepAt := s.now } }))) ∧
  (∀ (s : State) (v : Word),
    (s.rd CHIP_SLEEP.STATE = 3 → wrote AON_SLEEP.WAKE v.toNat = 1 → exec (.aonWake v) s = .next (startBegin (chipClear s 4) 4)) ∧
    (s.rd CHIP_SLEEP.STATE ≠ 3 ∨ wrote AON_SLEEP.WAKE v.toNat = 0 → exec (.aonWake v) s = .next s))

/-- CHIP_LOCK_SET, PRT_CTL_ENABLE, PRT_CTL_DISABLE, PRT_CTL_LOCK, COH_DOMAIN_EN and COH_DOMAIN_DISABLE. That a write is
not held back when a commit is possible at once is the model's reading of R610 (its log entry 1). -/
def Obligations.StagedWritesCommitOrWait : Prop :=
  (∀ (s : State) (c : Instr) (off : Nat) (v : Word), (c = .chipLockSet v ∧ off = CHIP_LOCK.reg.base) ∨
      (pf0Open s = true ∧ ((∃ p : Part, (c = .prtCtlEnable p v ∨ c = .prtCtlDisable p v ∨ c = .prtCtlLock p v) ∧
        off = PRT_CTL.reg.addr p 0 0) ∨ (∃ d : Dom, (c = .cohDomainEn d v ∨ c = .cohDomainDisable d v) ∧
        off = XLT_COH_CTL.reg.addr d 0 0))) →
    (commitOk s = true → s.eld.log = [] → s.eld.more = [] → writeWaits s off v.toNat = false →
      exec c s = .next (committed (applyWrite s false off v.toNat))) ∧
    (commitOk s = false ∨ s.eld.log ≠ [] ∨ s.eld.more ≠ [] ∨ writeWaits s off v.toNat = true →
      ((s.eld.log.filter (·.share == 16)).length < 12288 → exec c s =
        .next { s with eld := { s.eld with log := s.eld.log ++ [.write false off v.toNat] } }) ∧
      (12288 ≤ (s.eld.log.filter (·.share == 16)).length → exec c s =
        .next { s with eld := { s.eld with more := s.eld.more ++ [.write false off v.toNat] } }))) ∧
  (∀ (s : State) (p : Part) (d : Dom) (v : Word), pf0Open s = false → exec (.prtCtlEnable p v) s = .next s ∧
    exec (.prtCtlDisable p v) s = .next s ∧ exec (.prtCtlLock p v) s = .next s ∧ exec (.cohDomainEn d v) s = .next s ∧
    exec (.cohDomainDisable d v) s = .next s) ∧
  (∀ s : State, s.eld.takeback = false → s.rd ELD_LOG.WINDOW_LEFT = 0 → ksorted s.regs = true →
    committed s = s.wr ELD_LOG.COMMIT_SEQ (s.rd ELD_LOG.COMMIT_SEQ + 1)) ∧
  (∀ (s : State) (v : Word), ksorted s.regs = true → commitOk s = true → s.eld.log = [] → s.eld.more = [] → s.eld.takeback = false → s.rd ELD_LOG.WINDOW_LEFT = 0 →
    ∀ u, u = plainWrite s CHIP_LOCK.reg 0 0 0 v.toNat → ∃ t, exec (.chipLockSet v) s = .next t ∧
      t = { s with regs := t.regs, keys := t.keys } ∧ regsKept s t [CHIP_LOCK.reg.addr 0 0 0, ELD_LOG.reg.addr 0 0 0] ∧
      t.rd CHIP_LOCK.LOCK = s.rd CHIP_LOCK.LOCK ||| wrote CHIP_LOCK.LOCK v.toNat ∧
      t.rd ELD_LOG.COMMIT_SEQ = (s.rd ELD_LOG.COMMIT_SEQ + 1) % 2 ^ ELD_LOG.COMMIT_SEQ.w ∧
      (s.rd CHIP_LOCK.LOCK = 1 ∨ wrote CHIP_LOCK.LOCK v.toNat = 0 → t.keys = s.keys) ∧
      (s.rd CHIP_LOCK.LOCK = 0 → wrote CHIP_LOCK.LOCK v.toNat = 1 →
        t.keys = { s.keys with meas := s.keys.meas.set 6 (measureRegs u 7) }))

/-- SUPPLY_SAMPLE_TICK, TEMP_SENSOR_TICK, AVS_CURRENT_POLL, AVS_RETRY_TICK and SMBUS_CLOCK_TIMEOUT. `medianInt` is the
median, `inRange` the range of R628, and `supplyOut` the handling of R629. The numbering of the sensors and the bound
on a plausible voltage are the model's (its log). -/
def Obligations.SuppliesAndSensorsAreRead : Prop :=
  (∀ s : State, exec .smbusClockTimeout s = .next s) ∧
  (∀ (s : State) (volts amps : List Int), exec (.supplySampleTick volts amps) s = .next ((List.range 11).foldl ampsShown
    (((List.range 5).zip amps).foldl (fun t x => ampRead t x.1 x.2)
      (((List.range 12).zip volts).foldl (fun t x => voltRead t x.1 x.2) s)))) ∧
  (∀ (s : State) (r : Nat) (v : Int) (x : Sens), x = kgetD freshSens r s.pwr.volt → r ≤ 10 →
    (x.dropped = true → voltRead s r v = s) ∧
    (x.dropped = false → (v < 0 ∨ 3 * ((supplyLimits r).1 : Int) < 2 * v) → x.bad < 9 → voltRead s r v =
      State.count { s with pwr := { s.pwr with volt := kput r { x with bad := x.bad + 1 } s.pwr.volt } } AON_SUPPLY.DISCARDED r) ∧
    (x.dropped = false → 0 ≤ v → 2 * v ≤ 3 * ((supplyLimits r).1 : Int) → ∀ (m : Int) (y : Sens),
      m = medianInt ((v :: x.last).take 5) → y = { x with last := (v :: x.last).take 5, bad := 0 } →
      (inRange s r m = true → s.pwr.outs.contains r = false → voltRead s r v =
        State.wr { s with pwr := { s.pwr with volt := kput r { y with out_ := 0 } s.pwr.volt } } AON_SUPPLY.V m.toNat r) ∧
      (inRange s r m = false → x.out_ < 2 → voltRead s r v =
        State.wr { s with pwr := { s.pwr with volt := kput r { y with out_ := x.out_ + 1 } s.pwr.volt } } AON_SUPPLY.V m.toNat r) ∧
      (∀ t : State, inRange s r m = false → 2 ≤ x.out_ → s.pwr.outs.contains r = false →
        t = State.wr { s with pwr := { s.pwr with volt := kput r { y with out_ := x.out_ + 1 } s.pwr.volt } } AON_SUPPLY.V m.toNat r →
        supplyChecked t r = true → voltRead s r v = supplyOut t r))) ∧
  (∀ (s : State) (k : Nat) (v : Int) (x : Sens), x = kgetD freshSens k s.pwr.temp →
    (x.dropped = true → tempRead s k v = s) ∧
    (x.dropped = false → -40 ≤ v → v ≤ 150 → tempRead s k v =
      { s with pwr := { s.pwr with temp := kput k { x with last := (v :: x.last).take 3, bad := 0 } s.pwr.temp } }) ∧
    (x.dropped = false → v < -40 ∨ 150 < v → x.bad < 9 → tempRead s k v =
      { s with pwr := { s.pwr with temp := kput k { x with bad := x.bad + 1 } s.pwr.temp } })) ∧
  (∀ (s t : State) (l : List Int), t = ((List.range 72).zip l).foldl (fun t x => tempRead t x.1 x.2) s →
    (maxInt ((List.range 72).filterMap (tempOf t)) = none → exec (.tempSensorTick l) s = .next t) ∧
    (∀ m u, maxInt ((List.range 72).filterMap (tempOf t)) = some m → u = t.wr AON_THERM.TJ_MAX (m % 256).toNat →
      (m < 115 ∨ u.on AON_THERM.TRIPPED = true → exec (.tempSensorTick l) s = .next u) ∧
      (115 ≤ m → u.on AON_THERM.TRIPPED = false → exec (.tempSensorTick l) s = .next (thermTrip u)))) ∧
  (∀ s : State, ∃ t, thermTrip s = t ∧ t.start.step = 0 ∧ t.ctl.hostUp = false ∧ t.ctl.closed = [5 * 1024] ∧ t.ctl.rsts = [] ∧
    t.ports = [] ∧ t.links = []) ∧
  (∀ (s : State) (b : Fin 5) (amps : List Nat),
    (s.rd AON_AVS.STATE b = 2 → ∀ ok, exec (.avsCurrentPoll b ok amps) s = .next s) ∧
    (s.rd AON_AVS.STATE b ≠ 2 → exec (.avsCurrentPoll b true amps) s = .next (let t := s.wr AON_AVS.STATE 0 b
      { t with pwr := { t.pwr with tries := kdel b t.pwr.tries,
                                   avs := ((busRails b).zip amps).foldl (fun l x => kput x.1 x.2 l) t.pwr.avs } })) ∧
    (∀ n, s.rd AON_AVS.STATE b ≠ 2 → n = kgetD 0 b.val s.pwr.tries →
      (0 < n → n < 3 → exec (.avsCurrentPoll b false amps) s = .next (let t := s.wr AON_AVS.STATE 1 b
        { t with pwr := { t.pwr with tries := kput b (n + 1) t.pwr.tries } })) ∧
      (n = 0 → exec (.avsCurrentPoll b false amps) s = .next (let t := (s.wr AON_AVS.STATE 1 b).count AON_AVS.ERRS b
        { t with pwr := { t.pwr with tries := kput b 1 t.pwr.tries } })) ∧
      (3 ≤ n → exec (.avsCurrentPoll b false amps) s = .next (avsFail s b))) ∧
    (s.rd AON_AVS.STATE b = 2 → exec (.avsRetryTick b true) s =
      .next { s.wr AON_AVS.STATE 0 b with pwr := { s.pwr with tries := kdel b s.pwr.tries } }) ∧
    (s.rd AON_AVS.STATE b = 2 → exec (.avsRetryTick b false) s = .next s) ∧
    (s.rd AON_AVS.STATE b ≠ 2 → ∀ ok, exec (.avsRetryTick b ok) s = .next s))

/-- GOVERNOR_TICK, GOV_EVENT_WINDOW, VOLTAGE_SETTLED and VOLTAGE_SETTLE_TMO_EXPIRY. Clocks count in 25 MHz; `governed`
names the wards that the governor acts on. The voltage of a clock is the fused curve Config.vfCurve. Which ward a
thermal lowering picks is the model's choice (its log). -/
def Obligations.GovernorFollowsPower : Prop :=
  (∀ (s t u x : State) (p : Nat) (gs hot : List Nat) (th : Option Nat), p = chipPower s → gs = (List.range 4).filter (governed s) →
    t = gs.foldl (fun t w => if clkMax t w < clkNow t w then clkLower t w (clkMax t w) 2 else t) (governStart s p) →
    hot = (List.range 4).filter (fun w => decide ((throttleAt t : Int) ≤ wardTemp t w) ||
      (t.pwr.hot.contains w && decide ((throttleAt t : Int) - 3 ≤ wardTemp t w))) →
    u = { t with pwr := { t.pwr with hot := hot } } →
    th = firstMin (fun w => -(wardTemp u w)) (gs.filter fun w => decide ((throttleAt t : Int) ≤ wardTemp u w)) →
    x = governLower u gs p th →
    (capW x < p → exec .governorTick s = .next (limitedSync { x with pwr := { x.pwr with below := 0 } })) ∧
    (p ≤ capW x → exec .governorTick s = .next (limitedSync (governRaise x gs p))) ∧
    (hot = [] → th = none) ∧ (th = none → p ≤ capW u → x = u)) ∧
  (∀ (s : State) (gs : List Nat) (p w : Nat), p ≤ capW s → governLower s gs p (some w) = clkLower s w (clkNow s w - 4) 1) ∧
  (∀ (s : State) (gs : List Nat) (p : Nat), capW s < p →
    (gs.all (fun w => decide (clkNow s w ≤ 32)) = true → s.pwr.issue = 3 → governLower s gs p none = s.count AON_GOV_STAT.OVER_CAP) ∧
    (gs.all (fun w => decide (clkNow s w ≤ 32)) = true → s.pwr.issue ≠ 3 → governLower s gs p none = issueSet s (s.pwr.issue + 1)) ∧
    (gs.all (fun w => decide (clkNow s w ≤ 32)) = false → 11 * capW s < 10 * p →
      governLower s gs p none = gs.foldl (fun t w => clkLower t w (clkNow t w - 20) 0) s) ∧
    (∀ w, gs.all (fun w => decide (clkNow s w ≤ 32)) = false → 10 * p ≤ 11 * capW s → w ∈ gs → 32 < clkNow s w →
      (∀ x ∈ gs, 32 < clkNow s x → s.rd AON_WARD_CLK.P_CORE x < s.rd AON_WARD_CLK.P_CORE w ∨ x = w) →
      governLower s gs p none = clkLower s w (clkNow s w - 4) 0)) ∧
  (∀ (s : State) (gs : List Nat) (p : Nat),
    (capW s - hystW s ≤ p → governRaise s gs p = { s with pwr := { s.pwr with below := 0 } }) ∧
    (p < capW s - hystW s → 0 < s.pwr.issue → governRaise s gs p = issueSet s (s.pwr.issue - 1)) ∧
    (p < capW s - hystW s → s.pwr.issue = 0 → s.pwr.below < 9 →
      governRaise s gs p = { s with pwr := { s.pwr with below := s.pwr.below + 1 } }) ∧
    (∀ w, p < capW s - hystW s → s.pwr.issue = 0 → 9 ≤ s.pwr.below → gs = [w] → clkNow s w < clkMax s w →
      s.pwr.hot.contains w = false → avsFailed s w = false → kget w s.pwr.want = none →
      governRaise s gs p = clkRaise { s with pwr := { s.pwr with below := 0 } } w (clkNow s w + 1))) ∧
  (∀ (s : State) (w c cause : Nat), ksorted s.regs = true → w < 4 → 32 ≤ clkNow s w → c < 2 ^ 7 →
    32 ≤ clkNow (clkLower s w c cause) w ∧ (c < clkNow s w → clkNow (clkLower s w c cause) w = max 32 c) ∧
    clkNow (clkRaise s w c) w = clkNow s w) ∧
  (∀ (s : State) (w : Ward),
    (kget w.val s.pwr.want = none → exec (.voltageSettled w) s = .next s) ∧
    (∀ c t, kget w.val s.pwr.want = some c →
      t = State.wr { s.wr AON_WARD_CLK.CLK_NOW c w with pwr := { s.pwr with want := kdel w s.pwr.want } } AON_AVS.STATE 0 w →
      exec (.voltageSettled w) s = .next (limitedSync (noteClock { t with pwr := { t.pwr with tries := kdel w t.pwr.tries } } w 0))) ∧
    (s.rd AON_AVS.STATE w = 2 → exec (.voltageSettleTmoExpiry w) s = .next s) ∧
    (s.rd AON_AVS.STATE w ≠ 2 → kgetD 0 w.val s.pwr.tries < 3 → ∀ c, kget w.val s.pwr.want = some c → avsFailed (avsFail s w) w = false →
      exec (.voltageSettleTmoExpiry w) s =
      .next (((avsFail s w).wr AON_WARD_CLK.V_NOW (Config.vfCurve w c) w).emit (.board 2 [w, Config.vfCurve w c])))) ∧
  (∀ s : State, (s.pwr.win = [] → exec .govEventWindow s = .next s) ∧
    (∀ (w low cause : Nat), s.pwr.win = [(w, low, cause)] → exec .govEventWindow s =
      .next (let t := evPf0 s 0x1001 w (low + clkNow s w * 2 ^ 8 + cause * 2 ^ 16 + s.pwr.issue * 2 ^ 18) (s.rd AON_GOV_STAT.P_CHIP)
             { t with pwr := { t.pwr with win := [] } })) ∧
    (∀ t : State, t = s.pwr.win.foldl (fun t e => evPf0 t 0x1001 e.1
        (e.2.1 + clkNow t e.1 * 2 ^ 8 + e.2.2 * 2 ^ 16 + t.pwr.issue * 2 ^ 18) (t.rd AON_GOV_STAT.P_CHIP)) s →
      exec .govEventWindow s = .next { t with pwr := { t.pwr with win := [] } }))
end

