-- ==== Sys2Proof/Laws/Closed.lean ====
section
/-!
SUPPORT. Sys2Proof/Laws/Closed.lean: what a property of states must allow so that every operation of the block keeps it.
`Closed P` lists the ways in which the model changes the queue of commands, the register file, memory and its poisoned
lines; every other field may change at will. Each operation `f` has one lemma `f_keeps` in the Keep files: where P is
closed and holds of the state it starts from, P holds of the state it leaves. An operation that leaves memory and poison
alone asks only `Regular P`.
-/
namespace Sys2Proof.Machine

/-- The ways in which operations that leave memory and poison alone change the state. -/
structure Regular (P : State → Prop) : Prop where
  /-- Any change to other fields. -/
  upd : ∀ s t : State, P s → t.pending = s.pending → t.regs = s.regs → t.mem = s.mem → t.poison = s.poison → P t
  /-- Registers change, in an order that stays one. -/
  regs : ∀ (s : State) (l : List (Nat × Word)), P s → (ksorted s.regs → ksorted l) → P { s with regs := l }

/-- The ways in which operations change the queue, the registers, memory and poison. -/
structure Closed (P : State → Prop) : Prop extends Regular P where
  /-- A line is written. -/
  setLine : ∀ (s : State) (l : Nat) (bs : List Byte), P s → P (s.setLine l bs)
  /-- A line becomes poison. -/
  poisonLine : ∀ (s : State) (l : Nat), P s → P (s.poisonLine l)
  /-- A range becomes zero. -/
  zeroRange : ∀ (s : State) (lo hi : Nat), P s → P (s.zeroRange lo hi)
  /-- Every line of a channel becomes poison. -/
  poisonChan : ∀ (s : State) (c : Nat), P s → P (poisonChan s c)
  /-- The chip forgets its memory. -/
  wipe : ∀ (s : State) (l : List (Nat × Word)), P s → (ksorted s.regs → ksorted l) →
    P { s with regs := l, mem := [], poison := [] }

/-- What a property says of how a step of a descriptor comes out. -/
def DStep.Has (P : State → Prop) : DStep → Prop
  | .more s _ => P s
  | .done s _ _ _ _ => P s
  | .stop s _ _ => P s

/-- What a property says of how bringing a block comes out. -/
def Got.Has (P : State → Prop) : Got → Prop
  | .here s => P s
  | .wait s _ => P s
  | .poison s => P s

/-- What a property says of taking a way. -/
def Way.Has (P : State → Prop) : Way → Prop
  | .got s => P s
  | _ => True

/-- What a property says of the room of a directory. -/
def DirRoom.Has (P : State → Prop) : DirRoom → Prop
  | .waitFor s _ => P s
  | _ => True

/-- What a property says of what a non-coherent access meets. -/
def CohStep.Has (P : State → Prop) : CohStep → Prop
  | .memory s => P s
  | .data s _ _ => P s
  | .wait s => P s
  | .full s _ => P s

/-- What a property says of what an answer cache says. -/
def Cached.Has (P : State → Prop) : Cached → Prop
  | .hit s _ _ => P s
  | .full s => P s
  | _ => True

/-- What a property says of how a contribution is judged. -/
def Judge.Has (P : State → Prop) : Judge → Prop
  | .err s _ => P s
  | .dup s => P s
  | .nak s => P s
  | .accept s => P s

/-- What a property says of an outcome: it holds of the next state, if there is one. -/
def OutHas (P : State → Prop) : Host.Outcome State Fault Refusal → Prop
  | .next s => P s
  | _ => True

/-- The order of the registers, where they were in order at first, is a closed property. -/
theorem closed_sorted (a : Prop) : Closed fun t => a → ksorted t.regs where
  upd _ _ h _ hr _ _ ha := by rw [hr]; exact h ha
  regs _ _ h hl ha := hl (h ha)
  setLine _ _ _ h := h
  poisonLine _ _ h := h
  zeroRange _ _ _ h := h
  poisonChan _ _ h := h
  wipe _ _ h hl ha := hl (h ha)

/-- A closed property is kept by a record whose queue, registers, memory and poison are those of a state that has it. -/
theorem Regular.lit {P : State → Prop} (K : Regular P) {s : State}
    {out : List Out} {fresh : Nat} {extents : List (Nat × Ext)} {copies : List Copy} {faults : List FaultEnt}
    {vers : List (Nat × Ver)} {verRels : List VerRel} {coh : Coh} {sets : List (Nat × SetX)}
    {arming : List Arming} {objQ : List (Nat × Holder)} {oldSets : List (Nat × List Word × Nat)} {rings : List (Nat × RingX)}
    {arb : List (Nat × Nat × Nat)} {arbOwner : Nat} {fetched : List (Nat × List Word)} {started : List Started} {heldCpl : List HeldCpl} {reqs : List HeldReq}
    {nextReq : Nat} {flights : List Flight} {nextFlight : Nat} {answers : List (Nat × Bool × List Byte)} {tier : Tier} {chans : List (Nat × ChanX)}
    {watch : Watch} {drives : List (Nat × DriveX)} {xrd : Xrd} {ports : List (Nat × PortQ)}
    {links : List (Nat × LinkX)} {keys : Keys} {irq : Irq} {progs : List (Nat × List Word)}
    {loads : List (Nat × Load)} {invocs : List (Nat × Invoc)} {cells : List (Nat × Cell)} {ctl : Ctl} {start : StartX} {eld : Eld}
    {pwr : Pwr}
    (h : P s) : P ⟨s.pending, s.regs, s.mem, s.poison, out, fresh, extents, copies, faults, vers, verRels, coh, sets, arming, objQ, oldSets, rings, arb, arbOwner, fetched, started,
      heldCpl, reqs, nextReq, flights, nextFlight, answers, tier, chans, watch, drives, xrd, ports, links, keys, irq, progs, loads, invocs, cells, ctl, start, eld, pwr⟩ :=
  K.upd s _ h rfl rfl rfl rfl

variable {P : State → Prop}

theorem foldl_keeps {α : Type} {f : State → α → State} {l : List α} {s : State}
    (hf : ∀ t a, P t → P (f t a)) (h : P s) : P (l.foldl f s) := by
  induction l generalizing s with
  | nil => exact h
  | cons a l ih => exact ih (hf s a h)

theorem foldl_fst_keeps {α β : Type} {f : State × β → α → State × β} {l : List α} {s : State × β}
    (hf : ∀ t a, P t.1 → P (f t a).1) (h : P s.1) : P (l.foldl f s).1 := by
  induction l generalizing s with
  | nil => exact h
  | cons a l ih => exact ih (hf s a h)

theorem ite_keeps {c : Prop} [Decidable c] {a b : State} (h : P a) (g : P b) : P (if c then a else b) := by
  split <;> assumption

theorem ite_fst_keeps {β : Type} {c : Prop} [Decidable c] {a b : State × β} (h : P a.1) (g : P b.1) :
    P (if c then a else b).1 := by
  split <;> assumption

theorem ite_out_keeps {c : Prop} [Decidable c] {a b : Host.Outcome State Fault Refusal} (h : OutHas P a) (g : OutHas P b) :
    OutHas P (if c then a else b) := by
  split <;> assumption

theorem DStep.ite_keeps {c : Prop} [Decidable c] {a b : DStep} (h : a.Has P) (g : b.Has P) :
    DStep.Has P (if c then a else b) := by
  split <;> assumption

theorem Got.ite_keeps {c : Prop} [Decidable c] {a b : Got} (h : a.Has P) (g : b.Has P) :
    Got.Has P (if c then a else b) := by
  split <;> assumption

theorem Way.ite_keeps {c : Prop} [Decidable c] {a b : Way} (h : a.Has P) (g : b.Has P) :
    Way.Has P (if c then a else b) := by
  split <;> assumption

theorem DirRoom.ite_keeps {c : Prop} [Decidable c] {a b : DirRoom} (h : a.Has P) (g : b.Has P) :
    DirRoom.Has P (if c then a else b) := by
  split <;> assumption

theorem CohStep.ite_keeps {c : Prop} [Decidable c] {a b : CohStep} (h : a.Has P) (g : b.Has P) :
    CohStep.Has P (if c then a else b) := by
  split <;> assumption

theorem Cached.ite_keeps {c : Prop} [Decidable c] {a b : Cached} (h : a.Has P) (g : b.Has P) :
    Cached.Has P (if c then a else b) := by
  split <;> assumption

theorem Judge.ite_keeps {c : Prop} [Decidable c] {a b : Judge} (h : a.Has P) (g : b.Has P) :
    Judge.Has P (if c then a else b) := by
  split <;> assumption

theorem fst_keeps {β : Type} {e : State × β} {s : State} {x : β} (heq : e = (s, x)) (h : P e.1) : P s := by
  rw [heq] at h; exact h

theorem some_keeps {e : Option State} {s : State} (heq : e = some s) (h : ∀ t, e = some t → P t) : P s := h s heq

theorem somePair_keeps {β : Type} {e : Option (State × β)} {s : State} {x : β} (heq : e = some (s, x))
    (h : ∀ t y, e = some (t, y) → P t) : P s := h s x heq

theorem error_keeps {β : Type} {e : Except State β} {s : State} (heq : e = .error s)
    (h : ∀ t, e = .error t → P t) : P s := h s heq

theorem imp_elim {p q : Prop} (h : p) (g : p → q) : q := g h

theorem DStep.more_keeps {e : DStep} {s : State} {x : Started} (heq : e = .more s x) (h : e.Has P) : P s := by
  rw [heq] at h; exact h

theorem DStep.done_keeps {e : DStep} {s : State} {x : Started} {a b c : Nat} (heq : e = .done s x a b c) (h : e.Has P) : P s := by
  rw [heq] at h; exact h

theorem DStep.stop_keeps {e : DStep} {s : State} {x : Started} {w : Wait} (heq : e = .stop s x w) (h : e.Has P) : P s := by
  rw [heq] at h; exact h

theorem Got.here_keeps {e : Got} {s : State} (heq : e = .here s) (h : e.Has P) : P s := by
  rw [heq] at h; exact h

theorem Got.wait_keeps {e : Got} {s : State} {w : Wait} (heq : e = .wait s w) (h : e.Has P) : P s := by
  rw [heq] at h; exact h

theorem Got.poison_keeps {e : Got} {s : State} (heq : e = .poison s) (h : e.Has P) : P s := by
  rw [heq] at h; exact h

theorem Way.got_keeps {e : Way} {s : State} (heq : e = .got s) (h : e.Has P) : P s := by
  rw [heq] at h; exact h

theorem DirRoom.waitFor_keeps {e : DirRoom} {s : State} {k : Nat} (heq : e = .waitFor s k) (h : e.Has P) : P s := by
  rw [heq] at h; exact h

theorem CohStep.memory_keeps {e : CohStep} {s : State} (heq : e = .memory s) (h : e.Has P) : P s := by
  rw [heq] at h; exact h

theorem CohStep.data_keeps {e : CohStep} {s : State} {d : List Byte} {b : Bool} (heq : e = .data s d b) (h : e.Has P) : P s := by
  rw [heq] at h; exact h

theorem CohStep.wait_keeps {e : CohStep} {s : State} (heq : e = .wait s) (h : e.Has P) : P s := by
  rw [heq] at h; exact h

theorem CohStep.full_keeps {e : CohStep} {s : State} {d : Nat} (heq : e = .full s d) (h : e.Has P) : P s := by
  rw [heq] at h; exact h

theorem Cached.hit_keeps {e : Cached} {s : State} {b : Bool} {d : List Byte} (heq : e = .hit s b d) (h : e.Has P) : P s := by
  rw [heq] at h; exact h

theorem Cached.full_keeps {e : Cached} {s : State} (heq : e = .full s) (h : e.Has P) : P s := by
  rw [heq] at h; exact h

theorem Judge.err_keeps {e : Judge} {s : State} {c : Nat} (heq : e = .err s c) (h : e.Has P) : P s := by
  rw [heq] at h; exact h

theorem Judge.dup_keeps {e : Judge} {s : State} (heq : e = .dup s) (h : e.Has P) : P s := by
  rw [heq] at h; exact h

theorem Judge.nak_keeps {e : Judge} {s : State} (heq : e = .nak s) (h : e.Has P) : P s := by
  rw [heq] at h; exact h

theorem Judge.accept_keeps {e : Judge} {s : State} (heq : e = .accept s) (h : e.Has P) : P s := by
  rw [heq] at h; exact h

end Sys2Proof.Machine
end

