-- ==== Sys2Proof/Laws/Sparse.lean ====
section
/-!
SUPPORT. Sys2Proof/Laws/Sparse.lean: keyed lists in canonical form: reading what was written, and every update keeps the
order.
-/
namespace Sys2Proof.Machine

variable {α : Type}

/-- Every key of a list is above `m`. -/
def KAbove (m : Nat) (l : List (Nat × α)) : Prop := ∀ p ∈ l, m < p.1

@[simp] theorem ksorted_nil : ksorted ([] : List (Nat × α)) = true := rfl

/-- A list is sorted where its tail is and every key of the tail is above its first. -/
theorem ksorted_cons {a : Nat} {x : α} {l : List (Nat × α)} :
    ksorted ((a, x) :: l) = true ↔ KAbove a l ∧ ksorted l = true := by
  induction l generalizing a x with
  | nil => simp [ksorted, KAbove]
  | cons p l ih =>
    have := @ih p.1 p.2
    simp only [ksorted, Bool.and_eq_true, decide_eq_true_iff, KAbove, List.forall_mem_cons, Prod.eta] at *
    grind

theorem mem_kput {k : Nat} {v : α} {l : List (Nat × α)} {p : Nat × α} (h : p ∈ kput k v l) : p = (k, v) ∨ p ∈ l := by
  fun_induction kput k v l <;> grind

theorem mem_kdel {k : Nat} {l : List (Nat × α)} {p : Nat × α} (h : p ∈ kdel k l) : p ∈ l := by
  fun_induction kdel k l <;> grind

theorem KAbove.kput {a k : Nat} {v : α} {l : List (Nat × α)} (h : KAbove a l) (hk : a < k) : KAbove a (kput k v l) :=
  fun p hp => (mem_kput hp).elim (fun e => by rw [e]; exact hk) (h p)

theorem KAbove.kdel {a k : Nat} {l : List (Nat × α)} (h : KAbove a l) : KAbove a (kdel k l) := fun p hp => h p (mem_kdel hp)

theorem KAbove.lt {a b : Nat} {l : List (Nat × α)} (h : KAbove b l) (hab : a < b) : KAbove a l := fun p hp => Nat.lt_trans hab (h p hp)

theorem ksorted_kput (k : Nat) (v : α) (l : List (Nat × α)) (h : ksorted l = true) : ksorted (kput k v l) = true := by
  fun_induction kput k v l <;> grind [ksorted_cons, ksorted_nil, KAbove, KAbove.kput]

theorem ksorted_kdel (k : Nat) (l : List (Nat × α)) (h : ksorted l = true) : ksorted (kdel k l) = true := by
  fun_induction kdel k l <;> grind [ksorted_cons, KAbove.kdel]

theorem ksorted_kset [DecidableEq α] (d : α) (k : Nat) (v : α) (l : List (Nat × α)) (h : ksorted l = true) :
    ksorted (kset d k v l) = true := by
  unfold kset
  split
  · exact ksorted_kdel k l h
  · exact ksorted_kput k v l h

/-- Taking entries out keeps the order. -/
theorem ksorted_filter (f : Nat × α → Bool) (l : List (Nat × α)) (h : ksorted l = true) : ksorted (l.filter f) = true := by
  induction l <;> grind [ksorted_cons, KAbove]

/-- Storing many values keeps the order. -/
theorem ksorted_foldl_kput {β : Type} (key : β → Nat) (val : β → α) (xs : List β) (l : List (Nat × α))
    (h : ksorted l = true) : ksorted (xs.foldl (fun l e => kput (key e) (val e) l) l) = true := by
  induction xs generalizing l with
  | nil => exact h
  | cons x xs ih => exact ih _ (ksorted_kput _ _ _ h)

/-- A map over entries that keeps the order of the keys it keeps, keeps the list in order. -/
theorem ksorted_filterMap {β : Type} (f : Nat × α → Option (Nat × β))
    (hf : ∀ p q p' q', p.1 < q.1 → f p = some p' → f q = some q' → p'.1 < q'.1) (l : List (Nat × α))
    (h : ksorted l = true) : ksorted (l.filterMap f) = true := by
  induction l with
  | nil => rfl
  | cons p l ih =>
    have ⟨ha, hs⟩ := ksorted_cons.1 h
    cases e : f p with
    | none => rw [List.filterMap_cons_none e]; exact ih hs
    | some b =>
      rw [List.filterMap_cons_some e]
      exact ksorted_cons.2 ⟨fun b' hb => let ⟨q, hq, hq2⟩ := List.mem_filterMap.1 hb; hf p q b b' (ha q hq) e hq2, ih hs⟩

/-- A key below every key of a list is not listed. -/
theorem kget_above {k : Nat} {l : List (Nat × α)} (h : KAbove k l) : kget k l = none := by
  match l, h with
  | [], _ => rfl
  | (b, _) :: _, h => have : k < b := h _ List.mem_cons_self; grind [kget]

/-- Reading the key that was stored gives the value stored. -/
theorem kget_kput_self (k : Nat) (v : α) (l : List (Nat × α)) : kget k (kput k v l) = some v := by
  fun_induction kput k v l <;> simp_all [kget]

/-- Reading another key is not changed by a store. -/
theorem kget_kput_ne {k j : Nat} (v : α) (l : List (Nat × α)) (hl : ksorted l = true) (hj : j ≠ k) :
    kget j (kput k v l) = kget j l := by
  fun_induction kput k v l <;> grind [ksorted_cons, kget, kget_above, KAbove.lt]

theorem kget_kdel_self (k : Nat) (l : List (Nat × α)) (hl : ksorted l = true) : kget k (kdel k l) = none := by
  fun_induction kdel k l <;> grind [ksorted_cons, kget, kget_above]

theorem kget_kdel_ne {k j : Nat} (l : List (Nat × α)) (hl : ksorted l = true) (hj : j ≠ k) :
    kget j (kdel k l) = kget j l := by
  fun_induction kdel k l <;> grind [ksorted_cons, kget, kget_above, KAbove.lt]

/-- What a key reads as after a store: the value stored. -/
theorem kgetD_kset_self [DecidableEq α] (d : α) (k : Nat) (v : α) (l : List (Nat × α)) (hl : ksorted l = true) :
    kgetD d k (kset d k v l) = v := by
  unfold kset kgetD
  split
  · next e => rw [kget_kdel_self k l hl, e]; rfl
  · rw [kget_kput_self]; rfl

/-- What another key reads as after a store: what it read as before. -/
theorem kgetD_kset_ne [DecidableEq α] (d : α) {k j : Nat} (v : α) (l : List (Nat × α)) (hl : ksorted l = true)
    (hj : j ≠ k) : kgetD d j (kset d k v l) = kgetD d j l := by
  unfold kset kgetD
  split
  · rw [kget_kdel_ne l hl hj]
  · rw [kget_kput_ne v l hl hj]

end Sys2Proof.Machine
end

