-- ==== Sys2Proof/Laws/State.lean ====
section
/-!
SUPPORT. Sys2Proof/Laws/State.lean: what each update of the state leaves alone, one lemma per field and update, and what it
sets.
-/
namespace Sys2Proof.Machine

variable (s : State)

@[simp] theorem State.wrReg_pending (r : Reg) (i j k v : Nat) : (s.wrReg r i j k v).pending = s.pending := rfl
@[simp] theorem State.wrReg_mem (r : Reg) (i j k v : Nat) : (s.wrReg r i j k v).mem = s.mem := rfl
@[simp] theorem State.wrReg_poison (r : Reg) (i j k v : Nat) : (s.wrReg r i j k v).poison = s.poison := rfl
@[simp] theorem State.wrReg_out (r : Reg) (i j k v : Nat) : (s.wrReg r i j k v).out = s.out := rfl
@[simp] theorem State.wrReg_fresh (r : Reg) (i j k v : Nat) : (s.wrReg r i j k v).fresh = s.fresh := rfl
@[simp] theorem State.wrReg_extents (r : Reg) (i j k v : Nat) : (s.wrReg r i j k v).extents = s.extents := rfl
@[simp] theorem State.wrReg_copies (r : Reg) (i j k v : Nat) : (s.wrReg r i j k v).copies = s.copies := rfl
@[simp] theorem State.wrReg_faults (r : Reg) (i j k v : Nat) : (s.wrReg r i j k v).faults = s.faults := rfl
@[simp] theorem State.wrReg_vers (r : Reg) (i j k v : Nat) : (s.wrReg r i j k v).vers = s.vers := rfl
@[simp] theorem State.wrReg_verRels (r : Reg) (i j k v : Nat) : (s.wrReg r i j k v).verRels = s.verRels := rfl
@[simp] theorem State.wrReg_coh (r : Reg) (i j k v : Nat) : (s.wrReg r i j k v).coh = s.coh := rfl
@[simp] theorem State.wrReg_sets (r : Reg) (i j k v : Nat) : (s.wrReg r i j k v).sets = s.sets := rfl
@[simp] theorem State.wrReg_arming (r : Reg) (i j k v : Nat) : (s.wrReg r i j k v).arming = s.arming := rfl
@[simp] theorem State.wrReg_objQ (r : Reg) (i j k v : Nat) : (s.wrReg r i j k v).objQ = s.objQ := rfl
@[simp] theorem State.wrReg_oldSets (r : Reg) (i j k v : Nat) : (s.wrReg r i j k v).oldSets = s.oldSets := rfl
@[simp] theorem State.wrReg_rings (r : Reg) (i j k v : Nat) : (s.wrReg r i j k v).rings = s.rings := rfl
@[simp] theorem State.wrReg_arb (r : Reg) (i j k v : Nat) : (s.wrReg r i j k v).arb = s.arb := rfl
@[simp] theorem State.wrReg_arbOwner (r : Reg) (i j k v : Nat) : (s.wrReg r i j k v).arbOwner = s.arbOwner := rfl
@[simp] theorem State.wrReg_fetched (r : Reg) (i j k v : Nat) : (s.wrReg r i j k v).fetched = s.fetched := rfl
@[simp] theorem State.wrReg_started (r : Reg) (i j k v : Nat) : (s.wrReg r i j k v).started = s.started := rfl
@[simp] theorem State.wrReg_heldCpl (r : Reg) (i j k v : Nat) : (s.wrReg r i j k v).heldCpl = s.heldCpl := rfl
@[simp] theorem State.wrReg_reqs (r : Reg) (i j k v : Nat) : (s.wrReg r i j k v).reqs = s.reqs := rfl
@[simp] theorem State.wrReg_nextReq (r : Reg) (i j k v : Nat) : (s.wrReg r i j k v).nextReq = s.nextReq := rfl
@[simp] theorem State.wrReg_flights (r : Reg) (i j k v : Nat) : (s.wrReg r i j k v).flights = s.flights := rfl
@[simp] theorem State.wrReg_nextFlight (r : Reg) (i j k v : Nat) : (s.wrReg r i j k v).nextFlight = s.nextFlight := rfl
@[simp] theorem State.wrReg_answers (r : Reg) (i j k v : Nat) : (s.wrReg r i j k v).answers = s.answers := rfl
@[simp] theorem State.wrReg_tier (r : Reg) (i j k v : Nat) : (s.wrReg r i j k v).tier = s.tier := rfl
@[simp] theorem State.wrReg_chans (r : Reg) (i j k v : Nat) : (s.wrReg r i j k v).chans = s.chans := rfl
@[simp] theorem State.wrReg_watch (r : Reg) (i j k v : Nat) : (s.wrReg r i j k v).watch = s.watch := rfl
@[simp] theorem State.wrReg_drives (r : Reg) (i j k v : Nat) : (s.wrReg r i j k v).drives = s.drives := rfl
@[simp] theorem State.wrReg_xrd (r : Reg) (i j k v : Nat) : (s.wrReg r i j k v).xrd = s.xrd := rfl
@[simp] theorem State.wrReg_ports (r : Reg) (i j k v : Nat) : (s.wrReg r i j k v).ports = s.ports := rfl
@[simp] theorem State.wrReg_links (r : Reg) (i j k v : Nat) : (s.wrReg r i j k v).links = s.links := rfl
@[simp] theorem State.wrReg_keys (r : Reg) (i j k v : Nat) : (s.wrReg r i j k v).keys = s.keys := rfl
@[simp] theorem State.wrReg_irq (r : Reg) (i j k v : Nat) : (s.wrReg r i j k v).irq = s.irq := rfl
@[simp] theorem State.wrReg_progs (r : Reg) (i j k v : Nat) : (s.wrReg r i j k v).progs = s.progs := rfl
@[simp] theorem State.wrReg_loads (r : Reg) (i j k v : Nat) : (s.wrReg r i j k v).loads = s.loads := rfl
@[simp] theorem State.wrReg_invocs (r : Reg) (i j k v : Nat) : (s.wrReg r i j k v).invocs = s.invocs := rfl
@[simp] theorem State.wrReg_cells (r : Reg) (i j k v : Nat) : (s.wrReg r i j k v).cells = s.cells := rfl
@[simp] theorem State.wrReg_ctl (r : Reg) (i j k v : Nat) : (s.wrReg r i j k v).ctl = s.ctl := rfl
@[simp] theorem State.wrReg_start (r : Reg) (i j k v : Nat) : (s.wrReg r i j k v).start = s.start := rfl
@[simp] theorem State.wrReg_eld (r : Reg) (i j k v : Nat) : (s.wrReg r i j k v).eld = s.eld := rfl
@[simp] theorem State.wrReg_pwr (r : Reg) (i j k v : Nat) : (s.wrReg r i j k v).pwr = s.pwr := rfl

@[simp] theorem State.wr_pending (f : Fld) (v i j k : Nat) : (s.wr f v i j k).pending = s.pending := rfl
@[simp] theorem State.wr_mem (f : Fld) (v i j k : Nat) : (s.wr f v i j k).mem = s.mem := rfl
@[simp] theorem State.wr_poison (f : Fld) (v i j k : Nat) : (s.wr f v i j k).poison = s.poison := rfl
@[simp] theorem State.wr_out (f : Fld) (v i j k : Nat) : (s.wr f v i j k).out = s.out := rfl
@[simp] theorem State.wr_fresh (f : Fld) (v i j k : Nat) : (s.wr f v i j k).fresh = s.fresh := rfl
@[simp] theorem State.wr_extents (f : Fld) (v i j k : Nat) : (s.wr f v i j k).extents = s.extents := rfl
@[simp] theorem State.wr_copies (f : Fld) (v i j k : Nat) : (s.wr f v i j k).copies = s.copies := rfl
@[simp] theorem State.wr_faults (f : Fld) (v i j k : Nat) : (s.wr f v i j k).faults = s.faults := rfl
@[simp] theorem State.wr_vers (f : Fld) (v i j k : Nat) : (s.wr f v i j k).vers = s.vers := rfl
@[simp] theorem State.wr_verRels (f : Fld) (v i j k : Nat) : (s.wr f v i j k).verRels = s.verRels := rfl
@[simp] theorem State.wr_coh (f : Fld) (v i j k : Nat) : (s.wr f v i j k).coh = s.coh := rfl
@[simp] theorem State.wr_sets (f : Fld) (v i j k : Nat) : (s.wr f v i j k).sets = s.sets := rfl
@[simp] theorem State.wr_arming (f : Fld) (v i j k : Nat) : (s.wr f v i j k).arming = s.arming := rfl
@[simp] theorem State.wr_objQ (f : Fld) (v i j k : Nat) : (s.wr f v i j k).objQ = s.objQ := rfl
@[simp] theorem State.wr_oldSets (f : Fld) (v i j k : Nat) : (s.wr f v i j k).oldSets = s.oldSets := rfl
@[simp] theorem State.wr_rings (f : Fld) (v i j k : Nat) : (s.wr f v i j k).rings = s.rings := rfl
@[simp] theorem State.wr_arb (f : Fld) (v i j k : Nat) : (s.wr f v i j k).arb = s.arb := rfl
@[simp] theorem State.wr_arbOwner (f : Fld) (v i j k : Nat) : (s.wr f v i j k).arbOwner = s.arbOwner := rfl
@[simp] theorem State.wr_fetched (f : Fld) (v i j k : Nat) : (s.wr f v i j k).fetched = s.fetched := rfl
@[simp] theorem State.wr_started (f : Fld) (v i j k : Nat) : (s.wr f v i j k).started = s.started := rfl
@[simp] theorem State.wr_heldCpl (f : Fld) (v i j k : Nat) : (s.wr f v i j k).heldCpl = s.heldCpl := rfl
@[simp] theorem State.wr_reqs (f : Fld) (v i j k : Nat) : (s.wr f v i j k).reqs = s.reqs := rfl
@[simp] theorem State.wr_nextReq (f : Fld) (v i j k : Nat) : (s.wr f v i j k).nextReq = s.nextReq := rfl
@[simp] theorem State.wr_flights (f : Fld) (v i j k : Nat) : (s.wr f v i j k).flights = s.flights := rfl
@[simp] theorem State.wr_nextFlight (f : Fld) (v i j k : Nat) : (s.wr f v i j k).nextFlight = s.nextFlight := rfl
@[simp] theorem State.wr_answers (f : Fld) (v i j k : Nat) : (s.wr f v i j k).answers = s.answers := rfl
@[simp] theorem State.wr_tier (f : Fld) (v i j k : Nat) : (s.wr f v i j k).tier = s.tier := rfl
@[simp] theorem State.wr_chans (f : Fld) (v i j k : Nat) : (s.wr f v i j k).chans = s.chans := rfl
@[simp] theorem State.wr_watch (f : Fld) (v i j k : Nat) : (s.wr f v i j k).watch = s.watch := rfl
@[simp] theorem State.wr_drives (f : Fld) (v i j k : Nat) : (s.wr f v i j k).drives = s.drives := rfl
@[simp] theorem State.wr_xrd (f : Fld) (v i j k : Nat) : (s.wr f v i j k).xrd = s.xrd := rfl
@[simp] theorem State.wr_ports (f : Fld) (v i j k : Nat) : (s.wr f v i j k).ports = s.ports := rfl
@[simp] theorem State.wr_links (f : Fld) (v i j k : Nat) : (s.wr f v i j k).links = s.links := rfl
@[simp] theorem State.wr_keys (f : Fld) (v i j k : Nat) : (s.wr f v i j k).keys = s.keys := rfl
@[simp] theorem State.wr_irq (f : Fld) (v i j k : Nat) : (s.wr f v i j k).irq = s.irq := rfl
@[simp] theorem State.wr_progs (f : Fld) (v i j k : Nat) : (s.wr f v i j k).progs = s.progs := rfl
@[simp] theorem State.wr_loads (f : Fld) (v i j k : Nat) : (s.wr f v i j k).loads = s.loads := rfl
@[simp] theorem State.wr_invocs (f : Fld) (v i j k : Nat) : (s.wr f v i j k).invocs = s.invocs := rfl
@[simp] theorem State.wr_cells (f : Fld) (v i j k : Nat) : (s.wr f v i j k).cells = s.cells := rfl
@[simp] theorem State.wr_ctl (f : Fld) (v i j k : Nat) : (s.wr f v i j k).ctl = s.ctl := rfl
@[simp] theorem State.wr_start (f : Fld) (v i j k : Nat) : (s.wr f v i j k).start = s.start := rfl
@[simp] theorem State.wr_eld (f : Fld) (v i j k : Nat) : (s.wr f v i j k).eld = s.eld := rfl
@[simp] theorem State.wr_pwr (f : Fld) (v i j k : Nat) : (s.wr f v i j k).pwr = s.pwr := rfl

@[simp] theorem State.count_pending (f : Fld) (i j k d : Nat) : (s.count f i j k d).pending = s.pending := rfl
@[simp] theorem State.count_mem (f : Fld) (i j k d : Nat) : (s.count f i j k d).mem = s.mem := rfl
@[simp] theorem State.count_poison (f : Fld) (i j k d : Nat) : (s.count f i j k d).poison = s.poison := rfl
@[simp] theorem State.count_out (f : Fld) (i j k d : Nat) : (s.count f i j k d).out = s.out := rfl
@[simp] theorem State.count_fresh (f : Fld) (i j k d : Nat) : (s.count f i j k d).fresh = s.fresh := rfl
@[simp] theorem State.count_extents (f : Fld) (i j k d : Nat) : (s.count f i j k d).extents = s.extents := rfl
@[simp] theorem State.count_copies (f : Fld) (i j k d : Nat) : (s.count f i j k d).copies = s.copies := rfl
@[simp] theorem State.count_faults (f : Fld) (i j k d : Nat) : (s.count f i j k d).faults = s.faults := rfl
@[simp] theorem State.count_vers (f : Fld) (i j k d : Nat) : (s.count f i j k d).vers = s.vers := rfl
@[simp] theorem State.count_verRels (f : Fld) (i j k d : Nat) : (s.count f i j k d).verRels = s.verRels := rfl
@[simp] theorem State.count_coh (f : Fld) (i j k d : Nat) : (s.count f i j k d).coh = s.coh := rfl
@[simp] theorem State.count_sets (f : Fld) (i j k d : Nat) : (s.count f i j k d).sets = s.sets := rfl
@[simp] theorem State.count_arming (f : Fld) (i j k d : Nat) : (s.count f i j k d).arming = s.arming := rfl
@[simp] theorem State.count_objQ (f : Fld) (i j k d : Nat) : (s.count f i j k d).objQ = s.objQ := rfl
@[simp] theorem State.count_oldSets (f : Fld) (i j k d : Nat) : (s.count f i j k d).oldSets = s.oldSets := rfl
@[simp] theorem State.count_rings (f : Fld) (i j k d : Nat) : (s.count f i j k d).rings = s.rings := rfl
@[simp] theorem State.count_arb (f : Fld) (i j k d : Nat) : (s.count f i j k d).arb = s.arb := rfl
@[simp] theorem State.count_arbOwner (f : Fld) (i j k d : Nat) : (s.count f i j k d).arbOwner = s.arbOwner := rfl
@[simp] theorem State.count_fetched (f : Fld) (i j k d : Nat) : (s.count f i j k d).fetched = s.fetched := rfl
@[simp] theorem State.count_started (f : Fld) (i j k d : Nat) : (s.count f i j k d).started = s.started := rfl
@[simp] theorem State.count_heldCpl (f : Fld) (i j k d : Nat) : (s.count f i j k d).heldCpl = s.heldCpl := rfl
@[simp] theorem State.count_reqs (f : Fld) (i j k d : Nat) : (s.count f i j k d).reqs = s.reqs := rfl
@[simp] theorem State.count_nextReq (f : Fld) (i j k d : Nat) : (s.count f i j k d).nextReq = s.nextReq := rfl
@[simp] theorem State.count_flights (f : Fld) (i j k d : Nat) : (s.count f i j k d).flights = s.flights := rfl
@[simp] theorem State.count_nextFlight (f : Fld) (i j k d : Nat) : (s.count f i j k d).nextFlight = s.nextFlight := rfl
@[simp] theorem State.count_answers (f : Fld) (i j k d : Nat) : (s.count f i j k d).answers = s.answers := rfl
@[simp] theorem State.count_tier (f : Fld) (i j k d : Nat) : (s.count f i j k d).tier = s.tier := rfl
@[simp] theorem State.count_chans (f : Fld) (i j k d : Nat) : (s.count f i j k d).chans = s.chans := rfl
@[simp] theorem State.count_watch (f : Fld) (i j k d : Nat) : (s.count f i j k d).watch = s.watch := rfl
@[simp] theorem State.count_drives (f : Fld) (i j k d : Nat) : (s.count f i j k d).drives = s.drives := rfl
@[simp] theorem State.count_xrd (f : Fld) (i j k d : Nat) : (s.count f i j k d).xrd = s.xrd := rfl
@[simp] theorem State.count_ports (f : Fld) (i j k d : Nat) : (s.count f i j k d).ports = s.ports := rfl
@[simp] theorem State.count_links (f : Fld) (i j k d : Nat) : (s.count f i j k d).links = s.links := rfl
@[simp] theorem State.count_keys (f : Fld) (i j k d : Nat) : (s.count f i j k d).keys = s.keys := rfl
@[simp] theorem State.count_irq (f : Fld) (i j k d : Nat) : (s.count f i j k d).irq = s.irq := rfl
@[simp] theorem State.count_progs (f : Fld) (i j k d : Nat) : (s.count f i j k d).progs = s.progs := rfl
@[simp] theorem State.count_loads (f : Fld) (i j k d : Nat) : (s.count f i j k d).loads = s.loads := rfl
@[simp] theorem State.count_invocs (f : Fld) (i j k d : Nat) : (s.count f i j k d).invocs = s.invocs := rfl
@[simp] theorem State.count_cells (f : Fld) (i j k d : Nat) : (s.count f i j k d).cells = s.cells := rfl
@[simp] theorem State.count_ctl (f : Fld) (i j k d : Nat) : (s.count f i j k d).ctl = s.ctl := rfl
@[simp] theorem State.count_start (f : Fld) (i j k d : Nat) : (s.count f i j k d).start = s.start := rfl
@[simp] theorem State.count_eld (f : Fld) (i j k d : Nat) : (s.count f i j k d).eld = s.eld := rfl
@[simp] theorem State.count_pwr (f : Fld) (i j k d : Nat) : (s.count f i j k d).pwr = s.pwr := rfl

@[simp] theorem State.countDown_pending (f : Fld) (i j k : Nat) : (s.countDown f i j k).pending = s.pending := rfl
@[simp] theorem State.countDown_mem (f : Fld) (i j k : Nat) : (s.countDown f i j k).mem = s.mem := rfl
@[simp] theorem State.countDown_poison (f : Fld) (i j k : Nat) : (s.countDown f i j k).poison = s.poison := rfl
@[simp] theorem State.countDown_out (f : Fld) (i j k : Nat) : (s.countDown f i j k).out = s.out := rfl
@[simp] theorem State.countDown_fresh (f : Fld) (i j k : Nat) : (s.countDown f i j k).fresh = s.fresh := rfl
@[simp] theorem State.countDown_extents (f : Fld) (i j k : Nat) : (s.countDown f i j k).extents = s.extents := rfl
@[simp] theorem State.countDown_copies (f : Fld) (i j k : Nat) : (s.countDown f i j k).copies = s.copies := rfl
@[simp] theorem State.countDown_faults (f : Fld) (i j k : Nat) : (s.countDown f i j k).faults = s.faults := rfl
@[simp] theorem State.countDown_vers (f : Fld) (i j k : Nat) : (s.countDown f i j k).vers = s.vers := rfl
@[simp] theorem State.countDown_verRels (f : Fld) (i j k : Nat) : (s.countDown f i j k).verRels = s.verRels := rfl
@[simp] theorem State.countDown_coh (f : Fld) (i j k : Nat) : (s.countDown f i j k).coh = s.coh := rfl
@[simp] theorem State.countDown_sets (f : Fld) (i j k : Nat) : (s.countDown f i j k).sets = s.sets := rfl
@[simp] theorem State.countDown_arming (f : Fld) (i j k : Nat) : (s.countDown f i j k).arming = s.arming := rfl
@[simp] theorem State.countDown_objQ (f : Fld) (i j k : Nat) : (s.countDown f i j k).objQ = s.objQ := rfl
@[simp] theorem State.countDown_oldSets (f : Fld) (i j k : Nat) : (s.countDown f i j k).oldSets = s.oldSets := rfl
@[simp] theorem State.countDown_rings (f : Fld) (i j k : Nat) : (s.countDown f i j k).rings = s.rings := rfl
@[simp] theorem State.countDown_arb (f : Fld) (i j k : Nat) : (s.countDown f i j k).arb = s.arb := rfl
@[simp] theorem State.countDown_arbOwner (f : Fld) (i j k : Nat) : (s.countDown f i j k).arbOwner = s.arbOwner := rfl
@[simp] theorem State.countDown_fetched (f : Fld) (i j k : Nat) : (s.countDown f i j k).fetched = s.fetched := rfl
@[simp] theorem State.countDown_started (f : Fld) (i j k : Nat) : (s.countDown f i j k).started = s.started := rfl
@[simp] theorem State.countDown_heldCpl (f : Fld) (i j k : Nat) : (s.countDown f i j k).heldCpl = s.heldCpl := rfl
@[simp] theorem State.countDown_reqs (f : Fld) (i j k : Nat) : (s.countDown f i j k).reqs = s.reqs := rfl
@[simp] theorem State.countDown_nextReq (f : Fld) (i j k : Nat) : (s.countDown f i j k).nextReq = s.nextReq := rfl
@[simp] theorem State.countDown_flights (f : Fld) (i j k : Nat) : (s.countDown f i j k).flights = s.flights := rfl
@[simp] theorem State.countDown_nextFlight (f : Fld) (i j k : Nat) : (s.countDown f i j k).nextFlight = s.nextFlight := rfl
@[simp] theorem State.countDown_answers (f : Fld) (i j k : Nat) : (s.countDown f i j k).answers = s.answers := rfl
@[simp] theorem State.countDown_tier (f : Fld) (i j k : Nat) : (s.countDown f i j k).tier = s.tier := rfl
@[simp] theorem State.countDown_chans (f : Fld) (i j k : Nat) : (s.countDown f i j k).chans = s.chans := rfl
@[simp] theorem State.countDown_watch (f : Fld) (i j k : Nat) : (s.countDown f i j k).watch = s.watch := rfl
@[simp] theorem State.countDown_drives (f : Fld) (i j k : Nat) : (s.countDown f i j k).drives = s.drives := rfl
@[simp] theorem State.countDown_xrd (f : Fld) (i j k : Nat) : (s.countDown f i j k).xrd = s.xrd := rfl
@[simp] theorem State.countDown_ports (f : Fld) (i j k : Nat) : (s.countDown f i j k).ports = s.ports := rfl
@[simp] theorem State.countDown_links (f : Fld) (i j k : Nat) : (s.countDown f i j k).links = s.links := rfl
@[simp] theorem State.countDown_keys (f : Fld) (i j k : Nat) : (s.countDown f i j k).keys = s.keys := rfl
@[simp] theorem State.countDown_irq (f : Fld) (i j k : Nat) : (s.countDown f i j k).irq = s.irq := rfl
@[simp] theorem State.countDown_progs (f : Fld) (i j k : Nat) : (s.countDown f i j k).progs = s.progs := rfl
@[simp] theorem State.countDown_loads (f : Fld) (i j k : Nat) : (s.countDown f i j k).loads = s.loads := rfl
@[simp] theorem State.countDown_invocs (f : Fld) (i j k : Nat) : (s.countDown f i j k).invocs = s.invocs := rfl
@[simp] theorem State.countDown_cells (f : Fld) (i j k : Nat) : (s.countDown f i j k).cells = s.cells := rfl
@[simp] theorem State.countDown_ctl (f : Fld) (i j k : Nat) : (s.countDown f i j k).ctl = s.ctl := rfl
@[simp] theorem State.countDown_start (f : Fld) (i j k : Nat) : (s.countDown f i j k).start = s.start := rfl
@[simp] theorem State.countDown_eld (f : Fld) (i j k : Nat) : (s.countDown f i j k).eld = s.eld := rfl
@[simp] theorem State.countDown_pwr (f : Fld) (i j k : Nat) : (s.countDown f i j k).pwr = s.pwr := rfl

@[simp] theorem State.clrReg_pending (r : Reg) (i j k : Nat) : (s.clrReg r i j k).pending = s.pending := rfl
@[simp] theorem State.clrReg_mem (r : Reg) (i j k : Nat) : (s.clrReg r i j k).mem = s.mem := rfl
@[simp] theorem State.clrReg_poison (r : Reg) (i j k : Nat) : (s.clrReg r i j k).poison = s.poison := rfl
@[simp] theorem State.clrReg_out (r : Reg) (i j k : Nat) : (s.clrReg r i j k).out = s.out := rfl
@[simp] theorem State.clrReg_fresh (r : Reg) (i j k : Nat) : (s.clrReg r i j k).fresh = s.fresh := rfl
@[simp] theorem State.clrReg_extents (r : Reg) (i j k : Nat) : (s.clrReg r i j k).extents = s.extents := rfl
@[simp] theorem State.clrReg_copies (r : Reg) (i j k : Nat) : (s.clrReg r i j k).copies = s.copies := rfl
@[simp] theorem State.clrReg_faults (r : Reg) (i j k : Nat) : (s.clrReg r i j k).faults = s.faults := rfl
@[simp] theorem State.clrReg_vers (r : Reg) (i j k : Nat) : (s.clrReg r i j k).vers = s.vers := rfl
@[simp] theorem State.clrReg_verRels (r : Reg) (i j k : Nat) : (s.clrReg r i j k).verRels = s.verRels := rfl
@[simp] theorem State.clrReg_coh (r : Reg) (i j k : Nat) : (s.clrReg r i j k).coh = s.coh := rfl
@[simp] theorem State.clrReg_sets (r : Reg) (i j k : Nat) : (s.clrReg r i j k).sets = s.sets := rfl
@[simp] theorem State.clrReg_arming (r : Reg) (i j k : Nat) : (s.clrReg r i j k).arming = s.arming := rfl
@[simp] theorem State.clrReg_objQ (r : Reg) (i j k : Nat) : (s.clrReg r i j k).objQ = s.objQ := rfl
@[simp] theorem State.clrReg_oldSets (r : Reg) (i j k : Nat) : (s.clrReg r i j k).oldSets = s.oldSets := rfl
@[simp] theorem State.clrReg_rings (r : Reg) (i j k : Nat) : (s.clrReg r i j k).rings = s.rings := rfl
@[simp] theorem State.clrReg_arb (r : Reg) (i j k : Nat) : (s.clrReg r i j k).arb = s.arb := rfl
@[simp] theorem State.clrReg_arbOwner (r : Reg) (i j k : Nat) : (s.clrReg r i j k).arbOwner = s.arbOwner := rfl
@[simp] theorem State.clrReg_fetched (r : Reg) (i j k : Nat) : (s.clrReg r i j k).fetched = s.fetched := rfl
@[simp] theorem State.clrReg_started (r : Reg) (i j k : Nat) : (s.clrReg r i j k).started = s.started := rfl
@[simp] theorem State.clrReg_heldCpl (r : Reg) (i j k : Nat) : (s.clrReg r i j k).heldCpl = s.heldCpl := rfl
@[simp] theorem State.clrReg_reqs (r : Reg) (i j k : Nat) : (s.clrReg r i j k).reqs = s.reqs := rfl
@[simp] theorem State.clrReg_nextReq (r : Reg) (i j k : Nat) : (s.clrReg r i j k).nextReq = s.nextReq := rfl
@[simp] theorem State.clrReg_flights (r : Reg) (i j k : Nat) : (s.clrReg r i j k).flights = s.flights := rfl
@[simp] theorem State.clrReg_nextFlight (r : Reg) (i j k : Nat) : (s.clrReg r i j k).nextFlight = s.nextFlight := rfl
@[simp] theorem State.clrReg_answers (r : Reg) (i j k : Nat) : (s.clrReg r i j k).answers = s.answers := rfl
@[simp] theorem State.clrReg_tier (r : Reg) (i j k : Nat) : (s.clrReg r i j k).tier = s.tier := rfl
@[simp] theorem State.clrReg_chans (r : Reg) (i j k : Nat) : (s.clrReg r i j k).chans = s.chans := rfl
@[simp] theorem State.clrReg_watch (r : Reg) (i j k : Nat) : (s.clrReg r i j k).watch = s.watch := rfl
@[simp] theorem State.clrReg_drives (r : Reg) (i j k : Nat) : (s.clrReg r i j k).drives = s.drives := rfl
@[simp] theorem State.clrReg_xrd (r : Reg) (i j k : Nat) : (s.clrReg r i j k).xrd = s.xrd := rfl
@[simp] theorem State.clrReg_ports (r : Reg) (i j k : Nat) : (s.clrReg r i j k).ports = s.ports := rfl
@[simp] theorem State.clrReg_links (r : Reg) (i j k : Nat) : (s.clrReg r i j k).links = s.links := rfl
@[simp] theorem State.clrReg_keys (r : Reg) (i j k : Nat) : (s.clrReg r i j k).keys = s.keys := rfl
@[simp] theorem State.clrReg_irq (r : Reg) (i j k : Nat) : (s.clrReg r i j k).irq = s.irq := rfl
@[simp] theorem State.clrReg_progs (r : Reg) (i j k : Nat) : (s.clrReg r i j k).progs = s.progs := rfl
@[simp] theorem State.clrReg_loads (r : Reg) (i j k : Nat) : (s.clrReg r i j k).loads = s.loads := rfl
@[simp] theorem State.clrReg_invocs (r : Reg) (i j k : Nat) : (s.clrReg r i j k).invocs = s.invocs := rfl
@[simp] theorem State.clrReg_cells (r : Reg) (i j k : Nat) : (s.clrReg r i j k).cells = s.cells := rfl
@[simp] theorem State.clrReg_ctl (r : Reg) (i j k : Nat) : (s.clrReg r i j k).ctl = s.ctl := rfl
@[simp] theorem State.clrReg_start (r : Reg) (i j k : Nat) : (s.clrReg r i j k).start = s.start := rfl
@[simp] theorem State.clrReg_eld (r : Reg) (i j k : Nat) : (s.clrReg r i j k).eld = s.eld := rfl
@[simp] theorem State.clrReg_pwr (r : Reg) (i j k : Nat) : (s.clrReg r i j k).pwr = s.pwr := rfl

@[simp] theorem State.emit_pending (o : Out) : (s.emit o).pending = s.pending := rfl
@[simp] theorem State.emit_regs (o : Out) : (s.emit o).regs = s.regs := rfl
@[simp] theorem State.emit_mem (o : Out) : (s.emit o).mem = s.mem := rfl
@[simp] theorem State.emit_poison (o : Out) : (s.emit o).poison = s.poison := rfl
@[simp] theorem State.emit_fresh (o : Out) : (s.emit o).fresh = s.fresh := rfl
@[simp] theorem State.emit_extents (o : Out) : (s.emit o).extents = s.extents := rfl
@[simp] theorem State.emit_copies (o : Out) : (s.emit o).copies = s.copies := rfl
@[simp] theorem State.emit_faults (o : Out) : (s.emit o).faults = s.faults := rfl
@[simp] theorem State.emit_vers (o : Out) : (s.emit o).vers = s.vers := rfl
@[simp] theorem State.emit_verRels (o : Out) : (s.emit o).verRels = s.verRels := rfl
@[simp] theorem State.emit_coh (o : Out) : (s.emit o).coh = s.coh := rfl
@[simp] theorem State.emit_sets (o : Out) : (s.emit o).sets = s.sets := rfl
@[simp] theorem State.emit_arming (o : Out) : (s.emit o).arming = s.arming := rfl
@[simp] theorem State.emit_objQ (o : Out) : (s.emit o).objQ = s.objQ := rfl
@[simp] theorem State.emit_oldSets (o : Out) : (s.emit o).oldSets = s.oldSets := rfl
@[simp] theorem State.emit_rings (o : Out) : (s.emit o).rings = s.rings := rfl
@[simp] theorem State.emit_arb (o : Out) : (s.emit o).arb = s.arb := rfl
@[simp] theorem State.emit_arbOwner (o : Out) : (s.emit o).arbOwner = s.arbOwner := rfl
@[simp] theorem State.emit_fetched (o : Out) : (s.emit o).fetched = s.fetched := rfl
@[simp] theorem State.emit_started (o : Out) : (s.emit o).started = s.started := rfl
@[simp] theorem State.emit_heldCpl (o : Out) : (s.emit o).heldCpl = s.heldCpl := rfl
@[simp] theorem State.emit_reqs (o : Out) : (s.emit o).reqs = s.reqs := rfl
@[simp] theorem State.emit_nextReq (o : Out) : (s.emit o).nextReq = s.nextReq := rfl
@[simp] theorem State.emit_flights (o : Out) : (s.emit o).flights = s.flights := rfl
@[simp] theorem State.emit_nextFlight (o : Out) : (s.emit o).nextFlight = s.nextFlight := rfl
@[simp] theorem State.emit_answers (o : Out) : (s.emit o).answers = s.answers := rfl
@[simp] theorem State.emit_tier (o : Out) : (s.emit o).tier = s.tier := rfl
@[simp] theorem State.emit_chans (o : Out) : (s.emit o).chans = s.chans := rfl
@[simp] theorem State.emit_watch (o : Out) : (s.emit o).watch = s.watch := rfl
@[simp] theorem State.emit_drives (o : Out) : (s.emit o).drives = s.drives := rfl
@[simp] theorem State.emit_xrd (o : Out) : (s.emit o).xrd = s.xrd := rfl
@[simp] theorem State.emit_ports (o : Out) : (s.emit o).ports = s.ports := rfl
@[simp] theorem State.emit_links (o : Out) : (s.emit o).links = s.links := rfl
@[simp] theorem State.emit_keys (o : Out) : (s.emit o).keys = s.keys := rfl
@[simp] theorem State.emit_irq (o : Out) : (s.emit o).irq = s.irq := rfl
@[simp] theorem State.emit_progs (o : Out) : (s.emit o).progs = s.progs := rfl
@[simp] theorem State.emit_loads (o : Out) : (s.emit o).loads = s.loads := rfl
@[simp] theorem State.emit_invocs (o : Out) : (s.emit o).invocs = s.invocs := rfl
@[simp] theorem State.emit_cells (o : Out) : (s.emit o).cells = s.cells := rfl
@[simp] theorem State.emit_ctl (o : Out) : (s.emit o).ctl = s.ctl := rfl
@[simp] theorem State.emit_start (o : Out) : (s.emit o).start = s.start := rfl
@[simp] theorem State.emit_eld (o : Out) : (s.emit o).eld = s.eld := rfl
@[simp] theorem State.emit_pwr (o : Out) : (s.emit o).pwr = s.pwr := rfl

@[simp] theorem State.tickFresh_pending : (s.tickFresh).pending = s.pending := rfl
@[simp] theorem State.tickFresh_regs : (s.tickFresh).regs = s.regs := rfl
@[simp] theorem State.tickFresh_mem : (s.tickFresh).mem = s.mem := rfl
@[simp] theorem State.tickFresh_poison : (s.tickFresh).poison = s.poison := rfl
@[simp] theorem State.tickFresh_out : (s.tickFresh).out = s.out := rfl
@[simp] theorem State.tickFresh_extents : (s.tickFresh).extents = s.extents := rfl
@[simp] theorem State.tickFresh_copies : (s.tickFresh).copies = s.copies := rfl
@[simp] theorem State.tickFresh_faults : (s.tickFresh).faults = s.faults := rfl
@[simp] theorem State.tickFresh_vers : (s.tickFresh).vers = s.vers := rfl
@[simp] theorem State.tickFresh_verRels : (s.tickFresh).verRels = s.verRels := rfl
@[simp] theorem State.tickFresh_coh : (s.tickFresh).coh = s.coh := rfl
@[simp] theorem State.tickFresh_sets : (s.tickFresh).sets = s.sets := rfl
@[simp] theorem State.tickFresh_arming : (s.tickFresh).arming = s.arming := rfl
@[simp] theorem State.tickFresh_objQ : (s.tickFresh).objQ = s.objQ := rfl
@[simp] theorem State.tickFresh_oldSets : (s.tickFresh).oldSets = s.oldSets := rfl
@[simp] theorem State.tickFresh_rings : (s.tickFresh).rings = s.rings := rfl
@[simp] theorem State.tickFresh_arb : (s.tickFresh).arb = s.arb := rfl
@[simp] theorem State.tickFresh_arbOwner : (s.tickFresh).arbOwner = s.arbOwner := rfl
@[simp] theorem State.tickFresh_fetched : (s.tickFresh).fetched = s.fetched := rfl
@[simp] theorem State.tickFresh_started : (s.tickFresh).started = s.started := rfl
@[simp] theorem State.tickFresh_heldCpl : (s.tickFresh).heldCpl = s.heldCpl := rfl
@[simp] theorem State.tickFresh_reqs : (s.tickFresh).reqs = s.reqs := rfl
@[simp] theorem State.tickFresh_nextReq : (s.tickFresh).nextReq = s.nextReq := rfl
@[simp] theorem State.tickFresh_flights : (s.tickFresh).flights = s.flights := rfl
@[simp] theorem State.tickFresh_nextFlight : (s.tickFresh).nextFlight = s.nextFlight := rfl
@[simp] theorem State.tickFresh_answers : (s.tickFresh).answers = s.answers := rfl
@[simp] theorem State.tickFresh_tier : (s.tickFresh).tier = s.tier := rfl
@[simp] theorem State.tickFresh_chans : (s.tickFresh).chans = s.chans := rfl
@[simp] theorem State.tickFresh_watch : (s.tickFresh).watch = s.watch := rfl
@[simp] theorem State.tickFresh_drives : (s.tickFresh).drives = s.drives := rfl
@[simp] theorem State.tickFresh_xrd : (s.tickFresh).xrd = s.xrd := rfl
@[simp] theorem State.tickFresh_ports : (s.tickFresh).ports = s.ports := rfl
@[simp] theorem State.tickFresh_links : (s.tickFresh).links = s.links := rfl
@[simp] theorem State.tickFresh_keys : (s.tickFresh).keys = s.keys := rfl
@[simp] theorem State.tickFresh_irq : (s.tickFresh).irq = s.irq := rfl
@[simp] theorem State.tickFresh_progs : (s.tickFresh).progs = s.progs := rfl
@[simp] theorem State.tickFresh_loads : (s.tickFresh).loads = s.loads := rfl
@[simp] theorem State.tickFresh_invocs : (s.tickFresh).invocs = s.invocs := rfl
@[simp] theorem State.tickFresh_cells : (s.tickFresh).cells = s.cells := rfl
@[simp] theorem State.tickFresh_ctl : (s.tickFresh).ctl = s.ctl := rfl
@[simp] theorem State.tickFresh_start : (s.tickFresh).start = s.start := rfl
@[simp] theorem State.tickFresh_eld : (s.tickFresh).eld = s.eld := rfl
@[simp] theorem State.tickFresh_pwr : (s.tickFresh).pwr = s.pwr := rfl

@[simp] theorem State.setByte_pending (a : Nat) (b : Byte) : (s.setByte a b).pending = s.pending := rfl
@[simp] theorem State.setByte_regs (a : Nat) (b : Byte) : (s.setByte a b).regs = s.regs := rfl
@[simp] theorem State.setByte_poison (a : Nat) (b : Byte) : (s.setByte a b).poison = s.poison := rfl
@[simp] theorem State.setByte_out (a : Nat) (b : Byte) : (s.setByte a b).out = s.out := rfl
@[simp] theorem State.setByte_fresh (a : Nat) (b : Byte) : (s.setByte a b).fresh = s.fresh := rfl
@[simp] theorem State.setByte_extents (a : Nat) (b : Byte) : (s.setByte a b).extents = s.extents := rfl
@[simp] theorem State.setByte_copies (a : Nat) (b : Byte) : (s.setByte a b).copies = s.copies := rfl
@[simp] theorem State.setByte_faults (a : Nat) (b : Byte) : (s.setByte a b).faults = s.faults := rfl
@[simp] theorem State.setByte_vers (a : Nat) (b : Byte) : (s.setByte a b).vers = s.vers := rfl
@[simp] theorem State.setByte_verRels (a : Nat) (b : Byte) : (s.setByte a b).verRels = s.verRels := rfl
@[simp] theorem State.setByte_coh (a : Nat) (b : Byte) : (s.setByte a b).coh = s.coh := rfl
@[simp] theorem State.setByte_sets (a : Nat) (b : Byte) : (s.setByte a b).sets = s.sets := rfl
@[simp] theorem State.setByte_arming (a : Nat) (b : Byte) : (s.setByte a b).arming = s.arming := rfl
@[simp] theorem State.setByte_objQ (a : Nat) (b : Byte) : (s.setByte a b).objQ = s.objQ := rfl
@[simp] theorem State.setByte_oldSets (a : Nat) (b : Byte) : (s.setByte a b).oldSets = s.oldSets := rfl
@[simp] theorem State.setByte_rings (a : Nat) (b : Byte) : (s.setByte a b).rings = s.rings := rfl
@[simp] theorem State.setByte_arb (a : Nat) (b : Byte) : (s.setByte a b).arb = s.arb := rfl
@[simp] theorem State.setByte_arbOwner (a : Nat) (b : Byte) : (s.setByte a b).arbOwner = s.arbOwner := rfl
@[simp] theorem State.setByte_fetched (a : Nat) (b : Byte) : (s.setByte a b).fetched = s.fetched := rfl
@[simp] theorem State.setByte_started (a : Nat) (b : Byte) : (s.setByte a b).started = s.started := rfl
@[simp] theorem State.setByte_heldCpl (a : Nat) (b : Byte) : (s.setByte a b).heldCpl = s.heldCpl := rfl
@[simp] theorem State.setByte_reqs (a : Nat) (b : Byte) : (s.setByte a b).reqs = s.reqs := rfl
@[simp] theorem State.setByte_nextReq (a : Nat) (b : Byte) : (s.setByte a b).nextReq = s.nextReq := rfl
@[simp] theorem State.setByte_flights (a : Nat) (b : Byte) : (s.setByte a b).flights = s.flights := rfl
@[simp] theorem State.setByte_nextFlight (a : Nat) (b : Byte) : (s.setByte a b).nextFlight = s.nextFlight := rfl
@[simp] theorem State.setByte_answers (a : Nat) (b : Byte) : (s.setByte a b).answers = s.answers := rfl
@[simp] theorem State.setByte_tier (a : Nat) (b : Byte) : (s.setByte a b).tier = s.tier := rfl
@[simp] theorem State.setByte_chans (a : Nat) (b : Byte) : (s.setByte a b).chans = s.chans := rfl
@[simp] theorem State.setByte_watch (a : Nat) (b : Byte) : (s.setByte a b).watch = s.watch := rfl
@[simp] theorem State.setByte_drives (a : Nat) (b : Byte) : (s.setByte a b).drives = s.drives := rfl
@[simp] theorem State.setByte_xrd (a : Nat) (b : Byte) : (s.setByte a b).xrd = s.xrd := rfl
@[simp] theorem State.setByte_ports (a : Nat) (b : Byte) : (s.setByte a b).ports = s.ports := rfl
@[simp] theorem State.setByte_links (a : Nat) (b : Byte) : (s.setByte a b).links = s.links := rfl
@[simp] theorem State.setByte_keys (a : Nat) (b : Byte) : (s.setByte a b).keys = s.keys := rfl
@[simp] theorem State.setByte_irq (a : Nat) (b : Byte) : (s.setByte a b).irq = s.irq := rfl
@[simp] theorem State.setByte_progs (a : Nat) (b : Byte) : (s.setByte a b).progs = s.progs := rfl
@[simp] theorem State.setByte_loads (a : Nat) (b : Byte) : (s.setByte a b).loads = s.loads := rfl
@[simp] theorem State.setByte_invocs (a : Nat) (b : Byte) : (s.setByte a b).invocs = s.invocs := rfl
@[simp] theorem State.setByte_cells (a : Nat) (b : Byte) : (s.setByte a b).cells = s.cells := rfl
@[simp] theorem State.setByte_ctl (a : Nat) (b : Byte) : (s.setByte a b).ctl = s.ctl := rfl
@[simp] theorem State.setByte_start (a : Nat) (b : Byte) : (s.setByte a b).start = s.start := rfl
@[simp] theorem State.setByte_eld (a : Nat) (b : Byte) : (s.setByte a b).eld = s.eld := rfl
@[simp] theorem State.setByte_pwr (a : Nat) (b : Byte) : (s.setByte a b).pwr = s.pwr := rfl

@[simp] theorem State.setBytes_pending (a : Nat) (bs : List Byte) : (s.setBytes a bs).pending = s.pending := rfl
@[simp] theorem State.setBytes_regs (a : Nat) (bs : List Byte) : (s.setBytes a bs).regs = s.regs := rfl
@[simp] theorem State.setBytes_poison (a : Nat) (bs : List Byte) : (s.setBytes a bs).poison = s.poison := rfl
@[simp] theorem State.setBytes_out (a : Nat) (bs : List Byte) : (s.setBytes a bs).out = s.out := rfl
@[simp] theorem State.setBytes_fresh (a : Nat) (bs : List Byte) : (s.setBytes a bs).fresh = s.fresh := rfl
@[simp] theorem State.setBytes_extents (a : Nat) (bs : List Byte) : (s.setBytes a bs).extents = s.extents := rfl
@[simp] theorem State.setBytes_copies (a : Nat) (bs : List Byte) : (s.setBytes a bs).copies = s.copies := rfl
@[simp] theorem State.setBytes_faults (a : Nat) (bs : List Byte) : (s.setBytes a bs).faults = s.faults := rfl
@[simp] theorem State.setBytes_vers (a : Nat) (bs : List Byte) : (s.setBytes a bs).vers = s.vers := rfl
@[simp] theorem State.setBytes_verRels (a : Nat) (bs : List Byte) : (s.setBytes a bs).verRels = s.verRels := rfl
@[simp] theorem State.setBytes_coh (a : Nat) (bs : List Byte) : (s.setBytes a bs).coh = s.coh := rfl
@[simp] theorem State.setBytes_sets (a : Nat) (bs : List Byte) : (s.setBytes a bs).sets = s.sets := rfl
@[simp] theorem State.setBytes_arming (a : Nat) (bs : List Byte) : (s.setBytes a bs).arming = s.arming := rfl
@[simp] theorem State.setBytes_objQ (a : Nat) (bs : List Byte) : (s.setBytes a bs).objQ = s.objQ := rfl
@[simp] theorem State.setBytes_oldSets (a : Nat) (bs : List Byte) : (s.setBytes a bs).oldSets = s.oldSets := rfl
@[simp] theorem State.setBytes_rings (a : Nat) (bs : List Byte) : (s.setBytes a bs).rings = s.rings := rfl
@[simp] theorem State.setBytes_arb (a : Nat) (bs : List Byte) : (s.setBytes a bs).arb = s.arb := rfl
@[simp] theorem State.setBytes_arbOwner (a : Nat) (bs : List Byte) : (s.setBytes a bs).arbOwner = s.arbOwner := rfl
@[simp] theorem State.setBytes_fetched (a : Nat) (bs : List Byte) : (s.setBytes a bs).fetched = s.fetched := rfl
@[simp] theorem State.setBytes_started (a : Nat) (bs : List Byte) : (s.setBytes a bs).started = s.started := rfl
@[simp] theorem State.setBytes_heldCpl (a : Nat) (bs : List Byte) : (s.setBytes a bs).heldCpl = s.heldCpl := rfl
@[simp] theorem State.setBytes_reqs (a : Nat) (bs : List Byte) : (s.setBytes a bs).reqs = s.reqs := rfl
@[simp] theorem State.setBytes_nextReq (a : Nat) (bs : List Byte) : (s.setBytes a bs).nextReq = s.nextReq := rfl
@[simp] theorem State.setBytes_flights (a : Nat) (bs : List Byte) : (s.setBytes a bs).flights = s.flights := rfl
@[simp] theorem State.setBytes_nextFlight (a : Nat) (bs : List Byte) : (s.setBytes a bs).nextFlight = s.nextFlight := rfl
@[simp] theorem State.setBytes_answers (a : Nat) (bs : List Byte) : (s.setBytes a bs).answers = s.answers := rfl
@[simp] theorem State.setBytes_tier (a : Nat) (bs : List Byte) : (s.setBytes a bs).tier = s.tier := rfl
@[simp] theorem State.setBytes_chans (a : Nat) (bs : List Byte) : (s.setBytes a bs).chans = s.chans := rfl
@[simp] theorem State.setBytes_watch (a : Nat) (bs : List Byte) : (s.setBytes a bs).watch = s.watch := rfl
@[simp] theorem State.setBytes_drives (a : Nat) (bs : List Byte) : (s.setBytes a bs).drives = s.drives := rfl
@[simp] theorem State.setBytes_xrd (a : Nat) (bs : List Byte) : (s.setBytes a bs).xrd = s.xrd := rfl
@[simp] theorem State.setBytes_ports (a : Nat) (bs : List Byte) : (s.setBytes a bs).ports = s.ports := rfl
@[simp] theorem State.setBytes_links (a : Nat) (bs : List Byte) : (s.setBytes a bs).links = s.links := rfl
@[simp] theorem State.setBytes_keys (a : Nat) (bs : List Byte) : (s.setBytes a bs).keys = s.keys := rfl
@[simp] theorem State.setBytes_irq (a : Nat) (bs : List Byte) : (s.setBytes a bs).irq = s.irq := rfl
@[simp] theorem State.setBytes_progs (a : Nat) (bs : List Byte) : (s.setBytes a bs).progs = s.progs := rfl
@[simp] theorem State.setBytes_loads (a : Nat) (bs : List Byte) : (s.setBytes a bs).loads = s.loads := rfl
@[simp] theorem State.setBytes_invocs (a : Nat) (bs : List Byte) : (s.setBytes a bs).invocs = s.invocs := rfl
@[simp] theorem State.setBytes_cells (a : Nat) (bs : List Byte) : (s.setBytes a bs).cells = s.cells := rfl
@[simp] theorem State.setBytes_ctl (a : Nat) (bs : List Byte) : (s.setBytes a bs).ctl = s.ctl := rfl
@[simp] theorem State.setBytes_start (a : Nat) (bs : List Byte) : (s.setBytes a bs).start = s.start := rfl
@[simp] theorem State.setBytes_eld (a : Nat) (bs : List Byte) : (s.setBytes a bs).eld = s.eld := rfl
@[simp] theorem State.setBytes_pwr (a : Nat) (bs : List Byte) : (s.setBytes a bs).pwr = s.pwr := rfl

@[simp] theorem State.zeroRange_pending (lo hi : Nat) : (s.zeroRange lo hi).pending = s.pending := rfl
@[simp] theorem State.zeroRange_regs (lo hi : Nat) : (s.zeroRange lo hi).regs = s.regs := rfl
@[simp] theorem State.zeroRange_out (lo hi : Nat) : (s.zeroRange lo hi).out = s.out := rfl
@[simp] theorem State.zeroRange_fresh (lo hi : Nat) : (s.zeroRange lo hi).fresh = s.fresh := rfl
@[simp] theorem State.zeroRange_extents (lo hi : Nat) : (s.zeroRange lo hi).extents = s.extents := rfl
@[simp] theorem State.zeroRange_copies (lo hi : Nat) : (s.zeroRange lo hi).copies = s.copies := rfl
@[simp] theorem State.zeroRange_faults (lo hi : Nat) : (s.zeroRange lo hi).faults = s.faults := rfl
@[simp] theorem State.zeroRange_vers (lo hi : Nat) : (s.zeroRange lo hi).vers = s.vers := rfl
@[simp] theorem State.zeroRange_verRels (lo hi : Nat) : (s.zeroRange lo hi).verRels = s.verRels := rfl
@[simp] theorem State.zeroRange_coh (lo hi : Nat) : (s.zeroRange lo hi).coh = s.coh := rfl
@[simp] theorem State.zeroRange_sets (lo hi : Nat) : (s.zeroRange lo hi).sets = s.sets := rfl
@[simp] theorem State.zeroRange_arming (lo hi : Nat) : (s.zeroRange lo hi).arming = s.arming := rfl
@[simp] theorem State.zeroRange_objQ (lo hi : Nat) : (s.zeroRange lo hi).objQ = s.objQ := rfl
@[simp] theorem State.zeroRange_oldSets (lo hi : Nat) : (s.zeroRange lo hi).oldSets = s.oldSets := rfl
@[simp] theorem State.zeroRange_rings (lo hi : Nat) : (s.zeroRange lo hi).rings = s.rings := rfl
@[simp] theorem State.zeroRange_arb (lo hi : Nat) : (s.zeroRange lo hi).arb = s.arb := rfl
@[simp] theorem State.zeroRange_arbOwner (lo hi : Nat) : (s.zeroRange lo hi).arbOwner = s.arbOwner := rfl
@[simp] theorem State.zeroRange_fetched (lo hi : Nat) : (s.zeroRange lo hi).fetched = s.fetched := rfl
@[simp] theorem State.zeroRange_started (lo hi : Nat) : (s.zeroRange lo hi).started = s.started := rfl
@[simp] theorem State.zeroRange_heldCpl (lo hi : Nat) : (s.zeroRange lo hi).heldCpl = s.heldCpl := rfl
@[simp] theorem State.zeroRange_reqs (lo hi : Nat) : (s.zeroRange lo hi).reqs = s.reqs := rfl
@[simp] theorem State.zeroRange_nextReq (lo hi : Nat) : (s.zeroRange lo hi).nextReq = s.nextReq := rfl
@[simp] theorem State.zeroRange_flights (lo hi : Nat) : (s.zeroRange lo hi).flights = s.flights := rfl
@[simp] theorem State.zeroRange_nextFlight (lo hi : Nat) : (s.zeroRange lo hi).nextFlight = s.nextFlight := rfl
@[simp] theorem State.zeroRange_answers (lo hi : Nat) : (s.zeroRange lo hi).answers = s.answers := rfl
@[simp] theorem State.zeroRange_tier (lo hi : Nat) : (s.zeroRange lo hi).tier = s.tier := rfl
@[simp] theorem State.zeroRange_chans (lo hi : Nat) : (s.zeroRange lo hi).chans = s.chans := rfl
@[simp] theorem State.zeroRange_watch (lo hi : Nat) : (s.zeroRange lo hi).watch = s.watch := rfl
@[simp] theorem State.zeroRange_drives (lo hi : Nat) : (s.zeroRange lo hi).drives = s.drives := rfl
@[simp] theorem State.zeroRange_xrd (lo hi : Nat) : (s.zeroRange lo hi).xrd = s.xrd := rfl
@[simp] theorem State.zeroRange_ports (lo hi : Nat) : (s.zeroRange lo hi).ports = s.ports := rfl
@[simp] theorem State.zeroRange_links (lo hi : Nat) : (s.zeroRange lo hi).links = s.links := rfl
@[simp] theorem State.zeroRange_keys (lo hi : Nat) : (s.zeroRange lo hi).keys = s.keys := rfl
@[simp] theorem State.zeroRange_irq (lo hi : Nat) : (s.zeroRange lo hi).irq = s.irq := rfl
@[simp] theorem State.zeroRange_progs (lo hi : Nat) : (s.zeroRange lo hi).progs = s.progs := rfl
@[simp] theorem State.zeroRange_loads (lo hi : Nat) : (s.zeroRange lo hi).loads = s.loads := rfl
@[simp] theorem State.zeroRange_invocs (lo hi : Nat) : (s.zeroRange lo hi).invocs = s.invocs := rfl
@[simp] theorem State.zeroRange_cells (lo hi : Nat) : (s.zeroRange lo hi).cells = s.cells := rfl
@[simp] theorem State.zeroRange_ctl (lo hi : Nat) : (s.zeroRange lo hi).ctl = s.ctl := rfl
@[simp] theorem State.zeroRange_start (lo hi : Nat) : (s.zeroRange lo hi).start = s.start := rfl
@[simp] theorem State.zeroRange_eld (lo hi : Nat) : (s.zeroRange lo hi).eld = s.eld := rfl
@[simp] theorem State.zeroRange_pwr (lo hi : Nat) : (s.zeroRange lo hi).pwr = s.pwr := rfl

@[simp] theorem State.setLine_pending (l : Nat) (bs : List Byte) : (s.setLine l bs).pending = s.pending := rfl
@[simp] theorem State.setLine_regs (l : Nat) (bs : List Byte) : (s.setLine l bs).regs = s.regs := rfl
@[simp] theorem State.setLine_out (l : Nat) (bs : List Byte) : (s.setLine l bs).out = s.out := rfl
@[simp] theorem State.setLine_fresh (l : Nat) (bs : List Byte) : (s.setLine l bs).fresh = s.fresh := rfl
@[simp] theorem State.setLine_extents (l : Nat) (bs : List Byte) : (s.setLine l bs).extents = s.extents := rfl
@[simp] theorem State.setLine_copies (l : Nat) (bs : List Byte) : (s.setLine l bs).copies = s.copies := rfl
@[simp] theorem State.setLine_faults (l : Nat) (bs : List Byte) : (s.setLine l bs).faults = s.faults := rfl
@[simp] theorem State.setLine_vers (l : Nat) (bs : List Byte) : (s.setLine l bs).vers = s.vers := rfl
@[simp] theorem State.setLine_verRels (l : Nat) (bs : List Byte) : (s.setLine l bs).verRels = s.verRels := rfl
@[simp] theorem State.setLine_coh (l : Nat) (bs : List Byte) : (s.setLine l bs).coh = s.coh := rfl
@[simp] theorem State.setLine_sets (l : Nat) (bs : List Byte) : (s.setLine l bs).sets = s.sets := rfl
@[simp] theorem State.setLine_arming (l : Nat) (bs : List Byte) : (s.setLine l bs).arming = s.arming := rfl
@[simp] theorem State.setLine_objQ (l : Nat) (bs : List Byte) : (s.setLine l bs).objQ = s.objQ := rfl
@[simp] theorem State.setLine_oldSets (l : Nat) (bs : List Byte) : (s.setLine l bs).oldSets = s.oldSets := rfl
@[simp] theorem State.setLine_rings (l : Nat) (bs : List Byte) : (s.setLine l bs).rings = s.rings := rfl
@[simp] theorem State.setLine_arb (l : Nat) (bs : List Byte) : (s.setLine l bs).arb = s.arb := rfl
@[simp] theorem State.setLine_arbOwner (l : Nat) (bs : List Byte) : (s.setLine l bs).arbOwner = s.arbOwner := rfl
@[simp] theorem State.setLine_fetched (l : Nat) (bs : List Byte) : (s.setLine l bs).fetched = s.fetched := rfl
@[simp] theorem State.setLine_started (l : Nat) (bs : List Byte) : (s.setLine l bs).started = s.started := rfl
@[simp] theorem State.setLine_heldCpl (l : Nat) (bs : List Byte) : (s.setLine l bs).heldCpl = s.heldCpl := rfl
@[simp] theorem State.setLine_reqs (l : Nat) (bs : List Byte) : (s.setLine l bs).reqs = s.reqs := rfl
@[simp] theorem State.setLine_nextReq (l : Nat) (bs : List Byte) : (s.setLine l bs).nextReq = s.nextReq := rfl
@[simp] theorem State.setLine_flights (l : Nat) (bs : List Byte) : (s.setLine l bs).flights = s.flights := rfl
@[simp] theorem State.setLine_nextFlight (l : Nat) (bs : List Byte) : (s.setLine l bs).nextFlight = s.nextFlight := rfl
@[simp] theorem State.setLine_answers (l : Nat) (bs : List Byte) : (s.setLine l bs).answers = s.answers := rfl
@[simp] theorem State.setLine_tier (l : Nat) (bs : List Byte) : (s.setLine l bs).tier = s.tier := rfl
@[simp] theorem State.setLine_chans (l : Nat) (bs : List Byte) : (s.setLine l bs).chans = s.chans := rfl
@[simp] theorem State.setLine_watch (l : Nat) (bs : List Byte) : (s.setLine l bs).watch = s.watch := rfl
@[simp] theorem State.setLine_drives (l : Nat) (bs : List Byte) : (s.setLine l bs).drives = s.drives := rfl
@[simp] theorem State.setLine_xrd (l : Nat) (bs : List Byte) : (s.setLine l bs).xrd = s.xrd := rfl
@[simp] theorem State.setLine_ports (l : Nat) (bs : List Byte) : (s.setLine l bs).ports = s.ports := rfl
@[simp] theorem State.setLine_links (l : Nat) (bs : List Byte) : (s.setLine l bs).links = s.links := rfl
@[simp] theorem State.setLine_keys (l : Nat) (bs : List Byte) : (s.setLine l bs).keys = s.keys := rfl
@[simp] theorem State.setLine_irq (l : Nat) (bs : List Byte) : (s.setLine l bs).irq = s.irq := rfl
@[simp] theorem State.setLine_progs (l : Nat) (bs : List Byte) : (s.setLine l bs).progs = s.progs := rfl
@[simp] theorem State.setLine_loads (l : Nat) (bs : List Byte) : (s.setLine l bs).loads = s.loads := rfl
@[simp] theorem State.setLine_invocs (l : Nat) (bs : List Byte) : (s.setLine l bs).invocs = s.invocs := rfl
@[simp] theorem State.setLine_cells (l : Nat) (bs : List Byte) : (s.setLine l bs).cells = s.cells := rfl
@[simp] theorem State.setLine_ctl (l : Nat) (bs : List Byte) : (s.setLine l bs).ctl = s.ctl := rfl
@[simp] theorem State.setLine_start (l : Nat) (bs : List Byte) : (s.setLine l bs).start = s.start := rfl
@[simp] theorem State.setLine_eld (l : Nat) (bs : List Byte) : (s.setLine l bs).eld = s.eld := rfl
@[simp] theorem State.setLine_pwr (l : Nat) (bs : List Byte) : (s.setLine l bs).pwr = s.pwr := rfl

@[simp] theorem State.poisonLine_pending (l : Nat) : (s.poisonLine l).pending = s.pending := rfl
@[simp] theorem State.poisonLine_regs (l : Nat) : (s.poisonLine l).regs = s.regs := rfl
@[simp] theorem State.poisonLine_out (l : Nat) : (s.poisonLine l).out = s.out := rfl
@[simp] theorem State.poisonLine_fresh (l : Nat) : (s.poisonLine l).fresh = s.fresh := rfl
@[simp] theorem State.poisonLine_extents (l : Nat) : (s.poisonLine l).extents = s.extents := rfl
@[simp] theorem State.poisonLine_copies (l : Nat) : (s.poisonLine l).copies = s.copies := rfl
@[simp] theorem State.poisonLine_faults (l : Nat) : (s.poisonLine l).faults = s.faults := rfl
@[simp] theorem State.poisonLine_vers (l : Nat) : (s.poisonLine l).vers = s.vers := rfl
@[simp] theorem State.poisonLine_verRels (l : Nat) : (s.poisonLine l).verRels = s.verRels := rfl
@[simp] theorem State.poisonLine_coh (l : Nat) : (s.poisonLine l).coh = s.coh := rfl
@[simp] theorem State.poisonLine_sets (l : Nat) : (s.poisonLine l).sets = s.sets := rfl
@[simp] theorem State.poisonLine_arming (l : Nat) : (s.poisonLine l).arming = s.arming := rfl
@[simp] theorem State.poisonLine_objQ (l : Nat) : (s.poisonLine l).objQ = s.objQ := rfl
@[simp] theorem State.poisonLine_oldSets (l : Nat) : (s.poisonLine l).oldSets = s.oldSets := rfl
@[simp] theorem State.poisonLine_rings (l : Nat) : (s.poisonLine l).rings = s.rings := rfl
@[simp] theorem State.poisonLine_arb (l : Nat) : (s.poisonLine l).arb = s.arb := rfl
@[simp] theorem State.poisonLine_arbOwner (l : Nat) : (s.poisonLine l).arbOwner = s.arbOwner := rfl
@[simp] theorem State.poisonLine_fetched (l : Nat) : (s.poisonLine l).fetched = s.fetched := rfl
@[simp] theorem State.poisonLine_started (l : Nat) : (s.poisonLine l).started = s.started := rfl
@[simp] theorem State.poisonLine_heldCpl (l : Nat) : (s.poisonLine l).heldCpl = s.heldCpl := rfl
@[simp] theorem State.poisonLine_reqs (l : Nat) : (s.poisonLine l).reqs = s.reqs := rfl
@[simp] theorem State.poisonLine_nextReq (l : Nat) : (s.poisonLine l).nextReq = s.nextReq := rfl
@[simp] theorem State.poisonLine_flights (l : Nat) : (s.poisonLine l).flights = s.flights := rfl
@[simp] theorem State.poisonLine_nextFlight (l : Nat) : (s.poisonLine l).nextFlight = s.nextFlight := rfl
@[simp] theorem State.poisonLine_answers (l : Nat) : (s.poisonLine l).answers = s.answers := rfl
@[simp] theorem State.poisonLine_tier (l : Nat) : (s.poisonLine l).tier = s.tier := rfl
@[simp] theorem State.poisonLine_chans (l : Nat) : (s.poisonLine l).chans = s.chans := rfl
@[simp] theorem State.poisonLine_watch (l : Nat) : (s.poisonLine l).watch = s.watch := rfl
@[simp] theorem State.poisonLine_drives (l : Nat) : (s.poisonLine l).drives = s.drives := rfl
@[simp] theorem State.poisonLine_xrd (l : Nat) : (s.poisonLine l).xrd = s.xrd := rfl
@[simp] theorem State.poisonLine_ports (l : Nat) : (s.poisonLine l).ports = s.ports := rfl
@[simp] theorem State.poisonLine_links (l : Nat) : (s.poisonLine l).links = s.links := rfl
@[simp] theorem State.poisonLine_keys (l : Nat) : (s.poisonLine l).keys = s.keys := rfl
@[simp] theorem State.poisonLine_irq (l : Nat) : (s.poisonLine l).irq = s.irq := rfl
@[simp] theorem State.poisonLine_progs (l : Nat) : (s.poisonLine l).progs = s.progs := rfl
@[simp] theorem State.poisonLine_loads (l : Nat) : (s.poisonLine l).loads = s.loads := rfl
@[simp] theorem State.poisonLine_invocs (l : Nat) : (s.poisonLine l).invocs = s.invocs := rfl
@[simp] theorem State.poisonLine_cells (l : Nat) : (s.poisonLine l).cells = s.cells := rfl
@[simp] theorem State.poisonLine_ctl (l : Nat) : (s.poisonLine l).ctl = s.ctl := rfl
@[simp] theorem State.poisonLine_start (l : Nat) : (s.poisonLine l).start = s.start := rfl
@[simp] theorem State.poisonLine_eld (l : Nat) : (s.poisonLine l).eld = s.eld := rfl
@[simp] theorem State.poisonLine_pwr (l : Nat) : (s.poisonLine l).pwr = s.pwr := rfl

@[simp] theorem State.setExt_pending (b : Nat) (e : Ext) : (s.setExt b e).pending = s.pending := rfl
@[simp] theorem State.setExt_regs (b : Nat) (e : Ext) : (s.setExt b e).regs = s.regs := rfl
@[simp] theorem State.setExt_mem (b : Nat) (e : Ext) : (s.setExt b e).mem = s.mem := rfl
@[simp] theorem State.setExt_poison (b : Nat) (e : Ext) : (s.setExt b e).poison = s.poison := rfl
@[simp] theorem State.setExt_out (b : Nat) (e : Ext) : (s.setExt b e).out = s.out := rfl
@[simp] theorem State.setExt_fresh (b : Nat) (e : Ext) : (s.setExt b e).fresh = s.fresh := rfl
@[simp] theorem State.setExt_copies (b : Nat) (e : Ext) : (s.setExt b e).copies = s.copies := rfl
@[simp] theorem State.setExt_faults (b : Nat) (e : Ext) : (s.setExt b e).faults = s.faults := rfl
@[simp] theorem State.setExt_vers (b : Nat) (e : Ext) : (s.setExt b e).vers = s.vers := rfl
@[simp] theorem State.setExt_verRels (b : Nat) (e : Ext) : (s.setExt b e).verRels = s.verRels := rfl
@[simp] theorem State.setExt_coh (b : Nat) (e : Ext) : (s.setExt b e).coh = s.coh := rfl
@[simp] theorem State.setExt_sets (b : Nat) (e : Ext) : (s.setExt b e).sets = s.sets := rfl
@[simp] theorem State.setExt_arming (b : Nat) (e : Ext) : (s.setExt b e).arming = s.arming := rfl
@[simp] theorem State.setExt_objQ (b : Nat) (e : Ext) : (s.setExt b e).objQ = s.objQ := rfl
@[simp] theorem State.setExt_oldSets (b : Nat) (e : Ext) : (s.setExt b e).oldSets = s.oldSets := rfl
@[simp] theorem State.setExt_rings (b : Nat) (e : Ext) : (s.setExt b e).rings = s.rings := rfl
@[simp] theorem State.setExt_arb (b : Nat) (e : Ext) : (s.setExt b e).arb = s.arb := rfl
@[simp] theorem State.setExt_arbOwner (b : Nat) (e : Ext) : (s.setExt b e).arbOwner = s.arbOwner := rfl
@[simp] theorem State.setExt_fetched (b : Nat) (e : Ext) : (s.setExt b e).fetched = s.fetched := rfl
@[simp] theorem State.setExt_started (b : Nat) (e : Ext) : (s.setExt b e).started = s.started := rfl
@[simp] theorem State.setExt_heldCpl (b : Nat) (e : Ext) : (s.setExt b e).heldCpl = s.heldCpl := rfl
@[simp] theorem State.setExt_reqs (b : Nat) (e : Ext) : (s.setExt b e).reqs = s.reqs := rfl
@[simp] theorem State.setExt_nextReq (b : Nat) (e : Ext) : (s.setExt b e).nextReq = s.nextReq := rfl
@[simp] theorem State.setExt_flights (b : Nat) (e : Ext) : (s.setExt b e).flights = s.flights := rfl
@[simp] theorem State.setExt_nextFlight (b : Nat) (e : Ext) : (s.setExt b e).nextFlight = s.nextFlight := rfl
@[simp] theorem State.setExt_answers (b : Nat) (e : Ext) : (s.setExt b e).answers = s.answers := rfl
@[simp] theorem State.setExt_tier (b : Nat) (e : Ext) : (s.setExt b e).tier = s.tier := rfl
@[simp] theorem State.setExt_chans (b : Nat) (e : Ext) : (s.setExt b e).chans = s.chans := rfl
@[simp] theorem State.setExt_watch (b : Nat) (e : Ext) : (s.setExt b e).watch = s.watch := rfl
@[simp] theorem State.setExt_drives (b : Nat) (e : Ext) : (s.setExt b e).drives = s.drives := rfl
@[simp] theorem State.setExt_xrd (b : Nat) (e : Ext) : (s.setExt b e).xrd = s.xrd := rfl
@[simp] theorem State.setExt_ports (b : Nat) (e : Ext) : (s.setExt b e).ports = s.ports := rfl
@[simp] theorem State.setExt_links (b : Nat) (e : Ext) : (s.setExt b e).links = s.links := rfl
@[simp] theorem State.setExt_keys (b : Nat) (e : Ext) : (s.setExt b e).keys = s.keys := rfl
@[simp] theorem State.setExt_irq (b : Nat) (e : Ext) : (s.setExt b e).irq = s.irq := rfl
@[simp] theorem State.setExt_progs (b : Nat) (e : Ext) : (s.setExt b e).progs = s.progs := rfl
@[simp] theorem State.setExt_loads (b : Nat) (e : Ext) : (s.setExt b e).loads = s.loads := rfl
@[simp] theorem State.setExt_invocs (b : Nat) (e : Ext) : (s.setExt b e).invocs = s.invocs := rfl
@[simp] theorem State.setExt_cells (b : Nat) (e : Ext) : (s.setExt b e).cells = s.cells := rfl
@[simp] theorem State.setExt_ctl (b : Nat) (e : Ext) : (s.setExt b e).ctl = s.ctl := rfl
@[simp] theorem State.setExt_start (b : Nat) (e : Ext) : (s.setExt b e).start = s.start := rfl
@[simp] theorem State.setExt_eld (b : Nat) (e : Ext) : (s.setExt b e).eld = s.eld := rfl
@[simp] theorem State.setExt_pwr (b : Nat) (e : Ext) : (s.setExt b e).pwr = s.pwr := rfl

@[simp] theorem State.emit_out (o : Out) : (s.emit o).out = o :: s.out := rfl
@[simp] theorem State.tickFresh_fresh : s.tickFresh.fresh = s.fresh + 1 := rfl

end Sys2Proof.Machine
end

