-- ==== Sys2Proof/Laws/Registers.lean ====
section
/-!
SUPPORT. Sys2Proof/Laws/Registers.lean: what a register and a field read as after one of them is written.
-/
namespace Sys2Proof.Machine

/-! ## Bit fields -/

theorem fld_lt (x lo w : Nat) : fld x lo w < 2 ^ w := Nat.mod_lt _ (Nat.two_pow_pos w)

theorem fld_testBit (x lo w i : Nat) : (fld x lo w).testBit i = (decide (i < w) && x.testBit (lo + i)) := by
  rw [fld, Nat.testBit_mod_two_pow, Nat.testBit_div_two_pow, Nat.add_comm]

/-- Fields are equal whose bits are equal. -/
theorem fld_congr {x y lo w : Nat} (h : ∀ i, lo ≤ i → i < lo + w → x.testBit i = y.testBit i) : fld x lo w = fld y lo w := by
  apply Nat.eq_of_testBit_eq
  intro i
  rw [fld_testBit, fld_testBit]
  by_cases hi : i < w
  · rw [h (lo + i) (by omega) (by omega)]
  · simp [hi]

/-- A number is its bits below a field, the field, and its bits above. -/
theorem split_fld (x lo w : Nat) : x = x / 2 ^ (lo + w) * 2 ^ (lo + w) + fld x lo w * 2 ^ lo + x % 2 ^ lo := by
  have h1 := Nat.div_add_mod x (2 ^ lo)
  have h2 := Nat.div_add_mod (x / 2 ^ lo) (2 ^ w)
  rw [Nat.div_div_eq_div_mul, ← pow_add] at h2
  unfold fld
  rw [pow_add] at h2 ⊢
  have h3 := congrArg (2 ^ lo * ·) h2
  rw [Nat.mul_add] at h3
  have h4 : 2 ^ lo * (2 ^ w * (x / (2 ^ lo * 2 ^ w))) = x / (2 ^ lo * 2 ^ w) * (2 ^ lo * 2 ^ w) := by ring
  have h5 : 2 ^ lo * (x / 2 ^ lo % 2 ^ w) = x / 2 ^ lo % 2 ^ w * 2 ^ lo := Nat.mul_comm _ _
  omega

theorem setFld_eq (x lo w v : Nat) :
    setFld x lo w v = x / 2 ^ (lo + w) * 2 ^ (lo + w) + v % 2 ^ w * 2 ^ lo + x % 2 ^ lo := by
  have h := split_fld x lo w
  unfold setFld
  omega

/-- Bit `i` of a number after a field of it is set. -/
theorem setFld_testBit (x lo w v i : Nat) :
    (setFld x lo w v).testBit i = if lo ≤ i ∧ i < lo + w then v.testBit (i - lo) else x.testBit i := by
  have hm : x % 2 ^ lo < 2 ^ lo := Nat.mod_lt _ (Nat.two_pow_pos lo)
  have hv : v % 2 ^ w < 2 ^ w := Nat.mod_lt _ (Nat.two_pow_pos w)
  have e : setFld x lo w v = 2 ^ lo * (2 ^ w * (x / 2 ^ (lo + w)) + v % 2 ^ w) + x % 2 ^ lo := by
    rw [setFld_eq, pow_add]; ring
  rw [e, Nat.testBit_two_pow_mul_add _ hm]
  split
  · next h =>
    rw [if_neg (by omega), Nat.testBit_mod_two_pow]
    simp [h]
  · next h =>
    rw [Nat.testBit_two_pow_mul_add _ hv]
    split
    · next g =>
      rw [if_pos (by omega), Nat.testBit_mod_two_pow]
      simp [g]
    · next g =>
      rw [if_neg (by omega), Nat.testBit_div_two_pow]
      congr 1
      omega

/-- A field that has just been set. -/
theorem fld_setFld_self (x lo w v : Nat) : fld (setFld x lo w v) lo w = v % 2 ^ w := by
  apply Nat.eq_of_testBit_eq
  intro i
  rw [fld_testBit, setFld_testBit, Nat.testBit_mod_two_pow]
  by_cases hi : i < w
  · rw [if_pos (by omega)]; simp [hi]
  · simp [hi]

/-- A field that does not overlap the one set. -/
theorem fld_setFld_ne (x lo w v lo' w' : Nat) (h : lo' + w' ≤ lo ∨ lo + w ≤ lo') :
    fld (setFld x lo w v) lo' w' = fld x lo' w' :=
  fld_congr fun i h1 h2 => by rw [setFld_testBit, if_neg (by omega)]

theorem setFld_lt (x lo w v : Nat) (hx : x < 2 ^ 64) (hw : lo + w ≤ 64) : setFld x lo w v < 2 ^ 64 := by
  apply Nat.lt_pow_two_of_testBit
  intro i hi
  rw [setFld_testBit, if_neg (by omega)]
  exact Nat.testBit_lt_two_pow (Nat.lt_of_lt_of_le hx (Nat.pow_le_pow_right (by decide) hi))

/-! ## Registers -/

theorem toW_toNat (n : Nat) : (toW n).toNat = n % 2 ^ 64 := BitVec.toNat_ofNat n 64

/-- A register that has just been set. -/
theorem rdReg_wrReg_self (s : State) (r : Reg) (i j k v : Nat) (h : ksorted s.regs = true) (hr : r.rvAt i < 2 ^ 64) :
    (s.wrReg r i j k v).rdReg r i j k = v % 2 ^ 64 := by
  have hk := kgetD_kset_self (toW (r.rvAt i)) (r.addr i j k) (toW v) s.regs h
  unfold kgetD at hk
  unfold State.rdReg State.wrReg
  dsimp only
  cases hg : kget (r.addr i j k) (kset (toW (r.rvAt i)) (r.addr i j k) (toW v) s.regs) with
  | some w =>
    rw [hg] at hk
    have hk : w = toW v := hk
    dsimp only
    rw [hk, toW_toNat]
  | none =>
    rw [hg] at hk
    have hk : toW (r.rvAt i) = toW v := hk
    dsimp only
    rw [← toW_toNat, ← hk, toW_toNat, Nat.mod_eq_of_lt hr]

/-- Another register, after one is set. -/
theorem rdReg_wrReg_ne (s : State) (r r' : Reg) (i j k i' j' k' v : Nat) (h : ksorted s.regs = true)
    (ha : r'.addr i' j' k' ≠ r.addr i j k) : (s.wrReg r i j k v).rdReg r' i' j' k' = s.rdReg r' i' j' k' := by
  have hk : kget (r'.addr i' j' k') (s.wrReg r i j k v).regs = kget (r'.addr i' j' k') s.regs := by
    show kget _ (kset _ _ _ s.regs) = _
    unfold kset
    split
    · exact kget_kdel_ne s.regs h ha
    · exact kget_kput_ne _ s.regs h ha
  unfold State.rdReg
  rw [hk]

theorem rvAt_lt {r : Reg} (h : r.rv < 2 ^ 64) (i : Nat) : r.rvAt i < 2 ^ 64 := by
  unfold Reg.rvAt
  split
  · decide
  · split
    · decide
    · exact h

theorem rdReg_lt (s : State) (r : Reg) (i j k : Nat) (hr : r.rvAt i < 2 ^ 64) : s.rdReg r i j k < 2 ^ 64 := by
  unfold State.rdReg
  split
  · exact BitVec.isLt _
  · exact hr

theorem wrReg_sorted (s : State) (r : Reg) (i j k v : Nat) (h : ksorted s.regs = true) :
    ksorted (s.wrReg r i j k v).regs = true := ksorted_kset _ _ _ _ h

theorem wr_sorted (s : State) (f : Fld) (v i j k : Nat) (h : ksorted s.regs = true) :
    ksorted (s.wr f v i j k).regs = true := ksorted_kset _ _ _ _ h

/-- A field that has just been written. -/
theorem rd_wr_self (s : State) (f : Fld) (v i j k : Nat) (h : ksorted s.regs = true) (hr : f.reg.rvAt i < 2 ^ 64)
    (hw : f.lo + f.w ≤ 64) : (s.wr f v i j k).rd f i j k = v % 2 ^ f.w := by
  unfold State.rd State.wr
  rw [rdReg_wrReg_self s f.reg i j k _ h hr, Nat.mod_eq_of_lt (setFld_lt _ _ _ _ (rdReg_lt s _ _ _ _ hr) hw),
    fld_setFld_self]

/-- Another field of the same register, after one is written. -/
theorem rd_wr_field (s : State) (f g : Fld) (v i j k : Nat) (h : ksorted s.regs = true) (hr : f.reg.rvAt i < 2 ^ 64)
    (hw : f.lo + f.w ≤ 64) (hg : g.reg = f.reg) (hd : g.lo + g.w ≤ f.lo ∨ f.lo + f.w ≤ g.lo) :
    (s.wr f v i j k).rd g i j k = s.rd g i j k := by
  unfold State.rd State.wr
  rw [hg, rdReg_wrReg_self s f.reg i j k _ h hr, Nat.mod_eq_of_lt (setFld_lt _ _ _ _ (rdReg_lt s _ _ _ _ hr) hw),
    fld_setFld_ne _ _ _ _ _ _ hd]

/-- A field of another register, after one is written. -/
theorem rd_wr_ne (s : State) (f g : Fld) (v i j k i' j' k' : Nat) (h : ksorted s.regs = true)
    (ha : g.reg.addr i' j' k' ≠ f.reg.addr i j k) : (s.wr f v i j k).rd g i' j' k' = s.rd g i' j' k' := by
  unfold State.rd State.wr
  rw [rdReg_wrReg_ne s f.reg g.reg i j k i' j' k' _ h ha]

end Sys2Proof.Machine
end

