-- ==== Sys2Proof/Laws/Frames.lean ====
section
/-!
SUPPORT. Sys2Proof/Laws/Frames.lean: what register operations leave alone, in the words of Safety.lean, and the fabric time after
it is set.
-/
namespace Sys2Proof.Machine

theorem regsKept_refl (s : State) (l : List Nat) : regsKept s s l := fun _ _ _ _ _ => rfl

theorem regsKept_trans {s t u : State} {l : List Nat} (h : regsKept s t l) (h' : regsKept t u l) : regsKept s u l :=
  fun r i j k hn => (h' r i j k hn).trans (h r i j k hn)

theorem regsKept_mono {s t : State} {l l' : List Nat} (h : regsKept s t l) (hl : l ⊆ l') : regsKept s t l' :=
  fun r i j k hn => h r i j k fun hm => hn (hl hm)

/-- Registers read alike where the register files are equal. -/
theorem regsKept_of_regs {s t : State} (l : List Nat) (h : t.regs = s.regs) : regsKept s t l := by
  intro r i j k _
  unfold State.rdReg
  rw [h]

theorem regsKept_wrReg (s : State) (r : Reg) (i j k v : Nat) {l : List Nat} (h : ksorted s.regs = true)
    (hl : r.addr i j k ∈ l) : regsKept s (s.wrReg r i j k v) l :=
  fun _ _ _ _ hn => rdReg_wrReg_ne _ _ _ _ _ _ _ _ _ _ h fun e => hn (e ▸ hl)

theorem regsKept_wr (s : State) (f : Fld) (v i j k : Nat) {l : List Nat} (h : ksorted s.regs = true)
    (hl : f.reg.addr i j k ∈ l) : regsKept s (s.wr f v i j k) l := regsKept_wrReg _ _ _ _ _ _ h hl

theorem onlyRegs_refl (s : State) (l : List Nat) : onlyRegs s s l := ⟨rfl, regsKept_refl s l⟩

theorem onlyRegs_trans {s t u : State} {l : List Nat} (h : onlyRegs s t l) (h' : onlyRegs t u l) : onlyRegs s u l :=
  ⟨by rw [h'.1, h.1], regsKept_trans h.2 h'.2⟩

theorem onlyRegs_wrReg (s : State) (r : Reg) (i j k v : Nat) {l : List Nat} (h : ksorted s.regs = true)
    (hl : r.addr i j k ∈ l) : onlyRegs s (s.wrReg r i j k v) l := ⟨rfl, regsKept_wrReg s r i j k v h hl⟩

theorem onlyRegs_wr (s : State) (f : Fld) (v i j k : Nat) {l : List Nat} (h : ksorted s.regs = true)
    (hl : f.reg.addr i j k ∈ l) : onlyRegs s (s.wr f v i j k) l := ⟨rfl, regsKept_wr s f v i j k h hl⟩

/-- A register that has just been cleared reads zero. -/
theorem rdReg_clrReg_self (s : State) (r : Reg) (i j k : Nat) (h : ksorted s.regs = true) (hr : r.rvAt i < 2 ^ 64) :
    (s.clrReg r i j k).rdReg r i j k = 0 := rdReg_wrReg_self s r i j k 0 h hr

/-- A write of PF0 while its registers answer. -/
theorem atPf0_open {s : State} (t : State) (h : pf0Open s = true) : atPf0 s t = t := by
  unfold pf0Open at h
  unfold atPf0
  rw [h]
  rfl

theorem now_setTime (s : State) (n : Nat) (h : ksorted s.regs = true) : (setTime s n).now = n % 2 ^ 64 := by
  show State.rdReg (s.wrReg XRD_TIME.reg 0 0 0 (n % 2 ^ 64)) XRD_TIME.reg 0 0 0 = _
  rw [rdReg_wrReg_self _ _ _ _ _ _ h (by decide)]
  simp

end Sys2Proof.Machine
end

