-- ==== Sys2Proof/Laws/KeepMemory.lean ====
section
/-!
SUPPORT. Sys2Proof/Laws/KeepMemory.lean: a closed property is kept by each operation of registers, events, memory and the tiers below.
-/
namespace Sys2Proof.Machine

variable {P : State → Prop}

theorem State.wrReg_keeps (K : Regular P) (s : State) (r : Reg) (i j k v : Nat) (h : P s) : P (State.wrReg s r i j k v) := by
  exact K.regs s _ h (ksorted_kset _ _ _ _)

theorem State.wr_keeps (K : Regular P) (s : State) (f : Fld) (v i j k : Nat) (h : P s) : P (State.wr s f v i j k) := by
  unfold State.wr
  repeat' first | with_reducible assumption | with_reducible apply State.wrReg_keeps K

theorem State.count_keeps (K : Regular P) (s : State) (f : Fld) (i j k d : Nat) (h : P s) : P (State.count s f i j k d) := by
  unfold State.count
  repeat' first | with_reducible assumption | with_reducible apply State.wr_keeps K

theorem State.countDown_keeps (K : Regular P) (s : State) (f : Fld) (i j k : Nat) (h : P s) : P (State.countDown s f i j k) := by
  unfold State.countDown
  repeat' first | with_reducible assumption | with_reducible apply State.wr_keeps K

theorem State.clrReg_keeps (K : Regular P) (s : State) (r : Reg) (i j k : Nat) (h : P s) : P (State.clrReg s r i j k) := by
  unfold State.clrReg
  repeat' first | with_reducible assumption | with_reducible apply State.wrReg_keeps K

theorem State.emit_keeps (K : Regular P) (s : State) (o : Out) (h : P s) : P (State.emit s o) := by
  unfold State.emit
  repeat' first | with_reducible assumption | fail_if_no_progress with_reducible refine K.lit ?_

theorem State.tickFresh_keeps (K : Regular P) (s : State) (h : P s) : P (State.tickFresh s) := by
  unfold State.tickFresh
  repeat' first | with_reducible assumption | fail_if_no_progress with_reducible refine K.lit ?_

theorem State.zeroRange_keeps (K : Closed P) (s : State) (lo hi : Nat) (h : P s) : P (State.zeroRange s lo hi) := by
  exact K.zeroRange s lo hi h

theorem State.setLine_keeps (K : Closed P) (s : State) (l : Nat) (bs : List Byte) (h : P s) : P (State.setLine s l bs) := by
  exact K.setLine s l bs h

theorem State.poisonLine_keeps (K : Closed P) (s : State) (l : Nat) (h : P s) : P (State.poisonLine s l) := by
  exact K.poisonLine s l h

theorem State.setExt_keeps (K : Regular P) (s : State) (b : Nat) (e : Ext) (h : P s) : P (State.setExt s b e) := by
  unfold State.setExt
  repeat' first | with_reducible assumption | fail_if_no_progress with_reducible refine K.lit ?_

theorem floorSlice_keeps (K : Regular P) (s : State) (i : Nat) (h : P s) : P (floorSlice s i) := by
  unfold floorSlice
  repeat' first | with_reducible assumption | with_reducible apply State.wr_keeps K | split

theorem floorWard_keeps (K : Regular P) (s : State) (w : Nat) (h : P s) : P (floorWard s w) := by
  unfold floorWard
  repeat' first
    | with_reducible assumption | with_reducible apply State.wr_keeps K | with_reducible apply ite_keeps

theorem floorSync_keeps (K : Regular P) (s : State) (h : P s) : P (floorSync s) := by
  unfold floorSync
  repeat' first
    | with_reducible assumption | with_reducible apply floorWard_keeps K | with_reducible apply floorSlice_keeps K
    | with_reducible apply State.wr_keeps K | with_reducible apply foldl_keeps | with_reducible apply ite_keeps

theorem wakeScope_keeps (K : Regular P) (s : State) (scope cause : Nat) (h : P s) : P (wakeScope s scope cause) := by
  unfold wakeScope
  repeat' first
    | with_reducible assumption | with_reducible apply ite_keeps
    | fail_if_no_progress with_reducible refine K.lit ?_

theorem wakeWhere_keeps (K : Regular P) (s : State) (cause : Nat) (f : Nat → Bool) (h : P s) : P (wakeWhere s cause f) := by
  unfold wakeWhere
  repeat' first
    | with_reducible assumption | intro _ | with_reducible apply wakeScope_keeps K
    | with_reducible apply foldl_keeps

theorem wakeSource_keeps (K : Regular P) (s : State) (src : Nat) (h : P s) : P (wakeSource s src) := by
  unfold wakeSource
  repeat' first
    | with_reducible assumption | with_reducible apply wakeWhere_keeps K | with_reducible apply ite_keeps

theorem irqRaise_keeps (K : Regular P) (s0 : State) (src : Nat) (h : P s0) : P (irqRaise s0 src) := by
  unfold irqRaise
  repeat' first
    | with_reducible assumption | with_reducible apply wakeSource_keeps K | with_reducible apply State.count_keeps K
    | with_reducible apply State.wr_keeps K | with_reducible apply ite_keeps

theorem bankRaise_keeps (K : Regular P) (s : State) (core src : Nat) (h : P s) : P (bankRaise s core src) := by
  unfold bankRaise
  repeat' first
    | with_reducible assumption | with_reducible apply State.count_keeps K | with_reducible apply ite_keeps
    | fail_if_no_progress with_reducible refine K.lit ?_

theorem State.setRingX_keeps (K : Regular P) (s : State) (i : Nat) (x : RingX) (h : P s) : P (State.setRingX s i x) := by
  unfold State.setRingX
  repeat' first | with_reducible assumption | fail_if_no_progress with_reducible refine K.lit ?_

theorem notifyLoc0_keeps (K : Regular P) (s : State) (i : Nat) (h : P s) : P (notifyLoc0 s i) := by
  unfold notifyLoc0
  repeat' first
    | with_reducible assumption | with_reducible apply irqRaise_keeps K | with_reducible apply State.count_keeps K
    | with_reducible apply ite_keeps

theorem pendLoc0_keeps (K : Regular P) (s : State) (i : Nat) (h : P s) : P (pendLoc0 s i) := by
  unfold pendLoc0
  repeat' first
    | with_reducible assumption | with_reducible apply notifyLoc0_keeps K
    | with_reducible apply State.setRingX_keeps K | with_reducible apply ite_keeps

theorem putRecord0_keeps (K : Regular P) (s : State) (i : Nat) (ws : List Word) (h : P s) : P (putRecord0 s i ws) := by
  unfold putRecord0
  repeat' first
    | with_reducible assumption | with_reducible apply State.emit_keeps K | with_reducible apply pendLoc0_keeps K
    | with_reducible apply State.wr_keeps K

theorem flushLost0_keeps (K : Regular P) (s : State) (i : Nat) (h : P s) : P (flushLost0 s i) := by
  unfold flushLost0
  repeat' first
    | with_reducible assumption | with_reducible apply putRecord0_keeps K
    | with_reducible apply State.setRingX_keeps K | with_reducible apply ite_keeps

theorem dropRecord_keeps (K : Regular P) (s : State) (i : Nat) (h : P s) : P (dropRecord s i) := by
  unfold dropRecord
  repeat' first
    | with_reducible assumption | with_reducible apply State.count_keeps K
    | with_reducible apply State.setRingX_keeps K

theorem failedWrite_keeps (K : Regular P) (s : State) (i : Nat) (h : P s) : P (failedWrite s i) := by
  unfold failedWrite
  repeat' first
    | with_reducible assumption | with_reducible apply State.wr_keeps K | with_reducible apply State.count_keeps K

theorem record0_keeps (K : Regular P) (x0 : Nat) (x1 : State) (x2 : Nat) (x3 : List Word) (h : P x1) : P (record0 x0 x1 x2 x3) := by
  induction x0 generalizing x1 x2 x3 with
  | zero => exact h
  | succ n ih =>
    rw [record0]
    split
    · exact h
    · split
      · exact dropRecord_keeps K _ _ h
      · split
        · dsimp only
          cases primaryRing (failedWrite x1 x2) 3 (ringOwner (failedWrite x1 x2) x2) with
          | none => exact failedWrite_keeps K _ _ h
          | some e => exact ih _ _ _ (failedWrite_keeps K _ _ h)
        · dsimp only
          split
          · exact putRecord0_keeps K _ _ _ (flushLost0_keeps K _ _ h)
          · exact dropRecord_keeps K _ _ (flushLost0_keeps K _ _ h)

theorem evOwner_keeps (K : Regular P) (s : State) (owner part code a0 a1 a2 : Nat) (h : P s) : P (evOwner s owner part code a0 a1 a2) := by
  unfold evOwner
  repeat' first | with_reducible assumption | with_reducible apply record0_keeps K | split

theorem evPf0_keeps (K : Regular P) (s : State) (code a0 a1 a2 part : Nat) (h : P s) : P (evPf0 s code a0 a1 a2 part) := by
  unfold evPf0
  repeat' first | with_reducible assumption | with_reducible apply evOwner_keeps K

theorem evPart_keeps (K : Regular P) (s : State) (p code a0 a1 a2 : Nat) (h : P s) : P (evPart s p code a0 a1 a2) := by
  unfold evPart
  repeat' first | with_reducible assumption | with_reducible apply evOwner_keeps K

theorem faultRecord_keeps (K : Regular P) (s : State) (owner : Nat) (ws : List Word) (h : P s) : P (faultRecord s owner ws).1 := by
  unfold faultRecord
  repeat' first | with_reducible assumption | with_reducible apply record0_keeps K | split

theorem State.setPortQ_keeps (K : Regular P) (s : State) (n : Nat) (q : PortQ) (h : P s) : P (State.setPortQ s n q) := by
  unfold State.setPortQ
  repeat' first | with_reducible assumption | fail_if_no_progress with_reducible refine K.lit ?_

theorem countOld_keeps (K : Regular P) (s : State) (h : P s) : P (countOld s) := by
  unfold countOld
  repeat' first | with_reducible assumption | with_reducible apply State.wr_keeps K

theorem enqueue_keeps (K : Regular P) (s : State) (n flow inPort : Nat) (yellow copy : Bool) (p : Pkt) (h : P s) : P (enqueue s n flow inPort yellow copy p) := by
  unfold enqueue
  repeat' first
    | with_reducible assumption | with_reducible apply State.count_keeps K | with_reducible apply countOld_keeps K
    | with_reducible apply State.setPortQ_keeps K | with_reducible apply ite_keeps

theorem countNoRoute_keeps (K : Regular P) (s : State) (inPort : Nat) (h : P s) : P (countNoRoute s inPort) := by
  unfold countNoRoute
  repeat' first
    | with_reducible assumption | with_reducible apply State.count_keeps K | with_reducible apply ite_keeps

theorem routeUnicast_keeps (K : Regular P) (s : State) (flow inPort : Nat) (yellow : Bool) (p : Pkt) (h : P s) : P (routeUnicast s flow inPort yellow p) := by
  unfold routeUnicast
  repeat' first
    | with_reducible assumption | with_reducible apply countNoRoute_keeps K | with_reducible apply enqueue_keeps K
    | split

theorem fanOut_keeps (K : Regular P) (s : State) (fan flow inPort : Nat) (yellow : Bool) (p : Pkt) (h : P s) : P (fanOut s fan flow inPort yellow p) := by
  unfold fanOut
  repeat' first
    | with_reducible assumption | intro _ | with_reducible apply enqueue_keeps K
    | with_reducible apply countNoRoute_keeps K | with_reducible apply foldl_keeps | with_reducible apply ite_keeps

theorem sendOrig_keeps (K : Regular P) (s : State) (flow : Nat) (p : Pkt) (h : P s) : P (sendOrig s flow p) := by
  unfold sendOrig
  repeat' first
    | with_reducible assumption | with_reducible apply routeUnicast_keeps K | with_reducible apply fanOut_keeps K
    | with_reducible apply ite_keeps | fail_if_no_progress with_reducible refine K.lit ?_

theorem retireSlot_keeps (K : Regular P) (s : State) (k cause : Nat) (h : P s) : P (retireSlot s k cause) := by
  unfold retireSlot
  repeat' first
    | with_reducible assumption | with_reducible apply State.wr_keeps K | with_reducible apply State.count_keeps K
    | with_reducible apply State.countDown_keeps K | with_reducible apply evPf0_keeps K

theorem sealOut_keeps (K : Regular P) (s : State) (p : Pkt) (h : P s) : ∀ t y, sealOut s p = some (t, y) → P t := by
  intro t y e
  unfold sealOut at e
  extract_lets k t1 t2 at e
  have h2 : P t2 := by
    show P (if _ then _ else _)
    split
    · exact retireSlot_keeps K _ _ _ (State.count_keeps K _ _ _ _ _ _ h)
    · exact State.count_keeps K _ _ _ _ _ _ h
  split at e
  · injection e with e; injection e with e1 e2; exact e1 ▸ h
  · split at e
    · injection e with e; injection e with e1 e2; exact e1 ▸ h2
    · cases e

theorem originate_keeps (K : Regular P) (s : State) (flow : Nat) (p : Pkt) (h : P s) : P (originate s flow p) := by
  unfold originate
  split
  · assumption
  · next t q e => exact sendOrig_keeps K _ _ _ (sealOut_keeps K _ _ h _ _ e)

theorem nextSeq_keeps (K : Regular P) (s : State) (slot dst : Nat) (h : P s) : P (nextSeq s slot dst).1 := by
  unfold nextSeq
  repeat' first | with_reducible assumption | fail_if_no_progress with_reducible refine K.lit ?_

theorem ownRequest_keeps (K : Regular P) (s : State) (kind : OwnKind) (ring idx opc tc addr arg : Nat) (pay : List Byte) (h : P s) : P (ownRequest s kind ring idx opc tc addr arg pay).1 := by
  unfold ownRequest
  repeat' first
    | with_reducible assumption | with_reducible apply originate_keeps K | with_reducible apply nextSeq_keeps K
    | with_reducible apply ite_fst_keeps | fail_if_no_progress with_reducible refine K.lit ?_

theorem notifyRing_keeps (K : Regular P) (s : State) (i : Nat) (h : P s) : P (notifyRing s i) := by
  unfold notifyRing
  repeat' first
    | with_reducible assumption | with_reducible apply originate_keeps K | with_reducible apply notifyLoc0_keeps K
    | with_reducible apply nextSeq_keeps K | with_reducible apply ite_keeps

theorem pendRing_keeps (K : Regular P) (s : State) (i : Nat) (h : P s) : P (pendRing s i) := by
  unfold pendRing
  repeat' first
    | with_reducible assumption | with_reducible apply notifyRing_keeps K
    | with_reducible apply State.setRingX_keeps K | with_reducible apply ite_keeps

theorem putSlot_keeps (K : Regular P) (s : State) (i : Nat) (ws : List Word) (pend : Bool) (h : P s) : P (putSlot s i ws pend) := by
  unfold putSlot
  repeat' first
    | with_reducible assumption | with_reducible apply State.wr_keeps K | with_reducible apply State.emit_keeps K
    | with_reducible apply pendRing_keeps K | with_reducible apply ownRequest_keeps K
    | with_reducible apply ite_keeps | fail_if_no_progress with_reducible refine K.lit ?_

theorem evRing_keeps (K : Regular P) (s : State) (i part code a0 a1 a2 : Nat) (h : P s) : P (evRing s i part code a0 a1 a2) := by
  unfold evRing
  repeat' first
    | with_reducible assumption | with_reducible apply dropRecord_keeps K | with_reducible apply State.wr_keeps K
    | with_reducible apply State.count_keeps K | with_reducible apply evOwner_keeps K
    | with_reducible apply putSlot_keeps K | with_reducible apply State.setRingX_keeps K
    | with_reducible apply record0_keeps K | with_reducible apply ite_keeps

theorem evPartAll_keeps (K : Regular P) (s : State) (p code a0 a1 a2 : Nat) (h : P s) : P (evPartAll s p code a0 a1 a2) := by
  unfold evPartAll
  repeat' first
    | with_reducible assumption | intro _ | with_reducible apply evRing_keeps K
    | with_reducible apply evPart_keeps K | with_reducible apply foldl_keeps

theorem setEldSt_keeps (K : Regular P) (s : State) (u v : Nat) (h : P s) : P (setEldSt s u v) := by
  unfold setEldSt
  repeat' first
    | with_reducible assumption | with_reducible apply State.wr_keeps K | with_reducible apply ite_keeps

theorem setCheck_keeps (K : Regular P) (s : State) (u v : Nat) (h : P s) : P (setCheck s u v) := by
  unfold setCheck
  repeat' first
    | with_reducible assumption | with_reducible apply State.wr_keeps K | with_reducible apply ite_keeps

theorem setClaim_keeps (K : Regular P) (s : State) (u v : Nat) (h : P s) : P (setClaim s u v) := by
  unfold setClaim
  repeat' first
    | with_reducible assumption | with_reducible apply irqRaise_keeps K | with_reducible apply State.wr_keeps K
    | with_reducible apply ite_keeps

theorem raiseClaim_keeps (K : Regular P) (s : State) (u : Nat) (h : P s) : P (raiseClaim s u) := by
  unfold raiseClaim
  repeat' first
    | with_reducible assumption | with_reducible apply setClaim_keeps K | with_reducible apply ite_keeps

theorem takeControl_keeps (K : Regular P) (s : State) (u trigger us : Nat) (h : P s) : P (takeControl s u trigger us) := by
  unfold takeControl
  repeat' first
    | with_reducible assumption | with_reducible apply raiseClaim_keeps K | with_reducible apply setEldSt_keeps K
    | with_reducible apply State.count_keeps K | with_reducible apply State.wr_keeps K
    | with_reducible apply evPf0_keeps K | with_reducible apply ite_keeps

theorem inStep_keeps (K : Regular P) (s : State) (u : Nat) (h : P s) : P (inStep s u) := by
  unfold inStep
  repeat' first
    | with_reducible assumption | with_reducible apply setClaim_keeps K | with_reducible apply State.wr_keeps K
    | with_reducible apply setEldSt_keeps K | with_reducible apply evPf0_keeps K | with_reducible apply ite_keeps
    | fail_if_no_progress with_reducible refine K.lit ?_

theorem committed_keeps (K : Regular P) (s : State) (h : P s) : P (committed s) := by
  unfold committed
  repeat' first
    | with_reducible assumption | with_reducible apply State.wr_keeps K | with_reducible apply takeControl_keeps K
    | with_reducible apply inStep_keeps K | with_reducible apply ite_keeps
    | fail_if_no_progress with_reducible refine K.lit ?_

theorem logPut_keeps (K : Regular P) (s : State) (e : LogEnt) (h : P s) : P (logPut s e) := by
  unfold logPut
  repeat' first
    | with_reducible assumption | with_reducible apply ite_keeps
    | fail_if_no_progress with_reducible refine K.lit ?_

theorem logFill_keeps (K : Regular P) (s : State) (h : P s) : P (logFill s) := by
  unfold logFill
  repeat' first
    | with_reducible assumption | with_reducible apply logPut_keeps K | with_reducible apply foldl_keeps
    | fail_if_no_progress with_reducible refine K.lit ?_

theorem lanternCopy_keeps (K : Regular P) (s : State) (ws : List Word) (h : P s) : P (lanternCopy s ws) := by
  unfold lanternCopy
  repeat' first
    | with_reducible assumption | intro _ | with_reducible apply State.wrReg_keeps K
    | with_reducible apply State.count_keeps K | with_reducible apply State.wr_keeps K
    | with_reducible apply foldl_keeps

theorem writeErrRec_keeps (K : Regular P) (s : State) (r : ErrRec) (h : P s) : P (writeErrRec s r) := by
  unfold writeErrRec
  repeat' first
    | with_reducible assumption | with_reducible apply lanternCopy_keeps K
    | with_reducible apply faultRecord_keeps K | with_reducible apply ite_keeps

theorem watchLatch_keeps (K : Regular P) (s : State) (r : ErrRec) (h : P s) : P (watchLatch s r) := by
  unfold watchLatch
  repeat' first
    | with_reducible assumption | with_reducible apply State.count_keeps K | with_reducible apply evPf0_keeps K
    | with_reducible apply State.wr_keeps K | with_reducible apply State.wrReg_keeps K
    | with_reducible apply irqRaise_keeps K | with_reducible apply ite_keeps
    | fail_if_no_progress with_reducible refine K.lit ?_

theorem watchLater_keeps (K : Regular P) (s : State) (r : ErrRec) (h : P s) : P (watchLater s r) := by
  unfold watchLater
  repeat' first
    | with_reducible assumption | with_reducible apply watchLatch_keeps K | with_reducible apply ite_keeps

theorem watchCE_keeps (K : Regular P) (s : State) (kind inst : Nat) (h : P s) : P (watchCE s kind inst) := by
  unfold watchCE
  repeat' first
    | with_reducible assumption | with_reducible apply State.count_keeps K | with_reducible apply evPf0_keeps K
    | with_reducible apply ite_keeps | fail_if_no_progress with_reducible refine K.lit ?_

theorem setRec_keeps (K : Regular P) (s : State) (r : ErrRec) (h : P s) : P (setRec s r) := by
  unfold setRec
  repeat' first | with_reducible assumption | fail_if_no_progress with_reducible refine K.lit ?_

theorem mergeRec_keeps (K : Regular P) (s : State) (r : ErrRec) (kind inst err level poisoned : Nat) (h : P s) : P (mergeRec s r kind inst err level poisoned) := by
  unfold mergeRec
  repeat' first
    | with_reducible assumption | with_reducible apply watchLater_keeps K | with_reducible apply setRec_keeps K

theorem watchUE_keeps (K : Regular P) (s : State) (kind inst err part access space : Nat) (addr : Option Nat) (synd poisoned : Nat) (h : P s) : P (watchUE s kind inst err part access space addr synd poisoned) := by
  unfold watchUE
  repeat' first
    | with_reducible assumption
    | (extract_lets +onlyGivenNames t0
       refine imp_elim (p := P t0) ?_ ?_
       on_goal 1 => (unfold t0; clear t0)
       on_goal 2 => (clear_value t0; revert t0; intro _ _))
    | (extract_lets +onlyGivenNames n0
       clear_value n0; revert n0; intro _)
    | with_reducible apply State.count_keeps K | with_reducible apply mergeRec_keeps K
    | with_reducible apply watchLater_keeps K | with_reducible apply watchLatch_keeps K
    | with_reducible apply writeErrRec_keeps K | split | fail_if_no_progress with_reducible refine K.lit ?_

theorem State.setChanX_keeps (K : Regular P) (s : State) (c : Nat) (x : ChanX) (h : P s) : P (State.setChanX s c x) := by
  unfold State.setChanX
  repeat' first | with_reducible assumption | fail_if_no_progress with_reducible refine K.lit ?_

theorem countRead_keeps (K : Regular P) (s : State) (c : Nat) (h : P s) : P (countRead s c) := by
  unfold countRead
  repeat' first
    | with_reducible assumption | with_reducible apply State.count_keeps K
    | with_reducible apply State.setChanX_keeps K | with_reducible apply ite_keeps

theorem countWrite_keeps (K : Regular P) (s : State) (c : Nat) (h : P s) : P (countWrite s c) := by
  unfold countWrite
  repeat' first
    | with_reducible assumption | with_reducible apply State.count_keeps K
    | with_reducible apply State.setChanX_keeps K | with_reducible apply ite_keeps

theorem askSlots_keeps (K : Regular P) (s : State) (c chg n : Nat) (h : P s) : P (askSlots s c chg n) := by
  unfold askSlots
  repeat' first
    | with_reducible assumption | with_reducible apply State.setChanX_keeps K | with_reducible apply ite_keeps

theorem askBulk_keeps (K : Regular P) (s : State) (c chg n : Nat) (h : P s) : P (askBulk s c chg n) := by
  unfold askBulk
  repeat' first | with_reducible assumption | with_reducible apply askSlots_keeps K

theorem openRow_keeps (K : Regular P) (s : State) (c off : Nat) (h : P s) : P (openRow s c off) := by
  unfold openRow
  repeat' first
    | with_reducible assumption | with_reducible apply State.setChanX_keeps K
    | with_reducible apply State.count_keeps K | with_reducible apply ite_keeps

theorem dramWrite_keeps (K : Regular P) (s : State) (c chg off line : Nat) (h : P s) : P (dramWrite s c chg off line) := by
  unfold dramWrite
  repeat' first
    | with_reducible assumption | with_reducible apply openRow_keeps K | with_reducible apply askSlots_keeps K
    | with_reducible apply countWrite_keeps K | with_reducible apply State.wr_keeps K
    | with_reducible apply State.setChanX_keeps K | with_reducible apply ite_keeps

theorem lostEvents_keeps (K : Regular P) (s : State) (c cause : Nat) (h : P s) : P (lostEvents s c cause) := by
  unfold lostEvents
  repeat' first
    | with_reducible assumption | with_reducible apply evPf0_keeps K | with_reducible apply evPart_keeps K | split

theorem channelLost_keeps (K : Regular P) (s : State) (c cause : Nat) (h : P s) : P (channelLost s c cause) := by
  unfold channelLost
  repeat' first
    | with_reducible assumption | with_reducible apply State.wr_keeps K | with_reducible apply lostEvents_keeps K
    | with_reducible apply floorSync_keeps K | with_reducible apply State.setChanX_keeps K

theorem countDevice_keeps (K : Regular P) (s : State) (c e dev : Nat) (h : P s) : P (countDevice s c e dev) := by
  unfold countDevice
  repeat' first
    | with_reducible assumption | with_reducible apply State.setChanX_keeps K | with_reducible apply evPf0_keeps K
    | with_reducible apply State.wr_keeps K | with_reducible apply ite_keeps

theorem lineCorrected_keeps (K : Regular P) (s : State) (c e : Nat) (dev : Option Nat) (h : P s) : P (lineCorrected s c e dev) := by
  unfold lineCorrected
  repeat' first
    | with_reducible assumption
    | (extract_lets +onlyGivenNames t0
       refine imp_elim (p := P t0) ?_ ?_
       on_goal 1 => (unfold t0; clear t0)
       on_goal 2 => (clear_value t0; revert t0; intro _ _))
    | (extract_lets +onlyGivenNames n0
       clear_value n0; revert n0; intro _)
    | with_reducible apply watchCE_keeps K | with_reducible apply State.count_keeps K
    | with_reducible apply State.setChanX_keeps K | with_reducible apply evPf0_keeps K
    | with_reducible apply countDevice_keeps K | split

theorem poisonCopy_keeps (K : Closed P) (s : State) (line : Nat) (h : P s) : P (poisonCopy s line) := by
  unfold poisonCopy
  repeat' first
    | with_reducible assumption | with_reducible apply State.poisonLine_keeps K | split
    | fail_if_no_progress with_reducible refine K.lit ?_

theorem ueFound_keeps (K : Regular P) (s : State) (c e key access space owner : Nat) (addr : Option Nat) (poisoned : Nat) (h : P s) : P (ueFound s c e key access space owner addr poisoned) := by
  unfold ueFound
  repeat' first
    | with_reducible assumption | with_reducible apply State.count_keeps K
    | with_reducible apply State.setChanX_keeps K | with_reducible apply watchUE_keeps K
    | with_reducible apply channelLost_keeps K | with_reducible apply ite_keeps

theorem lineUncorrectable_keeps (K : Closed P) (s : State) (c e line access space owner : Nat) (h : P s) : P (lineUncorrectable s c e line access space owner) := by
  unfold lineUncorrectable
  repeat' first
    | with_reducible assumption | with_reducible apply ueFound_keeps K.1 | with_reducible apply poisonCopy_keeps K

theorem codeCheck_keeps (K : Regular P) (s : State) (c e key : Nat) (h : P s) : P (codeCheck s c e key).1 := by
  unfold codeCheck
  repeat' first | with_reducible assumption | with_reducible apply lineCorrected_keeps K | split

theorem dramRead_keeps (K : Closed P) (s : State) (c p chg off line access space : Nat) (h : P s) : P (dramRead s c p chg off line access space).1 := by
  unfold dramRead
  repeat' first
    | with_reducible assumption
    | (extract_lets +onlyGivenNames t0
       refine imp_elim (p := P t0) ?_ ?_
       on_goal 1 => (unfold t0; clear t0)
       on_goal 2 => (clear_value t0; revert t0; intro _ _))
    | (extract_lets +onlyGivenNames n0
       clear_value n0; revert n0; intro _)
    | with_reducible apply openRow_keeps K.1 | with_reducible apply askSlots_keeps K.1
    | with_reducible apply countRead_keeps K.1 | with_reducible apply State.count_keeps K.1
    | with_reducible apply lineUncorrectable_keeps K | with_reducible apply codeCheck_keeps K.1 | split
    | with_reducible refine fst_keeps (by assumption) ?_

end Sys2Proof.Machine
end

