-- ==== Sys2Proof/Laws/KeepTiers.lean ====
section
/-!
SUPPORT. Sys2Proof/Laws/KeepTiers.lean: a closed property is kept by each operation of the tiers, translation, coherence and accesses.
-/
namespace Sys2Proof.Machine

variable {P : State → Prop}

theorem touchLine_keeps (K : Regular P) (s : State) (deep : Bool) (sl line : Nat) (h : P s) : P (touchLine s deep sl line) := by
  unfold touchLine
  repeat' first
    | with_reducible assumption
    | (extract_lets +onlyGivenNames n0
       clear_value n0; revert n0; intro _)
    | split | fail_if_no_progress with_reducible refine K.lit ?_

theorem macDrop_keeps (K : Regular P) (s : State) (chg k : Nat) (m : MacEnt) (h : P s) : P (macDrop s chg k m) := by
  unfold macDrop
  repeat' first
    | with_reducible assumption | with_reducible apply dramWrite_keeps K | with_reducible apply ite_keeps
    | fail_if_no_progress with_reducible refine K.lit ?_

theorem macRoom_keeps (K : Regular P) (s : State) (sl chg need x4 : Nat) (h : P s) : P (macRoom s sl chg need x4) := by
  induction x4 generalizing s sl chg need with
  | zero =>
    rw [macRoom]
    repeat' first | with_reducible assumption
  | succ n ih =>
    rw [macRoom]
    repeat' first
      | with_reducible assumption | with_reducible apply ih | with_reducible apply macDrop_keeps K | split

theorem macPut_keeps (K : Regular P) (s : State) (k sl size : Nat) (dirty : Bool) (h : P s) : P (macPut s k sl size dirty) := by
  unfold macPut
  repeat' first | with_reducible assumption | fail_if_no_progress with_reducible refine K.lit ?_

theorem tagLost_keeps (K : Regular P) (s : State) (p c n : Nat) (h : P s) : P (tagLost s p c n) := by
  unfold tagLost
  repeat' first
    | with_reducible assumption | intro _ | with_reducible apply evPart_keeps K | with_reducible apply foldl_keeps
    | fail_if_no_progress with_reducible refine K.lit ?_

theorem mapLost_keeps (K : Regular P) (s : State) (c off : Nat) (h : P s) : P (mapLost s c off) := by
  unfold mapLost
  repeat' first | with_reducible assumption | split | fail_if_no_progress with_reducible refine K.lit ?_

theorem auxLost_keeps (K : Closed P) (s : State) (c key off access space owner : Nat) (h : P s) : P (auxLost s c key off access space owner) := by
  unfold auxLost
  repeat' first
    | with_reducible assumption | with_reducible apply mapLost_keeps K.1 | with_reducible apply tagLost_keeps K.1
    | with_reducible apply poisonCopy_keeps K | with_reducible apply ueFound_keeps K.1
    | with_reducible apply foldl_keeps | split

theorem auxRead_keeps (K : Closed P) (s : State) (c chg off key access space owner : Nat) (h : P s) : P (auxRead s c chg off key access space owner) := by
  unfold auxRead
  repeat' first
    | with_reducible assumption | with_reducible apply openRow_keeps K.1 | with_reducible apply askSlots_keeps K.1
    | with_reducible apply countRead_keeps K.1 | with_reducible apply auxLost_keeps K
    | with_reducible apply codeCheck_keeps K.1 | split | with_reducible refine fst_keeps (by assumption) ?_

theorem macTouch_keeps (K : Closed P) (s : State) (c p chg off : Nat) (write : Bool) (access space : Nat) (h : P s) : P (macTouch s c p chg off write access space) := by
  unfold macTouch
  repeat' first
    | with_reducible assumption | with_reducible apply macPut_keeps K.1 | with_reducible apply macRoom_keeps K.1
    | with_reducible apply auxRead_keeps K | with_reducible apply ite_keeps

theorem memRead_keeps (K : Closed P) (s : State) (c p chg off line access space : Nat) (h : P s) : P (memRead s c p chg off line access space).1 := by
  unfold memRead
  repeat' first
    | with_reducible assumption | with_reducible apply macTouch_keeps K | with_reducible apply dramRead_keeps K

theorem memWrite_keeps (K : Closed P) (s : State) (c p chg off line : Nat) (h : P s) : P (memWrite s c p chg off line) := by
  unfold memWrite
  repeat' first
    | with_reducible assumption | with_reducible apply dramWrite_keeps K.1 | with_reducible apply macTouch_keeps K

theorem State.setDriveX_keeps (K : Regular P) (s : State) (d : Nat) (x : DriveX) (h : P s) : P (State.setDriveX s d x) := by
  unfold State.setDriveX
  repeat' first | with_reducible assumption | fail_if_no_progress with_reducible refine K.lit ?_

theorem carries_keeps (K : Regular P) (s : State) (d : Nat) (c : NvmeCmd) (h : P s) : P (carries s d c) := by
  unfold carries
  repeat' first | with_reducible assumption | with_reducible apply State.emit_keeps K | split

theorem nvmeSend_keeps (K : Regular P) (s : State) (d : Nat) (c : NvmeCmd) (h : P s) : P (nvmeSend s d c) := by
  unfold nvmeSend
  repeat' first
    | with_reducible assumption | with_reducible apply carries_keeps K | with_reducible apply State.emit_keeps K
    | with_reducible apply State.setDriveX_keeps K

theorem nvmeDrain_keeps (K : Regular P) (s : State) (d : Nat) (h : P s) : P (nvmeDrain s d) := by
  unfold nvmeDrain
  repeat' first
    | with_reducible assumption | intro _ | with_reducible apply nvmeSend_keeps K | with_reducible apply foldl_keeps
    | with_reducible apply ite_keeps

theorem nvmeIssue_keeps (K : Regular P) (s : State) (d kind arg lba len sl : Nat) (h : P s) : P (nvmeIssue s d kind arg lba len sl) := by
  unfold nvmeIssue
  repeat' first
    | with_reducible assumption | with_reducible apply nvmeDrain_keeps K
    | with_reducible apply State.setDriveX_keeps K

theorem tierStat_keeps (K : Regular P) (s : State) (p : Nat) (h : P s) : P (tierStat s p) := by
  unfold tierStat
  repeat' first | with_reducible assumption | with_reducible apply State.wr_keeps K

theorem tierStats_keeps (K : Regular P) (s : State) (h : P s) : P (tierStats s) := by
  unfold tierStats
  repeat' first
    | with_reducible assumption | intro _ | with_reducible apply tierStat_keeps K | with_reducible apply foldl_keeps
    | with_reducible apply ite_keeps

theorem tagTouch_keeps (K : Closed P) (s : State) (p c chg set way : Nat) (h : P s) : P (tagTouch s p c chg set way) := by
  unfold tagTouch
  repeat' first
    | with_reducible assumption
    | (extract_lets +onlyGivenNames f0
       (have f1 := fun a => f0 a; clear f1)
       (try unfold f0); clear f0)
    | (extract_lets +onlyGivenNames t0
       refine imp_elim (p := P t0) ?_ ?_
       on_goal 1 => (unfold t0; clear t0)
       on_goal 2 => (clear_value t0; revert t0; intro _ _))
    | (extract_lets +onlyGivenNames n0
       clear_value n0; revert n0; intro _)
    | with_reducible apply auxRead_keeps K | split | fail_if_no_progress with_reducible refine K.lit ?_

theorem mapTouch_keeps (K : Closed P) (s : State) (base : Nat) (e : Ext) (block chg : Nat) (write : Bool) (h : P s) : P (mapTouch s base e block chg write) := by
  unfold mapTouch
  repeat' first
    | with_reducible assumption | with_reducible apply auxRead_keeps K | with_reducible apply dramWrite_keeps K.1
    | with_reducible apply ite_keeps

theorem enterBlock_keeps (K : Closed P) (s : State) (p block way : Nat) (filling dirty held : Bool) (h : P s) : P (enterBlock s p block way filling dirty held) := by
  unfold enterBlock
  repeat' first
    | with_reducible assumption | intro _ | with_reducible apply memWrite_keeps K | with_reducible apply foldl_keeps
    | with_reducible apply ite_keeps | fail_if_no_progress with_reducible refine K.lit ?_

theorem dropBlock_keeps (K : Regular P) (s : State) (block : Nat) (h : P s) : P (dropBlock s block) := by
  unfold dropBlock
  repeat' first
    | with_reducible assumption | with_reducible apply State.setChanX_keeps K | split
    | fail_if_no_progress with_reducible refine K.lit ?_

theorem takeWay_keeps (K : Closed P) (s : State) (p block : Nat) (filling dirty held : Bool) (h : P s) : (takeWay s p block filling dirty held).Has P := by
  unfold takeWay
  repeat' first
    | with_reducible assumption
    | (extract_lets +onlyGivenNames n0
       clear_value n0; revert n0; intro _)
    | with_reducible apply enterBlock_keeps K | with_reducible apply dropBlock_keeps K.1 | split
    | dsimp -zeta only [Way.Has]

theorem readBlock_keeps (K : Closed P) (s : State) (p block ch : Nat) (h : P s) : P (readBlock s p block ch) := by
  unfold readBlock
  repeat' first
    | with_reducible assumption | intro _ | with_reducible apply memRead_keeps K | with_reducible apply foldl_keeps

theorem startGroup_keeps (K : Closed P) (s : State) (base : Nat) (e : Ext) (group : Nat) (h : P s) : P (startGroup s base e group) := by
  unfold startGroup
  repeat' first
    | with_reducible assumption | intro _
    | (extract_lets +onlyGivenNames t0
       refine imp_elim (p := P t0) ?_ ?_
       on_goal 1 => (unfold t0; clear t0)
       on_goal 2 => (clear_value t0; revert t0; intro _ _))
    | (extract_lets +onlyGivenNames n0
       clear_value n0; revert n0; intro _)
    | with_reducible apply readBlock_keeps K | with_reducible apply nvmeIssue_keeps K.1
    | with_reducible apply foldl_keeps | split | fail_if_no_progress with_reducible refine K.lit ?_

theorem writeBackEngine_keeps (K : Closed P) (s : State) (p : Nat) (h : P s) : P (writeBackEngine s p) := by
  unfold writeBackEngine
  repeat' first
    | with_reducible assumption | intro _
    | (extract_lets +onlyGivenNames t0
       refine imp_elim (p := P t0) ?_ ?_
       on_goal 1 => (unfold t0; clear t0)
       on_goal 2 => (clear_value t0; revert t0; intro _ _))
    | (extract_lets +onlyGivenNames n0
       clear_value n0; revert n0; intro _)
    | with_reducible apply startGroup_keeps K | with_reducible apply foldl_keeps | split
    | fail_if_no_progress with_reducible refine K.lit ?_

theorem idleWriteBack_keeps (K : Closed P) (s : State) (d : Nat) (h : P s) : P (idleWriteBack s d) := by
  unfold idleWriteBack
  repeat' first
    | with_reducible assumption | intro _ | with_reducible apply startGroup_keeps K
    | with_reducible apply foldl_keeps | split

theorem dirtyLine_keeps (K : Closed P) (s : State) (p line : Nat) (h : P s) : P (dirtyLine s p line) := by
  unfold dirtyLine
  repeat' first
    | with_reducible assumption
    | (extract_lets +onlyGivenNames n0
       clear_value n0; revert n0; intro _)
    | with_reducible apply tierStat_keeps K.1 | with_reducible apply writeBackEngine_keeps K | split
    | fail_if_no_progress with_reducible refine K.lit ?_

theorem enterBad_keeps (K : Regular P) (s : State) (block : Nat) (h : P s) : P (enterBad s block) := by
  unfold enterBad
  repeat' first | with_reducible assumption | split | fail_if_no_progress with_reducible refine K.lit ?_

theorem startFill_keeps (K : Regular P) (s : State) (block d lba mac ch : Nat) (h : P s) : P (startFill s block d lba mac ch) := by
  unfold startFill
  repeat' first
    | with_reducible assumption
    | (extract_lets +onlyGivenNames t0
       refine imp_elim (p := P t0) ?_ ?_
       on_goal 1 => (unfold t0; clear t0)
       on_goal 2 => (clear_value t0; revert t0; intro _ _))
    | with_reducible apply nvmeIssue_keeps K | with_reducible apply macPut_keeps K | split

theorem needBlock_keeps (K : Closed P) (s : State) (p base : Nat) (e : Ext) (block : Nat) (write : Bool) (chg : Nat) (h : P s) : (needBlock s p base e block write chg).Has P := by
  unfold needBlock
  repeat' first
    | with_reducible assumption
    | (extract_lets +onlyGivenNames t0
       refine imp_elim (p := P t0) ?_ ?_
       on_goal 1 => (unfold t0; clear t0)
       on_goal 2 => (clear_value t0; revert t0; intro _ _))
    | (extract_lets +onlyGivenNames n0
       clear_value n0; revert n0; intro _)
    | with_reducible apply tagTouch_keeps K | with_reducible apply mapTouch_keeps K
    | with_reducible apply enterBad_keeps K.1 | with_reducible apply State.count_keeps K.1
    | with_reducible apply startFill_keeps K.1 | with_reducible apply takeWay_keeps K | split
    | with_reducible refine Way.got_keeps (by assumption) ?_ | dsimp -zeta only [Got.Has, Way.Has]

theorem putDeep_keeps (K : Closed P) (s : State) (p base : Nat) (e : Ext) (line : Nat) (h : P s) : P (putDeep s p base e line) := by
  unfold putDeep
  repeat' first
    | with_reducible assumption
    | (extract_lets +onlyGivenNames n0
       clear_value n0; revert n0; intro _)
    | with_reducible apply State.poisonLine_keeps K | with_reducible apply dirtyLine_keeps K
    | with_reducible apply memWrite_keeps K | with_reducible apply needBlock_keeps K | split
    | with_reducible refine Got.here_keeps (by assumption) ?_
    | with_reducible refine Got.wait_keeps (by assumption) ?_
    | with_reducible refine Got.poison_keeps (by assumption) ?_ | fail_if_no_progress with_reducible refine K.lit ?_

theorem settleWbuf_keeps (K : Closed P) (s : State) (h : P s) : P (settleWbuf s) := by
  unfold settleWbuf
  repeat' first
    | with_reducible assumption | intro _
    | (extract_lets +onlyGivenNames t0
       refine imp_elim (p := P t0) ?_ ?_
       on_goal 1 => (unfold t0; clear t0)
       on_goal 2 => (clear_value t0; revert t0; intro _ _))
    | (extract_lets +onlyGivenNames n0
       clear_value n0; revert n0; intro _)
    | with_reducible apply putDeep_keeps K | with_reducible apply foldl_keeps | split
    | fail_if_no_progress with_reducible refine K.lit ?_

theorem setNear_keeps (K : Regular P) (s : State) (near : List (Nat × NearLine)) (h : P s) : P (setNear s near) := by
  unfold setNear
  repeat' first | with_reducible assumption | fail_if_no_progress with_reducible refine K.lit ?_

theorem nearWriteBack_keeps (K : Closed P) (s : State) (line : Nat) (n : NearLine) (h : P s) : P (nearWriteBack s line n) := by
  unfold nearWriteBack
  repeat' first
    | with_reducible assumption | with_reducible apply putDeep_keeps K
    | with_reducible apply State.poisonLine_keeps K | with_reducible apply memWrite_keeps K | split

theorem nearEvict_keeps (K : Closed P) (s : State) (line : Nat) (h : P s) : P (nearEvict s line) := by
  unfold nearEvict
  repeat' first
    | with_reducible assumption | with_reducible apply nearWriteBack_keeps K | with_reducible apply setNear_keeps K.1
    | split

theorem nearCut_keeps (K : Closed P) (s : State) (p sl set k x5 : Nat) (h : P s) : P (nearCut s p sl set k x5).1 := by
  induction x5 generalizing s p sl set k with
  | zero =>
    rw [nearCut]
    repeat' first | with_reducible assumption
  | succ n ih =>
    rw [nearCut]
    repeat' first
      | with_reducible assumption | with_reducible apply ih | with_reducible apply nearEvict_keeps K | split

theorem nearRoom_keeps (K : Closed P) (s : State) (p sl line : Nat) (h : P s) : P (nearRoom s p sl line).1 := by
  unfold nearRoom
  repeat' first
    | with_reducible assumption | with_reducible apply nearCut_keeps K | with_reducible apply ite_fst_keeps

theorem nearTrim_keeps (K : Closed P) (s : State) (p : Nat) (h : P s) : P (nearTrim s p) := by
  unfold nearTrim
  repeat' first
    | with_reducible assumption | intro _ | with_reducible apply nearCut_keeps K | with_reducible apply foldl_keeps

theorem dropLoose_keeps (K : Closed P) (s : State) (p : Nat) (h : P s) : P (dropLoose s p) := by
  unfold dropLoose
  repeat' first
    | with_reducible assumption | intro _ | with_reducible apply tierStat_keeps K.1
    | with_reducible apply nearEvict_keeps K | with_reducible apply foldl_keeps

theorem nearInsert_keeps (K : Closed P) (s : State) (p sl line : Nat) (dirty : Bool) (h : P s) : P (nearInsert s p sl line dirty) := by
  unfold nearInsert
  repeat' first
    | with_reducible assumption | with_reducible apply nearRoom_keeps K | split
    | with_reducible refine fst_keeps (by assumption) ?_ | fail_if_no_progress with_reducible refine K.lit ?_

theorem nearPlace_keeps (K : Closed P) (s : State) (p sl : Nat) (deep : Bool) (line : Nat) (h : P s) : P (nearPlace s p sl deep line) := by
  unfold nearPlace
  repeat' first
    | with_reducible assumption | with_reducible apply nearInsert_keeps K | with_reducible apply ite_keeps

theorem nearUse_keeps (K : Regular P) (s : State) (line : Nat) (n : NearLine) (dirty : Bool) (h : P s) : P (nearUse s line n dirty) := by
  unfold nearUse
  repeat' first | with_reducible assumption | fail_if_no_progress with_reducible refine K.lit ?_

theorem tierRead_keeps (K : Closed P) (s : State) (base : Nat) (e : Ext) (line access space chg : Nat) (h : P s) : P (tierRead s base e line access space chg).1 := by
  unfold tierRead
  repeat' first
    | with_reducible assumption
    | (extract_lets +onlyGivenNames t0
       refine imp_elim (p := P t0) ?_ ?_
       on_goal 1 => (unfold t0; clear t0)
       on_goal 2 => (clear_value t0; revert t0; intro _ _))
    | (extract_lets +onlyGivenNames n0
       clear_value n0; revert n0; intro _)
    | with_reducible apply touchLine_keeps K.1 | with_reducible apply nearUse_keeps K.1
    | with_reducible apply nearPlace_keeps K | with_reducible apply memRead_keeps K
    | with_reducible apply needBlock_keeps K | split | with_reducible refine fst_keeps (by assumption) ?_
    | with_reducible refine Got.here_keeps (by assumption) ?_
    | with_reducible refine Got.wait_keeps (by assumption) ?_
    | with_reducible refine Got.poison_keeps (by assumption) ?_

theorem tierWrite_keeps (K : Closed P) (s : State) (base : Nat) (e : Ext) (line chg : Nat) (data : List Byte) (h : P s) : P (tierWrite s base e line chg data).1 := by
  unfold tierWrite
  repeat' first
    | with_reducible assumption
    | (extract_lets +onlyGivenNames t0
       refine imp_elim (p := P t0) ?_ ?_
       on_goal 1 => (unfold t0; clear t0)
       on_goal 2 => (clear_value t0; revert t0; intro _ _))
    | (extract_lets +onlyGivenNames n0
       clear_value n0; revert n0; intro _)
    | with_reducible apply State.setLine_keeps K | with_reducible apply nearUse_keeps K.1
    | with_reducible apply touchLine_keeps K.1 | with_reducible apply memWrite_keeps K
    | with_reducible apply nearPlace_keeps K | with_reducible apply dirtyLine_keeps K
    | with_reducible apply needBlock_keeps K | split | with_reducible refine Got.here_keeps (by assumption) ?_
    | with_reducible refine Got.wait_keeps (by assumption) ?_
    | with_reducible refine Got.poison_keeps (by assumption) ?_

theorem objJoin_keeps (K : Regular P) (s : State) (o : Nat) (who : Holder) (h : P s) : P (objJoin s o who) := by
  unfold objJoin
  repeat' first
    | with_reducible assumption | with_reducible apply ite_keeps
    | fail_if_no_progress with_reducible refine K.lit ?_

theorem objWake_keeps (K : Regular P) (s : State) (o : Nat) (h : P s) : P (objWake s o) := by
  unfold objWake
  repeat' first | with_reducible assumption | split | fail_if_no_progress with_reducible refine K.lit ?_

theorem objLeave_keeps (K : Regular P) (s : State) (who : Holder) (h : P s) : P (objLeave s who) := by
  unfold objLeave
  repeat' first
    | with_reducible assumption | with_reducible apply objWake_keeps K | with_reducible apply foldl_keeps | split
    | fail_if_no_progress with_reducible refine K.lit ?_

theorem endFlights_keeps (K : Regular P) (s : State) (who : Holder) (h : P s) : P (endFlights s who) := by
  unfold endFlights
  repeat' first
    | with_reducible assumption | with_reducible apply objLeave_keeps K
    | fail_if_no_progress with_reducible refine K.lit ?_

theorem endFlight_keeps (K : Regular P) (s : State) (q : LReq) (h : P s) : P (endFlight s q) := by
  unfold endFlight
  repeat' first | with_reducible assumption | fail_if_no_progress with_reducible refine K.lit ?_

theorem setFlight_keeps (K : Regular P) (s : State) (q : LReq) (res : Nat × Nat × Option Nat) (h : P s) : P (setFlight s q res) := by
  unfold setFlight
  repeat' first | with_reducible assumption | fail_if_no_progress with_reducible refine K.lit ?_

theorem tableRead_keeps (K : Closed P) (s : State) (home p pa space access : Nat) (h : P s) : P (tableRead s home p pa space access).1 := by
  unfold tableRead
  repeat' first
    | with_reducible assumption | with_reducible apply tierRead_keeps K | split
    | with_reducible refine fst_keeps (by assumption) ?_

theorem walk_keeps (K : Closed P) (s : State) (slot tag x3 access : Nat) (h : P s) : P (walk s slot tag x3 access).1 := by
  unfold walk
  repeat' first
    | with_reducible assumption
    | (extract_lets +onlyGivenNames n0
       clear_value n0; revert n0; intro _)
    | with_reducible apply tableRead_keeps K | split | with_reducible refine fst_keeps (by assumption) ?_

theorem addCopy_keeps (K : Regular P) (s : State) (c : Copy) (h : P s) : P (addCopy s c) := by
  unfold addCopy
  repeat' first | with_reducible assumption | fail_if_no_progress with_reducible refine K.lit ?_

theorem translate_keeps (K : Closed P) (s : State) (sl slot tag x4 access : Nat) (h : P s) : P (translate s sl slot tag x4 access).1 := by
  unfold translate
  repeat' first
    | with_reducible assumption | with_reducible apply addCopy_keeps K.1 | with_reducible apply walk_keeps K | split
    | with_reducible refine fst_keeps (by assumption) ?_ | fail_if_no_progress with_reducible refine K.lit ?_

theorem rewait_keeps (K : Regular P) (s : State) (f : Wait → Bool) (l : LineSt) (w : Wait) (h : P s) : P (rewait s f l w) := by
  unfold rewait
  repeat' first | with_reducible assumption | fail_if_no_progress with_reducible refine K.lit ?_

theorem releaseHeld_keeps (K : Regular P) (s : State) (p tag page : Nat) (l : LineSt) (w : Wait) (h : P s) : P (releaseHeld s p tag page l w) := by
  unfold releaseHeld
  repeat' first
    | with_reducible assumption | with_reducible apply rewait_keeps K
    | fail_if_no_progress with_reducible refine K.lit ?_

theorem faultWindowEnd_keeps (K : Regular P) (s : State) (p tag page : Nat) (h : P s) : P (faultWindowEnd s p tag page) := by
  unfold faultWindowEnd
  repeat' first
    | with_reducible assumption | with_reducible apply releaseHeld_keeps K
    | with_reducible apply State.count_keeps K | with_reducible apply faultRecord_keeps K | split
    | with_reducible refine fst_keeps (by assumption) ?_ | fail_if_no_progress with_reducible refine K.lit ?_

theorem joinFault_keeps (K : Regular P) (s : State) (q : LReq) (h : P s) : P (joinFault s q).1 := by
  unfold joinFault
  repeat' first
    | with_reducible assumption
    | (extract_lets +onlyGivenNames t0
       refine imp_elim (p := P t0) ?_ ?_
       on_goal 1 => (unfold t0; clear t0)
       on_goal 2 => (clear_value t0; revert t0; intro _ _))
    | (extract_lets +onlyGivenNames n0
       clear_value n0; revert n0; intro _)
    | with_reducible apply State.count_keeps K | with_reducible apply faultWindowEnd_keeps K | split
    | fail_if_no_progress with_reducible refine K.lit ?_

theorem pf0XltRecord_keeps (K : Regular P) (s : State) (q : LReq) (cause pa : Nat) (h : P s) : P (pf0XltRecord s q cause pa) := by
  unfold pf0XltRecord
  repeat' first
    | with_reducible assumption | with_reducible apply State.count_keeps K
    | with_reducible apply faultRecord_keeps K | split | with_reducible refine fst_keeps (by assumption) ?_

theorem denied_keeps (K : Regular P) (s : State) (q : LReq) (h : P s) : P (denied s q).1 := by
  unfold denied
  repeat' first
    | with_reducible assumption | with_reducible apply State.count_keeps K | with_reducible apply ite_keeps

theorem ownership_keeps (K : Regular P) (s : State) (q : LReq) (pa : Nat) (h : P s) : P (ownership s q pa).1 := by
  unfold ownership
  repeat' first | with_reducible assumption | with_reducible apply pf0XltRecord_keeps K | split

theorem sendAnswer_keeps (K : Regular P) (s : State) (flow : Nat) (req ans : Pkt) (h : P s) : P (sendAnswer s flow req ans) := by
  unfold sendAnswer
  repeat' first
    | with_reducible assumption | with_reducible apply originate_keeps K | with_reducible apply ite_keeps

theorem sendNak_keeps (K : Regular P) (s : State) (flow : Nat) (req : Pkt) (code delay idx : Nat) (h : P s) : P (sendNak s flow req code delay idx) := by
  unfold sendNak
  repeat' first | with_reducible assumption | with_reducible apply sendAnswer_keeps K

theorem sendErr_keeps (K : Regular P) (s : State) (flow : Nat) (req : Pkt) (cause idx : Nat) (h : P s) : P (sendErr s flow req cause idx) := by
  unfold sendErr
  repeat' first | with_reducible assumption | with_reducible apply sendAnswer_keeps K

theorem cohCount_keeps (K : Regular P) (s : State) (dom : Nat) (h : P s) : P (cohCount s dom) := by
  unfold cohCount
  repeat' first | with_reducible assumption | with_reducible apply State.wr_keeps K

theorem setDir_keeps (K : Regular P) (s : State) (k : Nat) (e : DirEnt) (h : P s) : P (setDir s k e) := by
  unfold setDir
  repeat' first
    | with_reducible assumption | with_reducible apply cohCount_keeps K
    | fail_if_no_progress with_reducible refine K.lit ?_

theorem delDir_keeps (K : Regular P) (s : State) (k : Nat) (h : P s) : P (delDir s k) := by
  unfold delDir
  repeat' first
    | with_reducible assumption | with_reducible apply cohCount_keeps K
    | fail_if_no_progress with_reducible refine K.lit ?_

theorem cohSend_keeps (K : Regular P) (s : State) (dom agent opc tc red key ctag x8 : Nat) (poison : Bool) (pay : List Byte) (h : P s) : P (cohSend s dom agent opc tc red key ctag x8 poison pay) := by
  unfold cohSend
  repeat' first
    | with_reducible assumption | with_reducible apply originate_keeps K | with_reducible apply nextSeq_keeps K
    | split

theorem sendInval_keeps (K : Regular P) (s : State) (k tag agent : Nat) (h : P s) : P (sendInval s k tag agent) := by
  unfold sendInval
  repeat' first | with_reducible assumption | with_reducible apply cohSend_keeps K

theorem sendFwd_keeps (K : Regular P) (s : State) (k tag agent rnode rtag kind : Nat) (h : P s) : P (sendFwd s k tag agent rnode rtag kind) := by
  unfold sendFwd
  repeat' first | with_reducible assumption | with_reducible apply cohSend_keeps K

theorem sendGrant_keeps (K : Regular P) (s : State) (k agent : Nat) (req : Pkt) (grant : Nat) (poison : Bool) (data : List Byte) (h : P s) : P (sendGrant s k agent req grant poison data) := by
  unfold sendGrant
  repeat' first | with_reducible assumption | with_reducible apply cohSend_keeps K

theorem sendCohAck_keeps (K : Regular P) (s : State) (k agent : Nat) (req : Pkt) (code : Nat) (h : P s) : P (sendCohAck s k agent req code) := by
  unfold sendCohAck
  repeat' first | with_reducible assumption | with_reducible apply cohSend_keeps K

theorem cohNak_keeps (K : Regular P) (s : State) (dom : Nat) (req : Pkt) (delay : Nat) (h : P s) : P (cohNak s dom req delay) := by
  unfold cohNak
  repeat' first
    | with_reducible assumption | with_reducible apply sendNak_keeps K | with_reducible apply State.count_keeps K

theorem cohWakeDom_keeps (K : Regular P) (s : State) (dom : Nat) (h : P s) : P (cohWakeDom s dom) := by
  unfold cohWakeDom
  repeat' first | with_reducible assumption | with_reducible apply rewait_keeps K

theorem cohWake_keeps (K : Regular P) (s : State) (k : Nat) (h : P s) : P (cohWake s k) := by
  unfold cohWake
  repeat' first | with_reducible assumption | with_reducible apply rewait_keeps K

theorem cohEnd_keeps (K : Regular P) (s : State) (k : Nat) (e : DirEnt) (h : P s) : P (cohEnd s k e) := by
  unfold cohEnd
  repeat' first
    | with_reducible assumption | with_reducible apply delDir_keeps K | with_reducible apply setDir_keeps K
    | with_reducible apply cohWake_keeps K | with_reducible apply ite_keeps

theorem cohList_keeps (K : Regular P) (s : State) (k : Nat) (e : DirEnt) (agent : Nat) (req : Pkt) (h : P s) : P (cohList s k e agent req) := by
  unfold cohList
  repeat' first
    | with_reducible assumption | with_reducible apply cohNak_keeps K | split
    | fail_if_no_progress with_reducible refine K.lit ?_

theorem nextTag_keeps (K : Regular P) (s : State) (h : P s) : P (nextTag s).1 := by
  unfold nextTag
  repeat' first | with_reducible assumption | fail_if_no_progress with_reducible refine K.lit ?_

theorem openTx_keeps (K : Regular P) (s : State) (k : Nat) (e : DirEnt) (was : Holding) (kind : CohKind) (agent : Nat) (req : Option Pkt) (port : Nat) (reader : Option Holder) (inv : List Nat) (fwd : Option (Nat × Nat)) (later : (List Nat)) (h : P s) : P (openTx s k e was kind agent req port reader inv fwd later) := by
  unfold openTx
  repeat' first
    | with_reducible assumption | intro _
    | (extract_lets +onlyGivenNames t0
       refine imp_elim (p := P t0) ?_ ?_
       on_goal 1 => (unfold t0; clear t0)
       on_goal 2 => (clear_value t0; revert t0; intro _ _))
    | (extract_lets +onlyGivenNames n0
       clear_value n0; revert n0; intro _)
    | with_reducible apply setDir_keeps K | with_reducible apply sendInval_keeps K
    | with_reducible apply sendFwd_keeps K | with_reducible apply nextTag_keeps K | with_reducible apply foldl_keeps
    | split | with_reducible refine fst_keeps (by assumption) ?_

theorem setTx_keeps (K : Regular P) (s : State) (k : Nat) (e : DirEnt) (tx : CohTx) (h : P s) : P (setTx s k e tx) := by
  unfold setTx
  repeat' first | with_reducible assumption | with_reducible apply setDir_keeps K

theorem grantFromHome_keeps (K : Closed P) (s : State) (k : Nat) (e : DirEnt) (tx : CohTx) (req : Pkt) (h : P s) : P (grantFromHome s k e tx req) := by
  unfold grantFromHome
  repeat' first
    | with_reducible assumption | with_reducible apply cohEnd_keeps K.1 | with_reducible apply sendErr_keeps K.1
    | with_reducible apply setTx_keeps K.1 | with_reducible apply sendGrant_keeps K.1
    | with_reducible apply tierRead_keeps K | split | with_reducible refine fst_keeps (by assumption) ?_

theorem cohServeHome_keeps (K : Closed P) (s : State) (k : Nat) (e : DirEnt) (tx : CohTx) (h : P s) : P (cohServeHome s k e tx) := by
  unfold cohServeHome
  repeat' first
    | with_reducible assumption | intro _ | with_reducible apply setTx_keeps K.1
    | with_reducible apply sendCohAck_keeps K.1 | with_reducible apply grantFromHome_keeps K
    | with_reducible apply cohEnd_keeps K.1 | with_reducible apply sendInval_keeps K.1
    | with_reducible apply foldl_keeps | split

theorem cohAdvance_keeps (K : Closed P) (s : State) (k : Nat) (h : P s) : P (cohAdvance s k) := by
  unfold cohAdvance
  repeat' first
    | with_reducible assumption | with_reducible apply sendFwd_keeps K.1 | with_reducible apply setTx_keeps K.1
    | with_reducible apply cohServeHome_keeps K | split

theorem fwdAnswered_keeps (K : Closed P) (s : State) (k : Nat) (e : DirEnt) (tx : CohTx) (w code : Nat) (h : P s) : P (fwdAnswered s k e tx w code) := by
  unfold fwdAnswered
  repeat' first
    | with_reducible assumption
    | (extract_lets +onlyGivenNames n0
       clear_value n0; revert n0; intro _)
    | with_reducible apply cohAdvance_keeps K | with_reducible apply setTx_keeps K.1
    | with_reducible apply cohEnd_keeps K.1 | split | fail_if_no_progress with_reducible refine K.lit ?_

theorem recallTx_keeps (K : Regular P) (s : State) (k : Nat) (e : DirEnt) (inv : List Nat) (own : Option Nat) (h : P s) : P (recallTx s k e inv own) := by
  unfold recallTx
  repeat' first
    | with_reducible assumption | intro _ | with_reducible apply sendInval_keeps K
    | with_reducible apply sendFwd_keeps K | with_reducible apply setDir_keeps K
    | with_reducible apply nextTag_keeps K | with_reducible apply foldl_keeps | split

theorem recallLine_keeps (K : Regular P) (s : State) (k : Nat) (e : DirEnt) (h : P s) : P (recallLine s k e) := by
  unfold recallLine
  repeat' first | with_reducible assumption | with_reducible apply recallTx_keeps K

theorem teardownDone_keeps (K : Regular P) (s : State) (dom : Nat) (h : P s) : P (teardownDone s dom) := by
  unfold teardownDone
  repeat' first
    | with_reducible assumption | intro _ | with_reducible apply cohCount_keeps K
    | with_reducible apply cohWakeDom_keeps K | with_reducible apply State.wr_keeps K
    | with_reducible apply evPf0_keeps K | with_reducible apply evPart_keeps K
    | with_reducible apply originate_keeps K | with_reducible apply nextSeq_keeps K
    | with_reducible apply foldl_keeps | split | fail_if_no_progress with_reducible refine K.lit ?_

theorem cohPoison_keeps (K : Closed P) (s : State) (dom pl : Nat) (h : P s) : P (cohPoison s dom pl) := by
  unfold cohPoison
  repeat' first
    | with_reducible assumption | with_reducible apply State.count_keeps K.1
    | with_reducible apply State.poisonLine_keeps K

theorem txRefused_keeps (K : Regular P) (t : State) (dom : Nat) (e : DirEnt) (h : P t) : P (txRefused t dom e) := by
  unfold txRefused
  repeat' first | with_reducible assumption | with_reducible apply sendErr_keeps K | split

theorem teardownEnt_keeps (K : Closed P) (dom cause failed : Nat) (t : State) (ke : Nat × DirEnt) (h : P t) : P (teardownEnt dom cause failed t ke) := by
  unfold teardownEnt
  repeat' first
    | with_reducible assumption | with_reducible apply txRefused_keeps K.1 | with_reducible apply cohPoison_keeps K
    | with_reducible apply cohWake_keeps K.1 | with_reducible apply delDir_keeps K.1
    | with_reducible apply recallTx_keeps K.1 | with_reducible apply ite_keeps

theorem teardown_keeps (K : Closed P) (s : State) (dom cause failed poisoned : Nat) (h : P s) : P (teardown s dom cause failed poisoned) := by
  unfold teardown
  repeat' first
    | with_reducible assumption | with_reducible apply State.wr_keeps K.1 | with_reducible apply teardownDone_keeps K.1
    | with_reducible apply teardownEnt_keeps K | with_reducible apply foldl_keeps | with_reducible apply ite_keeps
    | fail_if_no_progress with_reducible refine K.lit ?_

theorem teardownPart_keeps (K : Closed P) (s : State) (p cause : Nat) (h : P s) : P (teardownPart s p cause) := by
  unfold teardownPart
  repeat' first
    | with_reducible assumption | intro _ | with_reducible apply teardown_keeps K | with_reducible apply foldl_keeps
    | with_reducible apply ite_keeps

theorem dirEntBad_keeps (K : Closed P) (s : State) (sl pl : Nat) (h : P s) : P (dirEntBad s sl pl) := by
  unfold dirEntBad
  repeat' first
    | with_reducible assumption | intro _ | with_reducible apply teardown_keeps K | with_reducible apply foldl_keeps

theorem teardownBlind_keeps (K : Closed P) (sl : Nat) (s : State) (dom : Nat) (h : P s) : P (teardownBlind sl s dom) := by
  unfold teardownBlind
  repeat' first
    | with_reducible assumption | intro _ | with_reducible apply cohWake_keeps K.1
    | with_reducible apply delDir_keeps K.1 | with_reducible apply txRefused_keeps K.1
    | with_reducible apply teardown_keeps K | with_reducible apply State.poisonLine_keeps K
    | with_reducible apply foldl_keeps

theorem dirUnreadable_keeps (K : Closed P) (s : State) (p sl : Nat) (h : P s) : P (dirUnreadable s p sl) := by
  unfold dirUnreadable
  repeat' first
    | with_reducible assumption | with_reducible apply teardownBlind_keeps K | with_reducible apply foldl_keeps

theorem dirRoom_keeps (K : Regular P) (s : State) (k pl : Nat) (h : P s) : (dirRoom s k pl).Has P := by
  unfold dirRoom
  repeat' first
    | with_reducible assumption
    | (extract_lets +onlyGivenNames n0
       clear_value n0; revert n0; intro _)
    | with_reducible apply recallLine_keeps K | with_reducible apply State.count_keeps K | split
    | dsimp -zeta only [DirRoom.Has]

theorem withEntry_keeps (K : Regular P) (s : State) (k pl : Nat) (t : State) (h : P s) (h1 : P t) : (withEntry s k pl t).Has P := by
  unfold withEntry
  repeat' first
    | with_reducible assumption | with_reducible apply State.count_keeps K | with_reducible apply CohStep.ite_keeps
    | dsimp -zeta only [CohStep.Has]

theorem cohAccess_keeps (K : Regular P) (s : State) (k : Nat) (who : Holder) (kind : CohKind) (h : P s) : (cohAccess s k who kind).Has P := by
  unfold cohAccess
  repeat' first
    | with_reducible assumption
    | (extract_lets +onlyGivenNames f0
       (have f1 := fun a => f0 a; clear f1)
       (try unfold f0); clear f0)
    | (extract_lets +onlyGivenNames n0
       clear_value n0; revert n0; intro _)
    | with_reducible apply openTx_keeps K | with_reducible apply withEntry_keeps K | split
    | dsimp -zeta only [CohStep.Has] | fail_if_no_progress with_reducible refine K.lit ?_

theorem arithDone_keeps (K : Regular P) (s : State) (x1 : AEnv) (h : P s) : P (arithDone s x1) := by
  unfold arithDone
  repeat' first | with_reducible assumption | fail_if_no_progress with_reducible refine K.lit ?_

theorem arithFlags_keeps (K : Regular P) (s : State) (exc : Bool) (p fl arg0 arg1 : Nat) (h : P s) : P (arithFlags s exc p fl arg0 arg1) := by
  unfold arithFlags
  repeat' first
    | with_reducible assumption | with_reducible apply State.wr_keeps K | with_reducible apply evPart_keeps K
    | with_reducible apply ite_keeps

theorem noteFlight_keeps (K : Regular P) (s : State) (slot : Nat) (q : LReq) (h : P s) : P (noteFlight s slot q) := by
  unfold noteFlight
  repeat' first | with_reducible assumption | split | fail_if_no_progress with_reducible refine K.lit ?_

theorem resolvePa_keeps (K : Regular P) (s : State) (q : LReq) (pa : Nat) (h : P s) : P (resolvePa s q pa).1 := by
  unfold resolvePa
  repeat' first
    | with_reducible assumption
    | (extract_lets +onlyGivenNames n0
       clear_value n0; revert n0; intro _)
    | with_reducible apply ownership_keeps K | with_reducible apply denied_keeps K | split
    | with_reducible refine fst_keeps (by assumption) ?_

theorem resolveNew_keeps (K : Closed P) (s : State) (slot : Nat) (q : LReq) (h : P s) : P (resolveNew s slot q).1 := by
  unfold resolveNew
  repeat' first
    | with_reducible assumption
    | (extract_lets +onlyGivenNames n0
       clear_value n0; revert n0; intro _)
    | with_reducible apply State.count_keeps K.1 | with_reducible apply pf0XltRecord_keeps K.1
    | with_reducible apply denied_keeps K.1 | with_reducible apply resolvePa_keeps K.1
    | with_reducible apply translate_keeps K | with_reducible apply joinFault_keeps K.1 | split
    | with_reducible refine fst_keeps (by assumption) ?_

theorem resolveLine_keeps (K : Closed P) (s : State) (slot : Nat) (q : LReq) (h : P s) : P (resolveLine s slot q).1 := by
  unfold resolveLine
  repeat' first
    | with_reducible assumption | with_reducible apply noteFlight_keeps K.1 | with_reducible apply setFlight_keeps K.1
    | with_reducible apply resolveNew_keeps K | split | with_reducible refine fst_keeps (by assumption) ?_

theorem noteTouch_keeps (K : Regular P) (s : State) (who : Holder) (b line : Nat) (h : P s) : P (noteTouch s who b line) := by
  unfold noteTouch
  repeat' first | with_reducible assumption | split | fail_if_no_progress with_reducible refine K.lit ?_

theorem readRes_keeps (K : Closed P) (s0 : State) (q : LReq) (r : Res) (h : P s0) : P (readRes s0 q r).1 := by
  unfold readRes
  repeat' first
    | with_reducible assumption
    | (extract_lets +onlyGivenNames t0
       refine imp_elim (p := P t0) ?_ ?_
       on_goal 1 => (unfold t0; clear t0)
       on_goal 2 => (clear_value t0; revert t0; intro _ _))
    | with_reducible apply noteTouch_keeps K.1 | with_reducible apply tierRead_keeps K
    | with_reducible apply cohAccess_keeps K.1 | split | with_reducible refine CohStep.memory_keeps (by assumption) ?_
    | with_reducible refine CohStep.data_keeps (by assumption) ?_
    | with_reducible refine CohStep.wait_keeps (by assumption) ?_
    | with_reducible refine CohStep.full_keeps (by assumption) ?_

theorem writeRes_keeps (K : Closed P) (s0 : State) (q : LReq) (r : Res) (data : List Byte) (h : P s0) : P (writeRes s0 q r data).1 := by
  unfold writeRes
  repeat' first
    | with_reducible assumption
    | (extract_lets +onlyGivenNames t0
       refine imp_elim (p := P t0) ?_ ?_
       on_goal 1 => (unfold t0; clear t0)
       on_goal 2 => (clear_value t0; revert t0; intro _ _))
    | with_reducible apply noteTouch_keeps K.1 | with_reducible apply tierWrite_keeps K
    | with_reducible apply cohAccess_keeps K.1 | split | with_reducible refine CohStep.memory_keeps (by assumption) ?_
    | with_reducible refine CohStep.data_keeps (by assumption) ?_
    | with_reducible refine CohStep.wait_keeps (by assumption) ?_
    | with_reducible refine CohStep.full_keeps (by assumption) ?_

theorem readPlain_keeps (K : Closed P) (s : State) (slot : Nat) (q : LReq) (h : P s) : P (readPlain s slot q).1 := by
  unfold readPlain
  repeat' first
    | with_reducible assumption | with_reducible apply resolveLine_keeps K | with_reducible apply readRes_keeps K
    | split | with_reducible refine fst_keeps (by assumption) ?_

theorem readLines_keeps (K : Closed P) (s : State) (slot : Nat) (q : LReq) (x3 : List Nat) (x4 : List Byte) (h : P s) : P (readLines s slot q x3 x4).1 := by
  induction x3 generalizing s x4 with
  | nil => exact h
  | cons a as ih =>
    rw [readLines]
    have hr := readPlain_keeps K s slot { q with addr := a } h
    revert hr
    generalize readPlain s slot { q with addr := a } = r
    intro hr
    obtain ⟨t, l⟩ := r
    cases l <;> first | exact hr | exact ih _ _ hr

theorem readView_keeps (K : Closed P) (s : State) (slot : Nat) (q : LReq) (v : ViewSnap) (h : P s) : P (readView s slot q v).1 := by
  unfold readView
  repeat' first
    | with_reducible assumption | with_reducible apply arithFlags_keeps K.1 | with_reducible apply arithDone_keeps K.1
    | with_reducible apply readLines_keeps K | split | with_reducible refine fst_keeps (by assumption) ?_

theorem lineRead_keeps (K : Closed P) (s : State) (slot : Nat) (q : LReq) (h : P s) : P (lineRead s slot q).1 := by
  unfold lineRead
  repeat' first
    | with_reducible assumption
    | (extract_lets +onlyGivenNames t0
       refine imp_elim (p := P t0) ?_ ?_
       on_goal 1 => (unfold t0; clear t0)
       on_goal 2 => (clear_value t0; revert t0; intro _ _))
    | with_reducible apply noteFlight_keeps K.1 | with_reducible apply readView_keeps K
    | with_reducible apply readPlain_keeps K | split

theorem lineWrite_keeps (K : Closed P) (s : State) (slot : Nat) (q : LReq) (data : List Byte) (h : P s) : P (lineWrite s slot q data).1 := by
  unfold lineWrite
  repeat' first
    | with_reducible assumption | with_reducible apply resolveLine_keeps K | with_reducible apply writeRes_keeps K
    | split | with_reducible refine fst_keeps (by assumption) ?_

end Sys2Proof.Machine
end

