-- ==== Sys2Proof/Laws/KeepWork.lean ====
section
/-!
SUPPORT. Sys2Proof/Laws/KeepWork.lean: a closed property is kept by each operation of sync objects, descriptors and programs.
-/
namespace Sys2Proof.Machine

variable {P : State → Prop}

theorem setObj_keeps (K : Regular P) (s : State) (o w0 w1 : Nat) (h : P s) : P (setObj s o w0 w1) := by
  unfold setObj
  repeat' first | with_reducible assumption | with_reducible apply State.wrReg_keeps K

theorem wakeOnce_keeps (K : Regular P) (s : State) (o : Nat) (reinit : Bool) (h : P s) : P (wakeOnce s o reinit) := by
  unfold wakeOnce
  repeat' first
    | with_reducible assumption | intro _ | with_reducible apply setObj_keeps K | with_reducible apply foldl_keeps
    | with_reducible apply ite_keeps | fail_if_no_progress with_reducible refine K.lit ?_

theorem wakeN_keeps (K : Regular P) (o : Nat) (reinit : Bool) (x2 : Nat) (x3 : State) (h : P x3) : P (wakeN o reinit x2 x3) := by
  induction x2 generalizing o reinit x3 with
  | zero =>
    rw [wakeN]
    repeat' first | with_reducible assumption
  | succ n ih =>
    rw [wakeN]
    repeat' first
      | with_reducible assumption | with_reducible apply ih | with_reducible apply wakeOnce_keeps K
      | with_reducible apply ite_keeps

theorem wakeWaits_keeps (K : Regular P) (s : State) (o : Nat) (reinit : Bool) (h : P s) : P (wakeWaits s o reinit) := by
  unfold wakeWaits
  repeat' first | with_reducible assumption | with_reducible apply wakeN_keeps K

theorem placeAcc_keeps (K : Closed P) (s : State) (p o sl x4 x5 : Nat) (h : P s) : ∀ t, placeAcc s p o sl x4 x5 = some t → P t := by
  induction x4 generalizing s x5 with
  | zero => intro t e; rw [placeAcc] at e; injection e with e; exact e ▸ h
  | succ n ih =>
    intro t e
    rw [placeAcc] at e
    split at e
    · exact ih _ _ (setNear_keeps K.1 _ _ h) t e
    · split at e
      · next u hu => exact ih _ _ (setNear_keeps K.1 _ _ (fst_keeps hu (nearRoom_keeps K _ _ _ _ h))) t e
      · cases e

theorem freeAcc_keeps (K : Regular P) (s : State) (o : Nat) (h : P s) : P (freeAcc s o) := by
  unfold freeAcc
  repeat' first | with_reducible assumption | with_reducible apply setNear_keeps K

theorem bmapRoom_keeps (K : Closed P) (s : State) (o : Nat) (x : SetX) (guard : Bool) (h : P s) : ∀ t, bmapRoom s o x guard = some t → P t := by
  intro t e
  unfold bmapRoom at e
  split at e
  · exact placeAcc_keeps K _ _ _ _ _ _ h t e
  · cases e

theorem armOpen_keeps (K : Regular P) (s : State) (o : Nat) (x : SetX) (g : Bool) (h : P s) : P (armOpen s o x g) := by
  unfold armOpen
  repeat' first
    | with_reducible assumption | with_reducible apply wakeWaits_keeps K | with_reducible apply setObj_keeps K
    | fail_if_no_progress with_reducible refine K.lit ?_

theorem armFinish_keeps (K : Closed P) (s : State) (o : Nat) (x : SetX) (guard : Bool) (h : P s) : P (armFinish s o x guard) := by
  unfold armFinish
  repeat' first
    | with_reducible assumption | with_reducible refine bmapRoom_keeps K _ _ _ _ ?_
    | with_reducible apply armOpen_keeps K.1 | with_reducible apply State.count_keeps K.1
    | with_reducible apply evPart_keeps K.1 | split | with_reducible refine some_keeps (by assumption) ?_

theorem armStart_keeps (K : Closed P) (s : State) (o p : Nat) (l : List Word) (space : Nat) (who : Holder) (h : P s) : P (armStart s o p l space who).1 := by
  unfold armStart
  repeat' first
    | with_reducible assumption | with_reducible refine placeAcc_keeps K _ _ _ _ _ _ ?_
    | (extract_lets +onlyGivenNames t0
       refine imp_elim (p := P t0) ?_ ?_
       on_goal 1 => (unfold t0; clear t0)
       on_goal 2 => (clear_value t0; revert t0; intro _ _))
    | (extract_lets +onlyGivenNames n0
       clear_value n0; revert n0; intro _)
    | with_reducible apply State.count_keeps K.1 | with_reducible apply armFinish_keeps K | split
    | with_reducible refine some_keeps (by assumption) ?_ | fail_if_no_progress with_reducible refine K.lit ?_

theorem armRelease_keeps (K : Regular P) (s : State) (o : Nat) (h : P s) : P (armRelease s o) := by
  unfold armRelease
  repeat' first
    | with_reducible assumption | with_reducible apply State.countDown_keeps K
    | with_reducible apply freeAcc_keeps K | with_reducible apply endFlights_keeps K
    | fail_if_no_progress with_reducible refine K.lit ?_

theorem setNotice_keeps (K : Regular P) (s : State) (o : Nat) (x : SetX) (h : P s) : P (setNotice s o x) := by
  unfold setNotice
  repeat' first
    | with_reducible assumption | intro _ | with_reducible apply originate_keeps K
    | with_reducible apply nextSeq_keeps K | with_reducible apply foldl_keeps | with_reducible apply ite_keeps

theorem endSet_keeps (K : Regular P) (s : State) (o st : Nat) (event count : Bool) (h : P s) : P (endSet s o st event count) := by
  unfold endSet
  repeat' first
    | with_reducible assumption | with_reducible apply freeAcc_keeps K | with_reducible apply endFlights_keeps K
    | with_reducible apply State.countDown_keeps K | with_reducible apply wakeWaits_keeps K
    | with_reducible apply setObj_keeps K | with_reducible apply State.count_keeps K
    | with_reducible apply arithFlags_keeps K | with_reducible apply evPart_keeps K
    | with_reducible apply setNotice_keeps K | split | fail_if_no_progress with_reducible refine K.lit ?_

theorem sopApply_keeps (K : Regular P) (s : State) (o sop arg : Nat) (h : P s) : P (sopApply s o sop arg).1 := by
  unfold sopApply
  repeat' first
    | with_reducible assumption | with_reducible apply wakeWaits_keeps K | with_reducible apply setObj_keeps K
    | with_reducible apply evPart_keeps K | with_reducible apply endSet_keeps K | with_reducible apply ite_fst_keeps
    | split

theorem syncSignal_keeps (K : Regular P) (s : State) (p o : Nat) (v : (Option Nat)) (h : P s) : P (syncSignal s p o v) := by
  unfold syncSignal
  repeat' first
    | with_reducible assumption
    | (extract_lets +onlyGivenNames n0
       clear_value n0; revert n0; intro _)
    | with_reducible apply State.count_keeps K | with_reducible apply sopApply_keeps K | split

theorem segRoom_keeps (K : Closed P) (s : State) (p sl o : Nat) (x : SetX) (seg : Nat) (h : P s) : ∀ t y, segRoom s p sl o x seg = some (t, y) → P t := by
  intro t y e
  unfold segRoom at e
  dsimp only at e
  split at e
  · injection e with e; injection e with e1 e2; exact e1 ▸ h
  · cases hp : placeAcc s p o sl (segAccLines x) x.nextAcc with
    | none => rw [hp] at e; cases e
    | some u =>
      rw [hp] at e
      injection e with e
      injection e with e1 e2
      exact e1 ▸ placeAcc_keeps K _ _ _ _ _ _ h u hp

theorem contribute_keeps (K : Closed P) (s : State) (p sl : Nat) (k : Pkt) (h : P s) : (contribute s p sl k).Has P := by
  unfold contribute
  repeat' first
    | with_reducible assumption | with_reducible refine segRoom_keeps K _ _ _ _ _ _ ?_
    | (extract_lets +onlyGivenNames f0
       (have f1 := fun a => f0 a; clear f1)
       (try unfold f0); clear f0)
    | (extract_lets +onlyGivenNames t0
       refine imp_elim (p := P t0) ?_ ?_
       on_goal 1 => (unfold t0; clear t0)
       on_goal 2 => (clear_value t0; revert t0; intro _ _))
    | (extract_lets +onlyGivenNames n0
       clear_value n0; revert n0; intro _)
    | with_reducible apply State.count_keeps K.1 | with_reducible apply setObj_keeps K.1
    | with_reducible apply wakeWaits_keeps K.1 | split | with_reducible refine somePair_keeps (by assumption) ?_
    | dsimp -zeta only [Judge.Has] | fail_if_no_progress with_reducible refine K.lit ?_

theorem resultBytes_keeps (K : Regular P) (s : State) (x : SetX) (h : P s) : P (resultBytes s x).1 := by
  unfold resultBytes
  repeat' first | with_reducible assumption | with_reducible apply arithDone_keeps K

theorem pushResult_keeps (K : Regular P) (s : State) (x : SetX) (img : List Byte) (h : P s) : P (pushResult s x img) := by
  unfold pushResult
  repeat' first
    | with_reducible assumption | intro _ | with_reducible apply originate_keeps K
    | with_reducible apply nextSeq_keeps K | with_reducible apply foldl_keeps | with_reducible apply ite_keeps

theorem writeResult_keeps (K : Closed P) (s : State) (o : Nat) (x : SetX) (img : List Byte) (x4 x5 : Nat) (h : P s) : P (writeResult s o x img x4 x5).1 := by
  induction x4 generalizing s o x img x5 with
  | zero =>
    rw [writeResult]
    repeat' first | with_reducible assumption
  | succ n ih =>
    rw [writeResult]
    repeat' first
      | with_reducible assumption | with_reducible apply ih | with_reducible apply endFlight_keeps K.1
      | with_reducible apply State.poisonLine_keeps K | with_reducible apply resolveLine_keeps K
      | with_reducible apply lineWrite_keeps K | split | with_reducible refine fst_keeps (by assumption) ?_

theorem completeSet_keeps (K : Closed P) (s : State) (o : Nat) (h : P s) : P (completeSet s o) := by
  unfold completeSet
  repeat' first
    | with_reducible assumption | with_reducible apply endSet_keeps K.1 | with_reducible apply pushResult_keeps K.1
    | with_reducible apply resultBytes_keeps K.1 | with_reducible apply writeResult_keeps K
    | with_reducible apply ite_keeps | split | fail_if_no_progress with_reducible refine K.lit ?_

theorem stopFinish_keeps (K : Regular P) (s : State) (r : Nat) (h : P s) : P (stopFinish s r) := by
  unfold stopFinish
  repeat' first
    | with_reducible assumption | with_reducible apply State.count_keeps K | with_reducible apply State.wr_keeps K
    | with_reducible apply State.setRingX_keeps K | with_reducible apply evOwner_keeps K
    | with_reducible apply ite_keeps | fail_if_no_progress with_reducible refine K.lit ?_

theorem stopRing_keeps (K : Regular P) (s : State) (r cause : Nat) (h : P s) : P (stopRing s r cause) := by
  unfold stopRing
  repeat' first
    | with_reducible assumption | with_reducible apply stopFinish_keeps K
    | with_reducible apply State.setRingX_keeps K | with_reducible apply ite_keeps

theorem putCompletion_keeps (K : Regular P) (s : State) (r : Nat) (ws : List Word) (pend : Bool) (h : P s) : P (putCompletion s r ws pend) := by
  unfold putCompletion
  repeat' first
    | with_reducible assumption | with_reducible apply State.count_keeps K | with_reducible apply stopRing_keeps K
    | with_reducible apply putSlot_keeps K | with_reducible apply ite_keeps
    | fail_if_no_progress with_reducible refine K.lit ?_

theorem flushHeld_keeps (K : Regular P) (s : State) (r x2 : Nat) (h : P s) : P (flushHeld s r x2) := by
  induction x2 generalizing s r with
  | zero =>
    rw [flushHeld]
    repeat' first | with_reducible assumption
  | succ n ih =>
    rw [flushHeld]
    repeat' first
      | with_reducible assumption | with_reducible apply ih | with_reducible apply putSlot_keeps K | split
      | fail_if_no_progress with_reducible refine K.lit ?_

theorem finish1_keeps (K : Regular P) (s : State) (r d : Nat) (ws : List Word) (status result done : Nat) (h : P s) : P (finish1 s r d ws status result done) := by
  unfold finish1
  repeat' first
    | with_reducible assumption | with_reducible apply endFlights_keeps K | with_reducible apply committed_keeps K
    | with_reducible apply syncSignal_keeps K | with_reducible apply putCompletion_keeps K
    | with_reducible apply State.setRingX_keeps K | with_reducible apply stopFinish_keeps K | split
    | fail_if_no_progress with_reducible refine K.lit ?_

theorem endDesc_keeps (K : Regular P) (s : State) (x : Started) (status result done : Nat) (h : P s) : P (endDesc s x status result done) := by
  unfold endDesc
  repeat' first
    | with_reducible assumption
    | (extract_lets +onlyGivenNames n0
       clear_value n0; revert n0; intro _)
    | with_reducible apply finish1_keeps K | with_reducible apply objJoin_keeps K | split
    | fail_if_no_progress with_reducible refine K.lit ?_

theorem settleFences_keeps (K : Regular P) (x0 : Nat) (x1 : State) (h : P x1) : P (settleFences x0 x1) := by
  induction x0 generalizing x1 with
  | zero =>
    rw [settleFences]
    repeat' first | with_reducible assumption
  | succ n ih =>
    rw [settleFences]
    repeat' first
      | with_reducible assumption | with_reducible apply ih | with_reducible apply endDesc_keeps K | split

theorem ungate_keeps (K : Regular P) (s : State) (p : Nat) (h : P s) : P (ungate s p) := by
  unfold ungate
  repeat' first | with_reducible assumption | fail_if_no_progress with_reducible refine K.lit ?_

theorem beginDesc_keeps (K : Regular P) (s0 : State) (r d : Nat) (ws : List Word) (h : P s0) : P (beginDesc s0 r d ws) := by
  unfold beginDesc
  repeat' first
    | with_reducible assumption | with_reducible apply ungate_keeps K
    | fail_if_no_progress with_reducible refine K.lit ?_

theorem drainBad_keeps (K : Regular P) (x0 : Nat) (x1 : State) (x2 : Nat) (h : P x1) : P (drainBad x0 x1 x2) := by
  induction x0 generalizing x1 x2 with
  | zero =>
    rw [drainBad]
    repeat' first | with_reducible assumption
  | succ n ih =>
    rw [drainBad]
    repeat' first
      | with_reducible assumption
      | (extract_lets +onlyGivenNames n0
         clear_value n0; revert n0; intro _)
      | with_reducible apply ih | with_reducible apply settleFences_keeps K | with_reducible apply finish1_keeps K
      | with_reducible apply beginDesc_keeps K | split

theorem finishDesc_keeps (K : Regular P) (s : State) (x : Started) (status result done : Nat) (h : P s) : P (finishDesc s x status result done) := by
  unfold finishDesc
  repeat' first
    | with_reducible assumption | with_reducible apply endDesc_keeps K | with_reducible apply settleFences_keeps K
    | with_reducible apply drainBad_keeps K

theorem dRead_keeps (K : Closed P) (s : State) (x : Started) (tag addr access need : Nat) (h : P s) : P (dRead s x tag addr access need).1 := by
  unfold dRead
  repeat' first | with_reducible assumption | with_reducible apply lineRead_keeps K | split

theorem dWrite_keeps (K : Closed P) (s : State) (x : Started) (tag addr : Nat) (data : List Byte) (access need : Nat) (h : P s) : P (dWrite s x tag addr data access need).1 := by
  unfold dWrite
  repeat' first | with_reducible assumption | with_reducible apply lineWrite_keeps K | split

theorem dPoison_keeps (K : Closed P) (s : State) (x : Started) (tag addr access need : Nat) (h : P s) : P (dPoison s x tag addr access need).1 := by
  unfold dPoison
  repeat' first
    | with_reducible assumption
    | (extract_lets +onlyGivenNames n0
       clear_value n0; revert n0; intro _)
    | with_reducible apply State.poisonLine_keeps K | with_reducible apply resolveLine_keeps K
    | with_reducible apply writeRes_keeps K | split | with_reducible refine fst_keeps (by assumption) ?_

theorem setStarted_keeps (K : Regular P) (s : State) (x : Started) (h : P s) : P (setStarted s x) := by
  unfold setStarted
  repeat' first | with_reducible assumption | fail_if_no_progress with_reducible refine K.lit ?_

theorem freeWays_keeps (K : Closed P) (s : State) (h : P s) : P (freeWays s) := by
  unfold freeWays
  repeat' first
    | with_reducible assumption | with_reducible apply rewait_keeps K.1 | with_reducible apply settleWbuf_keeps K

theorem dropWin_keeps (K : Regular P) (s : State) (x : Started) (w : Wait) (h : P s) : P (dropWin s x w) := by
  unfold dropWin
  repeat' first
    | with_reducible assumption | with_reducible apply ite_keeps
    | fail_if_no_progress with_reducible refine K.lit ?_

theorem winMoved_keeps (K : Closed P) (s0 t : State) (r d : Nat) (h : P s0) (h1 : P t) : P (winMoved s0 t r d) := by
  unfold winMoved
  repeat' first
    | with_reducible assumption | with_reducible apply freeWays_keeps K | with_reducible apply ite_keeps

theorem dLoop_keeps (K : Regular P) (step : State → Started → DStep) (x1 : Nat) (x2 : State) (x3 : Started) (g0 : ∀ t x, P t → (step t x).Has P) (h1 : P x2) : P (dLoop step x1 x2 x3) := by
  induction x1 generalizing x2 x3 with
  | zero => exact setStarted_keeps K _ _ h1
  | succ n ih =>
    rw [dLoop]
    have hs := g0 x2 x3 h1
    revert hs
    generalize step x2 x3 = r
    intro hs
    cases r with
    | more t y => exact ih _ _ (endFlights_keeps K _ _ hs)
    | done t y a b c => exact finishDesc_keeps K _ _ _ _ _ hs
    | stop t y w => exact setStarted_keeps K _ _ (dropWin_keeps K _ _ _ hs)

theorem dRun_keeps (K : Closed P) (step : State → Started → DStep) (fuel : Nat) (s : State) (x : Started) (g0 : ∀ t x, P t → (step t x).Has P) (h1 : P s) : P (dRun step fuel s x) := by
  unfold dRun
  repeat' first
    | with_reducible assumption | with_reducible apply winMoved_keeps K | with_reducible apply dLoop_keeps K.1

theorem dFail_keeps (K : Regular P) (s : State) (x : Started) (l : DLine) (cnt : Nat) (h : P s) : (dFail s x l cnt).Has P := by
  unfold dFail
  repeat' first | with_reducible assumption | split | dsimp -zeta only [DStep.Has]

theorem dReadMany_keeps (K : Closed P) (s : State) (x : Started) (tag access : Nat) (x4 : List Nat) (x5 : Nat) (x6 : List Byte) (h : P s) : P (dReadMany s x tag access x4 x5 x6).1 := by
  induction x4 generalizing s x tag access x5 x6 with
  | nil =>
    rw [dReadMany]
    repeat' first | with_reducible assumption
  | cons a as ih =>
    rw [dReadMany]
    repeat' first
      | with_reducible assumption | with_reducible apply ih | with_reducible apply dRead_keeps K | split
      | with_reducible refine fst_keeps (by assumption) ?_

theorem copyStep_keeps (K : Closed P) (s : State) (x : Started) (h : P s) : (copyStep s x).Has P := by
  unfold copyStep
  repeat' first
    | with_reducible assumption
    | (extract_lets +onlyGivenNames n0
       clear_value n0; revert n0; intro _)
    | with_reducible apply State.emit_keeps K.1 | with_reducible apply dPoison_keeps K
    | with_reducible apply ownRequest_keeps K.1 | with_reducible apply dRead_keeps K
    | with_reducible apply dWrite_keeps K | with_reducible apply dFail_keeps K.1 | split
    | with_reducible refine fst_keeps (by assumption) ?_ | dsimp -zeta only [DStep.Has]

theorem fillStep_keeps (K : Closed P) (s : State) (x : Started) (h : P s) : (fillStep s x).Has P := by
  unfold fillStep
  repeat' first
    | with_reducible assumption
    | (extract_lets +onlyGivenNames n0
       clear_value n0; revert n0; intro _)
    | with_reducible apply dWrite_keeps K | with_reducible apply dFail_keeps K.1 | split
    | with_reducible refine fst_keeps (by assumption) ?_ | dsimp -zeta only [DStep.Has]

theorem digestStep_keeps (K : Closed P) (s : State) (x : Started) (h : P s) : (digestStep s x).Has P := by
  unfold digestStep
  repeat' first
    | with_reducible assumption
    | (extract_lets +onlyGivenNames n0
       clear_value n0; revert n0; intro _)
    | with_reducible apply dPoison_keeps K | with_reducible apply dWrite_keeps K
    | with_reducible apply dRead_keeps K | with_reducible apply dFail_keeps K.1 | split
    | with_reducible refine fst_keeps (by assumption) ?_ | dsimp -zeta only [DStep.Has]

theorem dEnvDone_keeps (K : Regular P) (s : State) (x : Started) (x2 : AEnv) (h : P s) : P (dEnvDone s x x2).1 := by
  unfold dEnvDone
  repeat' first | with_reducible assumption | with_reducible apply arithDone_keeps K

theorem arithEnd_keeps (K : Regular P) (s : State) (x : Started) (h : P s) : P (arithEnd s x) := by
  unfold arithEnd
  repeat' first
    | with_reducible assumption | with_reducible apply State.count_keeps K | with_reducible apply arithFlags_keeps K
    | with_reducible apply ite_keeps

theorem arithDoneStep_keeps (K : Regular P) (s : State) (x : Started) (st cnt : Nat) (h : P s) : (arithDoneStep s x st cnt).Has P := by
  unfold arithDoneStep
  repeat' first | with_reducible assumption | with_reducible apply arithEnd_keeps K | dsimp -zeta only [DStep.Has]

theorem arithFail_keeps (K : Regular P) (s : State) (x : Started) (l : DLine) (cnt : Nat) (h : P s) : (arithFail s x l cnt).Has P := by
  unfold arithFail
  repeat' first
    | with_reducible assumption | with_reducible apply arithDoneStep_keeps K | split | dsimp -zeta only [DStep.Has]

theorem outStep_keeps (K : Closed P) (s : State) (x : Started) (k cnt : Nat) (h : P s) : (outStep s x k cnt).Has P := by
  unfold outStep
  repeat' first
    | with_reducible assumption
    | (extract_lets +onlyGivenNames n0
       clear_value n0; revert n0; intro _)
    | with_reducible apply dPoison_keeps K | with_reducible apply dWrite_keeps K
    | with_reducible apply arithDoneStep_keeps K.1 | with_reducible apply arithFail_keeps K.1 | split
    | with_reducible refine fst_keeps (by assumption) ?_ | dsimp -zeta only [DStep.Has]

theorem convertStep_keeps (K : Closed P) (s : State) (x : Started) (h : P s) : (convertStep s x).Has P := by
  unfold convertStep
  repeat' first
    | with_reducible assumption
    | (extract_lets +onlyGivenNames n0
       clear_value n0; revert n0; intro _)
    | with_reducible apply dEnvDone_keeps K.1 | with_reducible apply dRead_keeps K
    | with_reducible apply outStep_keeps K | with_reducible apply arithDoneStep_keeps K.1
    | with_reducible apply arithFail_keeps K.1 | split | with_reducible refine fst_keeps (by assumption) ?_
    | dsimp -zeta only [DStep.Has] | fail_if_no_progress with_reducible refine K.lit ?_

theorem dBytes_keeps (K : Closed P) (s : State) (x : Started) (x2 n : Nat) (h : P s) : P (dBytes s x x2 n).1 := by
  unfold dBytes
  repeat' first
    | with_reducible assumption | with_reducible apply dReadMany_keeps K | split
    | with_reducible refine fst_keeps (by assumption) ?_

theorem bagRows_keeps (K : Closed P) (s : State) (x : Started) (x2 : List Nat) (x3 : List (List Num)) (h : P s) : P (bagRows s x x2 x3).1 := by
  induction x2 generalizing s x x3 with
  | nil =>
    rw [bagRows]
    repeat' first | with_reducible assumption
  | cons a as ih =>
    rw [bagRows]
    repeat' first
      | with_reducible assumption | with_reducible apply ih | with_reducible apply dBytes_keeps K | split
      | with_reducible refine fst_keeps (by assumption) ?_

theorem gatherStep_keeps (K : Closed P) (s : State) (x : Started) (h : P s) : (gatherStep s x).Has P := by
  unfold gatherStep
  repeat' first
    | with_reducible assumption
    | (extract_lets +onlyGivenNames n0
       clear_value n0; revert n0; intro _)
    | with_reducible apply dBytes_keeps K | with_reducible apply bagRows_keeps K
    | with_reducible apply dEnvDone_keeps K.1 | with_reducible apply outStep_keeps K
    | with_reducible apply arithDoneStep_keeps K.1 | with_reducible apply arithFail_keeps K.1 | split
    | with_reducible refine fst_keeps (by assumption) ?_ | dsimp -zeta only [DStep.Has]
    | fail_if_no_progress with_reducible refine K.lit ?_

theorem scatterStep_keeps (K : Closed P) (s : State) (x : Started) (h : P s) : (scatterStep s x).Has P := by
  unfold scatterStep
  repeat' first
    | with_reducible assumption
    | (extract_lets +onlyGivenNames n0
       clear_value n0; revert n0; intro _)
    | with_reducible apply dBytes_keeps K | with_reducible apply dRead_keeps K | with_reducible apply dWrite_keeps K
    | with_reducible apply dEnvDone_keeps K.1 | with_reducible apply outStep_keeps K
    | with_reducible apply arithDoneStep_keeps K.1 | with_reducible apply arithFail_keeps K.1 | split
    | with_reducible refine fst_keeps (by assumption) ?_ | dsimp -zeta only [DStep.Has]

theorem pageStep_keeps (K : Closed P) (s : State) (x : Started) (h : P s) : (pageStep s x).Has P := by
  unfold pageStep
  repeat' first
    | with_reducible assumption
    | (extract_lets +onlyGivenNames n0
       clear_value n0; revert n0; intro _)
    | with_reducible apply dBytes_keeps K | with_reducible apply dRead_keeps K
    | with_reducible apply outStep_keeps K | with_reducible apply dFail_keeps K.1 | split
    | with_reducible refine fst_keeps (by assumption) ?_ | dsimp -zeta only [DStep.Has]
    | fail_if_no_progress with_reducible refine K.lit ?_

theorem setProgValid_keeps (K : Regular P) (s : State) (p slot v : Nat) (h : P s) : P (setProgValid s p slot v) := by
  unfold setProgValid
  repeat' first | with_reducible assumption | with_reducible apply State.wrReg_keeps K

theorem progStat_keeps (K : Regular P) (s : State) (p state reason opidx slot : Nat) (h : P s) : P (progStat s p state reason opidx slot) := by
  unfold progStat
  repeat' first | with_reducible assumption | with_reducible apply State.wrReg_keeps K

theorem loadEnd_keeps (K : Regular P) (s : State) (p slot state reason opidx : Nat) (h : P s) : P (loadEnd s p slot state reason opidx) := by
  unfold loadEnd
  repeat' first
    | with_reducible assumption | with_reducible apply evPart_keeps K | with_reducible apply progStat_keeps K
    | with_reducible apply endFlights_keeps K | fail_if_no_progress with_reducible refine K.lit ?_

theorem loadGo_keeps (K : Regular P) (s : State) (p : Nat) (h : P s) : P (loadGo s p) := by
  unfold loadGo
  repeat' first
    | with_reducible assumption | with_reducible apply loadEnd_keeps K | with_reducible apply progStat_keeps K
    | with_reducible apply ite_keeps | fail_if_no_progress with_reducible refine K.lit ?_

theorem progClear_keeps (K : Regular P) (s : State) (p : Nat) (h : P s) : P (progClear s p) := by
  unfold progClear
  repeat' first
    | with_reducible assumption | with_reducible apply progStat_keeps K | with_reducible apply setProgValid_keeps K
    | with_reducible apply ite_keeps | fail_if_no_progress with_reducible refine K.lit ?_

theorem readImage_keeps (K : Closed P) (s : State) (p tag x3 x4 : Nat) (x5 : List Byte) (h : P s) : P (readImage s p tag x3 x4 x5).1 := by
  induction x4 generalizing s p tag x3 x5 with
  | zero =>
    rw [readImage]
    repeat' first | with_reducible assumption
  | succ n ih =>
    rw [readImage]
    repeat' first
      | with_reducible assumption | with_reducible apply ih | with_reducible apply lineRead_keeps K | split
      | with_reducible refine fst_keeps (by assumption) ?_

theorem loadTake_keeps (K : Regular P) (s : State) (p slot n : Nat) (bs : List Byte) (h : P s) : P (loadTake s p slot n bs) := by
  unfold loadTake
  repeat' first
    | with_reducible assumption
    | (extract_lets +onlyGivenNames n0
       clear_value n0; revert n0; intro _)
    | with_reducible apply loadEnd_keeps K | with_reducible apply setProgValid_keeps K | split
    | fail_if_no_progress with_reducible refine K.lit ?_

theorem loadRun_keeps (K : Closed P) (s : State) (p : Nat) (h : P s) : P (loadRun s p) := by
  unfold loadRun
  repeat' first
    | with_reducible assumption
    | (extract_lets +onlyGivenNames f0
       (have f1 := fun a => f0 a; clear f1)
       (try unfold f0); clear f0)
    | (extract_lets +onlyGivenNames n0
       clear_value n0; revert n0; intro _)
    | with_reducible apply loadEnd_keeps K.1 | with_reducible apply loadTake_keeps K.1
    | with_reducible apply readImage_keeps K | split | with_reducible refine fst_keeps (by assumption) ?_
    | fail_if_no_progress with_reducible refine K.lit ?_

theorem setInvoc_keeps (K : Regular P) (s : State) (x : Started) (v : Invoc) (h : P s) : P (setInvoc s x v) := by
  unfold setInvoc
  repeat' first | with_reducible assumption | fail_if_no_progress with_reducible refine K.lit ?_

theorem setCell_keeps (K : Regular P) (s : State) (c : Nat) (x : Cell) (h : P s) : P (setCell s c x) := by
  unfold setCell
  repeat' first | with_reducible assumption | fail_if_no_progress with_reducible refine K.lit ?_

theorem placeTile_keeps (K : Regular P) (s : State) (key sl : Nat) (h : P s) : ∀ t y, placeTile s key sl = some (t, y) → P t := by
  intro t y e
  unfold placeTile at e
  obtain ⟨c, -, hc⟩ := Option.map_eq_some_iff.mp e
  injection hc with hc
  exact hc ▸ setCell_keeps K _ _ _ h

theorem freeCell_keeps (K : Regular P) (s : State) (key : Nat) (cell : Option Nat) (h : P s) : P (freeCell s key cell) := by
  unfold freeCell
  repeat' first
    | with_reducible assumption | with_reducible apply rewait_keeps K | with_reducible apply setCell_keeps K | split

theorem cellLost_keeps (K : Regular P) (s : State) (c : Nat) (h : P s) : P (cellLost s c) := by
  unfold cellLost
  repeat' first
    | with_reducible assumption | with_reducible apply rewait_keeps K
    | fail_if_no_progress with_reducible refine K.lit ?_

theorem seedCells_keeps (K : Regular P) (s : State) (p : Nat) (h : P s) : P (seedCells s p) := by
  unfold seedCells
  repeat' first
    | with_reducible assumption | intro _ | with_reducible apply setCell_keeps K
    | with_reducible apply State.tickFresh_keeps K | with_reducible apply foldl_keeps

theorem invocGone_keeps (K : Regular P) (s : State) (x : Started) (v : Invoc) (h : P s) : P (invocGone s x v) := by
  unfold invocGone
  repeat' first
    | with_reducible assumption | with_reducible apply freeCell_keeps K | with_reducible apply State.count_keeps K
    | with_reducible apply arithFlags_keeps K | with_reducible apply ite_keeps
    | fail_if_no_progress with_reducible refine K.lit ?_

theorem invocEnd_keeps (K : Regular P) (s : State) (x : Started) (v : Invoc) (status : Nat) (h : P s) : (invocEnd s x v status).Has P := by
  unfold invocEnd
  repeat' first
    | with_reducible assumption | with_reducible apply invocGone_keeps K | with_reducible apply State.count_keeps K
    | with_reducible apply ite_keeps | dsimp -zeta only [DStep.Has]

theorem invocPar_keeps (K : Regular P) (s : State) (x : Started) (v : Invoc) (h : P s) : P (invocPar s x v).1 := by
  unfold invocPar
  repeat' first
    | with_reducible assumption | with_reducible apply objJoin_keeps K | with_reducible apply ite_fst_keeps
    | fail_if_no_progress with_reducible refine K.lit ?_

theorem readTileIn_keeps (K : Closed P) (s : State) (x : Started) (v : Invoc) (t n k : Nat) (h : P s) : P (readTileIn s x v t n k).1 := by
  unfold readTileIn
  repeat' first
    | with_reducible assumption
    | (extract_lets +onlyGivenNames n0
       clear_value n0; revert n0; intro _)
    | with_reducible apply dReadMany_keeps K | split | with_reducible refine fst_keeps (by assumption) ?_

theorem readTile_keeps (K : Closed P) (s : State) (x : Started) (v : Invoc) (t n : Nat) (h : P s) : P (readTile s x v t n).1 := by
  unfold readTile
  repeat' first
    | with_reducible assumption | intro _
    | (extract_lets +onlyGivenNames t0
       refine imp_elim (p := P t0.1) ?_ ?_
       on_goal 1 => (unfold t0; clear t0)
       on_goal 2 => (clear_value t0; revert t0; intro _ _))
    | with_reducible apply readTileIn_keeps K | with_reducible apply foldl_fst_keeps | split
    | with_reducible refine fst_keeps (by assumption) ?_

theorem wildTile_keeps (K : Regular P) (s : State) (v : Invoc) (ws : List Word) (t n : Nat) (h : P s) : P (wildTile s v ws t n).1 := by
  unfold wildTile
  repeat' first | with_reducible assumption | fail_if_no_progress with_reducible refine K.lit ?_

theorem wildAcc_keeps (K : Regular P) (s : State) (acc : List AccW) (h : P s) : P (wildAcc s acc).1 := by
  unfold wildAcc
  repeat' first | with_reducible assumption | fail_if_no_progress with_reducible refine K.lit ?_

theorem tileEnds_keeps (K : Regular P) (s : State) (x : Started) (v : Invoc) (h : P s) : P (tileEnds s x v) := by
  unfold tileEnds
  repeat' first
    | with_reducible assumption | with_reducible apply setInvoc_keeps K | with_reducible apply freeCell_keeps K

theorem tileReady_keeps (K : Regular P) (s : State) (x : Started) (v : Invoc) (acc : List AccW) (outs : List TileOut) (h : P s) : P (tileReady s x v acc outs) := by
  unfold tileReady
  repeat' first
    | with_reducible assumption | with_reducible apply tileEnds_keeps K | with_reducible apply setInvoc_keeps K
    | with_reducible apply ite_keeps

theorem lineEnds_keeps (K : Regular P) (s : State) (x : Started) (v : Invoc) (h : P s) : P (lineEnds s x v) := by
  unfold lineEnds
  repeat' first
    | with_reducible assumption | with_reducible apply tileEnds_keeps K | with_reducible apply setInvoc_keeps K
    | with_reducible apply ite_keeps

theorem badOnce_keeps (K : Regular P) (s : State) (v : Invoc) (t : Nat) (h : P s) : P (badOnce s v t).1 := by
  unfold badOnce
  repeat' first
    | with_reducible assumption | with_reducible apply State.count_keeps K | with_reducible apply ite_fst_keeps

theorem wildLine_keeps (K : Closed P) (s : State) (x : Started) (tag x3 : Nat) (h : P s) : P (wildLine s x tag x3) := by
  unfold wildLine
  repeat' first
    | with_reducible assumption | with_reducible apply State.setLine_keeps K
    | with_reducible apply resolveLine_keeps K | split | with_reducible refine fst_keeps (by assumption) ?_
    | fail_if_no_progress with_reducible refine K.lit ?_

theorem invocReset_keeps (K : Closed P) (s : State) (x : Started) (v : Invoc) (h : P s) : P (invocReset s x v) := by
  unfold invocReset
  repeat' first
    | with_reducible assumption | intro _ | with_reducible apply invocGone_keeps K.1
    | with_reducible apply wildLine_keeps K | with_reducible apply foldl_keeps

theorem invocEvents_keeps (K : Regular P) (s : State) (x : Started) (v : Invoc) (h : P s) : P (invocEvents s x v) := by
  unfold invocEvents
  repeat' first | with_reducible assumption | with_reducible apply evOwner_keeps K | with_reducible apply ite_keeps

theorem deliverTgt_keeps (K : Closed P) (s : State) (x : Started) (v : Invoc) (k : Nat) (h : P s) : (deliverTgt s x v k).Has P := by
  unfold deliverTgt
  repeat' first
    | with_reducible assumption
    | (extract_lets +onlyGivenNames f0
       (have f1 := fun a => f0 a; clear f1)
       (try unfold f0); clear f0)
    | (extract_lets +onlyGivenNames t0
       refine imp_elim (p := P t0.1) ?_ ?_
       on_goal 1 => (unfold t0; clear t0)
       on_goal 2 => (clear_value t0; revert t0; intro _ _))
    | (extract_lets +onlyGivenNames n0
       clear_value n0; revert n0; intro _)
    | with_reducible apply setInvoc_keeps K.1 | with_reducible apply invocEvents_keeps K.1
    | with_reducible apply objJoin_keeps K.1 | with_reducible apply syncSignal_keeps K.1
    | with_reducible apply dPoison_keeps K | with_reducible apply dWrite_keeps K
    | with_reducible apply invocEnd_keeps K.1 | split | dsimp -zeta only [DStep.Has]

theorem progStep_keeps (K : Closed P) (s : State) (x : Started) (h : P s) : (progStep s x).Has P := by
  unfold progStep
  repeat' first
    | with_reducible assumption | with_reducible refine placeTile_keeps K.1 _ _ _ ?_
    | (extract_lets +onlyGivenNames t0
       refine imp_elim (p := P t0.1) ?_ ?_
       on_goal 1 => (unfold t0; clear t0)
       on_goal 2 => (clear_value t0; revert t0; intro _ _))
    | (extract_lets +onlyGivenNames n0
       clear_value n0; revert n0; intro _)
    | with_reducible apply setInvoc_keeps K.1 | with_reducible apply lineEnds_keeps K.1
    | with_reducible apply freeCell_keeps K.1 | with_reducible apply tileReady_keeps K.1
    | with_reducible apply arithDone_keeps K.1 | with_reducible apply invocEvents_keeps K.1
    | with_reducible apply invocPar_keeps K.1 | with_reducible apply dReadMany_keeps K
    | with_reducible apply dPoison_keeps K | with_reducible apply dWrite_keeps K
    | with_reducible apply badOnce_keeps K.1 | with_reducible apply wildTile_keeps K.1
    | with_reducible apply wildAcc_keeps K.1 | with_reducible apply readTile_keeps K
    | with_reducible apply invocEnd_keeps K.1 | with_reducible apply deliverTgt_keeps K | split
    | with_reducible refine fst_keeps (by assumption) ?_ | with_reducible refine somePair_keeps (by assumption) ?_
    | dsimp -zeta only [DStep.Has]

theorem invocFail_keeps (K : Regular P) (s : State) (x : Started) (v : Invoc) (st : Nat) (h : P s) : (invocFail s x v st).Has P := by
  unfold invocFail
  repeat' first
    | with_reducible assumption | with_reducible apply invocEvents_keeps K | with_reducible apply lineEnds_keeps K
    | with_reducible apply setInvoc_keeps K | with_reducible apply freeCell_keeps K
    | with_reducible apply invocEnd_keeps K | with_reducible apply DStep.ite_keeps | dsimp -zeta only [DStep.Has]

theorem invocStop_keeps (K : Regular P) (s : State) (x : Started) (v : Invoc) (h : P s) : P (invocStop s x v) := by
  unfold invocStop
  repeat' first
    | with_reducible assumption | with_reducible apply setStarted_keeps K | with_reducible apply setInvoc_keeps K
    | with_reducible apply freeCell_keeps K | with_reducible apply ite_keeps

end Sys2Proof.Machine
end

