-- ==== Sys2Proof/Laws/KeepServe.lean ====
section
/-!
SUPPORT. Sys2Proof/Laws/KeepServe.lean: a closed property is kept by each operation of extents, served requests and the waiting work.
-/
namespace Sys2Proof.Machine

variable {P : State → Prop}

theorem chargeSlots_keeps (K : Regular P) (s : State) (p : Nat) (slots : List (Nat × Nat × Nat)) (h : P s) : P (chargeSlots s p slots) := by
  unfold chargeSlots
  repeat' first
    | with_reducible assumption | intro _ | with_reducible apply askBulk_keeps K | with_reducible apply foldl_keeps

theorem extCount_keeps (K : Regular P) (s : State) (h : P s) : P (extCount s) := by
  unfold extCount
  repeat' first
    | with_reducible assumption | intro _ | with_reducible apply State.wr_keeps K | with_reducible apply foldl_keeps
    | with_reducible apply ite_keeps

theorem ensureKey_keeps (K : Regular P) (s : State) (p : Nat) (h : P s) : P (ensureKey s p) := by
  unfold ensureKey
  repeat' first
    | with_reducible assumption | with_reducible apply State.wr_keeps K | with_reducible apply ite_keeps
    | fail_if_no_progress with_reducible refine K.lit ?_

theorem addEntry_keeps (K : Regular P) (s : State) (x : Started) (h : P s) : P (addEntry s x) := by
  unfold addEntry
  repeat' first
    | with_reducible assumption | with_reducible apply chargeSlots_keeps K | with_reducible apply extCount_keeps K
    | with_reducible apply State.setExt_keeps K | with_reducible apply ensureKey_keeps K

theorem addStep_keeps (K : Regular P) (s : State) (x : Started) (h : P s) : (addStep s x).Has P := by
  unfold addStep
  repeat' first
    | with_reducible assumption | with_reducible apply addEntry_keeps K | with_reducible apply DStep.ite_keeps
    | dsimp -zeta only [DStep.Has]

theorem scrubExt_keeps (K : Closed P) (s : State) (b : Nat) (e : Ext) (h : P s) : P (scrubExt s b e) := by
  unfold scrubExt
  repeat' first
    | with_reducible assumption | with_reducible apply State.zeroRange_keeps K
    | fail_if_no_progress with_reducible refine K.lit ?_

theorem dropPins_keeps (K : Closed P) (s : State) (b : Nat) (e : Ext) (h : P s) : P (dropPins s b e) := by
  unfold dropPins
  repeat' first
    | with_reducible assumption | with_reducible apply freeWays_keeps K | with_reducible apply dropLoose_keeps K
    | fail_if_no_progress with_reducible refine K.lit ?_

theorem poisonHolders_keeps (K : Regular P) (s : State) (b : Nat) (e : Ext) (h : P s) : P (poisonHolders s b e) := by
  unfold poisonHolders
  repeat' first
    | with_reducible assumption | with_reducible apply State.setExt_keeps K
    | with_reducible apply State.count_keeps K | fail_if_no_progress with_reducible refine K.lit ?_

theorem finishBy_keeps (K : Regular P) (s : State) (e : Ext) (status result : Nat) (h : P s) : P (finishBy s e status result) := by
  unfold finishBy
  repeat' first | with_reducible assumption | with_reducible apply finishDesc_keeps K | split

theorem abandonMove_keeps (K : Regular P) (s : State) (b : Nat) (e : Ext) (status : Nat) (h : P s) : P (abandonMove s b e status) := by
  unfold abandonMove
  repeat' first
    | with_reducible assumption | with_reducible apply extCount_keeps K | with_reducible apply State.setExt_keeps K
    | with_reducible apply evPart_keeps K | with_reducible apply finishBy_keeps K

theorem recallWhere_keeps (K : Regular P) (s : State) (f : Nat × DirEnt → Bool) (h : P s) : P (recallWhere s f) := by
  unfold recallWhere
  repeat' first
    | with_reducible assumption | intro _ | with_reducible apply recallLine_keeps K
    | with_reducible apply foldl_keeps | with_reducible apply ite_keeps

theorem recallExt_keeps (K : Regular P) (s : State) (b : Nat) (e : Ext) (h : P s) : P (recallExt s b e) := by
  unfold recallExt
  repeat' first | with_reducible assumption | with_reducible apply recallWhere_keeps K

theorem dozeRecall_keeps (K : Regular P) (s : State) (sc : Nat) (h : P s) : P (dozeRecall s sc) := by
  unfold dozeRecall
  repeat' first | with_reducible assumption | with_reducible apply recallWhere_keeps K

theorem recallClosing_keeps (K : Regular P) (s : State) (h : P s) : P (recallClosing s) := by
  unfold recallClosing
  repeat' first
    | with_reducible assumption | intro _ | with_reducible apply dozeRecall_keeps K
    | with_reducible apply recallExt_keeps K | with_reducible apply foldl_keeps

theorem faultMoves_keeps (K : Regular P) (s : State) (f : Ext → Bool) (h : P s) : P (faultMoves s f) := by
  unfold faultMoves
  repeat' first
    | with_reducible assumption | intro _ | with_reducible apply abandonMove_keeps K
    | with_reducible apply foldl_keeps

theorem lostChanMoves_keeps (K : Regular P) (s : State) (h : P s) : P (lostChanMoves s) := by
  unfold lostChanMoves
  repeat' first | with_reducible assumption | with_reducible apply faultMoves_keeps K

theorem closeExt_keeps (K : Regular P) (s : State) (b : Nat) (e : Ext) (who : Option (Nat × Nat)) (h : P s) : P (closeExt s b e who) := by
  unfold closeExt
  repeat' first
    | with_reducible assumption
    | (extract_lets +onlyGivenNames t0
       refine imp_elim (p := P t0) ?_ ?_
       on_goal 1 => (unfold t0; clear t0)
       on_goal 2 => (clear_value t0; revert t0; intro _ _))
    | with_reducible apply abandonMove_keeps K | with_reducible apply recallExt_keeps K
    | with_reducible apply State.setExt_keeps K | split

theorem releaseStep_keeps (K : Regular P) (s : State) (x : Started) (h : P s) : (releaseStep s x).Has P := by
  unfold releaseStep
  repeat' first
    | with_reducible assumption
    | (extract_lets +onlyGivenNames n0
       clear_value n0; revert n0; intro _)
    | with_reducible apply State.setExt_keeps K | with_reducible apply closeExt_keeps K | split
    | dsimp -zeta only [DStep.Has]

theorem deallocUnits_keeps (K : Regular P) (s : State) (lost : List Nat) (units : List (Nat × Nat × Nat)) (h : P s) : P (deallocUnits s lost units) := by
  unfold deallocUnits
  repeat' first
    | with_reducible assumption | intro _ | with_reducible apply nvmeIssue_keeps K
    | with_reducible apply foldl_keeps | with_reducible apply ite_keeps

theorem freeExt_keeps (K : Closed P) (s : State) (b : Nat) (e : Ext) (h : P s) : P (freeExt s b e) := by
  unfold freeExt
  repeat' first
    | with_reducible assumption | with_reducible apply dropPins_keeps K | with_reducible apply scrubExt_keeps K
    | with_reducible apply deallocUnits_keeps K.1 | with_reducible apply tierStat_keeps K.1
    | with_reducible apply extCount_keeps K.1 | fail_if_no_progress with_reducible refine K.lit ?_

theorem scrubBegin_keeps (K : Regular P) (s : State) (b : Nat) (e : Ext) (h : P s) : P (scrubBegin s b e) := by
  unfold scrubBegin
  repeat' first
    | with_reducible assumption | with_reducible apply chargeSlots_keeps K
    | with_reducible apply State.setExt_keeps K

theorem scrubDone_keeps (K : Closed P) (s : State) (b : Nat) (e : Ext) (h : P s) : P (scrubDone s b e) := by
  unfold scrubDone
  repeat' first
    | with_reducible assumption | with_reducible apply finishBy_keeps K.1 | with_reducible apply freeExt_keeps K
    | with_reducible apply evPart_keeps K.1

theorem moveStep_keeps (K : Closed P) (s : State) (x : Started) (h : P s) : (moveStep s x).Has P := by
  unfold moveStep
  repeat' first
    | with_reducible assumption
    | (extract_lets +onlyGivenNames t0
       refine imp_elim (p := P t0) ?_ ?_
       on_goal 1 => (unfold t0; clear t0)
       on_goal 2 => (clear_value t0; revert t0; intro _ _))
    | (extract_lets +onlyGivenNames n0
       clear_value n0; revert n0; intro _)
    | with_reducible apply extCount_keeps K.1 | with_reducible apply State.setExt_keeps K.1
    | with_reducible apply chargeSlots_keeps K.1 | with_reducible apply dropPins_keeps K | split
    | dsimp -zeta only [DStep.Has]

theorem poisonLost_keeps (K : Closed P) (s : State) (b : Nat) (e : Ext) (h : P s) : P (poisonLost s b e) := by
  unfold poisonLost
  repeat' first
    | with_reducible assumption | intro _ | with_reducible apply State.poisonLine_keeps K
    | with_reducible apply foldl_keeps | with_reducible apply ite_keeps

theorem keepCached_keeps (K : Closed P) (s : State) (b : Nat) (e : Ext) (h : P s) : P (keepCached s b e) := by
  unfold keepCached
  repeat' first
    | with_reducible assumption | intro _ | with_reducible apply takeWay_keeps K | with_reducible apply foldl_keeps
    | split | with_reducible refine Way.got_keeps (by assumption) ?_

theorem moveDone_keeps (K : Closed P) (s : State) (b : Nat) (e : Ext) (h : P s) : P (moveDone s b e) := by
  unfold moveDone
  repeat' first
    | with_reducible assumption | with_reducible apply deallocUnits_keeps K.1
    | with_reducible apply poisonLost_keeps K | with_reducible apply extCount_keeps K.1
    | with_reducible apply State.setExt_keeps K.1 | with_reducible apply tierStat_keeps K.1
    | with_reducible apply keepCached_keeps K | with_reducible apply evPart_keeps K.1
    | with_reducible apply finishBy_keeps K.1 | with_reducible apply ite_keeps
    | fail_if_no_progress with_reducible refine K.lit ?_

theorem rgnStat_keeps (K : Regular P) (s : State) (p r : Nat) (h : P s) : P (rgnStat s p r) := by
  unfold rgnStat
  repeat' first | with_reducible assumption | with_reducible apply State.wr_keeps K

theorem verRelease_keeps (K : Regular P) (s : State) (p r num : Nat) (h : P s) : P (verRelease s p r num) := by
  unfold verRelease
  repeat' first
    | with_reducible assumption | intro _ | with_reducible apply rgnStat_keeps K
    | with_reducible apply State.count_keeps K | with_reducible apply evPart_keeps K
    | with_reducible apply closeExt_keeps K | with_reducible apply foldl_keeps | split
    | fail_if_no_progress with_reducible refine K.lit ?_

theorem verReleased_keeps (K : Closed P) (s : State) (v : VerRel) (h : P s) : P (verReleased s v) := by
  unfold verReleased
  repeat' first
    | with_reducible assumption | intro _ | with_reducible apply evPart_keeps K.1
    | with_reducible apply freeExt_keeps K | with_reducible apply State.count_keeps K.1
    | with_reducible apply foldl_keeps | split | fail_if_no_progress with_reducible refine K.lit ?_

theorem publishStep_keeps (K : Closed P) (s : State) (x : Started) (h : P s) : (publishStep s x).Has P := by
  unfold publishStep
  repeat' first
    | with_reducible assumption
    | (extract_lets +onlyGivenNames t0
       refine imp_elim (p := P t0) ?_ ?_
       on_goal 1 => (unfold t0; clear t0)
       on_goal 2 => (clear_value t0; revert t0; intro _ _))
    | (extract_lets +onlyGivenNames n0
       clear_value n0; revert n0; intro _)
    | with_reducible apply State.count_keeps K.1 | with_reducible apply State.wr_keeps K.1
    | with_reducible apply verRelease_keeps K.1 | with_reducible apply evPart_keeps K.1
    | with_reducible apply rgnStat_keeps K.1 | with_reducible apply dBytes_keeps K | split
    | with_reducible refine fst_keeps (by assumption) ?_ | dsimp -zeta only [DStep.Has]
    | fail_if_no_progress with_reducible refine K.lit ?_

theorem pinStep_keeps (K : Regular P) (s : State) (x : Started) (h : P s) : (pinStep s x).Has P := by
  unfold pinStep
  repeat' first
    | with_reducible assumption
    | (extract_lets +onlyGivenNames n0
       clear_value n0; revert n0; intro _)
    | with_reducible apply State.count_keeps K | with_reducible apply rgnStat_keeps K | split
    | dsimp -zeta only [DStep.Has] | fail_if_no_progress with_reducible refine K.lit ?_

theorem unpinStep_keeps (K : Regular P) (s : State) (x : Started) (h : P s) : (unpinStep s x).Has P := by
  unfold unpinStep
  repeat' first
    | with_reducible assumption
    | (extract_lets +onlyGivenNames t0
       refine imp_elim (p := P t0) ?_ ?_
       on_goal 1 => (unfold t0; clear t0)
       on_goal 2 => (clear_value t0; revert t0; intro _ _))
    | (extract_lets +onlyGivenNames n0
       clear_value n0; revert n0; intro _)
    | with_reducible apply State.count_keeps K | with_reducible apply rgnStat_keeps K
    | with_reducible apply verRelease_keeps K | split | dsimp -zeta only [DStep.Has]
    | fail_if_no_progress with_reducible refine K.lit ?_

theorem invalStep_keeps (K : Regular P) (s : State) (x : Started) (h : P s) : (invalStep s x).Has P := by
  unfold invalStep
  repeat' first
    | with_reducible assumption | dsimp -zeta only [DStep.Has] | fail_if_no_progress with_reducible refine K.lit ?_

theorem replyStep_keeps (K : Regular P) (s : State) (x : Started) (h : P s) : (replyStep s x).Has P := by
  unfold replyStep
  repeat' first
    | with_reducible assumption | with_reducible apply releaseHeld_keeps K | with_reducible apply DStep.ite_keeps
    | dsimp -zeta only [DStep.Has]

theorem dResolve_keeps (K : Closed P) (s : State) (x : Started) (x2 : Nat) (h : P s) : P (dResolve s x x2).1 := by
  unfold dResolve
  repeat' first
    | with_reducible assumption | with_reducible apply noteTouch_keeps K.1 | with_reducible apply resolveLine_keeps K
    | split | with_reducible refine fst_keeps (by assumption) ?_

theorem setAttrs_keeps (K : Regular P) (s : State) (runs : List (Nat × Nat)) (x2 : PageAttr) (h : P s) : P (setAttrs s runs x2) := by
  unfold setAttrs
  repeat' first
    | with_reducible assumption | intro _ | with_reducible apply foldl_keeps
    | fail_if_no_progress with_reducible refine K.lit ?_

theorem takePins_keeps (K : Regular P) (s : State) (p : Nat) (dram : Bool) (runs : List (Nat × Nat)) (h : P s) : P (takePins s p dram runs) := by
  unfold takePins
  repeat' first
    | with_reducible assumption | with_reducible apply tierStat_keeps K
    | fail_if_no_progress with_reducible refine K.lit ?_

theorem loadNear_keeps (K : Closed P) (s : State) (x : Started) (pin : Bool) (l : Nat) (h : P s) : P (loadNear s x pin l).1 := by
  unfold loadNear
  repeat' first
    | with_reducible assumption
    | (extract_lets +onlyGivenNames n0
       clear_value n0; revert n0; intro _)
    | with_reducible apply tierStat_keeps K.1 | with_reducible apply setNear_keeps K.1
    | with_reducible apply nearInsert_keeps K | with_reducible apply tierRead_keeps K
    | with_reducible apply nearRoom_keeps K | split | with_reducible refine fst_keeps (by assumption) ?_

theorem loadBlock_keeps (K : Closed P) (s : State) (b : Nat) (h : P s) : P (loadBlock s b).1 := by
  unfold loadBlock
  repeat' first
    | with_reducible assumption | with_reducible apply needBlock_keeps K | split
    | with_reducible refine Got.here_keeps (by assumption) ?_
    | with_reducible refine Got.wait_keeps (by assumption) ?_
    | with_reducible refine Got.poison_keeps (by assumption) ?_

theorem hintClear_keeps (K : Closed P) (s : State) (p : Nat) (runs : List (Nat × Nat)) (h : P s) : P (hintClear s p runs) := by
  unfold hintClear
  repeat' first
    | with_reducible assumption | with_reducible apply setAttrs_keeps K.1 | with_reducible apply freeWays_keeps K
    | with_reducible apply dropLoose_keeps K | fail_if_no_progress with_reducible refine K.lit ?_

theorem hintMarks_keeps (K : Closed P) (s : State) (x : Started) (h : P s) : (hintMarks s x).Has P := by
  unfold hintMarks
  repeat' first
    | with_reducible assumption | with_reducible apply setAttrs_keeps K.1 | with_reducible apply hintClear_keeps K
    | with_reducible apply takePins_keeps K.1 | with_reducible apply DStep.ite_keeps | dsimp -zeta only [DStep.Has]

theorem hintStep_keeps (K : Closed P) (s : State) (x : Started) (h : P s) : (hintStep s x).Has P := by
  unfold hintStep
  repeat' first
    | with_reducible assumption
    | (extract_lets +onlyGivenNames n0
       clear_value n0; revert n0; intro _)
    | with_reducible apply tierStat_keeps K.1 | with_reducible apply dResolve_keeps K
    | with_reducible apply loadNear_keeps K | with_reducible apply loadBlock_keeps K
    | with_reducible apply dFail_keeps K.1 | with_reducible apply hintMarks_keeps K | split
    | with_reducible refine fst_keeps (by assumption) ?_ | dsimp -zeta only [DStep.Has]

theorem prefetchStep_keeps (K : Closed P) (s : State) (x : Started) (h : P s) : (prefetchStep s x).Has P := by
  unfold prefetchStep
  repeat' first
    | with_reducible assumption
    | (extract_lets +onlyGivenNames n0
       clear_value n0; revert n0; intro _)
    | with_reducible apply dResolve_keeps K | with_reducible apply loadNear_keeps K
    | with_reducible apply loadBlock_keeps K | with_reducible apply dFail_keeps K.1 | split
    | with_reducible refine fst_keeps (by assumption) ?_ | dsimp -zeta only [DStep.Has]

theorem demoteBlock_keeps (K : Closed P) (s : State) (b : Nat) (h : P s) : P (demoteBlock s b).1 := by
  unfold demoteBlock
  repeat' first
    | with_reducible assumption | with_reducible apply startGroup_keeps K | with_reducible apply freeWays_keeps K
    | with_reducible apply dropBlock_keeps K.1 | split

theorem demoteStep_keeps (K : Closed P) (s : State) (x : Started) (h : P s) : (demoteStep s x).Has P := by
  unfold demoteStep
  repeat' first
    | with_reducible assumption
    | (extract_lets +onlyGivenNames t0
       refine imp_elim (p := P t0) ?_ ?_
       on_goal 1 => (unfold t0; clear t0)
       on_goal 2 => (clear_value t0; revert t0; intro _ _))
    | (extract_lets +onlyGivenNames n0
       clear_value n0; revert n0; intro _)
    | with_reducible apply nearEvict_keeps K | with_reducible apply tierStat_keeps K.1
    | with_reducible apply dResolve_keeps K | with_reducible apply demoteBlock_keeps K
    | with_reducible apply dFail_keeps K.1 | split | with_reducible refine fst_keeps (by assumption) ?_
    | dsimp -zeta only [DStep.Has]

theorem dropArrival_keeps (K : Regular P) (s : State) (port : Nat) (h : P s) : P (dropArrival s port) := by
  unfold dropArrival
  repeat' first | with_reducible assumption | with_reducible apply State.count_keeps K

theorem authFail_keeps (K : Regular P) (s : State) (port k : Nat) (h : P s) : P (authFail s port k) := by
  unfold authFail
  repeat' first
    | with_reducible assumption | with_reducible apply State.count_keeps K
    | with_reducible apply dropArrival_keeps K | with_reducible apply retireSlot_keeps K
    | with_reducible apply ite_keeps

theorem openPkt_keeps (K : Regular P) (s : State) (port : Nat) (p : Pkt) (h : P s) : ∀ t, openPkt s port p = .error t → P t := by
  intro t e
  unfold openPkt at e
  dsimp only at e
  split at e
  · cases e
  · split at e
    · injection e with e; exact e ▸ dropArrival_keeps K _ _ h
    · split at e
      · injection e with e; exact e ▸ authFail_keeps K _ _ _ h
      · split at e
        · cases e
        · injection e with e; exact e ▸ authFail_keeps K _ _ _ (State.count_keeps K _ _ _ _ _ _ h)

theorem spaceLookup_keeps (K : Regular P) (s : State) (p : Pkt) (x2 : Nat) (h : P s) : P (spaceLookup s p x2).1 := by
  unfold spaceLookup
  repeat' first
    | with_reducible assumption
    | (extract_lets +onlyGivenNames n0
       clear_value n0; revert n0; intro _)
    | with_reducible apply State.count_keeps K | split

theorem sendResp_keeps (K : Regular P) (s : State) (part : Nat) (p : Pkt) (poison : Bool) (pay : List Byte) (h : P s) : P (sendResp s part p poison pay) := by
  unfold sendResp
  repeat' first | with_reducible assumption | with_reducible apply sendAnswer_keeps K

theorem cacheLook_keeps (K : Regular P) (s : State) (sl : Nat) (p : Pkt) (h : P s) : (cacheLook s sl p).Has P := by
  unfold cacheLook
  repeat' first
    | with_reducible assumption | with_reducible apply State.count_keeps K | split | dsimp -zeta only [Cached.Has]

theorem cachePut_keeps (K : Regular P) (s : State) (sl : Nat) (p : Pkt) (poison : Bool) (pay : List Byte) (h : P s) : P (cachePut s sl p poison pay) := by
  unfold cachePut
  repeat' first | with_reducible assumption | fail_if_no_progress with_reducible refine K.lit ?_

theorem atomicLine_keeps (K : Closed P) (s : State) (q : LReq) (r : Res) (p : Pkt) (h : P s) : P (atomicLine s q r p).1 := by
  unfold atomicLine
  repeat' first
    | with_reducible assumption
    | (extract_lets +onlyGivenNames f0
       (have f1 := fun a => f0 a; clear f1)
       (try unfold f0); clear f0)
    | (extract_lets +onlyGivenNames n0
       clear_value n0; revert n0; intro _)
    | with_reducible apply tierRead_keeps K | with_reducible apply tierWrite_keeps K
    | with_reducible apply cohAccess_keeps K.1 | split | with_reducible refine fst_keeps (by assumption) ?_
    | with_reducible refine CohStep.memory_keeps (by assumption) ?_
    | with_reducible refine CohStep.data_keeps (by assumption) ?_
    | with_reducible refine CohStep.wait_keeps (by assumption) ?_
    | with_reducible refine CohStep.full_keeps (by assumption) ?_

theorem serveLine_keeps (K : Closed P) (s : State) (id slot i : Nat) (p : Pkt) (seen : List Nat) (h : P s) : P (serveLine s id slot i p seen).1 := by
  unfold serveLine
  repeat' first
    | with_reducible assumption
    | (extract_lets +onlyGivenNames n0
       clear_value n0; revert n0; intro _)
    | with_reducible apply lineRead_keeps K | with_reducible apply lineWrite_keeps K
    | with_reducible apply resolveLine_keeps K | with_reducible apply atomicLine_keeps K | split
    | with_reducible refine fst_keeps (by assumption) ?_

theorem serveLines_keeps (K : Closed P) (s : State) (slot : Nat) (r : HeldReq) (seen : List Nat) (x4 x5 : Nat) (h : P s) : P (serveLines s slot r seen x4 x5).1 := by
  induction x4 generalizing s slot r seen x5 with
  | zero =>
    rw [serveLines]
    repeat' first | with_reducible assumption
  | succ n ih =>
    rw [serveLines]
    repeat' first
      | with_reducible assumption | with_reducible apply ih | with_reducible apply serveLine_keeps K
      | with_reducible apply ite_fst_keeps

theorem sendFail_keeps (K : Regular P) (s : State) (part : Nat) (p : Pkt) (i : Nat) (l : LineSt) (h : P s) : P (sendFail s part p i l) := by
  unfold sendFail
  repeat' first
    | with_reducible assumption | with_reducible apply sendNak_keeps K | with_reducible apply sendErr_keeps K
    | split

theorem touchLines_keeps (K : Regular P) (s : State) (part : Nat) (hits : List (Nat × Nat)) (h : P s) : P (touchLines s part hits) := by
  unfold touchLines
  repeat' first
    | with_reducible assumption | intro _ | with_reducible apply touchLine_keeps K
    | with_reducible apply foldl_keeps | split

theorem answerReq_keeps (K : Closed P) (s : State) (part : Nat) (p : Pkt) (ls : List LineSt) (hits : (List (Nat × Nat))) (h : P s) : P (answerReq s part p ls hits) := by
  unfold answerReq
  repeat' first
    | with_reducible assumption
    | (extract_lets +onlyGivenNames n0
       clear_value n0; revert n0; intro _)
    | with_reducible apply sendFail_keeps K.1 | with_reducible apply sendAnswer_keeps K.1
    | with_reducible apply sendErr_keeps K.1 | with_reducible apply sendNak_keeps K.1
    | with_reducible apply touchLines_keeps K.1 | with_reducible apply sendResp_keeps K.1
    | with_reducible apply cachePut_keeps K.1 | with_reducible apply contribute_keeps K | split
    | with_reducible refine Judge.err_keeps (by assumption) ?_
    | with_reducible refine Judge.dup_keeps (by assumption) ?_
    | with_reducible refine Judge.nak_keeps (by assumption) ?_
    | with_reducible refine Judge.accept_keeps (by assumption) ?_

theorem setReq_keeps (K : Regular P) (s : State) (r : HeldReq) (h : P s) : P (setReq s r) := by
  unfold setReq
  repeat' first | with_reducible assumption | fail_if_no_progress with_reducible refine K.lit ?_

theorem dropReq_keeps (K : Regular P) (s : State) (id : Nat) (h : P s) : P (dropReq s id) := by
  unfold dropReq
  repeat' first
    | with_reducible assumption | with_reducible apply endFlights_keeps K
    | fail_if_no_progress with_reducible refine K.lit ?_

theorem aptDrop_keeps (K : Regular P) (s : State) (func win : Nat) (h : P s) : P (aptDrop s func win) := by
  unfold aptDrop
  repeat' first
    | with_reducible assumption | with_reducible apply State.emit_keeps K | with_reducible apply State.count_keeps K
    | with_reducible apply ite_keeps

theorem answerApt_keeps (K : Regular P) (s : State) (port : Nat) (p : Pkt) (ls : List LineSt) (h : P s) : P (answerApt s port p ls) := by
  unfold answerApt
  repeat' first
    | with_reducible assumption | with_reducible apply aptDrop_keeps K | with_reducible apply State.emit_keeps K
    | with_reducible apply ite_keeps

theorem copyFail_keeps (K : Regular P) (s : State) (r : HeldReq) (ls : List LineSt) (h : P s) : P (copyFail s r ls) := by
  unfold copyFail
  repeat' first
    | with_reducible assumption | with_reducible apply dropArrival_keeps K | with_reducible apply ite_keeps

theorem serveReq_keeps (K : Closed P) (s : State) (r : HeldReq) (h : P s) : P (serveReq s r) := by
  unfold serveReq
  repeat' first
    | with_reducible assumption | with_reducible apply answerApt_keeps K.1 | with_reducible apply dropReq_keeps K.1
    | with_reducible apply copyFail_keeps K.1 | with_reducible apply sendErr_keeps K.1
    | with_reducible apply setReq_keeps K.1 | with_reducible apply objJoin_keeps K.1
    | with_reducible apply answerReq_keeps K | with_reducible apply sendResp_keeps K.1
    | with_reducible apply sendNak_keeps K.1 | with_reducible apply serveLines_keeps K
    | with_reducible apply cacheLook_keeps K.1 | with_reducible apply ite_keeps | split
    | with_reducible refine Cached.hit_keeps (by assumption) ?_
    | with_reducible refine Cached.full_keeps (by assumption) ?_

theorem holdReq_keeps (K : Regular P) (s : State) (port : Nat) (p : Pkt) (n : Nat) (h : P s) : P (holdReq s port p n).1 := by
  unfold holdReq
  repeat' first | with_reducible assumption | fail_if_no_progress with_reducible refine K.lit ?_

theorem admitReq_keeps (K : Closed P) (s : State) (port : Nat) (p : Pkt) (n : Nat) (h : P s) : P (admitReq s port p n) := by
  unfold admitReq
  repeat' first
    | with_reducible assumption | with_reducible apply serveReq_keeps K | with_reducible apply setReq_keeps K.1
    | with_reducible apply holdReq_keeps K.1

theorem serveSync_keeps (K : Closed P) (s : State) (r : HeldReq) (h : P s) : P (serveSync s r) := by
  unfold serveSync
  repeat' first
    | with_reducible assumption
    | (extract_lets +onlyGivenNames f0
       (have f1 := fun a => f0 a; clear f1)
       (try unfold f0); clear f0)
    | (extract_lets +onlyGivenNames n0
       clear_value n0; revert n0; intro _)
    | with_reducible apply dropReq_keeps K.1 | with_reducible apply sendResp_keeps K.1
    | with_reducible apply sendNak_keeps K.1 | with_reducible apply setReq_keeps K.1
    | with_reducible apply objJoin_keeps K.1 | with_reducible apply cachePut_keeps K.1
    | with_reducible apply armStart_keeps K | with_reducible apply sopApply_keeps K.1
    | with_reducible apply cacheLook_keeps K.1 | split | with_reducible refine fst_keeps (by assumption) ?_
    | with_reducible refine Cached.hit_keeps (by assumption) ?_
    | with_reducible refine Cached.full_keeps (by assumption) ?_

theorem syncArmed_keeps (K : Regular P) (s : State) (id st : Nat) (h : P s) : P (syncArmed s id st) := by
  unfold syncArmed
  repeat' first
    | with_reducible assumption | with_reducible apply sendResp_keeps K | with_reducible apply cachePut_keeps K
    | with_reducible apply dropReq_keeps K | split

theorem syncSetStep_keeps (K : Closed P) (s : State) (x : Started) (h : P s) : (syncSetStep s x).Has P := by
  unfold syncSetStep
  repeat' first
    | with_reducible assumption
    | (extract_lets +onlyGivenNames n0
       clear_value n0; revert n0; intro _)
    | with_reducible apply objJoin_keeps K.1 | with_reducible apply dRead_keeps K
    | with_reducible apply armStart_keeps K | with_reducible apply sopApply_keeps K.1
    | with_reducible apply dFail_keeps K.1 | split | with_reducible refine fst_keeps (by assumption) ?_
    | dsimp -zeta only [DStep.Has]

theorem syncWaitStep_keeps (K : Regular P) (s : State) (x : Started) (h : P s) : (syncWaitStep s x).Has P := by
  unfold syncWaitStep
  repeat' first
    | with_reducible assumption | with_reducible apply objJoin_keeps K | with_reducible apply wakeWaits_keeps K
    | with_reducible apply setObj_keeps K | with_reducible apply objLeave_keeps K
    | with_reducible apply sopApply_keeps K | with_reducible apply ite_keeps | with_reducible apply DStep.ite_keeps
    | dsimp -zeta only [DStep.Has]

theorem armEnds_keeps (K : Regular P) (s : State) (x1 : Arming) (st : Nat) (h : P s) : P (armEnds s x1 st) := by
  unfold armEnds
  repeat' first
    | with_reducible assumption | with_reducible apply finishDesc_keeps K | with_reducible apply syncArmed_keeps K
    | with_reducible apply objWake_keeps K | split

theorem listRead_keeps (K : Closed P) (s : State) (o : Nat) (who : Nat × Bool) (tag x4 x5 : Nat) (x6 : List Byte) (h : P s) : P (listRead s o who tag x4 x5 x6).1 := by
  induction x5 generalizing s o who tag x4 x6 with
  | zero =>
    rw [listRead]
    repeat' first | with_reducible assumption
  | succ n ih =>
    rw [listRead]
    repeat' first
      | with_reducible assumption | with_reducible apply ih | with_reducible apply lineRead_keeps K | split
      | with_reducible refine fst_keeps (by assumption) ?_

theorem armListDone_keeps (K : Closed P) (s : State) (o : Nat) (h : P s) : P (armListDone s o) := by
  unfold armListDone
  repeat' first
    | with_reducible assumption
    | (extract_lets +onlyGivenNames t0
       refine imp_elim (p := P t0) ?_ ?_
       on_goal 1 => (unfold t0; clear t0)
       on_goal 2 => (clear_value t0; revert t0; intro _ _))
    | (extract_lets +onlyGivenNames t0
       refine imp_elim (p := P t0.1) ?_ ?_
       on_goal 1 => (unfold t0; clear t0)
       on_goal 2 => (clear_value t0; revert t0; intro _ _))
    | (extract_lets +onlyGivenNames n0
       clear_value n0; revert n0; intro _)
    | with_reducible apply armEnds_keeps K.1 | with_reducible apply armRelease_keeps K.1
    | with_reducible apply endFlights_keeps K.1 | with_reducible apply armFinish_keeps K
    | with_reducible apply listRead_keeps K | split | fail_if_no_progress with_reducible refine K.lit ?_

theorem emptySlot_keeps (K : Regular P) (s : State) (k : Nat) (h : P s) : P (emptySlot s k) := by
  unfold emptySlot
  repeat' first
    | with_reducible assumption | with_reducible apply State.countDown_keeps K
    | with_reducible apply State.clrReg_keeps K | with_reducible apply ite_keeps
    | fail_if_no_progress with_reducible refine K.lit ?_

theorem keyLoadStep_keeps (K : Regular P) (s : State) (x : Started) (h : P s) : (keyLoadStep s x).Has P := by
  unfold keyLoadStep
  repeat' first
    | with_reducible assumption | with_reducible apply emptySlot_keeps K | with_reducible apply State.emit_keeps K
    | with_reducible apply DStep.ite_keeps | dsimp -zeta only [DStep.Has]

theorem installKey_keeps (K : Regular P) (s : State) (ws : List Word) (key : List Byte) (h : P s) : P (installKey s ws key) := by
  unfold installKey
  repeat' first
    | with_reducible assumption | with_reducible apply State.wr_keeps K | with_reducible apply emptySlot_keeps K
    | with_reducible apply State.count_keeps K | with_reducible apply ite_keeps
    | fail_if_no_progress with_reducible refine K.lit ?_

theorem blobDone_keeps (K : Regular P) (s : State) (x : Started) (blob : Option (List Byte)) (h : P s) : P (blobDone s x blob) := by
  unfold blobDone
  repeat' first
    | with_reducible assumption | with_reducible apply finishDesc_keeps K | with_reducible apply installKey_keeps K
    | split

theorem stageStep_keeps (K : Regular P) (s : State) (x : Started) (h : P s) : (stageStep s x).Has P := by
  unfold stageStep
  repeat' first
    | with_reducible assumption | with_reducible apply State.emit_keeps K | with_reducible apply DStep.ite_keeps
    | dsimp -zeta only [DStep.Has]

theorem stageImage_keeps (K : Regular P) (s : State) (ws : List Word) (img : Nat → Byte) (h : P s) : P (stageImage s ws img) := by
  unfold stageImage
  repeat' first
    | with_reducible assumption | intro _ | with_reducible apply State.wrReg_keeps K
    | with_reducible apply foldl_keeps | with_reducible apply ite_keeps

theorem stageDone_keeps (K : Regular P) (s : State) (x : Started) (img : Option (List Byte)) (h : P s) : P (stageDone s x img) := by
  unfold stageDone
  repeat' first
    | with_reducible assumption
    | (extract_lets +onlyGivenNames n0
       clear_value n0; revert n0; intro _)
    | with_reducible apply finishDesc_keeps K | with_reducible apply stageImage_keeps K | split
    | fail_if_no_progress with_reducible refine K.lit ?_

theorem commitStep_keeps (K : Regular P) (s : State) (x : Started) (h : P s) : (commitStep s x).Has P := by
  unfold commitStep
  repeat' first
    | with_reducible assumption | with_reducible apply State.wrReg_keeps K | with_reducible apply State.wr_keeps K
    | with_reducible apply DStep.ite_keeps | dsimp -zeta only [DStep.Has]
    | fail_if_no_progress with_reducible refine K.lit ?_

theorem fenceStep_keeps (K : Regular P) (s : State) (x : Started) (h : P s) : (fenceStep s x).Has P := by
  unfold fenceStep
  repeat' first | with_reducible assumption | with_reducible apply DStep.ite_keeps | dsimp -zeta only [DStep.Has]

theorem nopStep_keeps (K : Regular P) (s : State) (x : Started) (h : P s) : (nopStep s x).Has P := by
  unfold nopStep
  repeat' first | with_reducible assumption | dsimp -zeta only [DStep.Has]

theorem workStep_keeps (K : Closed P) (s : State) (x : Started) (h : P s) : (workStep s x).Has P := by
  unfold workStep
  repeat' first
    | with_reducible assumption | with_reducible apply copyStep_keeps K | with_reducible apply fillStep_keeps K
    | with_reducible apply convertStep_keeps K | with_reducible apply digestStep_keeps K
    | with_reducible apply gatherStep_keeps K | with_reducible apply scatterStep_keeps K
    | with_reducible apply pageStep_keeps K | with_reducible apply progStep_keeps K
    | with_reducible apply syncSetStep_keeps K | with_reducible apply syncWaitStep_keeps K.1
    | with_reducible apply fenceStep_keeps K.1 | with_reducible apply hintStep_keeps K
    | with_reducible apply prefetchStep_keeps K | with_reducible apply demoteStep_keeps K
    | with_reducible apply publishStep_keeps K | with_reducible apply pinStep_keeps K.1
    | with_reducible apply unpinStep_keeps K.1 | with_reducible apply invalStep_keeps K.1
    | with_reducible apply addStep_keeps K.1 | with_reducible apply releaseStep_keeps K.1
    | with_reducible apply moveStep_keeps K | with_reducible apply keyLoadStep_keeps K.1
    | with_reducible apply stageStep_keeps K.1 | with_reducible apply commitStep_keeps K.1
    | with_reducible apply replyStep_keeps K.1 | with_reducible apply nopStep_keeps K.1
    | with_reducible apply DStep.ite_keeps

theorem forceEnd_keeps (K : Closed P) (s : State) (x : Started) (st : Nat) (h : P s) : P (forceEnd s x st) := by
  unfold forceEnd
  repeat' first
    | with_reducible assumption | with_reducible apply finishDesc_keeps K.1 | with_reducible apply invocReset_keeps K
    | with_reducible apply setStarted_keeps K.1 | with_reducible apply arithEnd_keeps K.1
    | with_reducible apply invocFail_keeps K.1 | split | with_reducible refine DStep.more_keeps (by assumption) ?_
    | with_reducible refine DStep.done_keeps (by assumption) ?_
    | with_reducible refine DStep.stop_keeps (by assumption) ?_

theorem descCommit_keeps (K : Closed P) (s : State) (r d : Nat) (h : P s) : P (descCommit s r d) := by
  unfold descCommit
  repeat' first
    | with_reducible assumption | with_reducible apply dRun_keeps K | with_reducible apply workStep_keeps K | split

theorem runDesc_keeps (K : Closed P) (s : State) (r d : Nat) (h : P s) : P (runDesc s r d) := by
  unfold runDesc
  repeat' first
    | with_reducible assumption | with_reducible apply logPut_keeps K.1 | with_reducible apply setStarted_keeps K.1
    | with_reducible apply dRun_keeps K | with_reducible apply forceEnd_keeps K
    | with_reducible apply finishDesc_keeps K.1 | with_reducible apply workStep_keeps K | split

theorem cohRefuse_keeps (K : Regular P) (s : State) (id p : Nat) (k : Pkt) (cause : Nat) (h : P s) : P (cohRefuse s id p k cause) := by
  unfold cohRefuse
  repeat' first
    | with_reducible assumption | with_reducible apply sendErr_keeps K | with_reducible apply dropReq_keeps K
    | with_reducible apply denied_keeps K

theorem cohUnresolved_keeps (K : Regular P) (s : State) (id p : Nat) (k : Pkt) (l : LineSt) (h : P s) : P (cohUnresolved s id p k l) := by
  unfold cohUnresolved
  repeat' first
    | with_reducible assumption | with_reducible apply cohRefuse_keeps K | with_reducible apply sendNak_keeps K
    | with_reducible apply dropReq_keeps K | with_reducible apply sendErr_keeps K | split

theorem protocolError_keeps (K : Closed P) (s : State) (dom agent : Nat) (h : P s) : P (protocolError s dom agent) := by
  unfold protocolError
  repeat' first | with_reducible assumption | with_reducible apply teardown_keeps K

theorem cohServe_keeps (K : Closed P) (s : State) (key : Nat) (e : DirEnt) (agent port : Nat) (k : Pkt) (h : P s) : P (cohServe s key e agent port k) := by
  unfold cohServe
  repeat' first
    | with_reducible assumption
    | (extract_lets +onlyGivenNames f0
       (have f1 := fun a => f0 a; clear f1)
       (try unfold f0); clear f0)
    | (extract_lets +onlyGivenNames n0
       clear_value n0; revert n0; intro _)
    | with_reducible apply cohAdvance_keeps K | with_reducible apply openTx_keeps K.1
    | with_reducible apply protocolError_keeps K | split

theorem cohRequest_keeps (K : Closed P) (s : State) (id key pl agent port : Nat) (k : Pkt) (h : P s) : P (cohRequest s id key pl agent port k) := by
  unfold cohRequest
  repeat' first
    | with_reducible assumption
    | (extract_lets +onlyGivenNames f0
       (have f1 := fun a => f0 a; clear f1)
       (try unfold f0); clear f0)
    | (extract_lets +onlyGivenNames t0
       refine imp_elim (p := P t0) ?_ ?_
       on_goal 1 => (unfold t0; clear t0)
       on_goal 2 => (clear_value t0; revert t0; intro _ _))
    | (extract_lets +onlyGivenNames n0
       clear_value n0; revert n0; intro _)
    | with_reducible apply dropReq_keeps K.1 | with_reducible apply cohServe_keeps K
    | with_reducible apply cohNak_keeps K.1 | with_reducible apply State.count_keeps K.1
    | with_reducible apply cohList_keeps K.1 | with_reducible apply dirRoom_keeps K.1 | split
    | with_reducible refine DirRoom.waitFor_keeps (by assumption) ?_
    | fail_if_no_progress with_reducible refine K.lit ?_

theorem cohPutData_keeps (K : Closed P) (s : State) (pl : Nat) (k : Pkt) (h : P s) : ∀ t, cohPutData s pl k = some t → P t := by
  intro t e
  unfold cohPutData at e
  split at e
  · injection e with e; exact e ▸ h
  · split at e
    · injection e with e; exact e ▸ State.poisonLine_keeps K _ _ h
    · split at e
      · injection e with e; exact e ▸ h
      · next b y _ =>
        have hw := tierWrite_keeps K s b y pl (y.part * 4 + 1) (payLine k 0) h
        revert hw e
        generalize tierWrite s b y pl (y.part * 4 + 1) (payLine k 0) = r
        intro e hw
        obtain ⟨u, l⟩ := r
        cases l <;> first | (cases e; done) | (injection e with e; first | exact e ▸ hw | exact e ▸ State.poisonLine_keeps K _ _ hw)

theorem cohHold_keeps (K : Regular P) (s : State) (r : HeldReq) (pl : Nat) (h : P s) : P (cohHold s r pl) := by
  unfold cohHold
  repeat' first | with_reducible assumption | with_reducible apply setReq_keeps K

theorem cohWriteback_keeps (K : Closed P) (s : State) (r : HeldReq) (key agent : Nat) (h : P s) : P (cohWriteback s r key agent) := by
  unfold cohWriteback
  repeat' first
    | with_reducible assumption | with_reducible refine cohPutData_keeps K _ _ _ ?_
    | (extract_lets +onlyGivenNames t0
       refine imp_elim (p := P t0) ?_ ?_
       on_goal 1 => (unfold t0; clear t0)
       on_goal 2 => (clear_value t0; revert t0; intro _ _))
    | (extract_lets +onlyGivenNames n0
       clear_value n0; revert n0; intro _)
    | with_reducible apply protocolError_keeps K | with_reducible apply dropReq_keeps K.1
    | with_reducible apply cohHold_keeps K.1 | with_reducible apply sendCohAck_keeps K.1
    | with_reducible apply teardownDone_keeps K.1 | with_reducible apply cohAdvance_keeps K
    | with_reducible apply setDir_keeps K.1 | with_reducible apply delDir_keeps K.1
    | with_reducible apply cohRefuse_keeps K.1 | split | with_reducible refine some_keeps (by assumption) ?_

theorem cohData_keeps (K : Closed P) (s : State) (r : HeldReq) (key agent : Nat) (h : P s) : P (cohData s r key agent) := by
  unfold cohData
  repeat' first
    | with_reducible assumption | with_reducible refine cohPutData_keeps K _ _ _ ?_
    | with_reducible apply State.count_keeps K.1 | with_reducible apply dropReq_keeps K.1
    | with_reducible apply setTx_keeps K.1 | with_reducible apply cohEnd_keeps K.1
    | with_reducible apply cohHold_keeps K.1 | with_reducible apply teardownDone_keeps K.1
    | with_reducible apply cohAdvance_keeps K | split | with_reducible refine some_keeps (by assumption) ?_
    | fail_if_no_progress with_reducible refine K.lit ?_

theorem cohAck_keeps (K : Closed P) (s : State) (key agent : Nat) (k : Pkt) (h : P s) : P (cohAck s key agent k) := by
  unfold cohAck
  repeat' first
    | with_reducible assumption
    | (extract_lets +onlyGivenNames f0
       (have f1 := fun a => f0 a; clear f1)
       (try unfold f0); clear f0)
    | (extract_lets +onlyGivenNames n0
       clear_value n0; revert n0; intro _)
    | with_reducible apply State.count_keeps K.1 | with_reducible apply cohEnd_keeps K.1
    | with_reducible apply setTx_keeps K.1 | with_reducible apply protocolError_keeps K
    | with_reducible apply teardownDone_keeps K.1 | with_reducible apply cohAdvance_keeps K
    | with_reducible apply fwdAnswered_keeps K | split

theorem serveCoh_keeps (K : Closed P) (s : State) (r : HeldReq) (h : P s) : P (serveCoh s r) := by
  unfold serveCoh
  repeat' first
    | with_reducible assumption
    | (extract_lets +onlyGivenNames f0
       (have f1 := fun a => f0 a; clear f1)
       (try unfold f0); clear f0)
    | (extract_lets +onlyGivenNames n0
       clear_value n0; revert n0; intro _)
    | with_reducible apply sendErr_keeps K.1 | with_reducible apply dropReq_keeps K.1
    | with_reducible apply cohRefuse_keeps K.1 | with_reducible apply cohData_keeps K
    | with_reducible apply cohAck_keeps K | with_reducible apply cohWriteback_keeps K
    | with_reducible apply setReq_keeps K.1 | with_reducible apply sendGrant_keeps K.1
    | with_reducible apply cohUnresolved_keeps K.1 | with_reducible apply State.count_keeps K.1
    | with_reducible apply cohRequest_keeps K | with_reducible apply resolveLine_keeps K | split
    | with_reducible refine fst_keeps (by assumption) ?_

theorem snoopTmo_keeps (K : Closed P) (s : State) (key : Nat) (h : P s) : P (snoopTmo s key) := by
  unfold snoopTmo
  repeat' first
    | with_reducible assumption
    | (extract_lets +onlyGivenNames t0
       refine imp_elim (p := P t0) ?_ ?_
       on_goal 1 => (unfold t0; clear t0)
       on_goal 2 => (clear_value t0; revert t0; intro _ _))
    | (extract_lets +onlyGivenNames n0
       clear_value n0; revert n0; intro _)
    | with_reducible apply teardown_keeps K | with_reducible apply cohPoison_keeps K
    | with_reducible apply teardownDone_keeps K.1 | with_reducible apply cohWake_keeps K.1
    | with_reducible apply delDir_keeps K.1 | split

theorem backoffEnd_keeps (K : Regular P) (s : State) (key : Nat) (h : P s) : P (backoffEnd s key) := by
  unfold backoffEnd
  repeat' first
    | with_reducible assumption
    | (extract_lets +onlyGivenNames n0
       revert n0; intro _)
    | with_reducible apply delDir_keeps K | with_reducible apply setDir_keeps K | split

theorem domainUp_keeps (K : Regular P) (s : State) (d : Nat) (h : P s) : P (domainUp s d) := by
  unfold domainUp
  repeat' first
    | with_reducible assumption | with_reducible apply State.wr_keeps K | with_reducible apply evPf0_keeps K
    | with_reducible apply evPart_keeps K | with_reducible apply ite_keeps

theorem runReq_keeps (K : Closed P) (s : State) (id : Nat) (h : P s) : P (runReq s id) := by
  unfold runReq
  repeat' first
    | with_reducible assumption
    | (extract_lets +onlyGivenNames n0
       clear_value n0; revert n0; intro _)
    | with_reducible apply serveSync_keeps K | with_reducible apply serveCoh_keeps K
    | with_reducible apply serveReq_keeps K | split

theorem pumpOnce_keeps (K : Closed P) (s : State) (h : P s) : P (pumpOnce s) := by
  unfold pumpOnce
  repeat' first
    | with_reducible assumption | intro _ | with_reducible apply runDesc_keeps K
    | with_reducible apply runReq_keeps K | with_reducible apply cohAdvance_keeps K
    | with_reducible apply foldl_keeps

theorem pumpN_keeps (K : Closed P) (x0 : Nat) (x1 : State) (h : P x1) : P (pumpN x0 x1) := by
  induction x0 generalizing x1 with
  | zero =>
    rw [pumpN]
    repeat' first | with_reducible assumption
  | succ n ih =>
    rw [pumpN]
    repeat' first
      | with_reducible assumption | with_reducible apply ih | with_reducible apply pumpOnce_keeps K
      | with_reducible apply ite_keeps

theorem lostChans_keeps (K : Regular P) (s : State) (h : P s) : P (lostChans s) := by
  unfold lostChans
  repeat' first
    | with_reducible assumption | with_reducible apply rewait_keeps K | with_reducible apply lostChanMoves_keeps K

theorem pump_keeps (K : Closed P) (s : State) (h : P s) : P (pump s) := by
  unfold pump
  repeat' first
    | with_reducible assumption | with_reducible apply recallClosing_keeps K.1
    | with_reducible apply lostChans_keeps K.1 | with_reducible apply pumpN_keeps K

theorem startDesc_keeps (K : Closed P) (s : State) (r d : Nat) (kind : List Word → Bool) (h : P s) : P (startDesc s r d kind) := by
  unfold startDesc
  repeat' first
    | with_reducible assumption
    | (extract_lets +onlyGivenNames t0
       refine imp_elim (p := P t0) ?_ ?_
       on_goal 1 => (unfold t0; clear t0)
       on_goal 2 => (clear_value t0; revert t0; intro _ _))
    | with_reducible apply drainBad_keeps K.1 | with_reducible apply pump_keeps K
    | with_reducible apply runDesc_keeps K | with_reducible apply beginDesc_keeps K.1 | split

theorem extentInit_keeps (K : Closed P) (s : State) (b : Nat) (h : P s) : P (extentInit s b) := by
  unfold extentInit
  repeat' first
    | with_reducible assumption | with_reducible apply finishBy_keeps K.1 | with_reducible apply State.setExt_keeps K.1
    | with_reducible apply scrubExt_keeps K | with_reducible apply pump_keeps K
    | with_reducible apply closeExt_keeps K.1 | split

theorem extentDrained_keeps (K : Regular P) (s : State) (b : Nat) (h : P s) : P (extentDrained s b) := by
  unfold extentDrained
  repeat' first | with_reducible assumption | with_reducible apply scrubBegin_keeps K | split

theorem extentScrubbed_keeps (K : Closed P) (s : State) (b : Nat) (h : P s) : P (extentScrubbed s b) := by
  unfold extentScrubbed
  repeat' first
    | with_reducible assumption | with_reducible apply pump_keeps K | with_reducible apply scrubDone_keeps K | split

theorem extentMoved_keeps (K : Closed P) (s : State) (b : Nat) (h : P s) : P (extentMoved s b) := by
  unfold extentMoved
  repeat' first
    | with_reducible assumption | with_reducible apply pump_keeps K | with_reducible apply moveDone_keeps K | split

theorem keyBlobRead_keeps (K : Closed P) (s : State) (r d : Nat) (blob : Option (List Byte)) (h : P s) : P (keyBlobRead s r d blob) := by
  unfold keyBlobRead
  repeat' first
    | with_reducible assumption | with_reducible apply pump_keeps K | with_reducible apply blobDone_keeps K.1 | split

theorem routeImageRead_keeps (K : Closed P) (s : State) (r d : Nat) (img : Option (List Byte)) (h : P s) : P (routeImageRead s r d img) := by
  unfold routeImageRead
  repeat' first
    | with_reducible assumption | with_reducible apply pump_keeps K | with_reducible apply stageDone_keeps K.1 | split

theorem applyEnt_keeps (K : Closed P) (s : State) (e : LogEnt) (h : P s) : P (applyEnt s e) := by
  unfold applyEnt
  repeat' first
    | with_reducible assumption | with_reducible apply extentInit_keeps K
    | with_reducible apply extentDrained_keeps K.1 | with_reducible apply extentScrubbed_keeps K
    | with_reducible apply extentMoved_keeps K | with_reducible apply keyBlobRead_keeps K
    | with_reducible apply routeImageRead_keeps K | with_reducible apply pump_keeps K
    | with_reducible apply descCommit_keeps K | split

theorem commitOr_keeps (K : Closed P) (s : State) (e : LogEnt) (h : P s) : P (commitOr s e) := by
  unfold commitOr
  repeat' first
    | with_reducible assumption | with_reducible apply applyEnt_keeps K | with_reducible apply logPut_keeps K.1
    | with_reducible apply ite_keeps

end Sys2Proof.Machine
end

