-- ==== Sys2Proof/Laws/KeepPorts.lean ====
section
/-!
SUPPORT. Sys2Proof/Laws/KeepPorts.lean: a closed property is kept by each operation of rings, packets, routes and links.
-/
namespace Sys2Proof.Machine

variable {P : State → Prop}

theorem fetchIssue_keeps (K : Regular P) (s : State) (r n : Nat) (h : P s) : P (fetchIssue s r n).1 := by
  unfold fetchIssue
  repeat' first
    | with_reducible assumption | with_reducible apply State.setRingX_keeps K
    | with_reducible apply State.emit_keeps K | with_reducible apply ownRequest_keeps K
    | with_reducible apply ite_fst_keeps

theorem fetchTurn_keeps (K : Regular P) (x0 : Nat) (x1 : State) (x2 : Nat) (h : P x1) : P (fetchTurn x0 x1 x2) := by
  induction x0 generalizing x1 x2 with
  | zero =>
    rw [fetchTurn]
    repeat' first | with_reducible assumption
  | succ n ih =>
    rw [fetchTurn]
    repeat' first
      | with_reducible assumption
      | (extract_lets +onlyGivenNames n0
         clear_value n0; revert n0; intro _)
      | with_reducible apply ih | with_reducible apply stopRing_keeps K
      | with_reducible apply State.setRingX_keeps K | with_reducible apply fetchIssue_keeps K | split
      | with_reducible refine fst_keeps (by assumption) ?_ | fail_if_no_progress with_reducible refine K.lit ?_

theorem fetchOwner_keeps (K : Regular P) (s : State) (o : Nat) (h : P s) : P (fetchOwner s o) := by
  unfold fetchOwner
  repeat' first | with_reducible assumption | with_reducible apply fetchTurn_keeps K

theorem fetchGo_keeps (K : Regular P) (s : State) (r : Nat) (h : P s) : P (fetchGo s r) := by
  unfold fetchGo
  repeat' first | with_reducible assumption | with_reducible apply fetchOwner_keeps K

theorem fetchRound_keeps (K : Regular P) (s : State) (h : P s) : P (fetchRound s) := by
  unfold fetchRound
  repeat' first
    | with_reducible assumption | intro _ | with_reducible apply fetchOwner_keeps K
    | with_reducible apply foldl_keeps

theorem putFetched_keeps (K : Regular P) (s : State) (r x2 : Nat) (x3 : List (List Word)) (h : P s) : P (putFetched s r x2 x3) := by
  induction x3 generalizing s r x2 with
  | nil =>
    rw [putFetched]
    repeat' first | with_reducible assumption
  | cons a as ih =>
    rw [putFetched]
    repeat' first
      | with_reducible assumption | with_reducible apply ih | fail_if_no_progress with_reducible refine K.lit ?_

theorem fetchDone_keeps (K : Regular P) (s : State) (r : Nat) (descs : List (List Word)) (h : P s) : P (fetchDone s r descs) := by
  unfold fetchDone
  repeat' first
    | with_reducible assumption | with_reducible apply putFetched_keeps K
    | with_reducible apply State.setRingX_keeps K | with_reducible apply State.wr_keeps K
    | with_reducible apply fetchGo_keeps K | with_reducible apply stopFinish_keeps K
    | with_reducible apply drainBad_keeps K | with_reducible apply ite_keeps

theorem dropOwn_keeps (K : Regular P) (s : State) (f : OwnReq → Bool) (h : P s) : P (dropOwn s f) := by
  unfold dropOwn
  repeat' first | with_reducible assumption | fail_if_no_progress with_reducible refine K.lit ?_

theorem fetchFail_keeps (K : Regular P) (s : State) (r : Nat) (h : P s) : P (fetchFail s r) := by
  unfold fetchFail
  repeat' first
    | with_reducible assumption | with_reducible apply dropOwn_keeps K | with_reducible apply State.setRingX_keeps K
    | with_reducible apply fetchGo_keeps K | with_reducible apply stopFinish_keeps K
    | with_reducible apply stopRing_keeps K | with_reducible apply ite_keeps

theorem writeFail_keeps (K : Regular P) (s : State) (r : Nat) (h : P s) : P (writeFail s r) := by
  unfold writeFail
  repeat' first
    | with_reducible assumption | with_reducible apply stopRing_keeps K | with_reducible apply State.count_keeps K
    | with_reducible apply dropOwn_keeps K

theorem flushLost_keeps (K : Regular P) (s : State) (r : Nat) (h : P s) : P (flushLost s r) := by
  unfold flushLost
  repeat' first
    | with_reducible assumption | with_reducible apply putSlot_keeps K | with_reducible apply State.setRingX_keeps K
    | with_reducible apply ite_keeps

theorem wakeDb_keeps (K : Regular P) (s : State) (r : Nat) (h : P s) : P (wakeDb s r) := by
  unfold wakeDb
  repeat' first
    | with_reducible assumption | with_reducible apply wakeWhere_keeps K | with_reducible apply ite_keeps

theorem doorbell_keeps (K : Regular P) (s0 : State) (r sel v : Nat) (h : P s0) : P (doorbell s0 r sel v) := by
  unfold doorbell
  repeat' first
    | with_reducible assumption | with_reducible apply wakeDb_keeps K | with_reducible apply fetchGo_keeps K
    | with_reducible apply State.wr_keeps K | with_reducible apply flushLost_keeps K
    | with_reducible apply flushHeld_keeps K | with_reducible apply drainBad_keeps K
    | with_reducible apply ite_keeps

theorem awaitApt_keeps (K : Regular P) (s : State) (func r : Nat) (h : P s) : P (awaitApt s func r) := by
  unfold awaitApt
  repeat' first
    | with_reducible assumption | with_reducible apply State.setRingX_keeps K | with_reducible apply ite_keeps

theorem wildDoorbell_keeps (K : Regular P) (s : State) (r sel : Nat) (h : P s) : P (wildDoorbell s r sel) := by
  unfold wildDoorbell
  repeat' first
    | with_reducible assumption | with_reducible apply doorbell_keeps K
    | with_reducible apply State.tickFresh_keeps K

theorem dbError_keeps (K : Closed P) (s : State) (r sel : Nat) (h : P s) : OutHas P (dbError s r sel) := by
  unfold dbError
  repeat' first
    | with_reducible assumption | with_reducible apply pump_keeps K | with_reducible apply wildDoorbell_keeps K.1
    | with_reducible apply ite_out_keeps | dsimp -zeta only [OutHas]

theorem resetRing_keeps (K : Closed P) (s : State) (r cause : Nat) (h : P s) : P (resetRing s r cause) := by
  unfold resetRing
  repeat' first
    | with_reducible assumption | intro _ | with_reducible apply State.setRingX_keeps K.1
    | with_reducible apply dropOwn_keeps K.1 | with_reducible apply forceEnd_keeps K
    | with_reducible apply stopFinish_keeps K.1 | with_reducible apply foldl_keeps | split

theorem State.setClassX_keeps (K : Regular P) (s : State) (n tc : Nat) (x : ClassX) (h : P s) : P (State.setClassX s n tc x) := by
  unfold State.setClassX
  repeat' first | with_reducible assumption | with_reducible apply State.setPortQ_keeps K

theorem State.setLink_keeps (K : Regular P) (s : State) (n : Nat) (x : LinkX) (h : P s) : P (State.setLink s n x) := by
  unfold State.setLink
  repeat' first | with_reducible assumption | fail_if_no_progress with_reducible refine K.lit ?_

theorem creditBack_keeps (K : Regular P) (s : State) (n tc len : Nat) (h : P s) : P (creditBack s n tc len) := by
  unfold creditBack
  repeat' first | with_reducible assumption | with_reducible apply State.setLink_keeps K

theorem meter_keeps (K : Regular P) (s : State) (n : Nat) (p : Pkt) (h : P s) : P (meter s n p).1 := by
  unfold meter
  repeat' first
    | with_reducible assumption | with_reducible apply State.setClassX_keeps K | with_reducible apply ite_fst_keeps

theorem guardUpdate_keeps (K : Regular P) (s : State) (n : Nat) (h : P s) : P (guardUpdate s n) := by
  unfold guardUpdate
  repeat' first
    | with_reducible assumption | with_reducible apply State.wr_keeps K | with_reducible apply evPf0_keeps K
    | with_reducible apply ite_keeps

theorem guardAll_keeps (K : Regular P) (s : State) (h : P s) : P (guardAll s) := by
  unfold guardAll
  repeat' first
    | with_reducible assumption | with_reducible apply guardUpdate_keeps K | with_reducible apply foldl_keeps

theorem shaperClass_keeps (K : Regular P) (s : State) (n tc : Nat) (h : P s) : P (shaperClass s n tc) := by
  unfold shaperClass
  repeat' first
    | with_reducible assumption | with_reducible apply State.setClassX_keeps K | with_reducible apply ite_keeps

theorem shaperSync_keeps (K : Regular P) (s : State) (n : Nat) (h : P s) : P (shaperSync s n) := by
  unfold shaperSync
  repeat' first
    | with_reducible assumption | intro _ | with_reducible apply shaperClass_keeps K
    | with_reducible apply foldl_keeps

theorem transit_keeps (K : Regular P) (s : State) (port : Nat) (yellow : Bool) (p : Pkt) (h : P s) : P (transit s port yellow p) := by
  unfold transit
  repeat' first
    | with_reducible assumption | with_reducible apply State.count_keeps K
    | with_reducible apply routeUnicast_keeps K | split

theorem relookup_keeps (K : Regular P) (s : State) (n : Nat) (h : P s) : P (relookup s n) := by
  unfold relookup
  repeat' first
    | with_reducible assumption | intro _ | with_reducible apply State.setPortQ_keeps K
    | with_reducible apply countOld_keeps K | with_reducible apply countNoRoute_keeps K
    | with_reducible apply routeUnicast_keeps K | with_reducible apply foldl_keeps | with_reducible apply ite_keeps

theorem ownDone_keeps (K : Regular P) (s : State) (q : OwnReq) (p : Pkt) (h : P s) : P (ownDone s q p) := by
  unfold ownDone
  repeat' first
    | with_reducible assumption | with_reducible apply fetchFail_keeps K | with_reducible apply fetchDone_keeps K
    | with_reducible apply pendRing_keeps K | with_reducible apply setStarted_keeps K | split

theorem ownFail_keeps (K : Regular P) (s : State) (q : OwnReq) (h : P s) : P (ownFail s q) := by
  unfold ownFail
  repeat' first
    | with_reducible assumption | with_reducible apply fetchFail_keeps K | with_reducible apply writeFail_keeps K
    | with_reducible apply finishDesc_keeps K | split

theorem answerIn_keeps (K : Regular P) (s : State) (port : Nat) (p : Pkt) (h : P s) : P (answerIn s port p) := by
  unfold answerIn
  repeat' first
    | with_reducible assumption
    | (extract_lets +onlyGivenNames t0
       refine imp_elim (p := P t0) ?_ ?_
       on_goal 1 => (unfold t0; clear t0)
       on_goal 2 => (clear_value t0; revert t0; intro _ _))
    | (extract_lets +onlyGivenNames n0
       clear_value n0; revert n0; intro _)
    | with_reducible apply State.count_keeps K | with_reducible apply dropOwn_keeps K
    | with_reducible apply ownFail_keeps K | with_reducible apply ownDone_keeps K | split
    | fail_if_no_progress with_reducible refine K.lit ?_

theorem resendOwn_keeps (K : Regular P) (s : State) (id : Nat) (h : P s) : P (resendOwn s id) := by
  unfold resendOwn
  repeat' first
    | with_reducible assumption | with_reducible apply originate_keeps K | split
    | fail_if_no_progress with_reducible refine K.lit ?_

theorem setTime_keeps (K : Regular P) (s : State) (n : Nat) (h : P s) : P (setTime s n) := by
  unfold setTime
  repeat' first | with_reducible assumption | with_reducible apply State.wrReg_keeps K

theorem gateTake_keeps (K : Regular P) (s : State) (n : Nat) (h : P s) : P (gateTake s n) := by
  unfold gateTake
  repeat' first
    | with_reducible assumption | with_reducible apply shaperSync_keeps K | with_reducible apply State.wr_keeps K
    | with_reducible apply evPf0_keeps K | with_reducible apply State.setPortQ_keeps K

theorem gateLate_keeps (K : Regular P) (s : State) (h : P s) : P (gateLate s) := by
  unfold gateLate
  repeat' first
    | with_reducible assumption | intro _ | with_reducible apply gateTake_keeps K | with_reducible apply foldl_keeps
    | with_reducible apply ite_keeps

theorem timeIn_keeps (K : Regular P) (s : State) (port : Nat) (p : Pkt) (h : P s) : P (timeIn s port p) := by
  unfold timeIn
  repeat' first
    | with_reducible assumption | with_reducible apply State.wr_keeps K | with_reducible apply guardAll_keeps K
    | with_reducible apply setTime_keeps K | with_reducible apply gateLate_keeps K
    | with_reducible apply evPf0_keeps K | with_reducible apply ite_keeps
    | fail_if_no_progress with_reducible refine K.lit ?_

theorem routeCtl_keeps (K : Regular P) (s : State) (port : Nat) (p : Pkt) (h : P s) : P (routeCtl s port p) := by
  unfold routeCtl
  repeat' first
    | with_reducible assumption | with_reducible apply evPf0_keeps K | with_reducible apply relookup_keeps K
    | with_reducible apply State.count_keeps K | with_reducible apply timeIn_keeps K
    | with_reducible apply ite_keeps | fail_if_no_progress with_reducible refine K.lit ?_

theorem dbPkt_keeps (K : Regular P) (s : State) (p : Pkt) (h : P s) : P (dbPkt s p) := by
  unfold dbPkt
  repeat' first
    | with_reducible assumption | with_reducible apply State.count_keeps K
    | with_reducible apply wildDoorbell_keeps K | with_reducible apply doorbell_keeps K
    | with_reducible apply sendAnswer_keeps K | with_reducible apply ite_keeps

theorem wakeRx_keeps (K : Regular P) (s : State) (part : Nat) (h : P s) : P (wakeRx s part) := by
  unfold wakeRx
  repeat' first
    | with_reducible assumption | with_reducible apply wakeWhere_keeps K | with_reducible apply ite_keeps

theorem wakeShut_keeps (K : Regular P) (s : State) (slot x2 n : Nat) (h : P s) : P (wakeShut s slot x2 n) := by
  unfold wakeShut
  repeat' first
    | with_reducible assumption | intro _ | with_reducible apply wakeRx_keeps K | with_reducible apply foldl_keeps
    | split

theorem requestIn_keeps (K : Closed P) (s : State) (port : Nat) (p : Pkt) (h : P s) : P (requestIn s port p) := by
  unfold requestIn
  repeat' first
    | with_reducible assumption
    | (extract_lets +onlyGivenNames t0
       refine imp_elim (p := P t0) ?_ ?_
       on_goal 1 => (unfold t0; clear t0)
       on_goal 2 => (clear_value t0; revert t0; intro _ _))
    | (extract_lets +onlyGivenNames n0
       clear_value n0; revert n0; intro _)
    | with_reducible apply sendNak_keeps K.1 | with_reducible apply wakeRx_keeps K.1
    | with_reducible apply dbPkt_keeps K.1 | with_reducible apply sendErr_keeps K.1
    | with_reducible apply serveSync_keeps K | with_reducible apply dropArrival_keeps K.1
    | with_reducible apply serveCoh_keeps K | with_reducible apply admitReq_keeps K
    | with_reducible apply wakeShut_keeps K.1 | with_reducible apply spaceLookup_keeps K.1
    | with_reducible apply holdReq_keeps K.1 | split | with_reducible refine fst_keeps (by assumption) ?_

theorem deliver_keeps (K : Closed P) (s : State) (port : Nat) (p : Pkt) (h : P s) : P (deliver s port p) := by
  unfold deliver
  repeat' first
    | with_reducible assumption | with_reducible refine openPkt_keeps K.1 _ _ _ ?_
    | (extract_lets +onlyGivenNames n0
       clear_value n0; revert n0; intro _)
    | with_reducible apply dropArrival_keeps K.1 | with_reducible apply routeCtl_keeps K.1
    | with_reducible apply State.count_keeps K.1 | with_reducible apply answerIn_keeps K.1
    | with_reducible apply requestIn_keeps K | split | with_reducible refine error_keeps (by assumption) ?_
    | fail_if_no_progress with_reducible refine K.lit ?_

theorem deliverCopy_keeps (K : Closed P) (s : State) (port : Nat) (p : Pkt) (h : P s) : P (deliverCopy s port p) := by
  unfold deliverCopy
  repeat' first
    | with_reducible assumption | with_reducible refine openPkt_keeps K.1 _ _ _ ?_
    | with_reducible apply dropArrival_keeps K.1 | with_reducible apply requestIn_keeps K | split
    | with_reducible refine error_keeps (by assumption) ?_ | fail_if_no_progress with_reducible refine K.lit ?_

theorem replicate_keeps (K : Closed P) (s : State) (port : Nat) (yellow : Bool) (p : Pkt) (h : P s) : P (replicate s port yellow p) := by
  unfold replicate
  repeat' first
    | with_reducible assumption
    | (extract_lets +onlyGivenNames t0
       refine imp_elim (p := P t0) ?_ ?_
       on_goal 1 => (unfold t0; clear t0)
       on_goal 2 => (clear_value t0; revert t0; intro _ _))
    | (extract_lets +onlyGivenNames n0
       clear_value n0; revert n0; intro _)
    | with_reducible apply State.count_keeps K.1 | with_reducible apply fanOut_keeps K.1
    | with_reducible apply sendOrig_keeps K.1 | with_reducible apply deliverCopy_keeps K | split

theorem takePkt_keeps (K : Closed P) (s0 : State) (port : Nat) (yellow : Bool) (p : Pkt) (h : P s0) : P (takePkt s0 port yellow p) := by
  unfold takePkt
  repeat' first
    | with_reducible assumption | with_reducible apply creditBack_keeps K.1 | with_reducible apply State.count_keeps K.1
    | with_reducible apply replicate_keeps K | with_reducible apply deliver_keeps K
    | with_reducible apply transit_keeps K.1 | with_reducible apply ite_keeps

theorem receive_keeps (K : Closed P) (s : State) (port : Nat) (p0 : Pkt) (h : P s) : P (receive s port p0) := by
  unfold receive
  repeat' first
    | with_reducible assumption
    | (extract_lets +onlyGivenNames t0
       refine imp_elim (p := P t0) ?_ ?_
       on_goal 1 => (unfold t0; clear t0)
       on_goal 2 => (clear_value t0; revert t0; intro _ _))
    | (extract_lets +onlyGivenNames n0
       clear_value n0; revert n0; intro _)
    | with_reducible apply creditBack_keeps K.1 | with_reducible apply dropArrival_keeps K.1
    | with_reducible apply State.count_keeps K.1 | with_reducible apply takePkt_keeps K
    | with_reducible apply meter_keeps K.1 | split | with_reducible refine fst_keeps (by assumption) ?_
    | fail_if_no_progress with_reducible refine K.lit ?_

theorem copyRegs_keeps (K : Regular P) (s : State) (x1 b n : Nat) (h : P s) : P (copyRegs s x1 b n) := by
  unfold copyRegs
  exact K.regs s _ h fun hs => ksorted_foldl_kput (fun (e : Nat × Word) => e.1 - x1 + b) (fun e => e.2) _ _ (ksorted_filter _ _ hs)

theorem copyRoutes_keeps (K : Regular P) (s : State) (from_ to_ : Nat) (h : P s) : P (copyRoutes s from_ to_) := by
  unfold copyRoutes
  repeat' first | with_reducible assumption | with_reducible apply copyRegs_keeps K

theorem commitDone_keeps (K : Regular P) (s : State) (c : Commit) (st : Nat) (h : P s) : P (commitDone s c st) := by
  unfold commitDone
  repeat' first | with_reducible assumption | with_reducible apply finishDesc_keeps K | split

theorem commitAt_keeps (K : Regular P) (s0 : State) (c : Commit) (h : P s0) : P (commitAt s0 c) := by
  unfold commitAt
  repeat' first
    | with_reducible assumption | with_reducible apply setTime_keeps K | with_reducible apply State.wr_keeps K
    | with_reducible apply countOld_keeps K | with_reducible apply commitDone_keeps K
    | with_reducible apply evPf0_keeps K | with_reducible apply ite_keeps
    | fail_if_no_progress with_reducible refine K.lit ?_

theorem holdEnd_keeps (K : Regular P) (s : State) (h : P s) : P (holdEnd s) := by
  unfold holdEnd
  repeat' first
    | with_reducible assumption | with_reducible apply State.wr_keeps K | with_reducible apply copyRoutes_keeps K
    | with_reducible apply countOld_keeps K | with_reducible apply evPf0_keeps K
    | fail_if_no_progress with_reducible refine K.lit ?_

theorem drainEnd_keeps (K : Closed P) (s : State) (c : Commit) (h : P s) : P (drainEnd s c) := by
  unfold drainEnd
  repeat' first
    | with_reducible assumption | intro _ | with_reducible apply State.count_keeps K.1
    | with_reducible apply copyRoutes_keeps K.1 | with_reducible apply State.wr_keeps K.1
    | with_reducible apply countOld_keeps K.1 | with_reducible apply evPf0_keeps K.1
    | with_reducible apply commitDone_keeps K.1 | with_reducible apply sendOrig_keeps K.1
    | with_reducible apply takePkt_keeps K | with_reducible apply foldl_keeps | with_reducible apply ite_keeps
    | fail_if_no_progress with_reducible refine K.lit ?_

theorem leaveStart_keeps (K : Regular P) (s : State) (kind : Nat) (h : P s) : P (leaveStart s kind) := by
  unfold leaveStart
  repeat' first
    | with_reducible assumption | intro _ | with_reducible apply State.wr_keeps K
    | with_reducible apply State.emit_keeps K | with_reducible apply foldl_keeps | with_reducible apply ite_keeps
    | fail_if_no_progress with_reducible refine K.lit ?_

theorem leaveEnd_keeps (K : Regular P) (s : State) (h : P s) : P (leaveEnd s) := by
  unfold leaveEnd
  repeat' first
    | with_reducible assumption | intro _ | with_reducible apply State.emit_keeps K
    | with_reducible apply foldl_keeps | fail_if_no_progress with_reducible refine K.lit ?_

theorem ctlOut_keeps (K : Regular P) (s : State) (n ctype : Nat) (args : List Nat) (h : P s) : P (ctlOut s n ctype args) := by
  unfold ctlOut
  repeat' first | with_reducible assumption | with_reducible apply State.emit_keeps K

theorem ctlAsk_keeps (K : Regular P) (s : State) (n ctype : Nat) (args : List Nat) (h : P s) : P (ctlAsk s n ctype args) := by
  unfold ctlAsk
  repeat' first
    | with_reducible assumption | with_reducible apply State.setLink_keeps K | with_reducible apply ctlOut_keeps K

theorem portDown_keeps (K : Regular P) (s : State) (n cause : Nat) (h : P s) : P (portDown s n cause) := by
  unfold portDown
  repeat' first
    | with_reducible assumption | with_reducible apply evPf0_keeps K | with_reducible apply State.wr_keeps K
    | with_reducible apply State.setLink_keeps K | with_reducible apply State.setPortQ_keeps K
    | with_reducible apply floorSync_keeps K | with_reducible apply relookup_keeps K
    | with_reducible apply ite_keeps

theorem trainBegin_keeps (K : Regular P) (s : State) (n preset : Nat) (startup : Bool) (tries : Nat) (h : P s) : P (trainBegin s n preset startup tries) := by
  unfold trainBegin
  repeat' first
    | with_reducible assumption | with_reducible apply State.wr_keeps K | with_reducible apply State.setLink_keeps K
    | with_reducible apply State.setPortQ_keeps K | with_reducible apply State.emit_keeps K
    | with_reducible apply floorSync_keeps K | with_reducible apply relookup_keeps K
    | with_reducible apply ite_keeps | fail_if_no_progress with_reducible refine K.lit ?_

theorem trainStartup_keeps (K : Regular P) (s : State) (n : Nat) (h : P s) : P (trainStartup s n) := by
  unfold trainStartup
  repeat' first
    | with_reducible assumption | with_reducible apply trainBegin_keeps K | with_reducible apply evPf0_keeps K
    | with_reducible apply State.wr_keeps K | with_reducible apply ite_keeps

theorem trainRefuse_keeps (K : Regular P) (s : State) (n cause : Nat) (h : P s) : P (trainRefuse s n cause) := by
  unfold trainRefuse
  repeat' first
    | with_reducible assumption | with_reducible apply State.setLink_keeps K | with_reducible apply State.wr_keeps K
    | with_reducible apply evPf0_keeps K

theorem laneOut_keeps (K : Regular P) (s : State) (n lane : Nat) (rx : Bool) (h : P s) : P (laneOut s n lane rx) := by
  unfold laneOut
  repeat' first
    | with_reducible assumption | with_reducible apply State.setLink_keeps K | with_reducible apply portDown_keeps K
    | with_reducible apply ite_keeps

theorem blockIn_keeps (K : Regular P) (s : State) (n lane mask : Nat) (h : P s) : P (blockIn s n lane mask) := by
  unfold blockIn
  repeat' first
    | with_reducible assumption | with_reducible apply State.emit_keeps K
    | with_reducible apply State.setLink_keeps K | with_reducible apply ite_keeps

theorem setMaps_keeps (K : Regular P) (s : State) (n w txm rxm : Nat) (h : P s) : P (setMaps s n w txm rxm) := by
  unfold setMaps
  repeat' first
    | with_reducible assumption | with_reducible apply State.wr_keeps K | with_reducible apply State.setLink_keeps K

theorem linkLive_keeps (K : Regular P) (s : State) (n : Nat) (h : P s) : P (linkLive s n) := by
  unfold linkLive
  repeat' first
    | with_reducible assumption | with_reducible apply State.setLink_keeps K | with_reducible apply State.wr_keeps K
    | with_reducible apply shaperSync_keeps K | with_reducible apply State.setPortQ_keeps K
    | with_reducible apply floorSync_keeps K | with_reducible apply guardUpdate_keeps K

theorem trainDone_keeps (K : Regular P) (s : State) (n : Nat) (adv : List Nat) (h : P s) : P (trainDone s n adv) := by
  unfold trainDone
  repeat' first
    | with_reducible assumption | with_reducible apply State.setLink_keeps K | with_reducible apply linkLive_keeps K
    | with_reducible apply State.wr_keeps K | with_reducible apply evPf0_keeps K

theorem fibreMeasured_keeps (K : Regular P) (s : State) (n : Nat) (h : P s) : P (fibreMeasured s n) := by
  unfold fibreMeasured
  repeat' first
    | with_reducible assumption | with_reducible apply State.wr_keeps K | with_reducible apply trainRefuse_keeps K
    | with_reducible apply ctlAsk_keeps K | with_reducible apply State.setLink_keeps K
    | with_reducible apply trainDone_keeps K | with_reducible apply ite_keeps

theorem retrainBegin_keeps (K : Regular P) (s : State) (n reason : Nat) (h : P s) : P (retrainBegin s n reason) := by
  unfold retrainBegin
  repeat' first
    | with_reducible assumption | with_reducible apply shaperSync_keeps K | with_reducible apply State.wr_keeps K
    | with_reducible apply State.setLink_keeps K | with_reducible apply ctlAsk_keeps K
    | with_reducible apply ite_keeps

theorem retrainAsk_keeps (K : Regular P) (s : State) (n reason : Nat) (h : P s) : P (retrainAsk s n reason) := by
  unfold retrainAsk
  repeat' first
    | with_reducible assumption | with_reducible apply retrainBegin_keeps K | with_reducible apply ite_keeps

theorem retrainDone_keeps (K : Regular P) (s : State) (n : Nat) (words : List Nat) (h : P s) : P (retrainDone s n words) := by
  unfold retrainDone
  repeat' first
    | with_reducible assumption | intro _ | with_reducible apply setMaps_keeps K
    | with_reducible apply State.setLink_keeps K | with_reducible apply State.clrReg_keeps K
    | with_reducible apply State.count_keeps K | with_reducible apply linkLive_keeps K
    | with_reducible apply State.emit_keeps K | with_reducible apply evPf0_keeps K
    | with_reducible apply foldl_keeps | with_reducible apply ite_keeps

theorem fecLocked_keeps (K : Regular P) (s : State) (n : Nat) (h : P s) : P (fecLocked s n) := by
  unfold fecLocked
  repeat' first
    | with_reducible assumption
    | (extract_lets +onlyGivenNames t0
       refine imp_elim (p := P t0) ?_ ?_
       on_goal 1 => (unfold t0; clear t0)
       on_goal 2 => (clear_value t0; revert t0; intro _ _))
    | (extract_lets +onlyGivenNames n0
       clear_value n0; revert n0; intro _)
    | with_reducible apply portDown_keeps K | with_reducible apply setMaps_keeps K
    | with_reducible apply ctlAsk_keeps K | with_reducible apply State.setLink_keeps K
    | with_reducible apply retrainDone_keeps K | split

theorem winCount_keeps (K : Regular P) (s : State) (n : Nat) (h : P s) : P (winCount s n) := by
  unfold winCount
  repeat' first
    | with_reducible assumption | with_reducible apply State.count_keeps K | with_reducible apply portDown_keeps K
    | with_reducible apply ite_keeps

theorem replay_keeps (K : Regular P) (s : State) (n from_ : Nat) (h : P s) : P (replay s n from_) := by
  unfold replay
  repeat' first
    | with_reducible assumption | with_reducible apply retrainAsk_keeps K
    | with_reducible apply State.setLink_keeps K | with_reducible apply winCount_keeps K
    | with_reducible apply State.emit_keeps K | with_reducible apply State.count_keeps K
    | with_reducible apply ite_keeps

theorem flitHead_keeps (K : Regular P) (s : State) (n : Nat) (f : Flit) (h : P s) : P (flitHead s n f) := by
  unfold flitHead
  repeat' first
    | with_reducible assumption | with_reducible apply State.setLink_keeps K
    | with_reducible apply State.count_keeps K | with_reducible apply replay_keeps K
    | with_reducible apply ite_keeps

theorem flitBad_keeps (K : Regular P) (s : State) (n : Nat) (h : P s) : P (flitBad s n) := by
  unfold flitBad
  repeat' first
    | with_reducible assumption | with_reducible apply State.setLink_keeps K
    | with_reducible apply State.emit_keeps K | with_reducible apply State.count_keeps K
    | with_reducible apply ite_keeps

theorem dataFlit_keeps (K : Regular P) (s : State) (n : Nat) (f : Flit) (h : P s) : P (dataFlit s n f) := by
  unfold dataFlit
  repeat' first
    | with_reducible assumption | with_reducible apply flitHead_keeps K | with_reducible apply State.setLink_keeps K
    | with_reducible apply winCount_keeps K | with_reducible apply flitBad_keeps K | with_reducible apply ite_keeps

theorem laneFail_keeps (K : Regular P) (s : State) (n lane : Nat) (rx : Bool) (h : P s) : P (laneFail s n lane rx) := by
  unfold laneFail
  repeat' first
    | with_reducible assumption | with_reducible apply State.wr_keeps K | with_reducible apply evPf0_keeps K
    | with_reducible apply portDown_keeps K | with_reducible apply retrainAsk_keeps K
    | with_reducible apply ite_keeps

theorem countAbort_keeps (K : Regular P) (s : State) (n spare : Nat) (rx : Bool) (h : P s) : P (countAbort s n spare rx) := by
  unfold countAbort
  repeat' first
    | with_reducible assumption | with_reducible apply State.count_keeps K
    | with_reducible apply State.setLink_keeps K | with_reducible apply State.wr_keeps K
    | with_reducible apply evPf0_keeps K | with_reducible apply ite_keeps

theorem wakeLpi_keeps (K : Regular P) (s : State) (n : Nat) (h : P s) : P (wakeLpi s n) := by
  unfold wakeLpi
  repeat' first
    | with_reducible assumption | with_reducible apply State.wr_keeps K | with_reducible apply ite_keeps

theorem laserPort_keeps (K : Regular P) (s : State) (n : Nat) (rs : List Nat) (h : P s) : P (laserPort s n rs).1 := by
  unfold laserPort
  repeat' first
    | with_reducible assumption | intro _
    | (extract_lets +onlyGivenNames t0
       refine imp_elim (p := P t0) ?_ ?_
       on_goal 1 => (unfold t0; clear t0)
       on_goal 2 => (clear_value t0; revert t0; intro _ _))
    | (extract_lets +onlyGivenNames n0
       clear_value n0; revert n0; intro _)
    | with_reducible apply State.setLink_keeps K | with_reducible apply State.wr_keeps K
    | with_reducible apply portDown_keeps K | with_reducible apply laneFail_keeps K
    | with_reducible apply laneOut_keeps K | with_reducible apply foldl_keeps | split

theorem atPf0_keeps (K : Regular P) (s t : State) (h : P s) (h1 : P t) : P (atPf0 s t) := by
  unfold atPf0
  repeat' first | with_reducible assumption | with_reducible apply ite_keeps

theorem writeReg_keeps (K : Regular P) (s : State) (x1 : RegAt) (vf : Bool) (v : Nat) (h : P s) : P (writeReg s x1 vf v) := by
  unfold writeReg
  repeat' first | with_reducible assumption | with_reducible apply State.wrReg_keeps K

theorem plainWrite_keeps (K : Regular P) (s : State) (r : Reg) (i j k v : Nat) (vf : Bool) (h : P s) : P (plainWrite s r i j k v vf) := by
  unfold plainWrite
  repeat' first | with_reducible assumption | with_reducible apply writeReg_keeps K

theorem portDelay_keeps (K : Regular P) (s : State) (n : Nat) (e : QEnt) (h : P s) : P (portDelay s n e) := by
  unfold portDelay
  repeat' first
    | with_reducible assumption | with_reducible apply State.count_keeps K
    | with_reducible apply State.setPortQ_keeps K | with_reducible apply ite_keeps

theorem linkSend_keeps (K : Regular P) (s : State) (n : Nat) (e : QEnt) (h : P s) : P (linkSend s n e) := by
  unfold linkSend
  repeat' first | with_reducible assumption | with_reducible apply State.setLink_keeps K

theorem settle_keeps (K : Regular P) (s : State) (n : Nat) (e : QEnt) (fl : List (Nat × Nat)) (cl : Option (List (Nat × Nat))) (h : P s) : P (settle s n e fl cl) := by
  unfold settle
  repeat' first
    | with_reducible assumption | intro _
    | (extract_lets +onlyGivenNames t0
       refine imp_elim (p := P t0) ?_ ?_
       on_goal 1 => (unfold t0; clear t0)
       on_goal 2 => (clear_value t0; revert t0; intro _ _))
    | (extract_lets +onlyGivenNames n0
       clear_value n0; revert n0; intro _)
    | with_reducible apply State.setPortQ_keeps K | with_reducible apply State.setClassX_keeps K
    | with_reducible apply foldl_keeps | split

theorem egressStart_keeps (K : Regular P) (s : State) (n : Nat) (h : P s) : P (egressStart s n) := by
  unfold egressStart
  repeat' first
    | with_reducible assumption
    | (extract_lets +onlyGivenNames t0
       refine imp_elim (p := P t0) ?_ ?_
       on_goal 1 => (unfold t0; clear t0)
       on_goal 2 => (clear_value t0; revert t0; intro _ _))
    | (extract_lets +onlyGivenNames n0
       clear_value n0; revert n0; intro _)
    | with_reducible apply shaperSync_keeps K | with_reducible apply linkSend_keeps K
    | with_reducible apply settle_keeps K | with_reducible apply portDelay_keeps K
    | with_reducible apply wakeLpi_keeps K | with_reducible apply State.count_keeps K
    | with_reducible apply State.emit_keeps K | with_reducible apply countOld_keeps K | split

theorem stealSlots_keeps (K : Regular P) (s : State) (c k : Nat) (h : P s) : P (stealSlots s c k) := by
  unfold stealSlots
  repeat' first
    | with_reducible assumption | with_reducible apply State.count_keeps K
    | with_reducible apply State.setChanX_keeps K

theorem countUsed_keeps (K : Regular P) (s : State) (c p : Nat) (h : P s) : P (countUsed s c p) := by
  unfold countUsed
  repeat' first
    | with_reducible assumption | with_reducible apply State.setChanX_keeps K
    | with_reducible apply State.count_keeps K | with_reducible apply ite_keeps

theorem countThrottled_keeps (K : Regular P) (s : State) (c p : Nat) (h : P s) : P (countThrottled s c p) := by
  unfold countThrottled
  repeat' first
    | with_reducible assumption | with_reducible apply State.setChanX_keeps K
    | with_reducible apply State.count_keeps K | with_reducible apply ite_keeps

theorem chanDelay_keeps (K : Regular P) (s : State) (c p k at_ : Nat) (h : P s) : P (chanDelay s c p k at_) := by
  unfold chanDelay
  repeat' first
    | with_reducible assumption | with_reducible apply State.count_keeps K
    | with_reducible apply State.setChanX_keeps K | with_reducible apply ite_keeps

theorem grantKind_keeps (K : Regular P) (s : State) (c p : Nat) (h : P s) : P (grantKind s c p) := by
  unfold grantKind
  repeat' first
    | with_reducible assumption
    | (extract_lets +onlyGivenNames t0
       refine imp_elim (p := P t0) ?_ ?_
       on_goal 1 => (unfold t0; clear t0)
       on_goal 2 => (clear_value t0; revert t0; intro _ _))
    | (extract_lets +onlyGivenNames n0
       clear_value n0; revert n0; intro _)
    | with_reducible apply State.setChanX_keeps K | with_reducible apply countUsed_keeps K
    | with_reducible apply chanDelay_keeps K | split

theorem slotPaid_keeps (K : Regular P) (s : State) (c : Nat) (g1 g2 : Option Nat) (h : P s) : P (slotPaid s c g1 g2) := by
  unfold slotPaid
  repeat' first | with_reducible assumption | with_reducible apply State.setChanX_keeps K

theorem slotGrant_keeps (K : Regular P) (s : State) (c : Nat) (h : P s) : P (slotGrant s c) := by
  unfold slotGrant
  repeat' first
    | with_reducible assumption | intro _ | with_reducible apply slotPaid_keeps K
    | with_reducible apply grantKind_keeps K | with_reducible apply countThrottled_keeps K
    | with_reducible apply foldl_keeps | split

theorem cutCredits_keeps (K : Regular P) (s : State) (h : P s) : P (cutCredits s) := by
  unfold cutCredits
  repeat' first | with_reducible assumption | fail_if_no_progress with_reducible refine K.lit ?_

theorem qosRegWrite_keeps (K : Regular P) (s : State) (p v : Nat) (h : P s) : P (qosRegWrite s p v) := by
  unfold qosRegWrite
  repeat' first
    | with_reducible assumption | with_reducible apply plainWrite_keeps K | with_reducible apply cutCredits_keeps K
    | with_reducible apply State.wr_keeps K

theorem adaptTo_keeps (K : Regular P) (s : State) (p new : Nat) (h : P s) : P (adaptTo s p new) := by
  unfold adaptTo
  repeat' first
    | with_reducible assumption | with_reducible apply State.wr_keeps K | with_reducible apply evPf0_keeps K
    | with_reducible apply evPart_keeps K | with_reducible apply ite_keeps

theorem adaptDown_keeps (K : Regular P) (s t : State) (p : Nat) (h : P s) (h1 : P t) : P (adaptDown s t p) := by
  unfold adaptDown
  repeat' first | with_reducible assumption | with_reducible apply adaptTo_keeps K | with_reducible apply ite_keeps

theorem adaptUp_keeps (K : Regular P) (s t : State) (p : Nat) (h : P s) (h1 : P t) : P (adaptUp s t p) := by
  unfold adaptUp
  repeat' first | with_reducible assumption | with_reducible apply adaptTo_keeps K | with_reducible apply ite_keeps

theorem adaptCounts_keeps (K : Regular P) (s : State) (h : P s) : P (adaptCounts s) := by
  unfold adaptCounts
  repeat' first | with_reducible assumption | fail_if_no_progress with_reducible refine K.lit ?_

theorem adaptTick_keeps (K : Regular P) (s : State) (h : P s) : P (adaptTick s) := by
  unfold adaptTick
  repeat' first
    | with_reducible assumption | intro _ | with_reducible apply adaptCounts_keeps K
    | with_reducible apply adaptUp_keeps K | with_reducible apply adaptDown_keeps K
    | with_reducible apply foldl_keeps

theorem clearPortHist_keeps (K : Regular P) (s : State) (n : Nat) (h : P s) : P (clearPortHist s n) := by
  unfold clearPortHist
  repeat' first
    | with_reducible assumption | intro _ | with_reducible apply State.clrReg_keeps K
    | with_reducible apply foldl_keeps

theorem clearChHist_keeps (K : Regular P) (s : State) (c : Nat) (h : P s) : P (clearChHist s c) := by
  unfold clearChHist
  repeat' first
    | with_reducible assumption | intro _ | with_reducible apply State.clrReg_keeps K
    | with_reducible apply foldl_keeps

theorem histSample_keeps (K : Regular P) (s : State) (port : Bool) (n : Nat) (h : P s) : P (histSample s port n) := by
  unfold histSample
  repeat' first
    | with_reducible assumption | with_reducible apply State.count_keeps K
    | with_reducible apply State.setPortQ_keeps K | with_reducible apply State.setChanX_keeps K
    | with_reducible apply ite_keeps

theorem portHselWrite_keeps (K : Regular P) (s : State) (n v : Nat) (h : P s) : P (portHselWrite s n v) := by
  unfold portHselWrite
  repeat' first
    | with_reducible assumption | with_reducible apply plainWrite_keeps K
    | with_reducible apply clearPortHist_keeps K | with_reducible apply State.setPortQ_keeps K
    | with_reducible apply ite_keeps

theorem chHselWrite_keeps (K : Regular P) (s : State) (c v : Nat) (h : P s) : P (chHselWrite s c v) := by
  unfold chHselWrite
  repeat' first
    | with_reducible assumption | with_reducible apply plainWrite_keeps K | with_reducible apply clearChHist_keeps K
    | with_reducible apply State.setChanX_keeps K | with_reducible apply ite_keeps

end Sys2Proof.Machine
end

