-- ==== Sys2Proof/Laws/KeepUnits.lean ====
section
/-!
SUPPORT. Sys2Proof/Laws/KeepUnits.lean: a closed property is kept by each operation of channels, drives, partition registers, interrupts, scopes and starts.
-/
namespace Sys2Proof.Machine

variable {P : State → Prop}

theorem wakeOn_keeps (K : Regular P) (s : State) (w : Wait) (h : P s) : P (wakeOn s w) := by
  unfold wakeOn
  repeat' first | with_reducible assumption | with_reducible apply rewait_keeps K

theorem wakeChan_keeps (K : Closed P) (s : State) (c : Nat) (h : P s) : P (wakeChan s c) := by
  unfold wakeChan
  repeat' first
    | with_reducible assumption | with_reducible apply pump_keeps K | with_reducible apply wakeOn_keeps K.1

theorem chanLose_keeps (K : Closed P) (s : State) (c cause : Nat) (h : P s) : P (chanLose s c cause) := by
  unfold chanLose
  repeat' first
    | with_reducible assumption | with_reducible apply wakeChan_keeps K | with_reducible apply channelLost_keeps K.1

theorem windowBegin_keeps (K : Regular P) (s : State) (c : Nat) (h : P s) : P (windowBegin s c) := by
  unfold windowBegin
  repeat' first
    | with_reducible assumption | with_reducible apply State.count_keeps K
    | with_reducible apply State.setChanX_keeps K

theorem windowDue_keeps (K : Regular P) (s : State) (c : Nat) (h : P s) : P (windowDue s c) := by
  unfold windowDue
  repeat' first
    | with_reducible assumption | with_reducible apply State.setChanX_keeps K
    | with_reducible apply windowBegin_keeps K | with_reducible apply ite_keeps

theorem holdBegin_keeps (K : Regular P) (s : State) (c : Nat) (h : P s) : P (holdBegin s c) := by
  unfold holdBegin
  repeat' first
    | with_reducible assumption
    | (extract_lets +onlyGivenNames f0
       (have f1 := fun a => f0 a; clear f1)
       (try unfold f0); clear f0)
    | (extract_lets +onlyGivenNames t0
       refine imp_elim (p := P t0) ?_ ?_
       on_goal 1 => (unfold t0; clear t0)
       on_goal 2 => (clear_value t0; revert t0; intro _ _))
    | (extract_lets +onlyGivenNames n0
       clear_value n0; revert n0; intro _)
    | with_reducible apply State.wr_keeps K | with_reducible apply State.setChanX_keeps K
    | with_reducible apply evPf0_keeps K | with_reducible apply evPart_keeps K | split

theorem thermalEvent_keeps (K : Regular P) (s : State) (c : Nat) (h : P s) : P (thermalEvent s c) := by
  unfold thermalEvent
  repeat' first
    | with_reducible assumption
    | (extract_lets +onlyGivenNames t0
       refine imp_elim (p := P t0) ?_ ?_
       on_goal 1 => (unfold t0; clear t0)
       on_goal 2 => (clear_value t0; revert t0; intro _ _))
    | with_reducible apply evPf0_keeps K | with_reducible apply evPart_keeps K | split

theorem retrainChan_keeps (K : Regular P) (s : State) (c reason : Nat) (h : P s) : P (retrainChan s c reason) := by
  unfold retrainChan
  repeat' first
    | with_reducible assumption | with_reducible apply State.wr_keeps K
    | with_reducible apply State.setChanX_keeps K

theorem windowEnd0_keeps (K : Closed P) (s : State) (c : Nat) (drift : Bool) (h : P s) : P (windowEnd0 s c drift) := by
  unfold windowEnd0
  repeat' first
    | with_reducible assumption | with_reducible apply stealSlots_keeps K.1
    | with_reducible apply State.setChanX_keeps K.1 | with_reducible apply retrainChan_keeps K.1
    | with_reducible apply holdBegin_keeps K.1 | with_reducible apply wakeChan_keeps K
    | with_reducible apply windowDue_keeps K.1 | with_reducible apply ite_keeps

theorem checkEnd_keeps (K : Regular P) (s : State) (c : Nat) (drift : Bool) (h : P s) : P (checkEnd s c drift) := by
  unfold checkEnd
  repeat' first
    | with_reducible assumption | with_reducible apply State.wr_keeps K
    | with_reducible apply State.setChanX_keeps K | with_reducible apply windowDue_keeps K
    | with_reducible apply ite_keeps

theorem windowEnd_keeps (K : Closed P) (s : State) (c : Nat) (drift : Bool) (h : P s) : P (windowEnd s c drift) := by
  unfold windowEnd
  repeat' first
    | with_reducible assumption | with_reducible apply checkEnd_keeps K.1 | with_reducible apply windowEnd0_keeps K
    | with_reducible apply ite_keeps

theorem measZero_keeps (K : Regular P) (s : State) (c : Nat) (h : P s) : P (measZero s c) := by
  unfold measZero
  repeat' first | with_reducible assumption | with_reducible apply State.wr_keeps K

theorem putSpd_keeps (K : Regular P) (s : State) (c : Nat) (spd : List Byte) (h : P s) : P (putSpd s c spd) := by
  unfold putSpd
  repeat' first
    | with_reducible assumption | intro _ | with_reducible apply State.wrReg_keeps K
    | with_reducible apply foldl_keeps

theorem chanTrain_keeps (K : Closed P) (s : State) (c : Nat) (d : Dimms) (h : P s) : P (chanTrain s c d) := by
  unfold chanTrain
  repeat' first
    | with_reducible assumption | with_reducible apply putSpd_keeps K.1 | with_reducible apply State.setChanX_keeps K.1
    | with_reducible apply State.wr_keeps K.1 | with_reducible apply chanLose_keeps K
    | with_reducible apply measZero_keeps K.1 | with_reducible apply ite_keeps

theorem poisonChan_keeps (K : Closed P) (s : State) (c : Nat) (h : P s) : P (poisonChan s c) := by
  exact K.poisonChan s c h

theorem restChan_keeps (K : Regular P) (s : State) (c : Nat) (h : P s) : P (restChan s c) := by
  unfold restChan
  repeat' first
    | with_reducible assumption | with_reducible apply State.wr_keeps K | with_reducible apply ite_keeps

theorem chanTrained_keeps (K : Closed P) (s : State) (c : Nat) (katOk : Bool) (h : P s) : P (chanTrained s c katOk) := by
  unfold chanTrained
  repeat' first
    | with_reducible assumption
    | (extract_lets +onlyGivenNames t0
       refine imp_elim (p := P t0) ?_ ?_
       on_goal 1 => (unfold t0; clear t0)
       on_goal 2 => (clear_value t0; revert t0; intro _ _))
    | (extract_lets +onlyGivenNames n0
       clear_value n0; revert n0; intro _)
    | with_reducible apply State.wr_keeps K.1 | with_reducible apply State.setChanX_keeps K.1
    | with_reducible apply evPf0_keeps K.1 | with_reducible apply State.count_keeps K.1
    | with_reducible apply holdBegin_keeps K.1 | with_reducible apply wakeChan_keeps K
    | with_reducible apply chanLose_keeps K | with_reducible apply poisonChan_keeps K
    | with_reducible apply floorSync_keeps K.1 | with_reducible apply restChan_keeps K.1 | split

theorem trainFail_keeps (K : Closed P) (s : State) (c : Nat) (h : P s) : P (trainFail s c) := by
  unfold trainFail
  repeat' first
    | with_reducible assumption | with_reducible apply State.count_keeps K.1
    | with_reducible apply State.setChanX_keeps K.1 | with_reducible apply chanLose_keeps K
    | with_reducible apply ite_keeps

theorem parityFail_keeps (K : Closed P) (s : State) (c retry : Nat) (h : P s) : P (parityFail s c retry) := by
  unfold parityFail
  repeat' first
    | with_reducible assumption | with_reducible apply chanLose_keeps K | with_reducible apply retrainChan_keeps K.1
    | with_reducible apply ite_keeps

theorem refreshStop_keeps (K : Regular P) (s : State) (c : Nat) (sub : Bool) (h : P s) : P (refreshStop s c sub) := by
  unfold refreshStop
  repeat' first
    | with_reducible assumption | with_reducible apply stealSlots_keeps K
    | with_reducible apply State.setChanX_keeps K | with_reducible apply ite_keeps

theorem tempPoll_keeps (K : Regular P) (s : State) (c : Nat) (hub : Option Int) (mr4 : Nat) (h : P s) : P (tempPoll s c hub mr4) := by
  unfold tempPoll
  repeat' first
    | with_reducible assumption | with_reducible apply State.setChanX_keeps K
    | with_reducible apply State.wr_keeps K | with_reducible apply evPf0_keeps K
    | with_reducible apply thermalEvent_keeps K | with_reducible apply holdBegin_keeps K
    | with_reducible apply windowDue_keeps K | with_reducible apply ite_keeps

theorem scrubLine_keeps (K : Closed P) (s : State) (c at_ : Nat) (h : P s) : P (scrubLine s c at_) := by
  unfold scrubLine
  repeat' first
    | with_reducible assumption
    | (extract_lets +onlyGivenNames t0
       refine imp_elim (p := P t0) ?_ ?_
       on_goal 1 => (unfold t0; clear t0)
       on_goal 2 => (clear_value t0; revert t0; intro _ _))
    | (extract_lets +onlyGivenNames n0
       clear_value n0; revert n0; intro _)
    | with_reducible apply State.count_keeps K.1 | with_reducible apply lineCorrected_keeps K.1
    | with_reducible apply State.setChanX_keeps K.1 | with_reducible apply auxLost_keeps K
    | with_reducible apply lineUncorrectable_keeps K | split

theorem scrubStray_keeps (K : Regular P) (s : State) (c : Nat) (h : P s) : P (scrubStray s c) := by
  unfold scrubStray
  repeat' first | with_reducible assumption | with_reducible apply State.setChanX_keeps K

theorem scrubSlot_keeps (K : Closed P) (s : State) (c : Nat) (h : P s) : P (scrubSlot s c) := by
  unfold scrubSlot
  repeat' first
    | with_reducible assumption | with_reducible apply scrubLine_keeps K
    | with_reducible apply State.setChanX_keeps K.1 | with_reducible apply State.count_keeps K.1
    | with_reducible apply State.wr_keeps K.1 | with_reducible apply scrubStray_keeps K.1
    | with_reducible apply ite_keeps

theorem lapSlow_keeps (K : Regular P) (s : State) (c : Nat) (h : P s) : P (lapSlow s c) := by
  unfold lapSlow
  repeat' first
    | with_reducible assumption | with_reducible apply evPf0_keeps K | with_reducible apply State.wr_keeps K
    | with_reducible apply ite_keeps

theorem ddrCtlWrite_keeps (K : Closed P) (s : State) (c v : Nat) (h : P s) : P (ddrCtlWrite s c v) := by
  unfold ddrCtlWrite
  repeat' first
    | with_reducible assumption | with_reducible apply plainWrite_keeps K.1 | with_reducible apply chanLose_keeps K
    | with_reducible apply measZero_keeps K.1 | with_reducible apply State.wr_keeps K.1
    | with_reducible apply State.setChanX_keeps K.1 | with_reducible apply ite_keeps

theorem ddrCntClr_keeps (K : Regular P) (s : State) (c v : Nat) (h : P s) : P (ddrCntClr s c v) := by
  unfold ddrCntClr
  repeat' first
    | with_reducible assumption | with_reducible apply State.setChanX_keeps K
    | with_reducible apply State.clrReg_keeps K | with_reducible apply ite_keeps

theorem wakeTier_keeps (K : Closed P) (s : State) (h : P s) : P (wakeTier s) := by
  unfold wakeTier
  repeat' first
    | with_reducible assumption | with_reducible apply pump_keeps K | with_reducible apply freeWays_keeps K

theorem movesEnd_keeps (K : Regular P) (s : State) (f : Nat → Bool) (h : P s) : P (movesEnd s f) := by
  unfold movesEnd
  repeat' first | with_reducible assumption | fail_if_no_progress with_reducible refine K.lit ?_

theorem fillIn_keeps (K : Closed P) (s : State) (p d block ch : Nat) (failed : Option Nat) (h : P s) : P (fillIn s p d block ch failed) := by
  unfold fillIn
  repeat' first
    | with_reducible assumption | intro _ | with_reducible apply memWrite_keeps K
    | with_reducible apply macPut_keeps K.1 | with_reducible apply macRoom_keeps K.1
    | with_reducible apply State.setDriveX_keeps K.1 | with_reducible apply evPart_keeps K.1
    | with_reducible apply poisonCopy_keeps K | with_reducible apply foldl_keeps | split

theorem fillDone_keeps (K : Closed P) (s : State) (block : Nat) (h : P s) : P (fillDone s block) := by
  unfold fillDone
  repeat' first
    | with_reducible assumption
    | (extract_lets +onlyGivenNames t0
       refine imp_elim (p := P t0) ?_ ?_
       on_goal 1 => (unfold t0; clear t0)
       on_goal 2 => (clear_value t0; revert t0; intro _ _))
    | (extract_lets +onlyGivenNames n0
       clear_value n0; revert n0; intro _)
    | with_reducible apply idleWriteBack_keeps K | with_reducible apply wakeTier_keeps K
    | with_reducible apply movesEnd_keeps K.1 | with_reducible apply fillIn_keeps K | split
    | fail_if_no_progress with_reducible refine K.lit ?_

theorem poisonWritten_keeps (K : Closed P) (s : State) (bs : List (Nat × Blk)) (h : P s) : P (poisonWritten s bs) := by
  unfold poisonWritten
  repeat' first
    | with_reducible assumption | intro _ | with_reducible apply State.poisonLine_keeps K
    | with_reducible apply foldl_keeps | with_reducible apply ite_keeps

theorem mapWritten_keeps (K : Closed P) (s : State) (group : Nat) (h : P s) : P (mapWritten s group) := by
  unfold mapWritten
  repeat' first | with_reducible assumption | with_reducible apply mapTouch_keeps K | split

theorem groupEnd_keeps (K : Closed P) (s : State) (group : Nat) (ok : Bool) (h : P s) : P (groupEnd s group ok) := by
  unfold groupEnd
  repeat' first
    | with_reducible assumption | with_reducible apply movesEnd_keeps K.1 | with_reducible apply mapWritten_keeps K
    | with_reducible apply poisonWritten_keeps K | with_reducible apply ite_keeps
    | fail_if_no_progress with_reducible refine K.lit ?_

theorem groupDone_keeps (K : Closed P) (s : State) (group : Nat) (h : P s) : P (groupDone s group) := by
  unfold groupDone
  repeat' first
    | with_reducible assumption
    | (extract_lets +onlyGivenNames t0
       refine imp_elim (p := P t0) ?_ ?_
       on_goal 1 => (unfold t0; clear t0)
       on_goal 2 => (clear_value t0; revert t0; intro _ _))
    | (extract_lets +onlyGivenNames n0
       clear_value n0; revert n0; intro _)
    | with_reducible apply State.setDriveX_keeps K.1 | with_reducible apply State.count_keeps K.1
    | with_reducible apply groupEnd_keeps K | with_reducible apply idleWriteBack_keeps K
    | with_reducible apply wakeTier_keeps K | with_reducible apply tierStat_keeps K.1
    | with_reducible apply writeBackEngine_keeps K | split

theorem decayTick_keeps (K : Closed P) (s : State) (p : Nat) (h : P s) : P (decayTick s p) := by
  unfold decayTick
  repeat' first
    | with_reducible assumption | with_reducible apply idleWriteBack_keeps K | with_reducible apply foldl_keeps
    | fail_if_no_progress with_reducible refine K.lit ?_

theorem loseBlocks_keeps (K : Regular P) (s : State) (d : Nat) (h : P s) : P (loseBlocks s d) := by
  unfold loseBlocks
  repeat' first
    | with_reducible assumption | with_reducible apply movesEnd_keeps K
    | fail_if_no_progress with_reducible refine K.lit ?_

theorem degrade_keeps (K : Regular P) (s : State) (d : Nat) (h : P s) : P (degrade s d) := by
  unfold degrade
  repeat' first
    | with_reducible assumption | intro _ | with_reducible apply State.setExt_keeps K
    | with_reducible apply evPart_keeps K | with_reducible apply foldl_keeps | with_reducible apply ite_keeps

theorem driveLost_keeps (K : Closed P) (s : State) (d cause : Nat) (h : P s) : P (driveLost s d cause) := by
  unfold driveLost
  repeat' first
    | with_reducible assumption | with_reducible apply State.wr_keeps K.1
    | with_reducible apply State.setDriveX_keeps K.1 | with_reducible apply evPf0_keeps K.1
    | with_reducible apply floorSync_keeps K.1 | with_reducible apply faultMoves_keeps K.1
    | with_reducible apply wakeTier_keeps K | with_reducible apply tierStats_keeps K.1
    | with_reducible apply degrade_keeps K.1 | with_reducible apply loseBlocks_keeps K.1
    | with_reducible apply ite_keeps

theorem flushDrive_keeps (K : Regular P) (s : State) (d : Nat) (h : P s) : P (flushDrive s d) := by
  unfold flushDrive
  repeat' first
    | with_reducible assumption | with_reducible apply nvmeIssue_keeps K | with_reducible apply ite_keeps

theorem driveBegin_keeps (K : Regular P) (s : State) (d : Nat) (h : P s) : P (driveBegin s d) := by
  unfold driveBegin
  repeat' first
    | with_reducible assumption | with_reducible apply State.wr_keeps K | with_reducible apply State.emit_keeps K
    | with_reducible apply floorSync_keeps K | with_reducible apply State.setDriveX_keeps K
    | with_reducible apply ite_keeps

theorem driveBringup_keeps (K : Regular P) (s : State) (d : Nat) (h : P s) : P (driveBringup s d) := by
  unfold driveBringup
  repeat' first
    | with_reducible assumption | with_reducible apply driveBegin_keeps K | with_reducible apply ite_keeps

theorem driveEnableCtl_keeps (K : Regular P) (s : State) (d : Nat) (h : P s) : P (driveEnableCtl s d) := by
  unfold driveEnableCtl
  repeat' first | with_reducible assumption | with_reducible apply State.emit_keeps K

theorem driveLinkUp_keeps (K : Regular P) (s : State) (d : Nat) (h : P s) : P (driveLinkUp s d) := by
  unfold driveLinkUp
  repeat' first
    | with_reducible assumption | with_reducible apply driveEnableCtl_keeps K
    | with_reducible apply State.setDriveX_keeps K | with_reducible apply ite_keeps

theorem driveLinkDown_keeps (K : Regular P) (s : State) (d : Nat) (h : P s) : P (driveLinkDown s d) := by
  unfold driveLinkDown
  repeat' first
    | with_reducible assumption | with_reducible apply State.setDriveX_keeps K | with_reducible apply ite_keeps

theorem driveLinkTmo_keeps (K : Closed P) (s : State) (d : Nat) (h : P s) : P (driveLinkTmo s d) := by
  unfold driveLinkTmo
  repeat' first
    | with_reducible assumption | with_reducible apply driveLost_keeps K | with_reducible apply ite_keeps

theorem driveReadyTmo_keeps (K : Closed P) (s : State) (d : Nat) (h : P s) : P (driveReadyTmo s d) := by
  unfold driveReadyTmo
  repeat' first
    | with_reducible assumption | with_reducible apply driveLost_keeps K | with_reducible apply ite_keeps

theorem driveQueues_keeps (K : Regular P) (s : State) (d : Nat) (h : P s) : P (driveQueues s d) := by
  unfold driveQueues
  repeat' first | with_reducible assumption | with_reducible apply nvmeIssue_keeps K

theorem driveReady_keeps (K : Regular P) (s : State) (d mqes : Nat) (h : P s) : P (driveReady s d mqes) := by
  unfold driveReady
  repeat' first
    | with_reducible assumption | with_reducible apply State.wr_keeps K | with_reducible apply driveQueues_keeps K
    | with_reducible apply State.setDriveX_keeps K | with_reducible apply nvmeIssue_keeps K
    | with_reducible apply ite_keeps

theorem putIdent_keeps (K : Regular P) (s : State) (d : Nat) (data : List Byte) (h : P s) : P (putIdent s d data) := by
  unfold putIdent
  repeat' first
    | with_reducible assumption | intro _ | with_reducible apply State.wrReg_keeps K
    | with_reducible apply foldl_keeps

theorem driveServe_keeps (K : Regular P) (s : State) (d : Nat) (h : P s) : P (driveServe s d) := by
  unfold driveServe
  repeat' first
    | with_reducible assumption | with_reducible apply State.wr_keeps K | with_reducible apply evPf0_keeps K
    | with_reducible apply floorSync_keeps K | with_reducible apply extCount_keeps K
    | with_reducible apply State.setDriveX_keeps K

theorem failRow_keeps (K : Closed P) (s : State) (d : Nat) (h : P s) : P (failRow s d) := by
  unfold failRow
  repeat' first
    | with_reducible assumption | with_reducible apply State.setDriveX_keeps K.1
    | with_reducible apply driveLost_keeps K | with_reducible apply ite_keeps

theorem groupStep_keeps (K : Closed P) (s : State) (d group : Nat) (h : P s) : P (groupStep s d group) := by
  unfold groupStep
  repeat' first
    | with_reducible assumption
    | (extract_lets +onlyGivenNames n0
       clear_value n0; revert n0; intro _)
    | with_reducible apply wakeTier_keeps K | with_reducible apply groupEnd_keeps K
    | with_reducible apply State.setDriveX_keeps K.1 | split

theorem groupMac_keeps (K : Regular P) (s : State) (d group sl : Nat) (h : P s) : P (groupMac s d group sl) := by
  unfold groupMac
  repeat' first
    | with_reducible assumption
    | (extract_lets +onlyGivenNames n0
       clear_value n0; revert n0; intro _)
    | with_reducible apply nvmeIssue_keeps K | split

theorem queuesMade_keeps (K : Regular P) (s : State) (d : Nat) (h : P s) : P (queuesMade s d) := by
  unfold queuesMade
  repeat' first
    | with_reducible assumption | with_reducible apply nvmeDrain_keeps K
    | with_reducible apply State.setDriveX_keeps K | with_reducible apply nvmeIssue_keeps K
    | with_reducible apply ite_keeps

theorem smartEnd_keeps (K : Regular P) (s : State) (d : Nat) (h : P s) : P (smartEnd s d) := by
  unfold smartEnd
  repeat' first
    | with_reducible assumption | with_reducible apply driveServe_keeps K | with_reducible apply ite_keeps

theorem smartFail_keeps (K : Closed P) (s : State) (d : Nat) (h : P s) : P (smartFail s d) := by
  unfold smartFail
  repeat' first
    | with_reducible assumption | with_reducible apply smartEnd_keeps K.1 | with_reducible apply failRow_keeps K

theorem smartRead_keeps (K : Closed P) (s : State) (d : Nat) (temp : Int) (warn used : Nat) (h : P s) : P (smartRead s d temp warn used) := by
  unfold smartRead
  repeat' first
    | with_reducible assumption | with_reducible apply State.wr_keeps K.1
    | with_reducible apply State.setDriveX_keeps K.1 | with_reducible apply evPf0_keeps K.1
    | with_reducible apply driveLost_keeps K | with_reducible apply smartEnd_keeps K.1
    | with_reducible apply ite_keeps

theorem smartPoll_keeps (K : Closed P) (s : State) (d : Nat) (ok : Bool) (temp : Int) (warn used : Nat) (h : P s) : P (smartPoll s d ok temp warn used) := by
  unfold smartPoll
  repeat' first
    | with_reducible assumption | with_reducible apply State.setDriveX_keeps K.1
    | with_reducible apply smartRead_keeps K | with_reducible apply smartFail_keeps K
    | with_reducible apply nvmeIssue_keeps K.1 | with_reducible apply State.emit_keeps K.1
    | with_reducible apply ite_keeps

theorem cmdOk_keeps (K : Closed P) (s : State) (d : Nat) (c : NvmeCmd) (data : List Byte) (h : P s) : P (cmdOk s d c data) := by
  unfold cmdOk
  repeat' first
    | with_reducible assumption
    | (extract_lets +onlyGivenNames f0
       (have f1 := fun a => f0 a; clear f1)
       (try unfold f0); clear f0)
    | (extract_lets +onlyGivenNames t0
       refine imp_elim (p := P t0) ?_ ?_
       on_goal 1 => (unfold t0; clear t0)
       on_goal 2 => (clear_value t0; revert t0; intro _ _))
    | (extract_lets +onlyGivenNames n0
       clear_value n0; revert n0; intro _)
    | with_reducible apply driveQueues_keeps K.1 | with_reducible apply State.setDriveX_keeps K.1
    | with_reducible apply groupStep_keeps K | with_reducible apply groupMac_keeps K.1
    | with_reducible apply macPut_keeps K.1 | with_reducible apply putIdent_keeps K.1
    | with_reducible apply driveLost_keeps K | with_reducible apply nvmeIssue_keeps K.1
    | with_reducible apply State.wr_keeps K.1 | with_reducible apply queuesMade_keeps K.1
    | with_reducible apply smartRead_keeps K | split

theorem cmdFail_keeps (K : Closed P) (s : State) (d : Nat) (c : NvmeCmd) (st : Nat) (h : P s) : P (cmdFail s d c st) := by
  unfold cmdFail
  repeat' first
    | with_reducible assumption
    | (extract_lets +onlyGivenNames t0
       refine imp_elim (p := P t0) ?_ ?_
       on_goal 1 => (unfold t0; clear t0)
       on_goal 2 => (clear_value t0; revert t0; intro _ _))
    | (extract_lets +onlyGivenNames n0
       clear_value n0; revert n0; intro _)
    | with_reducible apply failRow_keeps K | with_reducible apply State.setDriveX_keeps K.1
    | with_reducible apply groupStep_keeps K | with_reducible apply nvmeIssue_keeps K.1
    | with_reducible apply smartFail_keeps K | split

theorem cmdComplete_keeps (K : Closed P) (s : State) (d id sct sc : Nat) (data : List Byte) (h : P s) : P (cmdComplete s d id sct sc data) := by
  unfold cmdComplete
  repeat' first
    | with_reducible assumption
    | (extract_lets +onlyGivenNames t0
       refine imp_elim (p := P t0) ?_ ?_
       on_goal 1 => (unfold t0; clear t0)
       on_goal 2 => (clear_value t0; revert t0; intro _ _))
    | (extract_lets +onlyGivenNames n0
       clear_value n0; revert n0; intro _)
    | with_reducible apply State.setDriveX_keeps K.1 | with_reducible apply idleWriteBack_keeps K
    | with_reducible apply nvmeDrain_keeps K.1 | with_reducible apply cmdOk_keeps K
    | with_reducible apply cmdFail_keeps K | with_reducible apply State.count_keeps K.1
    | with_reducible apply nvmeSend_keeps K.1 | split

theorem cmdTmo_keeps (K : Closed P) (s : State) (d id : Nat) (h : P s) : P (cmdTmo s d id) := by
  unfold cmdTmo
  repeat' first
    | with_reducible assumption
    | (extract_lets +onlyGivenNames t0
       refine imp_elim (p := P t0) ?_ ?_
       on_goal 1 => (unfold t0; clear t0)
       on_goal 2 => (clear_value t0; revert t0; intro _ _))
    | (extract_lets +onlyGivenNames n0
       clear_value n0; revert n0; intro _)
    | with_reducible apply State.count_keeps K.1 | with_reducible apply driveEnableCtl_keeps K.1
    | with_reducible apply State.setDriveX_keeps K.1 | with_reducible apply cmdFail_keeps K | split

theorem nvmCtlWrite_keeps (K : Closed P) (s : State) (d v : Nat) (h : P s) : P (nvmCtlWrite s d v) := by
  unfold nvmCtlWrite
  repeat' first
    | with_reducible assumption | with_reducible apply plainWrite_keeps K.1 | with_reducible apply driveLost_keeps K
    | with_reducible apply flushDrive_keeps K.1 | with_reducible apply driveBegin_keeps K.1
    | with_reducible apply ite_keeps

theorem corCtlWrite_keeps (K : Regular P) (s : State) (p k v : Nat) (vf : Bool) (h : P s) : P (corCtlWrite s p k v vf) := by
  unfold corCtlWrite
  repeat' first
    | with_reducible assumption | with_reducible apply plainWrite_keeps K | with_reducible apply State.wr_keeps K
    | with_reducible apply ite_keeps

theorem seedWrite_keeps (K : Regular P) (s : State) (p v : Nat) (vf : Bool) (h : P s) : P (seedWrite s p v vf) := by
  unfold seedWrite
  repeat' first
    | with_reducible assumption | with_reducible apply seedCells_keeps K | with_reducible apply plainWrite_keeps K

theorem arithStatWrite_keeps (K : Regular P) (s : State) (p v : Nat) (vf : Bool) (h : P s) : P (arithStatWrite s p v vf) := by
  unfold arithStatWrite
  repeat' first
    | with_reducible assumption | with_reducible apply plainWrite_keeps K | with_reducible apply State.wr_keeps K
    | with_reducible apply ite_keeps

theorem xltStatClr_keeps (K : Regular P) (s : State) (p v : Nat) (h : P s) : P (xltStatClr s p v) := by
  unfold xltStatClr
  repeat' first
    | with_reducible assumption | with_reducible apply State.clrReg_keeps K | with_reducible apply ite_keeps

theorem progLoadWrite_keeps (K : Regular P) (s : State) (p v : Nat) (vf : Bool) (h : P s) : P (progLoadWrite s p v vf) := by
  unfold progLoadWrite
  repeat' first
    | with_reducible assumption | with_reducible apply plainWrite_keeps K | with_reducible apply progClear_keeps K
    | with_reducible apply loadGo_keeps K | with_reducible apply ite_keeps

theorem rgnCfgWrite_keeps (K : Regular P) (s : State) (p r v : Nat) (vf : Bool) (h : P s) : P (rgnCfgWrite s p r v vf) := by
  unfold rgnCfgWrite
  repeat' first
    | with_reducible assumption | with_reducible apply plainWrite_keeps K | with_reducible apply State.wr_keeps K
    | with_reducible apply ite_keeps

theorem rgnClr_keeps (K : Regular P) (s : State) (p v : Nat) (h : P s) : P (rgnClr s p v) := by
  unfold rgnClr
  repeat' first
    | with_reducible assumption | with_reducible apply State.clrReg_keeps K | with_reducible apply ite_keeps

theorem syncClr_keeps (K : Regular P) (s : State) (p v : Nat) (h : P s) : P (syncClr s p v) := by
  unfold syncClr
  repeat' first
    | with_reducible assumption | with_reducible apply State.clrReg_keeps K | with_reducible apply ite_keeps

theorem secClr_keeps (K : Regular P) (s : State) (p v : Nat) (h : P s) : P (secClr s p v) := by
  unfold secClr
  repeat' first
    | with_reducible assumption | with_reducible apply State.clrReg_keeps K | with_reducible apply ite_keeps

theorem rngCtlWrite_keeps (K : Regular P) (s : State) (r v : Nat) (h : P s) : P (rngCtlWrite s r v) := by
  unfold rngCtlWrite
  repeat' first
    | with_reducible assumption | with_reducible apply stopRing_keeps K | with_reducible apply State.clrReg_keeps K
    | with_reducible apply State.setRingX_keeps K | with_reducible apply State.wr_keeps K
    | with_reducible apply ite_keeps | fail_if_no_progress with_reducible refine K.lit ?_

theorem cohCtlWrite_keeps (K : Closed P) (s : State) (d v : Nat) (h : P s) : P (cohCtlWrite s d v) := by
  unfold cohCtlWrite
  repeat' first
    | with_reducible assumption | with_reducible apply plainWrite_keeps K.1 | with_reducible apply domainUp_keeps K.1
    | with_reducible apply teardown_keeps K | with_reducible apply ite_keeps

theorem aptReadGo_keeps (K : Closed P) (s : State) (func win off n : Nat) (h : P s) : P (aptReadGo s func win off n) := by
  unfold aptReadGo
  repeat' first
    | with_reducible assumption | with_reducible apply State.emit_keeps K.1 | with_reducible apply pump_keeps K
    | with_reducible apply admitReq_keeps K | with_reducible apply State.tickFresh_keeps K.1 | split

theorem aptWriteGo_keeps (K : Closed P) (s : State) (func win off : Nat) (data : List Byte) (h : P s) : P (aptWriteGo s func win off data) := by
  unfold aptWriteGo
  repeat' first
    | with_reducible assumption
    | (extract_lets +onlyGivenNames n0
       clear_value n0; revert n0; intro _)
    | with_reducible apply State.emit_keeps K.1 | with_reducible apply aptDrop_keeps K.1
    | with_reducible apply pump_keeps K | with_reducible apply admitReq_keeps K
    | with_reducible apply State.tickFresh_keeps K.1 | split

theorem timeAtLeast_keeps (K : Regular P) (s : State) (n : Nat) (h : P s) : P (timeAtLeast s n) := by
  unfold timeAtLeast
  repeat' first | with_reducible assumption | with_reducible apply setTime_keeps K | with_reducible apply ite_keeps

theorem irqZero_keeps (K : Regular P) (s : State) (src : Nat) (h : P s) : P (irqZero s src) := by
  unfold irqZero
  repeat' first | with_reducible assumption | with_reducible apply State.wr_keeps K

theorem msixSend_keeps (K : Regular P) (s : State) (func vec : Nat) (h : P s) : P (msixSend s func vec) := by
  unfold msixSend
  repeat' first
    | with_reducible assumption | with_reducible apply State.emit_keeps K | with_reducible apply ite_keeps
    | fail_if_no_progress with_reducible refine K.lit ?_

theorem irqSend_keeps (K : Regular P) (s : State) (src : Nat) (h : P s) : P (irqSend s src) := by
  unfold irqSend
  repeat' first
    | with_reducible assumption | with_reducible apply irqZero_keeps K | with_reducible apply msixSend_keeps K
    | with_reducible apply evRing_keeps K | with_reducible apply ite_keeps
    | fail_if_no_progress with_reducible refine K.lit ?_

theorem irqDeliver_keeps (K : Regular P) (s : State) (src : Nat) (h : P s) : P (irqDeliver s src) := by
  unfold irqDeliver
  repeat' first
    | with_reducible assumption | with_reducible apply State.wr_keeps K | with_reducible apply irqSend_keeps K
    | with_reducible apply timeAtLeast_keeps K | with_reducible apply ite_keeps

theorem irqAck_keeps (K : Regular P) (s : State) (src v : Nat) (h : P s) : P (irqAck s src v) := by
  unfold irqAck
  repeat' first
    | with_reducible assumption | with_reducible apply State.wr_keeps K | with_reducible apply irqSend_keeps K
    | with_reducible apply ite_keeps | fail_if_no_progress with_reducible refine K.lit ?_

theorem irqCfgWrite_keeps (K : Regular P) (s : State) (src v : Nat) (h : P s) : P (irqCfgWrite s src v) := by
  unfold irqCfgWrite
  repeat' first
    | with_reducible assumption | with_reducible apply plainWrite_keeps K | with_reducible apply State.wr_keeps K
    | with_reducible apply ite_keeps

theorem irqStatClr_keeps (K : Regular P) (s : State) (v : Nat) (h : P s) : P (irqStatClr s v) := by
  unfold irqStatClr
  repeat' first
    | with_reducible assumption | with_reducible apply State.clrReg_keeps K | with_reducible apply ite_keeps

theorem msixUnmask_keeps (K : Regular P) (s : State) (func vec : Nat) (h : P s) : P (msixUnmask s func vec) := by
  unfold msixUnmask
  repeat' first
    | with_reducible assumption | with_reducible apply State.emit_keeps K | with_reducible apply ite_keeps
    | fail_if_no_progress with_reducible refine K.lit ?_

theorem msixWrite_keeps (K : Regular P) (s : State) (func vec w v : Nat) (h : P s) : P (msixWrite s func vec w v) := by
  unfold msixWrite
  repeat' first
    | with_reducible assumption | with_reducible apply msixUnmask_keeps K | with_reducible apply ite_keeps
    | fail_if_no_progress with_reducible refine K.lit ?_

theorem msixReset_keeps (K : Regular P) (s : State) (func : Nat) (h : P s) : P (msixReset s func) := by
  unfold msixReset
  repeat' first | with_reducible assumption | fail_if_no_progress with_reducible refine K.lit ?_

theorem absorbReq_keeps (K : Regular P) (s : State) (r : HeldReq) (h : P s) : P (absorbReq s r) := by
  unfold absorbReq
  repeat' first
    | with_reducible assumption | with_reducible apply dropReq_keeps K | with_reducible apply answerApt_keeps K
    | with_reducible apply copyFail_keeps K | with_reducible apply sendErr_keeps K | with_reducible apply ite_keeps

theorem closeFaults_keeps (K : Regular P) (s : State) (p : Nat) (h : P s) : P (closeFaults s p) := by
  unfold closeFaults
  repeat' first
    | with_reducible assumption | intro _ | with_reducible apply releaseHeld_keeps K
    | with_reducible apply foldl_keeps

theorem resetSet_keeps (K : Regular P) (event : Bool) (s : State) (o : Nat) (h : P s) : P (resetSet event s o) := by
  unfold resetSet
  repeat' first
    | with_reducible assumption | with_reducible apply armEnds_keeps K | with_reducible apply armRelease_keeps K
    | with_reducible apply endSet_keeps K | split

theorem absorbExts_keeps (K : Regular P) (s : State) (p : Nat) (h : P s) : P (absorbExts s p) := by
  unfold absorbExts
  repeat' first
    | with_reducible assumption | intro _ | with_reducible apply abandonMove_keeps K
    | with_reducible apply scrubBegin_keeps K | with_reducible apply State.setExt_keeps K
    | with_reducible apply foldl_keeps | split

theorem absorbReleases_keeps (K : Regular P) (s : State) (p : Nat) (h : P s) : P (absorbReleases s p) := by
  unfold absorbReleases
  repeat' first | with_reducible assumption | fail_if_no_progress with_reducible refine K.lit ?_

theorem absorb_keeps (K : Closed P) (s : State) (sc : Nat) (h : P s) : P (absorb s sc).1 := by
  unfold absorb
  repeat' first
    | with_reducible assumption | intro _ | with_reducible apply absorbReq_keeps K.1
    | with_reducible apply resetRing_keeps K | with_reducible apply absorbExts_keeps K.1
    | with_reducible apply closeFaults_keeps K.1 | with_reducible apply foldl_keeps
    | fail_if_no_progress with_reducible refine K.lit ?_

theorem emptyNear_keeps (K : Closed P) (s : State) (sl : Nat) (h : P s) : P (emptyNear s sl) := by
  unfold emptyNear
  repeat' first
    | with_reducible assumption | intro _ | with_reducible apply nearEvict_keeps K
    | with_reducible apply foldl_keeps | fail_if_no_progress with_reducible refine K.lit ?_

theorem poisonWbuf_keeps (K : Closed P) (s : State) (sl : Nat) (h : P s) : P (poisonWbuf s sl) := by
  unfold poisonWbuf
  repeat' first
    | with_reducible assumption | with_reducible apply State.poisonLine_keeps K | with_reducible apply foldl_keeps
    | fail_if_no_progress with_reducible refine K.lit ?_

theorem emptyMacs_keeps (K : Regular P) (s : State) (sl : Nat) (h : P s) : P (emptyMacs s sl) := by
  unfold emptyMacs
  repeat' first
    | with_reducible assumption | intro _ | with_reducible apply macDrop_keeps K | with_reducible apply foldl_keeps
    | fail_if_no_progress with_reducible refine K.lit ?_

theorem dropDir_keeps (K : Closed P) (s : State) (sl : Nat) (h : P s) : P (dropDir s sl) := by
  unfold dropDir
  repeat' first
    | with_reducible assumption | intro _ | with_reducible apply delDir_keeps K.1
    | with_reducible apply cohPoison_keeps K | with_reducible apply teardownDone_keeps K.1
    | with_reducible apply foldl_keeps | with_reducible apply ite_keeps

theorem dropCached_keeps (K : Closed P) (s : State) (sl : Nat) (h : P s) : P (dropCached s sl) := by
  unfold dropCached
  repeat' first
    | with_reducible assumption | with_reducible apply emptyMacs_keeps K.1 | with_reducible apply poisonWbuf_keeps K
    | with_reducible apply dropDir_keeps K | with_reducible apply emptyNear_keeps K
    | with_reducible apply tierStats_keeps K.1 | fail_if_no_progress with_reducible refine K.lit ?_

theorem restSlice_keeps (K : Regular P) (s : State) (sl : Nat) (h : P s) : P (restSlice s sl) := by
  unfold restSlice
  repeat' first
    | with_reducible assumption | intro _ | with_reducible apply State.wr_keeps K
    | with_reducible apply State.setChanX_keeps K | with_reducible apply foldl_keeps
    | with_reducible apply ite_keeps

theorem wakeSlice_keeps (K : Regular P) (s : State) (sl : Nat) (h : P s) : P (wakeSlice s sl) := by
  unfold wakeSlice
  repeat' first
    | with_reducible assumption | with_reducible apply windowDue_keeps K | with_reducible apply State.wr_keeps K
    | with_reducible apply ite_keeps

theorem resetChans_keeps (K : Regular P) (s : State) (sl : Nat) (h : P s) : P (resetChans s sl) := by
  unfold resetChans
  repeat' first
    | with_reducible assumption | intro _ | with_reducible apply State.setChanX_keeps K
    | with_reducible apply State.wr_keeps K | with_reducible apply foldl_keeps

theorem closeFaultsAt_keeps (K : Regular P) (s : State) (sl : Nat) (h : P s) : P (closeFaultsAt s sl) := by
  unfold closeFaultsAt
  repeat' first
    | with_reducible assumption | intro _ | with_reducible apply releaseHeld_keeps K
    | with_reducible apply foldl_keeps

theorem freeObjs_keeps (K : Regular P) (event : Bool) (s : State) (sl : Nat) (h : P s) : P (freeObjs event s sl) := by
  unfold freeObjs
  extract_lets mine t waits t2 objs
  have h1 : P t := foldl_keeps (fun t a ht => resetSet_keeps K _ _ _ ht) h
  have h2 : P t2 := foldl_keeps (fun t a ht => wakeWaits_keeps K _ _ _ ht) h1
  have h3 : P { t2 with regs := objs } := K.regs _ _ h2 (ksorted_filter _ _)
  exact K.upd _ _ h3 rfl rfl rfl rfl

theorem dropRegionPins_keeps (K : Regular P) (s : State) (p : Nat) (f : Nat → Bool) (h : P s) : P (dropRegionPins s p f).1 := by
  unfold dropRegionPins
  repeat' first
    | with_reducible assumption | intro _ | with_reducible apply rgnStat_keeps K | with_reducible apply foldl_keeps
    | fail_if_no_progress with_reducible refine K.lit ?_

theorem releaseOld_keeps (K : Regular P) (s : State) (p : Nat) (f : Nat → Bool) (h : P s) : P (releaseOld s p f) := by
  unfold releaseOld
  repeat' first
    | with_reducible assumption | intro _ | with_reducible apply verRelease_keeps K
    | with_reducible apply foldl_keeps | with_reducible apply ite_keeps

theorem clearRegs_keeps (K : Regular P) (s : State) (f : RegAt → FldRow → Bool) (h : P s) : P (clearRegs s f) := by
  unfold clearRegs
  refine K.regs s _ h fun hs => ksorted_filterMap _ ?_ _ hs
  intro p q p' q' hpq hp hq
  have key : ∀ r r' : Nat × Word, (match findReg r.1 with
      | none => some r
      | some a =>
        let rv := a.row.reg.rvAt a.i
        let v := a.row.flds.foldl (fun v y => if f a y then setFld v y.lo y.w (fld rv y.lo y.w) else v) r.2.toNat
        if v = rv then none else some (r.1, toW v)) = some r' → r'.1 = r.1 := by
    intro r r' hr
    split at hr
    · injection hr with hr; rw [hr]
    · dsimp only at hr
      split at hr
      · cases hr
      · injection hr with hr; rw [← hr]
  rw [key p p' hp, key q q' hq]
  exact hpq

theorem clearPart_keeps (K : Regular P) (s : State) (p : Nat) (h : P s) : P (clearPart s p) := by
  unfold clearPart
  repeat' first | with_reducible assumption | with_reducible apply clearRegs_keeps K

theorem clearWard_keeps (K : Regular P) (s : State) (w : Nat) (h : P s) : P (clearWard s w) := by
  unfold clearWard
  repeat' first | with_reducible assumption | with_reducible apply clearRegs_keeps K

theorem partReset_keeps (K : Closed P) (s : State) (p : Nat) (h : P s) : P (partReset s p) := by
  unfold partReset
  repeat' first
    | with_reducible assumption | intro _ | with_reducible apply resetChans_keeps K.1
    | with_reducible apply restSlice_keeps K.1 | with_reducible apply dropCached_keeps K
    | with_reducible apply freeObjs_keeps K.1 | with_reducible apply seedCells_keeps K.1
    | with_reducible apply clearPart_keeps K.1 | with_reducible apply dropRegionPins_keeps K.1
    | with_reducible apply foldl_keeps | fail_if_no_progress with_reducible refine K.lit ?_

theorem sliceReset_keeps (K : Closed P) (s : State) (sl : Nat) (h : P s) : P (sliceReset s sl) := by
  unfold sliceReset
  repeat' first
    | with_reducible assumption
    | (extract_lets +onlyGivenNames t0
       refine imp_elim (p := P t0) ?_ ?_
       on_goal 1 => (unfold t0; clear t0)
       on_goal 2 => (clear_value t0; revert t0; intro _ _))
    | (extract_lets +onlyGivenNames n0
       clear_value n0; revert n0; intro _)
    | with_reducible apply resetSet_keeps K.1 | with_reducible apply closeFaultsAt_keeps K.1
    | with_reducible apply resetChans_keeps K.1 | with_reducible apply restSlice_keeps K.1
    | with_reducible apply dropCached_keeps K | with_reducible apply freeObjs_keeps K.1
    | with_reducible apply evPart_keeps K.1 | with_reducible apply dropRegionPins_keeps K.1
    | with_reducible apply foldl_keeps | split

theorem driveDrop_keeps (K : Regular P) (s : State) (d : Nat) (h : P s) : P (driveDrop s d) := by
  unfold driveDrop
  repeat' first
    | with_reducible assumption | with_reducible apply movesEnd_keeps K
    | with_reducible apply State.setDriveX_keeps K | fail_if_no_progress with_reducible refine K.lit ?_

theorem wardReset_keeps (K : Closed P) (s : State) (w : Nat) (h : P s) : P (wardReset s w) := by
  unfold wardReset
  repeat' first
    | with_reducible assumption | with_reducible apply flushDrive_keeps K.1 | with_reducible apply partReset_keeps K
    | with_reducible apply driveDrop_keeps K.1 | with_reducible apply floorSync_keeps K.1
    | with_reducible apply clearWard_keeps K.1 | with_reducible apply foldl_keeps
    | fail_if_no_progress with_reducible refine K.lit ?_

theorem setHdr_keeps (K : Regular P) (s : State) (w lo n v : Nat) (h : P s) : P (setHdr s w lo n v) := by
  unfold setHdr
  repeat' first | with_reducible assumption | with_reducible apply State.wrReg_keeps K

theorem sealRec_keeps (K : Regular P) (s : State) (h : P s) : P (sealRec s) := by
  unfold sealRec
  repeat' first | with_reducible assumption | with_reducible apply setHdr_keeps K

theorem evStart_keeps (K : Regular P) (s : State) (code a0 a1 a2 : Nat) (h : P s) : P (evStart s code a0 a1 a2) := by
  unfold evStart
  repeat' first
    | with_reducible assumption
    | (extract_lets +onlyGivenNames t0
       refine imp_elim (p := P t0) ?_ ?_
       on_goal 1 => (unfold t0; clear t0)
       on_goal 2 => (clear_value t0; revert t0; intro _ _))
    | (extract_lets +onlyGivenNames n0
       clear_value n0; revert n0; intro _)
    | with_reducible apply evPf0_keeps K | with_reducible apply sealRec_keeps K
    | with_reducible apply State.wrReg_keeps K | split | fail_if_no_progress with_reducible refine K.lit ?_

theorem tallyEntry_keeps (K : Regular P) (s : State) (step inst outcome alt next detail : Nat) (h : P s) : P (tallyEntry s step inst outcome alt next detail) := by
  unfold tallyEntry
  repeat' first
    | with_reducible assumption | with_reducible apply sealRec_keeps K | with_reducible apply setHdr_keeps K
    | with_reducible apply State.wrReg_keeps K | with_reducible apply evStart_keeps K
    | with_reducible apply ite_keeps

theorem endRec_keeps (K : Regular P) (s : State) (result cause : Nat) (h : P s) : P (endRec s result cause) := by
  unfold endRec
  repeat' first
    | with_reducible assumption | with_reducible apply sealRec_keeps K | with_reducible apply setHdr_keeps K

theorem tallyShift_keeps (K : Regular P) (s : State) (h : P s) : P (tallyShift s) := by
  unfold tallyShift
  refine K.regs s _ h fun hs => ksorted_filterMap _ ?_ _ hs
  intro p q p' q' hpq hp hq
  have key : ∀ r r' : Nat × Word, (if inTally r.1 then if r.1 + 0x800 < tallyHi then some (r.1 + 0x800, r.2) else none
      else some r) = some r' → (r.1 < tallyLo ∧ r'.1 = r.1) ∨ (tallyHi ≤ r.1 ∧ r'.1 = r.1) ∨
        (tallyLo ≤ r.1 ∧ r'.1 = r.1 + 0x800 ∧ r'.1 < tallyHi) := by
    intro r r' hr
    split at hr
    · next hi =>
      unfold inTally at hi
      split at hr
      · next hl => injection hr with hr; subst hr; simp only [Bool.and_eq_true, decide_eq_true_eq] at hi; right; right; exact ⟨hi.1, rfl, hl⟩
      · cases hr
    · next hi =>
      injection hr with hr; subst hr
      simp only [inTally, Bool.and_eq_true, decide_eq_true_eq, not_and, Nat.not_lt] at hi
      by_cases hl : tallyLo ≤ r.1
      · exact .inr (.inl ⟨hi hl, rfl⟩)
      · exact .inl ⟨Nat.lt_of_not_le hl, rfl⟩
  have hLH : tallyLo < tallyHi := by decide
  rcases key p p' hp with h1 | h1 | h1 <;> rcases key q q' hq with h2 | h2 | h2 <;> omega

theorem tallyCopy_keeps (K : Regular P) (s : State) (h : P s) : P (tallyCopy s) := by
  unfold tallyCopy
  repeat' first
    | with_reducible assumption | with_reducible apply State.tickFresh_keeps K
    | with_reducible apply evStart_keeps K | with_reducible apply State.emit_keeps K
    | with_reducible apply ite_keeps | fail_if_no_progress with_reducible refine K.lit ?_

theorem tallyRestore_keeps (K : Regular P) (s : State) (h : P s) : P (tallyRestore s) := by
  unfold tallyRestore
  split
  · exact evStart_keeps K _ _ _ _ _ h
  · next rs _ =>
    have h0 : P (rs.foldl (fun t e => if e.1 + 0x800 < tallyHi then { t with regs := kput (e.1 + 0x800) e.2 t.regs } else t) s) := by
      apply foldl_keeps _ h
      intro t a ht
      split
      · exact K.regs t _ ht (ksorted_kput _ _ _)
      · exact ht
    revert h0
    generalize rs.foldl (fun t e => if e.1 + 0x800 < tallyHi then { t with regs := kput (e.1 + 0x800) e.2 t.regs } else t) s = t
    intro h0
    dsimp only
    refine sealRec_keeps K _ (foldl_keeps (fun t a ht => State.wr_keeps K _ _ _ _ _ _ ht) (foldl_keeps (fun t a ht => State.wr_keeps K _ _ _ _ _ _ ht) (State.wr_keeps K _ _ _ _ _ _ (setHdr_keeps K _ _ _ _ _ h0))))

theorem tallyForget_keeps (K : Regular P) (s : State) (h : P s) : P (tallyForget s) := by
  unfold tallyForget
  repeat' first
    | with_reducible assumption | intro _ | with_reducible apply tallyCopy_keeps K
    | with_reducible apply sealRec_keeps K | with_reducible apply State.wrReg_keeps K
    | with_reducible apply foldl_keeps

theorem clearedChip_keeps (K : Closed P) (s : State) (kind : Nat) (h : P s) : P (clearedChip s kind) := by
  have hc := clearRegs_keeps K.1 s (clears s kind) h
  have hr : ksorted s.regs → ksorted (clearRegs s (clears s kind)).regs :=
    clearRegs_keeps (P := fun t => ksorted s.regs → ksorted t.regs) (closed_sorted _).1 s (clears s kind) id
  have hw := K.wipe s _ h hr
  unfold clearedChip
  exact K.upd _ _ hw rfl rfl rfl rfl

theorem keptPorts_keeps (K : Regular P) (s t : State) (h : P s) (h1 : P t) : P (keptPorts s t) := by
  unfold keptPorts
  exact K.upd _ _ h1 rfl rfl rfl rfl

theorem restChans_keeps (K : Regular P) (s t : State) (h : P s) (h1 : P t) : P (restChans s t) := by
  unfold restChans
  repeat' first
    | with_reducible assumption | intro _ | with_reducible apply State.wr_keeps K | with_reducible apply foldl_keeps
    | with_reducible apply ite_keeps

theorem chipClear_keeps (K : Closed P) (s : State) (kind : Nat) (h : P s) : P (chipClear s kind) := by
  unfold chipClear
  repeat' first
    | with_reducible assumption | intro _ | with_reducible apply restChans_keeps K.1
    | with_reducible apply keptPorts_keeps K.1 | with_reducible apply clearedChip_keeps K
    | with_reducible apply State.wr_keeps K.1 | with_reducible apply foldl_keeps | with_reducible apply ite_keeps

theorem leaveStep_keeps (K : Regular P) (s : State) (h : P s) : P (leaveStep s) := by
  unfold leaveStep
  repeat' first | with_reducible assumption | fail_if_no_progress with_reducible refine K.lit ?_

theorem startHold_keeps (K : Regular P) (s : State) (cause : Nat) (h : P s) : P (startHold s cause) := by
  unfold startHold
  repeat' first
    | with_reducible assumption | with_reducible apply endRec_keeps K | with_reducible apply State.wr_keeps K

theorem portsOff_keeps (K : Regular P) (s : State) (h : P s) : P (portsOff s) := by
  unfold portsOff
  repeat' first
    | with_reducible assumption | intro _ | with_reducible apply State.wr_keeps K | with_reducible apply foldl_keeps
    | with_reducible apply ite_keeps | fail_if_no_progress with_reducible refine K.lit ?_

theorem toSafe_keeps (K : Regular P) (s : State) (cause result detail : Nat) (h : P s) : P (toSafe s cause result detail) := by
  unfold toSafe
  repeat' first
    | with_reducible assumption | with_reducible apply State.wr_keeps K | with_reducible apply evStart_keeps K
    | with_reducible apply leaveStep_keeps K | with_reducible apply tallyEntry_keeps K
    | with_reducible apply floorSync_keeps K | with_reducible apply portsOff_keeps K
    | with_reducible apply tallyCopy_keeps K | with_reducible apply endRec_keeps K
    | fail_if_no_progress with_reducible refine K.lit ?_

theorem phase_keeps (K : Regular P) (s : State) (p : Nat) (h : P s) : P (phase s p) := by
  unfold phase
  repeat' first | with_reducible assumption | with_reducible apply State.wr_keeps K

theorem stepAt_keeps (K : Regular P) (s : State) (k : Nat) (h : P s) : P (stepAt s k) := by
  unfold stepAt
  repeat' first | with_reducible assumption | fail_if_no_progress with_reducible refine K.lit ?_

theorem sampleStraps_keeps (K : Regular P) (s : State) (h : P s) : P (sampleStraps s) := by
  unfold sampleStraps
  repeat' first
    | with_reducible assumption | intro _ | with_reducible apply State.wr_keeps K | with_reducible apply foldl_keeps

theorem begin5_keeps (K : Regular P) (s : State) (h : P s) : P (begin5 s) := by
  unfold begin5
  repeat' first
    | with_reducible assumption | with_reducible apply stepAt_keeps K | with_reducible apply phase_keeps K
    | with_reducible apply State.wr_keeps K | with_reducible apply tallyRestore_keeps K
    | with_reducible apply ite_keeps | fail_if_no_progress with_reducible refine K.lit ?_

theorem heldWards_keeps (K : Regular P) (s : State) (h : P s) : P (heldWards s) := by
  unfold heldWards
  repeat' first
    | with_reducible assumption | intro _ | with_reducible apply State.wr_keeps K | with_reducible apply foldl_keeps
    | with_reducible apply ite_keeps

theorem startBegin_keeps (K : Regular P) (s : State) (kind : Nat) (h : P s) : P (startBegin s kind) := by
  unfold startBegin
  repeat' first
    | with_reducible assumption | with_reducible apply endRec_keeps K | with_reducible apply State.wr_keeps K
    | with_reducible apply tallyShift_keeps K | with_reducible apply sealRec_keeps K
    | with_reducible apply setHdr_keeps K | with_reducible apply begin5_keeps K
    | with_reducible apply tallyEntry_keeps K | with_reducible apply heldWards_keeps K
    | with_reducible apply sampleStraps_keeps K | with_reducible apply stepAt_keeps K
    | with_reducible apply startHold_keeps K | with_reducible apply ite_keeps
    | fail_if_no_progress with_reducible refine K.lit ?_

theorem preconditions_keeps (K : Regular P) (s : State) (h : P s) : P (preconditions s) := by
  unfold preconditions
  repeat' first
    | with_reducible assumption | with_reducible apply State.wr_keeps K | with_reducible apply tallyEntry_keeps K
    | with_reducible apply endRec_keeps K | with_reducible apply begin5_keeps K
    | with_reducible apply stepAt_keeps K | with_reducible apply phase_keeps K | with_reducible apply ite_keeps

theorem startUnitOut_keeps (K : Regular P) (s : State) (u : Nat) (h : P s) : P (startUnitOut s u) := by
  unfold startUnitOut
  repeat' first
    | with_reducible assumption | with_reducible apply channelLost_keeps K | with_reducible apply evPf0_keeps K
    | with_reducible apply State.wr_keeps K | with_reducible apply ite_keeps
    | fail_if_no_progress with_reducible refine K.lit ?_

theorem selfTested_keeps (K : Regular P) (s : State) (ok : Bool) (bad : List Nat) (h : P s) : P (selfTested s ok bad) := by
  unfold selfTested
  repeat' first
    | with_reducible assumption | with_reducible apply tallyEntry_keeps K | with_reducible apply leaveStep_keeps K
    | with_reducible apply startHold_keeps K | with_reducible apply toSafe_keeps K
    | with_reducible apply begin5_keeps K | with_reducible apply ite_keeps
    | fail_if_no_progress with_reducible refine K.lit ?_

theorem planSlice_keeps (K : Regular P) (s : State) (i : Nat) (h : P s) : P (planSlice s i) := by
  unfold planSlice
  repeat' first
    | with_reducible assumption | with_reducible apply State.wr_keeps K | with_reducible apply ite_keeps

theorem floorPlan_keeps (K : Regular P) (s : State) (h : P s) : P (floorPlan s) := by
  unfold floorPlan
  repeat' first
    | with_reducible assumption | with_reducible apply floorSync_keeps K | with_reducible apply planSlice_keeps K
    | with_reducible apply foldl_keeps

theorem begin7_keeps (K : Regular P) (s : State) (h : P s) : P (begin7 s) := by
  unfold begin7
  repeat' first
    | with_reducible assumption | with_reducible apply floorPlan_keeps K | with_reducible apply stepAt_keeps K

theorem begin6_keeps (K : Regular P) (s : State) (h : P s) : P (begin6 s) := by
  unfold begin6
  repeat' first
    | with_reducible assumption | intro _ | with_reducible apply stepAt_keeps K | with_reducible apply phase_keeps K
    | with_reducible apply State.wr_keeps K | with_reducible apply evStart_keeps K
    | with_reducible apply setHdr_keeps K | with_reducible apply begin7_keeps K
    | with_reducible apply tallyEntry_keeps K | with_reducible apply foldl_keeps | with_reducible apply ite_keeps
    | fail_if_no_progress with_reducible refine K.lit ?_

theorem step5Check_keeps (K : Regular P) (s : State) (h : P s) : P (step5Check s) := by
  unfold step5Check
  repeat' first | with_reducible assumption | with_reducible apply begin6_keeps K | with_reducible apply ite_keeps

theorem imageLoaded_keeps (K : Regular P) (s : State) (svn keysel : Nat) (h : P s) : P (imageLoaded s svn keysel) := by
  unfold imageLoaded
  repeat' first
    | with_reducible assumption | with_reducible apply State.wr_keeps K | with_reducible apply tallyEntry_keeps K
    | with_reducible apply step5Check_keeps K | fail_if_no_progress with_reducible refine K.lit ?_

theorem spiFail_keeps (K : Regular P) (s : State) (outcome : Nat) (h : P s) : P (spiFail s outcome) := by
  unfold spiFail
  repeat' first
    | with_reducible assumption | with_reducible apply toSafe_keeps K | with_reducible apply tallyEntry_keeps K

theorem hostFail_keeps (K : Regular P) (s : State) (outcome : Nat) (h : P s) : P (hostFail s outcome) := by
  unfold hostFail
  repeat' first
    | with_reducible assumption | with_reducible apply toSafe_keeps K | with_reducible apply tallyEntry_keeps K
    | with_reducible apply State.wr_keeps K

theorem recoveryGo_keeps (K : Regular P) (s : State) (v : Nat) (h : P s) : P (recoveryGo s v) := by
  unfold recoveryGo
  repeat' first
    | with_reducible assumption | with_reducible apply plainWrite_keeps K | with_reducible apply hostFail_keeps K
    | with_reducible apply State.emit_keeps K | with_reducible apply State.wr_keeps K
    | with_reducible apply ite_keeps

theorem recoveryDone_keeps (K : Regular P) (s : State) (ok : Bool) (svn keysel : Nat) (h : P s) : P (recoveryDone s ok svn keysel) := by
  unfold recoveryDone
  repeat' first
    | with_reducible assumption | with_reducible apply imageLoaded_keeps K | with_reducible apply hostFail_keeps K
    | with_reducible apply ite_keeps

theorem evDefect_keeps (K : Regular P) (s : State) (u cause : Nat) (h : P s) : P (evDefect s u cause) := by
  unfold evDefect
  repeat' first | with_reducible assumption | with_reducible apply evStart_keeps K

theorem newDefect_keeps (K : Regular P) (s : State) (u : Nat) (h : P s) : P (newDefect s u) := by
  unfold newDefect
  repeat' first
    | with_reducible assumption | with_reducible apply evDefect_keeps K | with_reducible apply State.count_keeps K
    | with_reducible apply ite_keeps | fail_if_no_progress with_reducible refine K.lit ?_

theorem tested_keeps (K : Regular P) (s : State) (bad : List Nat) (done : Nat) (h : P s) : P (tested s bad done) := by
  unfold tested
  repeat' first
    | with_reducible assumption | intro _ | with_reducible apply evDefect_keeps K
    | with_reducible apply newDefect_keeps K | with_reducible apply tallyEntry_keeps K
    | with_reducible apply begin7_keeps K | with_reducible apply startUnitOut_keeps K
    | with_reducible apply foldl_keeps | fail_if_no_progress with_reducible refine K.lit ?_

theorem checkChan_keeps (K : Regular P) (s : State) (c : Nat) (h : P s) : P (checkChan s c) := by
  unfold checkChan
  repeat' first
    | with_reducible assumption | with_reducible apply windowDue_keeps K | with_reducible apply State.wr_keeps K
    | with_reducible apply ite_keeps

theorem begin8_keeps (K : Regular P) (s : State) (h : P s) : P (begin8 s) := by
  unfold begin8
  repeat' first
    | with_reducible assumption | intro _ | with_reducible apply stepAt_keeps K | with_reducible apply phase_keeps K
    | with_reducible apply checkChan_keeps K | with_reducible apply driveBringup_keeps K
    | with_reducible apply trainStartup_keeps K | with_reducible apply foldl_keeps | with_reducible apply ite_keeps

theorem broadcast_keeps (K : Regular P) (s : State) (bad : List Nat) (done : Nat) (h : P s) : P (broadcast s bad done) := by
  unfold broadcast
  repeat' first
    | with_reducible assumption | with_reducible apply tallyEntry_keeps K | with_reducible apply toSafe_keeps K
    | with_reducible apply startUnitOut_keeps K | with_reducible apply begin8_keeps K
    | with_reducible apply floorPlan_keeps K | with_reducible apply foldl_keeps | with_reducible apply ite_keeps

theorem chanEntry_keeps (K : Regular P) (s : State) (c : Nat) (h : P s) : P (chanEntry s c) := by
  unfold chanEntry
  repeat' first
    | with_reducible assumption | with_reducible apply tallyEntry_keeps K | with_reducible apply ite_keeps

theorem portEntry_keeps (K : Regular P) (s : State) (n : Nat) (h : P s) : P (portEntry s n) := by
  unfold portEntry
  repeat' first
    | with_reducible assumption | with_reducible apply tallyEntry_keeps K | with_reducible apply ite_keeps

theorem driveEntry_keeps (K : Regular P) (s : State) (d : Nat) (h : P s) : P (driveEntry s d) := by
  unfold driveEntry
  repeat' first
    | with_reducible assumption | with_reducible apply tallyEntry_keeps K | with_reducible apply ite_keeps

theorem readyCodes_keeps (K : Regular P) (t : State) (h : P t) : P (readyCodes t) := by
  unfold readyCodes
  repeat' first
    | with_reducible assumption
    | (extract_lets +onlyGivenNames t0
       refine imp_elim (p := P t0) ?_ ?_
       on_goal 1 => (unfold t0; clear t0)
       on_goal 2 => (clear_value t0; revert t0; intro _ _))
    | (extract_lets +onlyGivenNames n0
       clear_value n0; revert n0; intro _)
    | with_reducible apply sealRec_keeps K | with_reducible apply State.wrReg_keeps K
    | with_reducible apply evPf0_keeps K | split | fail_if_no_progress with_reducible refine K.lit ?_

theorem measure_keeps (K : Regular P) (s : State) (h : P s) : P (measure s) := by
  unfold measure
  repeat' first
    | with_reducible assumption | with_reducible apply ite_keeps
    | fail_if_no_progress with_reducible refine K.lit ?_

theorem lockWrite_keeps (K : Regular P) (s : State) (v : Nat) (h : P s) : P (lockWrite s v) := by
  unfold lockWrite
  repeat' first
    | with_reducible assumption | with_reducible apply plainWrite_keeps K | with_reducible apply ite_keeps
    | fail_if_no_progress with_reducible refine K.lit ?_

theorem toReady_keeps (K : Regular P) (s : State) (h : P s) : P (toReady s) := by
  unfold toReady
  repeat' first
    | with_reducible assumption | with_reducible apply setHdr_keeps K | with_reducible apply endRec_keeps K
    | with_reducible apply leaveStep_keeps K | with_reducible apply measure_keeps K
    | with_reducible apply State.wr_keeps K | with_reducible apply phase_keeps K
    | with_reducible apply tallyEntry_keeps K | with_reducible apply evStart_keeps K
    | with_reducible apply readyCodes_keeps K | with_reducible apply floorSync_keeps K
    | with_reducible apply guardAll_keeps K | with_reducible apply tallyCopy_keeps K
    | fail_if_no_progress with_reducible refine K.lit ?_

theorem begin11_keeps (K : Regular P) (s : State) (h : P s) : P (begin11 s) := by
  unfold begin11
  repeat' first
    | with_reducible assumption | intro _ | with_reducible apply toReady_keeps K
    | with_reducible apply tallyEntry_keeps K | with_reducible apply stepAt_keeps K
    | with_reducible apply foldl_keeps | with_reducible apply ite_keeps

theorem extTested_keeps (K : Regular P) (s : State) (bad : List Nat) (done : Nat) (h : P s) : P (extTested s bad done) := by
  unfold extTested
  repeat' first
    | with_reducible assumption | intro _ | with_reducible apply toReady_keeps K
    | with_reducible apply watchUE_keeps K | with_reducible apply State.count_keeps K
    | with_reducible apply tallyEntry_keeps K | with_reducible apply foldl_keeps | with_reducible apply ite_keeps

theorem begin9_keeps (K : Regular P) (s : State) (h : P s) : P (begin9 s) := by
  unfold begin9
  repeat' first
    | with_reducible assumption | intro _ | with_reducible apply stepAt_keeps K | with_reducible apply phase_keeps K
    | with_reducible apply begin11_keeps K | with_reducible apply tallyEntry_keeps K
    | with_reducible apply foldl_keeps | with_reducible apply ite_keeps

theorem katDone_keeps (K : Regular P) (s : State) (bad : List Nat) (done : Nat) (h : P s) : P (katDone s bad done) := by
  unfold katDone
  repeat' first
    | with_reducible assumption | intro _ | with_reducible apply tallyEntry_keeps K
    | with_reducible apply toSafe_keeps K | with_reducible apply begin11_keeps K
    | with_reducible apply floorPlan_keeps K | with_reducible apply startUnitOut_keeps K
    | with_reducible apply foldl_keeps | with_reducible apply ite_keeps

theorem trained_keeps (K : Regular P) (s : State) (h : P s) : P (trained s) := by
  unfold trained
  repeat' first
    | with_reducible assumption | with_reducible apply begin9_keeps K | with_reducible apply driveEntry_keeps K
    | with_reducible apply portEntry_keeps K | with_reducible apply chanEntry_keeps K
    | with_reducible apply foldl_keeps | with_reducible apply ite_keeps

theorem startStepDone_keeps (K : Regular P) (s : State) (ok : Bool) (bad : List Nat) (svn keysel : Nat) (h : P s) : P (startStepDone s ok bad svn keysel) := by
  unfold startStepDone
  repeat' first
    | with_reducible assumption | with_reducible apply selfTested_keeps K | with_reducible apply imageLoaded_keeps K
    | with_reducible apply spiFail_keeps K | with_reducible apply tested_keeps K
    | with_reducible apply broadcast_keeps K | with_reducible apply trained_keeps K
    | with_reducible apply katDone_keeps K | with_reducible apply extTested_keeps K | with_reducible apply ite_keeps

theorem startTmo_keeps (K : Regular P) (s : State) (h : P s) : P (startTmo s) := by
  unfold startTmo
  repeat' first
    | with_reducible assumption | with_reducible apply leaveStep_keeps K | with_reducible apply startHold_keeps K
    | with_reducible apply tallyEntry_keeps K | with_reducible apply hostFail_keeps K
    | with_reducible apply spiFail_keeps K | with_reducible apply tested_keeps K
    | with_reducible apply broadcast_keeps K | with_reducible apply katDone_keeps K
    | with_reducible apply extTested_keeps K | with_reducible apply toSafe_keeps K | with_reducible apply ite_keeps

theorem powerOn_keeps (K : Regular P) (s : State) (h : P s) : P (powerOn s) := by
  unfold powerOn
  repeat' first
    | with_reducible assumption | with_reducible apply startBegin_keeps K | with_reducible apply ite_keeps

theorem freezeBegin_keeps (K : Regular P) (s : State) (trigger : Nat) (h : P s) : P (freezeBegin s trigger) := by
  unfold freezeBegin
  repeat' first
    | with_reducible assumption | with_reducible apply State.wr_keeps K | with_reducible apply ite_keeps
    | fail_if_no_progress with_reducible refine K.lit ?_

theorem eldLeave_keeps (K : Regular P) (s : State) (u code : Nat) (h : P s) : P (eldLeave s u code) := by
  unfold eldLeave
  repeat' first
    | with_reducible assumption | with_reducible apply State.wr_keeps K | with_reducible apply setCheck_keeps K
    | with_reducible apply setEldSt_keeps K | with_reducible apply setClaim_keeps K
    | with_reducible apply evPf0_keeps K | with_reducible apply ite_keeps
    | fail_if_no_progress with_reducible refine K.lit ?_

theorem eldOut_keeps (K : Regular P) (s : State) (u code trigger : Nat) (h : P s) : P (eldOut s u code trigger) := by
  unfold eldOut
  repeat' first
    | with_reducible assumption | with_reducible apply eldLeave_keeps K | with_reducible apply freezeBegin_keeps K
    | with_reducible apply State.wr_keeps K | with_reducible apply ite_keeps

theorem resyncBegin_keeps (K : Regular P) (s : State) (u : Nat) (h : P s) : P (resyncBegin s u) := by
  unfold resyncBegin
  repeat' first
    | with_reducible assumption | with_reducible apply setClaim_keeps K | with_reducible apply setEldSt_keeps K
    | with_reducible apply State.wr_keeps K | fail_if_no_progress with_reducible refine K.lit ?_

theorem returnFails_keeps (K : Regular P) (s : State) (u : Nat) (h : P s) : P (returnFails s u) := by
  unfold returnFails
  repeat' first
    | with_reducible assumption | with_reducible apply eldLeave_keeps K | with_reducible apply resyncBegin_keeps K
    | with_reducible apply ite_keeps | fail_if_no_progress with_reducible refine K.lit ?_

theorem heartbeatMissed_keeps (K : Regular P) (s : State) (u : Nat) (h : P s) : P (heartbeatMissed s u) := by
  unfold heartbeatMissed
  repeat' first
    | with_reducible assumption | with_reducible apply eldOut_keeps K | with_reducible apply State.count_keeps K
    | with_reducible apply timeAtLeast_keeps K | with_reducible apply ite_keeps

end Sys2Proof.Machine
end

