-- ==== Sys2Proof/Laws/KeepLinks.lean ====
section
/-!
SUPPORT. Sys2Proof/Laws/KeepLinks.lean: a closed property is kept by each operation of the commands of links, channels, drives and schedulers.
-/
namespace Sys2Proof.Machine

variable {P : State → Prop}

theorem execDramTrain_keeps (K : Closed P) (ch : Chan) (d : Dimms) (s : State) (h : P s) : OutHas P (execDramTrain ch d s) := by
  unfold execDramTrain
  repeat' first | with_reducible assumption | with_reducible apply chanTrain_keeps K | dsimp -zeta only [OutHas]

theorem execDramTrainingDone_keeps (K : Closed P) (ch : Chan) (katOk : Bool) (s : State) (h : P s) : OutHas P (execDramTrainingDone ch katOk s) := by
  unfold execDramTrainingDone
  repeat' first | with_reducible assumption | with_reducible apply chanTrained_keeps K | dsimp -zeta only [OutHas]

theorem execDramTrainTmoExpiry_keeps (K : Closed P) (ch : Chan) (s : State) (h : P s) : OutHas P (execDramTrainTmoExpiry ch s) := by
  unfold execDramTrainTmoExpiry
  repeat' first | with_reducible assumption | with_reducible apply trainFail_keeps K | dsimp -zeta only [OutHas]

theorem execQuietWindowDue_keeps (K : Regular P) (ch : Chan) (s : State) (h : P s) : OutHas P (execQuietWindowDue ch s) := by
  unfold execQuietWindowDue
  repeat' first | with_reducible assumption | with_reducible apply windowDue_keeps K | dsimp -zeta only [OutHas]

theorem execQuietWindowEnd_keeps (K : Closed P) (ch : Chan) (drift : Bool) (s : State) (h : P s) : OutHas P (execQuietWindowEnd ch drift s) := by
  unfold execQuietWindowEnd
  repeat' first | with_reducible assumption | with_reducible apply windowEnd_keeps K | dsimp -zeta only [OutHas]

theorem execDramRetrainTmoExpiry_keeps (K : Closed P) (ch : Chan) (s : State) (h : P s) : OutHas P (execDramRetrainTmoExpiry ch s) := by
  unfold execDramRetrainTmoExpiry
  repeat' first
    | with_reducible assumption | with_reducible apply chanLose_keeps K | with_reducible apply ite_keeps
    | dsimp -zeta only [OutHas]

theorem execCommandAddressParityFail_keeps (K : Closed P) (ch : Chan) (retry : Nat) (s : State) (h : P s) : OutHas P (execCommandAddressParityFail ch retry s) := by
  unfold execCommandAddressParityFail
  repeat' first | with_reducible assumption | with_reducible apply parityFail_keeps K | dsimp -zeta only [OutHas]

theorem execRefreshStop_keeps (K : Regular P) (ch : Chan) (sub : Bool) (s : State) (h : P s) : OutHas P (execRefreshStop ch sub s) := by
  unfold execRefreshStop
  repeat' first | with_reducible assumption | with_reducible apply refreshStop_keeps K | dsimp -zeta only [OutHas]

theorem execDramTempPoll_keeps (K : Regular P) (ch : Chan) (hub : Option Int) (mr4 : Nat) (s : State) (h : P s) : OutHas P (execDramTempPoll ch hub mr4 s) := by
  unfold execDramTempPoll
  repeat' first | with_reducible assumption | with_reducible apply tempPoll_keeps K | dsimp -zeta only [OutHas]

theorem execScrubSlot_keeps (K : Closed P) (ch : Chan) (s : State) (h : P s) : OutHas P (execScrubSlot ch s) := by
  unfold execScrubSlot
  repeat' first | with_reducible assumption | with_reducible apply scrubSlot_keeps K | dsimp -zeta only [OutHas]

theorem execLapMaxExpiry_keeps (K : Regular P) (ch : Chan) (s : State) (h : P s) : OutHas P (execLapMaxExpiry ch s) := by
  unfold execLapMaxExpiry
  repeat' first | with_reducible assumption | with_reducible apply lapSlow_keeps K | dsimp -zeta only [OutHas]

theorem execDramCeWindowEnd_keeps (K : Regular P) (ch : Chan) (s : State) (h : P s) : OutHas P (execDramCeWindowEnd ch s) := by
  unfold execDramCeWindowEnd
  repeat' first
    | with_reducible assumption | with_reducible apply State.setChanX_keeps K | dsimp -zeta only [OutHas]

theorem execDdrEnable_keeps (K : Closed P) (ch : Chan) (v : Word) (s : State) (h : P s) : OutHas P (execDdrEnable ch v s) := by
  unfold execDdrEnable
  repeat' first
    | with_reducible assumption | with_reducible apply atPf0_keeps K.1 | with_reducible apply ddrCtlWrite_keeps K
    | dsimp -zeta only [OutHas]

theorem execDdrDisable_keeps (K : Closed P) (ch : Chan) (v : Word) (s : State) (h : P s) : OutHas P (execDdrDisable ch v s) := by
  unfold execDdrDisable
  repeat' first
    | with_reducible assumption | with_reducible apply atPf0_keeps K.1 | with_reducible apply ddrCtlWrite_keeps K
    | dsimp -zeta only [OutHas]

theorem execDdrRearm_keeps (K : Closed P) (ch : Chan) (v : Word) (s : State) (h : P s) : OutHas P (execDdrRearm ch v s) := by
  unfold execDdrRearm
  repeat' first
    | with_reducible assumption | with_reducible apply atPf0_keeps K.1 | with_reducible apply ddrCtlWrite_keeps K
    | dsimp -zeta only [OutHas]

theorem execDdrMarkClr_keeps (K : Closed P) (ch : Chan) (v : Word) (s : State) (h : P s) : OutHas P (execDdrMarkClr ch v s) := by
  unfold execDdrMarkClr
  repeat' first
    | with_reducible assumption | with_reducible apply atPf0_keeps K.1 | with_reducible apply ddrCtlWrite_keeps K
    | dsimp -zeta only [OutHas]

theorem execDdrCntClr_keeps (K : Regular P) (ch : Chan) (v : Word) (s : State) (h : P s) : OutHas P (execDdrCntClr ch v s) := by
  unfold execDdrCntClr
  repeat' first
    | with_reducible assumption | with_reducible apply atPf0_keeps K | with_reducible apply ddrCntClr_keeps K
    | dsimp -zeta only [OutHas]

theorem execGranaryFillDone_keeps (K : Closed P) (block : Nat) (s : State) (h : P s) : OutHas P (execGranaryFillDone block s) := by
  unfold execGranaryFillDone
  repeat' first | with_reducible assumption | with_reducible apply fillDone_keeps K | dsimp -zeta only [OutHas]

theorem execGroupWritebackDone_keeps (K : Closed P) (group : Nat) (s : State) (h : P s) : OutHas P (execGroupWritebackDone group s) := by
  unfold execGroupWritebackDone
  repeat' first | with_reducible assumption | with_reducible apply groupDone_keeps K | dsimp -zeta only [OutHas]

theorem execDecayTick_keeps (K : Closed P) (p : Part) (s : State) (h : P s) : OutHas P (execDecayTick p s) := by
  unfold execDecayTick
  repeat' first | with_reducible assumption | with_reducible apply decayTick_keeps K | dsimp -zeta only [OutHas]

theorem execDriveBringup_keeps (K : Regular P) (dr : Drive) (s : State) (h : P s) : OutHas P (execDriveBringup dr s) := by
  unfold execDriveBringup
  repeat' first | with_reducible assumption | with_reducible apply driveBringup_keeps K | dsimp -zeta only [OutHas]

theorem execNvmDisable_keeps (K : Closed P) (dr : Drive) (v : Word) (s : State) (h : P s) : OutHas P (execNvmDisable dr v s) := by
  unfold execNvmDisable
  repeat' first
    | with_reducible assumption | with_reducible apply atPf0_keeps K.1 | with_reducible apply nvmCtlWrite_keeps K
    | dsimp -zeta only [OutHas]

theorem execNvmeCmdComplete_keeps (K : Closed P) (dr : Drive) (id sct sc : Nat) (data : List Byte) (s : State) (h : P s) : OutHas P (execNvmeCmdComplete dr id sct sc data s) := by
  unfold execNvmeCmdComplete
  repeat' first | with_reducible assumption | with_reducible apply cmdComplete_keeps K | dsimp -zeta only [OutHas]

theorem execNvmeCmdTmoExpiry_keeps (K : Closed P) (dr : Drive) (id : Nat) (s : State) (h : P s) : OutHas P (execNvmeCmdTmoExpiry dr id s) := by
  unfold execNvmeCmdTmoExpiry
  repeat' first | with_reducible assumption | with_reducible apply cmdTmo_keeps K | dsimp -zeta only [OutHas]

theorem execNvmeLinkupTmoExpiry_keeps (K : Closed P) (dr : Drive) (s : State) (h : P s) : OutHas P (execNvmeLinkupTmoExpiry dr s) := by
  unfold execNvmeLinkupTmoExpiry
  repeat' first | with_reducible assumption | with_reducible apply driveLinkTmo_keeps K | dsimp -zeta only [OutHas]

theorem execNvmeReadyTmoExpiry_keeps (K : Closed P) (dr : Drive) (s : State) (h : P s) : OutHas P (execNvmeReadyTmoExpiry dr s) := by
  unfold execNvmeReadyTmoExpiry
  repeat' first
    | with_reducible assumption | with_reducible apply driveReadyTmo_keeps K | dsimp -zeta only [OutHas]

theorem execSmartPoll_keeps (K : Closed P) (dr : Drive) (ok : Bool) (temp : Int) (warn used : Nat) (s : State) (h : P s) : OutHas P (execSmartPoll dr ok temp warn used s) := by
  unfold execSmartPoll
  repeat' first | with_reducible assumption | with_reducible apply smartPoll_keeps K | dsimp -zeta only [OutHas]

theorem execNvmeLinkDown_keeps (K : Regular P) (dr : Drive) (s : State) (h : P s) : OutHas P (execNvmeLinkDown dr s) := by
  unfold execNvmeLinkDown
  repeat' first
    | with_reducible assumption | with_reducible apply driveLinkDown_keeps K | dsimp -zeta only [OutHas]

theorem execNvmeLinkUp_keeps (K : Regular P) (dr : Drive) (s : State) (h : P s) : OutHas P (execNvmeLinkUp dr s) := by
  unfold execNvmeLinkUp
  repeat' first | with_reducible assumption | with_reducible apply driveLinkUp_keeps K | dsimp -zeta only [OutHas]

theorem execNvmeControllerReady_keeps (K : Regular P) (dr : Drive) (mqes : Nat) (s : State) (h : P s) : OutHas P (execNvmeControllerReady dr mqes s) := by
  unfold execNvmeControllerReady
  repeat' first | with_reducible assumption | with_reducible apply driveReady_keeps K | dsimp -zeta only [OutHas]

theorem execNvmeControllerFatal_keeps (K : Closed P) (dr : Drive) (s : State) (h : P s) : OutHas P (execNvmeControllerFatal dr s) := by
  unfold execNvmeControllerFatal
  repeat' first | with_reducible assumption | with_reducible apply driveLost_keeps K | dsimp -zeta only [OutHas]

theorem execDataFlitRx_keeps (K : Regular P) (port : Port) (f : Flit) (s : State) (h : P s) : OutHas P (execDataFlitRx port f s) := by
  unfold execDataFlitRx
  repeat' first
    | with_reducible assumption | with_reducible apply dataFlit_keeps K | with_reducible apply wakeLpi_keeps K
    | with_reducible apply ite_keeps | dsimp -zeta only [OutHas]

theorem execIdleFlitRx_keeps (K : Regular P) (port : Port) (f : Flit) (s : State) (h : P s) : OutHas P (execIdleFlitRx port f s) := by
  unfold execIdleFlitRx
  repeat' first
    | with_reducible assumption | with_reducible apply flitHead_keeps K | with_reducible apply ite_keeps
    | dsimp -zeta only [OutHas]

theorem execCorruptFlitRx_keeps (K : Regular P) (port : Port) (symErrs : Nat) (s : State) (h : P s) : OutHas P (execCorruptFlitRx port symErrs s) := by
  unfold execCorruptFlitRx
  repeat' first
    | with_reducible assumption | with_reducible apply State.count_keeps K | with_reducible apply flitBad_keeps K
    | with_reducible apply ite_keeps | dsimp -zeta only [OutHas]

theorem ctlHead_keeps (K : Regular P) (s : State) (n : Nat) (m : CtlMsg) (h : P s) : P (ctlHead s n m) := by
  unfold ctlHead
  repeat' first
    | with_reducible assumption | with_reducible apply flitHead_keeps K | with_reducible apply ite_keeps

theorem capsIn_keeps (K : Regular P) (s : State) (n : Nat) (m : CtlMsg) (h : P s) : P (capsIn s n m) := by
  unfold capsIn
  repeat' first
    | with_reducible assumption | intro _ | with_reducible apply State.wr_keeps K
    | with_reducible apply trainRefuse_keeps K | with_reducible apply ctlOut_keeps K
    | with_reducible apply State.setLink_keeps K | with_reducible apply foldl_keeps | with_reducible apply ite_keeps

theorem execCaps_keeps (K : Regular P) (port : Port) (m : CtlMsg) (s : State) (h : P s) : OutHas P (execCaps port m s) := by
  unfold execCaps
  repeat' first
    | with_reducible assumption | with_reducible apply capsIn_keeps K | with_reducible apply ctlHead_keeps K
    | dsimp -zeta only [OutHas]

theorem execLenProbe_keeps (K : Regular P) (port : Port) (m : CtlMsg) (s : State) (h : P s) : OutHas P (execLenProbe port m s) := by
  unfold execLenProbe
  repeat' first
    | with_reducible assumption | with_reducible apply ctlHead_keeps K | with_reducible apply ctlOut_keeps K
    | with_reducible apply ite_keeps | dsimp -zeta only [OutHas]

theorem echoIn_keeps (K : Regular P) (s : State) (n : Nat) (m : CtlMsg) (rtt : Nat) (h : P s) : P (echoIn s n m rtt) := by
  unfold echoIn
  repeat' first
    | with_reducible assumption | with_reducible apply State.setLink_keeps K
    | with_reducible apply fibreMeasured_keeps K | with_reducible apply ite_keeps

theorem execLenEcho_keeps (K : Regular P) (port : Port) (m : CtlMsg) (rtt : Nat) (s : State) (h : P s) : OutHas P (execLenEcho port m rtt s) := by
  unfold execLenEcho
  repeat' first
    | with_reducible assumption | with_reducible apply echoIn_keeps K | with_reducible apply ctlHead_keeps K
    | dsimp -zeta only [OutHas]

theorem advIn_keeps (K : Regular P) (s : State) (n : Nat) (m : CtlMsg) (h : P s) : P (advIn s n m) := by
  unfold advIn
  repeat' first
    | with_reducible assumption | with_reducible apply trainDone_keeps K
    | with_reducible apply State.setLink_keeps K | with_reducible apply ite_keeps

theorem execCreditAdv_keeps (K : Regular P) (port : Port) (m : CtlMsg) (s : State) (h : P s) : OutHas P (execCreditAdv port m s) := by
  unfold execCreditAdv
  repeat' first
    | with_reducible assumption | with_reducible apply advIn_keeps K | with_reducible apply ctlHead_keeps K
    | dsimp -zeta only [OutHas]

theorem execPortTrain_keeps (K : Regular P) (port : Port) (s : State) (h : P s) : OutHas P (execPortTrain port s) := by
  unfold execPortTrain
  repeat' first
    | with_reducible assumption | with_reducible apply trainStartup_keeps K | with_reducible apply ite_keeps
    | dsimp -zeta only [OutHas]

theorem execTrainTmoExpiry_keeps (K : Regular P) (port : Port) (s : State) (h : P s) : OutHas P (execTrainTmoExpiry port s) := by
  unfold execTrainTmoExpiry
  repeat' first
    | with_reducible assumption | with_reducible apply portDown_keeps K | with_reducible apply ite_keeps
    | dsimp -zeta only [OutHas]

theorem execTrainingBlockRx_keeps (K : Regular P) (port : Port) (lane : Fin 9) (mask : BitVec 9) (s : State) (h : P s) : OutHas P (execTrainingBlockRx port lane mask s) := by
  unfold execTrainingBlockRx
  repeat' first | with_reducible assumption | with_reducible apply blockIn_keeps K | dsimp -zeta only [OutHas]

theorem execRingLockTmoExpiry_keeps (K : Regular P) (port : Port) (lane : Fin 9) (rx : Bool) (s : State) (h : P s) : OutHas P (execRingLockTmoExpiry port lane rx s) := by
  unfold execRingLockTmoExpiry
  repeat' first
    | with_reducible assumption | with_reducible apply laneOut_keeps K | with_reducible apply ite_keeps
    | dsimp -zeta only [OutHas]

theorem execRateFallbackTmoExpiry_keeps (K : Regular P) (port : Port) (s : State) (h : P s) : OutHas P (execRateFallbackTmoExpiry port s) := by
  unfold execRateFallbackTmoExpiry
  repeat' first
    | with_reducible assumption | with_reducible apply State.wr_keeps K | with_reducible apply ite_keeps
    | dsimp -zeta only [OutHas]

theorem execFecLockGained_keeps (K : Regular P) (port : Port) (s : State) (h : P s) : OutHas P (execFecLockGained port s) := by
  unfold execFecLockGained
  repeat' first | with_reducible assumption | with_reducible apply fecLocked_keeps K | dsimp -zeta only [OutHas]

theorem execFecLockLost_keeps (K : Regular P) (port : Port) (s : State) (h : P s) : OutHas P (execFecLockLost port s) := by
  unfold execFecLockLost
  repeat' first | with_reducible assumption | with_reducible apply retrainAsk_keeps K | dsimp -zeta only [OutHas]

theorem repeatAsk_keeps (K : Regular P) (s : State) (n : Nat) (h : P s) : P (repeatAsk s n) := by
  unfold repeatAsk
  repeat' first
    | with_reducible assumption | intro _
    | (extract_lets +onlyGivenNames n0
       clear_value n0; revert n0; intro _)
    | with_reducible apply ctlOut_keeps K | with_reducible apply foldl_keeps | split

theorem execControlFlitRepeatTick_keeps (K : Regular P) (port : Port) (s : State) (h : P s) : OutHas P (execControlFlitRepeatTick port s) := by
  unfold execControlFlitRepeatTick
  repeat' first | with_reducible assumption | with_reducible apply repeatAsk_keeps K | dsimp -zeta only [OutHas]

theorem retrainReqIn_keeps (K : Regular P) (s : State) (n : Nat) (h : P s) : P (retrainReqIn s n) := by
  unfold retrainReqIn
  repeat' first
    | with_reducible assumption | with_reducible apply State.setLink_keeps K
    | with_reducible apply retrainAsk_keeps K | with_reducible apply ite_keeps

theorem execRetrainReq_keeps (K : Regular P) (port : Port) (m : CtlMsg) (s : State) (h : P s) : OutHas P (execRetrainReq port m s) := by
  unfold execRetrainReq
  repeat' first
    | with_reducible assumption | with_reducible apply retrainReqIn_keeps K | with_reducible apply ctlHead_keeps K
    | dsimp -zeta only [OutHas]

theorem resyncIn_keeps (K : Regular P) (s : State) (n : Nat) (m : CtlMsg) (h : P s) : P (resyncIn s n m) := by
  unfold resyncIn
  repeat' first
    | with_reducible assumption | with_reducible apply retrainDone_keeps K
    | with_reducible apply State.setLink_keeps K | with_reducible apply ite_keeps

theorem execResync_keeps (K : Regular P) (port : Port) (m : CtlMsg) (s : State) (h : P s) : OutHas P (execResync port m s) := by
  unfold execResync
  repeat' first
    | with_reducible assumption | with_reducible apply resyncIn_keeps K | with_reducible apply ctlHead_keeps K
    | dsimp -zeta only [OutHas]

theorem handoffStart_keeps (K : Regular P) (s : State) (n : Nat) (h : P s) : P (handoffStart s n) := by
  unfold handoffStart
  repeat' first
    | with_reducible assumption
    | (extract_lets +onlyGivenNames n0
       clear_value n0; revert n0; intro _)
    | with_reducible apply State.emit_keeps K | with_reducible apply State.setLink_keeps K
    | with_reducible apply State.tickFresh_keeps K | split

theorem execHandoffStart_keeps (K : Regular P) (port : Port) (s : State) (h : P s) : OutHas P (execHandoffStart port s) := by
  unfold execHandoffStart
  repeat' first | with_reducible assumption | with_reducible apply handoffStart_keeps K | dsimp -zeta only [OutHas]

theorem laneAnsIn_keeps (K : Regular P) (s : State) (n : Nat) (m : CtlMsg) (h : P s) : P (laneAnsIn s n m) := by
  unfold laneAnsIn
  repeat' first
    | with_reducible assumption
    | (extract_lets +onlyGivenNames t0
       refine imp_elim (p := P t0) ?_ ?_
       on_goal 1 => (unfold t0; clear t0)
       on_goal 2 => (clear_value t0; revert t0; intro _ _))
    | (extract_lets +onlyGivenNames n0
       clear_value n0; revert n0; intro _)
    | with_reducible apply State.setLink_keeps K | with_reducible apply State.wr_keeps K
    | with_reducible apply State.count_keeps K | with_reducible apply countAbort_keeps K | split

theorem execLaneAns_keeps (K : Regular P) (port : Port) (m : CtlMsg) (s : State) (h : P s) : OutHas P (execLaneAns port m s) := by
  unfold execLaneAns
  repeat' first
    | with_reducible assumption | with_reducible apply laneAnsIn_keeps K | with_reducible apply ctlHead_keeps K
    | dsimp -zeta only [OutHas]

theorem countdownEnd_keeps (K : Regular P) (s : State) (n l : Nat) (same : Bool) (h : P s) : P (countdownEnd s n l same) := by
  unfold countdownEnd
  repeat' first
    | with_reducible assumption | with_reducible apply State.wr_keeps K | with_reducible apply State.count_keeps K
    | with_reducible apply ctlOut_keeps K | with_reducible apply State.setLink_keeps K
    | with_reducible apply countAbort_keeps K | with_reducible apply ite_keeps

theorem execHandoffCountdownEnd_keeps (K : Regular P) (port : Port) (lane : Fin 8) (same : Bool) (s : State) (h : P s) : OutHas P (execHandoffCountdownEnd port lane same s) := by
  unfold execHandoffCountdownEnd
  repeat' first | with_reducible assumption | with_reducible apply countdownEnd_keeps K | dsimp -zeta only [OutHas]

theorem execHandoffAnswerTmo_keeps (K : Regular P) (port : Port) (s : State) (h : P s) : OutHas P (execHandoffAnswerTmo port s) := by
  unfold execHandoffAnswerTmo
  repeat' first
    | with_reducible assumption | with_reducible apply retrainAsk_keeps K | with_reducible apply ite_keeps
    | dsimp -zeta only [OutHas]

theorem execNinthLaneCalDone_keeps (K : Regular P) (port : Port) (s : State) (h : P s) : OutHas P (execNinthLaneCalDone port s) := by
  unfold execNinthLaneCalDone
  repeat' first
    | with_reducible assumption | with_reducible apply State.wr_keeps K | with_reducible apply ite_keeps
    | dsimp -zeta only [OutHas]

theorem laneFailure_keeps (K : Regular P) (s : State) (n lane : Nat) (rx : Bool) (h : P s) : P (laneFailure s n lane rx) := by
  unfold laneFailure
  repeat' first
    | with_reducible assumption | with_reducible apply laneFail_keeps K | with_reducible apply laneOut_keeps K
    | with_reducible apply ite_keeps

theorem execLaneFailure_keeps (K : Regular P) (port : Port) (rx : Bool) (lane : Fin 9) (s : State) (h : P s) : OutHas P (execLaneFailure port rx lane s) := by
  unfold execLaneFailure
  repeat' first | with_reducible assumption | with_reducible apply laneFailure_keeps K | dsimp -zeta only [OutHas]

theorem laserPoll_keeps (K : Regular P) (s : State) (n : Nat) (readings : List Nat) (h : P s) : P (laserPoll s n readings) := by
  unfold laserPoll
  repeat' first
    | with_reducible assumption | intro _ | with_reducible apply evPf0_keeps K
    | with_reducible apply laserPort_keeps K | with_reducible apply foldl_keeps
    | with_reducible apply foldl_fst_keeps

theorem execLaserPoll_keeps (K : Regular P) (port : Port) (readings : List Nat) (s : State) (h : P s) : OutHas P (execLaserPoll port readings s) := by
  unfold execLaserPoll
  repeat' first | with_reducible assumption | with_reducible apply laserPoll_keeps K | dsimp -zeta only [OutHas]

theorem execReplayTimerExpiry_keeps (K : Regular P) (port : Port) (s : State) (h : P s) : OutHas P (execReplayTimerExpiry port s) := by
  unfold execReplayTimerExpiry
  repeat' first
    | with_reducible assumption | with_reducible apply replay_keeps K | split | dsimp -zeta only [OutHas]

theorem execNakRepeatExpiry_keeps (K : Regular P) (port : Port) (s : State) (h : P s) : OutHas P (execNakRepeatExpiry port s) := by
  unfold execNakRepeatExpiry
  repeat' first
    | with_reducible assumption | with_reducible apply State.emit_keeps K | with_reducible apply State.count_keeps K
    | with_reducible apply ite_keeps | dsimp -zeta only [OutHas]

theorem auditClass_keeps (K : Regular P) (s : State) (n : Nat) (m : CtlMsg) (tc : Nat) (h : P s) : P (auditClass s n m tc) := by
  unfold auditClass
  repeat' first
    | with_reducible assumption | with_reducible apply State.wr_keeps K | with_reducible apply evPf0_keeps K
    | with_reducible apply State.setLink_keeps K | with_reducible apply ite_keeps

theorem auditIn_keeps (K : Regular P) (s : State) (n : Nat) (m : CtlMsg) (h : P s) : P (auditIn s n m) := by
  unfold auditIn
  repeat' first
    | with_reducible assumption | intro _ | with_reducible apply auditClass_keeps K
    | with_reducible apply foldl_keeps | with_reducible apply ite_keeps

theorem execAudit_keeps (K : Regular P) (port : Port) (m : CtlMsg) (s : State) (h : P s) : OutHas P (execAudit port m s) := by
  unfold execAudit
  repeat' first
    | with_reducible assumption | with_reducible apply auditIn_keeps K | with_reducible apply ctlHead_keeps K
    | dsimp -zeta only [OutHas]

theorem auditSend_keeps (K : Regular P) (s : State) (n : Nat) (h : P s) : P (auditSend s n) := by
  unfold auditSend
  repeat' first | with_reducible assumption | with_reducible apply ctlOut_keeps K | with_reducible apply ite_keeps

theorem execAuditSendTick_keeps (K : Regular P) (port : Port) (s : State) (h : P s) : OutHas P (execAuditSendTick port s) := by
  unfold execAuditSendTick
  repeat' first | with_reducible assumption | with_reducible apply auditSend_keeps K | dsimp -zeta only [OutHas]

theorem lpiEnter_keeps (K : Regular P) (s : State) (n : Nat) (h : P s) : P (lpiEnter s n) := by
  unfold lpiEnter
  repeat' first
    | with_reducible assumption | with_reducible apply State.setLink_keeps K | with_reducible apply State.wr_keeps K

theorem execLpiReq_keeps (K : Regular P) (port : Port) (m : CtlMsg) (s : State) (h : P s) : OutHas P (execLpiReq port m s) := by
  unfold execLpiReq
  repeat' first
    | with_reducible assumption | with_reducible apply ctlHead_keeps K | with_reducible apply lpiEnter_keeps K
    | with_reducible apply ctlOut_keeps K | with_reducible apply ite_keeps | dsimp -zeta only [OutHas]

theorem execLpiAck_keeps (K : Regular P) (port : Port) (m : CtlMsg) (s : State) (h : P s) : OutHas P (execLpiAck port m s) := by
  unfold execLpiAck
  repeat' first
    | with_reducible assumption | with_reducible apply ctlHead_keeps K | with_reducible apply lpiEnter_keeps K
    | with_reducible apply ite_keeps | dsimp -zeta only [OutHas]

theorem execLpiIdleExpiry_keeps (K : Regular P) (port : Port) (s : State) (h : P s) : OutHas P (execLpiIdleExpiry port s) := by
  unfold execLpiIdleExpiry
  repeat' first
    | with_reducible assumption | with_reducible apply ctlAsk_keeps K | with_reducible apply State.setLink_keeps K
    | with_reducible apply ite_keeps | dsimp -zeta only [OutHas]

theorem execLpiWake_keeps (K : Regular P) (port : Port) (s : State) (h : P s) : OutHas P (execLpiWake port s) := by
  unfold execLpiWake
  repeat' first | with_reducible assumption | with_reducible apply wakeLpi_keeps K | dsimp -zeta only [OutHas]

theorem execLpiAnswerTmoExpiry_keeps (K : Regular P) (port : Port) (s : State) (h : P s) : OutHas P (execLpiAnswerTmoExpiry port s) := by
  unfold execLpiAnswerTmoExpiry
  repeat' first
    | with_reducible assumption | with_reducible apply State.setLink_keeps K | dsimp -zeta only [OutHas]

theorem execErrorWindowEnd_keeps (K : Regular P) (port : Port) (s : State) (h : P s) : OutHas P (execErrorWindowEnd port s) := by
  unfold execErrorWindowEnd
  repeat' first | with_reducible assumption | with_reducible apply State.wr_keeps K | dsimp -zeta only [OutHas]

theorem portRetry_keeps (K : Regular P) (s : State) (n : Nat) (h : P s) : P (portRetry s n) := by
  unfold portRetry
  repeat' first
    | with_reducible assumption | with_reducible apply trainBegin_keeps K | with_reducible apply ite_keeps

theorem execPortRetryTimer_keeps (K : Regular P) (port : Port) (s : State) (h : P s) : OutHas P (execPortRetryTimer port s) := by
  unfold execPortRetryTimer
  repeat' first | with_reducible assumption | with_reducible apply portRetry_keeps K | dsimp -zeta only [OutHas]

theorem portCtlWrite_keeps (K : Regular P) (s : State) (n v : Nat) (h : P s) : P (portCtlWrite s n v) := by
  unfold portCtlWrite
  repeat' first
    | with_reducible assumption | with_reducible apply plainWrite_keeps K | with_reducible apply State.wr_keeps K
    | with_reducible apply portDown_keeps K | with_reducible apply trainBegin_keeps K
    | with_reducible apply retrainAsk_keeps K | with_reducible apply ite_keeps

theorem execPortEnable_keeps (K : Regular P) (port : Port) (v : Word) (s : State) (h : P s) : OutHas P (execPortEnable port v s) := by
  unfold execPortEnable
  repeat' first
    | with_reducible assumption | with_reducible apply atPf0_keeps K | with_reducible apply portCtlWrite_keeps K
    | dsimp -zeta only [OutHas]

theorem execPortDisable_keeps (K : Regular P) (port : Port) (v : Word) (s : State) (h : P s) : OutHas P (execPortDisable port v s) := by
  unfold execPortDisable
  repeat' first
    | with_reducible assumption | with_reducible apply atPf0_keeps K | with_reducible apply portCtlWrite_keeps K
    | dsimp -zeta only [OutHas]

theorem execPortRearm_keeps (K : Regular P) (port : Port) (v : Word) (s : State) (h : P s) : OutHas P (execPortRearm port v s) := by
  unfold execPortRearm
  repeat' first
    | with_reducible assumption | with_reducible apply atPf0_keeps K | with_reducible apply portCtlWrite_keeps K
    | dsimp -zeta only [OutHas]

theorem execPortRetrain_keeps (K : Regular P) (port : Port) (v : Word) (s : State) (h : P s) : OutHas P (execPortRetrain port v s) := by
  unfold execPortRetrain
  repeat' first
    | with_reducible assumption | with_reducible apply atPf0_keeps K | with_reducible apply portCtlWrite_keeps K
    | dsimp -zeta only [OutHas]

theorem portCntClr_keeps (K : Regular P) (s : State) (n v : Nat) (h : P s) : P (portCntClr s n v) := by
  unfold portCntClr
  repeat' first
    | with_reducible assumption | with_reducible apply State.clrReg_keeps K | with_reducible apply State.wr_keeps K
    | with_reducible apply ite_keeps

theorem execPortCntClr_keeps (K : Regular P) (port : Port) (v : Word) (s : State) (h : P s) : OutHas P (execPortCntClr port v s) := by
  unfold execPortCntClr
  repeat' first
    | with_reducible assumption | with_reducible apply atPf0_keeps K | with_reducible apply portCntClr_keeps K
    | dsimp -zeta only [OutHas]

theorem execEgressPacketStart_keeps (K : Regular P) (port : Port) (s : State) (h : P s) : OutHas P (execEgressPacketStart port s) := by
  unfold execEgressPacketStart
  repeat' first | with_reducible assumption | with_reducible apply egressStart_keeps K | dsimp -zeta only [OutHas]

theorem gateAdvance_keeps (K : Regular P) (s : State) (n : Nat) (h : P s) : P (gateAdvance s n) := by
  unfold gateAdvance
  repeat' first
    | with_reducible assumption | with_reducible apply shaperSync_keeps K
    | with_reducible apply State.setPortQ_keeps K | with_reducible apply ite_keeps

theorem execGateEntryAdvance_keeps (K : Regular P) (port : Port) (s : State) (h : P s) : OutHas P (execGateEntryAdvance port s) := by
  unfold execGateEntryAdvance
  repeat' first | with_reducible assumption | with_reducible apply gateAdvance_keeps K | dsimp -zeta only [OutHas]

theorem gateCtlWrite_keeps (K : Regular P) (s : State) (n v : Nat) (h : P s) : P (gateCtlWrite s n v) := by
  unfold gateCtlWrite
  repeat' first
    | with_reducible assumption | with_reducible apply plainWrite_keeps K | with_reducible apply State.wr_keeps K
    | with_reducible apply ite_keeps

theorem execQosGateCommit_keeps (K : Regular P) (port : Port) (v : Word) (s : State) (h : P s) : OutHas P (execQosGateCommit port v s) := by
  unfold execQosGateCommit
  repeat' first
    | with_reducible assumption | with_reducible apply atPf0_keeps K | with_reducible apply gateCtlWrite_keeps K
    | dsimp -zeta only [OutHas]

theorem gateTakeover_keeps (K : Regular P) (s : State) (n : Nat) (h : P s) : P (gateTakeover s n) := by
  unfold gateTakeover
  repeat' first
    | with_reducible assumption | with_reducible apply gateTake_keeps K | with_reducible apply setTime_keeps K
    | with_reducible apply ite_keeps

theorem execGateTakeoverAt_keeps (K : Regular P) (port : Port) (s : State) (h : P s) : OutHas P (execGateTakeoverAt port s) := by
  unfold execGateTakeoverAt
  repeat' first | with_reducible assumption | with_reducible apply gateTakeover_keeps K | dsimp -zeta only [OutHas]

theorem gbHoldEnd_keeps (K : Regular P) (s : State) (n : Nat) (h : P s) : P (gbHoldEnd s n) := by
  unfold gbHoldEnd
  repeat' first
    | with_reducible assumption | with_reducible apply guardUpdate_keeps K
    | with_reducible apply State.setPortQ_keeps K

theorem execGbHoldExpiry_keeps (K : Regular P) (port : Port) (s : State) (h : P s) : OutHas P (execGbHoldExpiry port s) := by
  unfold execGbHoldExpiry
  repeat' first | with_reducible assumption | with_reducible apply gbHoldEnd_keeps K | dsimp -zeta only [OutHas]

theorem execDramSlotGrant_keeps (K : Regular P) (ch : Chan) (s : State) (h : P s) : OutHas P (execDramSlotGrant ch s) := by
  unfold execDramSlotGrant
  repeat' first | with_reducible assumption | with_reducible apply slotGrant_keeps K | dsimp -zeta only [OutHas]

theorem execAdaptTick_keeps (K : Regular P) (s : State) (h : P s) : OutHas P (execAdaptTick s) := by
  unfold execAdaptTick
  repeat' first | with_reducible assumption | with_reducible apply adaptTick_keeps K | dsimp -zeta only [OutHas]

theorem execHistSampleTick_keeps (K : Regular P) (port : Bool) (n : Fin 32) (s : State) (h : P s) : OutHas P (execHistSampleTick port n s) := by
  unfold execHistSampleTick
  repeat' first | with_reducible assumption | with_reducible apply histSample_keeps K | dsimp -zeta only [OutHas]

theorem execQosPortHistClear_keeps (K : Regular P) (port : Port) (v : Word) (s : State) (h : P s) : OutHas P (execQosPortHistClear port v s) := by
  unfold execQosPortHistClear
  repeat' first
    | with_reducible assumption | with_reducible apply atPf0_keeps K | with_reducible apply portHselWrite_keeps K
    | dsimp -zeta only [OutHas]

theorem execQosChHistClear_keeps (K : Regular P) (ch : Chan) (v : Word) (s : State) (h : P s) : OutHas P (execQosChHistClear ch v s) := by
  unfold execQosChHistClear
  repeat' first
    | with_reducible assumption | with_reducible apply atPf0_keeps K | with_reducible apply chHselWrite_keeps K
    | dsimp -zeta only [OutHas]

theorem execQosRegWrite_keeps (K : Regular P) (o : Fin 17) (v : Word) (s : State) (h : P s) : OutHas P (execQosRegWrite o v s) := by
  unfold execQosRegWrite
  repeat' first
    | with_reducible assumption | with_reducible apply atPf0_keeps K | with_reducible apply qosRegWrite_keeps K
    | with_reducible apply ite_out_keeps | dsimp -zeta only [OutHas]

theorem xrdCntClr_keeps (K : Regular P) (s : State) (v : Nat) (h : P s) : P (xrdCntClr s v) := by
  unfold xrdCntClr
  repeat' first
    | with_reducible assumption | intro _ | with_reducible apply State.clrReg_keeps K
    | with_reducible apply foldl_keeps | with_reducible apply ite_keeps

theorem execXrdCntClr_keeps (K : Regular P) (v : Word) (s : State) (h : P s) : OutHas P (execXrdCntClr v s) := by
  unfold execXrdCntClr
  repeat' first
    | with_reducible assumption | with_reducible apply atPf0_keeps K | with_reducible apply xrdCntClr_keeps K
    | dsimp -zeta only [OutHas]

end Sys2Proof.Machine
end

