-- ==== Sys2Proof/Laws/KeepControl.lean ====
section
/-!
SUPPORT. Sys2Proof/Laws/KeepControl.lean: a closed property is kept by each operation of resets, sleep, power, trust and register writes.
-/
namespace Sys2Proof.Machine

variable {P : State → Prop}

theorem rstSet_keeps (K : Regular P) (s : State) (r : RstX) (h : P s) : P (rstSet s r) := by
  unfold rstSet
  repeat' first | with_reducible assumption | fail_if_no_progress with_reducible refine K.lit ?_

theorem rstDrop_keeps (K : Regular P) (s : State) (scope : Nat) (h : P s) : P (rstDrop s scope) := by
  unfold rstDrop
  repeat' first | with_reducible assumption | fail_if_no_progress with_reducible refine K.lit ?_

theorem busySync_keeps (K : Regular P) (s : State) (h : P s) : P (busySync s) := by
  unfold busySync
  repeat' first | with_reducible assumption | with_reducible apply State.wr_keeps K

theorem recsDone_keeps (K : Regular P) (s : State) (sc : Nat) (h : P s) : P (recsDone s sc) := by
  unfold recsDone
  repeat' first
    | with_reducible assumption | with_reducible apply writeErrRec_keeps K | with_reducible apply foldl_keeps
    | fail_if_no_progress with_reducible refine K.lit ?_

theorem escalate_keeps (K : Regular P) (s : State) (sc level rung : Nat) (h : P s) : P (escalate s sc level rung) := by
  unfold escalate
  repeat' first | with_reducible assumption | fail_if_no_progress with_reducible refine K.lit ?_

theorem openFatal_keeps (K : Regular P) (s : State) (r : ErrRec) (h : P s) : P (openFatal s r) := by
  unfold openFatal
  repeat' first
    | with_reducible assumption | with_reducible apply State.count_keeps K | with_reducible apply watchLatch_keeps K
    | fail_if_no_progress with_reducible refine K.lit ?_

theorem scopeEvent_keeps (K : Regular P) (s : State) (sc level who src : Nat) (h : P s) : P (scopeEvent s sc level who src) := by
  unfold scopeEvent
  repeat' first
    | with_reducible assumption | intro _ | with_reducible apply evPf0_keeps K
    | with_reducible apply evPartAll_keeps K | with_reducible apply foldl_keeps

theorem recPoison_keeps (K : Regular P) (rec_ : Option Nat) (s t : State) (h : P s) (h1 : P t) : P (recPoison rec_ s t) := by
  unfold recPoison
  repeat' first | with_reducible assumption | fail_if_no_progress with_reducible refine K.lit ?_

theorem zeroise_keeps (K : Regular P) (s : State) (h : P s) : P (zeroise s) := by
  unfold zeroise
  repeat' first | with_reducible assumption | fail_if_no_progress with_reducible refine K.lit ?_

theorem unlocked_keeps (K : Regular P) (s : State) (h : P s) : P (unlocked s) := by
  unfold unlocked
  repeat' first
    | with_reducible assumption | with_reducible apply State.wr_keeps K | with_reducible apply zeroise_keeps K

theorem noteReset_keeps (K : Regular P) (s : State) (r : RstX) (h : P s) : P (noteReset s r) := by
  unfold noteReset
  repeat' first
    | with_reducible assumption | with_reducible apply State.wr_keeps K | with_reducible apply ite_keeps

theorem poolClear_keeps (K : Closed P) (s : State) (kind : Nat) (h : P s) : P (poolClear s kind) := by
  unfold poolClear
  repeat' first
    | with_reducible assumption | with_reducible apply chipClear_keeps K | with_reducible apply flushDrive_keeps K.1
    | with_reducible apply foldl_keeps

theorem poolShut_keeps (K : Regular P) (s : State) (r : RstX) (h : P s) : P (poolShut s r) := by
  unfold poolShut
  repeat' first | with_reducible assumption | fail_if_no_progress with_reducible refine K.lit ?_

theorem deepEnter_keeps (K : Regular P) (s : State) (h : P s) : P (deepEnter s) := by
  unfold deepEnter
  repeat' first
    | with_reducible assumption | with_reducible apply State.wr_keeps K | with_reducible apply flushDrive_keeps K
    | with_reducible apply evStart_keeps K | with_reducible apply portsOff_keeps K
    | with_reducible apply zeroise_keeps K | with_reducible apply tallyCopy_keeps K
    | with_reducible apply foldl_keeps | fail_if_no_progress with_reducible refine K.lit ?_

theorem doReset_keeps (K : Closed P) (s : State) (r : RstX) (h : P s) : P (doReset s r) := by
  unfold doReset
  repeat' first
    | with_reducible assumption | with_reducible apply noteReset_keeps K.1 | with_reducible apply rstSet_keeps K.1
    | with_reducible apply partReset_keeps K | with_reducible apply wardReset_keeps K
    | with_reducible apply sliceReset_keeps K | with_reducible apply cellLost_keeps K.1
    | with_reducible apply busySync_keeps K.1 | with_reducible apply poolShut_keeps K.1
    | with_reducible apply poolClear_keeps K | with_reducible apply startBegin_keeps K.1
    | with_reducible apply unlocked_keeps K.1 | with_reducible apply deepEnter_keeps K.1
    | with_reducible apply ite_keeps

theorem curfewEnd_keeps (K : Closed P) (s : State) (r : RstX) (h : P s) : P (curfewEnd s r) := by
  unfold curfewEnd
  repeat' first
    | with_reducible assumption | with_reducible apply busySync_keeps K.1 | with_reducible apply recPoison_keeps K.1
    | with_reducible apply doReset_keeps K | with_reducible apply absorb_keeps K
    | fail_if_no_progress with_reducible refine K.lit ?_

theorem teardownSlice_keeps (K : Closed P) (s : State) (sl cause : Nat) (h : P s) : P (teardownSlice s sl cause) := by
  unfold teardownSlice
  repeat' first | with_reducible assumption | with_reducible apply teardownPart_keeps K | split

theorem closeScope_keeps (K : Closed P) (s : State) (r : RstX) (h : P s) : P (closeScope s r) := by
  unfold closeScope
  repeat' first
    | with_reducible assumption | intro _
    | (extract_lets +onlyGivenNames t0
       refine imp_elim (p := P t0) ?_ ?_
       on_goal 1 => (unfold t0; clear t0)
       on_goal 2 => (clear_value t0; revert t0; intro _ _))
    | (extract_lets +onlyGivenNames n0
       clear_value n0; revert n0; intro _)
    | with_reducible apply busySync_keeps K.1 | with_reducible apply doReset_keeps K
    | with_reducible apply recsDone_keeps K.1 | with_reducible apply rstSet_keeps K.1
    | with_reducible apply teardownSlice_keeps K | with_reducible apply teardownPart_keeps K
    | with_reducible apply absorbReleases_keeps K.1 | with_reducible apply recPoison_keeps K.1
    | with_reducible apply curfewEnd_keeps K | with_reducible apply foldl_keeps | split
    | fail_if_no_progress with_reducible refine K.lit ?_

theorem resetBegin_keeps (K : Closed P) (s : State) (r : RstX) (h : P s) : P (resetBegin s r) := by
  unfold resetBegin
  repeat' first
    | with_reducible assumption | with_reducible apply closeScope_keeps K | with_reducible apply leaveStep_keeps K.1
    | with_reducible apply busySync_keeps K.1 | with_reducible apply rstSet_keeps K.1
    | with_reducible apply leaveStart_keeps K.1 | with_reducible apply ite_keeps

theorem leaveDone_keeps (K : Closed P) (s : State) (h : P s) : P (leaveDone s) := by
  unfold leaveDone
  repeat' first
    | with_reducible assumption | with_reducible apply closeScope_keeps K | with_reducible apply portsOff_keeps K.1
    | with_reducible apply leaveEnd_keeps K.1 | split

theorem resetAsk_keeps (K : Closed P) (s : State) (kind0 scope src : Nat) (rec_ : Option Nat) (h : P s) : P (resetAsk s kind0 scope src rec_) := by
  unfold resetAsk
  repeat' first
    | with_reducible assumption | with_reducible apply busySync_keeps K.1 | with_reducible apply wakeWhere_keeps K.1
    | with_reducible apply resetBegin_keeps K | with_reducible apply ite_keeps
    | fail_if_no_progress with_reducible refine K.lit ?_

theorem resetsWoken_keeps (K : Closed P) (s : State) (h : P s) : P (resetsWoken s) := by
  unfold resetsWoken
  repeat' first
    | with_reducible assumption | with_reducible apply resetBegin_keeps K | with_reducible apply foldl_keeps

theorem quarantine_keeps (K : Closed P) (s : State) (sl : Nat) (h : P s) : P (quarantine s sl) := by
  unfold quarantine
  repeat' first
    | with_reducible assumption | with_reducible apply teardownSlice_keeps K | with_reducible apply State.wr_keeps K.1

theorem dirFails_keeps (K : Closed P) (s : State) (e : ErrRep) (h : P s) : P (dirFails s e) := by
  unfold dirFails
  repeat' first
    | with_reducible assumption | with_reducible apply dirEntBad_keeps K
    | with_reducible apply dirUnreadable_keeps K | split

theorem sliceLost_keeps (K : Closed P) (s : State) (sl : Nat) (h : P s) : P (sliceLost s sl) := by
  unfold sliceLost
  repeat' first
    | with_reducible assumption | with_reducible apply quarantine_keeps K | with_reducible apply State.wr_keeps K.1
    | with_reducible apply floorSync_keeps K.1 | fail_if_no_progress with_reducible refine K.lit ?_

theorem retireCell_keeps (K : Closed P) (s : State) (c : Nat) (h : P s) : P (retireCell s c).1 := by
  unfold retireCell
  repeat' first
    | with_reducible assumption | with_reducible apply cellLost_keeps K.1 | with_reducible apply State.wr_keeps K.1
    | with_reducible apply floorSync_keeps K.1 | with_reducible apply sliceLost_keeps K
    | with_reducible apply ite_fst_keeps | fail_if_no_progress with_reducible refine K.lit ?_

theorem dissolve_keeps (K : Regular P) (s : State) (p : Nat) (h : P s) : P (dissolve s p) := by
  unfold dissolve
  repeat' first
    | with_reducible assumption | with_reducible apply State.wr_keeps K | with_reducible apply emptySlot_keeps K
    | with_reducible apply floorSync_keeps K | with_reducible apply foldl_keeps
    | fail_if_no_progress with_reducible refine K.lit ?_

theorem reloadPins_keeps (K : Regular P) (s : State) (sc : Nat) (h : P s) : P (reloadPins s sc) := by
  unfold reloadPins
  repeat' first
    | with_reducible assumption | intro _ | with_reducible apply setNear_keeps K | with_reducible apply foldl_keeps
    | with_reducible apply ite_keeps

theorem reopen_keeps (K : Closed P) (s : State) (r : RstX) (h : P s) : P (reopen s r) := by
  unfold reopen
  repeat' first
    | with_reducible assumption | intro _ | with_reducible apply reloadPins_keeps K.1
    | with_reducible apply rstDrop_keeps K.1 | with_reducible apply wakeSlice_keeps K.1
    | with_reducible apply releaseOld_keeps K.1 | with_reducible apply busySync_keeps K.1
    | with_reducible apply floorSync_keeps K.1 | with_reducible apply pump_keeps K | with_reducible apply foldl_keeps
    | split | fail_if_no_progress with_reducible refine K.lit ?_

theorem failRec_keeps (K : Regular P) (s : State) (r : RstX) (err : Nat) (h : P s) : P (failRec s r err) := by
  unfold failRec
  repeat' first
    | with_reducible assumption | with_reducible apply setRec_keeps K | with_reducible apply openFatal_keeps K
    | split

theorem resetFails_keeps (K : Closed P) (s : State) (r : RstX) (h : P s) : P (resetFails s r) := by
  unfold resetFails
  repeat' first
    | with_reducible assumption | with_reducible apply escalate_keeps K.1 | with_reducible apply recsDone_keeps K.1
    | with_reducible apply busySync_keeps K.1 | with_reducible apply rstDrop_keeps K.1
    | with_reducible apply sliceLost_keeps K | with_reducible apply dissolve_keeps K.1
    | with_reducible apply floorSync_keeps K.1 | with_reducible apply State.wr_keeps K.1
    | with_reducible apply resetAsk_keeps K | with_reducible apply retireCell_keeps K
    | with_reducible apply ite_keeps | fail_if_no_progress with_reducible refine K.lit ?_

theorem resetEnds_keeps (K : Closed P) (s : State) (r : RstX) (h : P s) : P (resetEnds s r) := by
  unfold resetEnds
  repeat' first
    | with_reducible assumption | intro _ | with_reducible apply startBegin_keeps K.1
    | with_reducible apply recsDone_keeps K.1 | with_reducible apply busySync_keeps K.1
    | with_reducible apply rstDrop_keeps K.1 | with_reducible apply reopen_keeps K
    | with_reducible apply State.wr_keeps K.1 | with_reducible apply driveBringup_keeps K.1
    | with_reducible apply dissolve_keeps K.1 | with_reducible apply foldl_keeps | with_reducible apply ite_keeps
    | fail_if_no_progress with_reducible refine K.lit ?_

theorem resetLimit_keeps (K : Closed P) (s : State) (scope : Nat) (h : P s) : P (resetLimit s scope) := by
  unfold resetLimit
  repeat' first
    | with_reducible assumption | with_reducible apply curfewEnd_keeps K | with_reducible apply resetFails_keeps K
    | with_reducible apply failRec_keeps K.1 | split

theorem resetResult_keeps (K : Closed P) (s : State) (r : RstX) (ok : Bool) (h : P s) : P (resetResult s r ok) := by
  unfold resetResult
  repeat' first
    | with_reducible assumption | with_reducible apply resetEnds_keeps K | with_reducible apply resetFails_keeps K
    | with_reducible apply failRec_keeps K.1 | with_reducible apply ite_keeps

theorem driveReset_keeps (K : Regular P) (s : State) (d : Nat) (h : P s) : P (driveReset s d) := by
  unfold driveReset
  repeat' first
    | with_reducible assumption | with_reducible apply driveEnableCtl_keeps K
    | with_reducible apply State.setDriveX_keeps K | with_reducible apply State.count_keeps K
    | with_reducible apply ite_keeps

theorem react_keeps (K : Closed P) (s : State) (e : ErrRep) (id : Nat) (h : P s) : P (react s e id) := by
  unfold react
  repeat' first
    | with_reducible assumption | intro _ | with_reducible apply writeErrRec_keeps K.1
    | with_reducible apply resetAsk_keeps K | with_reducible apply scopeEvent_keeps K.1
    | with_reducible apply recPoison_keeps K.1 | with_reducible apply quarantine_keeps K
    | with_reducible apply dirFails_keeps K | with_reducible apply chanLose_keeps K
    | with_reducible apply retrainAsk_keeps K.1 | with_reducible apply driveReset_keeps K.1
    | with_reducible apply resetRing_keeps K | with_reducible apply eldOut_keeps K.1
    | with_reducible apply State.tickFresh_keeps K.1 | with_reducible apply State.wr_keeps K.1
    | with_reducible apply foldl_keeps | with_reducible apply ite_keeps
    | fail_if_no_progress with_reducible refine K.lit ?_

theorem fatal_keeps (K : Closed P) (s : State) (e : ErrRep) (h : P s) : P (fatal s e) := by
  unfold fatal
  repeat' first
    | with_reducible assumption | with_reducible apply lanternCopy_keeps K.1 | with_reducible apply resetAsk_keeps K
    | with_reducible apply mergeRec_keeps K.1 | with_reducible apply State.count_keeps K.1
    | with_reducible apply react_keeps K | with_reducible apply openFatal_keeps K.1 | split
    | fail_if_no_progress with_reducible refine K.lit ?_

theorem poisonAcc_keeps (K : Regular P) (s : State) (l : Nat) (h : P s) : P (poisonAcc s l) := by
  unfold poisonAcc
  repeat' first
    | with_reducible assumption
    | (extract_lets +onlyGivenNames n0
       clear_value n0; revert n0; intro _)
    | split | fail_if_no_progress with_reducible refine K.lit ?_

theorem poisonLines_keeps (K : Closed P) (s : State) (ls : List Nat) (h : P s) : P (poisonLines s ls) := by
  unfold poisonLines
  repeat' first
    | with_reducible assumption | intro _ | with_reducible apply poisonAcc_keeps K.1
    | with_reducible apply State.poisonLine_keeps K | with_reducible apply foldl_keeps
    | with_reducible apply ite_keeps

theorem macFail_keeps (K : Regular P) (s : State) (e : ErrRep) (h : P s) : P (macFail s e) := by
  unfold macFail
  repeat' first
    | with_reducible assumption | with_reducible apply State.count_keeps K | with_reducible apply evPf0_keeps K
    | with_reducible apply evPart_keeps K | with_reducible apply ite_keeps
    | fail_if_no_progress with_reducible refine K.lit ?_

theorem sramRaise_keeps (K : Regular P) (s : State) (e : ErrRep) (h : P s) : P (sramRaise s e) := by
  unfold sramRaise
  repeat' first
    | with_reducible assumption | with_reducible apply bankRaise_keeps K
    | with_reducible apply State.tickFresh_keeps K | with_reducible apply ite_keeps

theorem errorReport_keeps (K : Closed P) (s0 : State) (e : ErrRep) (h : P s0) : P (errorReport s0 e) := by
  unfold errorReport
  repeat' first
    | with_reducible assumption | with_reducible apply sramRaise_keeps K.1 | with_reducible apply watchCE_keeps K.1
    | with_reducible apply lanternCopy_keeps K.1 | with_reducible apply poisonLines_keeps K
    | with_reducible apply macFail_keeps K.1 | with_reducible apply watchUE_keeps K.1
    | with_reducible apply fatal_keeps K | with_reducible apply ite_keeps

theorem sliceMasked_keeps (K : Regular P) (t : State) (e : ErrRep) (sl : Nat) (h : P t) : P (sliceMasked t e sl) := by
  unfold sliceMasked
  repeat' first
    | with_reducible assumption | with_reducible apply escalate_keeps K | with_reducible apply recsDone_keeps K
    | with_reducible apply openFatal_keeps K | split

theorem wireMasked_keeps (K : Closed P) (s : State) (e : ErrRep) (reset : Bool) (h : P s) : P (wireMasked s e reset) := by
  unfold wireMasked
  repeat' first
    | with_reducible assumption
    | (extract_lets +onlyGivenNames t0
       refine imp_elim (p := P t0) ?_ ?_
       on_goal 1 => (unfold t0; clear t0)
       on_goal 2 => (clear_value t0; revert t0; intro _ _))
    | (extract_lets +onlyGivenNames n0
       clear_value n0; revert n0; intro _)
    | with_reducible apply State.count_keeps K.1 | with_reducible apply sliceMasked_keeps K.1
    | with_reducible apply sliceLost_keeps K | with_reducible apply chanLose_keeps K
    | with_reducible apply portDown_keeps K.1 | with_reducible apply fatal_keeps K
    | with_reducible apply setRec_keeps K.1 | with_reducible apply retireCell_keeps K | with_reducible apply ite_keeps
    | split | fail_if_no_progress with_reducible refine K.lit ?_

theorem brokenWire_keeps (K : Closed P) (s : State) (kind inst : Nat) (still : Bool) (h : P s) : P (brokenWire s kind inst still) := by
  unfold brokenWire
  repeat' first
    | with_reducible assumption | with_reducible apply evPf0_keeps K.1 | with_reducible apply wireMasked_keeps K
    | with_reducible apply fatal_keeps K | with_reducible apply State.count_keeps K.1 | with_reducible apply ite_keeps

theorem sleepEvent_keeps (K : Regular P) (s : State) (cause : Nat) (h : P s) : P (sleepEvent s cause) := by
  unfold sleepEvent
  repeat' first | with_reducible assumption | with_reducible apply evStart_keeps K

theorem copyWake_keeps (K : Regular P) (s : State) (h : P s) : P (copyWake s) := by
  unfold copyWake
  repeat' first | with_reducible assumption | fail_if_no_progress with_reducible refine K.lit ?_

theorem dozeSlices_keeps (K : Closed P) (s : State) (sc : Nat) (h : P s) : P (dozeSlices s sc) := by
  unfold dozeSlices
  repeat' first
    | with_reducible assumption | intro _ | with_reducible apply restSlice_keeps K.1
    | with_reducible apply dropCached_keeps K | with_reducible apply resetSet_keeps K.1
    | with_reducible apply foldl_keeps

theorem dozeEnd_keeps (K : Closed P) (s : State) (r : RstX) (h : P s) : P (dozeEnd s r) := by
  unfold dozeEnd
  repeat' first
    | with_reducible assumption
    | (extract_lets +onlyGivenNames t0
       refine imp_elim (p := P t0) ?_ ?_
       on_goal 1 => (unfold t0; clear t0)
       on_goal 2 => (clear_value t0; revert t0; intro _ _))
    | (extract_lets +onlyGivenNames n0
       clear_value n0; revert n0; intro _)
    | with_reducible apply copyWake_keeps K.1 | with_reducible apply dozeSlices_keeps K
    | with_reducible apply State.wr_keeps K.1 | with_reducible apply sleepEvent_keeps K.1
    | with_reducible apply busySync_keeps K.1 | with_reducible apply floorSync_keeps K.1
    | with_reducible apply wakeScope_keeps K.1 | split | fail_if_no_progress with_reducible refine K.lit ?_

theorem dozeCurfewEnd_keeps (K : Closed P) (s : State) (r : RstX) (h : P s) : P (dozeCurfewEnd s r) := by
  unfold dozeCurfewEnd
  repeat' first
    | with_reducible assumption | with_reducible apply dozeEnd_keeps K | with_reducible apply absorb_keeps K
    | with_reducible apply ite_keeps

theorem sleepErr_keeps (K : Regular P) (s : State) (h : P s) : P (sleepErr s) := by
  unfold sleepErr
  repeat' first | with_reducible assumption | with_reducible apply State.wr_keeps K

theorem dozeAsk_keeps (K : Closed P) (s : State) (sc : Nat) (h : P s) : P (dozeAsk s sc) := by
  unfold dozeAsk
  repeat' first
    | with_reducible assumption | with_reducible apply sleepErr_keeps K.1 | with_reducible apply busySync_keeps K.1
    | with_reducible apply dozeRecall_keeps K.1 | with_reducible apply dozeEnd_keeps K
    | with_reducible apply ite_keeps | fail_if_no_progress with_reducible refine K.lit ?_

theorem dozeReturn_keeps (K : Closed P) (s : State) (r : RstX) (h : P s) : P (dozeReturn s r) := by
  unfold dozeReturn
  repeat' first
    | with_reducible assumption | with_reducible apply State.wr_keeps K.1 | with_reducible apply wakeSlice_keeps K.1
    | with_reducible apply reloadPins_keeps K.1 | with_reducible apply sleepEvent_keeps K.1
    | with_reducible apply fetchRound_keeps K.1 | with_reducible apply floorSync_keeps K.1
    | with_reducible apply resetsWoken_keeps K | with_reducible apply pump_keeps K
    | with_reducible apply busySync_keeps K.1 | with_reducible apply foldl_keeps | with_reducible apply ite_keeps
    | fail_if_no_progress with_reducible refine K.lit ?_

theorem quietSet_keeps (K : Regular P) (s : State) (st : Nat) (h : P s) : P (quietSet s st) := by
  unfold quietSet
  repeat' first
    | with_reducible assumption | with_reducible apply sleepEvent_keeps K | with_reducible apply State.wr_keeps K
    | fail_if_no_progress with_reducible refine K.lit ?_

theorem cleanNear_keeps (K : Closed P) (s : State) (h : P s) : P (cleanNear s) := by
  unfold cleanNear
  repeat' first
    | with_reducible assumption | intro _ | with_reducible apply nearWriteBack_keeps K
    | with_reducible apply setNear_keeps K.1 | with_reducible apply foldl_keeps

theorem quietEnd_keeps (K : Closed P) (s : State) (r : RstX) (h : P s) : P (quietEnd s r) := by
  unfold quietEnd
  repeat' first
    | with_reducible assumption | with_reducible apply cleanNear_keeps K | with_reducible apply quietSet_keeps K.1
    | with_reducible apply pump_keeps K | with_reducible apply fetchRound_keeps K.1
    | with_reducible apply busySync_keeps K.1 | with_reducible apply absorb_keeps K | with_reducible apply ite_keeps
    | fail_if_no_progress with_reducible refine K.lit ?_

theorem quietAsk_keeps (K : Closed P) (s : State) (h : P s) : P (quietAsk s) := by
  unfold quietAsk
  repeat' first
    | with_reducible assumption | with_reducible apply busySync_keeps K.1 | with_reducible apply quietEnd_keeps K
    | with_reducible apply ite_keeps | fail_if_no_progress with_reducible refine K.lit ?_

theorem awakeAsk_keeps (K : Closed P) (s : State) (st : Nat) (h : P s) : P (awakeAsk s st) := by
  unfold awakeAsk
  repeat' first
    | with_reducible assumption | with_reducible apply quietAsk_keeps K | with_reducible apply quietSet_keeps K.1
    | with_reducible apply ite_keeps | fail_if_no_progress with_reducible refine K.lit ?_

theorem deepAsk_keeps (K : Closed P) (s : State) (h : P s) : P (deepAsk s) := by
  unfold deepAsk
  repeat' first
    | with_reducible assumption | with_reducible apply sleepErr_keeps K.1 | with_reducible apply resetAsk_keeps K
    | with_reducible apply ite_keeps | fail_if_no_progress with_reducible refine K.lit ?_

theorem sleepWrite_keeps (K : Closed P) (s : State) (v : Nat) (h : P s) : P (sleepWrite s v) := by
  unfold sleepWrite
  repeat' first
    | with_reducible assumption | intro _ | with_reducible apply State.wr_keeps K.1
    | with_reducible apply plainWrite_keeps K.1 | with_reducible apply deepAsk_keeps K
    | with_reducible apply dozeAsk_keeps K | with_reducible apply wakeScope_keeps K.1
    | with_reducible apply sleepErr_keeps K.1 | with_reducible apply awakeAsk_keeps K
    | with_reducible apply foldl_keeps | with_reducible apply ite_keeps

theorem quietIdle_keeps (K : Regular P) (s : State) (cell : Nat) (h : P s) : P (quietIdle s cell) := by
  unfold quietIdle
  repeat' first
    | with_reducible assumption | with_reducible apply ite_keeps
    | fail_if_no_progress with_reducible refine K.lit ?_

theorem dozeWake_keeps (K : Regular P) (s : State) (scope cause : Nat) (h : P s) : P (dozeWake s scope cause) := by
  unfold dozeWake
  repeat' first
    | with_reducible assumption | with_reducible apply wakeScope_keeps K | with_reducible apply ite_keeps

theorem deepExit_keeps (K : Closed P) (s : State) (h : P s) : P (deepExit s) := by
  unfold deepExit
  repeat' first
    | with_reducible assumption | with_reducible apply startBegin_keeps K.1 | with_reducible apply chipClear_keeps K
    | with_reducible apply ite_keeps

theorem settleCurfews_keeps (K : Closed P) (s : State) (h : P s) : P (settleCurfews s) := by
  unfold settleCurfews
  repeat' first
    | with_reducible assumption | intro _ | with_reducible apply dozeEnd_keeps K
    | with_reducible apply quietEnd_keeps K | with_reducible apply curfewEnd_keeps K
    | with_reducible apply foldl_keeps | with_reducible apply ite_keeps

theorem drainExpired_keeps (K : Closed P) (s : State) (scope : Nat) (h : P s) : P (drainExpired s scope) := by
  unfold drainExpired
  repeat' first
    | with_reducible assumption | with_reducible apply dozeCurfewEnd_keeps K | with_reducible apply quietEnd_keeps K
    | with_reducible apply curfewEnd_keeps K | split

theorem scopeDone_keeps (K : Closed P) (s : State) (scope : Nat) (ok : Bool) (h : P s) : P (scopeDone s scope ok) := by
  unfold scopeDone
  repeat' first
    | with_reducible assumption | with_reducible apply resetResult_keeps K | with_reducible apply dozeReturn_keeps K
    | split

theorem prtEnable_keeps (K : Closed P) (s : State) (p : Nat) (h : P s) : P (prtEnable s p) := by
  unfold prtEnable
  repeat' first
    | with_reducible assumption | with_reducible apply State.wr_keeps K.1 | with_reducible apply dropCached_keeps K
    | with_reducible apply floorSync_keeps K.1 | with_reducible apply wakeSlice_keeps K.1
    | with_reducible apply foldl_keeps | with_reducible apply ite_keeps

theorem prtDisable_keeps (K : Closed P) (s : State) (p : Nat) (h : P s) : P (prtDisable s p) := by
  unfold prtDisable
  repeat' first
    | with_reducible assumption | with_reducible apply State.wr_keeps K.1 | with_reducible apply resetAsk_keeps K
    | with_reducible apply ite_keeps

theorem prtCtlWrite_keeps (K : Closed P) (s : State) (p v : Nat) (vf : Bool) (h : P s) : P (prtCtlWrite s p v vf) := by
  unfold prtCtlWrite
  repeat' first
    | with_reducible assumption | with_reducible apply plainWrite_keeps K.1 | with_reducible apply prtEnable_keeps K
    | with_reducible apply State.wr_keeps K.1 | with_reducible apply prtDisable_keeps K
    | with_reducible apply ite_keeps

theorem supplyOut_keeps (K : Closed P) (s : State) (r : Nat) (h : P s) : P (supplyOut s r) := by
  unfold supplyOut
  repeat' first
    | with_reducible assumption | intro _ | with_reducible apply State.wr_keeps K.1
    | with_reducible apply startHold_keeps K.1 | with_reducible apply irqRaise_keeps K.1
    | with_reducible apply portDown_keeps K.1 | with_reducible apply errorReport_keeps K
    | with_reducible apply foldl_keeps | with_reducible apply ite_keeps
    | fail_if_no_progress with_reducible refine K.lit ?_

theorem supplyBack_keeps (K : Regular P) (s : State) (r : Nat) (h : P s) : P (supplyBack s r) := by
  unfold supplyBack
  repeat' first
    | with_reducible assumption | with_reducible apply State.wr_keeps K
    | fail_if_no_progress with_reducible refine K.lit ?_

theorem sensDropped_keeps (K : Regular P) (s : State) (kind num : Nat) (v : Int) (h : P s) : P (sensDropped s kind num v) := by
  unfold sensDropped
  repeat' first | with_reducible assumption | with_reducible apply evPf0_keeps K

theorem voltRead_keeps (K : Closed P) (s : State) (r : Nat) (v : Int) (h : P s) : P (voltRead s r v) := by
  unfold voltRead
  repeat' first
    | with_reducible assumption | with_reducible apply State.wr_keeps K.1 | with_reducible apply supplyBack_keeps K.1
    | with_reducible apply supplyOut_keeps K | with_reducible apply State.count_keeps K.1
    | with_reducible apply sensDropped_keeps K.1 | with_reducible apply ite_keeps
    | fail_if_no_progress with_reducible refine K.lit ?_

theorem ampRead_keeps (K : Regular P) (s : State) (r : Nat) (v : Int) (h : P s) : P (ampRead s r v) := by
  unfold ampRead
  repeat' first
    | with_reducible assumption | with_reducible apply State.count_keeps K
    | with_reducible apply sensDropped_keeps K | with_reducible apply ite_keeps
    | fail_if_no_progress with_reducible refine K.lit ?_

theorem ampsShown_keeps (K : Regular P) (s : State) (r : Nat) (h : P s) : P (ampsShown s r) := by
  unfold ampsShown
  repeat' first | with_reducible assumption | with_reducible apply State.wr_keeps K

theorem supplySample_keeps (K : Closed P) (s : State) (volts amps : List Int) (h : P s) : P (supplySample s volts amps) := by
  unfold supplySample
  repeat' first
    | with_reducible assumption | intro _ | with_reducible apply voltRead_keeps K
    | with_reducible apply ampRead_keeps K.1 | with_reducible apply ampsShown_keeps K.1
    | with_reducible apply foldl_keeps

theorem thermTrip_keeps (K : Regular P) (s : State) (h : P s) : P (thermTrip s) := by
  unfold thermTrip
  repeat' first
    | with_reducible assumption | with_reducible apply State.wr_keeps K | with_reducible apply portsOff_keeps K
    | with_reducible apply State.emit_keeps K | fail_if_no_progress with_reducible refine K.lit ?_

theorem tempRead_keeps (K : Regular P) (s : State) (k : Nat) (v : Int) (h : P s) : P (tempRead s k v) := by
  unfold tempRead
  repeat' first
    | with_reducible assumption | with_reducible apply sensDropped_keeps K
    | with_reducible apply State.count_keeps K | with_reducible apply ite_keeps
    | fail_if_no_progress with_reducible refine K.lit ?_

theorem tempSample_keeps (K : Regular P) (s : State) (readings : List Int) (h : P s) : P (tempSample s readings) := by
  unfold tempSample
  repeat' first
    | with_reducible assumption | intro _
    | (extract_lets +onlyGivenNames t0
       refine imp_elim (p := P t0) ?_ ?_
       on_goal 1 => (unfold t0; clear t0)
       on_goal 2 => (clear_value t0; revert t0; intro _ _))
    | with_reducible apply tempRead_keeps K | with_reducible apply State.wr_keeps K
    | with_reducible apply thermTrip_keeps K | with_reducible apply foldl_keeps | split

theorem avsFail_keeps (K : Regular P) (s : State) (b : Nat) (h : P s) : P (avsFail s b) := by
  unfold avsFail
  repeat' first
    | with_reducible assumption | with_reducible apply State.wr_keeps K | with_reducible apply State.count_keeps K
    | with_reducible apply evPf0_keeps K | with_reducible apply ite_keeps
    | fail_if_no_progress with_reducible refine K.lit ?_

theorem avsGood_keeps (K : Regular P) (s : State) (b : Nat) (h : P s) : P (avsGood s b) := by
  unfold avsGood
  repeat' first
    | with_reducible assumption | with_reducible apply State.wr_keeps K
    | fail_if_no_progress with_reducible refine K.lit ?_

theorem avsPoll_keeps (K : Regular P) (s : State) (b : Nat) (ok : Bool) (amps : List Nat) (h : P s) : P (avsPoll s b ok amps) := by
  unfold avsPoll
  repeat' first
    | with_reducible assumption | with_reducible apply avsGood_keeps K | with_reducible apply avsFail_keeps K
    | with_reducible apply ite_keeps | fail_if_no_progress with_reducible refine K.lit ?_

theorem avsRetry_keeps (K : Regular P) (s : State) (b : Nat) (ok : Bool) (h : P s) : P (avsRetry s b ok) := by
  unfold avsRetry
  repeat' first | with_reducible assumption | with_reducible apply avsGood_keeps K | with_reducible apply ite_keeps

theorem noteClock_keeps (K : Regular P) (s : State) (w cause : Nat) (h : P s) : P (noteClock s w cause) := by
  unfold noteClock
  repeat' first | with_reducible assumption | fail_if_no_progress with_reducible refine K.lit ?_

theorem voltCommand_keeps (K : Regular P) (s : State) (w mv : Nat) (h : P s) : P (voltCommand s w mv) := by
  unfold voltCommand
  repeat' first
    | with_reducible assumption | with_reducible apply State.emit_keeps K | with_reducible apply State.wr_keeps K
    | with_reducible apply ite_keeps

theorem clkLower_keeps (K : Regular P) (s : State) (w c cause : Nat) (h : P s) : P (clkLower s w c cause) := by
  unfold clkLower
  repeat' first
    | with_reducible assumption | with_reducible apply State.wr_keeps K | with_reducible apply voltCommand_keeps K
    | with_reducible apply noteClock_keeps K | with_reducible apply ite_keeps
    | fail_if_no_progress with_reducible refine K.lit ?_

theorem clkRaise_keeps (K : Regular P) (s : State) (w c : Nat) (h : P s) : P (clkRaise s w c) := by
  unfold clkRaise
  repeat' first
    | with_reducible assumption | with_reducible apply voltCommand_keeps K
    | fail_if_no_progress with_reducible refine K.lit ?_

theorem limitedSync_keeps (K : Regular P) (s : State) (h : P s) : P (limitedSync s) := by
  unfold limitedSync
  repeat' first
    | with_reducible assumption | intro _ | with_reducible apply State.wr_keeps K
    | with_reducible apply irqRaise_keeps K | with_reducible apply foldl_keeps | with_reducible apply ite_keeps

theorem issueSet_keeps (K : Regular P) (s : State) (n : Nat) (h : P s) : P (issueSet s n) := by
  unfold issueSet
  repeat' first
    | with_reducible assumption | intro _ | with_reducible apply noteClock_keeps K
    | with_reducible apply foldl_keeps | fail_if_no_progress with_reducible refine K.lit ?_

theorem governStart_keeps (K : Regular P) (s : State) (p : Nat) (h : P s) : P (governStart s p) := by
  unfold governStart
  repeat' first
    | with_reducible assumption | intro _ | with_reducible apply State.wr_keeps K
    | with_reducible apply voltCommand_keeps K | with_reducible apply foldl_keeps | with_reducible apply ite_keeps

theorem governRaise_keeps (K : Regular P) (s : State) (gs : List Nat) (p : Nat) (h : P s) : P (governRaise s gs p) := by
  unfold governRaise
  repeat' first
    | with_reducible assumption
    | (extract_lets +onlyGivenNames t0
       refine imp_elim (p := P t0) ?_ ?_
       on_goal 1 => (unfold t0; clear t0)
       on_goal 2 => (clear_value t0; revert t0; intro _ _))
    | (extract_lets +onlyGivenNames n0
       clear_value n0; revert n0; intro _)
    | with_reducible apply issueSet_keeps K | with_reducible apply clkRaise_keeps K | split
    | fail_if_no_progress with_reducible refine K.lit ?_

theorem governLower_keeps (K : Regular P) (s : State) (gs : List Nat) (p : Nat) (thermal : Option Nat) (h : P s) : P (governLower s gs p thermal) := by
  unfold governLower
  repeat' first
    | with_reducible assumption | intro _
    | (extract_lets +onlyGivenNames t0
       refine imp_elim (p := P t0) ?_ ?_
       on_goal 1 => (unfold t0; clear t0)
       on_goal 2 => (clear_value t0; revert t0; intro _ _))
    | (extract_lets +onlyGivenNames n0
       clear_value n0; revert n0; intro _)
    | with_reducible apply clkLower_keeps K | with_reducible apply State.count_keeps K
    | with_reducible apply issueSet_keeps K | with_reducible apply foldl_keeps | split

theorem governTick_keeps (K : Regular P) (s : State) (h : P s) : P (governTick s) := by
  unfold governTick
  repeat' first
    | with_reducible assumption | intro _ | with_reducible apply governStart_keeps K
    | with_reducible apply clkLower_keeps K | with_reducible apply governLower_keeps K
    | with_reducible apply limitedSync_keeps K | with_reducible apply governRaise_keeps K
    | with_reducible apply foldl_keeps | with_reducible apply ite_keeps
    | fail_if_no_progress with_reducible refine K.lit ?_

theorem voltSettled_keeps (K : Regular P) (s : State) (w : Nat) (h : P s) : P (voltSettled s w) := by
  unfold voltSettled
  repeat' first
    | with_reducible assumption | with_reducible apply avsGood_keeps K | with_reducible apply State.wr_keeps K
    | with_reducible apply limitedSync_keeps K | with_reducible apply noteClock_keeps K | split
    | fail_if_no_progress with_reducible refine K.lit ?_

theorem voltLate_keeps (K : Regular P) (s : State) (w : Nat) (h : P s) : P (voltLate s w) := by
  unfold voltLate
  repeat' first
    | with_reducible assumption
    | (extract_lets +onlyGivenNames t0
       refine imp_elim (p := P t0) ?_ ?_
       on_goal 1 => (unfold t0; clear t0)
       on_goal 2 => (clear_value t0; revert t0; intro _ _))
    | with_reducible apply avsFail_keeps K | with_reducible apply voltCommand_keeps K | split

theorem govWindow_keeps (K : Regular P) (s : State) (h : P s) : P (govWindow s) := by
  unfold govWindow
  repeat' first
    | with_reducible assumption | intro _ | with_reducible apply evPf0_keeps K | with_reducible apply foldl_keeps
    | fail_if_no_progress with_reducible refine K.lit ?_

theorem spdmSay_keeps (K : Regular P) (s : State) (code p1 p2 : Nat) (known : List Byte) (h : P s) : P (spdmSay s code p1 p2 known) := by
  unfold spdmSay
  repeat' first
    | with_reducible assumption | with_reducible apply State.emit_keeps K
    | fail_if_no_progress with_reducible refine K.lit ?_

theorem spdmError_keeps (K : Regular P) (s : State) (code : Nat) (h : P s) : P (spdmError s code) := by
  unfold spdmError
  repeat' first | with_reducible assumption | with_reducible apply State.emit_keeps K

theorem spdmVersion_keeps (K : Regular P) (s : State) (h : P s) : P (spdmVersion s) := by
  unfold spdmVersion
  repeat' first
    | with_reducible assumption | with_reducible apply State.emit_keeps K
    | fail_if_no_progress with_reducible refine K.lit ?_

theorem spdmCapabilities_keeps (K : Regular P) (s : State) (h : P s) : P (spdmCapabilities s) := by
  unfold spdmCapabilities
  repeat' first
    | with_reducible assumption | with_reducible apply spdmError_keeps K | with_reducible apply spdmSay_keeps K
    | with_reducible apply ite_keeps | fail_if_no_progress with_reducible refine K.lit ?_

theorem spdmAlgorithms_keeps (K : Regular P) (s : State) (h : P s) : P (spdmAlgorithms s) := by
  unfold spdmAlgorithms
  repeat' first
    | with_reducible assumption | with_reducible apply spdmError_keeps K | with_reducible apply spdmSay_keeps K
    | with_reducible apply ite_keeps | fail_if_no_progress with_reducible refine K.lit ?_

theorem spdmNeeds_keeps (K : Regular P) (s : State) (f : State → State) (h : P s) (g1 : ∀ t, P t → P (f t)) : P (spdmNeeds s f) := by
  unfold spdmNeeds
  repeat' first
    | with_reducible assumption | with_reducible apply g1 | with_reducible apply spdmError_keeps K
    | with_reducible apply ite_keeps

theorem spdmDigests_keeps (K : Regular P) (s : State) (h : P s) : P (spdmDigests s) := by
  unfold spdmDigests
  repeat' first
    | with_reducible assumption | intro _ | with_reducible apply spdmNeeds_keeps K
    | with_reducible apply spdmSay_keeps K

theorem spdmCertificate_keeps (K : Regular P) (s : State) (msg : List Byte) (h : P s) : P (spdmCertificate s msg) := by
  unfold spdmCertificate
  repeat' first
    | with_reducible assumption | intro _ | with_reducible apply spdmNeeds_keeps K
    | with_reducible apply spdmError_keeps K | with_reducible apply spdmSay_keeps K | with_reducible apply ite_keeps

theorem spdmSigned_keeps (K : Regular P) (s : State) (f : State → State) (h : P s) (g1 : ∀ t, P t → P (f t)) : P (spdmSigned s f) := by
  unfold spdmSigned
  repeat' first
    | with_reducible assumption | with_reducible apply g1 | with_reducible apply spdmError_keeps K
    | with_reducible apply ite_keeps

theorem spdmChallenge_keeps (K : Regular P) (s : State) (msg : List Byte) (h : P s) : P (spdmChallenge s msg) := by
  unfold spdmChallenge
  repeat' first
    | with_reducible assumption | intro _ | with_reducible apply spdmNeeds_keeps K
    | with_reducible apply spdmSigned_keeps K | with_reducible apply spdmError_keeps K
    | with_reducible apply spdmSay_keeps K | with_reducible apply ite_keeps

theorem spdmMeasurements_keeps (K : Regular P) (s : State) (msg : List Byte) (h : P s) : P (spdmMeasurements s msg) := by
  unfold spdmMeasurements
  repeat' first
    | with_reducible assumption | intro _ | with_reducible apply spdmSay_keeps K
    | with_reducible apply spdmError_keeps K | with_reducible apply spdmNeeds_keeps K
    | with_reducible apply spdmSigned_keeps K | with_reducible apply ite_keeps

theorem sessSync_keeps (K : Regular P) (s : State) (h : P s) : P (sessSync s) := by
  unfold sessSync
  repeat' first | with_reducible assumption | with_reducible apply State.wr_keeps K

theorem spdmKeyExchange_keeps (K : Regular P) (s : State) (msg : List Byte) (h : P s) : P (spdmKeyExchange s msg) := by
  unfold spdmKeyExchange
  repeat' first
    | with_reducible assumption | intro _ | with_reducible apply spdmNeeds_keeps K
    | with_reducible apply spdmSigned_keeps K | with_reducible apply spdmError_keeps K
    | with_reducible apply spdmSay_keeps K | with_reducible apply sessSync_keeps K | with_reducible apply ite_keeps
    | fail_if_no_progress with_reducible refine K.lit ?_

theorem spdmFinish_keeps (K : Regular P) (s : State) (msg : List Byte) (h : P s) : P (spdmFinish s msg) := by
  unfold spdmFinish
  repeat' first
    | with_reducible assumption | with_reducible apply spdmError_keeps K | with_reducible apply spdmSay_keeps K
    | split | fail_if_no_progress with_reducible refine K.lit ?_

theorem spdmInSession_keeps (K : Regular P) (s : State) (msg : List Byte) (code : Nat) (h : P s) : P (spdmInSession s msg code) := by
  unfold spdmInSession
  repeat' first
    | with_reducible assumption | with_reducible apply spdmSay_keeps K | with_reducible apply spdmError_keeps K
    | with_reducible apply ite_keeps

theorem spdmEnd_keeps (K : Regular P) (s : State) (msg : List Byte) (h : P s) : P (spdmEnd s msg) := by
  unfold spdmEnd
  repeat' first
    | with_reducible assumption | with_reducible apply spdmError_keeps K | with_reducible apply spdmSay_keeps K
    | with_reducible apply sessSync_keeps K | split | fail_if_no_progress with_reducible refine K.lit ?_

theorem ideSay_keeps (K : Regular P) (s : State) (km : List Byte) (h : P s) : P (ideSay s km) := by
  unfold ideSay
  repeat' first | with_reducible assumption | with_reducible apply State.emit_keeps K

theorem ideMap_keeps (K : Regular P) (s : State) (id : Nat) (f : IdeStream → IdeStream) (h : P s) : P (ideMap s id f) := by
  unfold ideMap
  repeat' first | with_reducible assumption | fail_if_no_progress with_reducible refine K.lit ?_

theorem keyProg_keeps (K : Regular P) (s : State) (km : List Byte) (h : P s) : P (keyProg s km).1 := by
  unfold keyProg
  repeat' first
    | with_reducible assumption | with_reducible apply ideMap_keeps K | with_reducible apply ite_fst_keeps
    | fail_if_no_progress with_reducible refine K.lit ?_

theorem ideKm_keeps (K : Regular P) (s : State) (km : List Byte) (h : P s) : P (ideKm s km) := by
  unfold ideKm
  repeat' first
    | with_reducible assumption | with_reducible apply spdmSay_keeps K | with_reducible apply ideSay_keeps K
    | with_reducible apply ideMap_keeps K | with_reducible apply spdmError_keeps K
    | with_reducible apply keyProg_keeps K | with_reducible apply ite_keeps
    | fail_if_no_progress with_reducible refine K.lit ?_

theorem spdmVendor_keeps (K : Regular P) (s : State) (msg : List Byte) (h : P s) : P (spdmVendor s msg) := by
  unfold spdmVendor
  repeat' first
    | with_reducible assumption | with_reducible apply ideKm_keeps K | with_reducible apply spdmError_keeps K
    | with_reducible apply ite_keeps

theorem unlockReq_keeps (K : Regular P) (s : State) (h : P s) : P (unlockReq s) := by
  unfold unlockReq
  repeat' first
    | with_reducible assumption | with_reducible apply State.emit_keeps K
    | fail_if_no_progress with_reducible refine K.lit ?_

theorem unlockToken_keeps (K : Closed P) (s : State) (token : List Byte) (h : P s) : P (unlockToken s token) := by
  unfold unlockToken
  repeat' first
    | with_reducible assumption | with_reducible apply deepExit_keeps K | with_reducible apply unlocked_keeps K.1
    | with_reducible apply resetAsk_keeps K | with_reducible apply ite_keeps
    | fail_if_no_progress with_reducible refine K.lit ?_

theorem tapInstr_keeps (K : Regular P) (s : State) (ir : Nat) (h : P s) : P (tapInstr s ir) := by
  unfold tapInstr
  repeat' first
    | with_reducible assumption | with_reducible apply State.emit_keeps K | with_reducible apply ite_keeps
    | fail_if_no_progress with_reducible refine K.lit ?_

theorem tapReset_keeps (K : Regular P) (s : State) (h : P s) : P (tapReset s) := by
  unfold tapReset
  repeat' first | with_reducible assumption | fail_if_no_progress with_reducible refine K.lit ?_

theorem secFwWrite_keeps (K : Regular P) (s : State) (v : Nat) (h : P s) : P (secFwWrite s v) := by
  unfold secFwWrite
  repeat' first
    | with_reducible assumption | with_reducible apply State.wr_keeps K | with_reducible apply evPf0_keeps K
    | with_reducible apply ite_keeps

theorem fltFirstWrite_keeps (K : Regular P) (s : State) (c v : Nat) (h : P s) : P (fltFirstWrite s c v) := by
  unfold fltFirstWrite
  repeat' first
    | with_reducible assumption | with_reducible apply State.wr_keeps K | with_reducible apply ite_keeps
    | fail_if_no_progress with_reducible refine K.lit ?_

theorem fltCntClr_keeps (K : Regular P) (s : State) (c v : Nat) (h : P s) : P (fltCntClr s c v) := by
  unfold fltCntClr
  repeat' first
    | with_reducible assumption | with_reducible apply State.wr_keeps K | with_reducible apply State.clrReg_keeps K
    | with_reducible apply ite_keeps

theorem injectWrite_keeps (K : Closed P) (s : State) (v : Nat) (h : P s) : P (injectWrite s v) := by
  unfold injectWrite
  repeat' first
    | with_reducible assumption | with_reducible apply plainWrite_keeps K.1 | with_reducible apply brokenWire_keeps K
    | with_reducible apply errorReport_keeps K | with_reducible apply State.tickFresh_keeps K.1
    | with_reducible apply ite_keeps

theorem rstCtlWrite_keeps (K : Closed P) (s : State) (v : Nat) (h : P s) : P (rstCtlWrite s v) := by
  unfold rstCtlWrite
  repeat' first
    | with_reducible assumption | with_reducible apply plainWrite_keeps K.1 | with_reducible apply resetAsk_keeps K
    | with_reducible apply ite_keeps

theorem chipCfgWrite_keeps (K : Regular P) (s : State) (v : Nat) (h : P s) : P (chipCfgWrite s v) := by
  unfold chipCfgWrite
  repeat' first
    | with_reducible assumption | with_reducible apply plainWrite_keeps K | with_reducible apply tallyForget_keeps K
    | with_reducible apply ite_keeps

theorem aonSleepWrite_keeps (K : Closed P) (s : State) (v : Nat) (h : P s) : P (aonSleepWrite s v) := by
  unfold aonSleepWrite
  repeat' first
    | with_reducible assumption | with_reducible apply deepExit_keeps K | with_reducible apply ite_keeps

theorem rearmUnit_keeps (K : Regular P) (s : State) (u : Nat) (h : P s) : P (rearmUnit s u) := by
  unfold rearmUnit
  repeat' first
    | with_reducible assumption | with_reducible apply resyncBegin_keeps K | with_reducible apply ite_keeps
    | fail_if_no_progress with_reducible refine K.lit ?_

theorem eldCtlWrite_keeps (K : Regular P) (s : State) (v : Nat) (h : P s) : P (eldCtlWrite s v) := by
  unfold eldCtlWrite
  repeat' first
    | with_reducible assumption | with_reducible apply rearmUnit_keeps K | with_reducible apply takeControl_keeps K
    | with_reducible apply ite_keeps

theorem eldCntClr_keeps (K : Regular P) (s : State) (v : Nat) (h : P s) : P (eldCntClr s v) := by
  unfold eldCntClr
  repeat' first
    | with_reducible assumption | with_reducible apply State.clrReg_keeps K | with_reducible apply ite_keeps

theorem regAct_keeps (K : Closed P) (s : State) (x1 : RegAt) (vf : Bool) (v : Nat) (h : P s) : P (regAct s x1 vf v) := by
  unfold regAct
  repeat' first
    | with_reducible assumption | with_reducible apply prtCtlWrite_keeps K
    | with_reducible apply corCtlWrite_keeps K.1 | with_reducible apply seedWrite_keeps K.1
    | with_reducible apply arithStatWrite_keeps K.1 | with_reducible apply xltStatClr_keeps K.1
    | with_reducible apply progLoadWrite_keeps K.1 | with_reducible apply rgnCfgWrite_keeps K.1
    | with_reducible apply rgnClr_keeps K.1 | with_reducible apply syncClr_keeps K.1
    | with_reducible apply nearTrim_keeps K | with_reducible apply writeReg_keeps K.1
    | with_reducible apply secClr_keeps K.1 | with_reducible apply pump_keeps K
    | with_reducible apply rngCtlWrite_keeps K.1 | with_reducible apply cohCtlWrite_keeps K
    | with_reducible apply portCtlWrite_keeps K.1 | with_reducible apply portCntClr_keeps K.1
    | with_reducible apply xrdCntClr_keeps K.1 | with_reducible apply guardAll_keeps K.1
    | with_reducible apply guardUpdate_keeps K.1 | with_reducible apply gateCtlWrite_keeps K.1
    | with_reducible apply portHselWrite_keeps K.1 | with_reducible apply chHselWrite_keeps K.1
    | with_reducible apply cutCredits_keeps K.1 | with_reducible apply qosRegWrite_keeps K.1
    | with_reducible apply ddrCtlWrite_keeps K | with_reducible apply ddrCntClr_keeps K.1
    | with_reducible apply nvmCtlWrite_keeps K | with_reducible apply secFwWrite_keeps K.1
    | with_reducible apply injectWrite_keeps K | with_reducible apply fltFirstWrite_keeps K.1
    | with_reducible apply fltCntClr_keeps K.1 | with_reducible apply irqCfgWrite_keeps K.1
    | with_reducible apply irqAck_keeps K.1 | with_reducible apply irqStatClr_keeps K.1
    | with_reducible apply rstCtlWrite_keeps K | with_reducible apply chipCfgWrite_keeps K.1
    | with_reducible apply lockWrite_keeps K.1 | with_reducible apply sleepWrite_keeps K
    | with_reducible apply recoveryGo_keeps K.1 | with_reducible apply aonSleepWrite_keeps K
    | with_reducible apply eldCtlWrite_keeps K.1 | with_reducible apply eldCntClr_keeps K.1
    | with_reducible apply ite_keeps

theorem applyWrite_keeps (K : Closed P) (s : State) (vf : Bool) (off v : Nat) (h : P s) : P (applyWrite s vf off v) := by
  unfold applyWrite
  repeat' first | with_reducible assumption | with_reducible apply regAct_keeps K | split

theorem stagedWrite_keeps (K : Closed P) (s : State) (vf : Bool) (off v : Nat) (h : P s) : P (stagedWrite s vf off v) := by
  unfold stagedWrite
  repeat' first
    | with_reducible assumption | with_reducible apply committed_keeps K.1 | with_reducible apply applyWrite_keeps K
    | with_reducible apply logPut_keeps K.1 | with_reducible apply ite_keeps

theorem logCommit_keeps (K : Closed P) (s : State) (e : LogEnt) (h : P s) : P (logCommit s e) := by
  unfold logCommit
  repeat' first
    | with_reducible assumption | with_reducible apply committed_keeps K.1 | with_reducible apply applyWrite_keeps K
    | with_reducible apply applyEnt_keeps K | split

theorem logRun_keeps (K : Closed P) (x0 : Nat) (x1 : State) (h : P x1) : P (logRun x0 x1) := by
  induction x0 generalizing x1 with
  | zero =>
    rw [logRun]
    repeat' first | with_reducible assumption
  | succ n ih =>
    rw [logRun]
    repeat' first
      | with_reducible assumption | with_reducible apply ih | with_reducible apply logFill_keeps K.1
      | with_reducible apply logCommit_keeps K | split | fail_if_no_progress with_reducible refine K.lit ?_

theorem logDrain_keeps (K : Closed P) (s : State) (h : P s) : P (logDrain s) := by
  unfold logDrain
  repeat' first
    | with_reducible assumption | with_reducible apply pump_keeps K | with_reducible apply logRun_keeps K

theorem wildWrite_keeps (K : Regular P) (s : State) (off : Nat) (h : P s) : P (wildWrite s off) := by
  unfold wildWrite
  repeat' first
    | with_reducible assumption | with_reducible apply writeReg_keeps K
    | with_reducible apply State.tickFresh_keeps K | split

theorem accessError_keeps (K : Regular P) (s : State) (func off rule : Nat) (h : P s) : OutHas P (accessError s func off rule) := by
  unfold accessError
  repeat' first
    | with_reducible assumption | with_reducible apply wildWrite_keeps K | with_reducible apply ite_out_keeps
    | dsimp -zeta only [OutHas]

theorem hostWrite_keeps (K : Closed P) (s : State) (func off v : Nat) (narrow : Bool) (h : P s) : OutHas P (hostWrite s func off v narrow) := by
  unfold hostWrite
  repeat' first
    | with_reducible assumption
    | (extract_lets +onlyGivenNames n0
       clear_value n0; revert n0; intro _)
    | with_reducible apply msixWrite_keeps K.1 | with_reducible apply regAct_keeps K
    | with_reducible apply stagedWrite_keeps K | with_reducible apply accessError_keeps K.1 | split
    | dsimp -zeta only [OutHas]

theorem eldersGone_keeps (K : Closed P) (s : State) (h : P s) : P (eldersGone s) := by
  unfold eldersGone
  repeat' first
    | with_reducible assumption | with_reducible apply errorReport_keeps K
    | with_reducible apply State.tickFresh_keeps K.1

theorem thaw_keeps (K : Closed P) (s : State) (h : P s) : P (thaw s) := by
  unfold thaw
  repeat' first
    | with_reducible assumption | intro _ | with_reducible apply eldersGone_keeps K
    | with_reducible apply eldLeave_keeps K.1 | with_reducible apply setCheck_keeps K.1
    | with_reducible apply State.wr_keeps K.1 | with_reducible apply takeControl_keeps K.1
    | with_reducible apply resyncBegin_keeps K.1 | with_reducible apply logDrain_keeps K
    | with_reducible apply foldl_keeps | split | fail_if_no_progress with_reducible refine K.lit ?_

theorem checkEntry_keeps (K : Regular P) (s : State) (u : Nat) (h : P s) : P (checkEntry s u) := by
  unfold checkEntry
  repeat' first
    | with_reducible assumption | with_reducible apply setCheck_keeps K | with_reducible apply tallyEntry_keeps K

theorem startChecked_keeps (K : Closed P) (s : State) (h : P s) : P (startChecked s) := by
  unfold startChecked
  repeat' first
    | with_reducible assumption | intro _ | with_reducible apply checkEntry_keeps K.1
    | with_reducible apply toSafe_keeps K.1 | with_reducible apply eldLeave_keeps K.1
    | with_reducible apply takeControl_keeps K.1 | with_reducible apply State.wr_keeps K.1
    | with_reducible apply step5Check_keeps K.1 | with_reducible apply logDrain_keeps K
    | with_reducible apply resyncBegin_keeps K.1 | with_reducible apply foldl_keeps | split
    | fail_if_no_progress with_reducible refine K.lit ?_

theorem checksDone_keeps (K : Closed P) (s : State) (h : P s) : P (checksDone s) := by
  unfold checksDone
  repeat' first
    | with_reducible assumption | with_reducible apply thaw_keeps K | with_reducible apply startChecked_keeps K
    | with_reducible apply ite_keeps

theorem selfCheck_keeps (K : Closed P) (s : State) (u code : Nat) (h : P s) : P (selfCheck s u code) := by
  unfold selfCheck
  repeat' first
    | with_reducible assumption | with_reducible apply checksDone_keeps K | with_reducible apply ite_keeps
    | fail_if_no_progress with_reducible refine K.lit ?_

theorem hbLate_keeps (K : Closed P) (s : State) (u : Nat) (h : P s) : P (hbLate s u) := by
  unfold hbLate
  repeat' first
    | with_reducible assumption | with_reducible apply heartbeatMissed_keeps K.1
    | with_reducible apply checksDone_keeps K | with_reducible apply ite_keeps

theorem freezeLate_keeps (K : Closed P) (s : State) (h : P s) : P (freezeLate s) := by
  unfold freezeLate
  repeat' first
    | with_reducible assumption | intro _ | with_reducible apply eldersGone_keeps K
    | with_reducible apply eldLeave_keeps K.1 | with_reducible apply foldl_keeps | with_reducible apply ite_keeps

theorem applyProposal_keeps (K : Closed P) (s : State) (p : Proposal) (h : P s) : P (applyProposal s p) := by
  unfold applyProposal
  repeat' first
    | with_reducible assumption | with_reducible apply regAct_keeps K | with_reducible apply State.wrReg_keeps K.1
    | with_reducible apply committed_keeps K.1 | split

theorem propose_keeps (K : Closed P) (s : State) (pa pb : Option Proposal) (h : P s) : P (propose s pa pb) := by
  unfold propose
  repeat' first
    | with_reducible assumption
    | (extract_lets +onlyGivenNames f0
       (have f1 := fun a => f0 a; clear f1)
       (try unfold f0); clear f0)
    | (extract_lets +onlyGivenNames t0
       refine imp_elim (p := P t0) ?_ ?_
       on_goal 1 => (unfold t0; clear t0)
       on_goal 2 => (clear_value t0; revert t0; intro _ _))
    | (extract_lets +onlyGivenNames n0
       clear_value n0; revert n0; intro _)
    | with_reducible apply applyProposal_keeps K | with_reducible apply evPf0_keeps K.1
    | with_reducible apply State.count_keeps K.1 | with_reducible apply freezeBegin_keeps K.1
    | with_reducible apply returnFails_keeps K.1 | split

theorem resyncStep_keeps (K : Regular P) (s : State) (code entries : Nat) (h : P s) : P (resyncStep s code entries) := by
  unfold resyncStep
  repeat' first
    | with_reducible assumption
    | (extract_lets +onlyGivenNames t0
       refine imp_elim (p := P t0) ?_ ?_
       on_goal 1 => (unfold t0; clear t0)
       on_goal 2 => (clear_value t0; revert t0; intro _ _))
    | (extract_lets +onlyGivenNames n0
       clear_value n0; revert n0; intro _)
    | with_reducible apply returnFails_keeps K | with_reducible apply State.count_keeps K
    | with_reducible apply eldLeave_keeps K | with_reducible apply State.wr_keeps K
    | with_reducible apply setEldSt_keeps K | split | fail_if_no_progress with_reducible refine K.lit ?_

theorem timeTick_keeps (K : Regular P) (s : State) (h : P s) : P (timeTick s) := by
  unfold timeTick
  repeat' first
    | with_reducible assumption | with_reducible apply setTime_keeps K | with_reducible apply ite_keeps
    | fail_if_no_progress with_reducible refine K.lit ?_

theorem idleTick_keeps (K : Closed P) (s : State) (h : P s) : P (idleTick s) := by
  unfold idleTick
  repeat' first
    | with_reducible assumption | with_reducible apply timeTick_keeps K.1 | with_reducible apply State.wr_keeps K.1
    | with_reducible apply settleCurfews_keeps K | with_reducible apply ite_keeps

end Sys2Proof.Machine
end

