-- ==== Sys2Proof/Laws/KeepDesc.lean ====
section
/-!
SUPPORT. Sys2Proof/Laws/KeepDesc.lean: a closed property is kept by each operation of the commands of descriptors and packets.
-/
namespace Sys2Proof.Machine

variable {P : State → Prop}

theorem execCopy_keeps (K : Closed P) (r : Ring) (d : Nat) (s : State) (h : P s) : OutHas P (execCopy r d s) := by
  unfold execCopy
  repeat' first | with_reducible assumption | with_reducible apply startDesc_keeps K | dsimp -zeta only [OutHas]

theorem execFill_keeps (K : Closed P) (r : Ring) (d : Nat) (s : State) (h : P s) : OutHas P (execFill r d s) := by
  unfold execFill
  repeat' first | with_reducible assumption | with_reducible apply startDesc_keeps K | dsimp -zeta only [OutHas]

theorem execConvert_keeps (K : Closed P) (r : Ring) (d : Nat) (s : State) (h : P s) : OutHas P (execConvert r d s) := by
  unfold execConvert
  repeat' first | with_reducible assumption | with_reducible apply startDesc_keeps K | dsimp -zeta only [OutHas]

theorem execDigest_keeps (K : Closed P) (r : Ring) (d : Nat) (s : State) (h : P s) : OutHas P (execDigest r d s) := by
  unfold execDigest
  repeat' first | with_reducible assumption | with_reducible apply startDesc_keeps K | dsimp -zeta only [OutHas]

theorem execReduce_keeps (K : Closed P) (r : Ring) (d : Nat) (s : State) (h : P s) : OutHas P (execReduce r d s) := by
  unfold execReduce
  repeat' first | with_reducible assumption | with_reducible apply startDesc_keeps K | dsimp -zeta only [OutHas]

theorem execGatherPool_keeps (K : Closed P) (r : Ring) (d : Nat) (s : State) (h : P s) : OutHas P (execGatherPool r d s) := by
  unfold execGatherPool
  repeat' first
    | with_reducible assumption | with_reducible apply startDesc_keeps K | split | dsimp -zeta only [OutHas]

theorem execScatterAdd_keeps (K : Closed P) (r : Ring) (d : Nat) (s : State) (h : P s) : OutHas P (execScatterAdd r d s) := by
  unfold execScatterAdd
  repeat' first
    | with_reducible assumption | with_reducible apply startDesc_keeps K | split | dsimp -zeta only [OutHas]

theorem execPageGather_keeps (K : Closed P) (r : Ring) (d : Nat) (s : State) (h : P s) : OutHas P (execPageGather r d s) := by
  unfold execPageGather
  repeat' first | with_reducible assumption | with_reducible apply startDesc_keeps K | dsimp -zeta only [OutHas]

theorem execProgram_keeps (K : Closed P) (r : Ring) (d : Nat) (s : State) (h : P s) : OutHas P (execProgram r d s) := by
  unfold execProgram
  repeat' first | with_reducible assumption | with_reducible apply startDesc_keeps K | dsimp -zeta only [OutHas]

theorem execFence_keeps (K : Closed P) (r : Ring) (d : Nat) (s : State) (h : P s) : OutHas P (execFence r d s) := by
  unfold execFence
  repeat' first | with_reducible assumption | with_reducible apply startDesc_keeps K | dsimp -zeta only [OutHas]

theorem execNop_keeps (K : Closed P) (r : Ring) (d : Nat) (s : State) (h : P s) : OutHas P (execNop r d s) := by
  unfold execNop
  repeat' first | with_reducible assumption | with_reducible apply startDesc_keeps K | dsimp -zeta only [OutHas]

theorem execHintHot_keeps (K : Closed P) (r : Ring) (d : Nat) (s : State) (h : P s) : OutHas P (execHintHot r d s) := by
  unfold execHintHot
  repeat' first | with_reducible assumption | with_reducible apply startDesc_keeps K | dsimp -zeta only [OutHas]

theorem execHintCold_keeps (K : Closed P) (r : Ring) (d : Nat) (s : State) (h : P s) : OutHas P (execHintCold r d s) := by
  unfold execHintCold
  repeat' first | with_reducible assumption | with_reducible apply startDesc_keeps K | dsimp -zeta only [OutHas]

theorem execHintStreamOnce_keeps (K : Closed P) (r : Ring) (d : Nat) (s : State) (h : P s) : OutHas P (execHintStreamOnce r d s) := by
  unfold execHintStreamOnce
  repeat' first | with_reducible assumption | with_reducible apply startDesc_keeps K | dsimp -zeta only [OutHas]

theorem execHintPinNear_keeps (K : Closed P) (r : Ring) (d : Nat) (s : State) (h : P s) : OutHas P (execHintPinNear r d s) := by
  unfold execHintPinNear
  repeat' first | with_reducible assumption | with_reducible apply startDesc_keeps K | dsimp -zeta only [OutHas]

theorem execHintPinDram_keeps (K : Closed P) (r : Ring) (d : Nat) (s : State) (h : P s) : OutHas P (execHintPinDram r d s) := by
  unfold execHintPinDram
  repeat' first | with_reducible assumption | with_reducible apply startDesc_keeps K | dsimp -zeta only [OutHas]

theorem execHintEvictFirst_keeps (K : Closed P) (r : Ring) (d : Nat) (s : State) (h : P s) : OutHas P (execHintEvictFirst r d s) := by
  unfold execHintEvictFirst
  repeat' first | with_reducible assumption | with_reducible apply startDesc_keeps K | dsimp -zeta only [OutHas]

theorem execHintClear_keeps (K : Closed P) (r : Ring) (d : Nat) (s : State) (h : P s) : OutHas P (execHintClear r d s) := by
  unfold execHintClear
  repeat' first | with_reducible assumption | with_reducible apply startDesc_keeps K | dsimp -zeta only [OutHas]

theorem execPrefetchNear_keeps (K : Closed P) (r : Ring) (d : Nat) (s : State) (h : P s) : OutHas P (execPrefetchNear r d s) := by
  unfold execPrefetchNear
  repeat' first | with_reducible assumption | with_reducible apply startDesc_keeps K | dsimp -zeta only [OutHas]

theorem execPrefetchDram_keeps (K : Closed P) (r : Ring) (d : Nat) (s : State) (h : P s) : OutHas P (execPrefetchDram r d s) := by
  unfold execPrefetchDram
  repeat' first | with_reducible assumption | with_reducible apply startDesc_keeps K | dsimp -zeta only [OutHas]

theorem execDemoteDram_keeps (K : Closed P) (r : Ring) (d : Nat) (s : State) (h : P s) : OutHas P (execDemoteDram r d s) := by
  unfold execDemoteDram
  repeat' first | with_reducible assumption | with_reducible apply startDesc_keeps K | dsimp -zeta only [OutHas]

theorem execDemoteGranary_keeps (K : Closed P) (r : Ring) (d : Nat) (s : State) (h : P s) : OutHas P (execDemoteGranary r d s) := by
  unfold execDemoteGranary
  repeat' first | with_reducible assumption | with_reducible apply startDesc_keeps K | dsimp -zeta only [OutHas]

theorem execPublish_keeps (K : Closed P) (r : Ring) (d : Nat) (s : State) (h : P s) : OutHas P (execPublish r d s) := by
  unfold execPublish
  repeat' first | with_reducible assumption | with_reducible apply startDesc_keeps K | dsimp -zeta only [OutHas]

theorem execPin_keeps (K : Closed P) (r : Ring) (d : Nat) (s : State) (h : P s) : OutHas P (execPin r d s) := by
  unfold execPin
  repeat' first | with_reducible assumption | with_reducible apply startDesc_keeps K | dsimp -zeta only [OutHas]

theorem execUnpin_keeps (K : Closed P) (r : Ring) (d : Nat) (s : State) (h : P s) : OutHas P (execUnpin r d s) := by
  unfold execUnpin
  repeat' first | with_reducible assumption | with_reducible apply startDesc_keeps K | dsimp -zeta only [OutHas]

theorem execSpaceInval_keeps (K : Closed P) (r : Ring) (d : Nat) (s : State) (h : P s) : OutHas P (execSpaceInval r d s) := by
  unfold execSpaceInval
  repeat' first | with_reducible assumption | with_reducible apply startDesc_keeps K | dsimp -zeta only [OutHas]

theorem execExtentAdd_keeps (K : Closed P) (r : Ring) (d : Nat) (s : State) (h : P s) : OutHas P (execExtentAdd r d s) := by
  unfold execExtentAdd
  repeat' first | with_reducible assumption | with_reducible apply startDesc_keeps K | dsimp -zeta only [OutHas]

theorem execExtentRelease_keeps (K : Closed P) (r : Ring) (d : Nat) (s : State) (h : P s) : OutHas P (execExtentRelease r d s) := by
  unfold execExtentRelease
  repeat' first | with_reducible assumption | with_reducible apply startDesc_keeps K | dsimp -zeta only [OutHas]

theorem execExtentMove_keeps (K : Closed P) (r : Ring) (d : Nat) (s : State) (h : P s) : OutHas P (execExtentMove r d s) := by
  unfold execExtentMove
  repeat' first | with_reducible assumption | with_reducible apply startDesc_keeps K | dsimp -zeta only [OutHas]

theorem execFaultReplyMapped_keeps (K : Closed P) (r : Ring) (d : Nat) (s : State) (h : P s) : OutHas P (execFaultReplyMapped r d s) := by
  unfold execFaultReplyMapped
  repeat' first | with_reducible assumption | with_reducible apply startDesc_keeps K | dsimp -zeta only [OutHas]

theorem execFaultReplyRefused_keeps (K : Closed P) (r : Ring) (d : Nat) (s : State) (h : P s) : OutHas P (execFaultReplyRefused r d s) := by
  unfold execFaultReplyRefused
  repeat' first | with_reducible assumption | with_reducible apply startDesc_keeps K | dsimp -zeta only [OutHas]

theorem execSyncSet_keeps (K : Closed P) (r : Ring) (d : Nat) (s : State) (h : P s) : OutHas P (execSyncSet r d s) := by
  unfold execSyncSet
  repeat' first | with_reducible assumption | with_reducible apply startDesc_keeps K | dsimp -zeta only [OutHas]

theorem execSyncWait_keeps (K : Closed P) (r : Ring) (d : Nat) (s : State) (h : P s) : OutHas P (execSyncWait r d s) := by
  unfold execSyncWait
  repeat' first | with_reducible assumption | with_reducible apply startDesc_keeps K | dsimp -zeta only [OutHas]

theorem execSyncWaitArrive_keeps (K : Closed P) (r : Ring) (d : Nat) (s : State) (h : P s) : OutHas P (execSyncWaitArrive r d s) := by
  unfold execSyncWaitArrive
  repeat' first | with_reducible assumption | with_reducible apply startDesc_keeps K | dsimp -zeta only [OutHas]

theorem execSyncWaitTake_keeps (K : Closed P) (r : Ring) (d : Nat) (s : State) (h : P s) : OutHas P (execSyncWaitTake r d s) := by
  unfold execSyncWaitTake
  repeat' first | with_reducible assumption | with_reducible apply startDesc_keeps K | dsimp -zeta only [OutHas]

theorem execKeyLoadJob_keeps (K : Closed P) (r : Ring) (d : Nat) (s : State) (h : P s) : OutHas P (execKeyLoadJob r d s) := by
  unfold execKeyLoadJob
  repeat' first | with_reducible assumption | with_reducible apply startDesc_keeps K | dsimp -zeta only [OutHas]

theorem execKeyLoadMemory_keeps (K : Closed P) (r : Ring) (d : Nat) (s : State) (h : P s) : OutHas P (execKeyLoadMemory r d s) := by
  unfold execKeyLoadMemory
  repeat' first | with_reducible assumption | with_reducible apply startDesc_keeps K | dsimp -zeta only [OutHas]

theorem execKeyLoadEmpty_keeps (K : Closed P) (r : Ring) (d : Nat) (s : State) (h : P s) : OutHas P (execKeyLoadEmpty r d s) := by
  unfold execKeyLoadEmpty
  repeat' first | with_reducible assumption | with_reducible apply startDesc_keeps K | dsimp -zeta only [OutHas]

theorem execRouteStage_keeps (K : Closed P) (r : Ring) (d : Nat) (s : State) (h : P s) : OutHas P (execRouteStage r d s) := by
  unfold execRouteStage
  repeat' first
    | with_reducible assumption | with_reducible apply startDesc_keeps K | split | dsimp -zeta only [OutHas]

theorem execRouteCommitFlip_keeps (K : Closed P) (r : Ring) (d : Nat) (s : State) (h : P s) : OutHas P (execRouteCommitFlip r d s) := by
  unfold execRouteCommitFlip
  repeat' first | with_reducible assumption | with_reducible apply startDesc_keeps K | dsimp -zeta only [OutHas]

theorem execRouteCommitDrain_keeps (K : Closed P) (r : Ring) (d : Nat) (s : State) (h : P s) : OutHas P (execRouteCommitDrain r d s) := by
  unfold execRouteCommitDrain
  repeat' first | with_reducible assumption | with_reducible apply startDesc_keeps K | dsimp -zeta only [OutHas]

theorem execVersionReleaseDone_keeps (K : Closed P) (p : Part) (region version : Nat) (s : State) (h : P s) : OutHas P (execVersionReleaseDone p region version s) := by
  unfold execVersionReleaseDone
  repeat' first
    | with_reducible assumption
    | (extract_lets +onlyGivenNames n0
       clear_value n0; revert n0; intro _)
    | with_reducible apply pump_keeps K | with_reducible apply verReleased_keeps K | split
    | dsimp -zeta only [OutHas]

theorem execSpaceInvalDrained_keeps (K : Closed P) (r : Ring) (d : Nat) (s : State) (h : P s) : OutHas P (execSpaceInvalDrained r d s) := by
  unfold execSpaceInvalDrained
  repeat' first
    | with_reducible assumption | with_reducible apply pump_keeps K | with_reducible apply finishDesc_keeps K.1
    | split | dsimp -zeta only [OutHas]

theorem execExtentInitDone_keeps (K : Closed P) (baseG : Nat) (s : State) (h : P s) : OutHas P (execExtentInitDone baseG s) := by
  unfold execExtentInitDone
  repeat' first | with_reducible assumption | with_reducible apply commitOr_keeps K | dsimp -zeta only [OutHas]

theorem execExtentReleaseDrained_keeps (K : Closed P) (baseG : Nat) (s : State) (h : P s) : OutHas P (execExtentReleaseDrained baseG s) := by
  unfold execExtentReleaseDrained
  repeat' first | with_reducible assumption | with_reducible apply commitOr_keeps K | dsimp -zeta only [OutHas]

theorem execReleaseTmoExpiry_keeps (K : Closed P) (baseG : Nat) (s : State) (h : P s) : OutHas P (execReleaseTmoExpiry baseG s) := by
  unfold execReleaseTmoExpiry
  repeat' first
    | with_reducible assumption | with_reducible apply pump_keeps K | with_reducible apply poisonHolders_keeps K.1
    | split | dsimp -zeta only [OutHas]

theorem execExtentScrubDone_keeps (K : Closed P) (baseG : Nat) (s : State) (h : P s) : OutHas P (execExtentScrubDone baseG s) := by
  unfold execExtentScrubDone
  repeat' first | with_reducible assumption | with_reducible apply commitOr_keeps K | dsimp -zeta only [OutHas]

theorem execExtentMoveDone_keeps (K : Closed P) (baseG : Nat) (s : State) (h : P s) : OutHas P (execExtentMoveDone baseG s) := by
  unfold execExtentMoveDone
  repeat' first | with_reducible assumption | with_reducible apply commitOr_keeps K | dsimp -zeta only [OutHas]

theorem execCoalesceWindowEnd_keeps (K : Closed P) (p : Part) (tag page : Nat) (s : State) (h : P s) : OutHas P (execCoalesceWindowEnd p tag page s) := by
  unfold execCoalesceWindowEnd
  repeat' first
    | with_reducible assumption | with_reducible apply pump_keeps K | with_reducible apply faultWindowEnd_keeps K.1
    | dsimp -zeta only [OutHas]

theorem execHoldTmoExpiry_keeps (K : Closed P) (p : Part) (tag page : Nat) (s : State) (h : P s) : OutHas P (execHoldTmoExpiry p tag page s) := by
  unfold execHoldTmoExpiry
  repeat' first
    | with_reducible assumption | with_reducible apply pump_keeps K | with_reducible apply releaseHeld_keeps K.1
    | split | dsimp -zeta only [OutHas]

theorem wakeHolder_keeps (K : Regular P) (s : State) (who : Holder) (h : P s) : P (wakeHolder s who) := by
  unfold wakeHolder
  repeat' first | with_reducible assumption | split | fail_if_no_progress with_reducible refine K.lit ?_

theorem execXltReqLifeExpiry_keeps (K : Closed P) (id : Nat) (s : State) (h : P s) : OutHas P (execXltReqLifeExpiry id s) := by
  unfold execXltReqLifeExpiry
  repeat' first
    | with_reducible assumption | with_reducible apply pump_keeps K | with_reducible apply watchUE_keeps K.1
    | with_reducible apply wakeHolder_keeps K.1 | with_reducible apply setReq_keeps K.1 | split
    | dsimp -zeta only [OutHas] | fail_if_no_progress with_reducible refine K.lit ?_

theorem execArmSetListReadDone_keeps (K : Closed P) (obj : Nat) (s : State) (h : P s) : OutHas P (execArmSetListReadDone obj s) := by
  unfold execArmSetListReadDone
  repeat' first
    | with_reducible assumption | with_reducible apply pump_keeps K | with_reducible apply armListDone_keeps K
    | dsimp -zeta only [OutHas]

theorem execSyncWaitSatisfied_keeps (K : Closed P) (r : Ring) (d : Nat) (s : State) (h : P s) : OutHas P (execSyncWaitSatisfied r d s) := by
  unfold execSyncWaitSatisfied
  repeat' first
    | with_reducible assumption | with_reducible apply pump_keeps K | with_reducible apply finishDesc_keeps K.1
    | split | dsimp -zeta only [OutHas]

theorem execSyncWaitTmoExpiry_keeps (K : Closed P) (r : Ring) (d : Nat) (s : State) (h : P s) : OutHas P (execSyncWaitTmoExpiry r d s) := by
  unfold execSyncWaitTmoExpiry
  repeat' first
    | with_reducible assumption | with_reducible apply pump_keeps K | with_reducible apply finishDesc_keeps K.1
    | split | dsimp -zeta only [OutHas]

theorem execSetTimerExpiry_keeps (K : Closed P) (obj : Nat) (s : State) (h : P s) : OutHas P (execSetTimerExpiry obj s) := by
  unfold execSetTimerExpiry
  repeat' first
    | with_reducible assumption | with_reducible apply pump_keeps K | with_reducible apply endSet_keeps K.1 | split
    | dsimp -zeta only [OutHas]

theorem execSetResultWritten_keeps (K : Closed P) (obj : Nat) (s : State) (h : P s) : OutHas P (execSetResultWritten obj s) := by
  unfold execSetResultWritten
  repeat' first
    | with_reducible assumption | with_reducible apply pump_keeps K | with_reducible apply completeSet_keeps K
    | dsimp -zeta only [OutHas]

theorem execProgramTilesDone_keeps (K : Closed P) (r : Ring) (d : Nat) (s : State) (h : P s) : OutHas P (execProgramTilesDone r d s) := by
  unfold execProgramTilesDone
  repeat' first
    | with_reducible assumption | with_reducible apply pump_keeps K | with_reducible apply dRun_keeps K
    | with_reducible apply setInvoc_keeps K.1 | with_reducible apply workStep_keeps K | split
    | dsimp -zeta only [DStep.Has, OutHas]

theorem execProgRunTmoExpiry_keeps (K : Closed P) (r : Ring) (d : Nat) (s : State) (h : P s) : OutHas P (execProgRunTmoExpiry r d s) := by
  unfold execProgRunTmoExpiry
  repeat' first
    | with_reducible assumption | with_reducible apply pump_keeps K | with_reducible apply invocStop_keeps K.1 | split
    | dsimp -zeta only [OutHas]

theorem execKeyBlobReadDone_keeps (K : Closed P) (r : Ring) (d : Nat) (blob : Option (List Byte)) (s : State) (h : P s) : OutHas P (execKeyBlobReadDone r d blob s) := by
  unfold execKeyBlobReadDone
  repeat' first | with_reducible assumption | with_reducible apply commitOr_keeps K | dsimp -zeta only [OutHas]

theorem execRouteImageReadDone_keeps (K : Closed P) (r : Ring) (d : Nat) (img : Option (List Byte)) (s : State) (h : P s) : OutHas P (execRouteImageReadDone r d img s) := by
  unfold execRouteImageReadDone
  repeat' first | with_reducible assumption | with_reducible apply commitOr_keeps K | dsimp -zeta only [OutHas]

theorem execIssuerAccessDone_keeps (K : Closed P) (r : Ring) (d : Nat) (res : IssuerRes) (s : State) (h : P s) : OutHas P (execIssuerAccessDone r d res s) := by
  unfold execIssuerAccessDone
  repeat' first
    | with_reducible assumption | with_reducible apply pump_keeps K | with_reducible apply setStarted_keeps K.1
    | with_reducible apply finishDesc_keeps K.1 | split | dsimp -zeta only [OutHas]
    | fail_if_no_progress with_reducible refine K.lit ?_

theorem packetIn_keeps (K : Closed P) (s : State) (port : Port) (p : Pkt) (kind : Bool) (h : P s) : P (packetIn s port p kind) := by
  unfold packetIn
  repeat' first
    | with_reducible assumption | with_reducible apply pump_keeps K | with_reducible apply receive_keeps K
    | with_reducible apply ite_keeps

theorem syncCmd_keeps (K : Closed P) (s : State) (c : SyncCall) (sop : Nat) (h : P s) : P (syncCmd s c sop) := by
  unfold syncCmd
  repeat' first
    | with_reducible assumption | with_reducible apply startDesc_keeps K | with_reducible apply packetIn_keeps K
    | split

theorem execRead_keeps (K : Closed P) (port : Port) (p : Pkt) (s : State) (h : P s) : OutHas P (execRead port p s) := by
  unfold execRead
  repeat' first | with_reducible assumption | with_reducible apply packetIn_keeps K | dsimp -zeta only [OutHas]

theorem execWrite_keeps (K : Closed P) (port : Port) (p : Pkt) (s : State) (h : P s) : OutHas P (execWrite port p s) := by
  unfold execWrite
  repeat' first | with_reducible assumption | with_reducible apply packetIn_keeps K | dsimp -zeta only [OutHas]

theorem execReduceWrite_keeps (K : Closed P) (port : Port) (p : Pkt) (s : State) (h : P s) : OutHas P (execReduceWrite port p s) := by
  unfold execReduceWrite
  repeat' first | with_reducible assumption | with_reducible apply packetIn_keeps K | dsimp -zeta only [OutHas]

theorem execAtomicFadd_keeps (K : Closed P) (port : Port) (p : Pkt) (s : State) (h : P s) : OutHas P (execAtomicFadd port p s) := by
  unfold execAtomicFadd
  repeat' first | with_reducible assumption | with_reducible apply packetIn_keeps K | dsimp -zeta only [OutHas]

theorem execAtomicSwap_keeps (K : Closed P) (port : Port) (p : Pkt) (s : State) (h : P s) : OutHas P (execAtomicSwap port p s) := by
  unfold execAtomicSwap
  repeat' first | with_reducible assumption | with_reducible apply packetIn_keeps K | dsimp -zeta only [OutHas]

theorem execAtomicCas_keeps (K : Closed P) (port : Port) (p : Pkt) (s : State) (h : P s) : OutHas P (execAtomicCas port p s) := by
  unfold execAtomicCas
  repeat' first | with_reducible assumption | with_reducible apply packetIn_keeps K | dsimp -zeta only [OutHas]

theorem execAtomicUmax_keeps (K : Closed P) (port : Port) (p : Pkt) (s : State) (h : P s) : OutHas P (execAtomicUmax port p s) := by
  unfold execAtomicUmax
  repeat' first | with_reducible assumption | with_reducible apply packetIn_keeps K | dsimp -zeta only [OutHas]

theorem execSyncOp_keeps (K : Closed P) (port : Port) (p : Pkt) (s : State) (h : P s) : OutHas P (execSyncOp port p s) := by
  unfold execSyncOp
  repeat' first | with_reducible assumption | with_reducible apply packetIn_keeps K | dsimp -zeta only [OutHas]

theorem execEventPacket_keeps (K : Closed P) (port : Port) (p : Pkt) (s : State) (h : P s) : OutHas P (execEventPacket port p s) := by
  unfold execEventPacket
  repeat' first | with_reducible assumption | with_reducible apply packetIn_keeps K | dsimp -zeta only [OutHas]

theorem execReadDataRx_keeps (K : Closed P) (port : Port) (p : Pkt) (s : State) (h : P s) : OutHas P (execReadDataRx port p s) := by
  unfold execReadDataRx
  repeat' first | with_reducible assumption | with_reducible apply packetIn_keeps K | dsimp -zeta only [OutHas]

theorem execWriteAckRx_keeps (K : Closed P) (port : Port) (p : Pkt) (s : State) (h : P s) : OutHas P (execWriteAckRx port p s) := by
  unfold execWriteAckRx
  repeat' first | with_reducible assumption | with_reducible apply packetIn_keeps K | dsimp -zeta only [OutHas]

theorem execNakRx_keeps (K : Closed P) (port : Port) (p : Pkt) (s : State) (h : P s) : OutHas P (execNakRx port p s) := by
  unfold execNakRx
  repeat' first | with_reducible assumption | with_reducible apply packetIn_keeps K | dsimp -zeta only [OutHas]

theorem execErrorRespRx_keeps (K : Closed P) (port : Port) (p : Pkt) (s : State) (h : P s) : OutHas P (execErrorRespRx port p s) := by
  unfold execErrorRespRx
  repeat' first | with_reducible assumption | with_reducible apply packetIn_keeps K | dsimp -zeta only [OutHas]

theorem execAtomicRespRx_keeps (K : Closed P) (port : Port) (p : Pkt) (s : State) (h : P s) : OutHas P (execAtomicRespRx port p s) := by
  unfold execAtomicRespRx
  repeat' first | with_reducible assumption | with_reducible apply packetIn_keeps K | dsimp -zeta only [OutHas]

theorem execRouteCtlLeaving_keeps (K : Closed P) (port : Port) (p : Pkt) (s : State) (h : P s) : OutHas P (execRouteCtlLeaving port p s) := by
  unfold execRouteCtlLeaving
  repeat' first | with_reducible assumption | with_reducible apply packetIn_keeps K | dsimp -zeta only [OutHas]

theorem execRouteCtlGone_keeps (K : Closed P) (port : Port) (p : Pkt) (s : State) (h : P s) : OutHas P (execRouteCtlGone port p s) := by
  unfold execRouteCtlGone
  repeat' first | with_reducible assumption | with_reducible apply packetIn_keeps K | dsimp -zeta only [OutHas]

theorem execRouteCtlTime_keeps (K : Closed P) (port : Port) (p : Pkt) (s : State) (h : P s) : OutHas P (execRouteCtlTime port p s) := by
  unfold execRouteCtlTime
  repeat' first | with_reducible assumption | with_reducible apply packetIn_keeps K | dsimp -zeta only [OutHas]

theorem execTransitForward_keeps (K : Closed P) (port : Port) (p : Pkt) (s : State) (h : P s) : OutHas P (execTransitForward port p s) := by
  unfold execTransitForward
  repeat' first | with_reducible assumption | with_reducible apply packetIn_keeps K | dsimp -zeta only [OutHas]

theorem execMulticastReplicate_keeps (K : Closed P) (port : Port) (p : Pkt) (s : State) (h : P s) : OutHas P (execMulticastReplicate port p s) := by
  unfold execMulticastReplicate
  repeat' first | with_reducible assumption | with_reducible apply packetIn_keeps K | dsimp -zeta only [OutHas]

theorem execCohRdShared_keeps (K : Closed P) (port : Port) (p : Pkt) (s : State) (h : P s) : OutHas P (execCohRdShared port p s) := by
  unfold execCohRdShared
  repeat' first | with_reducible assumption | with_reducible apply packetIn_keeps K | dsimp -zeta only [OutHas]

theorem execCohRdOwn_keeps (K : Closed P) (port : Port) (p : Pkt) (s : State) (h : P s) : OutHas P (execCohRdOwn port p s) := by
  unfold execCohRdOwn
  repeat' first | with_reducible assumption | with_reducible apply packetIn_keeps K | dsimp -zeta only [OutHas]

theorem execCohUpgrade_keeps (K : Closed P) (port : Port) (p : Pkt) (s : State) (h : P s) : OutHas P (execCohUpgrade port p s) := by
  unfold execCohUpgrade
  repeat' first | with_reducible assumption | with_reducible apply packetIn_keeps K | dsimp -zeta only [OutHas]

theorem execCohWriteback_keeps (K : Closed P) (port : Port) (p : Pkt) (s : State) (h : P s) : OutHas P (execCohWriteback port p s) := by
  unfold execCohWriteback
  repeat' first | with_reducible assumption | with_reducible apply packetIn_keeps K | dsimp -zeta only [OutHas]

theorem execCohFwdDataRx_keeps (K : Closed P) (port : Port) (p : Pkt) (s : State) (h : P s) : OutHas P (execCohFwdDataRx port p s) := by
  unfold execCohFwdDataRx
  repeat' first | with_reducible assumption | with_reducible apply packetIn_keeps K | dsimp -zeta only [OutHas]

theorem execCohAck_keeps (K : Closed P) (port : Port) (p : Pkt) (s : State) (h : P s) : OutHas P (execCohAck port p s) := by
  unfold execCohAck
  repeat' first | with_reducible assumption | with_reducible apply packetIn_keeps K | dsimp -zeta only [OutHas]

theorem execDoorbellPacket_keeps (K : Closed P) (port : Port) (p : Pkt) (s : State) (h : P s) : OutHas P (execDoorbellPacket port p s) := by
  unfold execDoorbellPacket
  repeat' first | with_reducible assumption | with_reducible apply packetIn_keeps K | dsimp -zeta only [OutHas]

theorem execSopRead_keeps (K : Closed P) (c : SyncCall) (s : State) (h : P s) : OutHas P (execSopRead c s) := by
  unfold execSopRead
  repeat' first | with_reducible assumption | with_reducible apply syncCmd_keeps K | dsimp -zeta only [OutHas]

theorem execInitCounter_keeps (K : Closed P) (c : SyncCall) (s : State) (h : P s) : OutHas P (execInitCounter c s) := by
  unfold execInitCounter
  repeat' first | with_reducible assumption | with_reducible apply syncCmd_keeps K | dsimp -zeta only [OutHas]

theorem execInitSem_keeps (K : Closed P) (c : SyncCall) (s : State) (h : P s) : OutHas P (execInitSem c s) := by
  unfold execInitSem
  repeat' first | with_reducible assumption | with_reducible apply syncCmd_keeps K | dsimp -zeta only [OutHas]

theorem execInitBarrier_keeps (K : Closed P) (c : SyncCall) (s : State) (h : P s) : OutHas P (execInitBarrier c s) := by
  unfold execInitBarrier
  repeat' first | with_reducible assumption | with_reducible apply syncCmd_keeps K | dsimp -zeta only [OutHas]

theorem execArmSet_keeps (K : Closed P) (c : SyncCall) (s : State) (h : P s) : OutHas P (execArmSet c s) := by
  unfold execArmSet
  repeat' first | with_reducible assumption | with_reducible apply syncCmd_keeps K | dsimp -zeta only [OutHas]

theorem execSopFree_keeps (K : Closed P) (c : SyncCall) (s : State) (h : P s) : OutHas P (execSopFree c s) := by
  unfold execSopFree
  repeat' first | with_reducible assumption | with_reducible apply syncCmd_keeps K | dsimp -zeta only [OutHas]

theorem execSopAdd_keeps (K : Closed P) (c : SyncCall) (s : State) (h : P s) : OutHas P (execSopAdd c s) := by
  unfold execSopAdd
  repeat' first | with_reducible assumption | with_reducible apply syncCmd_keeps K | dsimp -zeta only [OutHas]

theorem execStore_keeps (K : Closed P) (c : SyncCall) (s : State) (h : P s) : OutHas P (execStore c s) := by
  unfold execStore
  repeat' first | with_reducible assumption | with_reducible apply syncCmd_keeps K | dsimp -zeta only [OutHas]

theorem execStoreLo_keeps (K : Closed P) (c : SyncCall) (s : State) (h : P s) : OutHas P (execStoreLo c s) := by
  unfold execStoreLo
  repeat' first | with_reducible assumption | with_reducible apply syncCmd_keeps K | dsimp -zeta only [OutHas]

theorem execSopMax_keeps (K : Closed P) (c : SyncCall) (s : State) (h : P s) : OutHas P (execSopMax c s) := by
  unfold execSopMax
  repeat' first | with_reducible assumption | with_reducible apply syncCmd_keeps K | dsimp -zeta only [OutHas]

theorem execArrive_keeps (K : Closed P) (c : SyncCall) (s : State) (h : P s) : OutHas P (execArrive c s) := by
  unfold execArrive
  repeat' first | with_reducible assumption | with_reducible apply syncCmd_keeps K | dsimp -zeta only [OutHas]

theorem execPost_keeps (K : Closed P) (c : SyncCall) (s : State) (h : P s) : OutHas P (execPost c s) := by
  unfold execPost
  repeat' first | with_reducible assumption | with_reducible apply syncCmd_keeps K | dsimp -zeta only [OutHas]

theorem execTake_keeps (K : Closed P) (c : SyncCall) (s : State) (h : P s) : OutHas P (execTake c s) := by
  unfold execTake
  repeat' first | with_reducible assumption | with_reducible apply syncCmd_keeps K | dsimp -zeta only [OutHas]

theorem execCancel_keeps (K : Closed P) (c : SyncCall) (s : State) (h : P s) : OutHas P (execCancel c s) := by
  unfold execCancel
  repeat' first | with_reducible assumption | with_reducible apply syncCmd_keeps K | dsimp -zeta only [OutHas]

theorem execSnoopTmoExpiry_keeps (K : Closed P) (line : Nat) (s : State) (h : P s) : OutHas P (execSnoopTmoExpiry line s) := by
  unfold execSnoopTmoExpiry
  repeat' first
    | with_reducible assumption | with_reducible apply pump_keeps K | with_reducible apply snoopTmo_keeps K
    | dsimp -zeta only [OutHas]

theorem execBackoffReservationExpiry_keeps (K : Regular P) (line : Nat) (s : State) (h : P s) : OutHas P (execBackoffReservationExpiry line s) := by
  unfold execBackoffReservationExpiry
  repeat' first | with_reducible assumption | with_reducible apply backoffEnd_keeps K | dsimp -zeta only [OutHas]

theorem execE2eTmoExpiry_keeps (K : Regular P) (id : Nat) (s : State) (h : P s) : OutHas P (execE2eTmoExpiry id s) := by
  unfold execE2eTmoExpiry
  repeat' first
    | with_reducible assumption | with_reducible apply resendOwn_keeps K | split | dsimp -zeta only [OutHas]

theorem execRetryAfterExpiry_keeps (K : Closed P) (id : Nat) (s : State) (h : P s) : OutHas P (execRetryAfterExpiry id s) := by
  unfold execRetryAfterExpiry
  repeat' first
    | with_reducible assumption
    | (extract_lets +onlyGivenNames t0
       refine imp_elim (p := P t0) ?_ ?_
       on_goal 1 => (unfold t0; clear t0)
       on_goal 2 => (clear_value t0; revert t0; intro _ _))
    | (extract_lets +onlyGivenNames n0
       clear_value n0; revert n0; intro _)
    | with_reducible apply resendOwn_keeps K.1 | with_reducible apply pump_keeps K
    | with_reducible apply setStarted_keeps K.1 | split | dsimp -zeta only [OutHas]
    | fail_if_no_progress with_reducible refine K.lit ?_

theorem execAnswerCacheExpiry_keeps (K : Regular P) (sl : Slice) (src seq ctag : Nat) (t : State) (h : P t) : OutHas P (execAnswerCacheExpiry sl src seq ctag t) := by
  unfold execAnswerCacheExpiry
  repeat' first
    | with_reducible assumption | dsimp -zeta only [OutHas] | fail_if_no_progress with_reducible refine K.lit ?_

theorem execCommitAtReached_keeps (K : Closed P) (s : State) (h : P s) : OutHas P (execCommitAtReached s) := by
  unfold execCommitAtReached
  repeat' first
    | with_reducible assumption | with_reducible apply pump_keeps K | with_reducible apply commitAt_keeps K.1 | split
    | dsimp -zeta only [OutHas]

theorem execEpochHoldExpiry_keeps (K : Regular P) (s : State) (h : P s) : OutHas P (execEpochHoldExpiry s) := by
  unfold execEpochHoldExpiry
  repeat' first
    | with_reducible assumption | with_reducible apply holdEnd_keeps K | split | dsimp -zeta only [OutHas]

theorem execDrainEnd_keeps (K : Closed P) (s : State) (h : P s) : OutHas P (execDrainEnd s) := by
  unfold execDrainEnd
  repeat' first
    | with_reducible assumption | with_reducible apply pump_keeps K | with_reducible apply drainEnd_keeps K | split
    | dsimp -zeta only [OutHas]

theorem execTimeSendTick_keeps (K : Regular P) (s : State) (h : P s) : OutHas P (execTimeSendTick s) := by
  unfold execTimeSendTick
  repeat' first
    | with_reducible assumption | intro _ | with_reducible apply enqueue_keeps K | with_reducible apply foldl_keeps
    | with_reducible apply ite_keeps | dsimp -zeta only [OutHas]

theorem execTimeLossExpiry_keeps (K : Regular P) (s : State) (h : P s) : OutHas P (execTimeLossExpiry s) := by
  unfold execTimeLossExpiry
  repeat' first
    | with_reducible assumption | with_reducible apply guardAll_keeps K | with_reducible apply State.wr_keeps K
    | with_reducible apply ite_keeps | dsimp -zeta only [OutHas]
    | fail_if_no_progress with_reducible refine K.lit ?_

end Sys2Proof.Machine
end

