-- ==== Sys2Proof/Laws/KeepExec.lean ====
section
/-!
SUPPORT. Sys2Proof/Laws/KeepExec.lean: a closed property is kept by each operation of the other commands.
-/
namespace Sys2Proof.Machine

variable {P : State → Prop}

theorem execElderHeartbeat_keeps (K : Regular P) (b : Bool) (s : State) (h : P s) : OutHas P (execElderHeartbeat b s) := by
  unfold execElderHeartbeat
  repeat' first
    | with_reducible assumption | dsimp -zeta only [OutHas] | fail_if_no_progress with_reducible refine K.lit ?_

theorem execHbTmoExpiry_keeps (K : Closed P) (b : Bool) (s : State) (h : P s) : OutHas P (execHbTmoExpiry b s) := by
  unfold execHbTmoExpiry
  repeat' first | with_reducible assumption | with_reducible apply hbLate_keeps K | dsimp -zeta only [OutHas]

theorem execSelfcheckReport_keeps (K : Closed P) (b : Bool) (code : Nat) (s : State) (h : P s) : OutHas P (execSelfcheckReport b code s) := by
  unfold execSelfcheckReport
  repeat' first | with_reducible assumption | with_reducible apply selfCheck_keeps K | dsimp -zeta only [OutHas]

theorem execSelfcheckTmoExpiry_keeps (K : Closed P) (b : Bool) (s : State) (h : P s) : OutHas P (execSelfcheckTmoExpiry b s) := by
  unfold execSelfcheckTmoExpiry
  repeat' first | with_reducible assumption | with_reducible apply selfCheck_keeps K | dsimp -zeta only [OutHas]

theorem execFreezeMaxExpiry_keeps (K : Closed P) (s : State) (h : P s) : OutHas P (execFreezeMaxExpiry s) := by
  unfold execFreezeMaxExpiry
  repeat' first | with_reducible assumption | with_reducible apply freezeLate_keeps K | dsimp -zeta only [OutHas]

theorem execCommitProposal_keeps (K : Closed P) (x0 b : Option Proposal) (s : State) (h : P s) : OutHas P (execCommitProposal x0 b s) := by
  unfold execCommitProposal
  repeat' first | with_reducible assumption | with_reducible apply propose_keeps K | dsimp -zeta only [OutHas]

theorem execElderRearm_keeps (K : Regular P) (v : Word) (s : State) (h : P s) : OutHas P (execElderRearm v s) := by
  unfold execElderRearm
  repeat' first
    | with_reducible assumption | with_reducible apply atPf0_keeps K | with_reducible apply eldCtlWrite_keeps K
    | dsimp -zeta only [OutHas]

theorem execResyncStepDone_keeps (K : Regular P) (code entries : Nat) (s : State) (h : P s) : OutHas P (execResyncStepDone code entries s) := by
  unfold execResyncStepDone
  repeat' first | with_reducible assumption | with_reducible apply resyncStep_keeps K | dsimp -zeta only [OutHas]

theorem execHandover_keeps (K : Regular P) (v : Word) (s : State) (h : P s) : OutHas P (execHandover v s) := by
  unfold execHandover
  repeat' first
    | with_reducible assumption | with_reducible apply atPf0_keeps K | with_reducible apply eldCtlWrite_keeps K
    | dsimp -zeta only [OutHas]

theorem execEldCntClr_keeps (K : Regular P) (v : Word) (s : State) (h : P s) : OutHas P (execEldCntClr v s) := by
  unfold execEldCntClr
  repeat' first
    | with_reducible assumption | with_reducible apply atPf0_keeps K | with_reducible apply eldCntClr_keeps K
    | dsimp -zeta only [OutHas]

theorem execPrtCorEnWrite_keeps (K : Regular P) (p : Part) (k : Fin 16) (v : Word) (s : State) (h : P s) : OutHas P (execPrtCorEnWrite p k v s) := by
  unfold execPrtCorEnWrite
  repeat' first
    | with_reducible assumption | with_reducible apply atPf0_keeps K | with_reducible apply corCtlWrite_keeps K
    | dsimp -zeta only [OutHas]

theorem execPrtSrSeedWrite_keeps (K : Regular P) (p : Part) (v : Word) (s : State) (h : P s) : OutHas P (execPrtSrSeedWrite p v s) := by
  unfold execPrtSrSeedWrite
  repeat' first
    | with_reducible assumption | with_reducible apply atPf0_keeps K | with_reducible apply seedWrite_keeps K
    | dsimp -zeta only [OutHas]

theorem execArithDescClr_keeps (K : Regular P) (p : Part) (v : Word) (s : State) (h : P s) : OutHas P (execArithDescClr p v s) := by
  unfold execArithDescClr
  repeat' first
    | with_reducible assumption | with_reducible apply atPf0_keeps K | with_reducible apply arithStatWrite_keeps K
    | dsimp -zeta only [OutHas]

theorem execPrtXltStatClr_keeps (K : Regular P) (p : Part) (v : Word) (s : State) (h : P s) : OutHas P (execPrtXltStatClr p v s) := by
  unfold execPrtXltStatClr
  repeat' first
    | with_reducible assumption | with_reducible apply atPf0_keeps K | with_reducible apply xltStatClr_keeps K
    | dsimp -zeta only [OutHas]

theorem execProgLoadGo_keeps (K : Regular P) (p : Part) (v : Word) (s : State) (h : P s) : OutHas P (execProgLoadGo p v s) := by
  unfold execProgLoadGo
  repeat' first
    | with_reducible assumption | with_reducible apply atPf0_keeps K | with_reducible apply progLoadWrite_keeps K
    | dsimp -zeta only [OutHas]

theorem execProgClear_keeps (K : Regular P) (p : Part) (v : Word) (s : State) (h : P s) : OutHas P (execProgClear p v s) := by
  unfold execProgClear
  repeat' first
    | with_reducible assumption | with_reducible apply atPf0_keeps K | with_reducible apply progLoadWrite_keeps K
    | dsimp -zeta only [OutHas]

theorem execProgImageReadDone_keeps (K : Closed P) (p : Part) (s : State) (h : P s) : OutHas P (execProgImageReadDone p s) := by
  unfold execProgImageReadDone
  repeat' first | with_reducible assumption | with_reducible apply loadRun_keeps K | dsimp -zeta only [OutHas]

theorem execPrtRgnEnWrite_keeps (K : Regular P) (p : Part) (region : Fin 1024) (v : Word) (s : State) (h : P s) : OutHas P (execPrtRgnEnWrite p region v s) := by
  unfold execPrtRgnEnWrite
  repeat' first
    | with_reducible assumption | with_reducible apply atPf0_keeps K | with_reducible apply rgnCfgWrite_keeps K
    | dsimp -zeta only [OutHas]

theorem execPrtRgnClr_keeps (K : Regular P) (p : Part) (v : Word) (s : State) (h : P s) : OutHas P (execPrtRgnClr p v s) := by
  unfold execPrtRgnClr
  repeat' first
    | with_reducible assumption | with_reducible apply atPf0_keeps K | with_reducible apply rgnClr_keeps K
    | dsimp -zeta only [OutHas]

theorem execPrtSyncClr_keeps (K : Regular P) (p : Part) (v : Word) (s : State) (h : P s) : OutHas P (execPrtSyncClr p v s) := by
  unfold execPrtSyncClr
  repeat' first
    | with_reducible assumption | with_reducible apply atPf0_keeps K | with_reducible apply syncClr_keeps K
    | dsimp -zeta only [OutHas]

theorem execPrtSecClr_keeps (K : Regular P) (p : Part) (v : Word) (s : State) (h : P s) : OutHas P (execPrtSecClr p v s) := by
  unfold execPrtSecClr
  repeat' first
    | with_reducible assumption | with_reducible apply atPf0_keeps K | with_reducible apply secClr_keeps K
    | dsimp -zeta only [OutHas]

theorem execRngEnable_keeps (K : Closed P) (r : Ring) (v : Word) (s : State) (h : P s) : OutHas P (execRngEnable r v s) := by
  unfold execRngEnable
  repeat' first
    | with_reducible assumption | with_reducible apply atPf0_keeps K.1 | with_reducible apply pump_keeps K
    | with_reducible apply rngCtlWrite_keeps K.1 | dsimp -zeta only [OutHas]

theorem execRngStop_keeps (K : Closed P) (r : Ring) (v : Word) (s : State) (h : P s) : OutHas P (execRngStop r v s) := by
  unfold execRngStop
  repeat' first
    | with_reducible assumption | with_reducible apply atPf0_keeps K.1 | with_reducible apply pump_keeps K
    | with_reducible apply rngCtlWrite_keeps K.1 | dsimp -zeta only [OutHas]

theorem execApertureRead_keeps (K : Closed P) (func : Fin 17) (win : Fin 16) (off lines : Nat) (s : State) (h : P s) : OutHas P (execApertureRead func win off lines s) := by
  unfold execApertureRead
  repeat' first | with_reducible assumption | with_reducible apply aptReadGo_keeps K | dsimp -zeta only [OutHas]

theorem execApertureWrite_keeps (K : Closed P) (func : Fin 17) (win : Fin 16) (off : Nat) (data : List Byte) (s : State) (h : P s) : OutHas P (execApertureWrite func win off data s) := by
  unfold execApertureWrite
  repeat' first | with_reducible assumption | with_reducible apply aptWriteGo_keeps K | dsimp -zeta only [OutHas]

theorem execHostReqNoBar_keeps (K : Regular P) (func : Fin 17) (_addr : Nat) (s : State) (h : P s) : OutHas P (execHostReqNoBar func _addr s) := by
  unfold execHostReqNoBar
  repeat' first | with_reducible assumption | with_reducible apply State.emit_keeps K | dsimp -zeta only [OutHas]

theorem execHostLinkDown_keeps (K : Regular P) (s : State) (h : P s) : OutHas P (execHostLinkDown s) := by
  unfold execHostLinkDown
  repeat' first
    | with_reducible assumption | dsimp -zeta only [OutHas] | fail_if_no_progress with_reducible refine K.lit ?_

theorem execHostLinkUp_keeps (K : Regular P) (s : State) (h : P s) : OutHas P (execHostLinkUp s) := by
  unfold execHostLinkUp
  repeat' first
    | with_reducible assumption | dsimp -zeta only [OutHas] | fail_if_no_progress with_reducible refine K.lit ?_

theorem execSupplySampleTick_keeps (K : Closed P) (volts amps : List Int) (s : State) (h : P s) : OutHas P (execSupplySampleTick volts amps s) := by
  unfold execSupplySampleTick
  repeat' first | with_reducible assumption | with_reducible apply supplySample_keeps K | dsimp -zeta only [OutHas]

theorem execTempSensorTick_keeps (K : Regular P) (readings : List Int) (s : State) (h : P s) : OutHas P (execTempSensorTick readings s) := by
  unfold execTempSensorTick
  repeat' first | with_reducible assumption | with_reducible apply tempSample_keeps K | dsimp -zeta only [OutHas]

theorem execGovernorTick_keeps (K : Regular P) (s : State) (h : P s) : OutHas P (execGovernorTick s) := by
  unfold execGovernorTick
  repeat' first | with_reducible assumption | with_reducible apply governTick_keeps K | dsimp -zeta only [OutHas]

theorem execGovEventWindow_keeps (K : Regular P) (s : State) (h : P s) : OutHas P (execGovEventWindow s) := by
  unfold execGovEventWindow
  repeat' first | with_reducible assumption | with_reducible apply govWindow_keeps K | dsimp -zeta only [OutHas]

theorem execVoltageSettled_keeps (K : Regular P) (w : Ward) (s : State) (h : P s) : OutHas P (execVoltageSettled w s) := by
  unfold execVoltageSettled
  repeat' first | with_reducible assumption | with_reducible apply voltSettled_keeps K | dsimp -zeta only [OutHas]

theorem execVoltageSettleTmoExpiry_keeps (K : Regular P) (w : Ward) (s : State) (h : P s) : OutHas P (execVoltageSettleTmoExpiry w s) := by
  unfold execVoltageSettleTmoExpiry
  repeat' first | with_reducible assumption | with_reducible apply voltLate_keeps K | dsimp -zeta only [OutHas]

theorem execAvsCurrentPoll_keeps (K : Regular P) (bus : Fin 5) (ok : Bool) (amps : List Nat) (s : State) (h : P s) : OutHas P (execAvsCurrentPoll bus ok amps s) := by
  unfold execAvsCurrentPoll
  repeat' first | with_reducible assumption | with_reducible apply avsPoll_keeps K | dsimp -zeta only [OutHas]

theorem execAvsRetryTick_keeps (K : Regular P) (bus : Fin 5) (ok : Bool) (s : State) (h : P s) : OutHas P (execAvsRetryTick bus ok s) := by
  unfold execAvsRetryTick
  repeat' first | with_reducible assumption | with_reducible apply avsRetry_keeps K | dsimp -zeta only [OutHas]

theorem execSmbusClockTimeout_keeps (K : Regular P) (s : State) (h : P s) : OutHas P (execSmbusClockTimeout s) := by
  unfold execSmbusClockTimeout
  repeat' first | with_reducible assumption | dsimp -zeta only [OutHas]

theorem execGetVersion_keeps (K : Regular P) (_msg : List Byte) (s : State) (h : P s) : OutHas P (execGetVersion _msg s) := by
  unfold execGetVersion
  repeat' first | with_reducible assumption | with_reducible apply spdmVersion_keeps K | dsimp -zeta only [OutHas]

theorem execGetCapabilities_keeps (K : Regular P) (_msg : List Byte) (s : State) (h : P s) : OutHas P (execGetCapabilities _msg s) := by
  unfold execGetCapabilities
  repeat' first
    | with_reducible assumption | with_reducible apply spdmCapabilities_keeps K | dsimp -zeta only [OutHas]

theorem execNegotiateAlgorithms_keeps (K : Regular P) (_msg : List Byte) (s : State) (h : P s) : OutHas P (execNegotiateAlgorithms _msg s) := by
  unfold execNegotiateAlgorithms
  repeat' first
    | with_reducible assumption | with_reducible apply spdmAlgorithms_keeps K | dsimp -zeta only [OutHas]

theorem execGetDigests_keeps (K : Regular P) (_msg : List Byte) (s : State) (h : P s) : OutHas P (execGetDigests _msg s) := by
  unfold execGetDigests
  repeat' first | with_reducible assumption | with_reducible apply spdmDigests_keeps K | dsimp -zeta only [OutHas]

theorem execGetCertificate_keeps (K : Regular P) (msg : List Byte) (s : State) (h : P s) : OutHas P (execGetCertificate msg s) := by
  unfold execGetCertificate
  repeat' first
    | with_reducible assumption | with_reducible apply spdmCertificate_keeps K | dsimp -zeta only [OutHas]

theorem execChallenge_keeps (K : Regular P) (msg : List Byte) (s : State) (h : P s) : OutHas P (execChallenge msg s) := by
  unfold execChallenge
  repeat' first
    | with_reducible assumption | with_reducible apply spdmChallenge_keeps K | dsimp -zeta only [OutHas]

theorem execGetMeasurements_keeps (K : Regular P) (msg : List Byte) (s : State) (h : P s) : OutHas P (execGetMeasurements msg s) := by
  unfold execGetMeasurements
  repeat' first
    | with_reducible assumption | with_reducible apply spdmMeasurements_keeps K | dsimp -zeta only [OutHas]

theorem execKeyExchange_keeps (K : Regular P) (msg : List Byte) (s : State) (h : P s) : OutHas P (execKeyExchange msg s) := by
  unfold execKeyExchange
  repeat' first
    | with_reducible assumption | with_reducible apply spdmKeyExchange_keeps K | dsimp -zeta only [OutHas]

theorem execFinish_keeps (K : Regular P) (msg : List Byte) (s : State) (h : P s) : OutHas P (execFinish msg s) := by
  unfold execFinish
  repeat' first | with_reducible assumption | with_reducible apply spdmFinish_keeps K | dsimp -zeta only [OutHas]

theorem execHeartbeatSpdm_keeps (K : Regular P) (msg : List Byte) (s : State) (h : P s) : OutHas P (execHeartbeatSpdm msg s) := by
  unfold execHeartbeatSpdm
  repeat' first
    | with_reducible assumption | with_reducible apply spdmInSession_keeps K | dsimp -zeta only [OutHas]

theorem execKeyUpdate_keeps (K : Regular P) (msg : List Byte) (s : State) (h : P s) : OutHas P (execKeyUpdate msg s) := by
  unfold execKeyUpdate
  repeat' first
    | with_reducible assumption | with_reducible apply spdmInSession_keeps K | dsimp -zeta only [OutHas]

theorem execEndSession_keeps (K : Regular P) (msg : List Byte) (s : State) (h : P s) : OutHas P (execEndSession msg s) := by
  unfold execEndSession
  repeat' first | with_reducible assumption | with_reducible apply spdmEnd_keeps K | dsimp -zeta only [OutHas]

theorem execVendorDefinedRequest_keeps (K : Regular P) (msg : List Byte) (s : State) (h : P s) : OutHas P (execVendorDefinedRequest msg s) := by
  unfold execVendorDefinedRequest
  repeat' first | with_reducible assumption | with_reducible apply spdmVendor_keeps K | dsimp -zeta only [OutHas]

theorem execUnlockReq_keeps (K : Regular P) (s : State) (h : P s) : OutHas P (execUnlockReq s) := by
  unfold execUnlockReq
  repeat' first | with_reducible assumption | with_reducible apply unlockReq_keeps K | dsimp -zeta only [OutHas]

theorem execUnlockToken_keeps (K : Closed P) (token : List Byte) (s : State) (h : P s) : OutHas P (execUnlockToken token s) := by
  unfold execUnlockToken
  repeat' first | with_reducible assumption | with_reducible apply unlockToken_keeps K | dsimp -zeta only [OutHas]

theorem execTapInstruction_keeps (K : Regular P) (ir : BitVec 8) (s : State) (h : P s) : OutHas P (execTapInstruction ir s) := by
  unfold execTapInstruction
  repeat' first | with_reducible assumption | with_reducible apply tapInstr_keeps K | dsimp -zeta only [OutHas]

theorem execTestPortReset_keeps (K : Regular P) (s : State) (h : P s) : OutHas P (execTestPortReset s) := by
  unfold execTestPortReset
  repeat' first | with_reducible assumption | with_reducible apply tapReset_keeps K | dsimp -zeta only [OutHas]

theorem execSecFwAdvance_keeps (K : Regular P) (v : Word) (s : State) (h : P s) : OutHas P (execSecFwAdvance v s) := by
  unfold execSecFwAdvance
  repeat' first
    | with_reducible assumption | with_reducible apply atPf0_keeps K | with_reducible apply secFwWrite_keeps K
    | dsimp -zeta only [OutHas]

theorem execSecFwRevoke_keeps (K : Regular P) (v : Word) (s : State) (h : P s) : OutHas P (execSecFwRevoke v s) := by
  unfold execSecFwRevoke
  repeat' first
    | with_reducible assumption | with_reducible apply atPf0_keeps K | with_reducible apply secFwWrite_keeps K
    | dsimp -zeta only [OutHas]

theorem execDoorbellPidxWrite_keeps (K : Closed P) (func : Fin 17) (page : Ring) (v : BitVec 32) (s : State) (h : P s) : OutHas P (execDoorbellPidxWrite func page v s) := by
  unfold execDoorbellPidxWrite
  repeat' first
    | with_reducible assumption | with_reducible apply pump_keeps K | with_reducible apply doorbell_keeps K.1
    | with_reducible apply awaitApt_keeps K.1 | with_reducible apply dbError_keeps K | split
    | dsimp -zeta only [OutHas]

theorem execDoorbellCcidxWrite_keeps (K : Closed P) (func : Fin 17) (page : Ring) (v : BitVec 32) (s : State) (h : P s) : OutHas P (execDoorbellCcidxWrite func page v s) := by
  unfold execDoorbellCcidxWrite
  repeat' first
    | with_reducible assumption | with_reducible apply pump_keeps K | with_reducible apply doorbell_keeps K.1
    | with_reducible apply dbError_keeps K | split | dsimp -zeta only [OutHas]

theorem execDescFetchDone_keeps (K : Closed P) (r : Ring) (descs : List (List Word)) (s : State) (h : P s) : OutHas P (execDescFetchDone r descs s) := by
  unfold execDescFetchDone
  repeat' first
    | with_reducible assumption | with_reducible apply pump_keeps K | with_reducible apply fetchDone_keeps K.1
    | with_reducible apply ite_keeps | dsimp -zeta only [OutHas]

theorem execRingFetchTmoExpiry_keeps (K : Closed P) (r : Ring) (write : Bool) (s : State) (h : P s) : OutHas P (execRingFetchTmoExpiry r write s) := by
  unfold execRingFetchTmoExpiry
  repeat' first
    | with_reducible assumption | with_reducible apply pump_keeps K | with_reducible apply writeFail_keeps K.1
    | with_reducible apply fetchFail_keeps K.1 | with_reducible apply ite_keeps | dsimp -zeta only [OutHas]

theorem execNotifyTimeExpiry_keeps (K : Regular P) (r : Ring) (s : State) (h : P s) : OutHas P (execNotifyTimeExpiry r s) := by
  unfold execNotifyTimeExpiry
  repeat' first
    | with_reducible assumption | with_reducible apply notifyRing_keeps K
    | with_reducible apply State.setRingX_keeps K | with_reducible apply ite_keeps | dsimp -zeta only [OutHas]

theorem execRingWdogExpiry_keeps (K : Regular P) (r : Ring) (s : State) (h : P s) : OutHas P (execRingWdogExpiry r s) := by
  unfold execRingWdogExpiry
  repeat' first
    | with_reducible assumption | with_reducible apply evOwner_keeps K | with_reducible apply State.setRingX_keeps K
    | with_reducible apply ite_keeps | dsimp -zeta only [OutHas]

theorem execWedgeExpiry_keeps (K : Regular P) (r : Ring) (s : State) (h : P s) : OutHas P (execWedgeExpiry r s) := by
  unfold execWedgeExpiry
  repeat' first
    | with_reducible assumption | with_reducible apply evOwner_keeps K | with_reducible apply State.setRingX_keeps K
    | with_reducible apply evPf0_keeps K | with_reducible apply ite_keeps | dsimp -zeta only [OutHas]

theorem execPowerOn_keeps (K : Regular P) (s : State) (h : P s) : OutHas P (execPowerOn s) := by
  unfold execPowerOn
  repeat' first | with_reducible assumption | with_reducible apply powerOn_keeps K | dsimp -zeta only [OutHas]

theorem powerLoss_keeps (K : Closed P) (s : State) (h : P s) : P (powerLoss s) := by
  unfold powerLoss
  repeat' first
    | with_reducible assumption | with_reducible apply chipClear_keeps K
    | fail_if_no_progress with_reducible refine K.lit ?_

theorem execVddAonLoss_keeps (K : Closed P) (s : State) (h : P s) : OutHas P (execVddAonLoss s) := by
  unfold execVddAonLoss
  repeat' first | with_reducible assumption | with_reducible apply powerLoss_keeps K | dsimp -zeta only [OutHas]

theorem pinLow_keeps (K : Regular P) (s : State) (k : Nat) (low : Bool) (h : P s) : P (pinLow s k low) := by
  unfold pinLow
  repeat' first | with_reducible assumption | fail_if_no_progress with_reducible refine K.lit ?_

theorem coldPin_keeps (K : Closed P) (s : State) (low : Bool) (h : P s) : P (coldPin s low) := by
  unfold coldPin
  repeat' first
    | with_reducible assumption | with_reducible apply pinLow_keeps K.1 | with_reducible apply deepExit_keeps K
    | with_reducible apply resetAsk_keeps K | with_reducible apply ite_keeps
    | fail_if_no_progress with_reducible refine K.lit ?_

theorem execColdRstPin_keeps (K : Closed P) (low : Bool) (s : State) (h : P s) : OutHas P (execColdRstPin low s) := by
  unfold execColdRstPin
  repeat' first | with_reducible assumption | with_reducible apply coldPin_keeps K | dsimp -zeta only [OutHas]

theorem warmPin_keeps (K : Closed P) (s : State) (low : Bool) (h : P s) : P (warmPin s low) := by
  unfold warmPin
  repeat' first
    | with_reducible assumption | with_reducible apply pinLow_keeps K.1 | with_reducible apply resetAsk_keeps K
    | with_reducible apply ite_keeps

theorem execWarmRstPin_keeps (K : Closed P) (low : Bool) (s : State) (h : P s) : OutHas P (execWarmRstPin low s) := by
  unfold execWarmRstPin
  repeat' first | with_reducible assumption | with_reducible apply warmPin_keeps K | dsimp -zeta only [OutHas]

theorem perstLow_keeps (K : Closed P) (s : State) (h : P s) : P (perstLow s) := by
  unfold perstLow
  repeat' first
    | with_reducible assumption | with_reducible apply pinLow_keeps K.1 | with_reducible apply msixReset_keeps K.1
    | with_reducible apply resetAsk_keeps K | with_reducible apply foldl_keeps | with_reducible apply ite_keeps
    | fail_if_no_progress with_reducible refine K.lit ?_

theorem execPerstLow_keeps (K : Closed P) (s : State) (h : P s) : OutHas P (execPerstLow s) := by
  unfold execPerstLow
  repeat' first | with_reducible assumption | with_reducible apply perstLow_keeps K | dsimp -zeta only [OutHas]

theorem execPerstHigh_keeps (K : Regular P) (s : State) (h : P s) : OutHas P (execPerstHigh s) := by
  unfold execPerstHigh
  repeat' first | with_reducible assumption | with_reducible apply pinLow_keeps K | dsimp -zeta only [OutHas]

theorem execPreconditionsHeld_keeps (K : Regular P) (s : State) (h : P s) : OutHas P (execPreconditionsHeld s) := by
  unfold execPreconditionsHeld
  repeat' first
    | with_reducible assumption | with_reducible apply preconditions_keeps K | dsimp -zeta only [OutHas]

theorem execStartStepDone_keeps (K : Regular P) (r : StepReport) (s : State) (h : P s) : OutHas P (execStartStepDone r s) := by
  unfold execStartStepDone
  repeat' first
    | with_reducible assumption | with_reducible apply startStepDone_keeps K | dsimp -zeta only [OutHas]

theorem execStartStepTmoExpiry_keeps (K : Regular P) (s : State) (h : P s) : OutHas P (execStartStepTmoExpiry s) := by
  unfold execStartStepTmoExpiry
  repeat' first | with_reducible assumption | with_reducible apply startTmo_keeps K | dsimp -zeta only [OutHas]

theorem execRecoveryGo_keeps (K : Regular P) (v : Word) (s : State) (h : P s) : OutHas P (execRecoveryGo v s) := by
  unfold execRecoveryGo
  repeat' first | with_reducible assumption | with_reducible apply recoveryGo_keeps K | dsimp -zeta only [OutHas]

theorem execRecoveryFetchDone_keeps (K : Regular P) (ok : Bool) (svn keysel : Nat) (s : State) (h : P s) : OutHas P (execRecoveryFetchDone ok svn keysel s) := by
  unfold execRecoveryFetchDone
  repeat' first | with_reducible assumption | with_reducible apply recoveryDone_keeps K | dsimp -zeta only [OutHas]

theorem execRecoveryWaitExpiry_keeps (K : Regular P) (s : State) (h : P s) : OutHas P (execRecoveryWaitExpiry s) := by
  unfold execRecoveryWaitExpiry
  repeat' first
    | with_reducible assumption | with_reducible apply hostFail_keeps K | with_reducible apply ite_keeps
    | dsimp -zeta only [OutHas]

theorem execTallyCopyTick_keeps (K : Regular P) (s : State) (h : P s) : OutHas P (execTallyCopyTick s) := by
  unfold execTallyCopyTick
  repeat' first
    | with_reducible assumption | with_reducible apply tallyCopy_keeps K | with_reducible apply ite_keeps
    | dsimp -zeta only [OutHas]

theorem execTallyForget_keeps (K : Regular P) (v : Word) (s : State) (h : P s) : OutHas P (execTallyForget v s) := by
  unfold execTallyForget
  repeat' first | with_reducible assumption | with_reducible apply chipCfgWrite_keeps K | dsimp -zeta only [OutHas]

theorem execResetCold_keeps (K : Closed P) (v : Word) (s : State) (h : P s) : OutHas P (execResetCold v s) := by
  unfold execResetCold
  repeat' first | with_reducible assumption | with_reducible apply rstCtlWrite_keeps K | dsimp -zeta only [OutHas]

theorem execResetWarm_keeps (K : Closed P) (v : Word) (s : State) (h : P s) : OutHas P (execResetWarm v s) := by
  unfold execResetWarm
  repeat' first | with_reducible assumption | with_reducible apply rstCtlWrite_keeps K | dsimp -zeta only [OutHas]

theorem execResetPool_keeps (K : Closed P) (v : Word) (s : State) (h : P s) : OutHas P (execResetPool v s) := by
  unfold execResetPool
  repeat' first | with_reducible assumption | with_reducible apply rstCtlWrite_keeps K | dsimp -zeta only [OutHas]

theorem execResetWard_keeps (K : Closed P) (v : Word) (s : State) (h : P s) : OutHas P (execResetWard v s) := by
  unfold execResetWard
  repeat' first | with_reducible assumption | with_reducible apply rstCtlWrite_keeps K | dsimp -zeta only [OutHas]

theorem execResetPart_keeps (K : Closed P) (v : Word) (s : State) (h : P s) : OutHas P (execResetPart v s) := by
  unfold execResetPart
  repeat' first | with_reducible assumption | with_reducible apply rstCtlWrite_keeps K | dsimp -zeta only [OutHas]

theorem vfFlr_keeps (K : Closed P) (s : State) (p : Nat) (h : P s) : P (vfFlr s p) := by
  unfold vfFlr
  repeat' first
    | with_reducible assumption | with_reducible apply msixReset_keeps K.1 | with_reducible apply resetAsk_keeps K
    | with_reducible apply ite_keeps

theorem execVfFlr_keeps (K : Closed P) (vf : Part) (s : State) (h : P s) : OutHas P (execVfFlr vf s) := by
  unfold execVfFlr
  repeat' first | with_reducible assumption | with_reducible apply vfFlr_keeps K | dsimp -zeta only [OutHas]

theorem cfgReset_keeps (K : Regular P) (s : State) (h : P s) : P (cfgReset s) := by
  unfold cfgReset
  repeat' first
    | with_reducible assumption | with_reducible apply msixReset_keeps K
    | fail_if_no_progress with_reducible refine K.lit ?_

theorem pf0Flr_keeps (K : Closed P) (s : State) (h : P s) : P (pf0Flr s) := by
  unfold pf0Flr
  repeat' first
    | with_reducible assumption | intro _ | with_reducible apply pump_keeps K
    | with_reducible apply cfgReset_keeps K.1 | with_reducible apply resetRing_keeps K
    | with_reducible apply foldl_keeps

theorem execPf0Flr_keeps (K : Closed P) (s : State) (h : P s) : OutHas P (execPf0Flr s) := by
  unfold execPf0Flr
  repeat' first | with_reducible assumption | with_reducible apply pf0Flr_keeps K | dsimp -zeta only [OutHas]

theorem execLeaveHoldExpiry_keeps (K : Closed P) (s : State) (h : P s) : OutHas P (execLeaveHoldExpiry s) := by
  unfold execLeaveHoldExpiry
  repeat' first | with_reducible assumption | with_reducible apply leaveDone_keeps K | dsimp -zeta only [OutHas]

theorem execCurfewDrainExpiry_keeps (K : Closed P) (scope : Nat) (s : State) (h : P s) : OutHas P (execCurfewDrainExpiry scope s) := by
  unfold execCurfewDrainExpiry
  repeat' first | with_reducible assumption | with_reducible apply drainExpired_keeps K | dsimp -zeta only [OutHas]

theorem execScopeResetLimitExpiry_keeps (K : Closed P) (scope : Nat) (s : State) (h : P s) : OutHas P (execScopeResetLimitExpiry scope s) := by
  unfold execScopeResetLimitExpiry
  repeat' first
    | with_reducible assumption | with_reducible apply logDrain_keeps K | with_reducible apply resetLimit_keeps K
    | dsimp -zeta only [OutHas]

theorem execScopeResetDone_keeps (K : Closed P) (scope : Nat) (ok : Bool) (s : State) (h : P s) : OutHas P (execScopeResetDone scope ok s) := by
  unfold execScopeResetDone
  repeat' first
    | with_reducible assumption | with_reducible apply logDrain_keeps K | with_reducible apply scopeDone_keeps K
    | dsimp -zeta only [OutHas]

theorem execSleepReqActive_keeps (K : Closed P) (v : Word) (s : State) (h : P s) : OutHas P (execSleepReqActive v s) := by
  unfold execSleepReqActive
  repeat' first | with_reducible assumption | with_reducible apply sleepWrite_keeps K | dsimp -zeta only [OutHas]

theorem execSleepReqQuiet_keeps (K : Closed P) (v : Word) (s : State) (h : P s) : OutHas P (execSleepReqQuiet v s) := by
  unfold execSleepReqQuiet
  repeat' first | with_reducible assumption | with_reducible apply sleepWrite_keeps K | dsimp -zeta only [OutHas]

theorem execSleepReqDoze_keeps (K : Closed P) (v : Word) (s : State) (h : P s) : OutHas P (execSleepReqDoze v s) := by
  unfold execSleepReqDoze
  repeat' first | with_reducible assumption | with_reducible apply sleepWrite_keeps K | dsimp -zeta only [OutHas]

theorem execSleepReqDeep_keeps (K : Closed P) (v : Word) (s : State) (h : P s) : OutHas P (execSleepReqDeep v s) := by
  unfold execSleepReqDeep
  repeat' first | with_reducible assumption | with_reducible apply sleepWrite_keeps K | dsimp -zeta only [OutHas]

theorem execQuietIdleExpiry_keeps (K : Regular P) (cell : Nat) (s : State) (h : P s) : OutHas P (execQuietIdleExpiry cell s) := by
  unfold execQuietIdleExpiry
  repeat' first | with_reducible assumption | with_reducible apply quietIdle_keeps K | dsimp -zeta only [OutHas]

theorem execDozeWake_keeps (K : Regular P) (scope cause : Nat) (s : State) (h : P s) : OutHas P (execDozeWake scope cause s) := by
  unfold execDozeWake
  repeat' first | with_reducible assumption | with_reducible apply dozeWake_keeps K | dsimp -zeta only [OutHas]

theorem execAonWake_keeps (K : Closed P) (v : Word) (s : State) (h : P s) : OutHas P (execAonWake v s) := by
  unfold execAonWake
  repeat' first
    | with_reducible assumption | with_reducible apply aonSleepWrite_keeps K | dsimp -zeta only [OutHas]

theorem execChipLockSet_keeps (K : Closed P) (v : Word) (s : State) (h : P s) : OutHas P (execChipLockSet v s) := by
  unfold execChipLockSet
  repeat' first | with_reducible assumption | with_reducible apply stagedWrite_keeps K | dsimp -zeta only [OutHas]

theorem execPrtCtlEnable_keeps (K : Closed P) (p : Part) (v : Word) (s : State) (h : P s) : OutHas P (execPrtCtlEnable p v s) := by
  unfold execPrtCtlEnable
  repeat' first
    | with_reducible assumption | with_reducible apply atPf0_keeps K.1 | with_reducible apply stagedWrite_keeps K
    | dsimp -zeta only [OutHas]

theorem execPrtCtlDisable_keeps (K : Closed P) (p : Part) (v : Word) (s : State) (h : P s) : OutHas P (execPrtCtlDisable p v s) := by
  unfold execPrtCtlDisable
  repeat' first
    | with_reducible assumption | with_reducible apply atPf0_keeps K.1 | with_reducible apply stagedWrite_keeps K
    | dsimp -zeta only [OutHas]

theorem execPrtCtlLock_keeps (K : Closed P) (p : Part) (v : Word) (s : State) (h : P s) : OutHas P (execPrtCtlLock p v s) := by
  unfold execPrtCtlLock
  repeat' first
    | with_reducible assumption | with_reducible apply atPf0_keeps K.1 | with_reducible apply stagedWrite_keeps K
    | dsimp -zeta only [OutHas]

theorem execCohDomainEn_keeps (K : Closed P) (dom : Dom) (v : Word) (s : State) (h : P s) : OutHas P (execCohDomainEn dom v s) := by
  unfold execCohDomainEn
  repeat' first
    | with_reducible assumption | with_reducible apply atPf0_keeps K.1 | with_reducible apply stagedWrite_keeps K
    | dsimp -zeta only [OutHas]

theorem execCohDomainDisable_keeps (K : Closed P) (dom : Dom) (v : Word) (s : State) (h : P s) : OutHas P (execCohDomainDisable dom v s) := by
  unfold execCohDomainDisable
  repeat' first
    | with_reducible assumption | with_reducible apply atPf0_keeps K.1 | with_reducible apply stagedWrite_keeps K
    | dsimp -zeta only [OutHas]

theorem execRegisterWrite_keeps (K : Closed P) (func : Fin 17) (off : Nat) (v : Word) (s : State) (narrow : Bool) (h : P s) : OutHas P (execRegisterWrite func off v s narrow) := by
  unfold execRegisterWrite
  repeat' first | with_reducible assumption | with_reducible apply hostWrite_keeps K

theorem execErrorReport_keeps (K : Closed P) (e : ErrRep) (s : State) (h : P s) : OutHas P (execErrorReport e s) := by
  unfold execErrorReport
  repeat' first | with_reducible assumption | with_reducible apply errorReport_keeps K | dsimp -zeta only [OutHas]

theorem execBrokenWire_keeps (K : Closed P) (kind inst : Nat) (still : Bool) (s : State) (h : P s) : OutHas P (execBrokenWire kind inst still s) := by
  unfold execBrokenWire
  repeat' first | with_reducible assumption | with_reducible apply brokenWire_keeps K | dsimp -zeta only [OutHas]

theorem coalesceEnd_keeps (K : Regular P) (s : State) (c src part : Nat) (h : P s) : P (coalesceEnd s c src part) := by
  unfold coalesceEnd
  repeat' first
    | with_reducible assumption | with_reducible apply writeErrRec_keeps K | with_reducible apply foldl_keeps
    | fail_if_no_progress with_reducible refine K.lit ?_

theorem execUeCoalesceExpiry_keeps (K : Regular P) (c : Coll) (src part : Nat) (s : State) (h : P s) : OutHas P (execUeCoalesceExpiry c src part s) := by
  unfold execUeCoalesceExpiry
  repeat' first | with_reducible assumption | with_reducible apply coalesceEnd_keeps K | dsimp -zeta only [OutHas]

theorem execWatchCeWindowEnd_keeps (K : Regular P) (c : Coll) (s : State) (h : P s) : OutHas P (execWatchCeWindowEnd c s) := by
  unfold execWatchCeWindowEnd
  repeat' first
    | with_reducible assumption | dsimp -zeta only [OutHas] | fail_if_no_progress with_reducible refine K.lit ?_

theorem execFltFirstClear_keeps (K : Regular P) (c : Coll) (v : Word) (s : State) (h : P s) : OutHas P (execFltFirstClear c v s) := by
  unfold execFltFirstClear
  repeat' first
    | with_reducible assumption | with_reducible apply atPf0_keeps K | with_reducible apply fltFirstWrite_keeps K
    | dsimp -zeta only [OutHas]

theorem execFltInjectGo_keeps (K : Closed P) (v : Word) (s : State) (h : P s) : OutHas P (execFltInjectGo v s) := by
  unfold execFltInjectGo
  repeat' first
    | with_reducible assumption | with_reducible apply atPf0_keeps K.1 | with_reducible apply injectWrite_keeps K
    | dsimp -zeta only [OutHas]

theorem execFltCntClr_keeps (K : Regular P) (c : Coll) (v : Word) (s : State) (h : P s) : OutHas P (execFltCntClr c v s) := by
  unfold execFltCntClr
  repeat' first
    | with_reducible assumption | with_reducible apply atPf0_keeps K | with_reducible apply fltCntClr_keeps K
    | dsimp -zeta only [OutHas]

theorem execIrqDeliver_keeps (K : Regular P) (src : Fin 2048) (s : State) (h : P s) : OutHas P (execIrqDeliver src s) := by
  unfold execIrqDeliver
  repeat' first | with_reducible assumption | with_reducible apply irqDeliver_keeps K | dsimp -zeta only [OutHas]

theorem execIrqAck_keeps (K : Regular P) (src : Fin 2048) (v : Word) (s : State) (h : P s) : OutHas P (execIrqAck src v s) := by
  unfold execIrqAck
  repeat' first
    | with_reducible assumption | with_reducible apply atPf0_keeps K | with_reducible apply irqAck_keeps K
    | dsimp -zeta only [OutHas]

theorem execMsixUnmask_keeps (K : Regular P) (func : Fin 17) (vec : Fin 2048) (s : State) (h : P s) : OutHas P (execMsixUnmask func vec s) := by
  unfold execMsixUnmask
  repeat' first | with_reducible assumption | with_reducible apply msixUnmask_keeps K | dsimp -zeta only [OutHas]

theorem execIrqStatClr_keeps (K : Regular P) (v : Word) (s : State) (h : P s) : OutHas P (execIrqStatClr v s) := by
  unfold execIrqStatClr
  repeat' first
    | with_reducible assumption | with_reducible apply atPf0_keeps K | with_reducible apply irqStatClr_keeps K
    | dsimp -zeta only [OutHas]

end Sys2Proof.Machine
end

