-- ==== Sys2Proof/Laws/KeepAll.lean ====
section
/-!
SUPPORT. Sys2Proof/Laws/KeepAll.lean: a closed property is kept by every command.
-/
namespace Sys2Proof.Machine

variable {P : State → Prop}

theorem exec_keeps (K : Closed P) (c : Instr) (s : State) (h : P s) : OutHas P (exec c s) := by
  cases c with
  | copy r d => exact execCopy_keeps K r d s h
  | fill r d => exact execFill_keeps K r d s h
  | convert r d => exact execConvert_keeps K r d s h
  | digest r d => exact execDigest_keeps K r d s h
  | reduce r d => exact execReduce_keeps K r d s h
  | gatherPool r d => exact execGatherPool_keeps K r d s h
  | scatterAdd r d => exact execScatterAdd_keeps K r d s h
  | pageGather r d => exact execPageGather_keeps K r d s h
  | program r d => exact execProgram_keeps K r d s h
  | fence r d => exact execFence_keeps K r d s h
  | nop r d => exact execNop_keeps K r d s h
  | hintHot r d => exact execHintHot_keeps K r d s h
  | hintCold r d => exact execHintCold_keeps K r d s h
  | hintStreamOnce r d => exact execHintStreamOnce_keeps K r d s h
  | hintPinNear r d => exact execHintPinNear_keeps K r d s h
  | hintPinDram r d => exact execHintPinDram_keeps K r d s h
  | hintEvictFirst r d => exact execHintEvictFirst_keeps K r d s h
  | hintClear r d => exact execHintClear_keeps K r d s h
  | prefetchNear r d => exact execPrefetchNear_keeps K r d s h
  | prefetchDram r d => exact execPrefetchDram_keeps K r d s h
  | demoteDram r d => exact execDemoteDram_keeps K r d s h
  | demoteGranary r d => exact execDemoteGranary_keeps K r d s h
  | publish r d => exact execPublish_keeps K r d s h
  | pin r d => exact execPin_keeps K r d s h
  | unpin r d => exact execUnpin_keeps K r d s h
  | versionReleaseDone p region version => exact execVersionReleaseDone_keeps K p region version s h
  | spaceInval r d => exact execSpaceInval_keeps K r d s h
  | spaceInvalDrained r d => exact execSpaceInvalDrained_keeps K r d s h
  | extentAdd r d => exact execExtentAdd_keeps K r d s h
  | extentInitDone baseG => exact execExtentInitDone_keeps K baseG s h
  | extentRelease r d => exact execExtentRelease_keeps K r d s h
  | extentReleaseDrained baseG => exact execExtentReleaseDrained_keeps K baseG s h
  | releaseTmoExpiry baseG => exact execReleaseTmoExpiry_keeps K baseG s h
  | extentScrubDone baseG => exact execExtentScrubDone_keeps K baseG s h
  | extentMove r d => exact execExtentMove_keeps K r d s h
  | extentMoveDone baseG => exact execExtentMoveDone_keeps K baseG s h
  | faultReplyMapped r d => exact execFaultReplyMapped_keeps K r d s h
  | faultReplyRefused r d => exact execFaultReplyRefused_keeps K r d s h
  | coalesceWindowEnd p tag page => exact execCoalesceWindowEnd_keeps K p tag page s h
  | holdTmoExpiry p tag page => exact execHoldTmoExpiry_keeps K p tag page s h
  | xltReqLifeExpiry id => exact execXltReqLifeExpiry_keeps K id s h
  | syncSet r d => exact execSyncSet_keeps K r d s h
  | sopRead c => exact execSopRead_keeps K c s h
  | initCounter c => exact execInitCounter_keeps K c s h
  | initSem c => exact execInitSem_keeps K c s h
  | initBarrier c => exact execInitBarrier_keeps K c s h
  | armSet c => exact execArmSet_keeps K c s h
  | armSetListReadDone obj => exact execArmSetListReadDone_keeps K obj s h
  | sopFree c => exact execSopFree_keeps K c s h
  | sopAdd c => exact execSopAdd_keeps K c s h
  | store c => exact execStore_keeps K c s h
  | storeLo c => exact execStoreLo_keeps K c s h
  | sopMax c => exact execSopMax_keeps K c s h
  | arrive c => exact execArrive_keeps K c s h
  | post c => exact execPost_keeps K c s h
  | take c => exact execTake_keeps K c s h
  | cancel c => exact execCancel_keeps K c s h
  | syncWait r d => exact execSyncWait_keeps K r d s h
  | syncWaitArrive r d => exact execSyncWaitArrive_keeps K r d s h
  | syncWaitTake r d => exact execSyncWaitTake_keeps K r d s h
  | syncWaitSatisfied r d => exact execSyncWaitSatisfied_keeps K r d s h
  | syncWaitTmoExpiry r d => exact execSyncWaitTmoExpiry_keeps K r d s h
  | setTimerExpiry obj => exact execSetTimerExpiry_keeps K obj s h
  | setResultWritten obj => exact execSetResultWritten_keeps K obj s h
  | read port p => exact execRead_keeps K port p s h
  | write port p => exact execWrite_keeps K port p s h
  | reduceWrite port p => exact execReduceWrite_keeps K port p s h
  | atomicFadd port p => exact execAtomicFadd_keeps K port p s h
  | atomicSwap port p => exact execAtomicSwap_keeps K port p s h
  | atomicCas port p => exact execAtomicCas_keeps K port p s h
  | atomicUmax port p => exact execAtomicUmax_keeps K port p s h
  | syncOp port p => exact execSyncOp_keeps K port p s h
  | doorbellPacket port p => exact execDoorbellPacket_keeps K port p s h
  | eventPacket port p => exact execEventPacket_keeps K port p s h
  | readDataRx port p => exact execReadDataRx_keeps K port p s h
  | writeAckRx port p => exact execWriteAckRx_keeps K port p s h
  | nakRx port p => exact execNakRx_keeps K port p s h
  | errorRespRx port p => exact execErrorRespRx_keeps K port p s h
  | routeCtlLeaving port p => exact execRouteCtlLeaving_keeps K port p s h
  | routeCtlGone port p => exact execRouteCtlGone_keeps K port p s h
  | routeCtlTime port p => exact execRouteCtlTime_keeps K port p s h
  | transitForward port p => exact execTransitForward_keeps K port p s h
  | multicastReplicate port p => exact execMulticastReplicate_keeps K port p s h
  | e2eTmoExpiry id => exact execE2eTmoExpiry_keeps K.1 id s h
  | answerCacheExpiry sl src seq ctag => exact execAnswerCacheExpiry_keeps K.1 sl src seq ctag s h
  | cohRdShared port p => exact execCohRdShared_keeps K port p s h
  | cohRdOwn port p => exact execCohRdOwn_keeps K port p s h
  | cohUpgrade port p => exact execCohUpgrade_keeps K port p s h
  | cohWriteback port p => exact execCohWriteback_keeps K port p s h
  | cohFwdDataRx port p => exact execCohFwdDataRx_keeps K port p s h
  | cohAck port p => exact execCohAck_keeps K port p s h
  | snoopTmoExpiry line => exact execSnoopTmoExpiry_keeps K line s h
  | backoffReservationExpiry line => exact execBackoffReservationExpiry_keeps K.1 line s h
  | cohDomainEn dom v => exact execCohDomainEn_keeps K dom v s h
  | cohDomainDisable dom v => exact execCohDomainDisable_keeps K dom v s h
  | dataFlitRx port f => exact execDataFlitRx_keeps K.1 port f s h
  | idleFlitRx port f => exact execIdleFlitRx_keeps K.1 port f s h
  | corruptFlitRx port symErrs => exact execCorruptFlitRx_keeps K.1 port symErrs s h
  | caps port m => exact execCaps_keeps K.1 port m s h
  | lenProbe port m => exact execLenProbe_keeps K.1 port m s h
  | lenEcho port m rtt => exact execLenEcho_keeps K.1 port m rtt s h
  | creditAdv port m => exact execCreditAdv_keeps K.1 port m s h
  | retrainReq port m => exact execRetrainReq_keeps K.1 port m s h
  | resync port m => exact execResync_keeps K.1 port m s h
  | laneAns port m => exact execLaneAns_keeps K.1 port m s h
  | audit port m => exact execAudit_keeps K.1 port m s h
  | lpiReq port m => exact execLpiReq_keeps K.1 port m s h
  | lpiAck port m => exact execLpiAck_keeps K.1 port m s h
  | portTrain port => exact execPortTrain_keeps K.1 port s h
  | trainTmoExpiry port => exact execTrainTmoExpiry_keeps K.1 port s h
  | replayTimerExpiry port => exact execReplayTimerExpiry_keeps K.1 port s h
  | nakRepeatExpiry port => exact execNakRepeatExpiry_keeps K.1 port s h
  | handoffStart port => exact execHandoffStart_keeps K.1 port s h
  | handoffCountdownEnd port lane same => exact execHandoffCountdownEnd_keeps K.1 port lane same s h
  | handoffAnswerTmo port => exact execHandoffAnswerTmo_keeps K.1 port s h
  | ninthLaneCalDone port => exact execNinthLaneCalDone_keeps K.1 port s h
  | laneFailure port rx lane => exact execLaneFailure_keeps K.1 port rx lane s h
  | laserPoll port readings => exact execLaserPoll_keeps K.1 port readings s h
  | errorWindowEnd port => exact execErrorWindowEnd_keeps K.1 port s h
  | portRetryTimer port => exact execPortRetryTimer_keeps K.1 port s h
  | auditSendTick port => exact execAuditSendTick_keeps K.1 port s h
  | lpiIdleExpiry port => exact execLpiIdleExpiry_keeps K.1 port s h
  | lpiWake port => exact execLpiWake_keeps K.1 port s h
  | portEnable port v => exact execPortEnable_keeps K.1 port v s h
  | portDisable port v => exact execPortDisable_keeps K.1 port v s h
  | portRearm port v => exact execPortRearm_keeps K.1 port v s h
  | portRetrain port v => exact execPortRetrain_keeps K.1 port v s h
  | portCntClr port v => exact execPortCntClr_keeps K.1 port v s h
  | egressPacketStart port => exact execEgressPacketStart_keeps K.1 port s h
  | gateEntryAdvance port => exact execGateEntryAdvance_keeps K.1 port s h
  | qosGateCommit port v => exact execQosGateCommit_keeps K.1 port v s h
  | gateTakeoverAt port => exact execGateTakeoverAt_keeps K.1 port s h
  | gbHoldExpiry port => exact execGbHoldExpiry_keeps K.1 port s h
  | dramSlotGrant ch => exact execDramSlotGrant_keeps K.1 ch s h
  | adaptTick => exact execAdaptTick_keeps K.1 s h
  | histSampleTick port n => exact execHistSampleTick_keeps K.1 port n s h
  | qosPortHistClear port v => exact execQosPortHistClear_keeps K.1 port v s h
  | qosChHistClear ch v => exact execQosChHistClear_keeps K.1 ch v s h
  | qosRegWrite o v => exact execQosRegWrite_keeps K.1 o v s h
  | routeStage r d => exact execRouteStage_keeps K r d s h
  | routeCommitFlip r d => exact execRouteCommitFlip_keeps K r d s h
  | routeCommitDrain r d => exact execRouteCommitDrain_keeps K r d s h
  | commitAtReached => exact execCommitAtReached_keeps K s h
  | epochHoldExpiry => exact execEpochHoldExpiry_keeps K.1 s h
  | drainEnd => exact execDrainEnd_keeps K s h
  | timeSendTick => exact execTimeSendTick_keeps K.1 s h
  | timeLossExpiry => exact execTimeLossExpiry_keeps K.1 s h
  | xrdCntClr v => exact execXrdCntClr_keeps K.1 v s h
  | leaveHoldExpiry => exact execLeaveHoldExpiry_keeps K s h
  | dramTrain ch d => exact execDramTrain_keeps K ch d s h
  | dramTrainTmoExpiry ch => exact execDramTrainTmoExpiry_keeps K ch s h
  | quietWindowDue ch => exact execQuietWindowDue_keeps K.1 ch s h
  | quietWindowEnd ch drift => exact execQuietWindowEnd_keeps K ch drift s h
  | dramRetrainTmoExpiry ch => exact execDramRetrainTmoExpiry_keeps K ch s h
  | refreshStop ch sub => exact execRefreshStop_keeps K.1 ch sub s h
  | dramTempPoll ch hub mr4 => exact execDramTempPoll_keeps K.1 ch hub mr4 s h
  | scrubSlot ch => exact execScrubSlot_keeps K ch s h
  | lapMaxExpiry ch => exact execLapMaxExpiry_keeps K.1 ch s h
  | dramCeWindowEnd ch => exact execDramCeWindowEnd_keeps K.1 ch s h
  | ddrEnable ch v => exact execDdrEnable_keeps K ch v s h
  | ddrDisable ch v => exact execDdrDisable_keeps K ch v s h
  | ddrRearm ch v => exact execDdrRearm_keeps K ch v s h
  | ddrMarkClr ch v => exact execDdrMarkClr_keeps K ch v s h
  | ddrCntClr ch v => exact execDdrCntClr_keeps K.1 ch v s h
  | granaryFillDone block => exact execGranaryFillDone_keeps K block s h
  | groupWritebackDone group => exact execGroupWritebackDone_keeps K group s h
  | decayTick p => exact execDecayTick_keeps K p s h
  | driveBringup dr => exact execDriveBringup_keeps K.1 dr s h
  | nvmDisable dr v => exact execNvmDisable_keeps K dr v s h
  | nvmeCmdComplete dr id sct sc data => exact execNvmeCmdComplete_keeps K dr id sct sc data s h
  | nvmeCmdTmoExpiry dr id => exact execNvmeCmdTmoExpiry_keeps K dr id s h
  | nvmeLinkupTmoExpiry dr => exact execNvmeLinkupTmoExpiry_keeps K dr s h
  | nvmeReadyTmoExpiry dr => exact execNvmeReadyTmoExpiry_keeps K dr s h
  | smartPoll dr ok temp warn used => exact execSmartPoll_keeps K dr ok temp warn used s h
  | prtCorEnWrite p k v => exact execPrtCorEnWrite_keeps K.1 p k v s h
  | prtSrSeedWrite p v => exact execPrtSrSeedWrite_keeps K.1 p v s h
  | arithDescClr p v => exact execArithDescClr_keeps K.1 p v s h
  | prtXltStatClr p v => exact execPrtXltStatClr_keeps K.1 p v s h
  | progLoadGo p v => exact execProgLoadGo_keeps K.1 p v s h
  | progImageReadDone p => exact execProgImageReadDone_keeps K p s h
  | progClear p v => exact execProgClear_keeps K.1 p v s h
  | programTilesDone r d => exact execProgramTilesDone_keeps K r d s h
  | progRunTmoExpiry r d => exact execProgRunTmoExpiry_keeps K r d s h
  | prtRgnEnWrite p region v => exact execPrtRgnEnWrite_keeps K.1 p region v s h
  | prtRgnClr p v => exact execPrtRgnClr_keeps K.1 p v s h
  | prtSyncClr p v => exact execPrtSyncClr_keeps K.1 p v s h
  | rngEnable r v => exact execRngEnable_keeps K r v s h
  | rngStop r v => exact execRngStop_keeps K r v s h
  | doorbellPidxWrite func page v => exact execDoorbellPidxWrite_keeps K func page v s h
  | doorbellCcidxWrite func page v => exact execDoorbellCcidxWrite_keeps K func page v s h
  | descFetchDone r descs => exact execDescFetchDone_keeps K r descs s h
  | ringFetchTmoExpiry r write => exact execRingFetchTmoExpiry_keeps K r write s h
  | notifyTimeExpiry r => exact execNotifyTimeExpiry_keeps K.1 r s h
  | ringWdogExpiry r => exact execRingWdogExpiry_keeps K.1 r s h
  | wedgeExpiry r => exact execWedgeExpiry_keeps K.1 r s h
  | apertureRead func win off lines => exact execApertureRead_keeps K func win off lines s h
  | apertureWrite func win off data => exact execApertureWrite_keeps K func win off data s h
  | hostReqNoBar func addr => exact execHostReqNoBar_keeps K.1 func addr s h
  | vfFlr vf => exact execVfFlr_keeps K vf s h
  | pf0Flr => exact execPf0Flr_keeps K s h
  | keyLoadJob r d => exact execKeyLoadJob_keeps K r d s h
  | keyLoadMemory r d => exact execKeyLoadMemory_keeps K r d s h
  | keyLoadEmpty r d => exact execKeyLoadEmpty_keeps K r d s h
  | keyBlobReadDone r d blob => exact execKeyBlobReadDone_keeps K r d blob s h
  | secFwAdvance v => exact execSecFwAdvance_keeps K.1 v s h
  | secFwRevoke v => exact execSecFwRevoke_keeps K.1 v s h
  | getVersion msg => exact execGetVersion_keeps K.1 msg s h
  | getCapabilities msg => exact execGetCapabilities_keeps K.1 msg s h
  | negotiateAlgorithms msg => exact execNegotiateAlgorithms_keeps K.1 msg s h
  | getDigests msg => exact execGetDigests_keeps K.1 msg s h
  | getCertificate msg => exact execGetCertificate_keeps K.1 msg s h
  | challenge msg => exact execChallenge_keeps K.1 msg s h
  | getMeasurements msg => exact execGetMeasurements_keeps K.1 msg s h
  | keyExchange msg => exact execKeyExchange_keeps K.1 msg s h
  | finish msg => exact execFinish_keeps K.1 msg s h
  | heartbeatSpdm msg => exact execHeartbeatSpdm_keeps K.1 msg s h
  | keyUpdate msg => exact execKeyUpdate_keeps K.1 msg s h
  | endSession msg => exact execEndSession_keeps K.1 msg s h
  | vendorDefinedRequest msg => exact execVendorDefinedRequest_keeps K.1 msg s h
  | unlockReq => exact execUnlockReq_keeps K.1 s h
  | unlockToken token => exact execUnlockToken_keeps K token s h
  | tapInstruction ir => exact execTapInstruction_keeps K.1 ir s h
  | errorReport e => exact execErrorReport_keeps K e s h
  | brokenWire kind inst still => exact execBrokenWire_keeps K kind inst still s h
  | ueCoalesceExpiry c src part => exact execUeCoalesceExpiry_keeps K.1 c src part s h
  | watchCeWindowEnd c => exact execWatchCeWindowEnd_keeps K.1 c s h
  | fltFirstClear c v => exact execFltFirstClear_keeps K.1 c v s h
  | fltInjectGo v => exact execFltInjectGo_keeps K v s h
  | fltCntClr c v => exact execFltCntClr_keeps K.1 c v s h
  | irqDeliver src => exact execIrqDeliver_keeps K.1 src s h
  | irqAck src v => exact execIrqAck_keeps K.1 src v s h
  | msixUnmask func vec => exact execMsixUnmask_keeps K.1 func vec s h
  | irqStatClr v => exact execIrqStatClr_keeps K.1 v s h
  | powerOn => exact execPowerOn_keeps K.1 s h
  | vddAonLoss => exact execVddAonLoss_keeps K s h
  | coldRstPin low => exact execColdRstPin_keeps K low s h
  | warmRstPin low => exact execWarmRstPin_keeps K low s h
  | perstLow => exact execPerstLow_keeps K s h
  | perstHigh => exact execPerstHigh_keeps K.1 s h
  | preconditionsHeld => exact execPreconditionsHeld_keeps K.1 s h
  | startStepDone r => exact execStartStepDone_keeps K.1 r s h
  | startStepTmoExpiry => exact execStartStepTmoExpiry_keeps K.1 s h
  | recoveryGo v => exact execRecoveryGo_keeps K.1 v s h
  | recoveryFetchDone ok svn keysel => exact execRecoveryFetchDone_keeps K.1 ok svn keysel s h
  | recoveryWaitExpiry => exact execRecoveryWaitExpiry_keeps K.1 s h
  | tallyCopyTick => exact execTallyCopyTick_keeps K.1 s h
  | tallyForget v => exact execTallyForget_keeps K.1 v s h
  | resetCold v => exact execResetCold_keeps K v s h
  | resetWarm v => exact execResetWarm_keeps K v s h
  | resetPool v => exact execResetPool_keeps K v s h
  | resetWard v => exact execResetWard_keeps K v s h
  | resetPart v => exact execResetPart_keeps K v s h
  | curfewDrainExpiry scope => exact execCurfewDrainExpiry_keeps K scope s h
  | scopeResetLimitExpiry scope => exact execScopeResetLimitExpiry_keeps K scope s h
  | sleepReqActive v => exact execSleepReqActive_keeps K v s h
  | sleepReqQuiet v => exact execSleepReqQuiet_keeps K v s h
  | sleepReqDoze v => exact execSleepReqDoze_keeps K v s h
  | sleepReqDeep v => exact execSleepReqDeep_keeps K v s h
  | quietIdleExpiry cell => exact execQuietIdleExpiry_keeps K.1 cell s h
  | dozeWake scope cause => exact execDozeWake_keeps K.1 scope cause s h
  | aonWake v => exact execAonWake_keeps K v s h
  | chipLockSet v => exact execChipLockSet_keeps K v s h
  | prtCtlEnable p v => exact execPrtCtlEnable_keeps K p v s h
  | prtCtlDisable p v => exact execPrtCtlDisable_keeps K p v s h
  | prtCtlLock p v => exact execPrtCtlLock_keeps K p v s h
  | prtSecClr p v => exact execPrtSecClr_keeps K.1 p v s h
  | elderHeartbeat b => exact execElderHeartbeat_keeps K.1 b s h
  | hbTmoExpiry b => exact execHbTmoExpiry_keeps K b s h
  | selfcheckReport b code => exact execSelfcheckReport_keeps K b code s h
  | selfcheckTmoExpiry b => exact execSelfcheckTmoExpiry_keeps K b s h
  | freezeMaxExpiry => exact execFreezeMaxExpiry_keeps K s h
  | commitProposal a b => exact execCommitProposal_keeps K a b s h
  | elderRearm v => exact execElderRearm_keeps K.1 v s h
  | resyncStepDone code entries => exact execResyncStepDone_keeps K.1 code entries s h
  | handover v => exact execHandover_keeps K.1 v s h
  | eldCntClr v => exact execEldCntClr_keeps K.1 v s h
  | supplySampleTick volts amps => exact execSupplySampleTick_keeps K volts amps s h
  | tempSensorTick readings => exact execTempSensorTick_keeps K.1 readings s h
  | governorTick => exact execGovernorTick_keeps K.1 s h
  | govEventWindow => exact execGovEventWindow_keeps K.1 s h
  | voltageSettled w => exact execVoltageSettled_keeps K.1 w s h
  | avsCurrentPoll bus ok amps => exact execAvsCurrentPoll_keeps K.1 bus ok amps s h
  | avsRetryTick bus ok => exact execAvsRetryTick_keeps K.1 bus ok s h
  | smbusClockTimeout => exact execSmbusClockTimeout_keeps K.1 s h
  | registerWrite func off v narrow => exact execRegisterWrite_keeps K func off v s narrow h
  | fecLockLost port => exact execFecLockLost_keeps K.1 port s h
  | fecLockGained port => exact execFecLockGained_keeps K.1 port s h
  | trainingBlockRx port lane mask => exact execTrainingBlockRx_keeps K.1 port lane mask s h
  | ringLockTmoExpiry port lane rx => exact execRingLockTmoExpiry_keeps K.1 port lane rx s h
  | rateFallbackTmoExpiry port => exact execRateFallbackTmoExpiry_keeps K.1 port s h
  | lpiAnswerTmoExpiry port => exact execLpiAnswerTmoExpiry_keeps K.1 port s h
  | controlFlitRepeatTick port => exact execControlFlitRepeatTick_keeps K.1 port s h
  | nvmeLinkDown dr => exact execNvmeLinkDown_keeps K.1 dr s h
  | nvmeLinkUp dr => exact execNvmeLinkUp_keeps K.1 dr s h
  | nvmeControllerReady dr mqes => exact execNvmeControllerReady_keeps K.1 dr mqes s h
  | nvmeControllerFatal dr => exact execNvmeControllerFatal_keeps K dr s h
  | commandAddressParityFail ch retry => exact execCommandAddressParityFail_keeps K ch retry s h
  | dramTrainingDone ch katOk => exact execDramTrainingDone_keeps K ch katOk s h
  | scopeResetDone scope ok => exact execScopeResetDone_keeps K scope ok s h
  | retryAfterExpiry id => exact execRetryAfterExpiry_keeps K id s h
  | routeImageReadDone r d img => exact execRouteImageReadDone_keeps K r d img s h
  | issuerAccessDone r d res => exact execIssuerAccessDone_keeps K r d res s h
  | atomicRespRx port p => exact execAtomicRespRx_keeps K port p s h
  | hostLinkDown => exact execHostLinkDown_keeps K.1 s h
  | hostLinkUp => exact execHostLinkUp_keeps K.1 s h
  | voltageSettleTmoExpiry w => exact execVoltageSettleTmoExpiry_keeps K.1 w s h
  | testPortReset => exact execTestPortReset_keeps K.1 s h

end Sys2Proof.Machine
end

