-- ==== Sys2Proof/Laws/Memory.lean ====
section
/-!
SUPPORT. Sys2Proof/Laws/Memory.lean: every operation on pool memory keeps its canonical form, and what a byte reads as
after each of them.
-/
namespace Sys2Proof.Machine

/-! ## The canonical form -/

theorem memory_wf_iff {m : List Host.Cell} : Memory.wf m = true ↔ ksorted m = true ∧ ∀ c ∈ m, c.2 ≠ 0 := by
  simp [Memory.wf, Bool.and_eq_true, List.all_eq_true]

theorem memory_wf_kset (a : Nat) (b : Byte) (m : List Host.Cell) (h : Memory.wf m = true) :
    Memory.wf (kset 0 a b m) = true := by
  obtain ⟨hs, hz⟩ := memory_wf_iff.1 h
  refine memory_wf_iff.2 ⟨ksorted_kset 0 a b m hs, ?_⟩
  intro c hc
  unfold kset at hc
  split at hc
  · exact hz c (mem_kdel hc)
  · next hb =>
    rcases mem_kput hc with rfl | hc
    · exact hb
    · exact hz c hc

theorem memory_wf_memPut (a : Nat) (bs : List Byte) (m : List Host.Cell) (h : Memory.wf m = true) :
    Memory.wf (memPut a bs m) = true := by
  induction bs generalizing a m with
  | nil => exact h
  | cons b bs ih => exact ih (a + 1) _ (memory_wf_kset a b m h)

theorem memory_wf_filter (f : Host.Cell → Bool) (m : List Host.Cell) (h : Memory.wf m = true) :
    Memory.wf (m.filter f) = true := by
  obtain ⟨hs, hz⟩ := memory_wf_iff.1 h
  exact memory_wf_iff.2 ⟨ksorted_filter f m hs, fun c hc => hz c ((List.mem_filter.1 hc).1)⟩

theorem setByte_wf (s : State) (a : Nat) (b : Byte) (h : Memory.wf s.mem = true) : Memory.wf (s.setByte a b).mem = true :=
  memory_wf_kset a b s.mem h

theorem setBytes_wf (s : State) (a : Nat) (bs : List Byte) (h : Memory.wf s.mem = true) :
    Memory.wf (s.setBytes a bs).mem = true :=
  memory_wf_memPut a bs s.mem h

theorem setLine_wf (s : State) (l : Nat) (bs : List Byte) (h : Memory.wf s.mem = true) :
    Memory.wf (s.setLine l bs).mem = true :=
  memory_wf_memPut _ _ s.mem h

theorem zeroRange_wf (s : State) (lo hi : Nat) (h : Memory.wf s.mem = true) : Memory.wf (s.zeroRange lo hi).mem = true :=
  memory_wf_filter _ s.mem h

theorem poisonLine_wf (s : State) (l : Nat) (h : Memory.wf s.mem = true) : Memory.wf (s.poisonLine l).mem = true :=
  memory_wf_filter _ s.mem h

theorem poisonChan_wf (s : State) (c : Nat) (h : Memory.wf s.mem = true) : Memory.wf (poisonChan s c).mem = true :=
  memory_wf_filter _ s.mem h

/-! ## What a byte reads as -/

theorem byte_setByte_self (s : State) (a : Nat) (b : Byte) (h : ksorted s.mem = true) : (s.setByte a b).byte a = b :=
  kgetD_kset_self 0 a b s.mem h

theorem byte_setByte_ne (s : State) (a k : Nat) (b : Byte) (h : ksorted s.mem = true) (hk : k ≠ a) :
    (s.setByte a b).byte k = s.byte k :=
  kgetD_kset_ne 0 b s.mem h hk

theorem ksorted_memPut (a : Nat) (bs : List Byte) (m : List Host.Cell) (h : ksorted m = true) :
    ksorted (memPut a bs m) = true := by
  induction bs generalizing a m with
  | nil => exact h
  | cons b bs ih => exact ih (a + 1) _ (ksorted_kset 0 a b m h)

theorem kgetD_memPut_out (k a : Nat) (bs : List Byte) (m : List Host.Cell) (h : ksorted m = true)
    (hk : k < a ∨ a + bs.length ≤ k) : kgetD 0 k (memPut a bs m) = kgetD 0 k m := by
  induction bs generalizing a m with
  | nil => rfl
  | cons b bs ih =>
    rw [List.length_cons] at hk
    rw [memPut, ih (a + 1) _ (ksorted_kset 0 a b m h) (by omega), kgetD_kset_ne 0 b m h (by omega)]

theorem kgetD_memPut_in (i a : Nat) (bs : List Byte) (m : List Host.Cell) (h : ksorted m = true) (hi : i < bs.length) :
    kgetD 0 (a + i) (memPut a bs m) = bs.getD i 0 := by
  induction bs generalizing a m i with
  | nil => exact absurd hi (Nat.not_lt_zero i)
  | cons b bs ih =>
    rw [memPut]
    cases i with
    | zero =>
      rw [Nat.add_zero, kgetD_memPut_out a (a + 1) bs _ (ksorted_kset 0 a b m h) (by omega), kgetD_kset_self 0 a b m h]
      rfl
    | succ i =>
      have := ih i (a + 1) _ (ksorted_kset 0 a b m h) (by simpa using hi)
      rw [show a + (i + 1) = a + 1 + i by omega, this]
      rfl

/-- A byte outside a written line reads as before. -/
theorem byte_setLine_out (s : State) (l k : Nat) (bs : List Byte) (h : ksorted s.mem = true) (hk : k / 64 ≠ l) :
    (s.setLine l bs).byte k = s.byte k := by
  refine kgetD_memPut_out k (l * 64) _ s.mem h ?_
  have : (bs.take 64).length ≤ 64 := by rw [List.length_take]; omega
  omega

/-- A byte of a written line reads as the byte written. -/
theorem byte_setLine_in (s : State) (l i : Nat) (bs : List Byte) (h : ksorted s.mem = true) (hb : bs.length = 64)
    (hi : i < 64) : (s.setLine l bs).byte (l * 64 + i) = bs.getD i 0 := by
  have ht : bs.take 64 = bs := List.take_of_length_le (by omega)
  have := kgetD_memPut_in i (l * 64) bs s.mem h (by omega)
  simpa [State.setLine, State.setBytes, State.byte, ht] using this

theorem bytes_eq (s : State) (a n : Nat) (bs : List Byte) (hb : bs.length = n)
    (h : ∀ i, i < n → s.byte (a + i) = bs.getD i 0) : s.bytes a n = bs := by
  induction n generalizing a bs with
  | zero => simp [State.bytes, List.length_eq_zero_iff.1 hb]
  | succ n ih =>
    match bs, hb with
    | b :: bs, hb =>
      have h0 := h 0 (Nat.succ_pos n)
      rw [State.bytes, ih (a + 1) bs (by simpa using hb) (fun i hi => by
        have := h (i + 1) (by omega)
        rw [show a + 1 + i = a + (i + 1) by omega, this]; rfl)]
      simpa using h0

/-- A written line reads as what was written. -/
theorem line_setLine (s : State) (l : Nat) (bs : List Byte) (h : ksorted s.mem = true) (hb : bs.length = 64) :
    (s.setLine l bs).line l = bs :=
  bytes_eq _ _ 64 bs hb fun i hi => byte_setLine_in s l i bs h hb hi

/-- A written line is good. -/
theorem isPoison_setLine (s : State) (l : Nat) (bs : List Byte) : (s.setLine l bs).isPoison l = false := by
  simp [State.isPoison, State.setLine, sdel]

theorem kgetD_filter_zero (f : Host.Cell → Bool) (m : List Host.Cell) (k : Nat) (h : ksorted m = true)
    (hf : ∀ c ∈ m, c.1 = k → f c = false) : kgetD 0 k (m.filter f) = 0 := by
  have hn : ∀ c ∈ m.filter f, c.1 ≠ k := by
    intro c hc e
    obtain ⟨h1, h2⟩ := List.mem_filter.1 hc
    rw [hf c h1 e] at h2
    cases h2
  unfold kgetD
  generalize m.filter f = l at hn
  induction l with
  | nil => rfl
  | cons q l ih =>
    obtain ⟨a, x⟩ := q
    rw [kget, if_neg (hn (a, x) List.mem_cons_self)]
    split
    · rfl
    · exact ih fun c hc => hn c (List.mem_cons_of_mem _ hc)

theorem kget_filter_keep {α : Type} (f : Nat × α → Bool) (m : List (Nat × α)) (k : Nat) (h : ksorted m = true)
    (hf : ∀ c ∈ m, c.1 = k → f c = true) : kget k (m.filter f) = kget k m := by
  fun_induction kget k m with
  | case1 => rfl
  | case2 v l => rw [List.filter_cons_of_pos (hf _ List.mem_cons_self rfl)]; simp [kget]
  | case3 a v l e g =>
    exact kget_above fun p hp => by
      have hp := (List.mem_filter.1 hp).1
      have ha := (ksorted_cons.1 h).1
      grind [KAbove]
  | case4 a v l e g ih =>
    have ih := ih (ksorted_cons.1 h).2 fun c hc => hf c (List.mem_cons_of_mem _ hc)
    cases hfa : f (a, v) <;> grind [kget]

/-- A byte of a zeroed range reads zero. -/
theorem byte_zeroRange_in (s : State) (lo hi k : Nat) (h : ksorted s.mem = true) (h1 : lo ≤ k) (h2 : k < hi) :
    (s.zeroRange lo hi).byte k = 0 :=
  kgetD_filter_zero _ s.mem k h fun c _ e => by simp [e]; omega

/-- A byte outside a zeroed range reads as before. -/
theorem byte_zeroRange_out (s : State) (lo hi k : Nat) (h : ksorted s.mem = true) (hk : k < lo ∨ hi ≤ k) :
    (s.zeroRange lo hi).byte k = s.byte k := by
  have hf := kget_filter_keep (fun c : Host.Cell => c.1 < lo || decide (hi ≤ c.1)) s.mem k h (by
    intro c _ e; subst e; simp; omega)
  exact congrArg (·.getD 0) hf

/-- Every byte of a poisoned line reads zero (01 R49). -/
theorem byte_poisonLine_in (s : State) (l i : Nat) (h : ksorted s.mem = true) (hi : i < 64) :
    (s.poisonLine l).byte (l * 64 + i) = 0 :=
  byte_zeroRange_in s _ _ _ h (by omega) (by omega)

/-! ## Poisoned lines -/

theorem mem_sput {k a : Nat} {l : List Nat} : a ∈ sput k l ↔ a = k ∨ a ∈ l := by
  fun_induction sput k l <;> grind

/-- A sorted list stays sorted. -/
theorem pairwise_sput {k : Nat} {l : List Nat} (h : l.Pairwise (· < ·)) : (sput k l).Pairwise (· < ·) := by
  fun_induction sput k l <;> grind [mem_sput, List.pairwise_cons]

/-- A byte that reads zero still does after cells are taken out. -/
theorem kgetD_filter_of_zero {f : Host.Cell → Bool} {m : List Host.Cell} (k : Nat) (h : ksorted m = true) (h0 : kgetD 0 k m = 0) :
    kgetD 0 k (m.filter f) = 0 := by
  by_cases hf : ∀ c ∈ m, c.1 = k → f c = true
  · unfold kgetD; rw [kget_filter_keep f m k h hf]; exact h0
  · have hn : ∃ c ∈ m, c.1 = k ∧ ¬ f c = true := Classical.byContradiction fun hn =>
      hf fun c hc hk => Classical.byContradiction fun hfc => hn ⟨c, hc, hk, hfc⟩
    clear hf
    obtain ⟨c, hc, hk, hfc⟩ := hn
    apply kgetD_filter_zero f m k h
    intro d hd hdk
    have : d = c := by
      clear h0
      induction m with
      | nil => cases hc
      | cons q m ih =>
        obtain ⟨a, x⟩ := q
        obtain ⟨ha, hs⟩ := ksorted_cons.1 h
        rcases List.mem_cons.1 hc with rfl | hc <;> rcases List.mem_cons.1 hd with rfl | hd
        · rfl
        · have := ha d hd; simp at hk; omega
        · have := ha c hc; simp at hdk; omega
        · exact ih hs hc hd
    rw [this]; simpa using hfc

theorem mem_foldl_sput {x : Nat} (ls l : List Nat) : x ∈ ls.foldl (fun l k => sput k l) l ↔ x ∈ ls ∨ x ∈ l := by
  induction ls generalizing l with
  | nil => simp
  | cons a ls ih => simp only [List.foldl_cons, ih, mem_sput, List.mem_cons]; rw [or_assoc, or_left_comm]

theorem pairwise_foldl_sput (ls l : List Nat) (h : l.Pairwise (· < ·)) : (ls.foldl (fun l k => sput k l) l).Pairwise (· < ·) := by
  induction ls generalizing l with
  | nil => exact h
  | cons a ls ih => exact ih _ (pairwise_sput h)

end Sys2Proof.Machine
end

