-- ==== Sys2Proof/Laws/RegWrites.lean ====
section
/-!
SUPPORT. Sys2Proof/Laws/RegWrites.lean: what a register write by access codes leaves in each field, for every register of the
table.
-/
namespace Sys2Proof.Machine

/-- Fields that share no bit. -/
def FldRow.apart (f g : FldRow) : Bool := decide (f.lo + f.w ≤ g.lo) || decide (g.lo + g.w ≤ f.lo)

/-- The fields of a register lie in 64 bits and share none. -/
def fldsOk : List FldRow → Bool
  | [] => true
  | f :: l => decide (f.lo + f.w ≤ 64) && l.all (FldRow.apart f) && fldsOk l

def RegRow.ok (r : RegRow) : Bool := fldsOk r.flds && decide (r.reg.rv < 2 ^ 64)

set_option maxRecDepth 100000 in
theorem regRows_ok : ∀ r ∈ regRows, r.ok = true := by decide +kernel

theorem findReg_mem {off a} (h : findReg off = some a) : a.row ∈ regRows := by
  obtain ⟨row, hm, h⟩ := List.exists_of_findSome?_eq_some h
  split at h
  · split at h
    · cases h; exact hm
    · cases h
  · cases h

theorem writeField_out (s a vf v old) (f : FldRow) (lo w : Nat) (h : lo + w ≤ f.lo ∨ f.lo + f.w ≤ lo) :
    fld (writeField s a vf v old f) lo w = fld old lo w := by
  unfold writeField
  dsimp only
  repeat' split
  all_goals first | rfl | exact fld_setFld_ne _ _ _ _ _ _ h

theorem writeField_in (s : State) (a) (v old) (f : FldRow) :
    fld (writeField s a false v old f) f.lo f.w = (match f.acc with
  | .rw => if takesWrite s a f.lo then fld v f.lo f.w else fld old f.lo f.w
  | .rwl => if regLocked s a then fld old f.lo f.w else fld v f.lo f.w
  | .w1c => fld old f.lo f.w - (fld old f.lo f.w &&& fld v f.lo f.w)
  | .w1s => fld old f.lo f.w ||| fld v f.lo f.w
  | .ro | .wo => fld old f.lo f.w) := by
  have h1 : ∀ y, fld (setFld old f.lo f.w y) f.lo f.w = y % 2 ^ f.w := fun y => fld_setFld_self _ _ _ _
  have hl := fld_lt v f.lo f.w
  have hl2 := fld_lt old f.lo f.w
  unfold writeField
  simp only [Bool.false_eq_true, false_and, if_false]
  cases f.acc <;> dsimp only
  · split
    · rw [h1, Nat.mod_eq_of_lt hl]
    · rfl
  · rw [h1, Nat.mod_eq_of_lt (by omega)]
  · rw [h1, Nat.mod_eq_of_lt (Nat.or_lt_two_pow hl2 hl)]
  · split
    · rfl
    · rw [h1, Nat.mod_eq_of_lt hl]

theorem writeFields_out (s a vf v) (l : List FldRow) (old lo w : Nat) (h : ∀ f ∈ l, lo + w ≤ f.lo ∨ f.lo + f.w ≤ lo) :
    fld (l.foldl (fun x f => writeField s a vf v x f) old) lo w = fld old lo w := by
  induction l generalizing old with
  | nil => rfl
  | cons g l ih =>
    simp only [List.foldl_cons]
    rw [ih _ fun f hf => h f (List.mem_cons_of_mem _ hf), writeField_out _ _ _ _ _ _ _ _ (h g List.mem_cons_self)]

theorem writeFields_in (s a v) (l : List FldRow) (old : Nat) (hp : fldsOk l = true) (f) (hf : f ∈ l) :
    fld (l.foldl (fun x f => writeField s a false v x f) old) f.lo f.w = fld (writeField s a false v old f) f.lo f.w := by
  induction l generalizing old with
  | nil => cases hf
  | cons g l ih =>
    simp only [fldsOk, Bool.and_eq_true, List.all_eq_true, FldRow.apart, Bool.or_eq_true, decide_eq_true_eq] at hp
    obtain ⟨⟨_, hd⟩, hp⟩ := hp
    simp only [List.foldl_cons]
    rcases List.mem_cons.1 hf with rfl | hf
    · exact writeFields_out _ _ _ _ _ _ _ _ fun f hf => by have := hd f hf; omega
    · rw [ih _ hp hf, writeField_in, writeField_in, writeField_out _ _ _ _ _ _ _ _ (by have := hd f hf; omega)]

theorem writeField_lt (s a vf v old) (f : FldRow) (h : old < 2 ^ 64) (hw : f.lo + f.w ≤ 64) : writeField s a vf v old f < 2 ^ 64 := by
  unfold writeField
  dsimp only
  repeat' split
  all_goals first | exact h | exact setFld_lt _ _ _ _ h hw

theorem writeFields_lt (s a vf v) (l : List FldRow) (old) (h : old < 2 ^ 64) (hp : fldsOk l = true) :
    l.foldl (fun x f => writeField s a vf v x f) old < 2 ^ 64 := by
  induction l generalizing old with
  | nil => exact h
  | cons g l ih =>
    simp only [fldsOk, Bool.and_eq_true, decide_eq_true_eq] at hp
    exact ih _ (writeField_lt _ _ _ _ _ _ h hp.1.1) hp.2

theorem rvAt_lt_of_ok (r : RegRow) (h : r.ok = true) (i) : r.reg.rvAt i < 2 ^ 64 := by
  simp only [RegRow.ok, Bool.and_eq_true, decide_eq_true_eq] at h
  unfold Reg.rvAt; split
  · decide
  · split
    · decide
    · exact h.2

/-- A field of a register after a write by its access code. -/
theorem rd_writeReg (s : State) (a : RegAt) (f : FldRow) (v : Nat) (h : ksorted s.regs = true) (hr : a.row ∈ regRows)
    (hf : f ∈ a.row.flds) : fld ((writeReg s a false v).rdReg a.row.reg a.i a.j a.k) f.lo f.w = fieldAfter s a v f := by
  have hok := regRows_ok _ hr
  have hrv := rvAt_lt_of_ok _ hok a.i
  simp only [RegRow.ok, Bool.and_eq_true] at hok
  unfold writeReg
  rw [rdReg_wrReg_self _ _ _ _ _ _ h hrv, Nat.mod_eq_of_lt (writeFields_lt _ _ _ _ _ _ (rdReg_lt _ _ _ _ _ hrv) hok.1),
    writeFields_in _ _ _ _ _ hok.1 f hf, writeField_in]
  rfl

theorem rowOf_mem {r : Reg} (h : (regRows.any fun x => x.reg.base == r.base) = true) : rowOf r ∈ regRows := by
  unfold rowOf
  cases e : regRows.find? fun x => x.reg.base == r.base with
  | none =>
    obtain ⟨x, hx, hb⟩ := List.any_eq_true.1 h
    exact absurd hb (List.find?_eq_none.1 e x hx)
  | some x => exact List.mem_of_find?_eq_some e

/-- A field of a named register after a write by its access codes. -/
theorem rd_plainWrite (s : State) (g : Fld) (f : FldRow) (i j k v : Nat) (h : ksorted s.regs = true)
    (hm : rowOf g.reg ∈ regRows) (hr : (rowOf g.reg).reg = g.reg) (hf : f ∈ (rowOf g.reg).flds) (hlo : f.lo = g.lo)
    (hw : f.w = g.w) : (plainWrite s g.reg i j k v).rd g i j k = fieldAfter s ⟨rowOf g.reg, i, j, k⟩ v f := by
  have := rd_writeReg s ⟨rowOf g.reg, i, j, k⟩ f v h hm hf
  unfold State.rd plainWrite
  rw [← this, hr, hlo, hw]

theorem plainWrite_only (s : State) (r : Reg) (i j k v : Nat) (vf : Bool) {l : List Nat} (h : ksorted s.regs = true)
    (hr : (rowOf r).reg = r) (hl : r.addr i j k ∈ l) : onlyRegs s (plainWrite s r i j k v vf) l := by
  unfold plainWrite writeReg
  exact onlyRegs_wrReg _ _ _ _ _ _ h (by rw [hr]; exact hl)

theorem plainWrite_sorted (s : State) (r : Reg) (i j k v : Nat) (vf : Bool) (h : ksorted s.regs = true) :
    ksorted (plainWrite s r i j k v vf).regs = true := wrReg_sorted _ _ _ _ _ _ h

end Sys2Proof.Machine
end

