-- ==== Sys2Proof/Tests/Slice0.lean ====
section
/-!
SUPPORT. Sys2Proof/Tests/Slice0.lean: ill-formed commands that WellFormed refuses, single commands against values worked out by
hand from the spec, and for each statement with hypotheses the states and operands that meet them, clause by clause.
-/
namespace Sys2Proof.Tests
open Sys2Proof.Machine

set_option Elab.async false

/-! ## Small states -/

/-- The reset state with some fields written: field, instance, value. -/
def st (l : List (Fld × Nat × Nat)) : State := l.foldl (fun s x => s.wr x.1 x.2.2 x.2.1) State.reset

/-- Partition 0 on slice 0, its command ring 0, and space 5 in slot 0. -/
def live : State :=
  st [(PRT_CTL.ENABLE, 0, 1), (PRT_CTL.SLICES, 0, 1), (RNG_CTL.ENABLE, 0, 1), (RNG_IDX.CIDX, 0, 1), (XLT_SPACE_LO.TAG, 0, 5),
    (XLT_SPACE_LO.LIVE, 0, 1)]

/-- `live` with one fetched descriptor on ring 0, at index 0. -/
def fetched1 (ws : List Word) : State := { live with fetched := [(0, ws)] }

/-- `live` with one started descriptor on ring 0. -/
def started1 (ws : List Word) (aux : List Nat := []) (wait : Wait := .run) : State :=
  { live with started := [⟨0, 0, ws, 0, wait, aux, [], false, [], [(5, 0)], [], []⟩] }

/-- Elder A in control, Elder B in `b`. -/
def elders (b : Nat) (l : List (Fld × Nat × Nat) := []) : State :=
  st ([(ELD_STAT.STATE_A, 0, 2), (ELD_STAT.CLAIM_A, 0, 2), (ELD_STAT.STATE_B, 0, b), (ELD_STAT.CLAIM_B, 0, if b = 3 then 1 else 0)] ++ l)

/-- An extent of 1 GiB of partition 0 in a state. -/
def ext1 (x : ExtSt) : Ext := ⟨1, 0, false, false, false, 0, x, [], [], [], none, [], [], 0, false, none, false⟩

/-- `started1`, with space 5 translated to an open extent at 0 whose first lines the near store of slice 0 holds. -/
def mapped (ws : List Word) (buf : List Byte := []) (prog : Nat := 0) : State × Started :=
  let x : Started := ⟨0, 0, ws, prog, .run, [], buf, false, [], [(5, 0)], [], []⟩
  ({ live with started := [x], extents := [(0, ext1 .open)], copies := [⟨0, 5, true, 0, 3, 0⟩],
               tier := { live.tier with near := [(0, ⟨0, false, 0, 0⟩), (1, ⟨0, false, 0, 0⟩)] } }, x)

/-- Whether a line answers with its bytes. -/
def isOk : DLine → Bool
  | .ok _ => true
  | _ => false

/-- A packet from node 9 for node 0, in space 5 where the opcode uses a space. -/
def pkt (o c len arg code : Nat) (space : Nat := 5) (dst : Nat := 0) : Pkt :=
  mkPkt { dst := dst, src := 9, tc := c, opc := o, arg := arg, code := code, space := space, len := len } (List.replicate (64 * len) 0)

/-- `live` with port 31 ACTIVE, trusted, and its partner node 9. -/
def linked : State := ((live.wr PORT_STATUS.STATE 2 31).wrReg XRD_TRUST.reg 0 0 0 (2 ^ 31)).wr PORT_PARTNER.NODE 9 31

/-- The state after a packet has been taken on port 31 of `linked`. -/
def after (p : Pkt) : State := creditBack linked 31 (pTc (arrived linked 31 p)) (pLen (arrived linked 31 p))

theorem linked_takes (p : Pkt) (h : linkUp linked 31 = true ∧ arrivalFail (nodeId linked) (trusted linked 31) (arrived linked 31 p) = 0 ∧
    (wfld (arrived linked 31 p).w0 30 3 = 7 ∨ ¬ linked.on QOS_METER_LO.EN 31 (wfld (arrived linked 31 p).w0 30 3) = true) ∧
    linked.on XRD_EPOCH.DRAINING = false ∧ pEpoch (arrived linked 31 p) = (after p).rd XRD_EPOCH.CUR) :
    taken linked 31 p (after p) false (arrived linked 31 p) := by
  obtain ⟨h1, h2, h3, h4, h5⟩ := h
  refine ⟨rfl, h1, h2, linked, .green, ?_, by decide, rfl, ?_⟩
  · unfold meter; exact if_pos h3
  · exact ⟨h4, rfl, Or.inl h5⟩

/-- Port 31 in a STATE, with a link record. -/
def port (state : Nat) (x : LinkX := emptyLink) (l : List (Fld × Nat × Nat) := []) : State :=
  { st ((PORT_STATUS.STATE, 31, state) :: l) with links := [(31, x)] }

/-- Channel 31 in a STATE, with its record. -/
def chan (state : Nat) (x : ChanX := emptyChan) (l : List (Fld × Nat × Nat) := []) : State :=
  { st ((DDR_CTL.STATE, 31, state) :: l) with chans := [(31, x)] }

/-- A registered module of 256 GiB that keeps every population rule. -/
def dimm : Dimms := ⟨1, true, 1, true, true, 2, 256, 64, 410, []⟩

/-- A control flit of some body words. -/
def ctl (ws : List Word) : CtlMsg := ⟨⟨0, 0, false, false, 0, false, 0, 0⟩, ws⟩

/-! ## Ill-formed commands that each check refuses -/

def badPkt : Pkt := ⟨BitVec.ofNat 64 (2 ^ 40), 0, 0, 0, []⟩
def longPkt : Pkt := ⟨BitVec.ofNat 64 (65 * 2 ^ 40), 0, 0, 0, List.replicate (65 * 64) 0⟩
def okRep : ErrRep := ⟨3, 7, 5, 3, 16, 0xFF, 0, none, 0, [], false, 0⟩

theorem test_wf_idx : (Instr.copy 0 (2 ^ 32)).wf = false ∧ (Instr.nop 0 (2 ^ 32 - 1)).wf = true := by decide
theorem test_wf_name : (Instr.extentInitDone (2 ^ 22 - 2 ^ 10)).wf = false := by decide
theorem test_wf_obj : (Instr.armSetListReadDone (2 ^ 16)).wf = false := by decide
theorem test_wf_tag : (Instr.coalesceWindowEnd 0 0 0).wf = false ∧ (Instr.coalesceWindowEnd 0 (2 ^ 16) 0).wf = false := by decide
theorem test_wf_page : (Instr.holdTmoExpiry 0 1 (2 ^ 22)).wf = false := by decide
theorem test_wf_region : (Instr.versionReleaseDone 0 1024 1).wf = false := by decide
theorem test_wf_version : (Instr.versionReleaseDone 0 0 0).wf = false ∧ (Instr.versionReleaseDone 0 0 0xFFFFFFFD).wf = false := by decide
theorem test_wf_block : (Instr.granaryFillDone (2 ^ 40)).wf = false := by decide
theorem test_wf_group : (Instr.groupWritebackDone (2 ^ 36)).wf = false := by decide
theorem test_wf_dirKey : (Instr.snoopTmoExpiry (2 ^ 48)).wf = false := by decide
theorem test_wf_src : (Instr.answerCacheExpiry 0 (2 ^ 15) 0 0).wf = false := by decide
theorem test_wf_u16 : (Instr.answerCacheExpiry 0 0 (2 ^ 16) 0).wf = false ∧ (Instr.nvmeControllerReady 0 (2 ^ 16)).wf = false := by decide
theorem test_wf_syms : (Instr.corruptFlitRx 0 1089).wf = false := by decide
theorem test_wf_scope : (Instr.scopeResetDone 1023 true).wf = false ∧ (Instr.scopeResetDone (6 * 1024) true).wf = false := by decide
theorem test_wf_cause : (Instr.dozeWake 4096 256).wf = false := by decide
theorem test_wf_cell : (Instr.quietIdleExpiry 272).wf = false := by decide
theorem test_wf_unit : (Instr.brokenWire 16 0 true).wf = false ∧ (Instr.brokenWire 0 512 true).wf = false := by decide
theorem test_wf_srcCode : (Instr.ueCoalesceExpiry 0 (2 ^ 21) 0).wf = false := by decide
theorem test_wf_charge : (Instr.ueCoalesceExpiry 0 0 17).wf = false := by decide
theorem test_wf_svn : (Instr.recoveryFetchDone true 65 0).wf = false := by decide
theorem test_wf_keysel : (Instr.recoveryFetchDone true 0 3).wf = false := by decide
theorem test_wf_mr4 : (Instr.dramTempPoll 0 none 256).wf = false := by decide
theorem test_wf_sct : (Instr.nvmeCmdComplete 0 0 8 0 []).wf = false := by decide
theorem test_wf_sc : (Instr.nvmeCmdComplete 0 0 0 256 []).wf = false := by decide
theorem test_wf_code : (Instr.selfcheckReport true 256).wf = false := by decide
theorem test_wf_retry : (Instr.commandAddressParityFail 0 0).wf = false ∧ (Instr.commandAddressParityFail 0 4).wf = false := by decide
theorem test_wf_off : (Instr.registerWrite 0 (2 ^ 48) 0).wf = false := by decide
theorem test_wf_lines : (Instr.apertureRead 0 0 0 0).wf = false ∧ (Instr.apertureRead 0 0 0 65).wf = false := by decide
theorem test_wf_wholeLines : (Instr.apertureWrite 0 0 0 (List.replicate 63 0)).wf = false := by decide
theorem test_wf_token : (Instr.unlockToken (List.replicate 439 0)).wf = false := by decide +kernel
theorem test_wf_msg : (Instr.getVersion [0x10, 0x84, 0]).wf = false := by decide
theorem test_wf_descs : (Instr.descFetchDone 0 [[0]]).wf = false ∧
    (Instr.descFetchDone 0 (List.replicate 9 (List.replicate 8 0))).wf = false := by decide
theorem test_wf_blob : (Instr.keyBlobReadDone 0 0 (some (List.replicate 127 0))).wf = false := by decide +kernel
theorem test_wf_img : (Instr.routeImageReadDone 0 0 (some [0, 0, 0])).wf = false := by decide
theorem test_wf_pkt : badPkt.wf = false ∧ (Instr.read 0 badPkt).wf = false ∧ (Instr.sopRead (.pkt 0 badPkt)).wf = false := by decide
theorem test_wf_pkt_long : longPkt.wf = false := by decide +kernel
theorem test_wf_syncCall : (Instr.sopRead (.desc 0 (2 ^ 32))).wf = false := by decide
theorem test_wf_ctl : (Instr.caps 0 (ctl (List.replicate 30 0))).wf = false := by decide
theorem test_wf_dimms : (Instr.dramTrain 0 ⟨3, true, 1, true, true, 2, 64, 64, 295, List.replicate 3072 0⟩).wf = false ∧
    (Instr.dramTrain 0 ⟨1, true, 1, true, true, 9, 64, 64, 295, List.replicate 1024 0⟩).wf = false ∧ (Instr.dramTrain 0 dimm).wf = false := by
  decide +kernel
theorem test_wf_errRep : okRep.wf = true ∧ (Instr.errorReport { okRep with err := 256 }).wf = false ∧
    (Instr.errorReport { okRep with cls := 0 }).wf = false ∧ (Instr.errorReport { okRep with cls := 4 }).wf = false ∧
    (Instr.errorReport { okRep with part := 17 }).wf = false := by decide
theorem test_wf_stepReport : (Instr.startStepDone ⟨true, [2 ^ 13], 0, 0⟩).wf = false ∧ (Instr.startStepDone ⟨true, [], 65, 0⟩).wf = false := by decide
theorem test_wf_prop : (Instr.commitProposal (some ⟨8, 0, 0, 0, 0⟩) none).wf = false ∧ (Instr.commitProposal none (some ⟨1, 4, 0, 0, 0⟩)).wf = false := by decide
theorem test_wf_issuer : (Instr.issuerAccessDone 0 0 (.data [0])).wf = false := by decide
theorem test_wf_laserPoll : (Instr.laserPoll 0 (List.replicate 8 0)).wf = false := by decide
theorem test_wf_supplies : (Instr.supplySampleTick (List.replicate 11 0) (List.replicate 5 0)).wf = false ∧
    (Instr.supplySampleTick (List.replicate 12 0) []).wf = false := by decide
theorem test_wf_temps : (Instr.tempSensorTick (List.replicate 71 0)).wf = false := by decide
/-! ## The spec's worked examples -/

def rn : AEnv := ⟨false, false, 0, 0⟩
/-- 5.5, 0.1 and −2.0 as FP32 values. -/
def exBlock : List Machine.Num := [fpNum 0 0x40B00000, fpNum 0 0x3DCCCCCD, fpNum 0 0xC0000000]

/-- 05 "One block, five formats": BF16 and E4M3. -/
theorem test_convert_bf16_e4m3 : (exBlock.map fun v => (encElem rn 1 v).2) = [0x40B0, 0x3DCD, 0xC000] ∧
    (encElem rn 3 (fpNum 0 0x3DCCCCCD)).2 = 0x1D := by decide +kernel

/-- The same block in MXFP8 and MXFP4; the small element raises UNDERFLOW. -/
theorem test_convert_mx : (packBlock rn 5 exBlock).2 = ([0x7B, 0x4D, 0xF0], 121) ∧ (packBlock rn 7 exBlock).2 = ([7, 0, 12], 127) ∧
    (packBlock rn 7 exBlock).1.fl = 4 := by decide +kernel

/-- 05 R232: 460 into E4M3 gives 448 and no flag; 480 overflows to NaN, or saturates. -/
theorem test_e4m3_top : toFp rn 3 (.fin false 460 0) = (rn, 0x7E) ∧ (toFp rn 3 (.fin false 480 0)).2 = 0x7F ∧
    toFp { rn with sat := true } 3 (.fin true 480 0) = (⟨true, false, 0, 8⟩, 0xFE) := by decide +kernel

/-- 05 R231: −0 is less than +0. -/
theorem test_max_of_zeros : Machine.Num.max (.fin true 0 0) (.fin false 0 0) = .fin false 0 0 ∧ Machine.Num.min (.fin false 0 0) (.fin true 0 0) = .fin true 0 0 := by
  decide

/-- 06 "Clipping by global norm": √36, 1 ÷ 6, and 0.75 × (1 ÷ 6) into BF16. -/
theorem test_program_arith : bits32 (fpSqrt rn (fpNum 0 0x42100000)).2 = 0x40C00000 ∧
    bits32 (fpDiv rn (fpNum 0 0x3F800000) (fpNum 0 0x40C00000)).2 = 0x3E2AAAAB ∧
    (encElem rn 1 (fpMul rn (fpNum 0 0x3F400000) (fpNum 0 0x3E2AAAAB)).2).2 = 0x3E00 := by decide +kernel

/-- 02 "A filing season": page 0x80_0400_0000 of a partition of slices 8 and 9 has fault owner 9. -/
theorem test_fault_owner : (st [(PRT_CTL.SLICES, 9, 0x300)]).faultOwner 9 0x8004000000 = 9 := by decide +kernel

/-- 04 "An archive in the Granary": the line's home slice, cache channel, drive, data LBA and MAC LBA. -/
theorem test_granary_place : ∀ (s : State) (a : Nat), s = st [(PRT_CTL.SLICES, 9, 0x300), (PRT_XLT_CFG.GRAIN, 9, 4)] →
    a = 10240 * 2 ^ 30 + 5 * 2 ^ 30 + 3 * 2 ^ 20 + 8 * 2 ^ 10 → s.homeSlice 9 a = 9 ∧ s.cacheChan 9 a = 16 ∧
    blockPlace 10240 { ext1 .open with deep := true, units := [(8, 0, 256), (9, 0, 256), (10, 0, 256), (11, 0, 256)] } (a / 4096) =
      some (11, 348162, 348416) := by rintro s a rfl rfl; decide +kernel

/-- 10 "Two fibres": RTT, LENGTH and LIMIT of both, from the eighth echo. -/
theorem test_fibre_measured : ∀ f : Nat → State, f = (fun ps => fibreMeasured (port 1 { emptyLink with phase := 5, probes := (List.range 8).map fun k => (k, ps) }
      [(PORT_STATUS.WIDTH, 31, 3), (PORT_PARTNER.TURN, 31, 280)]) 31) → (f 9011520).rd PORT_FIBRE.RTT 31 = 9012 ∧
    (f 9011520).rd PORT_FIBRE.LENGTH 31 = 8624 ∧ (f 9011520).rd PORT_STATUS.LIMIT 31 = 1875 ∧ (f 61810000).rd PORT_STATUS.LIMIT 31 = 318 ∧
    (f 61810000).rd PORT_FIBRE.LENGTH 31 = 62500 := by rintro f rfl; decide +kernel

/-- 13's example: a marked device's garbage and two symbols of another are corrected; three outside it are not. -/
theorem test_marked_device : decodeLine 6 [48, 49, 50, 16, 17] = .corrected none ∧ decodeLine 6 [48, 16, 32, 72] = .uncorrectable ∧
    decodeLine 0xF [48, 49, 50, 51, 52, 53] = .corrected (some 6) ∧ decodeLine 0xF [0, 8, 16, 24, 32] = .uncorrectable := by decide

/-- 13's example: rank 1, subchannel 0 is entry 2, and marking device 6 there makes DDR_MARK 0xFFFF_F6FF. -/
theorem test_mark_register : (markEntry (st [(DDR_CTL.RANKS, 16, 2)]) 16 (2 ^ 19) = 2) ∧
    setFld 0xFFFFFFFF (4 * 2) 4 6 = 0xFFFFF6FF := by decide +kernel

/-- 14's example: the nonces of the READ and of its READ_DATA. -/
theorem test_nonces : sealNonce (mkPkt { dst := 0x512, src := 0xA05, opc := 1, seq := 0x1F40, ctag := 0x33, arg := 2, key := 0x2A1 } []) =
    [0x05, 0x0A, 0x12, 0x05, 0x01, 0x00, 0x40, 0x1F, 0x33, 0x00, 0xA1, 0x02] ∧
    sealNonce (mkPkt { dst := 0xA05, src := 0x512, opc := 2, len := 2, seq := 0x1F40, ctag := 0x33, key := 0x2A1 } []) =
    [0x12, 0x05, 0x05, 0x0A, 0x02, 0x00, 0x40, 0x1F, 0x33, 0x00, 0xA1, 0x02] := by decide

/-- 15's example: words 0, 1 and 6 of the record of cell 141. -/
theorem test_error_record : ∀ ws, ws = errWords ⟨0, 2, 0, 141, 2, 3, 2, 9, 0xFF, 0, 2, true, true, none, 0, 0, 0, 0, srcCode 0 141 4, 0, 0⟩ false →
    nthW ws 0 = 0x00020000FF030092 ∧ nthW ws 1 = 0x00000002184048D0 ∧ nthW ws 6 = 0x00000000000088D0 := by rintro ws rfl; decide

/-- 16's example: the entry of channel 17 in record 41. -/
theorem test_tally_entry : ∀ s : State, s = ({ (State.reset.wr AON_TIME.TIME 500000) with start := { State.reset.start with stepAt := 0 } }) →
    (tallyEntry s 6 17 2 0 1 128).rdReg CHIP_TALLY_ENT.reg 0 0 0 = 0x01F4008000821106 := by rintro s rfl; decide +kernel

/-- 19's example: CHIP_FLOOR_SLICE of slice 10 stands at 0x0250 of its block; PRT_CTL of partition 10 at BAR0 + 0x014A_0000. -/
theorem test_floor_registers : PRT_CTL.reg.addr 10 0 0 = 0x014A0000 ∧ wrote PRT_CTL.SLICES 0x10C00 = 0xC00 ∧ wrote PRT_CTL.ENABLE 0x10C00 = 1 ∧
    (st [(CHIP_FLOOR_SLICE.STATE, 10, 1), (CHIP_FLOOR_SLICE.CELLS, 10, 15), (CHIP_FLOOR_SLICE.CELLS_GOOD, 10, 15), (CHIP_FLOOR_SLICE.CH0_OK, 10, 1),
      (CHIP_FLOOR_SLICE.CH1_OK, 10, 1), (CHIP_FLOOR_SLICE.DRAM_G, 10, 512)]).rdReg CHIP_FLOOR_SLICE.reg 10 0 0 = 0x00000200000C07BD := by
  decide +kernel

/-- 17's example: a raise past a claim of 1 gives 2, and of 2 gives 3. -/
theorem test_raise_claim : claimOf (raiseClaim (st [(ELD_STAT.CLAIM_A, 0, 1), (ELD_STAT.CLAIM_B, 0, 1)]) 1) 1 = 2 ∧
    claimOf (raiseClaim (st [(ELD_STAT.CLAIM_B, 0, 2), (ELD_STAT.CLAIM_A, 0, 1)]) 0) 0 = 3 := by decide +kernel

/-- 03 "Worked ring": with 256 completions, records 200 to 255 carry PHASE 1 and 256 to 299 carry PHASE 0. -/
theorem test_phase : ∀ f : Nat → State, f = (fun k => st [(RNG_CFG.LOG_CPL, 1200, 2), (RNG_CPL_IDX.CPIDX, 1200, k)]) → nextPhase (f 200) 1200 = 1 ∧
    nextPhase (f 255) 1200 = 1 ∧ nextPhase (f 256) 1200 = 0 ∧ nextPhase (f 299) 1200 = 0 := by rintro f rfl; decide +kernel

/-- FIPS 180-4: the hash of "abc". -/
theorem test_sha256 : sha256 [0x61, 0x62, 0x63] = beBytes 32 0xba7816bf8f01cfea414140de5dae2223b00361a396177a9cb410ff61f20015ad := by decide +kernel

/-- FIPS 197 appendix C.3: AES-256. -/
theorem test_aes256 : aesEnc (aesKeys ((List.range 32).map toB)) (beBytes 16 0x00112233445566778899aabbccddeeff) =
    beBytes 16 0x8ea2b7ca516745bfeafc49904b496089 := by decide +kernel

/-! ## For each statement with hypotheses, what meets them -/

theorem wit_CommandsLeaveTheQueue : exec .smbusClockTimeout State.reset = .next State.reset ∧ mayStop .smbusClockTimeout = false := ⟨rfl, rfl⟩

/-! ## Each statement's hypotheses are met -/

theorem wit_EmptyQueueTicks : ∀ s, s = st [(CHIP_START.PHASE, 0, 1)] → s.pending = [] ∧ s.ctl.rsts = [] ∧ timeRuns s = true ∧
    s.xrd.slew = 0 ∧ ksorted s.regs = true := by rintro s rfl; decide +kernel

theorem wit_CommandsThatLeaveMemory : ∃ t, leavesMemory .governorTick = true ∧ exec .governorTick State.reset = .next t :=
  ⟨_, rfl, rfl⟩

theorem wit_StepKeepsInvariant : Inv State.reset ∧ ∃ t, step State.reset = .next t :=
  ⟨⟨rfl, rfl, List.Pairwise.nil, fun _ h => absurd h (List.not_mem_nil)⟩, _, rfl⟩

/-- FLT_CFG's offset, of a register without an action, and that of a 32-bit route. -/
theorem wit_RegisterWriteByAccessCode : ∀ x ∈ [(FLT_CFG.reg, 0, false), (XRD_ROUTE.reg, 1, true)],
    ksorted State.reset.regs = true ∧ reaches State.reset (x.1.addr x.2.1 0 0) ⟨rowOf x.1, x.2.1, 0, 0⟩ 0 x.2.2 ∧
    actionRegs.contains (rowOf x.1).reg.base = false := by unfold reaches; decide +kernel

/-- A hole of PF0's view and one of a VF's; a chip whose registers do not answer; the offset of a register. -/
theorem wit_WriteWithoutRegister : (∀ f ∈ [0, 1], State.reset.rd CHIP_SLEEP.STATE ≠ 3 ∧ served State.reset f 0xFF8 = true ∧
    msixAt f 0xFF8 = none ∧ (viewOff State.reset f 0xFF8).all (fun o => (regOfByte o).isNone && (regOfByte (o + 7)).isNone) = true) ∧
    viewOff State.reset 0 0xFF8 = some 0xFF8 ∧ findReg 0xFF8 = none ∧ 0xFF8 < pbaBase 0 ∧
    (viewOff State.reset 0 FLT_CFG.reg.base = some FLT_CFG.reg.base ∧ served State.reset 0 FLT_CFG.reg.base = true ∧
      msixAt 0 FLT_CFG.reg.base = none ∧ FLT_CFG.reg.base < pbaBase 0 ∧ findReg FLT_CFG.reg.base = some ⟨rowOf FLT_CFG.reg, 0, 0, 0⟩) ∧
    ∀ s : State, s = { live with ctl := { live.ctl with closed := [5 * 1024] } } → served s 1 0 = false := by
  refine ⟨by decide +kernel, by decide +kernel, by decide +kernel, by decide +kernel, by decide +kernel, ?_⟩
  rintro s rfl; decide +kernel

/-- Half a register written, on PF0's side and on a VF's, and a route written whole; an OWNER above 16 (03 R142); GRAIN changed
while an extent is held; WB_LOW above WB_HIGH, on a VF's side too; PIDX one past a full ring of 64 and CCIDX past an empty one,
of a ring of PF0 and of a partition; MIN values that sum to 257. -/
theorem wit_HostErrorsStop : ∀ s t : State, s = { live with extents := [(0, ext1 .open)] } → t = live.wr RNG_CFG.OWNER 16 →
    (∀ f ∈ [0, 1], s.rd CHIP_SLEEP.STATE ≠ 3 ∧ served s f 4 = true ∧ msixAt f 4 = none ∧
      (viewOff s f 4).any (fun o => (regOfByte o).isSome && o % accessBytes false != 0) = true) ∧
    (regOfByte XRD_ROUTE.reg.base ≠ none ∧ regWidth XRD_ROUTE.reg.base ≠ accessBytes false) ∧
    (∀ x ∈ [(RNG_CFG.reg, 1, 17 * 16, 142), (PRT_XLT_CFG.reg, 0, 2 ^ PRT_XLT_CFG.GRAIN.lo, 111), (PRT_DCACHE_CFG.reg, 0, 2 * 2 ^ PRT_DCACHE_CFG.WB_LOW.lo, 191)],
      ∀ a, a = RegAt.mk (rowOf x.1) x.2.1 0 0 → findReg (x.1.addr x.2.1 0 0) = some a ∧ viewOff s 0 (x.1.addr x.2.1 0 0) = some (x.1.addr x.2.1 0 0) ∧
        served s 0 (x.1.addr x.2.1 0 0) = true ∧ msixAt 0 (x.1.addr x.2.1 0 0) = none ∧
        writeError s a (newValue s a false x.2.2.1) = x.2.2.2) ∧
    (∀ a, a = RegAt.mk (rowOf PRT_DCACHE_CFG.reg) 0 0 0 → served s 1 (PRT_DCACHE_CFG.reg.base - 0x01400000) = true ∧
      msixAt 1 (PRT_DCACHE_CFG.reg.base - 0x01400000) = none ∧ viewOff s 1 (PRT_DCACHE_CFG.reg.base - 0x01400000) = some PRT_DCACHE_CFG.reg.base ∧
      writeError s a (newValue s a true (2 * 2 ^ PRT_DCACHE_CFG.WB_LOW.lo)) ≠ 0) ∧
    (∀ x ∈ [(t, 0), (live.wr RNG_CFG.CLASS 1, 1)], dbSlot x.1 x.2 0 = some 0 ∧ dbIgnored x.1 0 0 66 = false ∧ dbBad x.1 0 0 66 = true ∧
      dbIgnored x.1 0 1 1 = false ∧ dbBad x.1 0 1 1 = true) ∧ ringOwner t 0 = 16 ∧ ringOwner (live.wr RNG_CFG.CLASS 1) 0 < 16 ∧
    256 < minSum (st [(QOS_REG.MIN, 1, 1)]) 0 256 := by
  rintro s t rfl rfl
  refine ⟨by decide +kernel, by decide +kernel, ?_, ?_, by decide +kernel, by decide +kernel, by decide +kernel, by decide +kernel⟩
  · rintro x hx a rfl; revert x; decide +kernel
  · rintro a rfl; decide +kernel

/-- The first and the last view of partition 0, and one of a ring that it owns. -/
theorem wit_VfReachesOnlyItsOwn : viewOff State.reset 1 0 = some 0x01400000 ∧ viewOff State.reset 1 0xBFF8 = some 0x0140BFF8 ∧
    viewOff live 1 0xC000 = none ∧ viewOff (st [(RNG_CFG.CLASS, 3, 1)]) 1 0xC000 = some (0x01500000 + 3 * 64) := by decide +kernel

/-- CLEAR is bit 0 of every clearing register. -/
theorem wit_ClearsZeroTheirCounters : ksorted State.reset.regs = true ∧ pf0Open State.reset = true ∧ ∀ f ∈ [PRT_XLT_STAT_CLR.CLEAR,
    PRT_RGN_CLR.CLEAR, PRT_SYNC_CLR.CLEAR, PRT_SEC_CLR.CLEAR, PORT_CNT_CLR.CLEAR, XRD_CNT_CLR.CLEAR, FLT_CNT_CLR.CLEAR,
    IRQ_STAT_CLR.CLEAR, ELD_CNT_CLR.CLEAR], wrote f 1 = 1 := by decide +kernel

theorem wit_PartitionRegisterWrites : ∀ s, s = State.wr (State.wr State.reset PRT_COR_CTL.EN 1 0 15) PRT_RGN_CFG.EN 1 0 1023 →
    ksorted s.regs = true ∧ pf0Open s = true ∧ (s.on PRT_COR_CTL.EN 0 0 = false ∧ wrote PRT_COR_CTL.EN (2 ^ PRT_COR_CTL.EN.lo) = 1) ∧
    s.on PRT_COR_CTL.EN 0 15 = true ∧ (s.on PRT_RGN_CFG.EN 0 0 = false ∧ wrote PRT_RGN_CFG.EN (2 ^ PRT_RGN_CFG.EN.lo) = 1) ∧
    (s.on PRT_RGN_CFG.EN 0 1023 = true ∧ wrote PRT_RGN_CFG.EN 0 = 0) ∧ (live.slicesOf 0 = [0] ∧ 15 ∈ cellsOf live 0 ∧
    ksorted live.cells = true) := by rintro s rfl; decide +kernel

/-- GO alone, and CLEAR alone, on a partition whose load is idle. -/
theorem wit_ProgramLoadsAndClears : ∀ v w : Nat, v = 2 ^ PRT_PROG_LOAD.GO.lo → w = 2 ^ PRT_PROG_LOAD.CLEAR.lo →
    (pf0Open live = true ∧ live.rd PRT_PROG_STAT.STATE ≠ 1) ∧ (wrote PRT_PROG_LOAD.GO v = 1 ∧ wrote PRT_PROG_LOAD.CLEAR v = 0) ∧
    (wrote PRT_PROG_LOAD.GO w = 0 ∧ wrote PRT_PROG_LOAD.CLEAR w = 1) ∧
    ∀ x ∈ [v, w], ∀ t, t = plainWrite live PRT_PROG_LOAD.reg 0 0 0 x → t.rd PRT_PROG_STAT.STATE ≠ 1 ∧
      slotBusy t 0 (t.rd PRT_PROG_LOAD.SLOT) = false := by
  rintro v w rfl rfl
  refine ⟨by decide +kernel, by decide +kernel, by decide +kernel, ?_⟩
  intro x hx t ht; subst ht; revert x; decide +kernel

theorem wit_RingEnableAndStop : ksorted live.regs = true ∧ pf0Open live = true ∧ (live.on RNG_CTL.ENABLE 1 = false ∧
    wrote RNG_CTL.ENABLE 1 = 1 ∧ wrote RNG_CTL.STOP 1 = 0) ∧ (live.on RNG_CTL.ENABLE 0 = true ∧ wrote RNG_CTL.STOP 2 = 1 ∧
    (live.ringX 0).stopping = 0 ∧ (live.ringX 0).fetching = 0 ∧ ringStarted live 0 = [] ∧ live.fetched = [] ∧ live.heldCpl = []) := by
  decide +kernel

/-- A ring that is off; PIDX as it is. -/
theorem wit_IgnoredDoorbells : dbSlot live 0 1 = some 1 ∧ live.on RNG_CTL.ENABLE 1 = false ∧ dbSlot live 0 0 = some 0 ∧
    live.rd RNG_IDX.PIDX 0 = 0 := by decide +kernel

/-- PIDX 65 fills a ring of 64 whose CIDX is 1; CCIDX goes up to CPIDX. -/
theorem wit_DoorbellsMoveAnIndex : ∀ (s : State) (q : HeldReq), q = ⟨1, 64, mkPkt { opc := aptWrite } [], [], none⟩ →
    s = { (live.wr RNG_CPL_IDX.CPIDX 64).wr CHIP_SLEEP.WAKE_ON_DB 0 with reqs := [q] } → ksorted s.regs = true ∧
    (ksorted s.rings = true ∧ q ∈ s.reqs ∧ pOpc q.pkt = aptWrite ∧ (q.port - 64) / 16 = 0) ∧
    dbSlot s 0 0 = some 0 ∧ s.on RNG_CTL.ENABLE 0 = true ∧ s.on CHIP_SLEEP.WAKE_ON_DB = false ∧ (s.rd RNG_CFG.CLASS 0 < 2 ∧
    s.rd RNG_IDX.PIDX ≠ 65 ∧ dbBad s 0 0 65 = false) ∧ dbBad s 0 1 64 = false := by rintro s q rfl rfl; decide +kernel

theorem wit_RingTimersAndFetches : ∀ s t : State, s = { ((started1 [0x50]).wr RNG_NOTIFY.EN 1).wr RNG_NOTIFY.TIME 1 with rings := [(0, ⟨1, 0, false, false, 8, 0, []⟩)] } → t = { s with rings := [(0, ⟨0, 0, true, true, 0, 0, []⟩)] } →
    (ringLoc1 s 0 = false ∧ (s.ringX 0).fetching = 8 ∧ (s.ringX 0).stopping = 0) ∧ s.on RNG_CTL.ENABLE 0 = true ∧
    (s.on RNG_NOTIFY.EN 0 = true ∧ s.rd RNG_NOTIFY.TIME 0 ≠ 0 ∧ (s.ringX 0).pend ≠ 0) ∧ (s.rd RNG_CFG.WDOG 0 ≠ 0 ∧ ringStarted s 0 ≠ [] ∧
    (s.ringX 0).stalled = false ∧ (s.ringX 0).wedged = false ∧ ringOwner s 0 ≠ 16) ∧ (t.ringX 0).stalled = true ∧
    (t.ringX 0).wedged = true := by rintro s t rfl rfl; decide +kernel

/-- Windows of PF0 and of a VF; the last line of a window; a partition under reset. -/
theorem wit_ApertureOutcomes : ∀ s t, s = st [(PRT_CTL.ENABLE, 0, 1), (PRT_CTL.SLICES, 0, 1), (XLT_APT_WIN.EN, 15, 1),
      (XLT_APT_WIN.SPACE, 15, 5), (PRT_APT_WIN.EN, 0, 1), (PRT_APT_WIN.SPACE, 0, 5)] → t = { s with ctl := { s.ctl with closed := [3 * 1024] } } →
    aptMap s 0 0 0 1 = none ∧ aptMap s 0 15 (2 ^ 32 - 64) 1 = some (5, 2 ^ 32 - 64) ∧ aptMap s 0 15 (2 ^ 32 - 64) 2 = none ∧
    (s.partOn 1 = false ∧ aptMap s 1 0 0 64 = some (5, 0) ∧ aptAllowed s 1 5 = false) ∧ (aptMap t 1 0 0 1 = some (5, 0) ∧ funcShut t 1 = true) ∧
    (funcShut s 0 = false ∧ aptAllowed s 0 5 = true) := by rintro s t rfl rfl; decide +kernel

/-- Claims 254 and 255 of the other unit; a claim that stays and one that changes. -/
theorem wit_ClaimsAreRaised : ∀ s t, s = st [(ELD_STAT.CLAIM_B, 0, 254)] → t = st [(ELD_STAT.CLAIM_B, 0, 255), (ELD_STAT.STATE_B, 0, 3)] →
    ksorted s.regs = true ∧ ksorted t.regs = true ∧ claimOf s 1 + 1 ≤ 255 ∧ 255 < claimOf t 1 + 1 ∧ inService t 1 = true ∧ claimOf s 0 = 0 ∧
    claimOf s 0 ≠ 255 := by rintro s t rfl rfl; decide +kernel

theorem wit_HeartbeatsAndSelfChecks : ∀ s t, s = elders 3 → t = { s.wr ELD_STAT.FROZEN 1 with eld := { s.eld with trigger := 2 } } →
    ksorted s.regs = true ∧ s.on ELD_STAT.FROZEN = false ∧ inService s 0 = true ∧ eldSt s 1 = 3 ∧ eldSt s 0 = 2 ∧
    t.on ELD_STAT.FROZEN = true ∧ (checking t).contains 1 = true ∧ kget 1 t.eld.codes = none := by rintro s t rfl rfl; decide +kernel

theorem wit_CommitsAreCompared : (activeElder (elders 3) = some 0 ∧ (elders 3).on ELD_STAT.FROZEN = false ∧ pf0Open (elders 3) = true ∧
    eldSt (elders 3) 1 = 3) ∧ (∃ p q : Proposal, p ≠ q) ∧ (activeElder (elders 6) = some 0 ∧ eldSt (elders 6) 1 ≠ 3 ∧ eldSt (elders 6) 1 ≠ 5) ∧
    (∃ s, activeElder s = some 1 ∧ s.on ELD_STAT.FROZEN = false ∧ pf0Open s = true ∧ eldSt s 0 = 6) ∧ (wrote ELD_CTL.REARM_A 1 = 1 ∧
    wrote ELD_CTL.REARM_B 1 = 0 ∧ wrote ELD_CTL.HANDOVER 1 = 0) ∧ (wrote ELD_CTL.REARM_A 4 = 0 ∧ wrote ELD_CTL.REARM_B 4 = 0 ∧
    wrote ELD_CTL.HANDOVER 4 = 1) ∧ (activeElder (elders 4) = some 0 ∧ eldSt (elders 4) 1 = 4 ∧ (elders 4).eld.step < 4 ∧
    ksorted (elders 4).regs = true) ∧ ∃ s, activeElder s = some 0 ∧ eldSt s 1 = 4 ∧ s.eld.step = 4 ∧ ksorted s.regs = true :=
  ⟨by decide +kernel, ⟨⟨1, 0, 0, 0, 0⟩, ⟨2, 0, 0, 0, 0⟩, by decide⟩, by decide +kernel,
   ⟨st [(ELD_STAT.STATE_B, 0, 2), (ELD_STAT.CLAIM_B, 0, 1), (ELD_STAT.STATE_A, 0, 6)], by decide +kernel⟩, by decide +kernel,
   by decide +kernel, by decide +kernel, { elders 4 with eld := { (elders 4).eld with step := 4 } }, by decide +kernel⟩

/-- Slot 0 and index 7 of a measurement; a session before and after FINISH; a KEY_PROG of a new stream. -/
theorem wit_SpdmAnswers : ∀ s : State, s = { State.reset with keys := { State.reset.keys with spdm := 3, sess := [⟨2, false, []⟩] } } → 1 ≤ s.keys.spdm ∧ 2 ≤ s.keys.spdm ∧ 3 ≤ s.keys.spdm ∧ s.keys.identity = true ∧ s.keys.sess.length < 2 ∧
    (nthB [0x12, 0xE0, 0, 7] 2).toNat % 16 = 0 ∧ (nthB [0x12, 0xE0, 0, 7] 3).toNat = 7 ∧ (sessOf s [2, 0, 0, 0] false).isSome = true ∧
    (sessOf { s with keys := { s.keys with sess := [⟨2, true, []⟩] } } [2, 0, 0, 0] true).isSome = true ∧
    s.keys.ide = [] ∧ (List.replicate 40 (7 : Byte)).length = 40 ∧ ([] : List IdeStream).length < 4 := by
  rintro s rfl; decide +kernel

/-- That a signature holds is a free value; every other hypothesis is met. -/
theorem wit_TestPortAndFuses : ∀ s nonce, nonce = List.replicate 32 (7 : Byte) → s = { State.reset with keys :=
      { State.reset.keys with nonce := some nonce } } → ∀ tok, tok = uniqueId s ++ nonce ++ List.replicate 392 0 →
    (ksorted s.regs = true ∧ s.keys.nonce = some ((tok.drop 16).take 32) ∧ tok.take 16 = uniqueId s ∧ s.rd CHIP_SLEEP.STATE ≠ 3) ∧
    State.reset.keys.nonce ≠ some ((tok.drop 16).take 32) ∧ (pf0Open s = true ∧ s.on CHIP_LOCK.LOCK = false ∧
    wrote SEC_FW.ADVANCE (2 ^ SEC_FW.ADVANCE.lo) = 1 ∧ wrote SEC_FW.REVOKE (2 ^ SEC_FW.ADVANCE.lo) = 0 ∧ wrote SEC_FW.ADVANCE 0 = 0) ∧
    (st [(CHIP_LOCK.LOCK, 0, 1)]).on CHIP_LOCK.LOCK = true := by rintro s n rfl rfl tok rfl; decide +kernel
/-- NOP starts; NOP is no FILL; a bag of 0 and MX rows scattered, of a ring of PF0 and of a partition; a ROUTE_STAGE past the
table is a host error. -/
theorem wit_DescriptorStarts : (∀ e ∈ ([([0x50], isOpc 0x50), ([0x50002, 0, 0, 1], isOpc 0x02), ([0x50009, 0, 0, 0, 0, 1, 1], isOpc 0x09),
      ([0x41], isOpc 0x41)] : List (List Word × (List Word → Bool))),
      startable (drainBad ((fetched1 e.1).fetched.length + 1) (fetched1 e.1) 0) 0 0 e.2 = some e.1) ∧
    startable (drainBad 2 (fetched1 [0x50]) 0) 0 0 (isOpc 0x02) = none ∧ rowsBad [0x50009] = true ∧ rowsBad [0x5000A + 5 * 2 ^ 36] = true ∧
    rowsBad [0x50009, 0, 0, 0, 0, 1, 1] = false ∧ stageBusy live = false ∧ stageBad [0x41, 0, 0, 0, 0, 1] = true ∧
    stageBad [0x41, 0, 0, 0, 0, 0x80000000 % 2 ^ 31] = false ∧
    (∀ e ∈ ([([0x50009], isOpc 0x09), ([0x5000A + 5 * 2 ^ 36], isOpc 0x0A)] : List (List Word × (List Word → Bool))), ∀ s,
      s = (fetched1 e.1).wr RNG_CFG.OWNER 16 → startable (drainBad (s.fetched.length + 1) s 0) 0 0 e.2 = some e.1 ∧ ringOwner s 0 = 16) ∧
    ringOwner (fetched1 [0x50009]) 0 ≠ 16 := by
  refine ⟨by decide +kernel, by decide +kernel, by decide +kernel, by decide +kernel, by decide +kernel, by decide +kernel, by decide +kernel,
    by decide +kernel, ?_, by decide +kernel⟩
  rintro e he s rfl; revert e; decide +kernel

/-- A KEY_LOAD without and with an Elder in control; a NOP whose first step is its last. -/
theorem wit_DescriptorsRunToAnEnd : ∀ s x, s = started1 [0x50] → x = ⟨0, 0, [0x50], 0, .run, [], [], false, [], [(5, 0)], [], []⟩ →
    (findStarted s 0 0 = some x ∧ x.wait = .run) ∧ (opcCommits 0x40 = true ∧ commitFree s = false ∧ commitFree (elders 3) = true) ∧
    (0 < runFuel ∧ goesOn 0 s x s x ∧ workStep s x = .done s x 0 0 0) := by
  rintro s x rfl rfl; exact ⟨by decide +kernel, by decide +kernel, by decide +kernel, ⟨rfl, rfl⟩, rfl⟩

/-- FENCE alone in front; EXTENT_ADD for a partition that is off and for one that is not; a reply to no entry; a slot emptied; a pin and an unpin; an
AT 10 µs ahead, and one that is not. -/
theorem wit_WorkOfControlDescriptors : ∀ s, s = { started1 [] with vers := [(0, ⟨1, [], 2⟩)] } →
    (dOpc [0x1A] = 0x1A ∧ ∀ y ∈ s.started, y.ring = 0 → y.idx = 0) ∧ addRefused s [0x38, 0, 0, 0, 2 ^ 44 + 2 ^ 32] = 0x14 ∧
    addRefused (((((live.wr DDR_CTL.STATE 2 0).wr DDR_CTL.CAP_G 16 0).wr DDR_CTL.STATE 2 1).wr DDR_CTL.CAP_G 16 1)) [0x38, 0, 0, 0, 2 ^ 32] = 0 ∧
    s.faults.any (isEntry 0 5 0) = false ∧ (klKind [0x40, 0, 0, 0, 0x2FFF] = 2 ∧ klSlot [0x40, 0, 0, 0, 0x2FFF] = 4095) ∧
    ((s.wr PRT_RGN_CFG.EN 1).on PRT_RGN_CFG.EN 0 0 = true ∧ rgnVer s 0 0 1 = some ⟨1, [], 2⟩) ∧ (s.now = 0 ∧ stageBusy s = false ∧
    (dW [0x42, 0, 0, 0, 10000, 1] 4).toNat = 10000 ∧ dOp [0x42, 0, 0, 0, 10000, 1] 1 0 1 = 1 ∧ (dW [0x42, 0, 0, 0, 9999] 4).toNat < 10000) := by
  rintro s rfl; decide +kernel

/-- A FILL of 2 lines before, in and past its last line; the two steps of a COPY of a line; a line in the near store, dirty and
clean, its channel in service and lost. -/
theorem wit_DataDescriptorsMoveLines : ∀ fw cw d, fw = [0x50002, 0, 0, 2, 7] → cw = [0x50001, 0, 64, 1] → d = List.replicate 64 (7 : Byte) →
    ((mapped fw [] 2).2.prog = dLen fw ∧ (mapped cw [] 1).2.prog = dLen cw) ∧ (∀ k ∈ [0, 1], k ≠ dLen fw ∧
      isOk (dWrite (mapped fw [] k).1 (mapped fw [] k).2 (dSpace fw) (dDst fw + 64 * k)
        ((List.replicate 8 (leBytes 8 (dW fw 4).toNat)).flatten)).2 = true) ∧
    (dFlag cw 3 = false ∧ isOk (dRead (mapped cw).1 (mapped cw).2 (dSrcSpace cw) (dSrc cw)).2 = true) ∧
    (dFlag cw 4 = false ∧ d ≠ [] ∧ isOk (dWrite (mapped cw d).1 (mapped cw d).2 (dSpace cw) (dDst cw) d).2 = true) ∧
    (ksorted live.mem = true ∧ (kget 0 (mapped cw).1.tier.near).isSome = true ∧ d.length = 64 ∧ ∀ dp, dp = false ∨ dp = true →
      (mapped cw).1.rd DDR_CTL.STATE (if dp then (mapped cw).1.cacheChan 0 0 else (fastPlace (mapped cw).1 0 (ext1 .open) 0).1) ≠ 6) ∧
    (∀ s, s = (mapped cw).1.wr DDR_CTL.STATE 6 ((mapped cw).1.cacheChan 0 0) → s.rd DDR_CTL.STATE (s.cacheChan 0 0) = 6) ∧
    NearLine.dirty ⟨0, true, 0, 0⟩ = true := by
  rintro fw cw d rfl rfl rfl
  refine ⟨by decide +kernel, by decide +kernel, by decide +kernel, by decide +kernel, ⟨by decide +kernel, by decide +kernel,
    by decide +kernel, ?_⟩, ?_, rfl⟩
  · rintro dp (rfl | rfl) <;> decide +kernel
  · rintro s rfl; decide +kernel

/-- Each state of an extent, one that a release waits for, and a partition's reset that halts its releases. -/
theorem wit_ExtentsChangeState : commitFree (elders 3) = true ∧ commitFree State.reset = false ∧ (∀ x ∈ [ExtSt.opening, .closing, .scrubbing,
    .moving], ∀ s : State, s = { elders 3 with extents := [(0, ext1 x)] } → s.ext 0 = some (ext1 x) ∧ commitFree s = true ∧
      (ext1 x).absorbed = false ∧ releaseHalted s (ext1 x) = false ∧ tokensOut s 0 (ext1 x) = false ∧ s.verRels = []) ∧
    (ext1 .opening).closeAfter = none ∧ (∀ (e : Ext) (s t : State), e = { ext1 .opening with closeAfter := some (0, 0) } →
      s = { elders 3 with extents := [(0, e)] } → t = finishBy ((scrubExt s 0 e).setExt 0 { e with st := .open, by_ := none, closeAfter := none }) e
        0 0 → t.ext 0 = some { e with st := .open, by_ := none, closeAfter := none }) ∧
    ∀ s : State, s = { elders 3 [(PRT_CTL.ENABLE, 0, 1), (PRT_CTL.SLICES, 0, 1)] with ctl :=
      { State.reset.ctl with rsts := [⟨2, 3 * 1024, 1, 2, none, 0⟩] } } → releaseHalted s (ext1 .closing) = true ∧ commitFree s = true := by
  refine ⟨by decide +kernel, by decide +kernel, ?_, rfl, ?_, ?_⟩
  · intro x hx s hs; subst hs; revert x; decide +kernel
  · rintro e s t rfl rfl rfl; decide +kernel
  · rintro s rfl; decide +kernel

/-- Dirty lines, in the near store and in a write queue, that lie in the extent. -/
theorem wit_ScrubbedExtentsReadZero : ksorted State.reset.mem = true ∧ ksorted (mapped []).1.extents = true ∧ ∀ s : State,
    s = { (mapped []).1 with tier := { live.tier with near := [(0, ⟨0, true, 0, 0⟩)], wbuf := [1] } } →
    (∀ n ∈ s.tier.near, n.2.dirty = true → inExt 0 (ext1 .open) n.1 = true) ∧ ∀ l ∈ s.tier.wbuf, inExt 0 (ext1 .open) l = true := by
  refine ⟨by decide +kernel, by decide +kernel, ?_⟩
  rintro s rfl; decide +kernel

/-- That a blob opens is left to the free values of its cipher; one that is absent does not. -/
theorem wit_ReadsForTheControlPlane : ∀ (s : State) (x : Started),
    s = { elders 3 with started := [x], verRels := [⟨0, 0, 1, [0], [], 0⟩], extents := [(0, ext1 .scrubbing)] } →
    (∀ w ∈ [[0x40], [0x41], [0x50030]], x = (⟨0, 0, w, 0, .ext, [], [], false, [], [], [], []⟩ : Started) → findStarted s 0 0 = some x ∧ commitFree s = true) ∧
    commitFree State.reset = false ∧ (dOpc [0x40] = 0x40 ∧ klKind [0x40, 0, 0, 0, 0x1000] = 1 ∧
    State.reset.rd PRT_EXT_USED.EXTENTS (klPart [0x40, 0, 0, 0, 0x1000]) = 0 ∧ klKind [0x40, 0, 0, 0, 0] ≠ 1) ∧
    (rsCount [0x41, 0, 0, 0, 0, 0x10000] = 1 ∧ (List.replicate 4 (0 : Byte)).length = 4 * 1) ∧ (s.verRels.find? (fun v => v.part == 0 &&
    v.region == 0 && v.num == 1) = some ⟨0, 0, 1, [0], [], 0⟩ ∧ s.ext 0 = some (ext1 .scrubbing)) ∧ (dOpc [0x50030] = 0x30 ∧
    ∀ k ∈ ([] : List Nat), k ∉ inFlight s (dSpace [0x50030])) := by
  rintro s x rfl
  refine ⟨?_, by decide +kernel, by decide +kernel, by decide +kernel, ⟨rfl, rfl⟩, by decide +kernel, by simp⟩
  rintro w hw rfl; revert w; decide +kernel

/-- An unwritten and a written entry, with no fault ring to take the record and with one; a wait whose condition holds, one
that has a time limit and one that has none; a held request that flies and one that does not; a flight past its translation and
one before it; lines, sets, loads and own requests that wait. -/
theorem wit_FaultsAndWaitsEnd : ∀ (e : FaultEnt) (r : HeldReq) (q : OwnReq) (g : Flight), e = ⟨0, 0, 5, 0, 1, 7, 0, true, [], false, []⟩ →
    r = ⟨1, 0, pkt 1 3 0 1 0, [.wait (.chan 0)], some (0, 0)⟩ → q = ⟨1, .fetch, 0, 0, pkt 1 3 0 1 0, true⟩ →
    g = ⟨3, .req 1, 5, 0, 0, 0, 0, none, some (0, 0, none), false⟩ →
    isEntry 0 5 0 e = true ∧ (faultRecord live 0 []).2 = false ∧ (∀ s, s = st [(RNG_CFG.CLASS, 3, 2), (RNG_CFG.PRIMARY, 3, 1),
      (RNG_CTL.ENABLE, 3, 1)] → (faultRecord s 0 []).2 = true) ∧ (∀ s, s = started1 [0x19, 0, 0, 0, 0, 0, 1] [0, 0, 0, 0, 0xFF, 0] →
      findStarted s 0 0 = s.started.head? ∧ dOpc [0x19] = 0x19 ∧ dOp [0x19, 0, 0, 0, 0, 0, 1] 2 0 32 ≠ 0 ∧ dOp [0x19] 2 0 32 = 0 ∧
      nthN [0, 0, 0, 0, 0xFF, 0] 4 = 0xFF ∧ nthN [0, 0, 0, 0, 0, 0] 4 ≠ 0xFF) ∧ (∀ s : State, s = { live with reqs := [r], flights := [g] } →
      s.reqs.find? (fun q => q.id == 1) = some r ∧ r.look = some (0, 0) ∧ flies (setReq s (poisonWaits r)) (.req 1) = true ∧
      flies { live with reqs := [poisonWaits r] } (.req 1) = false ∧ s.flights.find? (fun h => h.id == g.id) = some g ∧ g.res.isSome = true ∧
      { g with res := none }.res = none) ∧ ((started1 [0x02] [] .retry).started.map (·.wait) = [.retry]) ∧
    (∀ s : State, s = { live with loads := [(15, ⟨0, 0, 0, .retry, 0⟩)] } → (kget 15 s.loads).map (·.wait) = some .retry) ∧
    (∀ s : State, s = { live with xrd := { live.xrd with own := [q, { q with id := 2, naked := false }] } } →
      s.xrd.own.find? (fun q => q.id == 1) = some q ∧ (s.xrd.own.find? (fun q => q.id == 2)).map (·.naked) = some false) := by
  rintro e r q g rfl rfl rfl rfl
  refine ⟨by decide +kernel, by decide +kernel, ?_, ?_, ?_, by decide +kernel, ?_, ?_⟩ <;> rintro s rfl <;> decide +kernel

/-- An invocation that reads its blocks, in its tiles, and past them; a time limit and none; a set that is open and one that waits; a COPY
from the issuer. -/
theorem wit_ProgramsSetsAndIssuerAccesses : ∀ (v : Invoc) (x : SetX), v = ⟨0, 0, [], [], [], false, false, 0, [], 0, 0, 0, 0, 0, [], 0, 2, 0, none, [], false⟩ →
    x = ⟨0, [], 5, [], [], [], [], [], 0, 0, 0, false, false, [], false, 0, .retry⟩ → ∀ s : State,
    s = { started1 [0x50001, 0, 0, 1] [] .ext with invocs := [(0, v)], sets := [(0, x)] } → (findStarted s 0 0 = s.started.head? ∧ ∀ y ∈ s.started, getInvoc s y = some v) ∧
    v.phase = 2 ∧ { v with phase := 1 }.phase = 1 ∧ { v with phase := 3 }.phase ≠ 1 ∧ { v with phase := 3 }.phase ≠ 2 ∧
    (s.wr PRT_PROG_CFG.RUN_TMO 1).rd PRT_PROG_CFG.RUN_TMO ≠ 0 ∧
    (s.wr PRT_PROG_CFG.RUN_TMO 0).rd PRT_PROG_CFG.RUN_TMO = 0 ∧ kget 0 s.sets = some x ∧ x.wait = .retry ∧ kget 1 s.sets = none ∧ oState (objW1 s 0) = 0 ∧
    ringLoc1 s 0 = false ∧ ∀ y ∈ s.started, dOpc y.words = 0x01 ∧ y.wait = .ext ∧ y.buf = [] := by
  rintro v x rfl rfl s rfl; decide +kernel

/-- An object of each type, the semaphore at 0 and at the count taken, the barrier of two before its last arrival, a set that
is open and one that completes. -/
theorem wit_SyncOperations : ∀ ob : Nat → Nat → State, ob = (fun w0 w1 => setObj live 65535 w0 w1) →
    oType (objW1 live 65535) ≠ 1 ∧ oType (objW1 live 65535) ≠ 2 ∧ oType (objW1 live 65535) ≠ 3 ∧ oType (objW1 live 65535) ≠ 4 ∧
    oType (objW1 (ob 0 1) 65535) = 1 ∧ (oType (objW1 (ob 0 (2 + 2 * 2 ^ 16)) 65535) = 2 ∧ objW0 (ob 0 (2 + 2 * 2 ^ 16)) 65535 % 2 ^ 32 + 1 ≠
    oExpect (objW1 (ob 0 (2 + 2 * 2 ^ 16)) 65535)) ∧ (oType (objW1 (ob 3 3) 65535) = 3 ∧ 3 % 2 ^ 32 ≤ objW0 (ob 3 3) 65535 ∧
    objW0 (ob 3 3) 65535 < 4 % 2 ^ 32) ∧ (oOpen (objW1 (ob 3 3) 65535) = false ∧ 1 ≤ 32768 % 2 ^ 16) ∧
    (oOpen (objW1 (ob 0 4) 65535) = true ∧ oType (objW1 (ob 0 4) 65535) = 4 ∧ oState (objW1 (ob 0 4) 65535) = 0) ∧
    (32768 < 32769 % 2 ^ 16 ∧ 65536 % 2 ^ 16 = 0) ∧ (oType (objW1 (ob 0 12) 65535) = 4 ∧ oState (objW1 (ob 0 12) 65535) = 1) := by
  rintro ob rfl; decide +kernel

/-- A SYNC_SET of SOP 8, started by its command and by no other; a SYNC_OP of SOP 0. -/
theorem wit_SyncCommands : startable (drainBad 2 (fetched1 [0x18, 0, 0, 0, 0x80000]) 0) 0 0 (isSub 0x18 16 8 8) = some [0x18, 0, 0, 0, 0x80000] ∧
    startable (drainBad 2 (fetched1 [0x18, 0, 0, 0, 0x80000]) 0) 0 0 (isSub 0x18 16 8 9) = none ∧ pktSop linked 31 (pkt 8 6 1 0 0) = some 0 ∧
    pktSop linked 31 (pkt 1 3 0 1 0) ≠ some 0 := by decide +kernel

/-- A packet of every opcode served here is taken, and opens. -/
theorem wit_PacketsAreServed : (∀ p ∈ [pkt 1 3 0 1 0, pkt 3 5 1 0 0, pkt 5 4 1 0 0, pkt 0x10 1 0 0 0, pkt 0x11 1 0 0 0, pkt 0x12 1 0 0 0, pkt 0x13 1 0 0 0,
      pkt 0x15 2 1 0 0, pkt 0x17 2 0 0 0, pkt 6 4 1 0 1, pkt 6 4 1 0 4, pkt 8 6 1 0 0, pkt 9 6 1 0 0, pkt 2 5 1 0 0, pkt 4 5 0 0 0, pkt 0x18 5 0 1 1, pkt 7 5 1 0 0,
      pkt 0x1E 5 0 0 1 0] , taken linked 31 p (after p) false (arrived linked 31 p) ∧ ∃ o, opened (after p) 31 (arrived linked 31 p) o) ∧
    syncPktOk linked (pkt 8 6 1 0 0) = true ∧ syncPktOk linked (pkt 8 6 1 0 0 6) = false ∧ dbPktOk linked (pkt 9 6 1 0 0) = false ∧
    (∀ s, s = ((linked.wr RNG_CFG.LOC 1).wr RNG_CFG.CLASS 1).wr RNG_LOC.NODE 9 → dbPktOk s (pkt 9 6 1 0 0) = true) ∧
    scopeShut linked 5 0 = false := by
  refine ⟨?_, by decide +kernel, by decide +kernel, by decide +kernel, (by rintro s rfl; decide +kernel), by decide +kernel⟩
  intro p hp
  refine ⟨linked_takes p ?_, ⟨arrived linked 31 p, ?_⟩⟩
  · revert p; decide +kernel
  · have h : pMcast (arrived linked 31 p) = 0 ∧ pDst (arrived linked 31 p) = nodeId (after p) ∧ (after p).xrd.leaving = 0 ∧
        pTc (arrived linked 31 p) ≠ 0 ∧ addrFits (arrived linked 31 p) = true ∧ pKey (arrived linked 31 p) = 0 := by revert p; decide +kernel
    exact ⟨h.1, h.2.1, h.2.2.1, h.2.2.2.1, h.2.2.2.2.1, by unfold openPkt; rw [if_pos h.2.2.2.2.2]⟩

/-- A packet for node 7, a multicast copy, an event, and the three notices of the partner; a port that is down, a packet of no
listed opcode; draining; a packet of the other epoch. -/
theorem wit_PacketsPassOn : (∀ p ∈ [pkt 1 3 0 1 0 5 7, pkt 0xA 6 1 0 0 0, pkt 0x1C 7 0 0 1 0, pkt 0x1C 7 0 0 2 0, pkt 0x1C 7 1 0 3 0,
      mkPkt { src := 9, tc := 4, opc := 3, mcast := 1, len := 1, space := 5 } (List.replicate 64 0)],
      taken linked 31 p (after p) false (arrived linked 31 p)) ∧ (pDst (pkt 1 3 0 1 0 5 7) ≠ nodeId linked ∧ pHops (pkt 1 3 0 1 0 5 7) ≠
    hopLimit linked) ∧ pSrc (pkt 0x1C 7 0 0 1 0) = linked.rd PORT_PARTNER.NODE 31 ∧ linkUp linked 0 = false ∧
    arrivalFail (nodeId linked) (trusted linked 31) (arrived linked 31 (pkt 0x3F 6 1 0 0)) ≠ 0 ∧
    ((linked.wr XRD_EPOCH.DRAINING 1).on XRD_EPOCH.DRAINING = true) ∧ (∀ s p, s = linked.wr PORT_PARTNER.GEN 1 31 →
      p = mkPkt { src := 9, tc := 6, opc := 8, epoch := 1, len := 1, space := 5 } (List.replicate 64 0) →
      arrivalFail (nodeId s) (trusted s 31) (arrived s 31 p) = 0 ∧ pEpoch (arrived s 31 p) ≠ s.rd XRD_EPOCH.CUR ∧ s.on XRD_EPOCH.IDLE = true) := by
  refine ⟨?_, by decide +kernel, by decide +kernel, by decide +kernel, by decide +kernel, by decide +kernel, ?_⟩
  · intro p hp; refine linked_takes p ?_; revert p; decide +kernel
  · rintro s p rfl rfl; decide +kernel

/-- HOPS at HOP_LIMIT. -/
theorem wit_PacketsPassOn_hops : ∀ p, p = mkPkt { dst := 7, src := 9, tc := 3, opc := 1, arg := 1, hops := 16, space := 5 } [] →
    ∀ s, s = linked.wr XRD_CFG.HOP_LIMIT 16 → arrivalFail (nodeId s) (trusted s 31) (arrived s 31 p) = 0 ∧ pHops (arrived s 31 p) = hopLimit s := by
  rintro p rfl s rfl; decide +kernel

/-- An entry without and with an owner; one that waits for a member, for the owner, and for none; reservations. -/
theorem wit_CoherenceTransactions : ∀ (e : DirEnt) (x : CohTx), e = ⟨0, none, false, [], false, 0, none, [], some 9⟩ →
    x = ⟨.rdShared, 9, none, 31, none, [3], none, 0, false, [], false, none, none, false, false, ⟨none, false, [], false⟩, 0⟩ → ∀ f : DirEnt → State,
    f = (fun e => { st [(XLT_COH_CTL.STATE, 63, 1)] with coh := ⟨[(63 * 2 ^ 42, e)], 0, 0, [], []⟩ }) →
    (pOpc (pkt 0x10 1 0 0 0) = 0x10 ∧ e.owner = none ∧ e.coarse = false ∧ e.isO = false ∧ { e with owner := some 3 }.owner = some 3) ∧
    (f e).dirEnt (63 * 2 ^ 42) = some e ∧ (e.tx = none ∧ e.resv.isSome = true ∧ e.waiters = [] ∧ e.sharers = [] ∧
    { e with waiters := [4] }.waiters ≠ []) ∧ (x.wb = false ∧ x.fwd = none ∧ x.acks.head? = some 3 ∧ { x with fwd := some 3 }.fwd = some 3) ∧
    cohUp (f e) (domOf (63 * 2 ^ 42)) = true ∧ { e with tx := some x }.tx.isSome = true := by
  rintro e x rfl rfl f rfl; decide +kernel

/-- A flip and a drain whose AT is now; the hold with and without old packets; one time child; a master and none. -/
theorem wit_CrossroadsTimers : ∀ f : Option Commit → State, f = (fun c => { State.reset with xrd := { State.reset.xrd with commit := c } }) →
    (∀ c ∈ [some (⟨false, 0, 0, 0, 0, 0⟩ : Commit), some ⟨true, 0, 0, 0, 0, 0⟩, some ⟨false, 0, 0, 0, 1, 0⟩, some ⟨true, 0, 0, 0, 2, 0⟩, none],
      ksorted (f c).regs = true ∧ (f c).xrd.commit = c ∧ (f c).now = 0) ∧ State.reset.rd XRD_EPOCH.OLD_PKTS = 0 ∧
    (st [(XRD_EPOCH.OLD_PKTS, 0, 1)]).rd XRD_EPOCH.OLD_PKTS ≠ 0 ∧ ksorted State.reset.answers = true ∧ (∀ s, s = linked.wr XRD_TIME_CFG.CHILD
    (2 ^ 31) → s.xrd.leaving = 0 ∧ s.on XRD_EPOCH.DRAINING = false ∧ s.rd XRD_TIME_CFG.CHILD = 2 ^ 31 ∧ usable s 31 = true ∧ ksorted s.regs = true) ∧
    (st [(XRD_TIME_CFG.MASTER, 0, 1)]).on XRD_TIME_CFG.MASTER = true ∧ State.reset.on XRD_TIME_CFG.MASTER = false := by
  rintro f rfl
  refine ⟨by decide +kernel, by decide +kernel, by decide +kernel, by decide +kernel, ?_, by decide +kernel, by decide +kernel⟩
  rintro s rfl; decide +kernel
/-- FSEQ as expected, one behind at the wrap, and one ahead; a state in which flits flow and one in which none do. -/
theorem wit_FlitsOnALink : ∀ x y, x = { emptyLink with expSeq := 0 } → y = { x with nakOut := true, buf := [⟨5, 0, none⟩], nextSeq := 6 } →
    (ksorted (port 2 x).regs = true ∧ ksorted (port 2 x).links = true ∧ (port 2 x).link 31 = x ∧ flitsFlow (port 2 x) 31 = true ∧
      (port 2 x).rd PORT_STATUS.STATE 31 = 2 ∧ x.episode = false ∧ x.nakOut = false ∧ x.buf = []) ∧ (seqBefore 65535 x.expSeq = true ∧
    seqBefore 1 x.expSeq = false) ∧ (y.nakOut = true ∧ y.buf = ⟨5, 0, none⟩ :: [] ∧ seqBefore 5 y.nextSeq = true ∧
    flitsFlow (port 2 y) 31 = true) ∧ flitsFlow (port 5 x) 31 = false := by rintro x y rfl rfl; decide +kernel

theorem wit_TrainingSteps : ∀ f : Nat → LinkX, f = (fun p => { emptyLink with phase := p, rxOk := 511, partnerOk := 511, ask := some (1, []) }) →
    (∀ k ∈ [0, 1, 2], ∀ s, s = port 0 emptyLink [(PORT_CTL.ENABLE, 31, 1), (PORT_STATUS.STRIKES, 31, k)] → s.rd PORT_STATUS.STATE 31 = 0 ∧
      s.on PORT_CTL.ENABLE 31 = true ∧ s.rd PORT_STATUS.STRIKES 31 = k) ∧ (∀ k ∈ [1, 2, 3], (port k).rd PORT_STATUS.STATE 31 = k) ∧
    (∀ k ∈ [1, 2, 4, 5, 6, 12], ((port 1 (f k)).link 31).phase = k ∧ (f k).rxBad.testBit 8 = false ∧ flitsFlow (port 1 (f k)) 31 = false ∧
      ∀ w ∈ [7, 0x100009], ((ctlHead (port 1 (f k)) 31 (ctl [BitVec.ofNat 64 w])).link 31).phase = k) ∧
    ({ f 1 with rxOk := 0 }.rxOk = 0 ∧ (port 1).rd PORT_STATUS.RATE 31 = 0) ∧ (511 &&& (511 - (0 &&& 511)) = 511 ∧
    widthCode (min (popc 9 511) (popc 9 511)) = some 3 ∧ (port 1).rd PORT_CTL.MIN_WIDTH 31 ≤ 3) ∧ (fld (ctlW (ctl [0x100009, 0x10001]) 0) 0 15 ≠
    nodeId (port 1) ∧ fld (ctlW (ctl [0x100009, 0x10001]) 0) 20 1 = 1 ∧ fld (ctlW (ctl [0x100009, 0x10001]) 1) 0 16 ≠ 0 ∧
    fld (ctlW (ctl [0x100009, 0x10001]) 1) 16 16 ≠ 0 ∧ fld (ctlW (ctl [0]) 0) 0 15 = nodeId (port 1)) ∧
    (fld (ctlW (ctl [7]) 0) 0 32 = 7 ∧ kget 7 (f 5).probes = none ∧ ((List.range 7).map fun k => (k, 0)).length + 1 = 8) ∧
    (∀ s, s = port 5 emptyLink [(PORT_STATUS.DOWN_CAUSE, 31, 5)] → s.rd PORT_STATUS.STATE 31 = 5 ∧ s.rd PORT_STATUS.DOWN_CAUSE 31 = 5) ∧
    (port 5).rd PORT_STATUS.DOWN_CAUSE 31 ≠ 5 := by
  rintro f rfl
  refine ⟨?_, by decide +kernel, by decide +kernel, by decide +kernel, by decide +kernel, by decide +kernel, by decide +kernel, ?_, by decide +kernel⟩
  · rintro k hk s rfl; revert k; decide +kernel
  · rintro s rfl; decide +kernel

/-- A handoff of lane 0 to the ninth lane 8, lane 0 not taken last; LANE_ANS with and without OK, in a flit whose sequence number is the one expected;
a countdown with a spare and with none. -/
theorem wit_RetrainsAndHandoffs : ∀ x s, x = { emptyLink with cal := [0, 1] } → s = port 2 x [(PORT_STATUS.TX_SPARE_OK, 31, 1),
      (PORT_LINK_CFG.ROT_PERIOD, 31, 1), (PORT_LANE_STAT.TX_SPARE, 31, 8), (PORT_LANE_STAT.RX_SPARE, 31, 8), (PORT_STATUS.WIDTH, 31, 3)] →
    (s.rd PORT_LINK_CFG.ROT_PERIOD 31 ≠ 0 ∧ s.on PORT_STATUS.TX_SPARE_OK 31 = true ∧ s.rd PORT_STATUS.STATE 31 = 2 ∧
      s.rd PORT_LANE_STAT.TX_SPARE 31 = 8 ∧ x.handoff = none ∧ x.cal = 0 :: [1] ∧ handoffLane s 31 0 = 0 ∧ (List.range (2 ^ s.rd PORT_STATUS.WIDTH 31)).find?
        (fun l => fld (s.rd PORT_LANE_MAP.TX_MAP 31) (4 * l) 4 == 0) = some 0) ∧
    (∀ k ∈ [11, 12, 13], ((ctlHead (port 3 { x with phase := k }) 31 (ctl [])).link 31).phase = k ∧ (ctlHead (port 2 x) 31 (ctl [])).rd PORT_STATUS.STATE 31 = 2 ∧
      ((ctlHead (port 2 x) 31 (ctl [])).link 31).phase ≠ 11) ∧ (s.wr PORT_LINK_CFG.ROT_PERIOD 0 31).rd PORT_LINK_CFG.ROT_PERIOD 31 = 0 ∧
    (∀ w ∈ [0, 16], ((ctlHead (port 2 { x with handoff := some (0, 0, 8) }) 31 (ctl [BitVec.ofNat 64 w])).link 31).handoff = some (0, 0, 8) ∧
      ((ctlHead (port 2 x) 31 (ctl [BitVec.ofNat 64 w])).link 31).handoff = none ∧ fld (ctlW (ctl [BitVec.ofNat 64 w]) 0) 0 4 = 0 ∧ (ctlW (ctl [BitVec.ofNat 64 w]) 0).testBit 4 = (w == 16)) ∧
    (s.rd PORT_LANE_STAT.RX_SPARE 31 ≠ 0xF ∧ 7 < 2 ^ s.rd PORT_STATUS.WIDTH 31 ∧
    ksorted s.links = true ∧ ksorted s.regs = true) ∧ (∀ t, t = (s.wr PORT_LANE_STAT.TX_SPARE 15 31).wr PORT_LANE_STAT.RX_SPARE 15 31 →
      t.rd PORT_LANE_STAT.TX_SPARE 31 = 0xF ∧ t.rd PORT_LANE_STAT.RX_SPARE 31 = 0xF) ∧ (port 1).rd PORT_STATUS.STATE 31 = 1 ∧
    (port 5).rd PORT_STATUS.STATE 31 = 5 := by
  rintro x s rfl rfl
  refine ⟨by decide +kernel, by decide +kernel, by decide +kernel, by decide +kernel, by decide +kernel, ?_, by decide +kernel, by decide +kernel⟩
  rintro t rfl; decide +kernel

/-- A port that asked for LPI, one that is ready and one that is not; an audit of a port in each state; a class that is a header and 5 data
credits short, before and after its report. -/
theorem wit_LowPowerAuditsAndWindows : ∀ s, s = port 2 { emptyLink with lpiReq := true } [(PORT_CTL.LPI_EN, 31, 1)] →
    (ksorted s.regs = true ∧ ksorted s.links = true ∧ lpiReady s 31 = true ∧ s.rd PORT_STATUS.STATE 31 = 2) ∧
    (∀ t, t = ctlHead s 31 (ctl []) → (t.link 31).lpiReq = true ∧ t.rd PORT_STATUS.STATE 31 = 2 ∧ ksorted t.regs = true ∧ ksorted t.links = true) ∧
    (∀ t, t = ctlHead (s.setLink 31 emptyLink) 31 (ctl []) → (t.link 31).lpiReq = false ∧ lpiReady t 31 = true) ∧
    (lpiReady (port 2) 31 = false ∧ lpiReady (ctlHead (port 2) 31 (ctl [])) 31 = false ∧ ((ctlHead (port 2) 31 (ctl [])).link 31).lpiReq = false) ∧
    (∀ k ∈ [2, 4, 5], (ctlHead (port k) 31 (ctl [])).rd PORT_STATUS.STATE 31 = k ∧ (port k).rd PORT_STATUS.STATE 31 = k) ∧
    (∀ tc ∈ List.range 8, shortfall emptyLink tc (fld (ctlW (ctl []) 0) 0 16) (ctlW (ctl []) (tc + 1)) = (0, 0)) ∧
    (∀ x, x = { emptyLink with credits := [(7, ⟨9, 99, 1, 5, 0, 0, 0, 0⟩)] } →
      shortfall x 7 (fld (ctlW (ctl []) 0) 0 16) (ctlW (ctl []) 8) = (1, 5) ∧ x.short = false ∧ { x with short := true }.short = true) := by
  rintro s rfl
  refine ⟨by decide +kernel, ?_, ?_, by decide +kernel, by decide +kernel, by decide +kernel, ?_⟩
  · rintro t rfl; decide +kernel
  · rintro t rfl; decide +kernel
  · rintro x rfl; decide +kernel

theorem wit_PortControlWrites : ∀ s, s = port 2 emptyLink [(PORT_CTL.ENABLE, 31, 1)] → (ksorted s.regs = true ∧ pf0Open s = true ∧
      s.on PORT_CTL.ENABLE 31 = true ∧ s.rd PORT_STATUS.STATE 31 = 2 ∧ (s.wr PORT_CTL.ENABLE 0 31).on PORT_CTL.ENABLE 31 = false) ∧
    (∀ v ∈ [0, 1], wrote PORT_CTL.ENABLE v = v ∧ wrote PORT_CTL.REARM v = 0 ∧ wrote PORT_CTL.RETRAIN v = 0) ∧
    (wrote PORT_CTL.REARM (1 + 2 ^ PORT_CTL.REARM.lo) = 1 ∧ wrote PORT_CTL.RETRAIN (1 + 2 ^ PORT_CTL.REARM.lo) = 0) ∧
    (wrote PORT_CTL.REARM (1 + 2 ^ PORT_CTL.RETRAIN.lo) = 0 ∧ wrote PORT_CTL.RETRAIN (1 + 2 ^ PORT_CTL.RETRAIN.lo) = 1) := by
  rintro s rfl; decide +kernel

/-- A packet that may start, to a partner of generation 1; a list of no entries and of one; AT 10 µs ahead and less; a hold
that began before the other. -/
theorem wit_EgressAndGates : ∀ s, s = { port 2 { emptyLink with credits := [(6, ⟨9, 99, 0, 0, 0, 0, 0, 0⟩)] } [(PORT_PARTNER.GEN, 31, 1)] with
      ports := [(31, { emptyPortQ with q := [⟨6, 0, pkt 8 6 1 0 0, 32, false, false, 0⟩] })] } →
    (s.rd PORT_STATUS.STATE 31 = 2 ∧ (match pickPacket (shaperSync s 31) 31 with
      | some (e, fl, cl) => decide (((shaperSync s 31).link 31).buf.length + flitsOf e.pkt ≤ 8192) && decide (guardJudge (shaperSync s 31) 31 e ≠ .overrun) &&
          (linkSend (settle (portDelay (wakeLpi (shaperSync s 31) 31) 31 e) 31 e fl cl) 31 e).rd PORT_PARTNER.GEN 31 != 0
      | none => false) = true) ∧ pickPacket (shaperSync (port 2) 31) 31 = none ∧ (port 5).rd PORT_STATUS.STATE 31 = 5 ∧ (gateLen s 31 0 = 0 ∧
    gateLen (s.wr QOS_GATE_CTL.NENT0 1 31) 31 0 = 1 ∧ ksorted s.ports = true ∧ ksorted s.regs = true ∧ pf0Open s = true) ∧
    (wrote QOS_GATE_CTL.COMMIT (2 ^ QOS_GATE_CTL.COMMIT.lo) = 1 ∧ s.on QOS_GATE_CTL.PENDING 31 = false ∧ s.rd QOS_GATE_AT.AT 31 < s.now + 10000 ∧
      s.now + 10000 ≤ (s.wr QOS_GATE_AT.AT 10000 31).rd QOS_GATE_AT.AT 31) ∧ ((s.wr QOS_GATE_CTL.PENDING 1 31).on QOS_GATE_CTL.PENDING 31 = true ∧
      s.on QOS_GATE_CTL.PENDING 31 = false) ∧ (∃ a b : Nat, a < b) ∧ ((s.wr QOS_PORT_HSEL.FREEZE 1 31).on QOS_PORT_HSEL.FREEZE 31 = true ∧
    (s.wr QOS_CH_HSEL.FREEZE 1 31).on QOS_CH_HSEL.FREEZE 31 = true ∧ s.on QOS_PORT_HSEL.FREEZE 31 = false) ∧
    wrote QOS_PORT_HSEL.CLEAR (2 ^ QOS_PORT_HSEL.CLEAR.lo) = 1 ∧ wrote QOS_CH_HSEL.CLEAR (2 ^ QOS_CH_HSEL.CLEAR.lo) = 1 := by
  rintro s rfl
  exact ⟨by decide +kernel, by decide +kernel, by decide +kernel, by decide +kernel, by decide +kernel, by decide +kernel, ⟨0, 1, by decide⟩,
    by decide +kernel, by decide +kernel, by decide +kernel⟩

/-- A line of the pool's that waits with a credit of each kind, with the second only, and with none; a partition that uses little and one that
starves; MIN values that sum to 256, and to 257. -/
theorem wit_RegulatorsGrantAndAdapt : ∀ f : Nat → Int → ChanX, f = (fun a b => { emptyChan with slotQ := [⟨16, 0, 0, 1⟩], reg :=
      { emptyChan.reg with cmin := [(16, a)], cmax := [(16, b)], avail := 1024, starved := [(1, 65)] } }) →
    (ksorted (chan 2).regs = true ∧ ksorted (chan 2).chans = true ∧ chanServes (chan 2) 31 = true ∧
      ((chan 2).chanX 31).slotQ = [] ∧ chanServes (chan 5) 31 = false ∧ pf0Open (chan 2) = true) ∧
    (∀ x ∈ [(256, 256, some 16, some 16), (0, 256, none, some 16), (0, -1000, none, none)], ∀ s, s = chan 2 (f x.1 x.2.1) →
      roundRobin (s.chanX 31).reg.rrMin (fun q => hasLine s 31 q && decide (256 ≤ minCredit s 31 q)) = x.2.2.1 ∧
      roundRobin (s.chanX 31).reg.rrMax (fun q => hasLine s 31 q && decide (256 ≤ maxCredit s 31 q)) = x.2.2.2 ∧ chanServes s 31 = true ∧
      (drr 4 (fun k => if (s.chanX 31).slotQ.any (fun e => e.cp == 16 && e.kind == k) then some 1 else none)
        (fun k => atLeast1 (fld (s.rdReg QOS_KIND_Q.reg 0 0 0) (8 * k) 8)) 8 (kgetD 3 16 (s.chanX 31).reg.lastKind) []).map (·.1) = some 0) ∧
    (∀ p ∈ List.range 17, (State.reset.wr QOS_REG.ADAPT 0 p).on QOS_REG.ADAPT p = false) ∧
    (∀ s, s = chan 2 (f 0 0) [(QOS_REG.EFF_MIN, 0, 9), (PRT_CTL.ENABLE, 1, 1), (PRT_CTL.SLICES, 1, 2 ^ 15), (QOS_REG.MIN_CEIL, 1, 9)] →
      adaptIdle s 0 = true ∧ share9 s QOS_REG.MIN 0 < s.rd QOS_REG.EFF_MIN 0 ∧ adaptHungry s 0 = false ∧ adaptHungry s 1 = true ∧
      s.rd QOS_REG.EFF_MIN 1 < max (share9 s QOS_REG.MIN_CEIL 1) (share9 s QOS_REG.MIN 1) ∧ s.rd QOS_REG.EFF_MIN 1 ≤ share9 s QOS_REG.MIN 1) ∧
    (minSum (st [(QOS_REG.MIN, 0, 1)]) 16 (wrote QOS_REG.MIN 255) ≤ 256 ∧ 256 < minSum (st [(QOS_REG.MIN, 0, 1)]) 16 (wrote QOS_REG.MIN 256)) := by
  rintro f rfl
  refine ⟨by decide +kernel, ?_, by decide +kernel, ?_, by decide +kernel⟩
  · rintro x hx s rfl; revert x; decide +kernel
  · rintro s rfl; decide +kernel

/-- An empty channel, a module that is refused and one that is not; trainings with and without a rate left. -/
theorem wit_ChannelsTrainAndRetrain : ∀ f : Nat → State, f = (fun k => chan k { emptyChan with dimms := some dimm } [(DDR_CTL.ENABLE, 31, 1),
      (CHIP_FLOOR_WARD.POP, 3, 1)]) → (∀ k ∈ [0, 1], (f k).on DDR_CTL.ENABLE 31 = true ∧ (f k).rd DDR_CTL.STATE 31 = k ∧ wardOut (f k) 3 = false) ∧
    (dimm.n ≠ 0 ∧ dimmsOk dimm = true ∧ dimmsOk { dimm with x4 := false } = false ∧ { dimm with n := 0 }.n = 0) ∧
    ((f 1).wr DDR_CTL.ENABLE 0 31).on DDR_CTL.ENABLE 31 = false ∧ (((f 1).chanX 31).dimms = some dimm ∧ ((f 1).chanX 31).rearm = false ∧
    ((f 1).chanX 31).dead = false) ∧ ((f 3).rd DDR_CTL.STATE 31 = 3 ∧ ((f 3).chanX 31).holdDue = false) ∧ (f 1).rd DDR_CTL.STEPDOWN 31 <
    ((ratesOf dimm.kind).filter fun r => decide (r ≤ dimm.rate)).length - 1 ∧ ((f 2).rd DDR_CTL.STATE 31 = 2 ∧ ((f 2).chanX 31).parity = 0 ∧
    { emptyChan with parity := 1 }.parity ≠ 0) := by rintro f rfl; decide +kernel

theorem wit_WindowsRefreshAndScrub : ∀ s t, s = chan 2 emptyChan [(DDR_CTL.CAP_G, 31, 1), (DDR_SCRUB.SCRUB_EN, 31, 1), (DDR_SCRUB.LAP_MAX, 31, 1)] →
    t = { s with chans := [(30, { emptyChan with inWin := true }), (31, { emptyChan with inWin := true })] } →
    (ksorted s.regs = true ∧ ksorted s.chans = true ∧ s.rd DDR_CTL.STATE 31 = 2 ∧ (s.chanX 31).inWin = false ∧ (s.chanX (sister 31)).inWin = false) ∧
    ({ t with chans := [(30, { emptyChan with inWin := true })] }.chanX (sister 31)).inWin = true ∧ (t.start.step ≠ 8 ∧ (t.chanX 31).inWin = true ∧
    (t.chanX 31).holdDue = false) ∧ ((chan 6).rd DDR_CTL.STATE 31 = 6) ∧ ((s.chanX 31).temps = [] ∧ s.rd DDR_CFG.REF_FLOOR 31 = 0 ∧
    s.rd DDR_THERM.REF_FACTOR 31 = 0 ∧ (84 : Int) < (s.wr DDR_THERM.TEMP_WARN 85 31).rd DDR_THERM.TEMP_WARN 31) ∧
    ((s.wr DDR_SCRUB.SCRUB_EN 0 31).on DDR_SCRUB.SCRUB_EN 31 = false ∧ s.on DDR_SCRUB.SCRUB_EN 31 = true ∧ chanServes s 31 = true ∧
    (s.chanX 31).scrubAt + 1 < chanTotal s 31 ∧ (s.chanX 31).errs = [] ∧ s.poison = [] ∧ (s.chanX 31).reg.scrubRem < 1023) ∧
    (s.rd DDR_SCRUB.LAP_MAX 31 ≠ 0 ∧ s.on DDR_SCRUB_STAT.SLOW 31 = false ∧ (s.wr DDR_SCRUB_STAT.SLOW 1 31).on DDR_SCRUB_STAT.SLOW 31 = true) := by
  rintro s t rfl rfl; decide +kernel

theorem wit_ChannelControlWrites : ∀ s, s = chan 2 emptyChan [(DDR_CTL.ENABLE, 31, 1)] → (ksorted s.regs = true ∧ pf0Open s = true ∧
      s.on DDR_CTL.ENABLE 31 = true ∧ s.rd DDR_CTL.STATE 31 = 2 ∧ ksorted s.chans = true) ∧ (∀ t, t = chan 6 emptyChan [(DDR_CTL.ENABLE, 31, 0)] →
      t.on DDR_CTL.ENABLE 31 = false ∧ t.rd DDR_CTL.STATE 31 = 6) ∧ (∀ v ∈ [0, 1], wrote DDR_CTL.ENABLE v = v ∧ wrote DDR_CTL.REARM v = 0 ∧
      wrote DDR_CTL.MARK_CLR v = 0) ∧ (wrote DDR_CTL.REARM (1 + 2 ^ DDR_CTL.REARM.lo) = 1 ∧ wrote DDR_CTL.MARK_CLR (1 + 2 ^ DDR_CTL.REARM.lo) = 0) ∧
    (wrote DDR_CTL.REARM (1 + 2 ^ DDR_CTL.MARK_CLR.lo) = 0 ∧ wrote DDR_CTL.MARK_CLR (1 + 2 ^ DDR_CTL.MARK_CLR.lo) = 1) ∧ wrote DDR_CNT_CLR.CLEAR 1 = 1 := by
  rintro s rfl
  refine ⟨by decide +kernel, ?_, by decide +kernel, by decide +kernel, by decide +kernel, by decide +kernel⟩
  rintro t rfl; decide +kernel

/-- A block of a deep extent that fills, with and without its Read; a group of it under write-back; a counter of the partition's
page and of another's. -/
theorem wit_FillsAndWritebacks : ∀ (b : Blk) (e : Ext) (f : DriveX → State), b = ⟨1, true, false, false, true, false, 3, 0, 0, false, []⟩ →
    e = { ext1 .open with deep := true, units := [(2, 0, 1)] } → f = (fun x => { live with
      extents := [(0, e)], drives := [(2, x)], tier := { live.tier with blocks := [(0, b)], pageCnt := [(0, 2), (1, 3)] } }) →
    (kget 0 (f emptyDrive).tier.blocks = some b ∧ driveOf (f emptyDrive) 0 = some 2 ∧ b.filling = true ∧ openCmds emptyDrive [0, 10] 0 = false ∧
      kget 0 emptyDrive.failed = none ∧ openCmds { emptyDrive with cmds := [⟨1, 0, 0, 0, 8, 0, 0⟩] } [0, 10] 0 = true) ∧
    kget 1 (f emptyDrive).tier.blocks = none ∧ ((f emptyDrive).extentAt (0 * 65536) = some (0, e) ∧ (wbBlocks (f emptyDrive) 0).length = 1 ∧
    openCmds emptyDrive [1, 11, 12] 0 = false) ∧ ((f emptyDrive).partOfSlice 0 = some 0 ∧ (f emptyDrive).partOfSlice 1 ≠ some 0) := by
  rintro b e f rfl rfl rfl; decide +kernel

/-- A drive that is off, in service, absent and lost; each step of its bring-up; a command at its first and its last try; a SMART read that is
open, and SMART_PERIOD 0; conditions that are none, as last judged, and new. -/
theorem wit_DrivesComeAndGo : ∀ (c : NvmeCmd) (f : Nat → DriveX → State), c = ⟨1, 0, 0, 0, 8, 1, 0⟩ → f = (fun k x =>
      { st [(NVM_CTL.STATE, 15, k), (NVM_CTL.ENABLE, 15, 1)] with drives := [(15, x)] }) → (∀ k ∈ [0, 2, 3], (f k emptyDrive).rd NVM_CTL.STATE 15 = k ∧
      (f k emptyDrive).on NVM_CTL.ENABLE 15 = true ∧ (f k emptyDrive).driveX 15 = emptyDrive ∧ ksorted (f k emptyDrive).regs = true ∧
      pf0Open (f k emptyDrive) = true) ∧ (emptyDrive.step = 0 ∧ emptyDrive.linkDown = false ∧ emptyDrive.resetting = 0 ∧ emptyDrive.cmds = []) ∧
    (∀ k ∈ [1, 2, 5], ((f 1 { emptyDrive with step := k }).driveX 15).step = k) ∧ ((f 2 { emptyDrive with linkDown := true }).driveX 15).linkDown = true ∧
    ((f 2 { emptyDrive with resetting := 2 }).driveX 15).resetting = 2 ∧ (((f 2 { emptyDrive with cmds := [c] }).driveX 15).cmds.find?
      (fun c => c.id == 1) = some c ∧ [0, 10, 12].contains c.kind = true ∧ c.tries ≤ (f 2 emptyDrive).rd NVM_CFG.RETRY 15 ∧
      (f 2 emptyDrive).rd NVM_CFG.RETRY 15 < { c with tries := 16 }.tries) ∧ wrote NVM_CTL.ENABLE 0 = 0 ∧
    (smartOpen emptyDrive = false ∧ smartOpen { emptyDrive with cmds := [{ c with kind := 9 }] } = true ∧
      ((f 2 emptyDrive).wr NVM_CFG.SMART_PERIOD 0 15).rd NVM_CFG.SMART_PERIOD 15 = 0 ∧ ((f 2 emptyDrive).wr NVM_CFG.SMART_PERIOD 1 15).rd NVM_CFG.SMART_PERIOD 15 ≠ 0) ∧
    (∀ w ∈ [0, 1, 4], ∀ k, k = fld w 0 3 + 8 * b2n (decide (((f 2 emptyDrive).rd NVM_CFG.TEMP_WARN 15 : Int) < medianInt [20])) →
      k = w ∧ emptyDrive.cond = 0 ∧ w.testBit 3 = false ∧ (8).testBit 3 = true) := by
  rintro c f rfl rfl
  refine ⟨by decide +kernel, by decide +kernel, by decide +kernel, by decide +kernel, by decide +kernel, by decide +kernel, by decide +kernel,
    by decide +kernel, ?_⟩
  rintro w hw k rfl; revert w; decide +kernel

/-- Counts one below and at CE_THRESH; each class; an error that raises no SRAM interrupt; a masked pair and one that is not; GO with and
without the lock. -/
theorem wit_ErrorsAreCollected : ∀ s t, s = st [(FLT_CE_CFG.CE_THRESH, 0, 2)] → t = { s with watch :=
      { s.watch with ceWin := [(0, 1)], masked := [3 * 512 + 7] } } → ksorted s.regs = true ∧ 0 = collectorOf 0 0 ∧ (kgetD 0 0 s.watch.ceWin + 1 < s.rd FLT_CE_CFG.CE_THRESH 0 ∧
      s.rd FLT_CE_CFG.CE_THRESH 0 ≤ kgetD 0 0 t.watch.ceWin + 1 ∧ t.watch.ceSent.contains 0 = false ∧ s.rd FLT_CE_CFG.CE_THRESH 0 ≠ 0) ∧
    (∀ k ∈ [1, 2, 3], ∀ e, e = { okRep with kind := 0, inst := 0, cls := k } → sramRaise s e = s ∧ sramRaise t e = t ∧ e.cls = k ∧ e.kind ≠ 10) ∧
    (∀ e, e = { okRep with kind := 10, err := 3 } → e.err ≠ 1 ∧ e.err ≠ 2) ∧
    chipResetting s = false ∧ ksorted t.watch.ceWin = true ∧ t.watch.masked.contains (3 * 512 + 7) = true ∧ s.watch.masked.contains (3 * 512 + 7) = false ∧
    pf0Open s = true ∧ wrote FLT_FIRST.VALID (2 ^ FLT_FIRST.VALID.lo) = 1 ∧ (∀ v, v = 2 ^ FLT_INJECT.GO.lo + 2 ^ FLT_INJECT.WIRE.lo →
      wrote FLT_INJECT.GO v = 1 ∧ s.on CHIP_LOCK.LOCK = false ∧ (plainWrite s FLT_INJECT.reg 0 0 0 v).on FLT_INJECT.WIRE = true) ∧
    (∀ v, v = 2 ^ FLT_INJECT.GO.lo + 2 ^ FLT_INJECT.CLASS.lo → wrote FLT_INJECT.GO v = 1 ∧ (plainWrite s FLT_INJECT.reg 0 0 0 v).on FLT_INJECT.WIRE = false ∧
      (plainWrite s FLT_INJECT.reg 0 0 0 v).rd FLT_INJECT.CLASS ≠ 0) ∧ wrote FLT_INJECT.GO 0 = 0 := by
  rintro s t rfl rfl
  refine ⟨by decide +kernel, by decide +kernel, by decide +kernel, ?_, ?_, by decide +kernel, by decide +kernel, by decide +kernel, by decide +kernel,
    by decide +kernel, by decide +kernel, ?_, ?_, by decide +kernel⟩
  · rintro k hk e rfl; revert k; decide +kernel
  · rintro e rfl; decide +kernel
  · rintro v rfl; decide +kernel
  · rintro v rfl; decide +kernel

/-- The first source that has a counter, with a target and with none, of an Elder core and of an unmasked vector. -/
theorem wit_InterruptsAreDelivered : ∀ f : Nat → State, f = (fun k => { st [(IRQ_SRC_CFG.KIND, 32, k), (IRQ_SRC_CFG.OWNER, 32, 16),
      (IRQ_SRC_CFG.EN, 32, 1), (IRQ_SRC_CNT.COUNT, 32, 1), (IRQ_SRC_CFG.MASK, 32, 0)] with
      irq := { State.reset.irq with unmasked := [0] }, ctl := { State.reset.ctl with hostUp := true } }) →
    (∀ k ∈ [1, 2], ksorted (f k).regs = true ∧ irqTargetOk (f k) 32 = true ∧ irqReady (f k) 32 = true ∧ (f k).rd IRQ_SRC_CFG.KIND 32 = k ∧
      kgetD 0 32 (f k).irq.lastAt + (f k).rd IRQ_SRC_CFG.MOD 32 * 1000 ≤ (f k).now) ∧ (f 2).irq.unmasked.contains (msixKey 0 0) = true ∧
    irqTargetOk ((f 2).wr IRQ_SRC_CFG.OWNER 1 32) 32 = false ∧ (irqReady ((f 1).wr IRQ_SRC_CNT.COUNT 0 32) 32 = false) ∧ pf0Open (f 2) = true ∧
    (63 < vecCount 16 ∧ 2047 < vecCount 0 ∧ (f 2).irq.msixPend.contains (msixKey 16 63) = false) ∧
    (∀ s : State, s = { f 2 with irq := { (f 2).irq with msixPend := [msixKey 16 63] } } → s.irq.msixPend.contains (msixKey 16 63) = true) := by
  rintro f rfl
  refine ⟨by decide +kernel, by decide +kernel, by decide +kernel, by decide +kernel, by decide +kernel, by decide +kernel, ?_⟩
  rintro s rfl; decide +kernel
/-- A state at a start step, with some fields written. -/
def atStep (k : Nat) (l : List (Fld × Nat × Nat) := []) : State := { st l with start := { State.reset.start with step := k } }

/-- A state with pins low, a TAP instruction, scopes asleep and resets under way. -/
def ctld (low : Nat := 0) (tap : Nat := 0xFF) (asleep : List Nat := []) (rsts : List RstX := []) (l : List (Fld × Nat × Nat) := []) : State :=
  { st l with ctl := { State.reset.ctl with low := low, tap := tap, asleep := asleep, rsts := rsts } }

theorem wit_PinsStartAndResetTheChip : (State.reset.rd CHIP_START.PHASE = 0 ∧ State.reset.start.step = 0 ∧ State.reset.rd AON_HOLD.HOLD_CAUSE = 0) ∧
    (st [(CHIP_START.PHASE, 0, 6)]).rd CHIP_START.PHASE ≠ 0 ∧ (atStep 2).start.step ≠ 0 ∧ (st [(AON_HOLD.HOLD_CAUSE, 0, 1)]).rd AON_HOLD.HOLD_CAUSE ≠ 0 ∧
    (∀ k ∈ [0, 1, 2], (ctld (2 ^ k)).ctl.low.testBit k = true ∧ (ctld 0).ctl.low.testBit k = false) ∧
    (st [(CHIP_SLEEP.STATE, 0, 3)]).rd CHIP_SLEEP.STATE = 3 ∧ State.reset.rd CHIP_SLEEP.STATE ≠ 3 ∧ (∀ k ∈ [0, 3, 4], (ctld 0 k).ctl.tap = k) ∧
    ((ctld 0 1).ctl.tap ≠ 0 ∧ (ctld 0 1).ctl.tap ≠ 3 ∧ (ctld 0 1).ctl.tap ≠ 4) ∧ (State.reset.on CHIP_CFG.PERST_LINK_ONLY = true ∧
    (st [(CHIP_CFG.PERST_LINK_ONLY, 0, 0)]).on CHIP_CFG.PERST_LINK_ONLY = false) ∧ (live.partOn 0 = true ∧ live.partOn 15 = false ∧
    msixReset live 1 = msixReset live (0 + 1)) ∧ ((live.ringX 0).stopping = 0 ∧ live.on RNG_CTL.ENABLE 0 = true ∧
    live.started.any (·.ring == 0) = false) := by decide +kernel

/-- Step 2 that ends cold and warm, and that waits for each reason; images at both ends of the SVN range, and ones refused. -/
theorem wit_StartsGoStepByStep : ∀ (s : State) (f : Nat → State), s = atStep 2 → f = (fun k => tallyEntry (endRec (((({ s with
      start := { s.start with kind := k } } : State).wr AON_HOLD.CLOCK_BAD 0).wr AON_HOLD.HOLD_CAUSE 0)) 0 0) 0x01 0 1 0 0 0) →
    (s.start.step = 2 ∧ s.ctl.low % 4 = 0 ∧ holdCause (s.wr AON_HOLD.CLOCK_BAD 0) = 0 ∧ (f 1).start.kind ≠ 2 ∧ (f 2).start.kind = 2) ∧
    ((atStep 3).start.step ≠ 2 ∧ (ctld 1).ctl.low % 4 ≠ 0 ∧ holdCause ((s.wr AON_HOLD.STRAP_BAD 1).wr AON_HOLD.CLOCK_BAD 0) ≠ 0) ∧
    (∀ k ∈ [0, 2, 3, 5, 6, 7, 8, 9, 11], (atStep k).start.step = k) ∧ ((atStep 5).start.host = false ∧ (atStep 5).start.loaded = false) ∧
    (∀ t : State, t = { s with start := { s.start with host := true, loaded := true } } → t.start.host = true ∧ t.start.loaded = true) ∧
    (s.rd SEC_FW.SVN_FUSED = 0 ∧ (s.rd SEC_FW.REVOKED).testBit 2 = false ∧ ((s.wr SEC_FW.REVOKED 1).rd SEC_FW.REVOKED).testBit 0 = true ∧
      0 < (s.wr SEC_FW.SVN_FUSED 1).rd SEC_FW.SVN_FUSED) ∧ ((unitsIn s 8).any (chanBusy s) = false ∧
    (unitsIn ((s.wr CHIP_STRAP.WARD_POP 1).wr DDR_CTL.STATE 1 0) 8).any (chanBusy ((s.wr CHIP_STRAP.WARD_POP 1).wr DDR_CTL.STATE 1 0)) = true) ∧
    (hasKind [3] [4, 6, 9, 10, 11, 12, 13, 15] = false ∧ hasKind [4] [4, 6, 9, 10, 11, 12, 13, 15] = true) ∧
    (wrote CHIP_RECOVERY_CTL.GO (2 ^ CHIP_RECOVERY_CTL.GO.lo) = 1 ∧ wrote CHIP_RECOVERY_CTL.GO 0 = 0) ∧
    (∀ t : State, t = { st [(CHIP_RECOVERY_CTL.RSTAT, 0, 1), (CHIP_RECOVERY_CTL.LEN, 0, 1024)] with
        ctl := { State.reset.ctl with hostUp := true } } → t.rd CHIP_RECOVERY_CTL.RSTAT = 1 ∧ 1024 ≤ t.rd CHIP_RECOVERY_CTL.LEN ∧
        t.rd CHIP_RECOVERY_CTL.LEN ≤ 12 * 2 ^ 20 + 1024 ∧ canPost t 0 = true ∧ canPost State.reset 0 = false ∧
        (t.wr CHIP_RECOVERY_CTL.LEN (12 * 2 ^ 20 + 1025)).rd CHIP_RECOVERY_CTL.LEN > 12 * 2 ^ 20 + 1024 ∧
        (t.wr CHIP_RECOVERY_CTL.LEN 1023).rd CHIP_RECOVERY_CTL.LEN < 1024) ∧
    ((atStep 5 [(CHIP_RECOVERY_CTL.RSTAT, 0, 2)]).rd CHIP_RECOVERY_CTL.RSTAT = 2 ∧ imageOk s true 64 2 = true ∧ imageOk s true 65 2 = false) ∧
    ((st [(CHIP_START.PHASE, 0, 6)]).rd CHIP_START.PHASE = 6 ∧ State.reset.rd CHIP_START.PHASE ≠ 6) ∧ (∀ x : StartX,
      x = { s.start with bankA := some (2, []), bankB := some (1, []) } → x.bankA = some (2, []) ∧ x.bankB = some (1, []) ∧ 1 < 2 ∧ 1 ≤ 1) ∧
    wrote CHIP_CFG.TALLY_FORGET (2 ^ CHIP_CFG.TALLY_FORGET.lo) = 1 ∧ wrote CHIP_CFG.TALLY_FORGET 0 = 0 := by
  rintro s f rfl rfl
  refine ⟨by decide +kernel, by decide +kernel, by decide +kernel, by decide +kernel, ?_, by decide +kernel, by decide +kernel, by decide +kernel,
    by decide +kernel, ?_, by decide +kernel, by decide +kernel, ?_, by decide +kernel, by decide +kernel⟩
  · rintro t rfl; decide +kernel
  · rintro t rfl; decide +kernel
  · rintro x rfl; decide +kernel

/-- Each KIND with its last target, and one past it; a reset of each step. -/
theorem wit_ResetsAreAskedAndEnd : ∀ v : Nat → Nat → Nat, v = (fun k i => k * 2 ^ CHIP_RST_CTL.KIND.lo + i * 2 ^ CHIP_RST_CTL.TARGET.lo +
      2 ^ CHIP_RST_CTL.GO.lo) → (ksorted live.regs = true ∧ live.rd CHIP_SLEEP.STATE ≠ 3 ∧
      (live.wr CHIP_SLEEP.STATE 3).rd CHIP_SLEEP.STATE = 3 ∧ wrote CHIP_RST_CTL.GO 0 = 0) ∧
    (∀ k ∈ [1, 2, 3, 6], wrote CHIP_RST_CTL.KIND (v k 0) = k ∧ wrote CHIP_RST_CTL.GO (v k 0) = 1) ∧
    (∀ i ∈ [3, 4, 15, 16], wrote CHIP_RST_CTL.TARGET (v 4 i) = i) ∧ (wrote CHIP_RST_CTL.KIND (v 4 3) = 4 ∧ wrote CHIP_RST_CTL.KIND (v 5 15) = 5) ∧
    ((plainWrite live CHIP_RST_CTL.reg 0 0 0 (v 5 0)).partOn 0 = true ∧ (plainWrite live CHIP_RST_CTL.reg 0 0 0 (v 5 1)).partOn 1 = false) ∧
    (absorbedBy (ctld 0 0 [] [⟨4, 4096, 0, 3, none, 0⟩]) 5 4096 = true ∧ absorbedBy (atStep 3) 4 4096 = true) ∧
    (∀ k ∈ [4, 9, 12], ∀ r, r = RstX.mk k 4096 0 2 none 0 → (ctld 0 0 [] [r]).ctl.rsts.find? (fun r => r.scope == 4096 && r.step == 2) = some r) ∧
    (∀ k ∈ [2, 4, 8], ∀ j ∈ [1, 2, 3], ∀ r, r = RstX.mk k 4096 0 j none 0 →
      (ctld 0 0 [] [r]).ctl.rsts.find? (fun r => r.scope == 4096 && !isSleep r.kind) = some r) ∧
    (∀ r, r = RstX.mk 9 4096 0 3 none 0 → (ctld 0 0 [] [r]).ctl.rsts.find? (fun r => r.kind == 9 && r.scope == 4096 && r.step == 3) = some r ∧
      (ctld 0 0 [] [r]).ctl.rsts.find? (fun r => r.scope == 4096 && !isSleep r.kind) = none ∧
      (ctld 0 0 [] [r]).ctl.rsts.find? (fun r => r.scope == 4096 && r.step == 2) = none) ∧
    (scopeBusy State.reset (5 * 1024) = false ∧ scopeBusy (started1 []) (5 * 1024) = true) ∧ (State.reset.xrd.leaving = 0 ∧
    (∀ s : State, s = { ctld 0 0 [] [⟨2, 5 * 1024, 1, 1, none, 0⟩] with xrd := { State.reset.xrd with leaving := 1 } } → s.xrd.leaving ≠ 0 ∧
      s.ctl.rsts.find? (fun r => r.step == 1) = some ⟨2, 5 * 1024, 1, 1, none, 0⟩)) := by
  rintro v rfl
  refine ⟨by decide +kernel, by decide +kernel, by decide +kernel, by decide +kernel, by decide +kernel, by decide +kernel, ?_, ?_, ?_,
    by decide +kernel, by decide +kernel, ?_⟩
  · rintro k hk r rfl; revert k; decide +kernel
  · rintro k hk j hj r rfl; revert k j; decide +kernel
  · rintro r rfl; decide +kernel
  · rintro s rfl; decide +kernel

theorem wit_SleepsAreEnteredAndLeft : ∀ (v : Nat → Nat) (f : Nat → State), v = (fun r => r * 2 ^ CHIP_SLEEP.REQ.lo) →
      f = (fun k => st [(CHIP_SLEEP.STATE, 0, k)]) → (∀ k ∈ [0, 1, 2, 3], wrote CHIP_SLEEP.REQ (v k) = k ∧ (f k).rd CHIP_SLEEP.STATE = k) ∧
    (∀ k ∈ [0, 1], ksorted (f k).regs = true ∧ (f k).ctl.asleep.contains (5 * 1024) = false ∧
      sleepBlocked ((plainWrite (f k) CHIP_SLEEP.reg 0 0 0 (v (1 - k))).wr CHIP_SLEEP.SLEEP_ERR 0) (5 * 1024) = false) ∧
    (sleepBlocked ((plainWrite (atStep 3) CHIP_SLEEP.reg 0 0 0 (v 1)).wr CHIP_SLEEP.SLEEP_ERR 0) (5 * 1024) = true) ∧
    (sleepsIn (atStep 3) 4096 = false ∧ sleepBlocked (atStep 3) 4096 = true ∧ sleepsIn (ctld 0 0 [5 * 1024]) 4096 = true) ∧
    ((ctld 0 0 [4096]).ctl.asleep.contains 4096 = true ∧ (ctld 0 0 [4096]).rd CHIP_SLEEP.STATE ≠ 3 ∧
      (ctld 0 0 [4096]).ctl.rsts.any (fun r => r.kind == 9 && r.scope == 4096) = false ∧ (st []).ctl.asleep.contains 4096 = false) ∧
    (∀ r, r = RstX.mk 9 4096 0 2 none 0 → (ctld 0 0 [4096] [r]).ctl.rsts.any (fun r => r.kind == 9 && r.scope == 4096 && r.step == 2) = true) ∧
    (∀ r, r = RstX.mk 9 4096 0 3 none 0 → (ctld 0 0 [4096] [r]).ctl.rsts.any (fun r => r.kind == 9 && r.scope == 4096 && r.step == 3) = true ∧
      (ctld 0 0 [4096] [r]).ctl.rsts.any (fun r => r.kind == 9 && r.scope == 4096 && r.step == 2) = false) ∧
    (∀ k ∈ [0, 1], (st [(CHIP_SLEEP.WAKE_ON_RX, 0, k)]).on CHIP_SLEEP.WAKE_ON_RX = (k == 1) ∧
      (st [(CHIP_SLEEP.WAKE_ON_DB, 0, k)]).on CHIP_SLEEP.WAKE_ON_DB = (k == 1)) ∧
    (wrote AON_SLEEP.WAKE (2 ^ AON_SLEEP.WAKE.lo) = 1 ∧ wrote AON_SLEEP.WAKE 0 = 0) ∧ (ctld 0 0 [5 * 1024]).ctl.asleep.contains (5 * 1024) = true ∧
    (∀ s ∈ [State.reset, started1 []], ∀ k ∈ [9, 12], sleepsIn s (5 * 1024) = false ∧ sleepBlocked s (5 * 1024) = false ∧ scopeBusy (busySync (dozeRecall { s with ctl :=
      { s.ctl with asleep := [5 * 1024], rsts := [⟨k, 5 * 1024, 0, 2, none, 0⟩] } } (5 * 1024))) (5 * 1024) = (s.started != [])) ∧
    (State.reset.ctl.rsts = [] ∧ State.reset.start.step = 0 ∧ State.reset.rd CHIP_START.PHASE ≠ 7 ∧ (st [(CHIP_START.PHASE, 0, 7)]).rd CHIP_START.PHASE = 7) ∧
    cellGated live 16 = false ∧ cellGated live 271 = true ∧ (live.wr CHIP_SLEEP.STATE 1).rd CHIP_SLEEP.STATE = 1 := by
  rintro v f rfl rfl
  refine ⟨by decide +kernel, by decide +kernel, by decide +kernel, by decide +kernel, by decide +kernel, ?_, ?_, by decide +kernel,
    by decide +kernel, by decide +kernel, by decide +kernel, by decide +kernel, by decide +kernel, by decide +kernel, by decide +kernel⟩
  · rintro r rfl; decide +kernel
  · rintro r rfl; decide +kernel

/-- A write that commits, that meets no Elder in control, that finds entries in the log and the shared ones all in use, and the disabling of a
partition that a reset encloses. -/
theorem wit_StagedWritesCommitOrWait : ∀ s, s = elders 3 [(PRT_CTL.ENABLE, 0, 1), (PRT_CTL.SLICES, 0, 1)] → (ksorted s.regs = true ∧
      commitOk s = true ∧ s.eld.takeback = false ∧ s.rd ELD_LOG.WINDOW_LEFT = 0 ∧ commitOk State.reset = false ∧ s.eld.log = [] ∧ s.eld.more = []) ∧
    (writeWaits s CHIP_LOCK.reg.base 1 = false ∧ pf0Open s = true) ∧
    (∀ t : State, t = { s with ctl := { s.ctl with rsts := [⟨2, 5 * 1024, 1, 2, none, 0⟩] } } → writeWaits t (PRT_CTL.reg.addr 0 0 0) 0 = true) ∧
    (∀ t : State, t = { s with ctl := { s.ctl with closed := [5 * 1024] } } → pf0Open t = false) ∧
    ((([] : List LogEnt).filter (·.share == 16)).length < 12288 ∧
      ((List.replicate 12288 (LogEnt.desc 0 0)).filter (·.share == 16)).length = 12288) ∧
    (s.rd CHIP_LOCK.LOCK = 0 ∧ (s.wr CHIP_LOCK.LOCK 1).rd CHIP_LOCK.LOCK = 1 ∧ wrote CHIP_LOCK.LOCK 1 = 1 ∧ wrote CHIP_LOCK.LOCK 0 = 0) := by
  rintro s rfl
  refine ⟨by decide +kernel, by decide +kernel, ?_, ?_, ⟨by decide, ?_⟩, by decide +kernel⟩
  · rintro t rfl; decide +kernel
  · rintro t rfl; decide +kernel
  · rw [List.filter_replicate_of_pos rfl]; exact List.length_replicate

/-- Voltages and temperatures on both sides of each bound; the ninth and tenth implausible reading; each count of retries. -/
theorem wit_SuppliesAndSensorsAreRead : ∀ (s : State) (f : Sens → State), s = State.reset →
      f = (fun x => { s with pwr := { s.pwr with volt := [(10, x)] } }) → (∀ x ∈ [⟨[], 8, false, 2⟩, ⟨[], 0, true, 0⟩, ⟨[], 0, false, 1⟩],
      kgetD freshSens 10 (f x).pwr.volt = x) ∧ (3 * ((supplyLimits 10).1 : Int) < 2 * 2836 ∧ 2 * 2835 ≤ 3 * ((supplyLimits 10).1 : Int) ∧
      medianInt ((1710 :: []).take 5) = 1710 ∧ inRange s 10 1710 = true ∧ inRange s 10 1709 = false ∧ s.pwr.outs.contains 10 = false) ∧
    (supplyChecked (State.wr { s with pwr := { s.pwr with volt := kput 10 ⟨[1709], 0, false, 3⟩ s.pwr.volt } } AON_SUPPLY.V 1709 10) 10 = true) ∧
    (maxInt ((List.range 72).filterMap (tempOf s)) = none) ∧ (∀ k ∈ [114, 115], ∀ t, t = ([(k : Int)].zipIdx).foldl (fun t x =>
      tempRead t x.2 x.1) s → maxInt ((List.range 72).filterMap (tempOf t)) = some k ∧
      (t.wr AON_THERM.TJ_MAX ((k : Int) % 256).toNat).on AON_THERM.TRIPPED = false) ∧
    (∀ k ∈ [0, 2], (s.wr AON_AVS.STATE k 4).rd AON_AVS.STATE 4 = k) ∧ (∀ n ∈ [0, 1, 2, 3], kgetD 0 4 [(4, n)] = n) ∧
    (kgetD freshSens 71 s.pwr.temp).dropped = false ∧ (kgetD freshSens 71 s.pwr.temp).bad < 9 ∧
    (kgetD freshSens 71 [(71, { freshSens with dropped := true })]).dropped = true ∧ (-40 : Int) ≤ 150 ∧ (150 : Int) < 151 := by
  rintro s f rfl rfl
  refine ⟨by decide +kernel, by decide +kernel, by decide +kernel, by decide +kernel, ?_, by decide +kernel, by decide +kernel, by decide +kernel, by decide +kernel,
    by decide +kernel, by decide, by decide⟩
  rintro k hk t rfl; revert k; decide +kernel

/-- Powers around CAP, 1.1 CAP and CAP less HYST, in a state that governs ward 0; clocks at 0.8 GHz and above. -/
theorem wit_GovernorFollowsPower : ∀ (s : State) (p : Nat), s = st [(CHIP_FLOOR_WARD.POP, 0, 1), (AON_WARD_CLK.CLK_NOW, 0, 40)] →
    p = capW s → (ksorted s.regs = true ∧ (List.range 4).filter (governed s) = [0, 1, 2, 3] ∧ 0 < p ∧ hystW s < p) ∧
    ((List.range 4).filter (fun w => decide ((throttleAt s : Int) ≤ wardTemp s w) || (s.pwr.hot.contains w &&
      decide ((throttleAt s : Int) - 3 ≤ wardTemp s w))) = []) ∧ (10 * (p + 1) ≤ 11 * p ∧ 11 * p < 10 * (2 * p) ∧ p - hystW s - 1 < p - hystW s) ∧
    (clkNow s 0 = 40 ∧ [0].all (fun w => decide (clkNow s w ≤ 32)) = false ∧ [0].all (fun w => decide (clkNow (s.wr AON_WARD_CLK.CLK_NOW 32 0) w ≤ 32)) = true ∧
    clkNow s 0 < clkMax s 0 ∧ avsFailed s 0 = false ∧ kget 0 s.pwr.want = none ∧ s.pwr.hot.contains 0 = false) ∧
    (∀ (k : Nat) (x : Pwr), x = { s.pwr with issue := k, below := k, want := [(0, k)], win := [(0, k, 1)], tries := [(0, 2)] } → x.issue = k ∧ x.below = k ∧
      kget 0 x.want = some k ∧ x.win = [(0, k, 1)] ∧ kgetD 0 0 x.tries < 3) ∧ (∀ k ∈ [0, 2], (s.wr AON_AVS.STATE k 0).rd AON_AVS.STATE 0 = k) ∧
    avsFailed (avsFail s 0) 0 = false ∧ (∀ u, u = tempRead s 15 120 → ((List.range 4).filter (governed u)).filter
      (fun w => decide ((throttleAt u : Int) ≤ wardTemp u w)) = [0] ∧ capW u < p + 1 ∧ p ≤ capW u) := by
  rintro s p rfl rfl
  refine ⟨by decide +kernel, by decide +kernel, by decide +kernel, by decide +kernel, ?_, by decide +kernel, by decide +kernel, ?_⟩
  case refine_2 => rintro u rfl; decide +kernel
  rintro k x rfl; refine ⟨rfl, rfl, rfl, rfl, ?_⟩; show (2 : Nat) < 3; decide

end Sys2Proof.Tests
end

section
/-!
PROOFS for 00_scope.md: the state after reset, where a host access goes and what it leaves, and the steps of COPY and FILL with
the near-store write underneath them. Each section says once what the model's functions do, and ends with the statement it settles.
-/
namespace Sys2Proof.Machine

/-! ## The state after reset (00 R19) -/

/-- No register is listed at reset, so each reads as its table's value. -/
theorem rdReg_reset (r : Reg) (i j k : Nat) : State.reset.rdReg r i j k = r.rvAt i := rfl

/-- Settles O7: registers are held sparsely, so an empty register file reads as the reset values, and the other fields are empty
by the definition of `State.reset`. -/
theorem resetLeavesResetValues : Obligations.ResetLeavesResetValues :=
  ⟨rdReg_reset, rfl, rfl, rfl, rfl, rfl, rfl, rfl, rfl, rfl, rfl, rfl⟩

/-! ## Where a host access goes (00 R14, R15, 19 R652, R653) -/

theorem exec_registerWrite (func : Fin 17) (off : Nat) (v : Word) (narrow : Bool) (s : State) :
    exec (.registerWrite func off v narrow) s = hostWrite s func off v.toNat narrow := rfl

/-- The first byte of a register belongs to the register found at its offset. -/
theorem regOfByte_aligned {off : Nat} (h : off % regWidth off = 0) : regOfByte off = findReg off := by
  rw [regOfByte, Nat.div_mul_cancel (Nat.dvd_of_mod_eq_zero h)]

/-- A write whose bytes belong to no register, or that lies outside the function's view, changes nothing. -/
theorem hostWrite_no_register {s : State} {func off v : Nat} {narrow : Bool} (hdeep : s.rd CHIP_SLEEP.STATE ≠ 3)
    (hserved : served s func off = true) (hmsix : msixAt func off = none)
    (hnone : ∀ o, viewOff s func off = some o → regOfByte o = none ∧ regOfByte (o + accessBytes narrow - 1) = none) :
    hostWrite s func off v narrow = .next s := by
  cases hview : viewOff s func off with
  | none => simp [hostWrite, hdeep, hserved, hmsix, hview]
  | some o =>
    have hbytes : regOfByte o = none ∧ regOfByte (o + (if narrow then 4 else 8) - 1) = none := hnone o hview
    simp [hostWrite, hdeep, hserved, hmsix, hview, hbytes]

/-- A write that reaches a register outside the output stages is that register's action. -/
theorem hostWrite_of_reaches {s : State} {off v : Nat} {a : RegAt} {narrow : Bool} (h : reaches s off a v narrow) :
    hostWrite s 0 off v narrow = .next (regAct s a false v) := by
  obtain ⟨hdeep, hserved, hmsix, hview, halign, hwidth, hfind, herr, hstage⟩ := h
  have hbyte : regOfByte off ≠ none := by
    rw [regOfByte_aligned (by rw [hwidth]; exact halign), hfind]
    exact Option.some_ne_none a
  rw [accessBytes] at halign hwidth
  simp [hostWrite, hdeep, hserved, hmsix, hview, hbyte, halign, hwidth, hfind, herr, hstage]

/-- A register that no action names does what its access codes say; PRT_NEAR_CFG then brings the near store within its shares. -/
theorem regAct_without_action {s : State} {a : RegAt} {vf : Bool} {v : Nat} (h : actionRegs.contains a.row.reg.base = false) :
    regAct s a vf v = if a.is PRT_NEAR_CFG.reg then nearTrim (writeReg s a vf v) a.i else writeReg s a vf v := by
  simp only [actionRegs, List.map_cons, List.map_nil, List.contains_cons, List.contains_nil, Bool.or_false,
    Bool.or_eq_false_iff] at h
  simp [regAct, RegAt.is, h]

/-- Another register than the one written reads as before. -/
theorem rdReg_writeReg_ne {s : State} {a : RegAt} {vf : Bool} {v : Nat} (hsort : ksorted s.regs = true) {r : Reg} {i j k : Nat}
    (hne : r.addr i j k ≠ a.row.reg.addr a.i a.j a.k) : (writeReg s a vf v).rdReg r i j k = s.rdReg r i j k :=
  rdReg_wrReg_ne _ _ _ _ _ _ _ _ _ _ hsort hne

/-- Settles O8: the access path ends in `regAct`, which is `writeReg` for a register without an action; `rd_writeReg` and
`rdReg_writeReg_ne` say what that leaves. -/
theorem registerWriteByAccessCode : Obligations.RegisterWriteByAccessCode := by
  intro s off v a narrow hsort hreach hact
  refine ⟨writeReg s a false v.toNat, ?_, ?_, ?_, rfl, rfl⟩
  · rw [exec_registerWrite, Fin.val_zero, hostWrite_of_reaches hreach, regAct_without_action hact]
  · obtain ⟨-, -, -, -, -, -, hfind, -, -⟩ := hreach
    exact fun f hf => rd_writeReg s a f v.toNat hsort (findReg_mem hfind) hf
  · exact fun r i j k hne => rdReg_writeReg_ne hsort hne

/-! ## What a host read returns (00 R15, R16, 03 R146) -/

theorem hostRead_not_served {s : State} {func off : Nat} (h : served s func off = false) : hostRead s func off = 0 := by
  simp [hostRead, h]

/-- Below the pending-bit array and beside the MSI-X table, PF0 reads the register at the offset, zero where there is none. -/
theorem hostRead_pf0 {s : State} {off : Nat} (hserved : served s 0 off = true) (hmsix : msixAt 0 off = none)
    (hpba : off < pbaBase 0) (hview : viewOff s 0 off = some off) :
    hostRead s 0 off = ((findReg off).map (readReg s)).getD 0 := by
  have hlow : ¬ pbaBase 0 ≤ off := by omega
  cases hfind : findReg off <;> simp [hostRead, hserved, hmsix, hlow, hview, hfind]

/-- A doorbell page shows PIDX, CCIDX and CIDX, and nothing besides. -/
theorem doorbellRead_eq (s : State) (r : Nat) :
    doorbellRead s r 0 = s.rd RNG_IDX.PIDX r ∧ doorbellRead s r 8 = s.rd RNG_CPL_IDX.CCIDX r ∧
      doorbellRead s r 0x10 = s.rd RNG_IDX.CIDX r ∧ ∀ o, o ≠ 0 → o ≠ 8 → o ≠ 0x10 → doorbellRead s r o = 0 := by
  refine ⟨rfl, rfl, rfl, fun o h0 h8 h16 => ?_⟩
  rw [doorbellRead, if_neg h0, if_neg h8, if_neg h16]

/-- Settles O9: the write passes every check without finding a register, and a read takes the branch that its offset names. -/
theorem writeWithoutRegister : Obligations.WriteWithoutRegister := by
  intro s func off v narrow
  refine ⟨?_, hostRead_not_served, ?_, ?_, doorbellRead_eq s⟩
  · exact fun hdeep hserved hmsix hnone => hostWrite_no_register hdeep hserved hmsix hnone
  · intro a hserved hmsix hpba hview hfind
    rw [hostRead_pf0 hserved hmsix hpba hview, hfind]
    rfl
  · intro hserved hmsix hpba hview hfind
    rw [hostRead_pf0 hserved hmsix hpba hview, hfind]
    rfl

/-! ## A write into the near store (04 R175) -/

/-- Counting an access to a line changes no more than the tiers' own records. -/
theorem touchLine_only_tier (s : State) (deep : Bool) (sl line : Nat) : ∃ tr, touchLine s deep sl line = { s with tier := tr } := by
  cases deep with
  | false => exact ⟨_, rfl⟩
  | true =>
    cases hblock : kget (line / 64) s.tier.blocks with
    | none => exact ⟨s.tier, by simp [touchLine, hblock]⟩
    | some b => exact ⟨_, by simp only [touchLine, hblock, if_true]; rfl⟩

/-- Nor does a hit, which counts the access and makes the line the most recently used. -/
theorem nearHit_only_tier (s : State) (deep : Bool) (sl line : Nat) (n : NearLine) (dirty : Bool) :
    ∃ tr, nearUse (touchLine s deep sl line) line n dirty = { s with tier := tr } := by
  obtain ⟨tr, htouch⟩ := touchLine_only_tier s deep sl line
  rw [htouch]
  exact ⟨_, rfl⟩

/-- Another line's poison is not changed by writing a line. -/
theorem isPoison_setLine_ne (s : State) {l m : Nat} (bs : List Byte) (h : m ≠ l) :
    (s.setLine l bs).isPoison m = s.isPoison m := by
  simp [State.isPoison, State.setLine, State.setBytes, sdel, h]

/-- A write of a line that the near store holds, dirty or with its channel in service, stores it and changes nothing else but the
tiers' own records. -/
theorem tierWrite_near_hit {s : State} {base : Nat} {e : Ext} {line chg : Nat} {data : List Byte} {n : NearLine}
    (hnear : kget line s.tier.near = some n) (hserve : n.dirty = true ∨
      s.rd DDR_CTL.STATE (if e.deep then s.cacheChan e.part (line * 64) else (fastPlace s base e line).1) ≠ 6) :
    ∃ tr, tierWrite s base e line chg data = (State.setLine { s with tier := tr } line data, .okL []) := by
  obtain ⟨tr, hhit⟩ := nearHit_only_tier s e.deep (s.homeSlice e.part (line * 64)) line n true
  refine ⟨tr, ?_⟩
  simp only [tierWrite, hnear, hhit]
  rw [if_neg]
  rintro ⟨hclean, hlost⟩
  exact hserve.elim hclean fun hne => hne hlost

/-! ## The steps of COPY and FILL (03 R156) -/

section Steps
variable {s t : State} {x : Started} {d : List Byte}

theorem workStep_copy (h : dOpc x.words = 0x01) : workStep s x = copyStep s x := by simp [workStep, h]

theorem workStep_fill (h : dOpc x.words = 0x02) : workStep s x = fillStep s x := by simp [workStep, h]

theorem fillStep_end (h : x.prog = dLen x.words) : fillStep s x = .done s x 0 0 x.prog := by simp [fillStep, h]

theorem fillStep_write (hmore : x.prog ≠ dLen x.words) (hwrite : dWrite s x (dSpace x.words) (dDst x.words + 64 * x.prog)
      ((List.replicate 8 (leBytes 8 (dW x.words 4).toNat)).flatten) = (t, .ok d)) :
    fillStep s x = .more t { x with prog := x.prog + 1 } := by
  simp only [fillStep, hmore, if_false, hwrite]

theorem copyStep_end (h : x.prog = dLen x.words) : copyStep s x = .done s x 0 0 x.prog := by simp [copyStep, h]

/-- A COPY that holds no line reads its next one from the pool. -/
theorem copyStep_read (hmore : x.prog ≠ dLen x.words) (hgood : x.bad = false) (hbuf : x.buf = []) (hpool : dFlag x.words 3 = false)
    (hread : dRead s x (dSrcSpace x.words) (dSrc x.words + 64 * x.prog) = (t, .ok d)) :
    copyStep s x = .more t { x with buf := d } := by
  simp only [copyStep, hmore, hgood, hbuf, hpool, if_true, if_false, Bool.false_eq_true, hread]

/-- A COPY that holds a line writes it to the pool and holds none. -/
theorem copyStep_write (hmore : x.prog ≠ dLen x.words) (hgood : x.bad = false) (hbuf : x.buf ≠ []) (hpool : dFlag x.words 4 = false)
    (hwrite : dWrite s x (dSpace x.words) (dDst x.words + 64 * x.prog) x.buf = (t, .ok d)) :
    copyStep s x = .more t { x with prog := x.prog + 1, buf := [] } := by
  simp only [copyStep, hmore, hgood, hbuf, hpool, if_false, Bool.false_eq_true, hwrite]

end Steps

/-- Settles O28: a step of the work is `copyStep` or `fillStep`, whose branches the lemmas above name, and a write under it that hits
the near store stores the line. -/
theorem dataDescriptorsMoveLines : Obligations.DataDescriptorsMoveLines := by
  intro s x
  refine ⟨fun hopc hend => ?_, fun hopc hend => ?_, fun t d hopc hmore hwrite => ?_,
    fun t d hopc hmore hgood hbuf hpool hread => ?_, fun t d hopc hmore hgood hbuf hpool hwrite => ?_,
    fun base e line chg data n hsort hnear hlen hserve => ?_⟩
  · rw [workStep_fill hopc, fillStep_end hend]
  · rw [workStep_copy hopc, copyStep_end hend]
  · rw [workStep_fill hopc, fillStep_write hmore hwrite]
  · rw [workStep_copy hopc, copyStep_read hmore hgood hbuf hpool hread]
  · rw [workStep_copy hopc, copyStep_write hmore hgood hbuf hpool hwrite]
  · obtain ⟨tr, hstore⟩ := tierWrite_near_hit (chg := chg) (data := data) hnear hserve
    exact ⟨_, hstore, line_setLine _ line data hsort hlen, isPoison_setLine _ line data,
      fun a ha => byte_setLine_out _ line a data hsort ha, fun l hl => isPoison_setLine_ne _ data hl, rfl⟩

end Sys2Proof.Machine
end

section
/-!
PROOFS for 01_pool_anatomy.md: the invariant that every step keeps, the commands that leave pool memory alone, and how resets are
asked for and end. The invariant is shown closed, so that `exec_keeps` carries it through every command; the commands that leave
memory alone keep every regular property, of which having a given memory is one.
-/
namespace Sys2Proof.Machine

/-! ## Memory stays sound (01 R49, 13 R496) -/

section Memory
variable {s t : State}

theorem MemOk.wf (h : MemOk s) : Memory.wf s.mem = true := h.1

theorem MemOk.sorted (h : MemOk s) : ksorted s.mem = true := (memory_wf_iff.1 h.wf).1

theorem MemOk.poison_rises (h : MemOk s) : s.poison.Pairwise (· < ·) := h.2.1

theorem MemOk.byte_eq_zero (h : MemOk s) {l i : Nat} (hl : l ∈ s.poison) (hi : i < 64) : s.byte (l * 64 + i) = 0 := h.2.2 l hl i hi

/-- Memory stays sound where cells are only taken out and every line that is newly poisoned has lost its cells: a byte that read
zero reads zero still. -/
theorem MemOk.of_filter (h : MemOk s) (f : Host.Cell → Bool) (hmem : t.mem = s.mem.filter f) (hrise : t.poison.Pairwise (· < ·))
    (hnew : ∀ l ∈ t.poison, l ∈ s.poison ∨ ∀ c ∈ s.mem, c.1 / 64 = l → f c = false) : MemOk t := by
  refine ⟨by rw [hmem]; exact memory_wf_filter f s.mem h.wf, hrise, fun l hl i hi => ?_⟩
  rw [State.byte, hmem]
  rcases hnew l hl with hold | hgone
  · exact kgetD_filter_of_zero _ h.sorted (h.byte_eq_zero hold hi)
  · exact kgetD_filter_zero f s.mem _ h.sorted fun c hc hkey => hgone c hc (by omega)

/-- The line written is poisoned no more, and the bytes of the others are what they were. -/
theorem MemOk.setLine (h : MemOk s) (l : Nat) (bs : List Byte) : MemOk (s.setLine l bs) := by
  refine ⟨setLine_wf s l bs h.wf, h.poison_rises.filter _, fun m hm i hi => ?_⟩
  obtain ⟨hold, hne⟩ : m ∈ s.poison ∧ m ≠ l := by simpa [State.setLine, State.setBytes, sdel] using hm
  rw [byte_setLine_out s l _ bs h.sorted (by omega)]
  exact h.byte_eq_zero hold hi

theorem MemOk.zeroRange (h : MemOk s) (lo hi : Nat) : MemOk (s.zeroRange lo hi) :=
  h.of_filter _ rfl (h.poison_rises.filter _) fun _ hl => .inl (List.mem_of_mem_filter hl)

theorem MemOk.poisonLine (h : MemOk s) (l : Nat) : MemOk (s.poisonLine l) := by
  refine h.of_filter _ rfl (pairwise_sput (h.poison_rises.filter _)) fun m hm => ?_
  rcases mem_sput.1 hm with rfl | hold
  · exact .inr fun c _ hc => by simp; omega
  · exact .inl (List.mem_of_mem_filter hold)

/-- The lines of a channel that become poison are those whose cells are taken out (13 R512). -/
theorem MemOk.poisonChan (h : MemOk s) (c : Nat) : MemOk (poisonChan s c) := by
  refine h.of_filter _ rfl (pairwise_foldl_sput _ _ h.poison_rises) fun l hl => ?_
  rcases (mem_foldl_sput _ _).1 hl with hchan | hold
  · obtain ⟨_, _, hline⟩ := List.mem_flatMap.1 hchan
    exact .inr fun x _ hx => by simp [hx, (List.mem_filter.1 hline).2]
  · exact .inl hold

/-- Memory's soundness speaks of memory and poison alone. -/
theorem MemOk.congr (h : MemOk s) (hmem : t.mem = s.mem) (hpoison : t.poison = s.poison) : MemOk t := by
  rw [MemOk, hmem, hpoison]
  exact ⟨h.wf, h.poison_rises, fun l hl i hi => by rw [State.byte, hmem]; exact h.byte_eq_zero hl hi⟩

theorem memOk_of_empty (hmem : s.mem = []) (hpoison : s.poison = []) : MemOk s := by
  rw [MemOk, hmem, hpoison]
  exact ⟨rfl, .nil, fun _ hl => absurd hl List.not_mem_nil⟩

end Memory

/-- The invariant allows everything that an operation of the block does. -/
theorem closed_inv : Closed Inv where
  upd _ _ h _ hregs hmem hpoison := ⟨by rw [hregs]; exact h.1, h.2.congr hmem hpoison⟩
  regs _ _ h hsort := ⟨hsort h.1, h.2.congr rfl rfl⟩
  setLine _ l bs h := ⟨h.1, h.2.setLine l bs⟩
  poisonLine _ l h := ⟨h.1, h.2.poisonLine l⟩
  zeroRange _ lo hi h := ⟨h.1, h.2.zeroRange lo hi⟩
  poisonChan _ c h := ⟨h.1, h.2.poisonChan c⟩
  wipe _ _ h hsort := ⟨hsort h.1, memOk_of_empty rfl rfl⟩

/-- A step keeps a closed property that does not speak of the queue: `exec_keeps` for the front command, `idleTick_keeps` for a
nanosecond. -/
theorem step_keeps {P : State → Prop} (K : Closed P) (hqueue : ∀ s rest, P s → P { s with pending := rest }) {s t : State}
    (h : P s) (hstep : step s = .next t) : P t := by
  unfold step at hstep
  split at hstep
  case h_1 =>
    obtain rfl : idleTick s = t := Host.Outcome.next.inj hstep
    exact idleTick_keeps K s h
  case h_2 c rest _ =>
    have hout := exec_keeps K c _ (hqueue s rest h)
    rwa [hstep] at hout

/-- Settles O5: the invariant is a closed property and does not speak of the queue. -/
theorem stepKeepsInvariant : Obligations.StepKeepsInvariant := fun _ _ h hstep =>
  step_keeps closed_inv (fun _ _ h => ⟨h.1, h.2.congr rfl rfl⟩) h hstep

/-! ## Commands that never touch pool memory -/

/-- What `leavesMemory` names keeps every regular property: its meaning never writes a line, poisons one or zeroes a range. -/
theorem exec_keeps_of_leavesMemory {P : State → Prop} (K : Regular P) (c : Instr) (s : State) (hc : leavesMemory c = true)
    (h : P s) : OutHas P (exec c s) := by
  cases c with
  | e2eTmoExpiry id => exact execE2eTmoExpiry_keeps K id s h
  | answerCacheExpiry sl src seq ctag => exact execAnswerCacheExpiry_keeps K sl src seq ctag s h
  | backoffReservationExpiry line => exact execBackoffReservationExpiry_keeps K line s h
  | dataFlitRx port f => exact execDataFlitRx_keeps K port f s h
  | idleFlitRx port f => exact execIdleFlitRx_keeps K port f s h
  | corruptFlitRx port symErrs => exact execCorruptFlitRx_keeps K port symErrs s h
  | caps port m => exact execCaps_keeps K port m s h
  | lenProbe port m => exact execLenProbe_keeps K port m s h
  | lenEcho port m rtt => exact execLenEcho_keeps K port m rtt s h
  | creditAdv port m => exact execCreditAdv_keeps K port m s h
  | retrainReq port m => exact execRetrainReq_keeps K port m s h
  | resync port m => exact execResync_keeps K port m s h
  | laneAns port m => exact execLaneAns_keeps K port m s h
  | audit port m => exact execAudit_keeps K port m s h
  | lpiReq port m => exact execLpiReq_keeps K port m s h
  | lpiAck port m => exact execLpiAck_keeps K port m s h
  | portTrain port => exact execPortTrain_keeps K port s h
  | trainTmoExpiry port => exact execTrainTmoExpiry_keeps K port s h
  | replayTimerExpiry port => exact execReplayTimerExpiry_keeps K port s h
  | nakRepeatExpiry port => exact execNakRepeatExpiry_keeps K port s h
  | handoffStart port => exact execHandoffStart_keeps K port s h
  | handoffCountdownEnd port lane same => exact execHandoffCountdownEnd_keeps K port lane same s h
  | handoffAnswerTmo port => exact execHandoffAnswerTmo_keeps K port s h
  | ninthLaneCalDone port => exact execNinthLaneCalDone_keeps K port s h
  | laneFailure port rx lane => exact execLaneFailure_keeps K port rx lane s h
  | laserPoll port readings => exact execLaserPoll_keeps K port readings s h
  | errorWindowEnd port => exact execErrorWindowEnd_keeps K port s h
  | portRetryTimer port => exact execPortRetryTimer_keeps K port s h
  | auditSendTick port => exact execAuditSendTick_keeps K port s h
  | lpiIdleExpiry port => exact execLpiIdleExpiry_keeps K port s h
  | lpiWake port => exact execLpiWake_keeps K port s h
  | portEnable port v => exact execPortEnable_keeps K port v s h
  | portDisable port v => exact execPortDisable_keeps K port v s h
  | portRearm port v => exact execPortRearm_keeps K port v s h
  | portRetrain port v => exact execPortRetrain_keeps K port v s h
  | portCntClr port v => exact execPortCntClr_keeps K port v s h
  | egressPacketStart port => exact execEgressPacketStart_keeps K port s h
  | gateEntryAdvance port => exact execGateEntryAdvance_keeps K port s h
  | qosGateCommit port v => exact execQosGateCommit_keeps K port v s h
  | gateTakeoverAt port => exact execGateTakeoverAt_keeps K port s h
  | gbHoldExpiry port => exact execGbHoldExpiry_keeps K port s h
  | dramSlotGrant ch => exact execDramSlotGrant_keeps K ch s h
  | adaptTick => exact execAdaptTick_keeps K s h
  | histSampleTick port n => exact execHistSampleTick_keeps K port n s h
  | qosPortHistClear port v => exact execQosPortHistClear_keeps K port v s h
  | qosChHistClear ch v => exact execQosChHistClear_keeps K ch v s h
  | qosRegWrite o v => exact execQosRegWrite_keeps K o v s h
  | epochHoldExpiry => exact execEpochHoldExpiry_keeps K s h
  | timeSendTick => exact execTimeSendTick_keeps K s h
  | timeLossExpiry => exact execTimeLossExpiry_keeps K s h
  | xrdCntClr v => exact execXrdCntClr_keeps K v s h
  | quietWindowDue ch => exact execQuietWindowDue_keeps K ch s h
  | refreshStop ch sub => exact execRefreshStop_keeps K ch sub s h
  | dramTempPoll ch hub mr4 => exact execDramTempPoll_keeps K ch hub mr4 s h
  | lapMaxExpiry ch => exact execLapMaxExpiry_keeps K ch s h
  | dramCeWindowEnd ch => exact execDramCeWindowEnd_keeps K ch s h
  | ddrCntClr ch v => exact execDdrCntClr_keeps K ch v s h
  | driveBringup dr => exact execDriveBringup_keeps K dr s h
  | prtCorEnWrite p k v => exact execPrtCorEnWrite_keeps K p k v s h
  | prtSrSeedWrite p v => exact execPrtSrSeedWrite_keeps K p v s h
  | arithDescClr p v => exact execArithDescClr_keeps K p v s h
  | prtXltStatClr p v => exact execPrtXltStatClr_keeps K p v s h
  | progLoadGo p v => exact execProgLoadGo_keeps K p v s h
  | progClear p v => exact execProgClear_keeps K p v s h
  | prtRgnEnWrite p region v => exact execPrtRgnEnWrite_keeps K p region v s h
  | prtRgnClr p v => exact execPrtRgnClr_keeps K p v s h
  | prtSyncClr p v => exact execPrtSyncClr_keeps K p v s h
  | notifyTimeExpiry r => exact execNotifyTimeExpiry_keeps K r s h
  | ringWdogExpiry r => exact execRingWdogExpiry_keeps K r s h
  | wedgeExpiry r => exact execWedgeExpiry_keeps K r s h
  | hostReqNoBar func addr => exact execHostReqNoBar_keeps K func addr s h
  | secFwAdvance v => exact execSecFwAdvance_keeps K v s h
  | secFwRevoke v => exact execSecFwRevoke_keeps K v s h
  | getVersion msg => exact execGetVersion_keeps K msg s h
  | getCapabilities msg => exact execGetCapabilities_keeps K msg s h
  | negotiateAlgorithms msg => exact execNegotiateAlgorithms_keeps K msg s h
  | getDigests msg => exact execGetDigests_keeps K msg s h
  | getCertificate msg => exact execGetCertificate_keeps K msg s h
  | challenge msg => exact execChallenge_keeps K msg s h
  | getMeasurements msg => exact execGetMeasurements_keeps K msg s h
  | keyExchange msg => exact execKeyExchange_keeps K msg s h
  | finish msg => exact execFinish_keeps K msg s h
  | heartbeatSpdm msg => exact execHeartbeatSpdm_keeps K msg s h
  | keyUpdate msg => exact execKeyUpdate_keeps K msg s h
  | endSession msg => exact execEndSession_keeps K msg s h
  | vendorDefinedRequest msg => exact execVendorDefinedRequest_keeps K msg s h
  | unlockReq => exact execUnlockReq_keeps K s h
  | tapInstruction ir => exact execTapInstruction_keeps K ir s h
  | ueCoalesceExpiry c src part => exact execUeCoalesceExpiry_keeps K c src part s h
  | watchCeWindowEnd c => exact execWatchCeWindowEnd_keeps K c s h
  | fltFirstClear c v => exact execFltFirstClear_keeps K c v s h
  | fltCntClr c v => exact execFltCntClr_keeps K c v s h
  | irqDeliver src => exact execIrqDeliver_keeps K src s h
  | irqAck src v => exact execIrqAck_keeps K src v s h
  | msixUnmask func vec => exact execMsixUnmask_keeps K func vec s h
  | irqStatClr v => exact execIrqStatClr_keeps K v s h
  | powerOn => exact execPowerOn_keeps K s h
  | perstHigh => exact execPerstHigh_keeps K s h
  | preconditionsHeld => exact execPreconditionsHeld_keeps K s h
  | startStepDone r => exact execStartStepDone_keeps K r s h
  | startStepTmoExpiry => exact execStartStepTmoExpiry_keeps K s h
  | recoveryGo v => exact execRecoveryGo_keeps K v s h
  | recoveryFetchDone ok svn keysel => exact execRecoveryFetchDone_keeps K ok svn keysel s h
  | recoveryWaitExpiry => exact execRecoveryWaitExpiry_keeps K s h
  | tallyCopyTick => exact execTallyCopyTick_keeps K s h
  | tallyForget v => exact execTallyForget_keeps K v s h
  | quietIdleExpiry cell => exact execQuietIdleExpiry_keeps K cell s h
  | dozeWake scope cause => exact execDozeWake_keeps K scope cause s h
  | prtSecClr p v => exact execPrtSecClr_keeps K p v s h
  | elderHeartbeat b => exact execElderHeartbeat_keeps K b s h
  | elderRearm v => exact execElderRearm_keeps K v s h
  | resyncStepDone code entries => exact execResyncStepDone_keeps K code entries s h
  | handover v => exact execHandover_keeps K v s h
  | eldCntClr v => exact execEldCntClr_keeps K v s h
  | tempSensorTick readings => exact execTempSensorTick_keeps K readings s h
  | governorTick => exact execGovernorTick_keeps K s h
  | govEventWindow => exact execGovEventWindow_keeps K s h
  | voltageSettled w => exact execVoltageSettled_keeps K w s h
  | avsCurrentPoll bus ok amps => exact execAvsCurrentPoll_keeps K bus ok amps s h
  | avsRetryTick bus ok => exact execAvsRetryTick_keeps K bus ok s h
  | smbusClockTimeout => exact execSmbusClockTimeout_keeps K s h
  | fecLockLost port => exact execFecLockLost_keeps K port s h
  | fecLockGained port => exact execFecLockGained_keeps K port s h
  | trainingBlockRx port lane mask => exact execTrainingBlockRx_keeps K port lane mask s h
  | ringLockTmoExpiry port lane rx => exact execRingLockTmoExpiry_keeps K port lane rx s h
  | rateFallbackTmoExpiry port => exact execRateFallbackTmoExpiry_keeps K port s h
  | lpiAnswerTmoExpiry port => exact execLpiAnswerTmoExpiry_keeps K port s h
  | controlFlitRepeatTick port => exact execControlFlitRepeatTick_keeps K port s h
  | nvmeLinkDown dr => exact execNvmeLinkDown_keeps K dr s h
  | nvmeLinkUp dr => exact execNvmeLinkUp_keeps K dr s h
  | nvmeControllerReady dr mqes => exact execNvmeControllerReady_keeps K dr mqes s h
  | hostLinkDown => exact execHostLinkDown_keeps K s h
  | hostLinkUp => exact execHostLinkUp_keeps K s h
  | voltageSettleTmoExpiry w => exact execVoltageSettleTmoExpiry_keeps K w s h
  | testPortReset => exact execTestPortReset_keeps K s h
  | _ => exact absurd hc Bool.false_ne_true

/-- Having the memory and the poison of a given state is a regular property. -/
theorem regular_sameMem (s : State) : Regular (sameMem s) where
  upd _ _ h _ _ hmem hpoison := ⟨hmem.trans h.1, hpoison.trans h.2⟩
  regs _ _ h _ := h

/-- Settles O6: what those commands reach has the memory and the poison of the state they start from. -/
theorem commandsThatLeaveMemory : Obligations.CommandsThatLeaveMemory := by
  intro c s t hc hexec
  have hout := exec_keeps_of_leavesMemory (regular_sameMem s) c s hc ⟨rfl, rfl⟩
  rw [hexec] at hout
  obtain ⟨hmem, hpoison⟩ : sameMem s t := hout
  exact ⟨fun a => by rw [State.byte, hmem, State.byte], fun l => by rw [State.isPoison, hpoison, State.isPoison]⟩

/-! ## A write of CHIP_RST_CTL (01 R35, 16 R594, R596, R606) -/

section ResetControl
variable {s : State} {v : Nat}

theorem exec_rstCtl {w : Word} {c : Instr} (s : State)
    (hc : c ∈ [Instr.resetCold w, .resetWarm w, .resetPool w, .resetWard w, .resetPart w]) :
    exec c s = .next (rstCtlWrite s w.toNat) := by
  fin_cases hc <;> rfl

theorem rowOf_CHIP_RST_CTL :
    rowOf CHIP_RST_CTL.reg = ⟨CHIP_RST_CTL.reg, .chip, [⟨0, 3, .rw, .pool⟩, ⟨3, 5, .rw, .pool⟩, ⟨8, 1, .wo, .never⟩]⟩ := by
  decide +kernel

/-- A field of CHIP_RST_CTL that its table lists as RW reads as written. -/
theorem rd_rstCtl (g : Fld) (f : FldRow) (hreg : g.reg = CHIP_RST_CTL.reg) (hf : f ∈ (rowOf CHIP_RST_CTL.reg).flds)
    (hacc : f.acc = .rw) (hlo : f.lo = g.lo) (hw : f.w = g.w) (v : Nat) (hsort : ksorted s.regs = true) :
    (plainWrite s CHIP_RST_CTL.reg 0 0 0 v).rd g = wrote g v := by
  have hrow : (rowOf g.reg).reg = g.reg := by rw [hreg, rowOf_CHIP_RST_CTL]
  have hmem : rowOf g.reg ∈ regRows := rowOf_mem (by rw [hreg]; decide +kernel)
  rw [← hreg, rd_plainWrite s g f 0 0 0 v hsort hmem hrow (by rw [hreg]; exact hf) hlo hw, wrote, ← hlo, ← hw, fieldAfter, hacc,
    hreg, rowOf_CHIP_RST_CTL]
  rfl

theorem rd_KIND_plainWrite (v : Nat) (hsort : ksorted s.regs = true) :
    (plainWrite s CHIP_RST_CTL.reg 0 0 0 v).rd CHIP_RST_CTL.KIND = wrote CHIP_RST_CTL.KIND v :=
  rd_rstCtl _ ⟨0, 3, .rw, .pool⟩ rfl (by simp [rowOf_CHIP_RST_CTL]) rfl rfl rfl v hsort

theorem rd_TARGET_plainWrite (v : Nat) (hsort : ksorted s.regs = true) :
    (plainWrite s CHIP_RST_CTL.reg 0 0 0 v).rd CHIP_RST_CTL.TARGET = wrote CHIP_RST_CTL.TARGET v :=
  rd_rstCtl _ ⟨3, 5, .rw, .pool⟩ rfl (by simp [rowOf_CHIP_RST_CTL]) rfl rfl rfl v hsort

/-- In DEEP the write is not taken at all. -/
theorem rstCtlWrite_deep (h : s.rd CHIP_SLEEP.STATE = 3) : rstCtlWrite s v = s := by
  rw [rstCtlWrite, if_pos h]

/-- Without GO it only takes the fields. -/
theorem rstCtlWrite_no_go (hawake : s.rd CHIP_SLEEP.STATE ≠ 3) (hgo : wrote CHIP_RST_CTL.GO v = 0) :
    rstCtlWrite s v = plainWrite s CHIP_RST_CTL.reg 0 0 0 v := by
  simp [rstCtlWrite, hawake, hgo]

/-- With GO, KIND and TARGET as written choose what is asked for, if they name anything. -/
theorem rstCtlWrite_go (hsort : ksorted s.regs = true) (hawake : s.rd CHIP_SLEEP.STATE ≠ 3) (hgo : wrote CHIP_RST_CTL.GO v = 1)
    {t : State} (ht : t = plainWrite s CHIP_RST_CTL.reg 0 0 0 v) {k i : Nat} (hk : wrote CHIP_RST_CTL.KIND v = k)
    (hi : i = wrote CHIP_RST_CTL.TARGET v) :
    rstCtlWrite s v = if 1 ≤ k ∧ k ≤ 3 then resetAsk t k (5 * 1024) 1 none
      else if k = 4 ∧ i < 4 then resetAsk t 4 (4 * 1024 + i) 1 none
      else if k = 5 ∧ i < 16 ∧ t.partOn i then resetAsk t 5 (3 * 1024 + i) 1 none else t := by
  subst ht hk hi
  simp [rstCtlWrite, hawake, hgo, rd_KIND_plainWrite v hsort, rd_TARGET_plainWrite v hsort]

/-- What a running action of no less strength encloses is not asked for again (01 R37). -/
theorem resetAsk_absorbed {kind sc src : Nat} {rec_ : Option Nat} (habs : absorbedBy s kind sc = true) (hkind : kind ≠ 3) :
    resetAsk s kind sc src rec_ = s := by
  simp [resetAsk, hkind, habs]

end ResetControl

/-! ## The ends of Curfew, of a reset and of the leaving sequence (16 R594, R598, R602, 11 R451) -/

section Ends
variable {s : State} {r : RstX} {sc : Nat}

/-- Where no Curfew of the scope runs, the drain limit does nothing. -/
theorem drainExpired_none (h : s.ctl.rsts.find? (fun r => r.scope == sc && r.step == 2) = none) : drainExpired s sc = s := by
  simp only [drainExpired, h]

/-- The drain limit ends the Curfew of a DOZE, of QUIET or of a reset. -/
theorem drainExpired_some (h : s.ctl.rsts.find? (fun r => r.scope == sc && r.step == 2) = some r) :
    drainExpired s sc = if r.kind = 9 then dozeCurfewEnd s r else if r.kind = 12 then quietEnd s r else curfewEnd s r := by
  simp only [drainExpired, h]

theorem dozeCurfewEnd_busy (h : scopeBusy s r.scope = true) : dozeCurfewEnd s r = dozeEnd (absorb s r.scope).1 r := by
  rw [dozeCurfewEnd, if_pos h]

theorem dozeCurfewEnd_drained (h : scopeBusy s r.scope = false) : dozeCurfewEnd s r = dozeEnd s r := by
  simp [dozeCurfewEnd, h]

theorem scopeDone_reset (ok : Bool) (h : rstOf s sc = some r) : scopeDone s sc ok = resetResult s r ok := by
  by_cases h3 : r.step = 3 <;> simp [scopeDone, resetResult, h, h3]

/-- Where no reset of the scope runs, what has ended is its return from DOZE. -/
theorem scopeDone_wake (ok : Bool) (h : rstOf s sc = none)
    (hwake : s.ctl.rsts.find? (fun r => r.kind == 9 && r.scope == sc && r.step == 3) = some r) :
    scopeDone s sc ok = dozeReturn s r := by
  simp only [scopeDone, h, hwake]

theorem scopeDone_none (ok : Bool) (h : rstOf s sc = none)
    (hwake : s.ctl.rsts.find? (fun r => r.kind == 9 && r.scope == sc && r.step == 3) = none) : scopeDone s sc ok = s := by
  simp only [scopeDone, h, hwake]

/-- A reset that has not come to its own step has no result yet. -/
theorem resetResult_early (ok : Bool) (h : r.step ≠ 3) : resetResult s r ok = s := by rw [resetResult, if_pos h]

theorem resetResult_ok (h : r.step = 3) : resetResult s r true = resetEnds s r := by simp [resetResult, h]

theorem resetResult_failed (h : r.step = 3) : resetResult s r false = resetFails (failRec s r 7) r := by simp [resetResult, h]

theorem resetLimit_none (h : rstOf s sc = none) : resetLimit s sc = s := by simp only [resetLimit, h]

/-- A reset that still waits, and WARM, COLD and DEEP, have no limit. -/
theorem resetLimit_unlimited (h : rstOf s sc = some r) (hno : r.step < 2 ∨ r.kind < 3 ∨ r.kind = 8) : resetLimit s sc = s := by
  simp only [resetLimit, h, if_pos hno]

/-- A reset past its limit fails with ERR 0x0D, once what its Curfew had left is absorbed. -/
theorem resetLimit_fails (h : rstOf s sc = some r) (hno : ¬ (r.step < 2 ∨ r.kind < 3 ∨ r.kind = 8)) :
    resetLimit s sc = resetFails (failRec (if r.step = 2 then curfewEnd s r else s) r 13) r := by
  simp only [resetLimit, h, if_neg hno]

theorem leaveDone_staying (h : s.xrd.leaving = 0) : leaveDone s = s := by rw [leaveDone, if_pos h]

/-- LEAVE_HOLD ends with the ports off, and the reset that waited for it closes its scope. -/
theorem leaveDone_leaving (h : s.xrd.leaving ≠ 0) (hrst : s.ctl.rsts.find? (fun r => r.step == 1) = some r) :
    leaveDone s = closeScope (portsOff (leaveEnd s)) { r with step := 2 } := by
  simp only [leaveDone, if_neg h, hrst]

theorem exec_curfewDrainExpiry (sc : Nat) (s : State) : exec (.curfewDrainExpiry sc) s = .next (drainExpired s sc) := rfl

theorem exec_scopeResetLimitExpiry (sc : Nat) (s : State) :
    exec (.scopeResetLimitExpiry sc) s = .next (logDrain (resetLimit s sc)) := rfl

theorem exec_scopeResetDone (sc : Nat) (ok : Bool) (s : State) :
    exec (.scopeResetDone sc ok) s = .next (logDrain (scopeDone s sc ok)) := rfl

theorem exec_leaveHoldExpiry (s : State) : exec .leaveHoldExpiry s = .next (leaveDone s) := rfl

end Ends

/-- Settles O56: the write is `rstCtlWrite`, whose outcome KIND, TARGET and GO choose; each expiry and end acts on the entry of
`rsts` that the search finds, by the lemmas above. -/
theorem resetsAreAskedAndEnd : Obligations.ResetsAreAskedAndEnd := by
  refine ⟨?write, fun s kind sc src habs hkind => resetAsk_absorbed habs hkind, fun s sc => ⟨?noCurfew, ?curfew, ?noReset, ?reset⟩,
    fun s => ⟨?staying, ?leaving⟩⟩
  case write =>
    intro s t v c hsort hc ht i hi
    rw [exec_rstCtl s hc]
    have honly : onlyRegs s t [CHIP_RST_CTL.reg.addr 0 0 0] := by
      rw [ht]
      exact plainWrite_only s _ 0 0 0 _ _ hsort (by rw [rowOf_CHIP_RST_CTL]) List.mem_cons_self
    refine ⟨honly, by rw [ht, rd_KIND_plainWrite _ hsort], by rw [ht, rd_TARGET_plainWrite _ hsort, hi],
      fun hdeep => by rw [rstCtlWrite_deep hdeep], fun hawake hgo => by rw [rstCtlWrite_no_go hawake hgo, ht],
      fun hawake hgo => ?_⟩
    have hask := @rstCtlWrite_go s v.toNat hsort hawake hgo t ht
    refine ⟨fun k h1 h3 hk => ?_, fun h4 hlt => ?_, fun h5 hlt hon => ?_, fun hnone => ?_⟩
    · rw [hask hk hi, if_pos ⟨h1, h3⟩]
    · rw [hask h4 hi, if_neg (by decide), if_pos ⟨rfl, hlt⟩]
    · rw [hask h5 hi, if_neg (by decide), if_neg (by omega), if_pos ⟨rfl, hlt, hon⟩]
    · rw [hask rfl hi, if_neg (by omega), if_neg (by omega), if_neg]
      rintro ⟨h5, hlt, hon⟩
      simp only [hon, Bool.true_eq_false, or_false] at hnone
      omega
  case noCurfew =>
    intro h
    rw [exec_curfewDrainExpiry, drainExpired_none h]
  case curfew =>
    intro r h
    simp only [exec_curfewDrainExpiry, drainExpired_some h]
    refine ⟨fun h9 h12 => by rw [if_neg h9, if_neg h12], fun h12 => ?_, fun h9 hbusy => ?_, fun h9 hbusy => ?_⟩
    · rw [if_neg (by omega), if_pos h12]
    · rw [if_pos h9, dozeCurfewEnd_busy hbusy]
    · rw [if_pos h9, dozeCurfewEnd_drained hbusy]
  case noReset =>
    intro h
    rw [exec_scopeResetLimitExpiry, exec_scopeResetDone, resetLimit_none h]
    exact ⟨rfl, fun hwake => by rw [scopeDone_none true h hwake], fun r hwake => by rw [scopeDone_wake true h hwake]⟩
  case reset =>
    intro r h
    simp only [exec_scopeResetLimitExpiry, exec_scopeResetDone, scopeDone_reset _ h]
    refine ⟨fun hstep ok => by rw [resetResult_early ok hstep],
      fun hstep => ⟨by rw [resetResult_ok hstep], by rw [resetResult_failed hstep]⟩,
      fun hno => by rw [resetLimit_unlimited h hno], fun h3 h8 hstep => ?_, fun h3 h8 hstep => ?_⟩
    · rw [resetLimit_fails h (by omega), if_pos hstep]
    · rw [resetLimit_fails h (by omega), if_neg (by omega)]
  case staying =>
    intro h
    rw [exec_leaveHoldExpiry, leaveDone_staying h]
  case leaving =>
    intro r h hrst
    rw [exec_leaveHoldExpiry, leaveDone_leaving h hrst]

end Sys2Proof.Machine
end

section
/-!
PROOFS for 02_spaces_pages_and_extents.md: what a CLEAR of a counter block leaves, the descriptors that move no data, the storage
of an extent when it is scrubbed and freed, and what ends the work on an extent, a fault entry, a wait and a request's life. Each
part says once what the model's functions do, and ends with the statement it settles.
-/
namespace Sys2Proof.Machine

/-! ## CLEAR of a counter block (02 R128, 07 R320, 08 R341, 10 R413, 11 R454, 14 R546, 15 R574, R575, 17 R623) -/

section Clears
variable {s t : State} {l : List Nat}

/-- A register cleared reads zero, and it alone changes. -/
theorem clrReg_zero_only (r : Reg) (i j k : Nat) (hsort : ksorted s.regs = true) (hrv : r.rv < 2 ^ 64) :
    (s.clrReg r i j k).rdReg r i j k = 0 ∧ onlyRegs s (s.clrReg r i j k) [r.addr i j k] :=
  ⟨rdReg_clrReg_self s r i j k hsort (rvAt_lt hrv i), onlyRegs_wrReg s r i j k 0 hsort List.mem_cons_self⟩

theorem clrReg_sorted (r : Reg) (i j k : Nat) (hsort : ksorted s.regs = true) : ksorted (s.clrReg r i j k).regs = true :=
  wrReg_sorted s r i j k 0 hsort

theorem onlyRegs_clrReg (r : Reg) (i j k : Nat) (hsort : ksorted s.regs = true) (hmem : r.addr i j k ∈ l) :
    onlyRegs s (s.clrReg r i j k) l := onlyRegs_wrReg s r i j k 0 hsort hmem

theorem rdReg_clrReg_ne {r r' : Reg} {i j k i' j' k' : Nat} (hsort : ksorted s.regs = true)
    (hne : r'.addr i' j' k' ≠ r.addr i j k) : (s.clrReg r i j k).rdReg r' i' j' k' = s.rdReg r' i' j' k' :=
  rdReg_wrReg_ne s r r' i j k i' j' k' 0 hsort hne

theorem onlyRegs_mono {l' : List Nat} (h : onlyRegs s t l) (hl : l ⊆ l') : onlyRegs s t l' := ⟨h.1, regsKept_mono h.2 hl⟩

/-- A field of a register that was left alone. -/
theorem rd_of_regsKept (h : regsKept s t l) (f : Fld) {i j k : Nat} (hout : f.reg.addr i j k ∉ l) : t.rd f i j k = s.rd f i j k := by
  rw [State.rd, h _ _ _ _ hout, State.rd]

/-- One port's counters of the crossroads, cleared. -/
def portCntsCleared (s : State) (n : Nat) : State := (s.clrReg XRD_PORT_CNT.reg n).clrReg XRD_PORT_CNT2.reg n

/-- The offsets of one port's counters of the crossroads. -/
def portCntAddrs (n : Nat) : List Nat := [XRD_PORT_CNT.reg.addr n 0 0, XRD_PORT_CNT2.reg.addr n 0 0]

theorem portCntsCleared_sorted (n : Nat) (hsort : ksorted s.regs = true) : ksorted (portCntsCleared s n).regs = true :=
  clrReg_sorted _ _ _ _ (clrReg_sorted _ _ _ _ hsort)

theorem portCntsCleared_only (n : Nat) (hsort : ksorted s.regs = true) : onlyRegs s (portCntsCleared s n) (portCntAddrs n) :=
  onlyRegs_trans (onlyRegs_clrReg _ _ _ _ hsort (by simp [portCntAddrs]))
    (onlyRegs_clrReg _ _ _ _ (clrReg_sorted _ _ _ _ hsort) (by simp [portCntAddrs]))

theorem portCntsCleared_zero (n : Nat) (hsort : ksorted s.regs = true) :
    (portCntsCleared s n).rdReg XRD_PORT_CNT.reg n 0 0 = 0 ∧ (portCntsCleared s n).rdReg XRD_PORT_CNT2.reg n 0 0 = 0 := by
  have hsort' := clrReg_sorted XRD_PORT_CNT.reg n 0 0 hsort
  refine ⟨?_, (clrReg_zero_only _ n 0 0 hsort' (by decide)).1⟩
  rw [portCntsCleared, rdReg_clrReg_ne hsort' (by simp [Reg.addr, XRD_PORT_CNT.reg, XRD_PORT_CNT2.reg])]
  exact (clrReg_zero_only _ n 0 0 hsort (by decide)).1

/-- The ports' counters lie 16 bytes apart, so one port's are none of another's. -/
theorem portCntAddrs_apart {m n : Nat} (h : m ≠ n) :
    XRD_PORT_CNT.reg.addr m 0 0 ∉ portCntAddrs n ∧ XRD_PORT_CNT2.reg.addr m 0 0 ∉ portCntAddrs n := by
  simp [portCntAddrs, Reg.addr, XRD_PORT_CNT.reg, XRD_PORT_CNT2.reg]
  omega

/-- The counters of the first `n` ports, cleared one port after another. -/
theorem portCnts_foldl (n : Nat) (hsort : ksorted s.regs = true) (ht : t = (List.range n).foldl portCntsCleared s) :
    ksorted t.regs = true ∧ onlyRegs s t ((List.range n).flatMap portCntAddrs) ∧
    ∀ m < n, t.rdReg XRD_PORT_CNT.reg m 0 0 = 0 ∧ t.rdReg XRD_PORT_CNT2.reg m 0 0 = 0 := by
  induction n generalizing t with
  | zero => subst ht; exact ⟨hsort, onlyRegs_refl _ _, fun m hm => absurd hm (Nat.not_lt_zero m)⟩
  | succ n ih =>
    obtain ⟨hsort', ⟨honly, hkept⟩, hzero⟩ := ih rfl
    have hlast := portCntsCleared_only n hsort'
    rw [List.range_succ, List.foldl_append] at ht
    subst ht
    refine ⟨portCntsCleared_sorted n hsort', ?_, fun m hm => ?_⟩
    · rw [List.range_succ, List.flatMap_append]
      exact onlyRegs_trans ⟨honly, regsKept_mono hkept (List.subset_append_left _ _)⟩
        ⟨hlast.1, regsKept_mono hlast.2 (by simp)⟩
    · by_cases hmn : m = n
      · subst hmn; exact portCntsCleared_zero m hsort'
      · have hm' : m < n := by omega
        obtain ⟨hout, hout2⟩ := portCntAddrs_apart hmn
        exact ⟨(hlast.2 _ _ _ _ hout).trans (hzero m hm').1, (hlast.2 _ _ _ _ hout2).trans (hzero m hm').2⟩

/-- A CLEAR write of PF0's registers while they answer. -/
theorem atPf0_clear {f : Fld} {v : Nat} (hopen : pf0Open s = true) (hclear : wrote f v = 1) :
    atPf0 s (if wrote f v = 0 then s else t) = t := by
  rw [atPf0_open _ hopen, if_neg (by omega)]

/-- Two fields of one register written one after the other read as written, its other fields as before. -/
theorem rd_wr_zero_pair {f g : Fld} {i j k : Nat} (hsort : ksorted s.regs = true) (hrv : f.reg.rv < 2 ^ 64)
    (hreg : g.reg = f.reg) (hfg : f.lo + f.w ≤ g.lo) (hg : g.lo + g.w ≤ 64)
    (ht : t = (s.wr f 0 i j k).wr g 0 i j k) :
    t.rd f i j k = 0 ∧ t.rd g i j k = 0 ∧
      ∀ h : Fld, h.reg = f.reg → h.lo + h.w ≤ f.lo → t.rd h i j k = s.rd h i j k := by
  subst ht
  have hsort' := wr_sorted s f 0 i j k hsort
  have hrv' : g.reg.rvAt i < 2 ^ 64 := rvAt_lt (by rw [hreg]; exact hrv) i
  refine ⟨?_, ?_, fun h hh hlo => ?_⟩
  · rw [rd_wr_field _ g f 0 i j k hsort' hrv' hg hreg.symm (.inl hfg),
      rd_wr_self s f 0 i j k hsort (rvAt_lt hrv i) (by omega), Nat.zero_mod]
  · rw [rd_wr_self _ g 0 i j k hsort' hrv' hg, Nat.zero_mod]
  · rw [rd_wr_field _ g h 0 i j k hsort' hrv' hg (hh.trans hreg.symm) (.inl (by omega)),
      rd_wr_field s f h 0 i j k hsort (rvAt_lt hrv i) (by omega) hh (.inl hlo)]

/-- PORT_CNT_CLR clears two counter registers and the two counters of PORT_LANE_STAT. -/
theorem portCntClr_clear (n : Nat) {v : Nat} (hsort : ksorted s.regs = true) (hclear : wrote PORT_CNT_CLR.CLEAR v = 1)
    (ht : t = portCntClr s n v) :
    t.rdReg PORT_ERR_CNT.reg n 0 0 = 0 ∧ t.rdReg PORT_LINK_CNT.reg n 0 0 = 0 ∧ t.rd PORT_LANE_STAT.ROTATIONS n = 0 ∧
      t.rd PORT_LANE_STAT.ROT_ABORTS n = 0 ∧ t.rd PORT_LANE_STAT.TX_SPARE n = s.rd PORT_LANE_STAT.TX_SPARE n ∧
      t.rd PORT_LANE_STAT.RX_SPARE n = s.rd PORT_LANE_STAT.RX_SPARE n ∧ t.rd PORT_LANE_STAT.TX_FAIL n = s.rd PORT_LANE_STAT.TX_FAIL n ∧
      t.rd PORT_LANE_STAT.RX_FAIL n = s.rd PORT_LANE_STAT.RX_FAIL n ∧
      onlyRegs s t [PORT_ERR_CNT.reg.addr n 0 0, PORT_LINK_CNT.reg.addr n 0 0, PORT_LANE_STAT.reg.addr n 0 0] := by
  rw [portCntClr, if_neg (by omega)] at ht
  have hsort1 := clrReg_sorted PORT_ERR_CNT.reg n 0 0 hsort
  have hsort2 := clrReg_sorted PORT_LINK_CNT.reg n 0 0 hsort1
  have hsort3 := wr_sorted _ PORT_LANE_STAT.ROTATIONS 0 n 0 0 hsort2
  obtain ⟨herr, honly1⟩ := clrReg_zero_only PORT_ERR_CNT.reg n 0 0 hsort (by decide)
  obtain ⟨hlink, honly2⟩ := clrReg_zero_only PORT_LINK_CNT.reg n 0 0 hsort1 (by decide)
  have honly3 : onlyRegs ((s.clrReg PORT_ERR_CNT.reg n).clrReg PORT_LINK_CNT.reg n) t [PORT_LANE_STAT.reg.addr n 0 0] := by
    rw [ht]
    exact onlyRegs_trans (onlyRegs_wr _ PORT_LANE_STAT.ROTATIONS 0 n 0 0 hsort2 List.mem_cons_self)
      (onlyRegs_wr _ PORT_LANE_STAT.ROT_ABORTS 0 n 0 0 hsort3 List.mem_cons_self)
  obtain ⟨hrot, habort, hkept⟩ := rd_wr_zero_pair (f := PORT_LANE_STAT.ROTATIONS) (g := PORT_LANE_STAT.ROT_ABORTS)
    hsort2 (by decide) rfl (by decide) (by decide) ht
  have hfield : ∀ f : Fld, f.reg = PORT_LANE_STAT.reg → f.lo + f.w ≤ 32 → t.rd f n = s.rd f n := by
    intro f hreg hlo
    rw [hkept f hreg hlo, rd_of_regsKept honly2.2 f, rd_of_regsKept honly1.2 f] <;>
      simp [hreg, Reg.addr, PORT_LANE_STAT.reg, PORT_LINK_CNT.reg, PORT_ERR_CNT.reg]
  refine ⟨?_, ?_, hrot, habort, hfield _ rfl (by decide), hfield _ rfl (by decide), hfield _ rfl (by decide),
    hfield _ rfl (by decide), ?_⟩
  · rw [honly3.2, honly2.2, herr] <;> simp [Reg.addr, PORT_LANE_STAT.reg, PORT_LINK_CNT.reg, PORT_ERR_CNT.reg]
  · rw [honly3.2, hlink]
    simp [Reg.addr, PORT_LANE_STAT.reg, PORT_LINK_CNT.reg]
  · exact onlyRegs_trans (onlyRegs_mono honly1 (by simp))
      (onlyRegs_trans (onlyRegs_mono honly2 (by simp)) (onlyRegs_mono honly3 (by simp)))

/-- FLT_CNT_CLR clears a counter register and BROKEN of FLT_WIRE. -/
theorem fltCntClr_clear (c : Nat) {v : Nat} (hsort : ksorted s.regs = true) (hclear : wrote FLT_CNT_CLR.CLEAR v = 1)
    (ht : t = fltCntClr s c v) :
    t.rdReg FLT_CNT.reg c 0 0 = 0 ∧ t.rd FLT_WIRE.BROKEN c = 0 ∧ t.rd FLT_WIRE.MASKED c = s.rd FLT_WIRE.MASKED c ∧
      onlyRegs s t [FLT_CNT.reg.addr c 0 0, FLT_WIRE.reg.addr c 0 0] := by
  rw [fltCntClr, if_neg (by omega)] at ht
  subst ht
  have hsort1 := clrReg_sorted FLT_CNT.reg c 0 0 hsort
  obtain ⟨hcnt, honly1⟩ := clrReg_zero_only FLT_CNT.reg c 0 0 hsort (by decide)
  have honly2 : onlyRegs _ _ [FLT_WIRE.reg.addr c 0 0] := onlyRegs_wr _ FLT_WIRE.BROKEN 0 c 0 0 hsort1 List.mem_cons_self
  refine ⟨?_, rd_wr_self _ FLT_WIRE.BROKEN 0 c 0 0 hsort1 (rvAt_lt (by decide) c) (by decide), ?_, ?_⟩
  · rw [honly2.2, hcnt]
    simp [Reg.addr, FLT_WIRE.reg, FLT_CNT.reg]
  · rw [rd_wr_field _ FLT_WIRE.BROKEN FLT_WIRE.MASKED 0 c 0 0 hsort1 (rvAt_lt (by decide) c) (by decide) rfl (by decide),
      rd_of_regsKept honly1.2 FLT_WIRE.MASKED]
    simp [Reg.addr, FLT_WIRE.MASKED, FLT_WIRE.reg, FLT_CNT.reg]
  · exact onlyRegs_trans (onlyRegs_mono honly1 (by simp)) (onlyRegs_mono honly2 (by simp))

/-- XRD_CNT_CLR clears the two counters of the crossroads and then every port's. -/
theorem xrdCntClr_clear {v : Nat} (hsort : ksorted s.regs = true) (hclear : wrote XRD_CNT_CLR.CLEAR v = 1) (ht : t = xrdCntClr s v) :
    t.rdReg XRD_RETX_STAT.reg 0 0 0 = 0 ∧ t.rdReg XRD_ORIG_CNT.reg 0 0 0 = 0 ∧
      (∀ m : Port, t.rdReg XRD_PORT_CNT.reg m 0 0 = 0 ∧ t.rdReg XRD_PORT_CNT2.reg m 0 0 = 0) ∧
      onlyRegs s t (XRD_RETX_STAT.reg.addr 0 0 0 :: XRD_ORIG_CNT.reg.addr 0 0 0 :: (List.range 32).flatMap portCntAddrs) := by
  rw [xrdCntClr, if_neg (by omega)] at ht
  have hsort1 := clrReg_sorted XRD_RETX_STAT.reg 0 0 0 hsort
  obtain ⟨hretx, honly1⟩ := clrReg_zero_only XRD_RETX_STAT.reg 0 0 0 hsort (by decide)
  obtain ⟨horig, honly2⟩ := clrReg_zero_only XRD_ORIG_CNT.reg 0 0 0 hsort1 (by decide)
  obtain ⟨-, honly3, hzero⟩ := portCnts_foldl 32 (clrReg_sorted XRD_ORIG_CNT.reg 0 0 0 hsort1) ht
  refine ⟨?_, ?_, fun m => hzero m m.isLt, ?_⟩
  · rw [honly3.2 _ _ _ _ (by decide +kernel), honly2.2 _ _ _ _ (by decide +kernel), hretx]
  · rw [honly3.2 _ _ _ _ (by decide +kernel), horig]
  · exact onlyRegs_trans (onlyRegs_mono honly1 (by simp))
      (onlyRegs_trans (onlyRegs_mono honly2 (by simp)) (onlyRegs_mono honly3 (by simp)))

/-- PRT_SYNC_CLR clears two counter registers. -/
theorem syncClr_clear (p : Nat) {v : Nat} (hsort : ksorted s.regs = true) (hclear : wrote PRT_SYNC_CLR.CLEAR v = 1)
    (ht : t = syncClr s p v) :
    t.rdReg PRT_SYNC_STAT.reg p 0 0 = 0 ∧ t.rdReg PRT_SYNC_STAT2.reg p 0 0 = 0 ∧
      onlyRegs s t [PRT_SYNC_STAT.reg.addr p 0 0, PRT_SYNC_STAT2.reg.addr p 0 0] := by
  rw [syncClr, if_neg (by omega)] at ht
  subst ht
  have hsort1 := clrReg_sorted PRT_SYNC_STAT.reg p 0 0 hsort
  obtain ⟨hstat, honly1⟩ := clrReg_zero_only PRT_SYNC_STAT.reg p 0 0 hsort (by decide)
  obtain ⟨hstat2, honly2⟩ := clrReg_zero_only PRT_SYNC_STAT2.reg p 0 0 hsort1 (by decide)
  refine ⟨?_, hstat2, onlyRegs_trans (onlyRegs_mono honly1 (by simp)) (onlyRegs_mono honly2 (by simp))⟩
  rw [honly2.2, hstat]
  simp [Reg.addr, PRT_SYNC_STAT.reg, PRT_SYNC_STAT2.reg]

/-- The command whose CLEAR names one register. -/
theorem clear_of_one_register {f : Fld} {v : Nat} (r : Reg) (i : Nat) (hsort : ksorted s.regs = true) (hopen : pf0Open s = true)
    (hrv : r.rv < 2 ^ 64) (hclear : wrote f v = 1) :
    ∃ t, (.next (atPf0 s (if wrote f v = 0 then s else s.clrReg r i)) : Host.Outcome State Fault Refusal) = .next t ∧
      t.rdReg r i 0 0 = 0 ∧ onlyRegs s t [r.addr i 0 0] :=
  ⟨_, congrArg Host.Outcome.next (atPf0_clear hopen hclear), clrReg_zero_only r i 0 0 hsort hrv⟩

end Clears

/-- Settles O12: each CLEAR zeroes the registers or the fields that it names one after another, each of which leaves the other
registers alone. -/
theorem clearsZeroTheirCounters : Obligations.ClearsZeroTheirCounters := by
  intro s p n c v hsort hopen
  have hnext : ∀ t, (.next (atPf0 s t) : Host.Outcome State Fault Refusal) = .next t := fun t => by rw [atPf0_open t hopen]
  exact ⟨clear_of_one_register _ p hsort hopen (by decide), clear_of_one_register _ p hsort hopen (by decide),
    fun hclear => ⟨_, hnext _, syncClr_clear p hsort hclear rfl⟩, clear_of_one_register _ p hsort hopen (by decide),
    fun hclear => ⟨_, hnext _, portCntClr_clear n hsort hclear rfl⟩, fun hclear => ⟨_, hnext _, xrdCntClr_clear hsort hclear rfl⟩,
    fun hclear => ⟨_, hnext _, fltCntClr_clear c hsort hclear rfl⟩, clear_of_one_register _ 0 hsort hopen (by decide),
    clear_of_one_register _ 0 hsort hopen (by decide)⟩

/-! ## The descriptors that move no data (02 R93, R104, R116, 03 R162, 08 R333, R334, 11 R443, 14 R531) -/

section ControlDescriptors
variable {s : State} {x : Started}

theorem workStep_nop (h : dOpc x.words = 0x50) : workStep s x = .done s x 0 0 0 := by simp [workStep, h, nopStep]

theorem workStep_fence (h : dOpc x.words = 0x1A) : workStep s x = fenceStep s x := by simp [workStep, h]

theorem workStep_pin (h : dOpc x.words = 0x29) : workStep s x = pinStep s x := by simp [workStep, h]

theorem workStep_unpin (h : dOpc x.words = 0x2A) : workStep s x = unpinStep s x := by simp [workStep, h]

theorem workStep_spaceInval (h : dOpc x.words = 0x30) : workStep s x = invalStep s x := by simp [workStep, h]

theorem workStep_extentAdd (h : dOpc x.words = 0x38) : workStep s x = addStep s x := by simp [workStep, h]

theorem workStep_keyLoad (h : dOpc x.words = 0x40) : workStep s x = keyLoadStep s x := by simp [workStep, h]

theorem workStep_routeCommit (h : dOpc x.words = 0x42) : workStep s x = commitStep s x := by simp [workStep, h]

theorem workStep_faultReply (h : dOpc x.words = 0x48) : workStep s x = replyStep s x := by simp [workStep, h]

/-- A FENCE ends where every started descriptor but itself is neither of its ring nor, under scope 1, of its ring's owner. -/
theorem fenceStep_uncovered (h : ∀ y ∈ s.started, (y.ring = x.ring → y.idx = x.idx) ∧
    (y.ring = x.ring ∨ dOp x.words 0 0 1 = 0 ∨ ringOwner s y.ring ≠ ringOwner s x.ring)) : fenceStep s x = .done s x 0 0 0 := by
  rw [fenceStep, if_pos]
  refine List.filter_eq_nil_iff.2 fun y hy => ?_
  obtain ⟨hidx, hout⟩ := h y hy
  by_cases hring : y.ring = x.ring
  · simp [hring, hidx hring]
  · obtain hscope | howner := hout.resolve_left hring
    · simp [hring, hscope]
    · simp [hring, howner]

theorem addStep_refused (h : addRefused s x.words ≠ 0) : addStep s x = .done s x (addRefused s x.words) 0 0 := by
  simp [addStep, h]

theorem addStep_accepted (h : addRefused s x.words = 0) : addStep s x = .stop (addEntry s x) x .ext := by simp [addStep, h]

theorem askBulk_extents (s : State) (c chg n : Nat) : (askBulk s c chg n).extents = s.extents := by
  rw [askBulk, askSlots]
  split <;> rfl

theorem chargeSlots_extents (s : State) (p : Nat) (slots : List (Nat × Nat × Nat)) :
    (chargeSlots s p slots).extents = s.extents :=
  foldl_keeps (P := fun t => t.extents = s.extents) (fun t _ h => (askBulk_extents t _ _ _).trans h) rfl

theorem extCount_extents (s : State) : (extCount s).extents = s.extents := by
  unfold extCount
  refine foldl_keeps (P := fun t => t.extents = s.extents) (fun t d h => ?_)
    (foldl_keeps (P := fun t => t.extents = s.extents) (fun t p h => ?_) (State.wr_extents _ _ _ _ _ _))
  · dsimp only
    split
    · exact h
    · rw [State.wr_extents, h]
  · rw [State.wr_extents, h]

/-- The entry that an EXTENT_ADD makes is OPENING, with the length and the partition that it names. -/
theorem addEntry_ext (s : State) (x : Started) : ∃ e, (addEntry s x).ext (eoBase x.words) = some e ∧ e.st = .opening ∧
    e.lenG = eoLen x.words ∧ e.part = eoPart x.words := by
  simp only [State.ext, addEntry, chargeSlots_extents, extCount_extents]
  exact ⟨_, kget_kput_self _ _ _, rfl, rfl, rfl⟩

theorem replyStep_no_entry (h : s.faults.any (isEntry (dOp x.words 0 0 4) (dSpace x.words) (dOp x.words 1 0 22)) = false) :
    replyStep s x = .done s x 0x1E 0 0 := by simp [replyStep, h]

theorem keyLoadStep_empties (hfirst : x.aux = []) (hkind : klKind x.words = 2) (hslot : klSlot x.words ≠ 0) :
    keyLoadStep s x = .done (emptySlot s (klSlot x.words)) x 0 0 0 := by
  simp [keyLoadStep, hfirst, hkind, hslot]

/-- The state in which version `num` of a region has `n` pins. -/
def withPins (s : State) (p r num : Nat) (v : Ver) (n : Nat) : State :=
  rgnStat { s with vers := kput (verKey p r num) { v with pins := n } s.vers } p r

theorem kget_withPins (s : State) (p r num : Nat) (v : Ver) (n : Nat) :
    kget (verKey p r num) (withPins s p r num v n).vers = some { v with pins := n } := by
  simp only [withPins, rgnStat, State.wr_vers]
  exact kget_kput_self _ _ _

/-- PIN raises the pins of a live version that has room for one more. -/
theorem pinStep_live {p r num : Nat} {v : Ver} (hp : dOp x.words 0 16 4 = p) (hr : dOp x.words 0 0 10 = r)
    (hon : s.on PRT_RGN_CFG.EN p r = true)
    (hnum : num = if dOp x.words 1 0 32 = 0xFFFFFFFF then rgnCurrent s p r else dOp x.words 1 0 32)
    (hlive : rgnVer s p r num = some v) (hroom : v.pins < 16777215) :
    pinStep s x = .done (withPins s p r num v (v.pins + 1)) x 0 num 0 := by
  have hfull : v.pins ≠ 16777215 := by omega
  simp [pinStep, withPins, hp, hr, hon, ← hnum, hlive, hfull]

/-- UNPIN lowers them; a version whose last pin does not go stays. -/
theorem unpinStep_pinned {p r num : Nat} {v : Ver} (hp : dOp x.words 0 16 4 = p) (hr : dOp x.words 0 0 10 = r)
    (hnum : dOp x.words 1 0 32 = num) (hlive : rgnVer s p r num = some v) (hpins : 1 < v.pins) :
    unpinStep s x = .done (withPins s p r num v (v.pins - 1)) x 0 0 0 := by
  have hsome : v.pins ≠ 0 := by omega
  have hmore : v.pins ≠ 1 := by omega
  simp [unpinStep, withPins, hp, hr, hnum, hlive, hsome, hmore]

theorem commitStep_too_soon (hfirst : x.aux = []) (hsoon : (dW x.words 4).toNat < s.now + 10000) :
    commitStep s x = .done s x 0x1C 0 0 := by simp [commitStep, hfirst, hsoon]

/-- A ROUTE_COMMIT that drains is pending until its time. -/
theorem commitStep_drain (hfirst : x.aux = []) (htime : s.now + 10000 ≤ (dW x.words 4).toNat) (hfree : stageBusy s = false)
    (hdrain : dOp x.words 1 0 1 = 1) :
    ∃ t, commitStep s x = .stop t { x with aux := [1] } .ext ∧
      t.xrd.commit = some ⟨true, (dW x.words 4).toNat, x.ring, x.idx, 0, 0⟩ := by
  simp [commitStep, hfirst, Nat.not_lt.2 htime, hfree, hdrain]

end ControlDescriptors

/-- Settles O27: the opcode chooses the step, and the lemmas above say what each step comes to. -/
theorem workOfControlDescriptors : Obligations.WorkOfControlDescriptors := by
  intro s x
  refine ⟨workStep_nop, fun hopc hfree => ?_, fun hopc => ?_, fun hopc hrefused => ?_, fun hopc haccepted => ?_,
    fun hopc hnone => ?_, fun hopc hfirst hkind hslot => ?_, fun num v hopc hon hnum hlive hroom => ?_,
    fun v hopc hlive hpins => ?_, fun hopc hfirst hsoon => ?_, fun hopc hfirst htime hfree hdrain => ?_⟩
  · rw [workStep_fence hopc, fenceStep_uncovered hfree]
  · rw [workStep_spaceInval hopc, invalStep]
  · rw [workStep_extentAdd hopc, addStep_refused hrefused]
  · exact ⟨addEntry s x, by rw [workStep_extentAdd hopc, addStep_accepted haccepted], addEntry_ext s x⟩
  · rw [workStep_faultReply hopc, replyStep_no_entry hnone]
  · rw [workStep_keyLoad hopc, keyLoadStep_empties hfirst hkind hslot]
  · exact ⟨_, by rw [workStep_pin hopc, pinStep_live rfl rfl hon hnum hlive hroom], kget_withPins _ _ _ _ _ _⟩
  · exact ⟨_, by rw [workStep_unpin hopc, unpinStep_pinned rfl rfl rfl hlive hpins], kget_withPins _ _ _ _ _ _⟩
  · rw [workStep_routeCommit hopc, commitStep_too_soon hfirst hsoon]
  · rw [workStep_routeCommit hopc]
    exact commitStep_drain hfirst htime hfree hdrain

/-! ## Scrubbing and freeing an extent (02 R116, R121, 04 R180, R188, 13 R496) -/

section Scrub
variable {s t u : State} {b : Nat} {e : Ext}

/-- A line is good again where the zeroed range begins no later than it and ends after its start. -/
theorem isPoison_zeroRange_in {lo hi l : Nat} (hlo : lo ≤ l * 64) (hhi : l * 64 < hi) : (s.zeroRange lo hi).isPoison l = false := by
  simp [State.isPoison, State.zeroRange]
  omega

theorem isPoison_zeroRange_out {lo hi l : Nat} (h : l * 64 < lo ∨ hi ≤ l * 64) : (s.zeroRange lo hi).isPoison l = s.isPoison l := by
  rw [Bool.eq_iff_iff]
  simp [State.isPoison, State.zeroRange]
  omega

/-- Scrubbing changes memory as zeroing the extent's range does. -/
theorem scrubExt_sameMem (s : State) (b : Nat) (e : Ext) :
    sameMem (s.zeroRange (b * 2 ^ 30) ((b + e.lenG) * 2 ^ 30)) (scrubExt s b e) := ⟨rfl, rfl⟩

theorem byte_of_sameMem (h : sameMem s t) (a : Nat) : t.byte a = s.byte a := by rw [State.byte, h.1, State.byte]

theorem isPoison_of_sameMem (h : sameMem s t) (l : Nat) : t.isPoison l = s.isPoison l := by rw [State.isPoison, h.2, State.isPoison]

/-- Every byte of the range is zero afterwards, and its line is good: the range holds whole lines. -/
theorem scrubExt_in {a : Nat} (hsort : ksorted s.mem = true) (hlo : b * 2 ^ 30 ≤ a) (hhi : a < (b + e.lenG) * 2 ^ 30) :
    (scrubExt s b e).byte a = 0 ∧ (scrubExt s b e).isPoison (a / 64) = false := by
  rw [byte_of_sameMem (scrubExt_sameMem s b e), isPoison_of_sameMem (scrubExt_sameMem s b e)]
  exact ⟨byte_zeroRange_in s _ _ a hsort hlo hhi, isPoison_zeroRange_in (by omega) (by omega)⟩

theorem scrubExt_out {a : Nat} (hsort : ksorted s.mem = true) (hout : a < b * 2 ^ 30 ∨ (b + e.lenG) * 2 ^ 30 ≤ a) :
    (scrubExt s b e).byte a = s.byte a ∧ (scrubExt s b e).isPoison (a / 64) = s.isPoison (a / 64) := by
  rw [byte_of_sameMem (scrubExt_sameMem s b e), isPoison_of_sameMem (scrubExt_sameMem s b e)]
  exact ⟨byte_zeroRange_out s _ _ a hsort hout, isPoison_zeroRange_out (by omega)⟩

/-- `t` has the memory and the extents of `s`, and nothing in it is still to be written back. -/
structure CleanLike (s t : State) : Prop where
  mem : sameMem s t
  extents : t.extents = s.extents
  near : ∀ n ∈ t.tier.near, n.2.dirty = false
  wbuf : t.tier.wbuf = []

/-- It stays so where these fields stay, and lines only leave the near store. -/
theorem CleanLike.congr (h : CleanLike s t) (hmem : sameMem t u) (hext : u.extents = t.extents)
    (hnear : ∀ n ∈ u.tier.near, n ∈ t.tier.near) (hwbuf : u.tier.wbuf = t.tier.wbuf) : CleanLike s u :=
  ⟨⟨hmem.1.trans h.mem.1, hmem.2.trans h.mem.2⟩, hext.trans h.extents, fun n hn => h.near n (hnear n hn), hwbuf.trans h.wbuf⟩

theorem mem_of_kget {α : Type} {k : Nat} {v : α} {l : List (Nat × α)} (h : kget k l = some v) : (k, v) ∈ l := by
  fun_induction kget k l <;> grind

theorem nearWriteBack_clean {line : Nat} {n : NearLine} (h : n.dirty = false) : nearWriteBack s line n = s := by
  simp [nearWriteBack, h]

/-- A clean line leaves the near store without being written anywhere (04 R180). -/
theorem CleanLike.nearEvict (h : CleanLike s t) (line : Nat) : CleanLike s (nearEvict t line) := by
  unfold Machine.nearEvict
  cases hline : kget line t.tier.near with
  | none => exact h
  | some n =>
    dsimp only
    rw [nearWriteBack_clean (h.near _ (mem_of_kget hline))]
    exact h.congr ⟨rfl, rfl⟩ rfl (fun _ hn => mem_kdel hn) rfl

theorem tierStat_extents (s : State) (p : Nat) : (tierStat s p).extents = s.extents := by
  unfold Machine.tierStat
  rw [State.wr_extents, State.wr_extents, State.wr_extents, State.wr_extents, State.wr_extents]

theorem tierStat_tier (s : State) (p : Nat) : (tierStat s p).tier = s.tier := by
  unfold Machine.tierStat
  rw [State.wr_tier, State.wr_tier, State.wr_tier, State.wr_tier, State.wr_tier]

theorem CleanLike.tierStat (h : CleanLike s t) (p : Nat) : CleanLike s (tierStat t p) := by
  have htier := tierStat_tier t p
  exact h.congr (tierStat_keeps (regular_sameMem t) t p ⟨rfl, rfl⟩) (tierStat_extents t p)
    (fun n hn => by rwa [htier] at hn) (by rw [htier])

theorem CleanLike.dropLoose (h : CleanLike s t) (p : Nat) : CleanLike s (dropLoose t p) :=
  (foldl_keeps (P := CleanLike s) (fun _ n hu => hu.nearEvict n.1) h).tierStat p

theorem CleanLike.freeWays (h : CleanLike s t) : CleanLike s (freeWays t) := by
  have hsettle : settleWbuf t = t := by rw [settleWbuf, h.wbuf, List.foldl_nil]
  rw [Machine.freeWays, hsettle]
  exact h.congr ⟨rfl, rfl⟩ rfl (fun _ hn => hn) rfl

/-- Where nothing is still to be written back, dropping the pins of an extent leaves memory and the extents alone. -/
theorem CleanLike.dropPins (h : CleanLike s t) (b : Nat) (e : Ext) : CleanLike s (dropPins t b e) := by
  refine CleanLike.freeWays (CleanLike.dropLoose ?_ e.part)
  exact h.congr ⟨rfl, rfl⟩ rfl (fun _ hn => hn) rfl

/-- Scrubbing takes the lines of the extent out of the near store and of the lines that wait for their block. -/
theorem scrubExt_clean (hnear : ∀ n ∈ s.tier.near, n.2.dirty = true → inExt b e n.1 = true)
    (hwbuf : ∀ l ∈ s.tier.wbuf, inExt b e l = true) : CleanLike (scrubExt s b e) (scrubExt s b e) where
  mem := ⟨rfl, rfl⟩
  extents := rfl
  near n hn := by
    obtain ⟨hn, hout⟩ := List.mem_filter.1 hn
    by_contra hdirty
    simp [hnear n hn (by simpa using hdirty)] at hout
  wbuf := List.filter_eq_nil_iff.2 fun l hl => by simp [hwbuf l hl]

theorem carries_extents (s : State) (d : Nat) (c : NvmeCmd) : (carries s d c).extents = s.extents := by
  unfold carries
  repeat' split
  all_goals rfl

theorem nvmeDrain_extents (s : State) (d : Nat) : (nvmeDrain s d).extents = s.extents :=
  foldl_keeps (P := fun t => t.extents = s.extents)
    (fun _ c h => ite_keeps (P := fun t => t.extents = s.extents) ((carries_extents _ d c).trans h) h) rfl

theorem nvmeIssue_extents (s : State) (d kind arg lba len sl : Nat) : (nvmeIssue s d kind arg lba len sl).extents = s.extents :=
  nvmeDrain_extents _ d

theorem deallocUnits_extents (s : State) (lost : List Nat) (units : List (Nat × Nat × Nat)) :
    (deallocUnits s lost units).extents = s.extents := by
  refine foldl_keeps (P := fun t => t.extents = s.extents) (fun t x h => ?_) rfl
  dsimp only
  repeat' split
  · exact h
  · exact (nvmeIssue_extents t _ _ _ _ _ _).trans h
  · exact (nvmeIssue_extents t _ _ _ _ _ _).trans h
  · exact h

/-- Freeing takes the entry away, of the extents as they stand. -/
theorem freeExt_extents (h : (dropPins (scrubExt s b e) b e).extents = s.extents) : (freeExt s b e).extents = kdel b s.extents := by
  rw [freeExt, tierStat_extents, extCount_extents]
  dsimp only
  rw [deallocUnits_extents, h]

/-- Once its pins are dropped, the rest of freeing an extent leaves memory alone. -/
theorem freeExt_sameMem (h : sameMem t (dropPins (scrubExt s b e) b e)) : sameMem t (freeExt s b e) := by
  have K := regular_sameMem t
  refine tierStat_keeps K _ _ (extCount_keeps K _ ?_)
  exact K.upd _ _ (deallocUnits_keeps K _ e.lost e.units h) rfl rfl rfl rfl

end Scrub

/-- Settles O30: scrubbing zeroes the extent's range of whole lines. Freeing also drops pins, which writes back only what is dirty:
nothing, after the scrub. -/
theorem scrubbedExtentsReadZero : Obligations.ScrubbedExtentsReadZero := by
  intro s b e hmem hext
  refine ⟨fun a => scrubExt_in hmem, fun a => scrubExt_out hmem, fun hnear hwbuf => ?_⟩
  have hclean := (scrubExt_clean hnear hwbuf).dropPins b e
  refine ⟨freeExt_sameMem hclean.mem, ?_⟩
  rw [State.ext, freeExt_extents hclean.extents]
  exact kget_kdel_self b s.extents hext

/-! ## The ends of the work on an extent (02 R116, R121, R122, R125, 17 R616, R621) -/

section ExtentEnds
variable {s t : State} {b : Nat} {e : Ext}

/-- An input of the control plane commits as it comes while the stages accept commits and none waits. -/
theorem commitOr_free (ent : LogEnt) (h : commitFree s = true) : commitOr s ent = applyEnt s ent := by simp [commitOr, h]

/-- Else it waits in the command log. -/
theorem commitOr_logged (ent : LogEnt) (h : commitFree s = false) : commitOr s ent = logPut s ent := by simp [commitOr, h]

theorem exec_extentInitDone (b : Nat) (s : State) : exec (.extentInitDone b) s = .next (commitOr s (.initDone b)) := rfl

theorem exec_extentReleaseDrained (b : Nat) (s : State) : exec (.extentReleaseDrained b) s = .next (commitOr s (.drained b)) := rfl

theorem exec_extentScrubDone (b : Nat) (s : State) : exec (.extentScrubDone b) s = .next (commitOr s (.scrubDone b)) := rfl

theorem exec_extentMoveDone (b : Nat) (s : State) : exec (.extentMoveDone b) s = .next (commitOr s (.moveDone b)) := rfl

/-- RELEASE_TMO ends with poison what still holds a token of a CLOSING extent, once, and not during a Curfew. -/
theorem exec_releaseTmoExpiry (hext : s.ext b = some e) : exec (.releaseTmoExpiry b) s =
    .next (if e.st = .closing ∧ ¬ e.absorbed ∧ ¬ releaseHalted s e then pump (poisonHolders s b e) else s) := by
  show execReleaseTmoExpiry b s = _
  simp only [execReleaseTmoExpiry, hext]

/-- The state in which the storage of an OPENING extent reads as zero, the extent is OPEN and its EXTENT_ADD has ended: with
status 0x08 where a channel of it is lost. -/
def initEnded (s : State) (b : Nat) (e : Ext) : State :=
  finishBy ((scrubExt s b e).setExt b { e with st := .open, by_ := none, closeAfter := none }) e
    (if (e.slots.any fun x => s.rd DDR_CTL.STATE x.1 == 6) then 0x08 else 0) 0

theorem extentInit_opening (hext : s.ext b = some e) (hst : e.st = .opening) (hnone : e.closeAfter = none) :
    extentInit s b = pump (initEnded s b e) := by
  simp only [extentInit, hext, hst, hnone, if_true, initEnded]

/-- A release that was accepted meanwhile begins. -/
theorem extentInit_closes {who : Nat × Nat} {e' : Ext} (hext : s.ext b = some e) (hst : e.st = .opening)
    (hwho : e.closeAfter = some who) (hopen : (initEnded s b e).ext b = some e') :
    extentInit s b = pump (closeExt (initEnded s b e) b e' (some who)) := by
  rw [initEnded] at hopen ⊢
  simp only [extentInit, hext, hst, if_true, hwho, hopen]

theorem extentInit_other (hext : s.ext b = some e) (hst : e.st ≠ .opening) : extentInit s b = s := by
  simp only [extentInit, hext, if_neg hst]

theorem extentDrained_closing (hext : s.ext b = some e) (hst : e.st = .closing) (hrun : releaseHalted s e = false)
    (hidle : tokensOut s b e = false) : extentDrained s b = scrubBegin s b e := by
  simp [extentDrained, hext, hst, hrun, hidle]

theorem extentDrained_other (hext : s.ext b = some e) (h : e.st ≠ .closing ∨ releaseHalted s e = true) : extentDrained s b = s := by
  rcases h with h | h <;> simp [extentDrained, hext, h]

theorem extentScrubbed_scrubbing (hext : s.ext b = some e) (hst : e.st = .scrubbing) (hrun : releaseHalted s e = false)
    (hvers : ∀ v ∈ s.verRels, v.exts.contains b = false) : extentScrubbed s b = pump (scrubDone s b e) := by
  have hfree : s.verRels.all (fun v => !v.exts.contains b) = true :=
    List.all_eq_true.2 fun v hv => by rw [hvers v hv]; rfl
  simp only [extentScrubbed, hext, hst, hrun, hfree, Bool.false_eq_true, not_false_eq_true, and_self, if_true]

theorem extentScrubbed_other (hext : s.ext b = some e) (hst : e.st ≠ .scrubbing) : extentScrubbed s b = s := by
  simp [extentScrubbed, hext, hst]

theorem extentMoved_moving (hext : s.ext b = some e) (hst : e.st = .moving) : extentMoved s b = pump (moveDone s b e) := by
  simp only [extentMoved, hext, hst, if_true]

theorem extentMoved_other (hext : s.ext b = some e) (hst : e.st ≠ .moving) : extentMoved s b = s := by
  simp only [extentMoved, hext, if_neg hst]

end ExtentEnds

/-- Settles O29: each end commits, where it may, as the function above that its extent's state chooses, and waits in the log where
it may not. -/
theorem extentsChangeState : Obligations.ExtentsChangeState := by
  intro s b e hext
  refine ⟨fun hfree hst => ⟨initEnded s b e, rfl, fun hnone => ?_, fun who e' hwho hopen => ?_⟩, fun hfree hst hrun hidle => ?_,
    fun hfree hst hrun hvers => ?_, fun hfree hst => ?_, fun hst habs hrun => ?_, fun hst hfree => ?_, fun h hfree => ⟨?_, ?_⟩,
    fun hst hfree => ?_, fun hst hfree => ?_, fun hlog => ⟨?_, ?_, ?_, ?_⟩⟩
  · rw [exec_extentInitDone, commitOr_free _ hfree, applyEnt, extentInit_opening hext hst hnone]
  · rw [exec_extentInitDone, commitOr_free _ hfree, applyEnt, extentInit_closes hext hst hwho hopen]
  · rw [exec_extentReleaseDrained, commitOr_free _ hfree, applyEnt, extentDrained_closing hext hst hrun hidle]
  · rw [exec_extentScrubDone, commitOr_free _ hfree, applyEnt, extentScrubbed_scrubbing hext hst hrun hvers, scrubDone]
  · rw [exec_extentMoveDone, commitOr_free _ hfree, applyEnt, extentMoved_moving hext hst]
  · rw [exec_releaseTmoExpiry hext, if_pos ⟨hst, by simp [habs], by simp [hrun]⟩]
  · rw [exec_extentInitDone, commitOr_free _ hfree, applyEnt, extentInit_other hext hst]
  · rw [exec_extentReleaseDrained, commitOr_free _ hfree, applyEnt, extentDrained_other hext h]
  · rw [exec_releaseTmoExpiry hext, if_neg]
    rintro ⟨hst, -, hrun⟩
    exact h.elim (fun hne => hne hst) hrun
  · rw [exec_extentScrubDone, commitOr_free _ hfree, applyEnt, extentScrubbed_other hext hst]
  · rw [exec_extentMoveDone, commitOr_free _ hfree, applyEnt, extentMoved_other hext hst]
  · rw [exec_extentInitDone, commitOr_logged _ hlog]
  · rw [exec_extentReleaseDrained, commitOr_logged _ hlog]
  · rw [exec_extentScrubDone, commitOr_logged _ hlog]
  · rw [exec_extentMoveDone, commitOr_logged _ hlog]

/-! ## The ends of fault entries, waits and requests (02 R95, R101, R103, R105, 07 R305, 11 R426, R433) -/

section FaultEnds
variable {s t : State} {p : Part} {tag page : Nat} {e : FaultEnt}

theorem exec_coalesceWindowEnd (p : Part) (tag page : Nat) (s : State) :
    exec (.coalesceWindowEnd p tag page) s = .next (pump (faultWindowEnd s p.val tag page)) := rfl

theorem exec_holdTmoExpiry (hent : s.faults.find? (isEntry p.val tag page) = some e) : exec (.holdTmoExpiry p tag page) s =
    .next (if e.written then pump (releaseHeld s p tag page (.nakL 1 (retryDelay s p)) .retry) else s) := by
  show execHoldTmoExpiry p tag page s = _
  simp only [execHoldTmoExpiry, hent]

/-- The window of an entry whose record the ring takes. -/
theorem faultWindowEnd_recorded (hent : s.faults.find? (isEntry p.val tag page) = some e) (hnew : e.written = false)
    (hrec : faultRecord s p.val (xltRecord p.val 1 e.acc tag e.count page e.first e.firstRing s.now 0) = (t, true)) :
    faultWindowEnd s p.val tag page =
      { t with faults := t.faults.map fun x => if isEntry p.val tag page x then { x with written := true } else x } := by
  simp only [faultWindowEnd, hent, hnew, Bool.false_eq_true, if_false, hrec]

/-- The window of an entry whose record has no room: the entry closes and its holders retry. -/
theorem faultWindowEnd_no_room (hent : s.faults.find? (isEntry p.val tag page) = some e) (hnew : e.written = false)
    (hrec : faultRecord s p.val (xltRecord p.val 1 e.acc tag e.count page e.first e.firstRing s.now 0) = (t, false)) :
    faultWindowEnd s p.val tag page =
      releaseHeld (t.count PRT_XLT_STAT.FAULT_OVF p) p tag page (.nakL 1 (retryDelay t p)) .retry := by
  simp only [faultWindowEnd, hent, hnew, Bool.false_eq_true, if_false, hrec]

theorem faultWindowEnd_written (hent : s.faults.find? (isEntry p.val tag page) = some e) (hold : e.written = true) :
    faultWindowEnd s p.val tag page = s := by
  simp only [faultWindowEnd, hent, hold, if_true]

end FaultEnds

section WaitEnds
variable {s : State} {r : Ring} {d : Nat} {x : Started}

/-- A SYNC_WAIT ends with the status and the value that its object settled, once it has settled them. -/
theorem exec_syncWaitSatisfied (hfind : findStarted s r d = some x) : exec (.syncWaitSatisfied r d) s =
    if dOpc x.words = 0x19 ∧ x.aux ≠ [] ∧ nthN x.aux 4 ≠ 0xFF then .next (pump (finishDesc s x (nthN x.aux 4) (nthN x.aux 5) 0))
    else .next s := by
  show execSyncWaitSatisfied r d s = _
  simp only [execSyncWaitSatisfied, hfind]

/-- TMO ends one that has settled nothing, if it has a limit. -/
theorem exec_syncWaitTmoExpiry (hfind : findStarted s r d = some x) : exec (.syncWaitTmoExpiry r d) s =
    if dOpc x.words = 0x19 ∧ dOp x.words 2 0 32 ≠ 0 ∧ nthN x.aux 4 = 0xFF then .next (pump (finishDesc s x 0x0D (nthN x.aux 5) 0))
    else .next s := by
  show execSyncWaitTmoExpiry r d s = _
  simp only [execSyncWaitTmoExpiry, hfind]

end WaitEnds

section LifeEnds
variable {s t : State}

/-- XLT_REQ_LIFE of a packet or aperture request: what it waits for ends with poison, if a line of it is in flight. -/
theorem exec_xltReqLifeExpiry_req {id slot part : Nat} {r : HeldReq} (hid : id < 2 ^ 48)
    (hfind : s.reqs.find? (fun q => q.id == id) = some r) (hlook : r.look = some (slot, part)) (ht : t = setReq s (poisonWaits r)) :
    exec (.xltReqLifeExpiry id) s = if flies s (.req id) then
      .next (pump (watchUE t 1 (t.homeSlice part (pAddr r.pkt)) 0x0E part (pktReq id part 0 r.pkt).access (pSpace r.pkt) none 0 1))
      else .next s := by
  subst ht
  show execXltReqLifeExpiry id s = _
  rw [execXltReqLifeExpiry, if_neg (by rw [lifeFlight]; omega)]
  simp only [hfind, hlook, Option.map_some, Option.getD_some]

/-- XLT_REQ_LIFE of an access that a descriptor, a set, an arming or a load makes: it is poison, if it is in flight, and its
holder makes it again. -/
theorem exec_xltReqLifeExpiry_flight {f : Flight} (hfind : s.flights.find? (fun g => g.id == f.id) = some f)
    (ht : t = wakeHolder { s with flights := s.flights.map fun (g : Flight) => if g.id = f.id then { g with poison := true } else g } f.who) :
    exec (.xltReqLifeExpiry (2 ^ 48 + f.id)) s = if f.res.isSome then
      .next (pump (watchUE t 1 (s.homeSlice f.part f.addr) 0x0E f.part (holderAccess f) f.tag none 0 1)) else .next s := by
  subst ht
  show execXltReqLifeExpiry (2 ^ 48 + f.id) s = _
  rw [execXltReqLifeExpiry, if_pos (by rw [lifeFlight]; omega), lifeFlight, Nat.add_sub_cancel_left]
  simp only [hfind]
  rfl

end LifeEnds

section Retries
variable {s : State}

/-- A descriptor that was told to retry goes on. -/
theorem exec_retryAfterExpiry_desc {r : Ring} {d : Nat} {x : Started} (hd : d < 2 ^ 32) (hfind : findStarted s r d = some x)
    (hwait : x.wait = .retry) :
    exec (.retryAfterExpiry (r * 2 ^ 32 + d)) s = .next (pump (setStarted s { x with wait := .run })) := by
  have hr : r.val < 4096 := r.isLt
  have hring : (r.val * 2 ^ 32 + d) / 2 ^ 32 = r.val := by omega
  have hidx : (r.val * 2 ^ 32 + d) % 2 ^ 32 = d := by omega
  show execRetryAfterExpiry (r * 2 ^ 32 + d) s = _
  rw [execRetryAfterExpiry, if_neg (by rw [retryOwn]; omega), if_neg (by rw [retrySet]; omega), if_neg (by rw [retrySet]; omega),
    hring, hidx]
  simp only [hfind, hwait, if_true]

/-- The result write of a set, and the list read of an arming of its object, go on. -/
theorem exec_retryAfterExpiry_set {o : Nat} {x : SetX} (ho : o < 2 ^ 17) (hset : kget o s.sets = some x) (hwait : x.wait = .retry) :
    exec (.retryAfterExpiry (2 ^ 48 + o)) s = .next
      { s with arming := s.arming.map fun (a : Arming) => if a.obj = o ∧ a.wait = .retry then { a with wait := .run } else a,
               sets := kput o { x with wait := .run } s.sets } := by
  show execRetryAfterExpiry (2 ^ 48 + o) s = _
  rw [execRetryAfterExpiry, if_neg (by rw [retryOwn]; omega), if_neg (by rw [retrySet]; omega), if_pos (by rw [retrySet]; omega),
    retrySet, Nat.add_sub_cancel_left]
  simp only [hset, hwait, if_true]

/-- The image read of a load goes on. -/
theorem exec_retryAfterExpiry_load {p : Part} {x : Load} (hload : kget p.val s.loads = some x) (hwait : x.wait = .retry) :
    exec (.retryAfterExpiry (2 ^ 48 + 2 ^ 17 + p)) s = .next { s with loads := kput p.val { x with wait := .run } s.loads } := by
  have hp : p.val < 16 := p.isLt
  have hload' : 2 ^ 48 + 2 ^ 17 + p.val - 2 ^ 48 - 2 ^ 17 = p.val := by omega
  show execRetryAfterExpiry (2 ^ 48 + 2 ^ 17 + p) s = _
  rw [execRetryAfterExpiry, if_neg (by rw [retryOwn]; omega), if_pos (by rw [retrySet]; omega), retrySet, hload']
  simp only [hload, hwait, if_true]

/-- A NAKed request of the chip is sent again; one that was not NAKed waits for its answer. -/
theorem exec_retryAfterExpiry_own {id : Nat} {q : OwnReq} (hfind : s.xrd.own.find? (fun q => q.id == id) = some q) :
    exec (.retryAfterExpiry (2 ^ 49 + id)) s = .next (if q.naked then resendOwn s id else s) := by
  show execRetryAfterExpiry (2 ^ 49 + id) s = _
  rw [execRetryAfterExpiry, if_pos (by rw [retryOwn]; omega), retryOwn, Nat.add_sub_cancel_left]
  simp only [hfind]

/-- E2E_TMO sends again a request that was not NAKed. -/
theorem exec_e2eTmoExpiry {id : Nat} {q : OwnReq} (hfind : s.xrd.own.find? (fun q => q.id == id) = some q) :
    exec (.e2eTmoExpiry id) s = .next (if q.naked then s else resendOwn s id) := by
  show execE2eTmoExpiry id s = _
  simp only [execE2eTmoExpiry, hfind]

end Retries

/-- Settles O32: each expiry finds what it names, and the lemmas above say what comes of it in each of its states. -/
theorem faultsAndWaitsEnd : Obligations.FaultsAndWaitsEnd := by
  intro s
  refine ⟨?fault, ?wait, ?request, ?flight, ?desc, ?set, ?load, ?own⟩
  case fault =>
    intro p tag page e t hent
    refine ⟨fun hnew hrec set hset => ?_, fun hnew hrec => ?_, fun hold => ⟨?_, ?_⟩, fun hnew => ?_⟩
    · rw [exec_coalesceWindowEnd, faultWindowEnd_recorded hent hnew hrec, hset]
    · rw [exec_coalesceWindowEnd, faultWindowEnd_no_room hent hnew hrec]
    · rw [exec_coalesceWindowEnd, faultWindowEnd_written hent hold]
    · rw [exec_holdTmoExpiry hent, if_pos hold]
    · rw [exec_holdTmoExpiry hent, if_neg (by simp [hnew])]
  case wait =>
    intro r d x hfind hopc
    refine ⟨fun haux hset => ?_, fun hlimit hunset => ?_, fun hno => ?_⟩
    · rw [exec_syncWaitSatisfied hfind, if_pos ⟨hopc, haux, hset⟩]
    · rw [exec_syncWaitTmoExpiry hfind, if_pos ⟨hopc, hlimit, hunset⟩]
    · rw [exec_syncWaitTmoExpiry hfind, if_neg fun h => h.2.1 hno]
  case request =>
    intro id r slot part t hid hfind hlook ht
    rw [exec_xltReqLifeExpiry_req hid hfind hlook ht]
    exact ⟨fun hflies => if_pos hflies, fun hnot => if_neg (by simp [hnot])⟩
  case flight =>
    intro f t hfind ht
    rw [exec_xltReqLifeExpiry_flight hfind ht]
    exact ⟨fun hres => if_pos hres, fun hnone => if_neg (by simp [hnone])⟩
  case desc =>
    intro r d x hd hfind hwait
    exact exec_retryAfterExpiry_desc hd hfind hwait
  case set =>
    intro o x ho hset hwait
    exact ⟨_, exec_retryAfterExpiry_set ho hset hwait, kget_kput_self _ _ _, rfl, rfl, rfl⟩
  case load =>
    intro p x hload hwait
    exact exec_retryAfterExpiry_load hload hwait
  case own =>
    intro id q hfind
    rw [exec_retryAfterExpiry_own hfind, exec_e2eTmoExpiry hfind]
    exact ⟨fun hnaked => ⟨by rw [if_pos hnaked], by rw [if_pos hnaked]⟩,
      fun hnot => ⟨by rw [if_neg (by simp [hnot])], by rw [if_neg (by simp [hnot])]⟩⟩

end Sys2Proof.Machine
end

section
/-!
PROOFS for 03_host_attachment_and_command_rings.md: what a VF reaches, how a pool aperture answers, the doorbells, fetches and timers
of a ring, its enabling and its stop, and how a descriptor starts and runs to its end. Each part says once what the model's
functions do, and ends with the statement it settles.
-/
namespace Sys2Proof.Machine

/-! ## What a VF's view reaches (03 R142, 19 R654) -/

section Views
variable {s : State} {p k r off o : Nat}

/-- A listed ring slot is one of the 4096 and passes the test. -/
theorem lt_and_of_mem_ringsWhere {f : Nat → Bool} (h : r ∈ ringsWhere s f) : r < 4096 ∧ f r = true := by
  obtain ⟨hlisted, hf⟩ := List.mem_filter.1 h
  obtain ⟨e, -, hslot⟩ := List.mem_filterMap.1 hlisted
  refine ⟨?_, hf⟩
  dsimp only at hslot
  split at hslot
  · cases hslot
  · split at hslot
    · cases hslot
      omega
    · cases hslot

/-- A rank of a partition stands for a ring slot that the partition owns. -/
theorem owner_of_ringOfRank (h : ringOfRank s p k = some r) : r < 4096 ∧ ringOwner s r = p := by
  rw [ringOfRank] at h
  split at h
  · obtain ⟨hslot, htest⟩ := lt_and_of_mem_ringsWhere (List.mem_of_getElem? h)
    simp only [Bool.and_eq_true, beq_iff_eq] at htest
    exact ⟨hslot, htest.2⟩
  · cases h

/-- The ring window of a partition leads into the slots of the rings that it owns. -/
theorem owned_of_ringWindow (h : ringWindow s p off = some o) :
    ∃ r, r < 4096 ∧ ringOwner s r = p ∧ RNG_DESC_BASE.reg.base + r * 64 ≤ o ∧ o < RNG_DESC_BASE.reg.base + r * 64 + 64 := by
  obtain ⟨r, hrank, rfl⟩ := Option.map_eq_some_iff.1 h
  obtain ⟨hslot, howner⟩ := owner_of_ringOfRank hrank
  exact ⟨r, hslot, howner, by omega, by omega⟩

/-- A VF's view, by the offset: its partition's block, the ring window, and nothing beyond. -/
theorem viewOff_vf (s : State) (p off : Nat) : viewOff s (p + 1) off =
    if 0x10000 ≤ off then none else if 0xC000 ≤ off then ringWindow s p (off - 0xC000) else some (0x01400000 + p * 0x10000 + off) := by
  rw [viewOff, if_neg (Nat.succ_ne_zero p), Nat.add_sub_cancel]

end Views

/-- Settles O11: below the ring window a view is its partition's block, and the window leads to the rings of a rank. -/
theorem vfReachesOnlyItsOwn : Obligations.VfReachesOnlyItsOwn := by
  intro s p off o hview
  rw [viewOff_vf] at hview
  split at hview
  · cases hview
  · split at hview
    · exact .inr (owned_of_ringWindow hview)
    · cases hview
      exact .inl ⟨by omega, by omega⟩

/-! ## Doorbells (03 R146 to R149, R165) -/

section Doorbells
variable {s : State} {func : Fin 17} {page : Ring} {r sel n : Nat} {v : BitVec 32}

theorem exec_doorbellPidxWrite (hslot : dbSlot s func.val page.val = some r) : exec (.doorbellPidxWrite func page v) s =
    if dbIgnored s r 0 v.toNat then .next s else if dbBad s r 0 v.toNat then dbError s r 0
    else .next (pump (doorbell (awaitApt s func.val r) r 0 v.toNat)) := by
  show execDoorbellPidxWrite func page v s = _
  simp only [execDoorbellPidxWrite, hslot]

theorem exec_doorbellCcidxWrite (hslot : dbSlot s func.val page.val = some r) : exec (.doorbellCcidxWrite func page v) s =
    if dbIgnored s r 1 v.toNat then .next s else if dbBad s r 1 v.toNat then dbError s r 1
    else .next (pump (doorbell s r 1 v.toNat)) := by
  show execDoorbellCcidxWrite func page v s = _
  simp only [execDoorbellCcidxWrite, hslot]

theorem dbIgnored_of_off (hoff : s.on RNG_CTL.ENABLE r = false) (sel n : Nat) : dbIgnored s r sel n = true := by
  simp [dbIgnored, dbLive, hoff]

theorem dbIgnored_of_repeat (hsame : n = s.rd RNG_IDX.PIDX r) : dbIgnored s r 0 n = true := by
  simp [dbIgnored, hsame]

theorem doorbell_ignored (h : dbIgnored s r sel n = true) : doorbell s r sel n = s := by
  rw [doorbell, if_pos h]

end Doorbells

/-- Settles O16: in both cases the doorbell is one that has no effect. -/
theorem ignoredDoorbells : Obligations.IgnoredDoorbells := by
  intro s func page r v
  refine ⟨fun hslot hoff => ⟨?_, ?_⟩, fun hslot hsame => ?_, fun hoff sel => doorbell_ignored (dbIgnored_of_off hoff sel _),
    fun hsame => doorbell_ignored (dbIgnored_of_repeat hsame)⟩
  · rw [exec_doorbellPidxWrite hslot, if_pos (dbIgnored_of_off hoff 0 _)]
  · rw [exec_doorbellCcidxWrite hslot, if_pos (dbIgnored_of_off hoff 1 _)]
  · rw [exec_doorbellPidxWrite hslot, if_pos (dbIgnored_of_repeat hsame)]

/-! ## Pool apertures (03 R135, R136, R138, 19 R655) -/

section Apertures
variable {s : State} {func win off n tag a : Nat} {data : List Byte}

/-- An access of no line is none that a window maps. -/
theorem aptMap_no_lines (s : State) (func win off : Nat) : aptMap s func win off 0 = none := by simp [aptMap]

/-- A VF has no window while its partition is disabled. -/
theorem aptMap_partition_off (hvf : func ≠ 0) (hoff : s.partOn (func - 1) = false) : aptMap s func win off n = none := by
  simp [aptMap, hvf, hoff]

theorem aptReadGo_unmapped (h : aptMap s func win off n = none) : aptReadGo s func win off n = s.emit (.hostReply func 1 []) := by
  simp only [aptReadGo, h]

theorem aptReadGo_refused (h : aptMap s func win off n = some (tag, a)) (hshut : funcShut s func = true ∨ aptAllowed s func tag = false) :
    aptReadGo s func win off n = s.emit (.hostReply func 2 []) := by
  simp only [aptReadGo, h]
  exact if_pos (hshut.imp_right fun hno => by simp [hno])

theorem aptReadGo_admitted (h : aptMap s func win off n = some (tag, a)) (hopen : funcShut s func = false)
    (hmay : aptAllowed s func tag = true) : aptReadGo s func win off n = pump (admitReq s.tickFresh (64 + func * 16 + win)
      (mkPkt { opc := aptRead, src := aptFirst s, space := tag, addr := a, arg := n } []) n) := by
  simp only [aptReadGo, h]
  exact if_neg (by simp [hopen, hmay])

/-- The lines of a write, none where it is not of whole lines. -/
def wholeLines (data : List Byte) : Nat := if data.length % 64 = 0 then data.length / 64 else 0

theorem wholeLines_of_length (h : data.length = 64 * n) : wholeLines data = n := by
  rw [wholeLines, if_pos (by omega)]
  omega

theorem aptWriteGo_unmapped (h : data.length % 64 ≠ 0 ∨ aptMap s func win off (data.length / 64) = none) :
    aptWriteGo s func win off data = s.emit (.hostReply func 1 []) := by
  have hnone : aptMap s func win off (wholeLines data) = none := by
    rw [wholeLines]
    split
    · next hwhole => exact h.resolve_left (not_not.2 hwhole)
    · exact aptMap_no_lines s func win off
  rw [wholeLines] at hnone
  simp only [aptWriteGo, hnone]

/-- A write of whole lines that its window maps is dropped, or admitted. -/
theorem aptWriteGo_mapped (h : aptMap s func win off n = some (tag, a)) (hlen : data.length = 64 * n) :
    aptWriteGo s func win off data = if funcShut s func ∨ ¬ aptAllowed s func tag then aptDrop s func win
      else pump (admitReq s.tickFresh (64 + func * 16 + win)
        (mkPkt { opc := aptWrite, src := aptFirst s, space := tag, addr := a, len := n } data) n) := by
  have hlines : data.length / 64 = n := by omega
  rw [← wholeLines_of_length hlen, wholeLines] at h
  simp only [aptWriteGo, h]
  rw [hlines]

end Apertures

/-- Settles O19: a window maps an access or not, and what it maps is refused or admitted. -/
theorem apertureOutcomes : Obligations.ApertureOutcomes := by
  intro s func win off n addr data
  have hread : exec (.apertureRead func win off n) s = .next (aptReadGo s func win off n) := rfl
  have hwrite : exec (.apertureWrite func win off data) s = .next (aptWriteGo s func win off data) := rfl
  rw [hread, hwrite]
  refine ⟨rfl, fun hnone => ?_, fun hnone => ?_, fun hvf hoff => ?_, fun tag a hmap hshut => ?_, fun tag a hmap hlen hshut => ?_,
    fun tag a hmap hopen hmay => ?_, fun tag a hmap hlen hopen hmay => ?_⟩
  · rw [aptReadGo_unmapped hnone]
  · rw [aptWriteGo_unmapped hnone]
  · exact aptMap_partition_off (Fin.val_ne_zero_iff.2 hvf) hoff
  · rw [aptReadGo_refused hmap hshut]
  · rw [aptWriteGo_mapped hmap hlen, if_pos (hshut.imp_right fun hno => by simp [hno]), aptDrop]
  · rw [aptReadGo_admitted hmap hopen hmay]
  · rw [aptWriteGo_mapped hmap hlen, if_neg (by simp [hopen, hmay])]

/-! ## Fetches and timers of a ring (03 R145, R150, R152, R166, 15 R569) -/

section Fetches
variable {s : State} {r : Nat} {descs : List (List Word)}

/-- A fetch has brought its descriptors: they are listed, and CIDX has passed them. -/
def fetchTaken (s : State) (r : Nat) (descs : List (List Word)) : State :=
  ((putFetched s r (s.rd RNG_IDX.CIDX r) (descs.map fun ws => (List.range 8).map fun i => nthW ws i)).wr RNG_IDX.CIDX
    ((s.rd RNG_IDX.CIDX r + (s.ringX r).fetching) % 2 ^ 32) r).setRingX r { s.ringX r with fetching := 0 }

theorem fetchDone_taken (hout : (s.ringX r).fetching ≠ 0) (hall : descs.length = (s.ringX r).fetching)
    (hgoes : (s.ringX r).stopping = 0) : fetchDone s r descs =
      fetchGo (drainBad ((fetchTaken s r descs).fetched.length + 1) (fetchTaken s r descs) r) r := by
  simp only [fetchDone, if_neg (not_or.2 ⟨hout, not_not.2 hall⟩), if_neg (not_not.2 hgoes)]
  rfl

theorem fetchFail_stops (hout : (s.ringX r).fetching ≠ 0) (hgoes : (s.ringX r).stopping = 0) : fetchFail s r =
    fetchGo (stopRing (dropOwn (s.setRingX r { s.ringX r with fetching := 0 }) fun q => q.kind == .fetch && q.ring == r) r 2) r := by
  simp only [fetchFail, if_neg hout, if_neg (not_not.2 hgoes)]

end Fetches

section Timers
variable {s : State} {r : Ring}

theorem exec_notifyTimeExpiry (hen : s.on RNG_NOTIFY.EN r = true) (htime : s.rd RNG_NOTIFY.TIME r ≠ 0) (hpend : (s.ringX r).pend ≠ 0) :
    exec (.notifyTimeExpiry r) s = .next (notifyRing (s.setRingX r { s.ringX r with pend := 0 }) r) := by
  have hfires : s.on RNG_NOTIFY.EN r = true ∧ s.rd RNG_NOTIFY.TIME r ≠ 0 ∧ (s.ringX r).pend ≠ 0 := ⟨hen, htime, hpend⟩
  show execNotifyTimeExpiry r s = _
  simp only [execNotifyTimeExpiry, if_pos hfires]

/-- WDOG tells of a stall of started descriptors that it has not told of. -/
theorem exec_ringWdogExpiry (r : Ring) (s : State) : exec (.ringWdogExpiry r) s =
    .next (if s.rd RNG_CFG.WDOG r ≠ 0 ∧ (ringStarted s r).length ≠ 0 ∧ ¬ (s.ringX r).stalled then
      evOwner (s.setRingX r { s.ringX r with stalled := true }) (ringOwner s r) (ringOwner s r) 0x0102 r (s.rd RNG_IDX.CIDX r)
        (ringStarted s r).length
      else s) := rfl

theorem exec_wedgeExpiry_marked (h : (s.ringX r).wedged = true) : exec (.wedgeExpiry r) s = .next s := by
  show execWedgeExpiry r s = _
  simp only [execWedgeExpiry, h, not_true_eq_false, and_false, if_false]

/-- A wedged ring of a partition is told of to the partition and to PF0. -/
theorem exec_wedgeExpiry_part (hwdog : s.rd RNG_CFG.WDOG r ≠ 0) (hbusy : ringStarted s r ≠ []) (hnew : (s.ringX r).wedged = false)
    (hpart : ringOwner s r ≠ 16) : exec (.wedgeExpiry r) s =
      .next (evPf0 (evOwner (s.setRingX r { s.ringX r with wedged := true }) (ringOwner s r) (ringOwner s r)
        0x0D04 r (ringOwner s r) (atLeast1 (s.rd FLT_CFG.WEDGE_MULT) * s.rd RNG_CFG.WDOG r)) 0x0D04 r (ringOwner s r)
        (atLeast1 (s.rd FLT_CFG.WEDGE_MULT) * s.rd RNG_CFG.WDOG r) (ringOwner s r)) := by
  have hfires : s.rd RNG_CFG.WDOG r ≠ 0 ∧ ringStarted s r ≠ [] ∧ ¬ (s.ringX r).wedged := ⟨hwdog, hbusy, by simp [hnew]⟩
  show execWedgeExpiry r s = _
  simp only [execWedgeExpiry, if_pos hfires, if_neg hpart]

end Timers

/-- Settles O18: the end of a fetch is `fetchDone` or `fetchFail`, that of a write `writeFail`, and each timer acts where it has
not yet acted. -/
theorem ringTimersAndFetches : Obligations.RingTimersAndFetches := by
  intro s r descs
  refine ⟨fun hloc hout hall hgoes => ⟨fetchTaken s r descs, ?_, rfl⟩, fun hout hgoes => ?_, fun hon => ?_,
    exec_notifyTimeExpiry, fun hwdog hbusy hnew => ?_, fun hold => ?_, exec_wedgeExpiry_part, exec_wedgeExpiry_marked⟩
  · show execDescFetchDone r descs s = _
    rw [execDescFetchDone, if_neg (by simp [hloc]), fetchDone_taken hout hall hgoes]
  · show execRingFetchTmoExpiry r false s = _
    rw [execRingFetchTmoExpiry, if_neg Bool.false_ne_true, fetchFail_stops hout hgoes]
  · show execRingFetchTmoExpiry r true s = _
    rw [execRingFetchTmoExpiry, if_pos rfl, if_pos hon, writeFail]
  · rw [exec_ringWdogExpiry, if_pos ⟨hwdog, by simpa using hbusy, by simp [hnew]⟩]
  · rw [exec_ringWdogExpiry, if_neg (by simp [hold])]

/-! ## A descriptor runs to its end (03 R161, 17 R608, R616) -/

section Runs
variable {s t u : State} {x y z : Started} {r d n : Nat}

/-- Steps that go on take the loop to where they lead, with the fuel that is left. -/
theorem dLoop_goesOn {n : Nat} (m : Nat) (h : goesOn n s x t y) : dLoop workStep (n + m) s x = dLoop workStep m t y := by
  induction n generalizing s x with
  | zero =>
    obtain ⟨rfl, rfl⟩ := h
    rw [Nat.zero_add]
  | succ n ih =>
    obtain ⟨u, z, hstep, hrest⟩ := h
    rw [Nat.add_right_comm, dLoop]
    simp only [hstep]
    exact ih hrest

/-- With fuel for one more step than those that go on, the loop makes that step. -/
theorem dLoop_last {f : Nat} (hfuel : n < f) (h : goesOn n s x t y) : ∃ m, dLoop workStep f s x = dLoop workStep (m + 1) t y := by
  obtain ⟨m, rfl⟩ := Nat.exists_eq_add_of_lt hfuel
  exact ⟨m, dLoop_goesOn (m + 1) h⟩

theorem runDesc_logged (hfind : findStarted s r d = some x) (hwait : x.wait = .run) (hcommits : opcCommits (dOpc x.words) = true)
    (hbusy : commitFree s = false) : runDesc s r d = logPut (setStarted s { x with wait := .commit }) (.desc r d) := by
  simp only [runDesc, hfind, hwait]
  rw [if_pos ⟨hcommits, by simp [hbusy]⟩]

theorem runDesc_runs (hfind : findStarted s r d = some x) (hwait : x.wait = .run)
    (hfree : opcCommits (dOpc x.words) = true → commitFree s = true) :
    runDesc s r d = winMoved s (dLoop workStep runFuel s x) x.ring x.idx := by
  simp only [runDesc, hfind, hwait]
  rw [if_neg fun h => h.2 (hfree h.1), dRun]

end Runs

/-- Settles O26: `dLoop` takes every step that goes on, and its last step ends the descriptor or lets it wait. -/
theorem descriptorsRunToAnEnd : Obligations.DescriptorsRunToAnEnd := by
  intro s r d x hfind hwait
  refine ⟨runDesc_logged hfind hwait, fun hfree n t y hfuel hgoes => ?_⟩
  obtain ⟨m, hlast⟩ := dLoop_last hfuel hgoes
  rw [runDesc_runs hfind hwait hfree, hlast, dLoop]
  exact ⟨fun u z st res cnt hdone => by simp only [hdone], fun u z w hstop => by simp only [hstop]⟩

/-! ## Commands that start a descriptor (03 R149, R155, R157, R161, R162) -/

section Starts
variable {s : State} {r d o lo w n : Nat} {c : Instr} {kind : List Word → Bool} {ws : List Word}

/-- The rule by which starting a descriptor is a host error, if it is one (05 R248, R249, 11 R442). -/
def startError (s : State) (r : Nat) (ws : List Word) : Option Nat :=
  if dOpc ws = 0x09 then if rowsBad ws ∧ ringOwner s r = 16 then some 248 else none
  else if dOpc ws = 0x0A then if rowsBad ws ∧ ringOwner s r = 16 then some 249 else none
  else if dOpc ws = 0x41 then if !stageBusy s && stageBad ws then some 442 else none
  else none

/-- What a command does that starts descriptors of a kind: once the failing descriptors in front have fallen through, the one named
starts and runs, where it stands ready and is no host error. -/
def startOutcome (s : State) (r d : Nat) (kind : List Word → Bool) : Host.Outcome State Fault Refusal :=
  match startable (drainBad (s.fetched.length + 1) s r) r d kind with
  | none => .next (drainBad (s.fetched.length + 1) s r)
  | some ws => match startError s r ws with
    | none => .next (pump (runDesc (beginDesc (drainBad (s.fetched.length + 1) s r) r d ws) r d))
    | some rule => .fault (.hostError rule)

theorem kind_of_startable (h : startable s r d kind = some ws) : kind ws = true := by
  rw [startable] at h
  split at h
  · split at h
    · next hready =>
      obtain ⟨-, hkind, -⟩ := hready
      cases h
      exact hkind
    · cases h
  · cases h

/-- Every descriptor of a kind has one opcode. -/
def HasOpcode (kind : List Word → Bool) (o : Nat) : Prop := ∀ ws, kind ws = true → dOpc ws = o

theorem hasOpcode_isOpc (o : Nat) : HasOpcode (isOpc o) o := fun _ h => beq_iff_eq.1 h

theorem HasOpcode.and (h : HasOpcode kind o) (kind' : List Word → Bool) : HasOpcode (fun ws => kind ws && kind' ws) o :=
  fun ws hws => h ws (Bool.and_eq_true_iff.1 hws).1

theorem hasOpcode_isSub (o lo w n : Nat) : HasOpcode (isSub o lo w n) o := (hasOpcode_isOpc o).and _

/-- Opcodes whose descriptors are no host error to start. -/
def plainOpcode (o : Nat) : Bool := o != 0x09 && o != 0x0A && o != 0x41

theorem startError_plain (h : plainOpcode (dOpc ws) = true) : startError s r ws = none := by
  simp only [plainOpcode, Bool.and_eq_true, bne_iff_ne] at h
  obtain ⟨⟨hgather, hscatter⟩, hstage⟩ := h
  rw [startError, if_neg hgather, if_neg hscatter, if_neg hstage]

theorem startDesc_unready (h : startable (drainBad (s.fetched.length + 1) s r) r d kind = none) :
    startDesc s r d kind = drainBad (s.fetched.length + 1) s r := by simp only [startDesc, h]

theorem startDesc_ready (h : startable (drainBad (s.fetched.length + 1) s r) r d kind = some ws) : startDesc s r d kind =
    pump (runDesc (beginDesc (drainBad (s.fetched.length + 1) s r) r d ws) r d) := by simp only [startDesc, h]

/-- A command that starts descriptors without host errors. -/
theorem exec_starts (h : exec c s = .next (startDesc s r d kind)) (hkind : HasOpcode kind o) (ho : plainOpcode o = true) :
    exec c s = startOutcome s r d kind := by
  rw [h, startOutcome]
  cases hready : startable (drainBad (s.fetched.length + 1) s r) r d kind with
  | none => rw [startDesc_unready hready]
  | some ws =>
    have herr : startError s r ws = none := startError_plain (by rw [hkind ws (kind_of_startable hready), ho])
    simp only [herr, startDesc_ready hready]

theorem exec_starts_opc (h : exec c s = .next (startDesc s r d (isOpc o))) (ho : plainOpcode o = true := by decide) :
    exec c s = startOutcome s r d (isOpc o) := exec_starts h (hasOpcode_isOpc o) ho

theorem exec_starts_sub (h : exec c s = .next (startDesc s r d (isSub o lo w n))) (ho : plainOpcode o = true := by decide) :
    exec c s = startOutcome s r d (isSub o lo w n) := exec_starts h (hasOpcode_isSub o lo w n) ho

theorem exec_gatherPool (r : Ring) (d : Nat) (s : State) : exec (.gatherPool r d) s = startOutcome s r d (isOpc 0x09) := by
  show execGatherPool r d s = _
  rw [execGatherPool, startOutcome]
  cases hready : startable (drainBad (s.fetched.length + 1) s r) r d (isOpc 0x09) with
  | none => simp only [startDesc_unready hready]
  | some ws =>
    simp only [startError, hasOpcode_isOpc 0x09 ws (kind_of_startable hready), startDesc_ready hready, if_true]
    split <;> rfl

theorem exec_scatterAdd (r : Ring) (d : Nat) (s : State) : exec (.scatterAdd r d) s = startOutcome s r d (isOpc 0x0A) := by
  show execScatterAdd r d s = _
  rw [execScatterAdd, startOutcome]
  cases hready : startable (drainBad (s.fetched.length + 1) s r) r d (isOpc 0x0A) with
  | none => simp only [startDesc_unready hready]
  | some ws =>
    have hopc : dOpc ws = 0x0A := hasOpcode_isOpc 0x0A ws (kind_of_startable hready)
    simp only [startError, if_neg (show dOpc ws ≠ 0x09 by omega), if_pos hopc, startDesc_ready hready]
    split <;> rfl

theorem exec_routeStage (r : Ring) (d : Nat) (s : State) : exec (.routeStage r d) s = startOutcome s r d (isOpc 0x41) := by
  show execRouteStage r d s = _
  rw [execRouteStage, startOutcome]
  cases hready : startable (drainBad (s.fetched.length + 1) s r) r d (isOpc 0x41) with
  | none => simp only [startDesc_unready hready]
  | some ws =>
    have hopc : dOpc ws = 0x41 := hasOpcode_isOpc 0x41 ws (kind_of_startable hready)
    simp only [startError, if_neg (show dOpc ws ≠ 0x09 by omega), if_neg (show dOpc ws ≠ 0x0A by omega), if_pos hopc,
      startDesc_ready hready]
    split <;> rfl

theorem startOutcome_error {rule : Nat} (h : startable (drainBad (s.fetched.length + 1) s r) r d kind = some ws)
    (herr : startError s r ws = some rule) : startOutcome s r d kind = .fault (.hostError rule) := by
  simp only [startOutcome, h, herr]

theorem startOutcome_starts (h : startable (drainBad (s.fetched.length + 1) s r) r d kind = some ws)
    (herr : startError s r ws = none) : startOutcome s r d kind =
      .next (pump (runDesc (beginDesc (drainBad (s.fetched.length + 1) s r) r d ws) r d)) := by
  simp only [startOutcome, h, herr]

theorem startOutcome_unready (h : startable (drainBad (s.fetched.length + 1) s r) r d kind = none) :
    startOutcome s r d kind = .next (drainBad (s.fetched.length + 1) s r) := by simp only [startOutcome, h]

theorem startError_gather (hopc : dOpc ws = 0x09) (hbad : rowsBad ws = true) (howner : ringOwner s r = 16) :
    startError s r ws = some 248 := by simp [startError, hopc, hbad, howner]

theorem startError_scatter (hopc : dOpc ws = 0x0A) (hbad : rowsBad ws = true) (howner : ringOwner s r = 16) :
    startError s r ws = some 249 := by simp [startError, hopc, hbad, howner]

theorem startError_stage (hopc : dOpc ws = 0x41) (hfree : stageBusy s = false) (hbad : stageBad ws = true) :
    startError s r ws = some 442 := by simp [startError, hopc, hfree, hbad]

/-- Good rows, a ring of a partition, a table that is busy or a good range: no host error. -/
theorem startError_none (hrows : dOpc ws = 0x09 ∨ dOpc ws = 0x0A → rowsBad ws = false ∨ ringOwner s r ≠ 16)
    (hstage : dOpc ws = 0x41 → stageBusy s = true ∨ stageBad ws = false) : startError s r ws = none := by
  rw [startError]
  split
  · next hopc => exact if_neg fun h => (hrows (.inl hopc)).elim (by simp [h.1]) (absurd h.2)
  · split
    · next hopc => exact if_neg fun h => (hrows (.inr hopc)).elim (by simp [h.1]) (absurd h.2)
    · split
      · next hopc => exact if_neg (by rcases hstage hopc with h | h <;> simp [h])
      · rfl

end Starts

/-- Settles O25: each of the commands has the outcome that `startOutcome` gives for its kind. -/
theorem descriptorStarts : Obligations.DescriptorStarts := by
  intro s r d c kind s0 hs0 hmem
  have hstarts : exec c s = startOutcome s r d kind := by
    refine (?_ : ∀ e ∈ (_ : List (Instr × (List Word → Bool))), exec e.1 s = startOutcome s r d e.2) _ hmem
    simp only [List.forall_mem_cons]
    exact ⟨exec_starts_opc rfl, exec_starts_opc rfl, exec_starts_opc rfl, exec_starts_opc rfl, exec_starts_opc rfl,
      exec_gatherPool r d s, exec_scatterAdd r d s, exec_starts_opc rfl, exec_starts_opc rfl, exec_starts_opc rfl, exec_starts_opc rfl,
      exec_starts_sub rfl, exec_starts_sub rfl, exec_starts_sub rfl, exec_starts_sub rfl, exec_starts_sub rfl, exec_starts_sub rfl,
      exec_starts_sub rfl, exec_starts_sub rfl, exec_starts_sub rfl, exec_starts_sub rfl, exec_starts_sub rfl, exec_starts_opc rfl,
      exec_starts_opc rfl, exec_starts_opc rfl, exec_starts_opc rfl, exec_starts_opc rfl, exec_starts_opc rfl, exec_starts_opc rfl,
      exec_starts_sub rfl, exec_starts_sub rfl, exec_starts_opc rfl,
      exec_starts rfl (((hasOpcode_isOpc 0x19).and _).and _) (by decide), exec_starts_sub rfl, exec_starts_sub rfl,
      exec_starts_sub rfl, exec_starts_sub rfl, exec_starts_sub rfl, exec_routeStage r d s,
      exec_starts rfl ((hasOpcode_isOpc 0x42).and _) (by decide), exec_starts rfl ((hasOpcode_isOpc 0x42).and _) (by decide), List.forall_mem_nil _⟩
  subst hs0
  rw [hstarts]
  refine ⟨fun ws hready => ⟨fun hopc hbad howner => ?_, fun hopc hbad howner => ?_, fun hopc hfree hbad => ?_,
    fun hrows hstage => ⟨?_, rfl, rfl⟩⟩, startOutcome_unready⟩
  · rw [startOutcome_error hready (startError_gather hopc hbad howner)]
  · rw [startOutcome_error hready (startError_scatter hopc hbad howner)]
  · rw [startOutcome_error hready (startError_stage hopc hfree hbad)]
  · rw [startOutcome_starts hready (startError_none hrows hstage)]

/-! ## A doorbell that a ring takes (03 R146, R149, R165, R171) -/

section RingReads
variable {s t : State} {r : Nat}

/-- Registers read alike where the register files are equal. -/
theorem rd_of_regs (h : t.regs = s.regs) (f : Fld) (i j k : Nat) : t.rd f i j k = s.rd f i j k :=
  rd_of_regsKept (regsKept_of_regs [] h) f List.not_mem_nil

/-- A field lies in a register of 64 bits. -/
abbrev Fld.Fits (f : Fld) : Prop := f.reg.rv < 2 ^ 64 ∧ f.lo + f.w ≤ 64

/-- Two fields of one register that share no bit. -/
abbrev Fld.Beside (g f : Fld) : Prop := g.reg = f.reg ∧ (g.lo + g.w ≤ f.lo ∨ f.lo + f.w ≤ g.lo)

theorem rd_wr_of_lt {f : Fld} {v : Nat} (hsort : ksorted s.regs = true) (hf : f.Fits) (hv : v < 2 ^ f.w) (r : Nat) :
    (s.wr f v r).rd f r = v := by
  rw [rd_wr_self s f v r 0 0 hsort (rvAt_lt hf.1 r) hf.2, Nat.mod_eq_of_lt hv]

theorem rd_wr_beside {f g : Fld} (hsort : ksorted s.regs = true) (hf : f.Fits) (hg : g.Beside f) (v r : Nat) :
    (s.wr f v r).rd g r = s.rd g r := rd_wr_field s f g v r 0 0 hsort (rvAt_lt hf.1 r) hf.2 hg.1 hg.2

/-- A ring's state is what was last set, in a list in its order. -/
theorem ringX_setRingX (hsort : ksorted s.rings = true) (x : RingX) : (s.setRingX r x).ringX r = x :=
  kgetD_kset_self freshRing r x s.rings hsort

end RingReads

section Taken
variable {s t : State} {r func v : Nat}

/-- Noting the aperture writes under way changes the ring's state alone. -/
theorem awaitApt_only_rings (s : State) (func r : Nat) : awaitApt s func r = { s with rings := (awaitApt s func r).rings } := by
  rw [awaitApt]
  split <;> rfl

theorem awaitApt_regs (s : State) (func r : Nat) : (awaitApt s func r).regs = s.regs := by rw [awaitApt_only_rings]

/-- Every aperture write of the function that is under way is noted, with the index that the doorbell announces. -/
theorem mem_behind_awaitApt (hsort : ksorted s.rings = true) {q : HeldReq} (hq : q ∈ s.reqs) (hopc : pOpc q.pkt = aptWrite)
    (hfunc : (q.port - 64) / 16 = func) : (s.rd RNG_IDX.PIDX r, q.id) ∈ ((awaitApt s func r).ringX r).behind := by
  have hid : q.id ∈ (s.reqs.filter fun q => pOpc q.pkt == aptWrite && (q.port - 64) / 16 == func).map (·.id) :=
    List.mem_map.2 ⟨q, List.mem_filter.2 ⟨hq, by simp [hopc, hfunc]⟩, rfl⟩
  simp only [awaitApt]
  rw [if_neg fun h => by rw [h.2] at hid; exact absurd hid List.not_mem_nil, ringX_setRingX hsort]
  exact List.mem_append_right _ (List.mem_map.2 ⟨q.id, hid, rfl⟩)

/-- A doorbell wakes nothing while WAKE_ON_DB is 0. -/
theorem wakeDb_off (h : s.on CHIP_SLEEP.WAKE_ON_DB = false) : wakeDb s r = s := by simp [wakeDb, h]

theorem doorbell_pidx (hwake : s.on CHIP_SLEEP.WAKE_ON_DB = false) (htakes : dbIgnored s r 0 v = false) :
    doorbell s r 0 v = fetchGo (s.wr RNG_IDX.PIDX v r) r := by
  rw [doorbell, htakes, if_neg Bool.false_ne_true, wakeDb_off hwake]
  rfl

/-- What follows a CCIDX write: held completions, a records-lost notice that is due, and descriptors that waited for room. -/
theorem doorbell_ccidx (hwake : s.on CHIP_SLEEP.WAKE_ON_DB = false) (htakes : dbIgnored s r 1 v = false)
    (ht : t = s.wr RNG_CPL_IDX.CCIDX v r) {u : State} (hu : u = flushLost (flushHeld t r (t.heldCpl.length + 1)) r) :
    doorbell s r 1 v = drainBad (u.fetched.length + 1) u r := by
  subst ht hu
  rw [doorbell, htakes, if_neg Bool.false_ne_true, wakeDb_off hwake]
  rfl

theorem dbIgnored_pidx_new (hon : s.on RNG_CTL.ENABLE r = true) (hclass : s.rd RNG_CFG.CLASS r < 2) (hnew : v ≠ s.rd RNG_IDX.PIDX r) :
    dbIgnored s r 0 v = false := by simp [dbIgnored, dbLive, hon, hclass, hnew]

theorem dbIgnored_ccidx (hon : s.on RNG_CTL.ENABLE r = true) : dbIgnored s r 1 v = false := by simp [dbIgnored, dbLive, hon]

/-- A doorbell of PIDX is ignored or not by the registers alone. -/
theorem dbIgnored_of_regs (h : t.regs = s.regs) (sel : Nat) : dbIgnored t r sel v = dbIgnored s r sel v := by
  simp only [dbIgnored, dbLive, State.on, rd_of_regs h]

end Taken

/-- Settles O17: a doorbell that is neither ignored nor a host error writes its index, and `awaitApt` has changed no register. -/
theorem doorbellsMoveAnIndex : Obligations.DoorbellsMoveAnIndex := by
  intro s func page r v hsort hslot hon hwake
  refine ⟨fun hclass hnew hgood => ?_, fun hgood => ?_⟩
  · have hregs : (awaitApt s func r).regs = s.regs := awaitApt_regs s func r
    have htakes : dbIgnored s r 0 v.toNat = false := dbIgnored_pidx_new hon hclass hnew
    have hsort' : ksorted (awaitApt s func r).regs = true := by rw [hregs, hsort]
    have hwake' : (awaitApt s func r).on CHIP_SLEEP.WAKE_ON_DB = false := by rw [State.on, rd_of_regs hregs]; exact hwake
    refine ⟨(awaitApt s func r).wr RNG_IDX.PIDX v.toNat r, ?_, rd_wr_of_lt hsort' (by decide) v.isLt r,
      (rd_wr_beside hsort' (by decide) (by decide) _ r).trans (rd_of_regs hregs _ _ _ _), ?_, ?_, ?_⟩
    · rw [exec_doorbellPidxWrite hslot, htakes, hgood, if_neg Bool.false_ne_true, if_neg Bool.false_ne_true,
        doorbell_pidx hwake' ((dbIgnored_of_regs hregs 0).trans htakes)]
    · rw [awaitApt_only_rings]
      rfl
    · exact regsKept_trans (regsKept_of_regs _ hregs) (regsKept_wr _ RNG_IDX.PIDX _ _ _ _ hsort' List.mem_cons_self)
    · exact fun hrings q hq hopc hfunc => mem_behind_awaitApt hrings hq hopc hfunc
  · have htakes : dbIgnored s r 1 v.toNat = false := dbIgnored_ccidx hon
    refine ⟨s.wr RNG_CPL_IDX.CCIDX v.toNat r, _, ?_, rfl, rd_wr_of_lt hsort (by decide) v.isLt r,
      rd_wr_beside hsort (by decide) (by decide) _ r, onlyRegs_wr s _ _ _ _ _ hsort List.mem_cons_self⟩
    rw [exec_doorbellCcidxWrite hslot, htakes, hgood, if_neg Bool.false_ne_true, if_neg Bool.false_ne_true,
      doorbell_ccidx hwake htakes rfl rfl]

/-! ## Enabling and stopping a ring (03 R143, R144, R151) -/

section Rings
variable {s t : State} {r : Nat}

theorem idx_addr_apart (r : Nat) : RNG_IDX.reg.addr r 0 0 ∉ [RNG_CTL.reg.addr r 0 0] := by simp [Reg.addr, RNG_CTL.reg, RNG_IDX.reg]

theorem ctl_addr_apart (r : Nat) : RNG_CTL.reg.addr r 0 0 ∉ [RNG_IDX.reg.addr r 0 0] := by simp [Reg.addr, RNG_CTL.reg, RNG_IDX.reg]

/-- What a ring had fetched and the completions that it held, discarded. -/
def ringDiscarded (s : State) (r : Nat) : State :=
  { s with fetched := s.fetched.filter (fun f => f.1 / 2 ^ 32 != r), heldCpl := s.heldCpl.filter (·.ring != r) }

theorem setRingX_regs (s : State) (r : Nat) (x : RingX) : (s.setRingX r x).regs = s.regs := rfl

/-- A field of a register that reads zero. -/
theorem rd_of_rdReg_zero {f : Fld} (h : s.rdReg f.reg r 0 0 = 0) : s.rd f r = 0 := by rw [State.rd, h, fld, Nat.zero_div, Nat.zero_mod]

end Rings

section Enable
variable {s t : State} {r : Nat}

/-- The two registers of a ring's indices, cleared. -/
def idxCleared (s : State) (r : Nat) : State := (s.clrReg RNG_IDX.reg r).clrReg RNG_CPL_IDX.reg r

theorem idxCleared_spec (hsort : ksorted s.regs = true) (r : Nat) (ht : t = idxCleared s r) :
    ksorted t.regs = true ∧ t.rdReg RNG_IDX.reg r 0 0 = 0 ∧ t.rdReg RNG_CPL_IDX.reg r 0 0 = 0 ∧
      onlyRegs s t [RNG_IDX.reg.addr r 0 0, RNG_CPL_IDX.reg.addr r 0 0] := by
  subst ht
  have hsort1 := clrReg_sorted RNG_IDX.reg r 0 0 hsort
  obtain ⟨hidx, honly1⟩ := clrReg_zero_only RNG_IDX.reg r 0 0 hsort (by decide)
  obtain ⟨hcpl, honly2⟩ := clrReg_zero_only RNG_CPL_IDX.reg r 0 0 hsort1 (by decide)
  refine ⟨clrReg_sorted _ _ _ _ hsort1, ?_, hcpl, onlyRegs_trans (onlyRegs_mono honly1 (by simp)) (onlyRegs_mono honly2 (by simp))⟩
  rw [idxCleared, honly2.2 _ _ _ _ (by simp [Reg.addr, RNG_IDX.reg, RNG_CPL_IDX.reg]), hidx]

/-- RNG_CTL of a ring that has been enabled. -/
def ctlEnabled (s : State) (r : Nat) : State := (s.wr RNG_CTL.ENABLE 1 r).wr RNG_CTL.STOPPED 0 r

theorem ctlEnabled_spec (hsort : ksorted s.regs = true) (ht : t = ctlEnabled s r) :
    t.rd RNG_CTL.ENABLE r = 1 ∧ t.rd RNG_CTL.STOPPED r = 0 ∧ t.rd RNG_CTL.DROPPED r = s.rd RNG_CTL.DROPPED r ∧
      onlyRegs s t [RNG_CTL.reg.addr r 0 0] := by
  have hsort1 := wr_sorted s RNG_CTL.ENABLE 1 r 0 0 hsort
  subst ht
  refine ⟨?_, rd_wr_of_lt hsort1 (by decide) (by decide) r, ?_,
    onlyRegs_trans (onlyRegs_wr s RNG_CTL.ENABLE 1 r 0 0 hsort List.mem_cons_self)
      (onlyRegs_wr _ RNG_CTL.STOPPED 0 r 0 0 hsort1 List.mem_cons_self)⟩
  · rw [ctlEnabled, rd_wr_beside hsort1 (by decide) (by decide), rd_wr_of_lt hsort (by decide) (by decide)]
  · rw [ctlEnabled, rd_wr_beside hsort1 (by decide) (by decide), rd_wr_beside hsort (by decide) (by decide)]

/-- A ring that starts afresh. -/
def ringAfresh (s : State) (r : Nat) : State := ringDiscarded ((ctlEnabled (idxCleared s r) r).setRingX r freshRing) r

theorem rngCtlWrite_enable {v : Nat} (hoff : s.on RNG_CTL.ENABLE r = false) (hen : wrote RNG_CTL.ENABLE v = 1)
    (hstop : wrote RNG_CTL.STOP v = 0) : rngCtlWrite s r v = ringAfresh s r := by
  simp only [rngCtlWrite, hoff, hen, hstop, Bool.false_eq_true, if_false]
  rfl

/-- Beside its registers and its own state, a ring that starts afresh only loses what it had fetched and held. -/
theorem ringAfresh_frame (hsort : ksorted s.regs = true) (ht : t = ringAfresh s r) :
    t.regs = (ctlEnabled (idxCleared s r) r).regs ∧ t.fetched = s.fetched.filter (fun f => f.1 / 2 ^ 32 != r) ∧
      t.heldCpl = s.heldCpl.filter (·.ring != r) ∧ t.started = s.started ∧ sameMem s t := by
  obtain ⟨hsort1, -, -, honly1⟩ := idxCleared_spec hsort r rfl
  obtain ⟨-, -, -, honly2⟩ := ctlEnabled_spec (r := r) hsort1 rfl
  rw [ringAfresh] at ht
  generalize idxCleared s r = u at *
  generalize ctlEnabled u r = w at *
  rw [ht, honly2.1, honly1.1]
  exact ⟨rfl, rfl, rfl, rfl, rfl, rfl⟩

theorem ringAfresh_registers (hsort : ksorted s.regs = true) (ht : t = ringAfresh s r) :
    t.rd RNG_CTL.ENABLE r = 1 ∧ t.rd RNG_CTL.STOPPED r = 0 ∧ t.rd RNG_CTL.DROPPED r = s.rd RNG_CTL.DROPPED r ∧
      t.rd RNG_IDX.PIDX r = 0 ∧ t.rd RNG_IDX.CIDX r = 0 ∧ t.rd RNG_CPL_IDX.CPIDX r = 0 ∧ t.rd RNG_CPL_IDX.CCIDX r = 0 ∧
      regsKept s t [RNG_CTL.reg.addr r 0 0, RNG_IDX.reg.addr r 0 0, RNG_CPL_IDX.reg.addr r 0 0] := by
  obtain ⟨hregs, -⟩ := ringAfresh_frame hsort ht
  obtain ⟨hsort1, hidx, hcpl, honly1⟩ := idxCleared_spec hsort r rfl
  obtain ⟨hen, hstopped, hdropped, honly2⟩ := ctlEnabled_spec (r := r) hsort1 rfl
  have hidx2 : (ctlEnabled (idxCleared s r) r).rdReg RNG_IDX.reg r 0 0 = 0 := (honly2.2 _ _ _ _ (idx_addr_apart r)).trans hidx
  have hcpl2 : (ctlEnabled (idxCleared s r) r).rdReg RNG_CPL_IDX.reg r 0 0 = 0 :=
    (honly2.2 _ _ _ _ (by simp [Reg.addr, RNG_CTL.reg, RNG_CPL_IDX.reg])).trans hcpl
  have hdropped1 : (idxCleared s r).rd RNG_CTL.DROPPED r = s.rd RNG_CTL.DROPPED r :=
    rd_of_regsKept honly1.2 RNG_CTL.DROPPED (by simp [Reg.addr, RNG_CTL.DROPPED, RNG_CTL.reg, RNG_IDX.reg, RNG_CPL_IDX.reg])
  simp only [rd_of_regs hregs]
  exact ⟨hen, hstopped, hdropped.trans hdropped1, rd_of_rdReg_zero hidx2, rd_of_rdReg_zero hidx2, rd_of_rdReg_zero hcpl2,
    rd_of_rdReg_zero hcpl2, regsKept_trans (regsKept_mono honly1.2 (by simp))
      (regsKept_trans (regsKept_mono honly2.2 (by simp)) (regsKept_of_regs _ hregs))⟩

end Enable

section Stop
variable {s t : State} {r first cause : Nat}

theorem satAdd_zero {w x : Nat} (h : x < 2 ^ w) : satAdd w x 0 = x := by
  rw [satAdd]
  omega

/-- CIDX of a ring that stops names the first descriptor that did not start; no held completion is dropped. -/
def cidxStopped (s : State) (r first : Nat) : State := (s.count RNG_CTL.DROPPED r 0 0 0).wr RNG_IDX.CIDX first r

theorem cidxStopped_spec (hsort : ksorted s.regs = true) (hfirst : first < 2 ^ RNG_IDX.CIDX.w) (ht : t = cidxStopped s r first) :
    ksorted t.regs = true ∧ t.rd RNG_CTL.DROPPED r = s.rd RNG_CTL.DROPPED r ∧ t.rd RNG_IDX.CIDX r = first ∧
      t.rd RNG_IDX.PIDX r = s.rd RNG_IDX.PIDX r ∧ onlyRegs s t [RNG_CTL.reg.addr r 0 0, RNG_IDX.reg.addr r 0 0] := by
  have hdropped : s.rd RNG_CTL.DROPPED r < 2 ^ RNG_CTL.DROPPED.w := fld_lt _ _ _
  rw [cidxStopped, State.count, satAdd_zero hdropped] at ht
  have hsort1 := wr_sorted s RNG_CTL.DROPPED (s.rd RNG_CTL.DROPPED r) r 0 0 hsort
  have honly1 := onlyRegs_wr s RNG_CTL.DROPPED (s.rd RNG_CTL.DROPPED r) r 0 0 hsort (List.mem_singleton_self _)
  have honly2 := onlyRegs_wr _ RNG_IDX.CIDX first r 0 0 hsort1 (List.mem_singleton_self _)
  subst ht
  refine ⟨wr_sorted _ _ _ _ _ _ hsort1, ?_, rd_wr_of_lt hsort1 (by decide) hfirst r, ?_, ?_⟩
  · rw [rd_of_regsKept honly2.2 RNG_CTL.DROPPED (ctl_addr_apart r), rd_wr_of_lt hsort (by decide) hdropped]
  · rw [rd_wr_beside hsort1 (by decide) (by decide), rd_of_regsKept honly1.2 RNG_IDX.PIDX (idx_addr_apart r)]
  · exact onlyRegs_trans (onlyRegs_mono honly1 (by simp [RNG_CTL.DROPPED])) (onlyRegs_mono honly2 (by simp [RNG_IDX.CIDX]))

/-- RNG_CTL of a ring that has stopped with a cause. -/
def ctlStopped (s : State) (r cause : Nat) : State :=
  ((s.wr RNG_CTL.ENABLE 0 r).wr RNG_CTL.STOPPED 1 r).wr RNG_CTL.STOP_CAUSE cause r

theorem ctlStopped_spec (hsort : ksorted s.regs = true) (hcause : cause < 8) (ht : t = ctlStopped s r cause) :
    t.rd RNG_CTL.ENABLE r = 0 ∧ t.rd RNG_CTL.STOPPED r = 1 ∧ t.rd RNG_CTL.STOP_CAUSE r = cause ∧
      t.rd RNG_CTL.DROPPED r = s.rd RNG_CTL.DROPPED r ∧ onlyRegs s t [RNG_CTL.reg.addr r 0 0] := by
  have hsort1 := wr_sorted s RNG_CTL.ENABLE 0 r 0 0 hsort
  have hsort2 := wr_sorted _ RNG_CTL.STOPPED 1 r 0 0 hsort1
  subst ht
  refine ⟨?_, ?_, rd_wr_of_lt hsort2 (by decide) hcause r, ?_, ?_⟩
  · rw [ctlStopped, rd_wr_beside hsort2 (by decide) (by decide), rd_wr_beside hsort1 (by decide) (by decide),
      rd_wr_of_lt hsort (by decide) (by decide)]
  · rw [ctlStopped, rd_wr_beside hsort2 (by decide) (by decide), rd_wr_of_lt hsort1 (by decide) (by decide)]
  · rw [ctlStopped, rd_wr_beside hsort2 (by decide) (by decide), rd_wr_beside hsort1 (by decide) (by decide),
      rd_wr_beside hsort (by decide) (by decide)]
  · exact onlyRegs_trans (onlyRegs_wr s RNG_CTL.ENABLE 0 r 0 0 hsort List.mem_cons_self)
      (onlyRegs_trans (onlyRegs_wr _ RNG_CTL.STOPPED 1 r 0 0 hsort1 List.mem_cons_self)
        (onlyRegs_wr _ RNG_CTL.STOP_CAUSE cause r 0 0 hsort2 List.mem_cons_self))

/-- A ring whose stop has ended (03 R151 step 3). -/
def ringStopped (s : State) (r : Nat) : State :=
  (ctlStopped (cidxStopped (ringDiscarded s r) r (s.rd RNG_IDX.CIDX r)) r (s.ringX r).stopping).setRingX r
    { s.ringX r with stopping := 0, stalled := false, wedged := false }

theorem ringStopped_spec (hsort : ksorted s.regs = true) (hcause : (s.ringX r).stopping < 8) (ht : t = ringStopped s r) :
    t.rd RNG_CTL.ENABLE r = 0 ∧ t.rd RNG_CTL.STOPPED r = 1 ∧ t.rd RNG_CTL.STOP_CAUSE r = (s.ringX r).stopping ∧
      t.rd RNG_CTL.DROPPED r = s.rd RNG_CTL.DROPPED r ∧ t.rd RNG_IDX.CIDX r = s.rd RNG_IDX.CIDX r ∧
      t.rd RNG_IDX.PIDX r = s.rd RNG_IDX.PIDX r ∧ sameMem s t ∧ regsKept s t [RNG_CTL.reg.addr r 0 0, RNG_IDX.reg.addr r 0 0] := by
  have hsame : (ringDiscarded s r).regs = s.regs := rfl
  have hfirst : s.rd RNG_IDX.CIDX r < 2 ^ RNG_IDX.CIDX.w := fld_lt _ _ _
  obtain ⟨hsort1, hdropped1, hcidx1, hpidx1, honly1⟩ :=
    cidxStopped_spec (s := ringDiscarded s r) (r := r) (by rw [hsame, hsort]) hfirst rfl
  obtain ⟨hen, hstopped, hwhy, hdropped2, honly2⟩ := ctlStopped_spec (r := r) hsort1 hcause rfl
  rw [ringStopped] at ht
  generalize cidxStopped (ringDiscarded s r) r (s.rd RNG_IDX.CIDX r) = u at *
  generalize ctlStopped u r (s.ringX r).stopping = w at *
  have hregs : t.regs = w.regs := by rw [ht, setRingX_regs]
  have hmem1 : sameMem s w := by rw [honly2.1, honly1.1]; exact ⟨rfl, rfl⟩
  have hmem : sameMem s t := by rw [ht]; exact State.setRingX_keeps (regular_sameMem s) w r _ hmem1
  have hcidx2 := rd_of_regsKept honly2.2 RNG_IDX.CIDX (idx_addr_apart r)
  have hpidx2 := rd_of_regsKept honly2.2 RNG_IDX.PIDX (idx_addr_apart r)
  rw [rd_of_regs hsame] at hdropped1 hpidx1
  simp only [rd_of_regs hregs]
  exact ⟨hen, hstopped, hwhy, hdropped2.trans hdropped1, hcidx2.trans hcidx1, hpidx2.trans hpidx1, hmem,
    regsKept_trans (regsKept_of_regs _ hsame) (regsKept_trans honly1.2
      (regsKept_trans (regsKept_mono honly2.2 (by simp)) (regsKept_of_regs _ hregs)))⟩

theorem nextFetched_none (h : ∀ f ∈ s.fetched, f.1 / 2 ^ 32 ≠ r) : nextFetched s r = none := by
  have hnone : s.fetched.filter (fun f => f.1 / 2 ^ 32 == r) = [] := List.filter_eq_nil_iff.2 fun f hf => by simpa using h f hf
  rw [nextFetched, hnone]
  rfl

/-- A stop ends at once where nothing of the ring is started, fetched, on its way or held. -/
theorem stopFinish_idle (hstops : (s.ringX r).stopping ≠ 0) (hstarted : ringStarted s r = []) (hout : (s.ringX r).fetching = 0)
    (hfetched : ∀ f ∈ s.fetched, f.1 / 2 ^ 32 ≠ r) (hheld : ∀ h ∈ s.heldCpl, h.ring ≠ r) :
    stopFinish s r = evOwner (ringStopped s r) (ringOwner (ringStopped s r) r) (ringOwner (ringStopped s r) r) 0x0101 r
      ((s.ringX r).stopping + s.rd RNG_IDX.CIDX r * 2 ^ 32) ((ringStopped s r).rd RNG_CTL.DROPPED r) := by
  have hgoes : ¬ ((s.ringX r).stopping = 0 ∨ ¬ (ringStarted s r).isEmpty ∨ (s.ringX r).fetching ≠ 0) := by simp [hstops, hstarted, hout]
  have hnone : s.heldCpl.filter (fun h => h.ring == r) = [] := List.filter_eq_nil_iff.2 fun h hh => by simpa using hheld h hh
  simp only [stopFinish, if_neg hgoes, nextFetched_none hfetched, hnone]
  rfl

/-- The ring's state is what was just set, where that is not a fresh ring's. -/
theorem ringX_setRingX_of_ne {x : RingX} (h : x ≠ freshRing) : (s.setRingX r x).ringX r = x := by
  rw [State.ringX, State.setRingX, kset, if_neg h, kgetD, kget_kput_self]
  rfl

/-- A ring whose stop with a cause is under way. -/
def stopMarked (s : State) (r cause : Nat) : State := s.setRingX r { s.ringX r with stopping := cause }

theorem ringX_stopMarked (h : cause ≠ 0) : (stopMarked s r cause).ringX r = { s.ringX r with stopping := cause } :=
  ringX_setRingX_of_ne fun heq => h (congrArg RingX.stopping heq)

/-- A ring with nothing to wind down stops at once, and its owner's event ring is told. -/
theorem stopRing_idle (hcause : cause ≠ 0) (hon : s.on RNG_CTL.ENABLE r = true) (hruns : (s.ringX r).stopping = 0)
    (hout : (s.ringX r).fetching = 0) (hstarted : ringStarted s r = []) (hfetched : ∀ f ∈ s.fetched, f.1 / 2 ^ 32 ≠ r)
    (hheld : ∀ h ∈ s.heldCpl, h.ring ≠ r) (ht : t = ringStopped (stopMarked s r cause) r) :
    stopRing s r cause = evOwner t (ringOwner t r) (ringOwner t r) 0x0101 r (cause + s.rd RNG_IDX.CIDX r * 2 ^ 32)
      (t.rd RNG_CTL.DROPPED r) := by
  have hx := ringX_stopMarked (s := s) (r := r) hcause
  have hfinish := stopFinish_idle (s := stopMarked s r cause) (by rw [hx]; exact hcause) hstarted (by rw [hx]; exact hout) hfetched hheld
  rw [hx, ← ht] at hfinish
  rw [stopRing, if_neg (by simp [hon, hruns])]
  exact hfinish

theorem rngCtlWrite_stop {v : Nat} (hon : s.on RNG_CTL.ENABLE r = true) (hv : wrote RNG_CTL.STOP v = 1 ∨ wrote RNG_CTL.ENABLE v = 0) :
    rngCtlWrite s r v = stopRing s r 1 := by
  simp only [rngCtlWrite, if_pos hon]
  exact if_pos (by rcases hv with h | h <;> simp [h])

end Stop

/-- Settles O15: enabling is `ringAfresh`, and stopping a ring with nothing to wind down ends as `ringStopped`. -/
theorem ringEnableAndStop : Obligations.RingEnableAndStop := by
  intro s r v hsort hopen
  refine ⟨fun hoff hen hstop => ?enable, fun hon hv hruns hout hstarted hfetched hheld => ?stop⟩
  case enable =>
    obtain ⟨-, hfetched, hheld, hstarted, hmem⟩ := ringAfresh_frame (r := r) hsort rfl
    obtain ⟨henabled, hstopped, hdropped, hpidx, hcidx, hcpidx, hccidx, hkept⟩ := ringAfresh_registers (r := r) hsort rfl
    refine ⟨ringAfresh s r, ?_, henabled, hstopped, hpidx, hcidx, hcpidx, hccidx, hdropped, fun f hf => ?_, fun h hh => ?_,
      fun f hf hother => ?_, hstarted, hmem, hkept⟩
    · show execRngEnable r v s = _
      rw [execRngEnable, atPf0_open _ hopen, rngCtlWrite_enable hoff hen hstop]
    · rw [hfetched] at hf
      exact bne_iff_ne.1 (List.mem_filter.1 hf).2
    · rw [hheld] at hh
      exact bne_iff_ne.1 (List.mem_filter.1 hh).2
    · rw [hfetched]
      exact List.mem_filter.2 ⟨hf, bne_iff_ne.2 hother⟩
  case stop =>
    have hmarked : ((stopMarked s r 1).ringX r).stopping = 1 := by rw [ringX_stopMarked one_ne_zero]
    obtain ⟨hen, hstopped, hwhy, hdropped, hcidx, hpidx, hmem, hkept⟩ :=
      ringStopped_spec (s := stopMarked s r 1) (r := r) hsort (by omega) rfl
    have howner : ringOwner (ringStopped (stopMarked s r 1) r) r = ringOwner s r :=
      rd_of_regsKept hkept RNG_CFG.OWNER (by simp [Reg.addr, RNG_CFG.OWNER, RNG_CFG.reg, RNG_CTL.reg, RNG_IDX.reg])
    refine ⟨ringStopped (stopMarked s r 1) r, ?_, hen, hstopped, hwhy.trans hmarked, hdropped, hcidx, hpidx, hmem, hkept⟩
    show execRngStop r v s = _
    rw [execRngStop, atPf0_open _ hopen, rngCtlWrite_stop hon hv, stopRing_idle one_ne_zero hon hruns hout hstarted hfetched hheld rfl,
      howner, hdropped]
    rfl

end Sys2Proof.Machine
end

section
/-!
PROOFS for 04_tiers_and_placement.md: how a fill and a write-back end, how the access counters decay, and the bring-up of a drive, its
commands, its SMART polls and its loss. Each part says once what the model's functions do, and ends with the statement it settles.
-/
namespace Sys2Proof.Machine

/-! ## The end of a fill (04 R189, R193) -/

section Fills
variable {s : State} {block d : Nat} {b : Blk}

theorem exec_granaryFillDone (block : Nat) (s : State) : exec (.granaryFillDone block) s = .next (fillDone s block) := rfl

/-- A block that the DRAM cache does not hold has no fill to end. -/
theorem fillDone_absent (hnone : kget block s.tier.blocks = none) : fillDone s block = s := by
  rw [fillDone, hnone]

/-- A fill that is not under way, or has a Read outstanding, stays as it is. -/
theorem fillDone_waits (hb : kget block s.tier.blocks = some b) (hd : driveOf s block = some d)
    (hwait : b.filling = false ∨ openCmds (s.driveX d) [0, 10] block = true) : fillDone s block = s := by
  simp only [fillDone, hb, hd]
  exact if_pos (hwait.imp_left fun hno => by simp [hno])

/-- The DRAM cache once a block of it is no longer filling. -/
def fillOver (s : State) (block : Nat) (b : Blk) : State :=
  { s with tier := { s.tier with blocks := kput block { b with filling := false } s.tier.blocks } }

theorem kget_fillOver (s : State) (block : Nat) (b : Blk) :
    kget block (fillOver s block b).tier.blocks = some { b with filling := false } := kget_kput_self ..

theorem extentAt_fillOver (s : State) (block : Nat) (b : Blk) (pa : Nat) : (fillOver s block b).extentAt pa = s.extentAt pa := rfl

/-- A fill whose Reads have ended is filled in for the partition of its extent. -/
theorem fillDone_ends {base : Nat} {e : Ext} (hb : kget block s.tier.blocks = some b) (hd : driveOf s block = some d)
    (hfill : b.filling = true) (hclosed : openCmds (s.driveX d) [0, 10] block = false) (hext : s.extentAt (block * 4096) = some (base, e)) :
    fillDone s block = idleWriteBack (wakeTier (movesEnd (fillIn (fillOver s block b) e.part d block b.ch
      (kget (2 * block) (s.driveX d).failed)) (· == block))) d := by
  have hpart : (((fillOver s block b).extentAt (block * 4096)).map (·.2.part)).getD 16 = e.part := by
    rw [extentAt_fillOver, hext]; rfl
  simp only [fillDone, hb, hd]
  rw [if_neg (by simp [hfill, hclosed]), ← hpart]
  rfl

end Fills

/-! ## The end of a write-back (04 R190, R193) -/

section WriteBacks
variable {s : State} {g d : Nat}

theorem exec_groupWritebackDone (g : Nat) (s : State) : exec (.groupWritebackDone g) s = .next (groupDone s g) := rfl

/-- A group of which nothing is written back, or that has a command outstanding, stays as it is. -/
theorem groupDone_waits {be : Nat × Ext} (hext : s.extentAt (g * 65536) = some be) (hd : driveOf s (g * 16) = some d)
    (hwait : (wbBlocks s g).length = 0 ∨ openCmds (s.driveX d) [1, 11, 12] g = true) : groupDone s g = s := by
  simp only [groupDone, hext, hd]
  exact if_pos hwait

/-- A group whose commands have ended gives up its MAC LBA as read, ends, is counted, and the write-back engine looks again. -/
theorem groupDone_ends {base : Nat} {e : Ext} (hext : s.extentAt (g * 65536) = some (base, e)) (hd : driveOf s (g * 16) = some d)
    (hsome : (wbBlocks s g).length ≠ 0) (hclosed : openCmds (s.driveX d) [1, 11, 12] g = false) :
    groupDone s g = idleWriteBack (wakeTier (tierStat (writeBackEngine ((groupEnd (s.setDriveX d { s.driveX d with
      macRead := kdel g (s.driveX d).macRead }) g true).count PRT_TIER_CNT.WRITEBACKS e.part 0 0 (wbBlocks s g).length)
      e.part) e.part)) d := by
  simp only [groupDone, hext, hd]
  exact if_neg (by simp [hsome, hclosed])

/-- A block after its group's write-back has succeeded: clean, unless it was written meanwhile. -/
def cleanBlock (g : Nat) (b : Nat × Blk) : Nat × Blk :=
  if b.1 / 16 = g ∧ b.2.wb then (b.1, { b.2 with wb := false, dirty := b.2.wbDirty, wbDirty := false }) else b

/-- The DRAM cache and the descriptors after a group's write-back has succeeded. -/
def groupClean (s : State) (g : Nat) : State :=
  movesEnd { s with tier := { s.tier with blocks := s.tier.blocks.map (cleanBlock g) } } fun b => b / 16 == g

theorem groupClean_frame (s : State) (g : Nat) :
    groupClean s g = { s with tier := (groupClean s g).tier, started := (groupClean s g).started } := rfl

theorem mem_groupClean_of_wb {k : Nat} {b : Blk} (hmem : (k, b) ∈ s.tier.blocks) (hk : k / 16 = g) (hwb : b.wb = true) :
    (k, { b with wb := false, dirty := b.wbDirty, wbDirty := false }) ∈ (groupClean s g).tier.blocks :=
  List.mem_map.2 ⟨(k, b), hmem, if_pos ⟨hk, hwb⟩⟩

theorem mem_groupClean_of_other {k : Nat} {b : Blk} (hmem : (k, b) ∈ s.tier.blocks) (hother : k / 16 ≠ g ∨ b.wb = false) :
    (k, b) ∈ (groupClean s g).tier.blocks :=
  List.mem_map.2 ⟨(k, b), hmem, if_neg fun ⟨hk, hwb⟩ => hother.elim (absurd hk) fun hno => by simp [hno] at hwb⟩

/-- The blocks of a group that was written back, listed as written and no longer as lost from the written map. -/
def listWritten (s : State) (bs : List (Nat × Blk)) : State :=
  { s with tier := { s.tier with written := bs.foldl (fun l b => sput b.1 l) s.tier.written
                                 mapBad := s.tier.mapBad.filter fun k => bs.all fun b => b.1 != k } }

theorem groupEnd_success (s : State) (g : Nat) :
    groupEnd s g true = listWritten (mapWritten (poisonWritten (groupClean s g) (wbBlocks s g)) g) (wbBlocks s g) := rfl

theorem mem_written_listWritten {bs : List (Nat × Blk)} {k : Nat} {b : Blk} (hmem : (k, b) ∈ bs) :
    k ∈ (listWritten s bs).tier.written := by
  show k ∈ bs.foldl (fun l b => sput b.1 l) s.tier.written
  rw [← List.foldl_map (f := Prod.fst) (g := fun l k => sput k l)]
  exact (mem_foldl_sput _ _).2 (.inl (List.mem_map_of_mem (f := Prod.fst) hmem))

theorem notMem_mapBad_listWritten {bs : List (Nat × Blk)} {k : Nat} {b : Blk} (hmem : (k, b) ∈ bs) :
    k ∉ (listWritten s bs).tier.mapBad := fun hbad => by
  have hall := List.all_eq_true.1 (List.mem_filter.1 hbad).2 (k, b) hmem
  simp at hall

end WriteBacks

/-! ## The decay of the access counters (04 R191, R194) -/

section Decay
variable {s : State} {p : Part}

/-- The page counter of an entry after a decay, unless it is 0. -/
def decayPage (s : State) (p : Nat) (e : Nat × Nat) : Option (Nat × Nat) :=
  let c := if s.partOfSlice (e.1 % 16) == some p then e.2 / 2 else e.2
  if c = 0 then none else some (e.1, c)

/-- A cached block after a decay. -/
def decayBlock (s : State) (p : Nat) (b : Nat × Blk) : Nat × Blk :=
  if s.partOfSlice (b.2.ch / 2) == some p then (b.1, { b.2 with cnt := b.2.cnt / 2 }) else b

/-- The counters after a decay, before idle write-back looks at them. -/
def decayed (s : State) (p : Nat) : State :=
  { s with tier := { s.tier with pageCnt := s.tier.pageCnt.filterMap (decayPage s p), blocks := s.tier.blocks.map (decayBlock s p) } }

theorem exec_decayTick (p : Part) (s : State) :
    exec (.decayTick p) s = .next ((List.range 16).foldl idleWriteBack (decayed s p)) := rfl

theorem mem_pageCnt_decayed {k c : Nat} (hmem : (k, c) ∈ s.tier.pageCnt) (hmine : s.partOfSlice (k % 16) = some p.val) (hc : 2 ≤ c) :
    (k, c / 2) ∈ (decayed s p).tier.pageCnt := by
  have hhalf : c / 2 ≠ 0 := by omega
  exact List.mem_filterMap.2 ⟨(k, c), hmem, by simp [decayPage, hmine, hhalf]⟩

theorem mem_pageCnt_decayed_of_other {k c : Nat} (hmem : (k, c) ∈ s.tier.pageCnt) (hother : s.partOfSlice (k % 16) ≠ some p.val)
    (hc : c ≠ 0) : (k, c) ∈ (decayed s p).tier.pageCnt :=
  List.mem_filterMap.2 ⟨(k, c), hmem, by simp [decayPage, hother, hc]⟩

theorem mem_blocks_decayed {k : Nat} {b : Blk} (hmem : (k, b) ∈ s.tier.blocks) (hmine : s.partOfSlice (b.ch / 2) = some p.val) :
    (k, { b with cnt := b.cnt / 2 }) ∈ (decayed s p).tier.blocks :=
  List.mem_map.2 ⟨(k, b), hmem, if_pos (beq_iff_eq.2 hmine)⟩

theorem mem_blocks_decayed_of_other {k : Nat} {b : Blk} (hmem : (k, b) ∈ s.tier.blocks)
    (hother : s.partOfSlice (b.ch / 2) ≠ some p.val) :
    (k, b) ∈ (decayed s p).tier.blocks :=
  List.mem_map.2 ⟨(k, b), hmem, if_neg (mt beq_iff_eq.1 hother)⟩

end Decay

/-- Settles O50: the branches of a fill's and of a write-back's end, and the maps over the cached blocks and page counters that a
successful write-back and a decay apply. -/
theorem fillsAndWritebacks : Obligations.FillsAndWritebacks := by
  unfold Obligations.FillsAndWritebacks
  intro s
  refine ⟨?fill, ?absent, ?group, ?ended, ?decay⟩
  case fill =>
    intro block d b hb hd
    refine ⟨fun hwait => by rw [exec_granaryFillDone, fillDone_waits hb hd hwait], ?_⟩
    rintro base e _ _ hfill hclosed hext rfl rfl
    exact ⟨by rw [exec_granaryFillDone, fillDone_ends hb hd hfill hclosed hext]; rfl, kget_fillOver s block b⟩
  case absent => exact fun block hnone => by rw [exec_granaryFillDone, fillDone_absent hnone]
  case group =>
    rintro g d _ base e _ _ hext hd rfl rfl rfl
    exact ⟨fun hwait => by rw [exec_groupWritebackDone, groupDone_waits hext hd hwait],
      fun hsome hclosed => by rw [exec_groupWritebackDone, groupDone_ends hext hd hsome hclosed]⟩
  case ended =>
    intro g
    refine ⟨groupClean s g, _, groupEnd_success s g, rfl, groupClean_frame s g, fun _ _ => mem_groupClean_of_wb,
      fun _ _ => mem_groupClean_of_other, fun k b hmem => ?_⟩
    rw [groupEnd_success]
    exact ⟨mem_written_listWritten hmem, notMem_mapBad_listWritten hmem⟩
  case decay =>
    exact fun p => ⟨decayed s p, exec_decayTick p s, rfl, fun _ _ => mem_pageCnt_decayed, fun _ _ => mem_pageCnt_decayed_of_other,
      fun _ _ => mem_blocks_decayed, fun _ _ => mem_blocks_decayed_of_other⟩

/-! ## Bring-up of a drive, its link and its controller (04 R205, R208) -/

section BringUp
variable {s : State} {d : Nat}

theorem exec_driveBringup (d : Drive) (s : State) : exec (.driveBringup d) s = .next (driveBringup s d) := rfl
theorem exec_nvmeLinkUp (d : Drive) (s : State) : exec (.nvmeLinkUp d) s = .next (driveLinkUp s d) := rfl
theorem exec_nvmeLinkDown (d : Drive) (s : State) : exec (.nvmeLinkDown d) s = .next (driveLinkDown s d) := rfl
theorem exec_nvmeLinkupTmoExpiry (d : Drive) (s : State) : exec (.nvmeLinkupTmoExpiry d) s = .next (driveLinkTmo s d) := rfl
theorem exec_nvmeReadyTmoExpiry (d : Drive) (s : State) : exec (.nvmeReadyTmoExpiry d) s = .next (driveReadyTmo s d) := rfl
theorem exec_nvmeControllerReady (d : Drive) (q : Nat) (s : State) : exec (.nvmeControllerReady d q) s = .next (driveReady s d q) := rfl
theorem exec_nvmeControllerFatal (d : Drive) (s : State) : exec (.nvmeControllerFatal d) s = .next (driveLost s d 2) := rfl

theorem driveBringup_off (hon : s.on NVM_CTL.ENABLE d = true) (hoff : s.rd NVM_CTL.STATE d = 0) : driveBringup s d = driveBegin s d :=
  if_pos ⟨hon, hoff⟩

theorem driveBringup_not_off (hstate : s.rd NVM_CTL.STATE d ≠ 0) : driveBringup s d = s := if_neg fun h => hstate h.2

/-- A link that comes up during the bring-up has its controller enabled. -/
theorem driveLinkUp_training (hstep : (s.driveX d).step = 1) :
    driveLinkUp s d = (s.setDriveX d { s.driveX d with step := 2 }).emit (.nvme d 21 []) := if_pos hstep

theorem driveLinkUp_later (hstep : (s.driveX d).step ≠ 1) :
    driveLinkUp s d = s.setDriveX d { s.driveX d with linkDown := false } := if_neg hstep

theorem driveLinkDown_serving (hstate : s.rd NVM_CTL.STATE d = 2) (hstep : (s.driveX d).step ≠ 1) :
    driveLinkDown s d = s.setDriveX d { s.driveX d with linkDown := true } := if_pos ⟨.inr hstate, hstep⟩

theorem driveLinkTmo_down (hdown : (s.driveX d).step = 1 ∨ (s.driveX d).linkDown = true) : driveLinkTmo s d = driveLost s d 1 :=
  if_pos hdown

theorem driveLinkTmo_up (hstep : (s.driveX d).step ≠ 1) (hup : (s.driveX d).linkDown = false) : driveLinkTmo s d = s :=
  if_neg (by simp [hstep, hup])

theorem driveReadyTmo_resetting (hreset : (s.driveX d).resetting = 2) : driveReadyTmo s d = driveLost s d 4 := if_pos (.inl hreset)

theorem driveReadyTmo_ready (hreset : (s.driveX d).resetting = 0) (hstep : (s.driveX d).step ≠ 2) : driveReadyTmo s d = s :=
  if_neg (by simp [hreset, hstep])

/-- A controller that becomes ready in the bring-up is asked to identify itself and its namespace. -/
theorem driveReady_bringUp (q : Nat) (hreset : (s.driveX d).resetting = 0) (hstep : (s.driveX d).step = 2) :
    driveReady s d q = nvmeIssue (nvmeIssue ((s.wr NVM_CTL.QDEPTH (min 1024 (q + 1)) d).setDriveX d { s.driveX d with step := 3 })
      d 5 0 0 0) d 6 1 0 0 := by
  simp only [driveReady, hreset, hstep, if_true]
  rfl

end BringUp

/-! ## The ends of commands (04 R206) -/

section Commands
variable {s : State} {d id : Nat} {c : NvmeCmd}

theorem exec_nvmeCmdComplete (d : Drive) (id sct sc : Nat) (data : List Byte) (s : State) :
    exec (.nvmeCmdComplete d id sct sc data) s = .next (cmdComplete s d id sct sc data) := rfl

theorem exec_nvmeCmdTmoExpiry (d : Drive) (id : Nat) (s : State) : exec (.nvmeCmdTmoExpiry d id) s = .next (cmdTmo s d id) := rfl

theorem cmdComplete_absent (sct sc : Nat) (data : List Byte) (hnone : (s.driveX d).cmds.find? (fun c => c.id == id) = none) :
    cmdComplete s d id sct sc data = s := by
  simp only [cmdComplete, hnone]

theorem cmdTmo_absent (hnone : (s.driveX d).cmds.find? (fun c => c.id == id) = none) : cmdTmo s d id = s := by
  simp only [cmdTmo, hnone]

/-- A drive once a command is no longer outstanding. -/
def cmdTaken (s : State) (d id : Nat) : State :=
  s.setDriveX d { s.driveX d with cmds := (s.driveX d).cmds.filter (fun k => k.id != id) }

/-- A drive whose controller is reset for a command past CMD_TMO; the outstanding commands that `keep` names wait. -/
def ctlReset (s : State) (d : Nat) (keep : NvmeCmd → Bool) : State :=
  ((s.count NVM_STAT.TIMEOUTS d).count NVM_STAT.RESETS d).setDriveX d
    { s.driveX d with resetting := 2, cmds := [], held := ((s.driveX d).cmds ++ (s.driveX d).held).filter keep }

section Found
variable (hfind : (s.driveX d).cmds.find? (fun c => c.id == id) = some c)
include hfind

/-- The four ends of an outstanding command: success, a media error, another try, and failure. -/
theorem cmdComplete_found (sct sc : Nat) (data : List Byte) :
    cmdComplete s d id sct sc data =
      if sct = 0 ∧ sc = 0 then idleWriteBack (nvmeDrain (cmdOk ((cmdTaken s d id).setDriveX d { (cmdTaken s d id).driveX d with
        failRow := 0 }) d c data) d) d
      else if (decide (sct = 2) && [0, 10, 12].contains c.kind) = true then
        nvmeDrain (cmdFail ((cmdTaken s d id).count NVM_STAT.MEDIA_ERR d) d c (fld sct 0 3 * 256 + fld sc 0 8)) d
      else if c.tries ≤ s.rd NVM_CFG.RETRY d then nvmeSend (cmdTaken s d id) d c
      else nvmeDrain (cmdFail (cmdTaken s d id) d c (fld sct 0 3 * 256 + fld sc 0 8)) d := by
  simp only [cmdComplete, hfind]
  rfl

theorem cmdComplete_success (data : List Byte) :
    cmdComplete s d id 0 0 data = idleWriteBack (nvmeDrain (cmdOk ((cmdTaken s d id).setDriveX d { (cmdTaken s d id).driveX d with
      failRow := 0 }) d c data) d) d := by
  rw [cmdComplete_found hfind, if_pos ⟨rfl, rfl⟩]

theorem cmdComplete_media (sc : Nat) (data : List Byte) (hread : [0, 10, 12].contains c.kind = true) :
    cmdComplete s d id 2 sc data = nvmeDrain (cmdFail ((cmdTaken s d id).count NVM_STAT.MEDIA_ERR d) d c (512 + fld sc 0 8)) d := by
  rw [cmdComplete_found hfind, if_neg (by simp), if_pos (by rw [hread]; rfl)]
  rfl

theorem cmdComplete_retried {sc : Nat} (data : List Byte) (hsc : 0 < sc) (hleft : c.tries ≤ s.rd NVM_CFG.RETRY d) :
    cmdComplete s d id 0 sc data = nvmeSend (cmdTaken s d id) d c := by
  rw [cmdComplete_found hfind, if_neg (by omega), if_neg (by simp), if_pos hleft]

theorem cmdComplete_failed {sc : Nat} (data : List Byte) (hsc : 0 < sc) (hspent : s.rd NVM_CFG.RETRY d < c.tries) :
    cmdComplete s d id 0 sc data = nvmeDrain (cmdFail (cmdTaken s d id) d c (fld sc 0 8)) d := by
  have hstatus : fld 0 0 3 * 256 + fld sc 0 8 = fld sc 0 8 := Nat.zero_add _
  rw [cmdComplete_found hfind, if_neg (by omega), if_neg (by simp), if_neg (by omega), hstatus]

/-- A command past CMD_TMO resets the controller, which keeps every command but the queue commands. -/
theorem cmdTmo_reset (hleft : c.tries ≤ s.rd NVM_CFG.RETRY d) :
    cmdTmo s d id = (ctlReset s d fun k => k.kind != 7 && k.kind != 8).emit (.nvme d 21 []) := by
  have hlast : decide (s.rd NVM_CFG.RETRY d < c.tries) = false := decide_eq_false (by omega)
  simp only [cmdTmo, hfind, hlast, Bool.false_and, Bool.not_false, Bool.and_true, Bool.false_eq_true, if_false]
  rfl

/-- At its last try it is dropped by the reset, and fails. -/
theorem cmdTmo_failed (hspent : s.rd NVM_CFG.RETRY d < c.tries) :
    cmdTmo s d id = cmdFail ((ctlReset s d fun k => k.kind != 7 && k.kind != 8 && k.id != id).emit (.nvme d 21 [])) d c 0 := by
  have hlast : decide (s.rd NVM_CFG.RETRY d < c.tries) = true := decide_eq_true hspent
  simp only [cmdTmo, hfind, hlast, Bool.true_and, if_true]
  rfl

end Found

end Commands

/-! ## SMART (04 R207) -/

section Smart
variable {s : State} {d : Nat} {temp : Int} {warn used : Nat}

theorem exec_smartPoll (d : Drive) (ok : Bool) (temp : Int) (warn used : Nat) (s : State) :
    exec (.smartPoll d ok temp warn used) s = .next (smartPoll s d ok temp warn used) := rfl

/-- A drive with no log read open. -/
def smartTaken (s : State) (d : Nat) : State :=
  let x := s.driveX d
  s.setDriveX d { x with cmds := x.cmds.filter (fun c => c.kind != 9), held := x.held.filter (fun c => c.kind != 9) }

/-- Where a log read is open, its result comes. -/
theorem smartPoll_open (ok : Bool) (hserves : s.rd NVM_CTL.STATE d = 2 ∨ (s.driveX d).step = 5)
    (hopen : smartOpen (s.driveX d) = true ∨ (s.driveX d).step = 5) :
    smartPoll s d ok temp warn used =
      if ok then smartRead (smartTaken s d) d temp warn used else smartEnd (failRow (smartTaken s d) d) d := by
  rw [smartPoll]
  dsimp only
  rw [if_neg (not_not_intro hserves), if_pos hopen]
  rfl

/-- Where none is open, a drive in service is asked for its log, unless SMART_PERIOD is 0. -/
theorem smartPoll_ask (ok : Bool) (hserves : s.rd NVM_CTL.STATE d = 2) (hstep : (s.driveX d).step ≠ 5)
    (hclosed : smartOpen (s.driveX d) = false) :
    smartPoll s d ok temp warn used = if s.rd NVM_CFG.SMART_PERIOD d = 0 then s
      else if ¬ ok then nvmeIssue s d 9 0 0 0
      else smartRead ((s.setDriveX d { s.driveX d with nextId := (s.driveX d).nextId + 1 }).emit
        (.nvme d 9 [(s.driveX d).nextId, 0, 0])) d temp warn used := by
  rw [smartPoll]
  dsimp only
  rw [if_neg (not_not_intro (.inl hserves)), if_neg (by simp [hstep, hclosed])]

/-- A drive that is neither in service nor at the last step of its bring-up is not polled. -/
theorem smartPoll_idle (ok : Bool) (hstate : s.rd NVM_CTL.STATE d ≠ 2) (hstep : (s.driveX d).step ≠ 5) :
    smartPoll s d ok temp warn used = s := if_pos (by simp [hstate, hstep])

/-- The last three readings in range, newest first, once one more comes. -/
def smartTemps (s : State) (d : Nat) (temp : Int) : List Int :=
  if -40 ≤ temp ∧ temp ≤ 150 then (temp :: (s.driveX d).temps).take 3 else (s.driveX d).temps

/-- The condition that a log shows: its three warnings, and a median temperature above TEMP_WARN. -/
def smartCond (s : State) (d : Nat) (temp : Int) (warn : Nat) : Nat :=
  fld warn 0 3 + 8 * b2n (!(smartTemps s d temp).isEmpty &&
    decide ((s.rd NVM_CFG.TEMP_WARN d : Int) < medianInt (smartTemps s d temp)))

/-- The state once a log is judged, before its event. -/
def smartJudged (s : State) (d : Nat) (temp : Int) (warn used : Nat) : State :=
  ((s.wr NVM_STAT.CRIT_WARN warn d).wr NVM_STAT.PCT_USED used d).setDriveX d
    { s.driveX d with temps := smartTemps s d temp, cond := smartCond s d temp warn, failRow := 0 }

/-- The state once a log is told of: a condition that is new writes event 0x0302. -/
def smartTold (s : State) (d : Nat) (temp : Int) (warn used : Nat) : State :=
  if smartCond s d temp warn ≠ 0 ∧ smartCond s d temp warn ≠ (s.driveX d).cond then
    evPf0 (smartJudged s d temp warn used) 0x0302 d (fld warn 0 8 + (if smartTemps s d temp = [] then 0
      else (medianInt (smartTemps s d temp) % 65536).toNat) * 256) (fld used 0 8)
  else smartJudged s d temp warn used

theorem smartTold_old (hold : smartCond s d temp warn = 0 ∨ smartCond s d temp warn = (s.driveX d).cond) :
    smartTold s d temp warn used = smartJudged s d temp warn used := if_neg fun hnew => hold.elim hnew.1 hnew.2

theorem smartTold_new (hsome : smartCond s d temp warn ≠ 0) (hnew : smartCond s d temp warn ≠ (s.driveX d).cond) :
    smartTold s d temp warn used = evPf0 (smartJudged s d temp warn used) 0x0302 d (fld warn 0 8 + (if smartTemps s d temp = [] then 0
      else (medianInt (smartTemps s d temp) % 65536).toNat) * 256) (fld used 0 8) := if_pos ⟨hsome, hnew⟩

theorem smartRead_writable (hbit : warn.testBit 3 = false) :
    smartRead s d temp warn used = smartEnd (smartTold s d temp warn used) d :=
  if_neg (Bool.eq_false_iff.1 hbit)

theorem smartRead_readOnly (hbit : warn.testBit 3 = true) :
    smartRead s d temp warn used = driveLost (smartTold s d temp warn used) d 5 :=
  if_pos hbit

end Smart

/-! ## ENABLE 0 (04 R208) -/

section Disable
variable {s : State} {d v : Nat}

theorem rowOf_NVM_CTL : rowOf NVM_CTL.reg =
    ⟨NVM_CTL.reg, .nvm, [⟨0, 1, .rw, .pool⟩, ⟨1, 2, .ro, .ward⟩, ⟨3, 4, .ro, .ward⟩, ⟨8, 7, .ro, .ward⟩, ⟨16, 11, .ro, .ward⟩]⟩ := by
  decide +kernel

/-- ENABLE reads as written. -/
theorem rd_nvmEnable_plainWrite (d v : Nat) (hsort : ksorted s.regs = true) :
    (plainWrite s NVM_CTL.reg d 0 0 v).rd NVM_CTL.ENABLE d = wrote NVM_CTL.ENABLE v := by
  have hrow : NVM_CTL.ENABLE.reg = NVM_CTL.reg := rfl
  rw [← hrow, rd_plainWrite s NVM_CTL.ENABLE ⟨0, 1, .rw, .pool⟩ d 0 0 v hsort (rowOf_mem (by decide +kernel))
    (by rw [hrow, rowOf_NVM_CTL]) (by simp [hrow, rowOf_NVM_CTL]) rfl rfl, fieldAfter, hrow, rowOf_NVM_CTL]
  rfl

/-- ENABLE 0 flushes the drive and loses it with cause 7. -/
theorem nvmCtlWrite_disable (hsort : ksorted s.regs = true) (hon : s.on NVM_CTL.ENABLE d = true) (hv : wrote NVM_CTL.ENABLE v = 0) :
    nvmCtlWrite s d v = driveLost (flushDrive (plainWrite s NVM_CTL.reg d 0 0 v) d) d 7 := by
  have hoff : (plainWrite s NVM_CTL.reg d 0 0 v).on NVM_CTL.ENABLE d = false := by
    rw [State.on, rd_nvmEnable_plainWrite d v hsort, hv]; rfl
  simp only [nvmCtlWrite, hon, hoff, Bool.not_false, Bool.and_true, if_true]

theorem exec_nvmDisable {w : Word} (d : Drive) (hopen : pf0Open s = true) :
    exec (.nvmDisable d w) s = .next (nvmCtlWrite s d w.toNat) :=
  congrArg Host.Outcome.next (atPf0_open _ hopen)

end Disable

/-- Settles O51: one branch of the drive's functions for each clause; ENABLE 0 reads back as it was written. -/
theorem drivesComeAndGo : Obligations.DrivesComeAndGo := by
  unfold Obligations.DrivesComeAndGo
  rintro s d _ rfl
  refine ⟨?begin, ?notOff, ?linkUp, ?linkBack, ?linkDown, ?linkTmo, ?linkFine, ?readyTmo, ?readyFine, exec_nvmeControllerFatal d s, ?ready,
    ?absent, ?complete, ?reset, ?failed, ?smartOpen, ?smartAsk, ?smartOff, ?smartLost, ?smartRead, ?disable⟩
  case begin => exact fun hon hoff => by rw [exec_driveBringup, driveBringup_off hon hoff]
  case notOff => exact fun hstate => by rw [exec_driveBringup, driveBringup_not_off hstate]
  case linkUp => exact fun hstep => by rw [exec_nvmeLinkUp, driveLinkUp_training hstep]
  case linkBack => exact fun hstep => by rw [exec_nvmeLinkUp, driveLinkUp_later hstep]
  case linkDown => exact fun hstate hstep => by rw [exec_nvmeLinkDown, driveLinkDown_serving hstate hstep]
  case linkTmo => exact fun hdown => by rw [exec_nvmeLinkupTmoExpiry, driveLinkTmo_down hdown]
  case linkFine => exact fun hstep hup => by rw [exec_nvmeLinkupTmoExpiry, driveLinkTmo_up hstep hup]
  case readyTmo => exact fun hreset => by rw [exec_nvmeReadyTmoExpiry, driveReadyTmo_resetting hreset]
  case readyFine => exact fun hreset hstep => by rw [exec_nvmeReadyTmoExpiry, driveReadyTmo_ready hreset hstep]
  case ready =>
    rintro q _ hreset hstep rfl
    rw [exec_nvmeControllerReady, driveReady_bringUp q hreset hstep]
  case absent =>
    exact fun id sct sc data hnone => ⟨by rw [exec_nvmeCmdComplete, cmdComplete_absent sct sc data hnone],
      by rw [exec_nvmeCmdTmoExpiry, cmdTmo_absent hnone]⟩
  case complete =>
    rintro id c data t hfind ht
    have ht : t = cmdTaken s d id := ht
    subst ht
    simp only [exec_nvmeCmdComplete]
    exact ⟨by rw [cmdComplete_success hfind], fun sc hread => by rw [cmdComplete_media hfind sc data hread],
      fun sc hsc hleft => by rw [cmdComplete_retried hfind data hsc hleft],
      fun sc hsc hspent => by rw [cmdComplete_failed hfind data hsc hspent]⟩
  case reset =>
    rintro id c _ hfind hleft rfl
    rw [exec_nvmeCmdTmoExpiry, cmdTmo_reset hfind hleft, ctlReset]
  case failed =>
    rintro id c _ hfind hspent rfl
    rw [exec_nvmeCmdTmoExpiry, cmdTmo_failed hfind hspent, ctlReset]
  case smartOpen =>
    rintro temp warn used t hserves hopen ht
    have ht : t = smartTaken s d := ht
    simp only [exec_smartPoll, smartPoll_open _ hserves hopen, ht, if_true, Bool.false_eq_true, if_false, and_self]
  case smartAsk =>
    intro temp warn used hserves hstep hclosed hperiod
    simp only [exec_smartPoll, smartPoll_ask _ hserves hstep hclosed, hperiod, not_true, not_false_iff, Bool.false_eq_true, if_true,
      if_false, and_self]
  case smartOff =>
    intro ok temp warn used hserves hstep hclosed hperiod
    rw [exec_smartPoll, smartPoll_ask ok hserves hstep hclosed, if_pos hperiod]
  case smartLost =>
    intro ok temp warn used hstate hstep
    rw [exec_smartPoll, smartPoll_idle ok (by omega) (by omega)]
  case smartRead =>
    rintro temp warn used _ _ v rfl rfl hv
    have hv : v = smartJudged s d temp warn used := hv
    subst hv
    exact ⟨fun hold hbit => by rw [smartRead_writable hbit, smartTold_old hold],
      fun hold hbit => by rw [smartRead_readOnly hbit, smartTold_old hold],
      fun hsome hnew hbit => (smartRead_writable hbit).trans (by rw [smartTold_new hsome hnew]; rfl)⟩
  case disable =>
    rintro v _ hsort hopen hon hv rfl
    rw [exec_nvmDisable d hopen, nvmCtlWrite_disable hsort hon hv]

end Sys2Proof.Machine
end

section
/-!
PROOFS for 05_in_pool_arithmetic.md: what writes to PRT_SR_SEED, PRT_ARITH_STAT, PRT_COR_CTL and PRT_RGN_CFG do. Fields that the
register table lists are read back once for all registers; the seeds of a partition's cells and the checks that gate an enable
follow, and the last theorem puts them together.
-/
namespace Sys2Proof.Machine

/-! ## Fields after a plain write, by the access code that the register table lists (00 R17) -/

section ListedFields
variable {s : State} {g : Fld} {clr : Clr}

/-- The register table lists a field with an access code. -/
abbrev Fld.Listed (g : Fld) (acc : Acc) (clr : Clr) : Prop :=
  (regRows.any fun x => x.reg.base == g.reg.base) = true ∧ (rowOf g.reg).reg = g.reg ∧ ⟨g.lo, g.w, acc, clr⟩ ∈ (rowOf g.reg).flds

theorem rd_plainWrite_rw (hg : g.Listed .rw clr) (hsort : ksorted s.regs = true) (i j k v : Nat) :
    (plainWrite s g.reg i j k v).rd g i j k =
      if takesWrite s ⟨rowOf g.reg, i, j, k⟩ g.lo then wrote g v else s.rd g i j k := by
  obtain ⟨hany, hreg, hmem⟩ := hg
  rw [rd_plainWrite s g _ i j k v hsort (rowOf_mem hany) hreg hmem rfl rfl, fieldAfter, hreg]
  rfl

theorem rd_plainWrite_w1c (hg : g.Listed .w1c clr) (hsort : ksorted s.regs = true) (i j k v : Nat) :
    (plainWrite s g.reg i j k v).rd g i j k = s.rd g i j k - (s.rd g i j k &&& wrote g v) := by
  obtain ⟨hany, hreg, hmem⟩ := hg
  rw [rd_plainWrite s g _ i j k v hsort (rowOf_mem hany) hreg hmem rfl rfl, fieldAfter, hreg]
  rfl

theorem rd_plainWrite_ro (hg : g.Listed .ro clr) (hsort : ksorted s.regs = true) (i j k v : Nat) :
    (plainWrite s g.reg i j k v).rd g i j k = s.rd g i j k := by
  obtain ⟨hany, hreg, hmem⟩ := hg
  rw [rd_plainWrite s g _ i j k v hsort (rowOf_mem hany) hreg hmem rfl rfl, fieldAfter, hreg]
  rfl

theorem wrote_bit (hw : g.w = 1) (v : Nat) : wrote g v = 0 ∨ wrote g v = 1 := by
  have hlt : wrote g v < 2 ^ g.w := fld_lt _ _ _
  rw [hw] at hlt
  omega

end ListedFields

/-! ## PRT_SR_SEED and the generators of a partition's cells (05 R230) -/

section Seeds
variable {s t : State} {c v : Nat}

theorem cellAt_setCell_self (hsort : ksorted s.cells = true) (c : Nat) (x : Cell) : cellAt (setCell s c x) c = x :=
  kgetD_kset_self _ c x s.cells hsort

theorem cellAt_setCell_ne {d : Nat} (hsort : ksorted s.cells = true) (hne : d ≠ c) (x : Cell) : cellAt (setCell s c x) d = cellAt s d :=
  kgetD_kset_ne _ x s.cells hsort hne

theorem setCell_sorted (hsort : ksorted s.cells = true) (c : Nat) (x : Cell) : ksorted (setCell s c x).cells = true :=
  ksorted_kset _ c x s.cells hsort

/-- One cell's generator is seeded: with `v`, or with a free value where `v` is 0. -/
def seedCell (v : Nat) (t : State) (c : Nat) : State :=
  setCell t.tickFresh c { cellAt t c with seed := if v = 0 then (Config.openValue t.fresh).toNat else v }

theorem seedCells_eq_foldl (s : State) (p : Nat) :
    seedCells s p = ((s.slicesOf p).flatMap (cellsOf s)).foldl (seedCell (s.rd PRT_SR_SEED.SEED p)) s := rfl

theorem foldl_seedCell_frame (v : Nat) (cs : List Nat) (s : State) (ht : t = cs.foldl (seedCell v) s) :
    t = { s with fresh := t.fresh, cells := t.cells } := by
  induction cs generalizing s with
  | nil => rw [ht]; rfl
  | cons c cs ih => exact (ih (seedCell v s c) ht).trans rfl

/-- A seed other than 0 reaches every cell listed, which keeps its tiles, and no other cell. -/
theorem cellAt_foldl_seedCell (hv : v ≠ 0) (cs : List Nat) (hsort : ksorted s.cells = true) (d : Nat) :
    cellAt (cs.foldl (seedCell v) s) d = if d ∈ cs then { cellAt s d with seed := v } else cellAt s d := by
  induction cs generalizing s with
  | nil => rfl
  | cons c cs ih =>
    have hself : cellAt (seedCell v s c) c = { cellAt s c with seed := v } := by
      rw [seedCell, if_neg hv]
      exact cellAt_setCell_self (s := s.tickFresh) hsort c _
    have hother : d ≠ c → cellAt (seedCell v s c) d = cellAt s d := fun hne => cellAt_setCell_ne hsort hne _
    have hsort' : ksorted (seedCell v s c).cells = true := setCell_sorted (s := s.tickFresh) hsort c _
    rw [List.foldl_cons, ih hsort']
    by_cases hd : d = c
    · subst hd
      simp [hself]
    · simp [hd, hother hd]

theorem takesWrite_SR_SEED {row : RegRow} (hrow : row.reg = PRT_SR_SEED.reg) (i j k lo : Nat) :
    takesWrite s ⟨row, i, j, k⟩ lo = true := by
  obtain ⟨_, _, _⟩ := row
  subst hrow
  rfl

theorem rd_seed_plainWrite (hsort : ksorted s.regs = true) (p : Nat) (w : Word) :
    (plainWrite s PRT_SR_SEED.reg p 0 0 w.toNat).rd PRT_SR_SEED.SEED p = w.toNat := by
  have hlisted : PRT_SR_SEED.SEED.Listed .rw .pool := by decide +kernel
  refine (rd_plainWrite_rw hlisted hsort p 0 0 w.toNat).trans ((if_pos (takesWrite_SR_SEED hlisted.2.1 ..)).trans ?_)
  rw [wrote, fld]
  exact (congrArg (· % 2 ^ 64) (Nat.div_one _)).trans (Nat.mod_eq_of_lt w.isLt)

/-- Beside the register, a write to PRT_SR_SEED changes the count of free values and the cells alone. -/
theorem seedWrite_frame (hsort : ksorted s.regs = true) (p : Nat) (ht : t = seedWrite s p v) :
    t.regs = (plainWrite s PRT_SR_SEED.reg p 0 0 v).regs ∧ t = { s with regs := t.regs, fresh := t.fresh, cells := t.cells } ∧
      regsKept s t [PRT_SR_SEED.reg.addr p 0 0] := by
  have hframe := foldl_seedCell_frame _ _ _ (ht.trans (seedCells_eq_foldl _ p))
  have honly := plainWrite_only s PRT_SR_SEED.reg p 0 0 v false hsort (by decide +kernel) (List.mem_singleton_self _)
  have hregs : t.regs = (plainWrite s PRT_SR_SEED.reg p 0 0 v).regs := by rw [hframe]
  refine ⟨hregs, ?_, regsKept_trans honly.2 (regsKept_of_regs _ hregs)⟩
  rw [honly.1] at hframe
  exact hframe.trans (by rw [hregs])

theorem cellAt_seedWrite {w : Word} (hsort : ksorted s.regs = true) (hcells : ksorted s.cells = true) (p : Nat) (hw : w.toNat ≠ 0)
    (ht : t = seedWrite s p w.toNat) {sl : Nat} (hsl : sl ∈ t.slicesOf p) (hc : c ∈ cellsOf t sl) :
    cellAt t c = { cellAt s c with seed := w.toNat } := by
  have hfold := ht.trans (seedCells_eq_foldl _ p)
  have hframe := foldl_seedCell_frame _ _ _ hfold
  rw [rd_seed_plainWrite hsort] at hfold
  have hslices : t.slicesOf p = (plainWrite s PRT_SR_SEED.reg p 0 0 w.toNat).slicesOf p := by rw [hframe]; rfl
  have hcellsOf : cellsOf t sl = cellsOf (plainWrite s PRT_SR_SEED.reg p 0 0 w.toNat) sl := by rw [hframe]; rfl
  have hlisted := List.mem_flatMap.2 ⟨sl, hslices ▸ hsl, hcellsOf ▸ hc⟩
  have hcells' : ksorted (plainWrite s PRT_SR_SEED.reg p 0 0 w.toNat).cells = true := hcells
  rw [hfold, cellAt_foldl_seedCell hw _ hcells', if_pos hlisted]
  rfl

end Seeds

/-! ## PRT_ARITH_STAT (05 R259) -/

section ArithStat
variable {s t : State} {v : Nat}

theorem arithStatWrite_spec (hsort : ksorted s.regs = true) (p : Nat) (ht : t = arithStatWrite s p v) :
    t.rd PRT_ARITH_STAT.FLAGS p = s.rd PRT_ARITH_STAT.FLAGS p - (s.rd PRT_ARITH_STAT.FLAGS p &&& wrote PRT_ARITH_STAT.FLAGS v) ∧
      t.rd PRT_ARITH_STAT.DESC_EXC p = (if wrote PRT_ARITH_STAT.DESC_CLR v = 1 then 0 else s.rd PRT_ARITH_STAT.DESC_EXC p) ∧
      onlyRegs s t [PRT_ARITH_STAT.reg.addr p 0 0] := by
  have hflags := rd_plainWrite_w1c (g := PRT_ARITH_STAT.FLAGS) (clr := .part) (by decide +kernel) hsort p 0 0 v
  have hexc := rd_plainWrite_ro (g := PRT_ARITH_STAT.DESC_EXC) (clr := .part) (by decide +kernel) hsort p 0 0 v
  have honly := plainWrite_only s PRT_ARITH_STAT.reg p 0 0 v false hsort (by decide +kernel) (List.mem_singleton_self _)
  have hsort' := plainWrite_sorted s PRT_ARITH_STAT.reg p 0 0 v false hsort
  rcases wrote_bit (g := PRT_ARITH_STAT.DESC_CLR) rfl v with hclr | hclr
  · have ht : t = plainWrite s PRT_ARITH_STAT.reg p 0 0 v := ht.trans (if_pos hclr)
    rw [ht, if_neg (by omega)]
    exact ⟨hflags, hexc, honly⟩
  · have ht : t = (plainWrite s PRT_ARITH_STAT.reg p 0 0 v).wr PRT_ARITH_STAT.DESC_EXC 0 p := ht.trans (if_neg (by omega))
    rw [ht, if_pos hclr]
    exact ⟨(rd_wr_beside hsort' (by decide) (by decide) _ p).trans hflags, rd_wr_of_lt hsort' (by decide) (by decide) p,
      onlyRegs_trans honly (onlyRegs_wr _ _ _ _ _ _ hsort' (List.mem_singleton_self _))⟩

end ArithStat

/-! ## Registers whose enable bit gates the others, and an enable that a check gates (05 R254, 08 R326) -/

section Gates
variable {s t w : State} {en g : Fld} {i j v : Nat} {clr : Clr}

theorem rd_wr_self_at (hsort : ksorted s.regs = true) (hen : en.Fits) (hv : v < 2 ^ en.w) (i j : Nat) : (s.wr en v i j).rd en i j = v := by
  rw [rd_wr_self s en v i j 0 hsort (rvAt_lt hen.1 i) hen.2, Nat.mod_eq_of_lt hv]

theorem rd_wr_beside_at (hsort : ksorted s.regs = true) (hen : en.Fits) (hg : g.Beside en) (v i j : Nat) :
    (s.wr en v i j).rd g i j = s.rd g i j := rd_wr_field s en g v i j 0 hsort (rvAt_lt hen.1 i) hen.2 hg.1 hg.2

theorem on_of_rd_one (h : s.rd en i j = 1) : s.on en i j = true := by rw [State.on, h]; rfl

theorem on_of_rd_zero (h : s.rd en i j = 0) : s.on en i j = false := by rw [State.on, h]; rfl

/-- An enable bit takes every write, and the fields of its register take writes while it is 0. -/
def Fld.Gates (en : Fld) : Prop :=
  ∀ (s : State) (i j lo : Nat) (row : RegRow), row.reg = en.reg → takesWrite s ⟨row, i, j, 0⟩ lo = (lo == en.lo || !s.on en i j)

theorem gates_COR_CTL : PRT_COR_CTL.EN.Gates := by
  rintro s i j lo ⟨_, _, _⟩ rfl
  rfl

theorem gates_RGN_CFG : PRT_RGN_CFG.EN.Gates := by
  rintro s i j lo ⟨_, _, _⟩ rfl
  rfl

theorem rd_plainWrite_enable (hgates : en.Gates) (hen : en.Listed .rw clr) (hsort : ksorted s.regs = true) (i j v : Nat) :
    (plainWrite s en.reg i j 0 v).rd en i j = wrote en v := by
  rw [rd_plainWrite_rw hen hsort, hgates s i j en.lo _ hen.2.1, beq_self_eq_true, Bool.true_or, if_pos rfl]

theorem rd_plainWrite_open (hgates : en.Gates) (hg : g.Listed .rw clr) (hreg : g.reg = en.reg) (hsort : ksorted s.regs = true)
    (hoff : s.on en i j = false) (v : Nat) : (plainWrite s en.reg i j 0 v).rd g i j = wrote g v := by
  rw [← hreg, rd_plainWrite_rw hg hsort, hgates s i j g.lo _ (hg.2.1.trans hreg), hoff, Bool.not_false, Bool.or_true, if_pos rfl]

theorem rd_plainWrite_shut (hgates : en.Gates) (hg : g.Listed .rw clr) (hreg : g.reg = en.reg) (hlo : g.lo ≠ en.lo)
    (hsort : ksorted s.regs = true) (hon : s.on en i j = true) (v : Nat) : (plainWrite s en.reg i j 0 v).rd g i j = s.rd g i j := by
  have hshut : (g.lo == en.lo || !s.on en i j) = false := by simp [hlo, hon]
  rw [← hreg, rd_plainWrite_rw hg hsort, hgates s i j g.lo _ (hg.2.1.trans hreg), hshut, if_neg Bool.false_ne_true]

/-- An enable bit goes back to 0 where the settings beside it are not valid. -/
def enabledIf (ok : Bool) (en : Fld) (i j : Nat) (t : State) : State := if ok then t else t.wr en 0 i j

theorem enabledIf_beside (ok : Bool) (hsort : ksorted t.regs = true) (hen : en.Fits) (hg : g.Beside en) :
    (enabledIf ok en i j t).rd g i j = t.rd g i j := by
  cases ok
  · exact rd_wr_beside_at hsort hen hg 0 i j
  · rfl

theorem enabledIf_on (ok : Bool) (hsort : ksorted t.regs = true) (hen : en.Fits) (hon : t.rd en i j = 1) :
    (enabledIf ok en i j t).on en i j = ok := by
  cases ok
  · exact on_of_rd_zero (rd_wr_self_at hsort hen (Nat.two_pow_pos en.w) i j)
  · exact on_of_rd_one hon

theorem enabledIf_only (ok : Bool) (hsort : ksorted t.regs = true) : onlyRegs t (enabledIf ok en i j t) [en.reg.addr i j 0] := by
  cases ok
  · exact onlyRegs_wr t en 0 i j 0 hsort (List.mem_singleton_self _)
  · exact onlyRegs_refl _ _

/-- An enable of what is off: the settings are taken, and the bit stands where they are valid, by a check that the bit has no part in. -/
theorem gatedEnable_spec {check : State → Bool} (hgates : en.Gates) (hen : en.Listed .rw clr) (hfits : en.Fits)
    (hcheck : ∀ u : State, ksorted u.regs = true → check (u.wr en 0 i j) = check u) (hsort : ksorted s.regs = true)
    (hoff : s.on en i j = false) (hv : wrote en v = 1) (hw : w = plainWrite s en.reg i j 0 v) (ht : t = enabledIf (check w) en i j w) :
    t.on en i j = check t ∧ (∀ g : Fld, g.Beside en → g.Listed .rw clr → t.rd g i j = wrote g v) ∧
      onlyRegs s t [en.reg.addr i j 0] := by
  have hsort' : ksorted w.regs = true := hw ▸ plainWrite_sorted s en.reg i j 0 v false hsort
  have hset : w.rd en i j = 1 := by rw [hw, rd_plainWrite_enable hgates hen hsort, hv]
  have hsame : check t = check w := by
    rw [ht, enabledIf]
    split
    · rfl
    · exact hcheck w hsort'
  refine ⟨?_, fun g hg hlisted => ?_, ?_⟩
  · rw [hsame, ht, enabledIf_on _ hsort' hfits hset]
  · rw [ht, enabledIf_beside _ hsort' hfits hg, hw, rd_plainWrite_open hgates hlisted hg.1 hsort hoff]
  · rw [ht]
    refine onlyRegs_trans ?_ (enabledIf_only _ hsort')
    exact hw ▸ plainWrite_only s en.reg i j 0 v false hsort hen.2.1 (List.mem_singleton_self _)

end Gates

/-! ## The spaces a partition may use, after a register of another block is written (02 R72, 05 R254, 08 R326) -/

section Spaces
variable {s : State} {r : Reg} {i j k : Nat}

theorem find?_kput_skipped {α : Type} {q : Nat × α → Bool} {a : Nat} (hq : ∀ x, q (a, x) = false) (v : α) (l : List (Nat × α)) :
    (kput a v l).find? q = l.find? q := by
  induction l with
  | nil => simp [kput, hq]
  | cons e l ih =>
    obtain ⟨b, x⟩ := e
    rw [kput]
    split_ifs with heq hlt
    · subst heq
      simp [hq]
    · simp [hq]
    · simp only [List.find?_cons, ih]

theorem find?_kdel_skipped {α : Type} {q : Nat × α → Bool} {a : Nat} (hq : ∀ x, q (a, x) = false) (l : List (Nat × α)) :
    (kdel a l).find? q = l.find? q := by
  induction l with
  | nil => rfl
  | cons e l ih =>
    obtain ⟨b, x⟩ := e
    rw [kdel]
    split_ifs with heq hlt
    · subst heq
      simp [hq]
    · rfl
    · simp only [List.find?_cons, ih]

/-- A register above the space table. -/
abbrev Reg.AboveSpaces (r : Reg) : Prop := XLT_SPACE_LO.reg.base + 4096 * 16 ≤ r.base

theorem spaceSlot_wrReg (hr : r.AboveSpaces) (v tag : Nat) : (s.wrReg r i j k v).spaceSlot tag = s.spaceSlot tag := by
  have hout : ¬ r.addr i j k < XLT_SPACE_LO.reg.base + 4096 * 16 := by rw [Reg.addr]; omega
  rw [State.spaceSlot, State.spaceSlot, State.wrReg]
  dsimp only
  rw [kset]
  split_ifs
  · rw [find?_kdel_skipped fun x => by simp [hout]]
  · rw [find?_kput_skipped fun x => by simp [hout]]

theorem spaceSlot_lt {tag sl : Nat} (h : s.spaceSlot tag = some sl) : sl < 4096 := by
  obtain ⟨e, hfind, rfl⟩ := Option.map_eq_some_iff.1 h
  have hin := List.find?_some hfind
  simp only [Bool.and_eq_true, decide_eq_true_eq] at hin
  omega

theorem ownSpace_wrReg (hsort : ksorted s.regs = true) (hr : r.AboveSpaces) (v p tag : Nat) :
    ownSpace (s.wrReg r i j k v) p tag = ownSpace s p tag := by
  rw [ownSpace, ownSpace, spaceSlot_wrReg hr]
  cases hslot : s.spaceSlot tag with
  | none => rfl
  | some sl =>
    have hlt := spaceSlot_lt hslot
    have hne : XLT_SPACE_LO.reg.addr sl 0 0 ≠ r.addr i j k := by
      have hbase : r.base ≤ r.addr i j k := by rw [Reg.addr]; omega
      have hspace : XLT_SPACE_LO.reg.addr sl 0 0 = XLT_SPACE_LO.reg.base + sl * 16 := rfl
      omega
    have hrd (f : Fld) (hf : f.reg = XLT_SPACE_LO.reg) : (s.wrReg r i j k v).rd f sl = s.rd f sl := by
      rw [State.rd, State.rd, hf, rdReg_wrReg_ne s r XLT_SPACE_LO.reg i j k sl 0 0 v hsort hne]
    simp only [State.on, hrd XLT_SPACE_LO.HOME_PART rfl, hrd XLT_SPACE_LO.JOINED rfl]

end Spaces

/-! ## PRT_COR_CTL (05 R254) -/

section Views
variable {s t : State} {p k v : Nat}

theorem viewOk_wr_enable (hsort : ksorted s.regs = true) (v : Nat) : viewOk (s.wr PRT_COR_CTL.EN v p k) p k = viewOk s p k := by
  have hown (tag : Nat) : ownSpace (s.wr PRT_COR_CTL.EN v p k) p tag = ownSpace s p tag := ownSpace_wrReg hsort (by decide) _ p tag
  have hspace : (s.wr PRT_COR_CTL.EN v p k).rd PRT_COR_STORE.SPACE p k = s.rd PRT_COR_STORE.SPACE p k :=
    rd_wr_ne s _ _ v p k 0 p k 0 hsort
      (by simp [Reg.addr, PRT_COR_CTL.EN, PRT_COR_STORE.SPACE, PRT_COR_CTL.reg, PRT_COR_STORE.reg])
  have hbeside (g : Fld) (hg : g.Beside PRT_COR_CTL.EN) := rd_wr_beside_at hsort (by decide) hg v p k
  rw [viewOk, viewOk, hspace, hown, hbeside PRT_COR_CTL.SFMT (by decide), hbeside PRT_COR_CTL.VFMT (by decide),
    hbeside PRT_COR_CTL.LEN (by decide)]

theorem rd_viewEnable_plainWrite (hsort : ksorted s.regs = true) (p k v : Nat) :
    (plainWrite s PRT_COR_CTL.reg p k 0 v).rd PRT_COR_CTL.EN p k = wrote PRT_COR_CTL.EN v :=
  rd_plainWrite_enable gates_COR_CTL (clr := .pool) (by decide +kernel) hsort p k v

theorem corCtlWrite_enable (hsort : ksorted s.regs = true) (hoff : s.on PRT_COR_CTL.EN p k = false) (hv : wrote PRT_COR_CTL.EN v = 1)
    (ht : t = plainWrite s PRT_COR_CTL.reg p k 0 v) : corCtlWrite s p k v = enabledIf (viewOk t p k) PRT_COR_CTL.EN p k t := by
  have hon : t.on PRT_COR_CTL.EN p k = true := on_of_rd_one (by rw [ht]; exact (rd_viewEnable_plainWrite hsort p k v).trans hv)
  cases hok : viewOk t p k <;> simp [corCtlWrite, ← ht, hoff, hon, hok, enabledIf]

theorem corCtlWrite_enable_spec (hsort : ksorted s.regs = true) (hoff : s.on PRT_COR_CTL.EN p k = false)
    (hv : wrote PRT_COR_CTL.EN v = 1) (ht : t = corCtlWrite s p k v) :
    t.rd PRT_COR_CTL.SFMT p k = wrote PRT_COR_CTL.SFMT v ∧ t.rd PRT_COR_CTL.VFMT p k = wrote PRT_COR_CTL.VFMT v ∧
      t.rd PRT_COR_CTL.LEN p k = wrote PRT_COR_CTL.LEN v ∧ t.on PRT_COR_CTL.EN p k = viewOk t p k ∧
      onlyRegs s t [PRT_COR_CTL.reg.addr p k 0] := by
  obtain ⟨hen, hset, honly⟩ := gatedEnable_spec (check := fun u => viewOk u p k) (clr := .pool) gates_COR_CTL (by decide +kernel)
    (by decide) (fun _ hsorted => viewOk_wr_enable hsorted 0) hsort hoff hv rfl (ht.trans (corCtlWrite_enable hsort hoff hv rfl))
  exact ⟨hset _ (by decide) (by decide +kernel), hset _ (by decide) (by decide +kernel), hset _ (by decide) (by decide +kernel),
    hen, honly⟩

theorem corCtlWrite_on (hon : s.on PRT_COR_CTL.EN p k = true) : corCtlWrite s p k v = plainWrite s PRT_COR_CTL.reg p k 0 v := by
  rw [corCtlWrite, hon]
  rfl

/-- A view that is on keeps its settings; EN alone takes the write. -/
theorem corCtlWrite_on_spec (hsort : ksorted s.regs = true) (hon : s.on PRT_COR_CTL.EN p k = true) (ht : t = corCtlWrite s p k v) :
    t.rd PRT_COR_CTL.EN p k = wrote PRT_COR_CTL.EN v ∧ t.rd PRT_COR_CTL.SFMT p k = s.rd PRT_COR_CTL.SFMT p k ∧
      t.rd PRT_COR_CTL.VFMT p k = s.rd PRT_COR_CTL.VFMT p k ∧ t.rd PRT_COR_CTL.LEN p k = s.rd PRT_COR_CTL.LEN p k ∧
      onlyRegs s t [PRT_COR_CTL.reg.addr p k 0] := by
  have hkept {f : Fld} (hf : f.Listed .rw .pool) (hreg : f.reg = PRT_COR_CTL.EN.reg) (hlo : f.lo ≠ PRT_COR_CTL.EN.lo) :=
    rd_plainWrite_shut gates_COR_CTL hf hreg hlo hsort hon v
  rw [ht, corCtlWrite_on hon]
  exact ⟨rd_viewEnable_plainWrite hsort p k v, hkept (f := PRT_COR_CTL.SFMT) (by decide +kernel) rfl (by decide),
    hkept (f := PRT_COR_CTL.VFMT) (by decide +kernel) rfl (by decide), hkept (f := PRT_COR_CTL.LEN) (by decide +kernel) rfl (by decide),
    plainWrite_only s _ _ _ _ _ false hsort (by decide +kernel) (List.mem_singleton_self _)⟩

end Views

/-! ## PRT_RGN_CFG (08 R326) -/

section Regions
variable {s t : State} {p g v : Nat}

theorem regionOk_wr_enable (hsort : ksorted s.regs = true) (v : Nat) : regionOk (s.wr PRT_RGN_CFG.EN v p g) p g = regionOk s p g := by
  have hown (tag : Nat) : ownSpace (s.wr PRT_RGN_CFG.EN v p g) p tag = ownSpace s p tag := ownSpace_wrReg hsort (by decide) _ p tag
  have hbeside (f : Fld) (hf : f.Beside PRT_RGN_CFG.EN) := rd_wr_beside_at hsort (by decide) hf v p g
  rw [regionOk, regionOk, hown, hbeside PRT_RGN_CFG.SPACE (by decide), hbeside PRT_RGN_CFG.SLOT_G (by decide),
    hbeside PRT_RGN_CFG.WIN_G (by decide)]

theorem rd_regionEnable_plainWrite (hsort : ksorted s.regs = true) (p g v : Nat) :
    (plainWrite s PRT_RGN_CFG.reg p g 0 v).rd PRT_RGN_CFG.EN p g = wrote PRT_RGN_CFG.EN v :=
  rd_plainWrite_enable gates_RGN_CFG (clr := .pool) (by decide +kernel) hsort p g v

theorem rgnCfgWrite_enable (hsort : ksorted s.regs = true) (hoff : s.on PRT_RGN_CFG.EN p g = false) (hv : wrote PRT_RGN_CFG.EN v = 1)
    (ht : t = plainWrite s PRT_RGN_CFG.reg p g 0 v) : rgnCfgWrite s p g v = enabledIf (regionOk t p g) PRT_RGN_CFG.EN p g t := by
  have hon : t.on PRT_RGN_CFG.EN p g = true := on_of_rd_one (by rw [ht]; exact (rd_regionEnable_plainWrite hsort p g v).trans hv)
  cases hok : regionOk t p g <;> simp [rgnCfgWrite, ← ht, hoff, hon, hok, enabledIf]

theorem rgnCfgWrite_enable_spec (hsort : ksorted s.regs = true) (hoff : s.on PRT_RGN_CFG.EN p g = false)
    (hv : wrote PRT_RGN_CFG.EN v = 1) (ht : t = rgnCfgWrite s p g v) :
    t.rd PRT_RGN_CFG.SPACE p g = wrote PRT_RGN_CFG.SPACE v ∧ t.rd PRT_RGN_CFG.WIN_G p g = wrote PRT_RGN_CFG.WIN_G v ∧
      t.rd PRT_RGN_CFG.SLOT_G p g = wrote PRT_RGN_CFG.SLOT_G v ∧ t.on PRT_RGN_CFG.EN p g = regionOk t p g ∧
      onlyRegs s t [PRT_RGN_CFG.reg.addr p g 0] := by
  obtain ⟨hen, hset, honly⟩ := gatedEnable_spec (check := fun u => regionOk u p g) (clr := .pool) gates_RGN_CFG (by decide +kernel)
    (by decide) (fun _ hsorted => regionOk_wr_enable hsorted 0) hsort hoff hv rfl (ht.trans (rgnCfgWrite_enable hsort hoff hv rfl))
  exact ⟨hset _ (by decide) (by decide +kernel), hset _ (by decide) (by decide +kernel), hset _ (by decide) (by decide +kernel),
    hen, honly⟩

/-- A region that is on and not idle stays on; EN is put back. -/
theorem rgnCfgWrite_retire (hsort : ksorted s.regs = true) (hon : s.on PRT_RGN_CFG.EN p g = true) (hv : wrote PRT_RGN_CFG.EN v = 0)
    (ht : t = plainWrite s PRT_RGN_CFG.reg p g 0 v) :
    rgnCfgWrite s p g v = if regionIdle s p g then t else t.wr PRT_RGN_CFG.EN 1 p g := by
  have hoff : t.on PRT_RGN_CFG.EN p g = false :=
    on_of_rd_zero (by rw [ht]; exact (rd_regionEnable_plainWrite hsort p g v).trans hv)
  cases hidle : regionIdle s p g <;> simp [rgnCfgWrite, ← ht, hon, hoff, hidle]

theorem rgnCfgWrite_retire_spec (hsort : ksorted s.regs = true) (hon : s.on PRT_RGN_CFG.EN p g = true)
    (hv : wrote PRT_RGN_CFG.EN v = 0) (ht : t = rgnCfgWrite s p g v) :
    t.on PRT_RGN_CFG.EN p g = !regionIdle s p g ∧ onlyRegs s t [PRT_RGN_CFG.reg.addr p g 0] := by
  have honly := plainWrite_only s PRT_RGN_CFG.reg p g 0 v false hsort (by decide +kernel) (List.mem_singleton_self _)
  have hsort' := plainWrite_sorted s PRT_RGN_CFG.reg p g 0 v false hsort
  rw [rgnCfgWrite_retire hsort hon hv rfl] at ht
  cases hidle : regionIdle s p g
  case true =>
    rw [hidle, if_pos rfl] at ht
    rw [ht]
    exact ⟨on_of_rd_zero ((rd_regionEnable_plainWrite hsort p g v).trans hv), honly⟩
  case false =>
    rw [hidle, if_neg Bool.false_ne_true] at ht
    rw [ht]
    exact ⟨on_of_rd_one (rd_wr_self_at hsort' (by decide) (by decide) p g),
      onlyRegs_trans honly (onlyRegs_wr _ _ _ _ _ _ hsort' (List.mem_singleton_self _))⟩

end Regions

/-! ## The commands -/

section Execs
variable {s : State}

theorem exec_prtSrSeedWrite (hopen : pf0Open s = true) (p : Part) (v : Word) :
    exec (.prtSrSeedWrite p v) s = .next (seedWrite s p v.toNat) := congrArg Host.Outcome.next (atPf0_open _ hopen)

theorem exec_arithDescClr (hopen : pf0Open s = true) (p : Part) (v : Word) :
    exec (.arithDescClr p v) s = .next (arithStatWrite s p v.toNat) := congrArg Host.Outcome.next (atPf0_open _ hopen)

theorem exec_prtCorEnWrite (hopen : pf0Open s = true) (p : Part) (k : Fin 16) (v : Word) :
    exec (.prtCorEnWrite p k v) s = .next (corCtlWrite s p k v.toNat) := congrArg Host.Outcome.next (atPf0_open _ hopen)

theorem exec_prtRgnEnWrite (hopen : pf0Open s = true) (p : Part) (g : Fin 1024) (v : Word) :
    exec (.prtRgnEnWrite p g v) s = .next (rgnCfgWrite s p g v.toNat) := congrArg Host.Outcome.next (atPf0_open _ hopen)

end Execs

/-- Settles O13: while PF0 answers, each command is its register's write function, and the lemma about that function says what it does. -/
theorem partitionRegisterWrites : Obligations.PartitionRegisterWrites := by
  intro s p k g v hsort hopen
  refine ⟨⟨_, exec_prtSrSeedWrite hopen p v, ?seed⟩, ⟨_, exec_arithDescClr hopen p v, arithStatWrite_spec hsort p rfl⟩,
    fun hoff hv => ⟨_, exec_prtCorEnWrite hopen p k v, corCtlWrite_enable_spec hsort hoff hv rfl⟩,
    fun hon => ⟨_, exec_prtCorEnWrite hopen p k v, corCtlWrite_on_spec hsort hon rfl⟩,
    fun hoff hv => ⟨_, exec_prtRgnEnWrite hopen p g v, rgnCfgWrite_enable_spec hsort hoff hv rfl⟩,
    fun hon hv => ⟨_, exec_prtRgnEnWrite hopen p g v, rgnCfgWrite_retire_spec hsort hon hv rfl⟩⟩
  case seed =>
    obtain ⟨hregs, hframe, hkept⟩ := seedWrite_frame (v := v.toNat) hsort p rfl
    exact ⟨(rd_of_regs hregs _ _ _ _).trans (rd_seed_plainWrite hsort p v), hframe, hkept,
      fun hv hcells sl hsl c hc => cellAt_seedWrite hsort hcells p hv rfl hsl hc⟩

end Sys2Proof.Machine
end

section
/-!
PROOFS for 06_pool_programs.md: how a program load starts and ends and what CLEAR of a slot does, what ends an invocation, a
contribution set and an issuer access, and what the reads of the control plane come to. Each part says once what the model's
functions do in each case, and ends with the statement it settles.
-/
namespace Sys2Proof.Machine

/-! ## Loading and clearing a program slot (06 R280 to R283, R292) -/

section Slots
variable {s t u : State} {p v slot : Nat}

/-- A write of PRT_PROG_LOAD with GO and without CLEAR stores the fields, then starts the load. -/
theorem progLoadWrite_go (hgo : wrote PRT_PROG_LOAD.GO v = 1) (hclear : wrote PRT_PROG_LOAD.CLEAR v = 0) :
    progLoadWrite s p v = loadGo (plainWrite s PRT_PROG_LOAD.reg p 0 0 v) p := by
  simp only [progLoadWrite, hgo, hclear, if_true, one_ne_zero, if_false]

/-- A write of PRT_PROG_LOAD with CLEAR and without GO stores the fields, then clears the slot. -/
theorem progLoadWrite_clear (hgo : wrote PRT_PROG_LOAD.GO v = 0) (hclear : wrote PRT_PROG_LOAD.CLEAR v = 1) :
    progLoadWrite s p v = progClear (plainWrite s PRT_PROG_LOAD.reg p 0 0 v) p := by
  simp only [progLoadWrite, hgo, hclear, if_true, one_ne_zero, if_false]

/-- GO lists the load of an idle slot, with the source that PRT_PROG_SRC names, and shows LOADING. -/
theorem loadGo_starts (hidle : s.rd PRT_PROG_STAT.STATE p ≠ 1) (hfree : slotBusy s p (s.rd PRT_PROG_LOAD.SLOT p) = false) :
    loadGo s p = progStat { s with
        loads := kput p ⟨s.rd PRT_PROG_LOAD.SLOT p, s.rd PRT_PROG_SRC.ADDR p, s.rd PRT_PROG_SRC.SPACE p, .run, 0⟩ s.loads }
      p 1 0 0 (s.rd PRT_PROG_LOAD.SLOT p) := by
  simp only [loadGo, if_neg hidle, hfree, Bool.false_eq_true, if_false]

/-- CLEAR takes the program of an idle slot away. -/
theorem progClear_empties (hidle : s.rd PRT_PROG_STAT.STATE p ≠ 1) (hfree : slotBusy s p (s.rd PRT_PROG_LOAD.SLOT p) = false) :
    progClear s p = progStat (setProgValid { s with progs := kdel (progKey p (s.rd PRT_PROG_LOAD.SLOT p)) s.progs }
      p (s.rd PRT_PROG_LOAD.SLOT p) 0) p 0 0 0 (s.rd PRT_PROG_LOAD.SLOT p) := by
  simp only [progClear, if_neg hidle, hfree, Bool.false_eq_true, if_false]

/-- An image that passes the checks becomes the slot's program. -/
theorem loadTake_valid {n j : Nat} {bs : List Byte} (hvalid : imageCheck (bytesToWords (8 + 2 * n) bs) = (0, j)) :
    loadTake s p slot n bs = loadEnd (setProgValid
      { s with progs := kput (progKey p slot) (bytesToWords (8 + 2 * n) bs) s.progs } p slot 1) p slot 2 0 0 := by
  simp only [loadTake, hvalid]

/-- A load that can go on, and whose header and body are read whole, hands its image to the checks. -/
theorem loadRun_reads {l : Load} {h bs : List Byte} (hload : kget p s.loads = some l) (hrun : l.wait = .run)
    (hhead : readImage s p l.space l.addr 1 [] = (t, .ok h))
    (hbody : readImage t p l.space (l.addr + 64) (ceilDiv (fld (leNat (h.take 8)) 24 7) 4) h = (u, .ok bs)) :
    loadRun s p = loadTake u p l.slot (fld (leNat (h.take 8)) 24 7) bs := by
  have hover : ¬¬waitOver .run := by decide
  simp only [loadRun, hload, hrun, if_neg hover, hhead, hbody]

end Slots

section SlotCommands
variable {s : State} {p : Part} {v : Word}

theorem exec_progLoadGo (hopen : pf0Open s = true) : exec (.progLoadGo p v) s = .next (progLoadWrite s p v.toNat) :=
  congrArg Host.Outcome.next (atPf0_open _ hopen)

theorem exec_progClear (hopen : pf0Open s = true) : exec (.progClear p v) s = .next (progLoadWrite s p v.toNat) :=
  congrArg Host.Outcome.next (atPf0_open _ hopen)

theorem exec_progImageReadDone (p : Part) (s : State) : exec (.progImageReadDone p) s = .next (loadRun s p) := rfl

end SlotCommands

/-- Settles O14: GO and CLEAR are writes of PRT_PROG_LOAD that act on an idle slot, and an image read whole is checked and
taken. -/
theorem programLoadsAndClears : Obligations.ProgramLoadsAndClears := by
  intro s p v
  refine ⟨?go, ?clear, ?image⟩
  case go =>
    rintro hopen - hgo hclear t rfl hidle hfree l rfl
    rw [exec_progLoadGo hopen, progLoadWrite_go hgo hclear, loadGo_starts hidle hfree]
  case clear =>
    rintro hopen hgo hclear t rfl hidle hfree
    rw [exec_progClear hopen, progLoadWrite_clear hgo hclear, progClear_empties hidle hfree]
  case image =>
    rintro l t u h bs n j hload hrun hhead rfl hbody hvalid x rfl
    rw [exec_progImageReadDone, loadRun_reads hload hrun hhead hbody, loadTake_valid hvalid]

/-! ## The ends of invocations, contribution sets and issuer accesses (03 R669, 06 R285, R289, R293, 07 R307, R311, R313) -/

section InvocEnds
variable {s : State} {r : Ring} {d : Nat} {x : Started} {v : Invoc}

/-- The end of the tiles takes an invocation that is in its tiles on, and no other. -/
theorem exec_programTilesDone (hfind : findStarted s r d = some x) (hinv : getInvoc s x = some v) :
    exec (.programTilesDone r d) s = if v.phase = 2 then
      .next (pump (dRun workStep runFuel (setInvoc s x { v with phase := 3 }) { x with wait := .run })) else .next s := by
  show execProgramTilesDone r d s = _
  simp only [execProgramTilesDone, hfind, hinv]

/-- RUN_TMO stops an invocation that runs, if it has a limit. -/
theorem exec_progRunTmoExpiry (hfind : findStarted s r d = some x) (hinv : getInvoc s x = some v) :
    exec (.progRunTmoExpiry r d) s = if s.rd PRT_PROG_CFG.RUN_TMO v.part ≠ 0 ∧ (v.phase = 1 ∨ v.phase = 2) then
      .next (pump (invocStop s x v)) else .next s := by
  show execProgRunTmoExpiry r d s = _
  simp only [execProgRunTmoExpiry, hfind, hinv]

end InvocEnds

section SetEnds
variable {s : State} {obj : Nat} {x : SetX}

theorem exec_armSetListReadDone (obj : Nat) (s : State) : exec (.armSetListReadDone obj) s = .next (pump (armListDone s obj)) := rfl

theorem exec_setResultWritten (obj : Nat) (s : State) : exec (.setResultWritten obj) s = .next (pump (completeSet s obj)) := rfl

/-- The timer of a set ends it while it is open. -/
theorem exec_setTimerExpiry (hset : kget obj s.sets = some x) : exec (.setTimerExpiry obj) s =
    .next (if oState (objW1 s obj) = 0 then pump (endSet s obj 3 true true) else s) := by
  show execSetTimerExpiry obj s = _
  simp only [execSetTimerExpiry, hset]

theorem exec_setTimerExpiry_none (hnone : kget obj s.sets = none) : exec (.setTimerExpiry obj) s = .next s := by
  show execSetTimerExpiry obj s = _
  simp only [execSetTimerExpiry, hnone]

end SetEnds

section IssuerEnds
variable {s : State} {r : Ring} {d : Nat} {x : Started}

/-- The issuer accesses of a descriptor are no longer awaited. -/
def forgetIssuer (s : State) (r d : Nat) : State :=
  { s with xrd := { s.xrd with own := s.xrd.own.filter fun q => !(q.ring == r && q.idx == d &&
    (q.kind == .issuerRd || q.kind == .issuerWr)) } }

/-- An issuer access of a COPY that awaits one has run into FETCH_TMO, whichever side its ring lies on. -/
theorem exec_issuerAccessDone_tmo (hfind : findStarted s r d = some x) (hcopy : dOpc x.words = 0x01) (hwait : x.wait = .ext) :
    exec (.issuerAccessDone r d .tmo) s = .next (pump (finishDesc (forgetIssuer s r d) x 0x0D 0 x.prog)) := by
  show execIssuerAccessDone r d .tmo s = _
  simp only [execIssuerAccessDone, hfind, hcopy, hwait, ne_eq, not_true_eq_false, or_self, if_false]
  rfl

variable (hfind : findStarted s r d = some x) (hcopy : dOpc x.words = 0x01) (hwait : x.wait = .ext) (hhost : ringLoc1 s r = false)
include hfind hcopy hwait hhost

/-- A line read from a host's memory is what the COPY goes on with. -/
theorem exec_issuerAccessDone_data {bs : List Byte} (hbuf : x.buf = []) (hlen : bs.length = 64) :
    exec (.issuerAccessDone r d (.data bs)) s = .next (pump (setStarted s { x with buf := bs, wait := .run })) := by
  have hline : (bs ++ List.replicate 64 0).take 64 = bs := List.take_left' hlen
  show execIssuerAccessDone r d (.data bs) s = _
  simp only [execIssuerAccessDone, hfind, hcopy, hwait, hhost, hbuf, hline, ne_eq, not_true_eq_false, or_self, Bool.false_eq_true,
    if_false]

/-- A poisoned line lets the COPY go on as one that ends poisoned. -/
theorem exec_issuerAccessDone_poison (hbuf : x.buf = []) :
    exec (.issuerAccessDone r d .poison) s = .next (pump (setStarted s { x with bad := true, wait := .run })) := by
  show execIssuerAccessDone r d .poison s = _
  simp only [execIssuerAccessDone, hfind, hcopy, hwait, hhost, hbuf, ne_eq, not_true_eq_false, or_self, Bool.false_eq_true, if_false]

theorem exec_issuerAccessDone_err : exec (.issuerAccessDone r d .err) s = .next (pump (finishDesc s x 0x03 0 x.prog)) := by
  show execIssuerAccessDone r d .err s = _
  simp only [execIssuerAccessDone, hfind, hcopy, hwait, hhost, ne_eq, not_true_eq_false, or_self, Bool.false_eq_true, if_false]

end IssuerEnds

/-- Settles O33: an invocation's phase and limit choose what its ends do, a set's state what its timer does, and the result of an
issuer access how its COPY goes on. -/
theorem programsSetsAndIssuerAccesses : Obligations.ProgramsSetsAndIssuerAccesses := by
  intro s r d
  refine ⟨?invocation, ?set, ?issuer⟩
  case invocation =>
    intro x v hfind hinv
    rw [exec_programTilesDone hfind hinv, exec_progRunTmoExpiry hfind hinv]
    exact ⟨fun htiles => if_pos htiles, fun hnot => if_neg hnot, fun hlimit hruns => if_pos ⟨hlimit, hruns⟩,
      fun h1 h2 => if_neg fun h => h.2.elim h1 h2, fun hno => if_neg fun h => h.1 hno⟩
  case set =>
    intro obj
    exact ⟨exec_armSetListReadDone obj s, exec_setResultWritten obj s,
      fun x hset hopen => by rw [exec_setTimerExpiry hset, if_pos hopen], exec_setTimerExpiry_none⟩
  case issuer =>
    intro x hfind hcopy hwait hhost
    exact ⟨fun bs => exec_issuerAccessDone_data hfind hcopy hwait hhost, exec_issuerAccessDone_poison hfind hcopy hwait hhost,
      exec_issuerAccessDone_err hfind hcopy hwait hhost, forgetIssuer s r d, exec_issuerAccessDone_tmo hfind hcopy hwait, rfl, rfl, rfl⟩

/-! ## The reads of the control plane, and what waits for a drain (02 R93, 08 R333, 11 R441, 14 R531, 17 R616, R621) -/

section ControlReads
variable {s : State} {r d : Nat} {x : Started} {blob img : Option (List Byte)}

theorem exec_keyBlobReadDone (r : Ring) (d : Nat) (blob : Option (List Byte)) (s : State) :
    exec (.keyBlobReadDone r d blob) s = .next (commitOr s (.blob r d blob)) := rfl

theorem exec_routeImageReadDone (r : Ring) (d : Nat) (img : Option (List Byte)) (s : State) :
    exec (.routeImageReadDone r d img) s = .next (commitOr s (.image r d img)) := rfl

/-- The blob that a KEY_LOAD asked for is looked at. -/
theorem keyBlobRead_keyLoad (hfind : findStarted s r d = some x) (hload : dOpc x.words = 0x40) :
    keyBlobRead s r d blob = pump (blobDone s x blob) := by
  simp only [keyBlobRead, hfind, if_pos hload]

/-- The image that a ROUTE_STAGE asked for is looked at. -/
theorem routeImageRead_routeStage (hfind : findStarted s r d = some x) (hstage : dOpc x.words = 0x41) :
    routeImageRead s r d img = pump (stageDone s x img) := by
  simp only [routeImageRead, hfind, if_pos hstage]

/-- The key of a blob that unwraps is installed: a memory key, while its partition has no extent. -/
theorem blobDone_installs {key : List Byte} (hkey : blob.bind (unwrapBlob s x.words) = some key)
    (hunused : klKind x.words = 1 → s.rd PRT_EXT_USED.EXTENTS (klPart x.words) = 0) :
    blobDone s x blob = finishDesc (installKey s x.words key) x 0 0 0 := by
  simp only [blobDone, hkey]
  exact if_neg fun h => h.2 (hunused h.1)

/-- A blob that does not unwrap, or that was not read, ends the descriptor. -/
theorem blobDone_fails (hnone : blob.bind (unwrapBlob s x.words) = none) : blobDone s x blob = finishDesc s x 0x1B 0 0 := by
  simp only [blobDone, hnone]

/-- An image of unicast entries that was read whole is staged. -/
theorem stageDone_whole {bs : List Byte} (hunicast : rsCount x.words ≠ 0) (hlen : bs.length = 4 * rsCount x.words) :
    stageDone s x (some bs) = finishDesc (stageImage s x.words (nthB bs)) x 0 0 0 := by
  simp only [stageDone, if_neg hunicast, if_pos hlen]

end ControlReads

section Drains
variable {s : State}

/-- A version is released once each extent of it that is still listed is SCRUBBING. -/
theorem exec_versionReleaseDone {p : Part} {region version : Nat} {v : VerRel}
    (hfind : s.verRels.find? (fun v => v.part == p.val && v.region == region && v.num == version) = some v)
    (hscrub : ∀ b ∈ v.exts, ∀ e, s.ext b = some e → e.st = .scrubbing) :
    exec (.versionReleaseDone p region version) s = .next (pump (verReleased s v)) := by
  show execVersionReleaseDone p region version s = _
  simp only [execVersionReleaseDone, hfind]
  rw [if_pos]
  refine List.all_eq_true.2 fun b hb => ?_
  cases hext : s.ext b with
  | none => rfl
  | some e => exact beq_iff_eq.2 (hscrub b hb e hext)

/-- SPACE_INVAL ends once no access that it listed is in flight. -/
theorem exec_spaceInvalDrained {r : Ring} {d : Nat} {x : Started} (hfind : findStarted s r d = some x) (hinval : dOpc x.words = 0x30)
    (hdrained : ∀ k ∈ x.aux, k ∉ inFlight s (dSpace x.words)) :
    exec (.spaceInvalDrained r d) s = .next (pump (finishDesc s x 0 0 0)) := by
  have hnone : (inFlight s (dSpace x.words)).all (fun k => !x.aux.contains k) = true :=
    List.all_eq_true.2 fun k hk => by simpa using fun haux => hdrained k haux hk
  show execSpaceInvalDrained r d s = _
  simp only [execSpaceInvalDrained, hfind, if_pos (And.intro hinval hnone)]

end Drains

/-- Settles O31: each read commits, where it may, as what its descriptor makes of it, and waits in the log where it may not; the
two drains end what waited for them. -/
theorem readsForTheControlPlane : Obligations.ReadsForTheControlPlane := by
  intro s r d x hfind
  refine ⟨fun blob key hfree hload hkey hunused => ?_, fun blob hfree hload hnone => ?_, fun bs hfree hstage hunicast hlen => ?_,
    fun blob img hlog => ⟨?_, ?_⟩, fun p region version v => exec_versionReleaseDone, exec_spaceInvalDrained hfind⟩
  · rw [exec_keyBlobReadDone, commitOr_free _ hfree, applyEnt, keyBlobRead_keyLoad hfind hload, blobDone_installs hkey hunused]
  · rw [exec_keyBlobReadDone, commitOr_free _ hfree, applyEnt, keyBlobRead_keyLoad hfind hload, blobDone_fails hnone]
  · rw [exec_routeImageReadDone, commitOr_free _ hfree, applyEnt, routeImageRead_routeStage hfind hstage,
      stageDone_whole hunicast hlen]
  · rw [exec_keyBlobReadDone, commitOr_logged _ hlog]
  · rw [exec_routeImageReadDone, commitOr_logged _ hlog]

end Sys2Proof.Machine
end

section
/-!
PROOFS for 07_collectives_and_sync_objects.md: what each SOP does to its object, and how a SOP comes from a descriptor or from a
packet. Each part says once what the model's functions do in each case, and ends with the statement it settles.
-/
namespace Sys2Proof.Machine

/-! ## Operations on an object (07 R299, R300) -/

section Sops
variable {s : State} {o v a b ty : Nat} {out : State × Nat}

/-- What an operation that applies to objects of one type comes to: on any other it ends with "not found". -/
def onType (s : State) (o ty : Nat) (out : State × Nat) : State × Nat := if oType (objW1 s o) ≠ ty then (s, 0x14) else out

theorem onType_same (h : oType (objW1 s o) = ty) : onType s o ty out = out := if_neg (not_not.2 h)

theorem onType_other (h : oType (objW1 s o) ≠ ty) : onType s o ty out = (s, 0x14) := if_pos h

/-- Word 0 of an object is replaced, and its waits look at it again. -/
def valueSet (s : State) (o v : Nat) : State × Nat := (wakeWaits (setObj s o v (objW1 s o)) o false, 0)

/-- Both words of an object are written, unless it is an open set, and its waits end. -/
def objInit (s : State) (o a b : Nat) : State × Nat :=
  if oOpen (objW1 s o) then (s, 0x15) else (wakeWaits (setObj s o a b) o true, 0)

theorem objInit_closed (h : oOpen (objW1 s o) = false) : objInit s o a b = (wakeWaits (setObj s o a b) o true, 0) :=
  if_neg (by simp [h])

theorem objInit_open (h : oOpen (objW1 s o) = true) : objInit s o a b = (s, 0x15) := if_pos h

theorem sopApply_initCounter (s : State) (o v : Nat) : sopApply s o 0x01 v = objInit s o v 1 := rfl

theorem sopApply_initSem (s : State) (o v : Nat) : sopApply s o 0x02 v = objInit s o v 3 := rfl

theorem sopApply_initBarrier (s : State) (o v : Nat) : sopApply s o 0x03 v =
    if v % 2 ^ 16 = 0 ∨ 32768 < v % 2 ^ 16 then (s, 0x09)
    else objInit s o 0 (2 + fld v 16 1 * 2 ^ 8 + v % 2 ^ 16 * 2 ^ 16) := rfl

theorem sopApply_free (s : State) (o v : Nat) : sopApply s o 0x05 v = objInit s o 0 0 := rfl

theorem sopApply_add (s : State) (o v : Nat) : sopApply s o 0x08 v = onType s o 1 (valueSet s o ((objW0 s o + v) % 2 ^ 64)) := rfl

theorem sopApply_store (s : State) (o v : Nat) : sopApply s o 0x09 v = onType s o 1 (valueSet s o v) := rfl

theorem sopApply_storeLo (s : State) (o v : Nat) : sopApply s o 0x0A v =
    onType s o 1 (valueSet s o (objW0 s o / 2 ^ 32 * 2 ^ 32 + v % 2 ^ 32)) := rfl

theorem sopApply_max (s : State) (o v : Nat) : sopApply s o 0x0B v = onType s o 1 (valueSet s o (max (objW0 s o) v)) := rfl

theorem sopApply_arrive_other (h : oType (objW1 s o) ≠ 2) : sopApply s o 0x10 v = (s, 0x14) := if_pos h

/-- An ARRIVE that leaves a barrier below its EXPECT. -/
theorem sopApply_arrive_below (htype : oType (objW1 s o) = 2) (hbelow : objW0 s o % 2 ^ 32 + 1 ≠ oExpect (objW1 s o)) :
    sopApply s o 0x10 v = valueSet s o (objW0 s o % 2 ^ 32 + 1) := (if_neg (not_not.2 htype)).trans (if_neg hbelow)

theorem sopApply_post (s : State) (o v : Nat) : sopApply s o 0x18 v =
    onType s o 3 (valueSet s o (min (objW0 s o + v % 2 ^ 32) (2 ^ 64 - 1))) := rfl

theorem sopApply_take (s : State) (o v : Nat) : sopApply s o 0x19 v =
    onType s o 3 (if v % 2 ^ 32 ≤ objW0 s o then valueSet s o (objW0 s o - v % 2 ^ 32) else (s, 0x15)) := rfl

theorem sopApply_cancel (s : State) (o v : Nat) : sopApply s o 0x20 v = onType s o 4
    (if oState (objW1 s o) = 1 then (s, 0x15) else if oState (objW1 s o) = 0 then (endSet s o 5 true true, 0) else (s, 0x14)) := rfl

end Sops

/-- Settles O34: an operation is judged by its object's type and an INIT or FREE by whether its object is an open set, as the
equation of each SOP above says. -/
theorem syncOperations : Obligations.SyncOperations := by
  rintro s o v _ _ rfl rfl
  refine ⟨fun hcounter => ?_, fun hother => ?_, sopApply_arrive_below, sopApply_arrive_other,
    fun hsem => ⟨?_, fun henough => ?_, fun hshort => ?_⟩, fun hother => ⟨?_, ?_⟩,
    fun hclosed => ⟨?_, ?_, ?_, fun hlow hhigh => ?_⟩, fun hopen => ?_, fun hbad => ?_,
    fun hset hstate => ?_, fun hset hstate => ?_, fun hother => ?_⟩
  · rw [sopApply_add, sopApply_store, sopApply_storeLo, sopApply_max]
    simp only [onType_same hcounter, valueSet, and_self]
  · simp only [List.forall_mem_cons, sopApply_add, sopApply_store, sopApply_storeLo, sopApply_max, onType_other hother, true_and]
    exact List.forall_mem_nil _
  · rw [sopApply_post, onType_same hsem, valueSet]
  · rw [sopApply_take, onType_same hsem, if_pos henough, valueSet]
  · rw [sopApply_take, onType_same hsem, if_neg (Nat.not_le.2 hshort)]
  · rw [sopApply_post, onType_other hother]
  · rw [sopApply_take, onType_other hother]
  · rw [sopApply_initCounter, objInit_closed hclosed]
  · rw [sopApply_initSem, objInit_closed hclosed]
  · rw [sopApply_free, objInit_closed hclosed]
  · rw [sopApply_initBarrier, if_neg (by omega), objInit_closed hclosed]
  · simp only [List.forall_mem_cons, sopApply_initCounter, sopApply_initSem, sopApply_free, objInit_open hopen, true_and]
    exact List.forall_mem_nil _
  · rw [sopApply_initBarrier, if_pos hbad]
  · rw [sopApply_cancel, onType_same hset, if_neg (by omega), if_pos hstate]
  · rw [sopApply_cancel, onType_same hset, if_pos hstate]
  · rw [sopApply_cancel, onType_other hother]

/-! ## Where a SOP comes from (07 R294, R299, R301) -/

section SopCommands
variable {s : State} {r d sop : Nat} {kind : List Word → Bool} {ws : List Word} {port : Port} {p : Pkt} {call : SyncCall} {c : Instr}

theorem descCheck_of_startable (h : startable s r d kind = some ws) : descCheck s r ws = 0 := by
  rw [startable] at h
  split at h
  · split at h
    · next hready =>
      obtain ⟨-, -, hcheck, -⟩ := hready
      cases h
      exact hcheck
    · cases h
  · cases h

/-- A descriptor that passes the checks has listed codes (03 R157 check 3). -/
theorem codesOk_of_descCheck (h : descCheck s r ws = 0) : codesOk ws = true := by
  by_contra hbad
  simp only [descCheck, hbad] at h
  split at h
  · cases h
  · split at h <;> cases h

/-- A SYNC_SET with listed codes carries a SOP that has a descriptor form. -/
theorem sopD_of_codesOk (hkind : isSub 0x18 16 8 sop ws = true) (hcodes : codesOk ws = true) : sopD sop = true := by
  obtain ⟨hopc, hsop⟩ : dOpc ws = 0x18 ∧ dOp ws 0 16 8 = sop := by simpa [isSub] using hkind
  simpa [codesOk, hopc, hsop] using hcodes

theorem sopD_of_startable (h : startable s r d (isSub 0x18 16 8 sop) = some ws) : sopD sop = true :=
  sopD_of_codesOk (kind_of_startable h) (codesOk_of_descCheck (descCheck_of_startable h))

/-- A packet of the command's kind is received, and whatever can go on goes on. -/
theorem packetIn_received (s : State) (port : Port) (p : Pkt) : packetIn s port p true = pump (receive s port p) := if_pos rfl

/-- A command does nothing with a packet of another kind. -/
theorem packetIn_other (s : State) (port : Port) (p : Pkt) : packetIn s port p false = s := if_neg Bool.false_ne_true

theorem syncCmd_pkt_same (h : pktSop s port p = some sop) : syncCmd s (.pkt port p) sop = pump (receive s port p) := by
  rw [syncCmd, beq_iff_eq.2 h, packetIn_received]

theorem syncCmd_pkt_other (h : pktSop s port p ≠ some sop) : syncCmd s (.pkt port p) sop = s := by
  rw [syncCmd, beq_eq_false_iff_ne.2 h, packetIn_other]

/-- The commands of the SOPs, each with its code (07 R299). -/
def sopCommands (call : SyncCall) : List (Instr × Nat) :=
  [(.sopRead call, 0x00), (.initCounter call, 0x01), (.initSem call, 0x02), (.initBarrier call, 0x03), (.armSet call, 0x04),
    (.sopFree call, 0x05), (.sopAdd call, 0x08), (.store call, 0x09), (.storeLo call, 0x0A), (.sopMax call, 0x0B),
    (.arrive call, 0x10), (.post call, 0x18), (.take call, 0x19), (.cancel call, 0x20)]

theorem exec_sopCommand (h : (c, sop) ∈ sopCommands call) : exec c s = .next (syncCmd s call sop) := by
  refine (?_ : ∀ e ∈ sopCommands call, exec e.1 s = .next (syncCmd s call e.2)) _ h
  simp only [sopCommands, List.forall_mem_cons]
  exact ⟨rfl, rfl, rfl, rfl, rfl, rfl, rfl, rfl, rfl, rfl, rfl, rfl, rfl, rfl, List.forall_mem_nil _⟩

end SopCommands

/-- Settles O35: every SOP command is `syncCmd` with its code, which starts a descriptor or receives a packet; the checks on a
descriptor admit no SOP that SYNC_SET may not carry. -/
theorem syncCommands : Obligations.SyncCommands := by
  intro s call c sop hmem
  rw [exec_sopCommand hmem]
  refine ⟨?_, ?_⟩
  · rintro r d _ ws rfl rfl
    refine ⟨fun hready => ?_, fun hnone => ?_⟩
    · have hsop : sopD sop = true := sopD_of_startable hready
      refine ⟨by rw [syncCmd, startDesc_ready hready], ?_, ?_⟩ <;>
      · rintro rfl
        exact absurd hsop (by decide)
    · rw [syncCmd, startDesc_unready hnone]
  · rintro port p rfl
    exact ⟨fun hsame => by rw [syncCmd_pkt_same hsame], fun hother => by rw [syncCmd_pkt_other hother]⟩

end Sys2Proof.Machine
end

section
/-!
PROOFS for 09_coherent_domains.md: what a member's request for a shared copy opens at the home, whom a transaction waits for when
SNOOP_TMO runs out, and what the end of a reservation leaves. Each part says once what the model's functions do in each case; the
statement that they settle stands at the end.
-/
namespace Sys2Proof.Machine

section Coherence
variable {s : State} {key agent port a w : Nat} {e : DirEnt} {tx : CohTx} {k : Pkt}

/-! ## A request for a shared copy (09 R359) -/

/-- The requester gives up what the entry says it holds, and the owner, if there is one, is sent the forward. -/
theorem cohServe_rdShared (hshared : pOpc k = 0x10) (hother : e.owner ≠ some agent) (hfine : e.coarse = false) :
    cohServe s key e agent port k = cohAdvance (openTx s key
      { e with resv := none, sharers := e.sharers.filter (· != agent) } e.holding .rdShared agent (some k) port none []
      (e.owner.map fun w => (w, 0))) key := by
  have hkept : (e.isO && e.owner != some agent) = e.isO := by rw [bne_iff_ne.2 hother, Bool.and_true]
  simp only [cohServe, if_pos hshared, if_neg hother, hkept, hfine, Bool.false_eq_true, if_false]

/-! ## SNOOP_TMO runs out (09 R364) -/

/-- Whom a transaction waits for: the owner that writes back, the member a forward went to, the first member whose
acknowledgement is open, or the requester that owes DONE. -/
def awaited (e : DirEnt) (tx : CohTx) : Option Nat :=
  if tx.wb then e.owner
  else match tx.fwd with
    | some w => some w
    | none => match tx.acks.head? with
      | some a => some a
      | none => if tx.done then some tx.agent else none

theorem awaited_fwd (hwb : tx.wb = false) (hfwd : tx.fwd = some w) : awaited e tx = some w := by
  simp only [awaited, hwb, hfwd, Bool.false_eq_true, if_false]

theorem awaited_ack (hwb : tx.wb = false) (hfwd : tx.fwd = none) (hack : tx.acks.head? = some a) : awaited e tx = some a := by
  simp only [awaited, hwb, hfwd, hack, Bool.false_eq_true, if_false]

theorem exec_snoopTmoExpiry (key : Nat) (s : State) : exec (.snoopTmoExpiry key) s = .next (pump (snoopTmo s key)) := rfl

theorem snoopTmo_idle (hent : s.dirEnt key = some e) (htx : e.tx = none) : snoopTmo s key = s := by
  simp only [snoopTmo, hent, htx]

/-- What it means that an answer is late: the domain goes down with cause 1; in a domain that is not up, a line that its
owner has not given back is poisoned and its entry goes (09 R364, R365 step 3). -/
def answerLate (s : State) (key : Nat) (e : DirEnt) (tx : CohTx) (a : Nat) : State :=
  if cohUp s (domOf key) then teardown s (domOf key) 1 a
  else teardownDone (cohWake (delDir (if tx.fwd.isSome ∨ tx.wb then cohPoison s (domOf key) e.pl else s) key) key) (domOf key)

theorem snoopTmo_of_tx (hent : s.dirEnt key = some e) (htx : e.tx = some tx) :
    snoopTmo s key = (awaited e tx).elim s (answerLate s key e tx) := by
  simp only [snoopTmo, hent, htx]
  change (match awaited e tx with | none => s | some a => answerLate s key e tx a) = _
  cases awaited e tx <;> rfl

theorem snoopTmo_up (hent : s.dirEnt key = some e) (htx : e.tx = some tx) (hlate : awaited e tx = some a)
    (hup : cohUp s (domOf key) = true) : snoopTmo s key = teardown s (domOf key) 1 a := by
  rw [snoopTmo_of_tx hent htx, hlate, Option.elim_some, answerLate, if_pos hup]

/-! ## A reservation runs out (09 R362) -/

/-- The entry when the first waiting member takes the reservation over. -/
def nextReserved (e : DirEnt) : DirEnt := { e with resv := e.waiters.head?, waiters := e.waiters.tail }

theorem exec_backoffReservationExpiry (key : Nat) (s : State) :
    exec (.backoffReservationExpiry key) s = .next (backoffEnd s key) := rfl

theorem backoffEnd_busy (hent : s.dirEnt key = some e) (htx : e.tx.isSome = true) : backoffEnd s key = s := by
  simp only [backoffEnd, hent, htx, true_or, if_true]

theorem backoffEnd_reserved (hent : s.dirEnt key = some e) (htx : e.tx = none) (hresv : e.resv.isSome = true) :
    backoffEnd s key = if (nextReserved e).resv = none ∧ e.owner = none ∧ e.sharers = [] then delDir s key
      else setDir s key (nextReserved e) := by
  have hfree : ¬ (e.tx.isSome = true ∨ e.resv.isNone = true) := by
    rw [htx, ← Option.not_isSome, hresv]
    decide
  simp only [backoffEnd, hent, if_neg hfree]
  rfl

theorem backoffEnd_passes_on (hent : s.dirEnt key = some e) (htx : e.tx = none) (hresv : e.resv.isSome = true)
    (hwait : e.waiters ≠ []) : backoffEnd s key = setDir s key (nextReserved e) := by
  have hnext : (nextReserved e).resv ≠ none := fun hnone => hwait (List.head?_eq_none_iff.1 hnone)
  rw [backoffEnd_reserved hent htx hresv, if_neg fun hgone => hnext hgone.1]

theorem backoffEnd_frees (hent : s.dirEnt key = some e) (htx : e.tx = none) (hresv : e.resv.isSome = true)
    (hwait : e.waiters = []) (howner : e.owner = none) (hsharers : e.sharers = []) : backoffEnd s key = delDir s key := by
  have hnext : (nextReserved e).resv = none := List.head?_eq_none_iff.2 hwait
  rw [backoffEnd_reserved hent htx hresv, if_pos ⟨hnext, howner, hsharers⟩]

end Coherence

/-- Settles O38: a request forwards to the owner where the entry has another one; the one whom a transaction waits for is the
forward's member or the first open acknowledgement; and a reservation goes to the first waiting member or takes the empty entry
with it. -/
theorem coherenceTransactions : Obligations.CoherenceTransactions := by
  intro s key agent port e k
  refine ⟨fun hshared hnone hfine _ => ?_, fun w hshared howner hne hfine => ?_, fun hent htx => ?_,
    fun tx a hent htx hwb hfwd hack hup => ?_, fun tx w hent htx hwb hfwd hup => ?_, fun hent htx hresv hwait => ?_,
    fun hent htx hresv hwait howner hsharers => ?_, fun hent htx => ?_⟩
  · rw [cohServe_rdShared hshared (by simp [hnone]) hfine, hnone, Option.map_none]
  · rw [cohServe_rdShared hshared (by simp [howner, hne]) hfine, howner, Option.map_some]
  · rw [exec_snoopTmoExpiry, snoopTmo_idle hent htx]
  · rw [exec_snoopTmoExpiry, snoopTmo_up hent htx (awaited_ack hwb hfwd hack) hup]
  · rw [exec_snoopTmoExpiry, snoopTmo_up hent htx (awaited_fwd hwb hfwd) hup]
  · rw [exec_backoffReservationExpiry, backoffEnd_passes_on hent htx hresv hwait, nextReserved]
  · rw [exec_backoffReservationExpiry, backoffEnd_frees hent htx hresv hwait howner hsharers]
  · rw [exec_backoffReservationExpiry, backoffEnd_busy hent htx]

end Sys2Proof.Machine
end

section
/-!
PROOFS for 10_optical_ports_and_link_layer.md: what a flit does to its port's link, low-power idle and audits, writes of PORT_CTL, the
steps of a training, retrains and the ninth lane. The rules for a port's link and its registers come first; each part after them says
once what the model's functions do in each case, and ends with the statement it settles.
-/
namespace Sys2Proof.Machine

/-! ## A port's link, and its registers after a link is set -/

section LinkState
variable {s : State} {n m : Nat}

theorem link_setLink_self (hsort : ksorted s.links = true) (n : Nat) (x : LinkX) : (s.setLink n x).link n = x :=
  kgetD_kset_self emptyLink n x s.links hsort

theorem link_setLink_ne (hsort : ksorted s.links = true) (hne : m ≠ n) (x : LinkX) : (s.setLink n x).link m = s.link m :=
  kgetD_kset_ne emptyLink x s.links hsort hne

theorem setLink_sorted (hsort : ksorted s.links = true) (n : Nat) (x : LinkX) : ksorted (s.setLink n x).links = true :=
  ksorted_kset emptyLink n x s.links hsort

@[simp] theorem rd_setLink (s : State) (n : Nat) (x : LinkX) (f : Fld) (i j k : Nat) : (s.setLink n x).rd f i j k = s.rd f i j k := rfl

@[simp] theorem link_count (s : State) (f : Fld) (i j k d n : Nat) : (s.count f i j k d).link n = s.link n := rfl

/-- Nothing of the state changes but its registers. -/
def RegsAlone (s t : State) : Prop := ∃ regs, t = { s with regs := regs }

theorem RegsAlone.refl (s : State) : RegsAlone s s := ⟨_, rfl⟩

theorem RegsAlone.wr {t : State} (h : RegsAlone s t) (f : Fld) (v i j k : Nat) : RegsAlone s (t.wr f v i j k) := by
  obtain ⟨regs, rfl⟩ := h
  exact ⟨_, rfl⟩

theorem RegsAlone.count {t : State} (h : RegsAlone s t) (f : Fld) (i j k d : Nat) : RegsAlone s (t.count f i j k d) := h.wr f _ i j k

theorem RegsAlone.links {t : State} (h : RegsAlone s t) : t.links = s.links := by
  obtain ⟨regs, rfl⟩ := h
  rfl

theorem RegsAlone.link {t : State} (h : RegsAlone s t) (n : Nat) : t.link n = s.link n := by rw [State.link, h.links, State.link]

theorem RegsAlone.sameMem {t : State} (h : RegsAlone s t) : sameMem s t := by
  obtain ⟨regs, rfl⟩ := h
  exact ⟨rfl, rfl⟩

theorem sameMem_setLink {t : State} (h : sameMem s t) (n : Nat) (x : LinkX) : sameMem s (t.setLink n x) := h

/-- A counter that is raised by one stops at its largest value (00 R17). -/
theorem rd_count_self {f : Fld} (hsort : ksorted s.regs = true) (hf : f.Fits) (n : Nat) :
    (s.count f n).rd f n = min (s.rd f n + 1) (2 ^ f.w - 1) :=
  rd_wr_of_lt hsort hf (Nat.lt_of_le_of_lt (Nat.min_le_right _ _) (Nat.sub_lt (Nat.two_pow_pos _) Nat.one_pos)) n

end LinkState

/-! ## Flits (10 R381, R393 to R395) -/

section Flits
variable {s : State} {n : Nat} {f : Flit}

/-- A flit that neither acknowledges nor returns credits leaves the sender's side of the link alone. -/
theorem flitHead_plain (hack : f.ackV = false) (hcr : f.crV = false) : flitHead s n f = s := by
  simp only [flitHead, hack, hcr, Bool.false_eq_true, false_and, not_false_eq_true, if_true, if_false]

/-- What an acknowledgement leaves in the replay buffer: the flits after the one it names. -/
def ackedLink (x : LinkX) (a : Nat) : LinkX := { x with buf := x.buf.filter fun g => seqBefore a g.seq }

theorem flitHead_ack (hack : f.ackV = true) (hnak : f.nak = false) (hcr : f.crV = false)
    (hsent : seqBefore f.ack.toNat (s.link n).nextSeq = true) : flitHead s n f = s.setLink n (ackedLink (s.link n) f.ack.toNat) := by
  simp only [flitHead, hack, hnak, hcr, hsent, ackedLink, Bool.false_eq_true, false_and, and_false, not_true_eq_false, if_true, if_false]

/-- A link whose receiver waits for a flit to be sent again. -/
def nakLink (x : LinkX) : LinkX := { x with nakOut := true, episode := true }

/-- The first flit of a run is discarded, and its NAK counts. -/
def nakCounted (s : State) (n : Nat) : State := (s.setLink n (nakLink (s.link n))).count PORT_LINK_CNT.NAKS n

theorem nakCounted_spec (hregs : ksorted s.regs = true) (hlinks : ksorted s.links = true) (n : Nat) :
    (nakCounted s n).link n = nakLink (s.link n) ∧
      (nakCounted s n).rd PORT_LINK_CNT.NAKS n = min (s.rd PORT_LINK_CNT.NAKS n + 1) (2 ^ PORT_LINK_CNT.NAKS.w - 1) ∧
      regsKept s (nakCounted s n) [PORT_LINK_CNT.reg.addr n 0 0] := by
  have hsort : ksorted (s.setLink n (nakLink (s.link n))).regs = true := hregs
  refine ⟨?_, ?_, regsKept_trans (regsKept_of_regs _ rfl) (regsKept_wr _ _ _ _ _ _ hsort List.mem_cons_self)⟩
  · rw [nakCounted, link_count, link_setLink_self hlinks]
  · rw [nakCounted, rd_count_self hsort (by decide), rd_setLink]

theorem flitBad_first (hfirst : (s.link n).nakOut = false) :
    flitBad s n = (nakCounted s n).emit (.link n 0x31 [(s.link n).expSeq]) := by
  simp only [flitBad, hfirst, Bool.false_eq_true, if_false, nakLink, nakCounted]

theorem flitBad_again (hnak : (s.link n).nakOut = true) : flitBad s n = s.setLink n (nakLink (s.link n)) := by
  simp only [flitBad, hnak, if_true, nakLink]

/-- A link whose receiver has taken the flit that it expected. -/
def takenLink (x : LinkX) : LinkX :=
  { x with expSeq := (x.expSeq + 1) % 65536, ackV := true, nakOut := false, episode := false }

/-- Outside a run of discarded flits, a flit in sequence is taken, and no error episode counts. -/
theorem dataFlit_inSequence (hhead : flitHead s n f = s) (hseq : f.fseq.toNat = (s.link n).expSeq) (hrun : (s.link n).episode = false) :
    dataFlit s n f = s.setLink n (takenLink (s.link n)) := by
  simp only [dataFlit, hhead, hseq, hrun, Bool.false_eq_true, if_true, if_false, takenLink]

theorem dataFlit_old (hhead : flitHead s n f = s) (hseq : f.fseq.toNat ≠ (s.link n).expSeq)
    (hold : seqBefore f.fseq.toNat (s.link n).expSeq = true) : dataFlit s n f = s := by
  simp only [dataFlit, hhead, if_neg hseq, hold, if_true]

theorem dataFlit_beyond (hhead : flitHead s n f = s) (hseq : f.fseq.toNat ≠ (s.link n).expSeq)
    (hbeyond : seqBefore f.fseq.toNat (s.link n).expSeq = false) : dataFlit s n f = flitBad s n := by
  simp only [dataFlit, hhead, if_neg hseq, hbeyond, Bool.false_eq_true, if_false]

theorem wakeLpi_awake (hstate : s.rd PORT_STATUS.STATE n ≠ 4) : wakeLpi s n = s := if_neg hstate

end Flits

section FlitCommands
variable {s : State} {n : Port} {f : Flit}

theorem exec_dataFlitRx_active (hflow : flitsFlow s n = true) (hstate : s.rd PORT_STATUS.STATE n = 2) :
    exec (.dataFlitRx n f) s = .next (dataFlit s n f) := by
  show execDataFlitRx n f s = _
  rw [execDataFlitRx, if_pos hflow, wakeLpi_awake (by omega)]

theorem exec_idleFlitRx_flow (hflow : flitsFlow s n = true) : exec (.idleFlitRx n f) s = .next (flitHead s n f) :=
  congrArg Host.Outcome.next (if_pos hflow)

theorem exec_corruptFlitRx_flow (e : Nat) (hflow : flitsFlow s n = true) : exec (.corruptFlitRx n e) s =
    .next (flitBad (if 15 < e then s.count PORT_ERR_CNT.CW_UNCORR n else if e = 0 then s.count PORT_ERR_CNT.FLIT_BAD n
      else (s.count PORT_ERR_CNT.FLIT_BAD n).count PORT_ERR_CNT.CW_CORR n) n) :=
  congrArg Host.Outcome.next (if_pos hflow)

theorem exec_nakRepeatExpiry_nak (hnak : (s.link n).nakOut = true) (hflow : flitsFlow s n = true) : exec (.nakRepeatExpiry n) s =
    .next ((s.count PORT_LINK_CNT.NAKS n).emit (.link n 0x31 [(s.link n).expSeq])) :=
  congrArg Host.Outcome.next (if_pos ⟨hnak, hflow⟩)

/-- A port that takes no flits ignores the flits and the repetition of its NAK. -/
theorem exec_flits_still (f : Flit) (e : Nat) (hstill : flitsFlow s n = false) : exec (.dataFlitRx n f) s = .next s ∧
    exec (.idleFlitRx n f) s = .next s ∧ exec (.corruptFlitRx n e) s = .next s ∧ exec (.nakRepeatExpiry n) s = .next s := by
  have hno : ¬ flitsFlow s n = true := by simp [hstill]
  exact ⟨congrArg Host.Outcome.next (if_neg hno), congrArg Host.Outcome.next (if_neg hno), congrArg Host.Outcome.next (if_neg hno),
    congrArg Host.Outcome.next (if_neg fun h => hno h.2)⟩

theorem exec_replayTimerExpiry_empty (hbuf : (s.link n).buf = []) : exec (.replayTimerExpiry n) s = .next s := by
  show execReplayTimerExpiry n s = _
  simp only [execReplayTimerExpiry, hbuf]

theorem exec_replayTimerExpiry_held {g : BufFlit} {l : List BufFlit} (hbuf : (s.link n).buf = g :: l) (hflow : flitsFlow s n = true) :
    exec (.replayTimerExpiry n) s = .next (replay s n g.seq) := by
  show execReplayTimerExpiry n s = _
  simp only [execReplayTimerExpiry, hbuf, hflow, if_true]

end FlitCommands

/-- Settles O40: each flit is judged by its sequence number and by what it carries, as the equations of `dataFlit`, `flitHead` and
`flitBad` say; the links are read back by `link_setLink_self`. -/
theorem flitsOnALink : Obligations.FlitsOnALink := by
  rintro s n f x hregs hlinks rfl
  refine ⟨fun hflow hstate hack hcr => ?data, fun hflow hack hcr => ?idle, fun hflow hack hnak hcr hsent => ?idleAck,
    fun e hflow hmany => ?uncorr, fun e hflow hsome hfew => ?corr, fun hflow => ?check,
    fun e hstill => exec_flits_still f e hstill, exec_replayTimerExpiry_empty, fun g l => exec_replayTimerExpiry_held,
    exec_nakRepeatExpiry_nak⟩
  case data =>
    have hhead : flitHead s n f = s := flitHead_plain hack hcr
    rw [exec_dataFlitRx_active hflow hstate]
    refine ⟨fun hseq hrun => ?_, fun hseq hold => by rw [dataFlit_old hhead hseq hold], fun hseq hbeyond hfirst => ?_,
      fun hseq hbeyond hnak => ?_⟩
    · rw [dataFlit_inSequence hhead hseq hrun]
      refine ⟨_, rfl, rfl, ?_, fun m hne => link_setLink_ne hlinks hne _⟩
      rw [link_setLink_self hlinks, takenLink, hrun]
    · rw [dataFlit_beyond hhead hseq hbeyond, flitBad_first hfirst]
      obtain ⟨hlink, hnaks, hkept⟩ := nakCounted_spec hregs hlinks n
      exact ⟨_, rfl, hlink, hnaks, hkept⟩
    · rw [dataFlit_beyond hhead hseq hbeyond, flitBad_again hnak]
      exact ⟨_, rfl, rfl, link_setLink_self hlinks n _⟩
  case idle => rw [exec_idleFlitRx_flow hflow, flitHead_plain hack hcr]
  case idleAck =>
    rw [exec_idleFlitRx_flow hflow, flitHead_ack hack hnak hcr hsent]
    exact ⟨_, rfl, rfl, link_setLink_self hlinks n _⟩
  case uncorr => rw [exec_corruptFlitRx_flow e hflow, if_pos hmany]
  case corr => rw [exec_corruptFlitRx_flow e hflow, if_neg (by omega), if_neg (by omega)]
  case check => rw [exec_corruptFlitRx_flow 0 hflow, if_neg (by omega), if_pos rfl]

/-! ## Low-power idle (10 R410) and the error window (10 R405) -/

section Idle
variable {s : State} {n : Nat}

/-- A link whose port has asked for low-power idle. -/
def askedLink (x : LinkX) : LinkX := { x with ask := some (9, []), lpiReq := true }

/-- A link whose port asks for low-power idle no more. -/
def unaskedLink (x : LinkX) : LinkX := { answered x 9 with lpiReq := false }

theorem lpiEnter_eq (s : State) (n : Nat) : lpiEnter s n = (s.wr PORT_STATUS.STATE 4 n).setLink n (unaskedLink (s.link n)) := rfl

theorem lpiEnter_spec (hregs : ksorted s.regs = true) (hlinks : ksorted s.links = true) (n : Nat) :
    (lpiEnter s n).rd PORT_STATUS.STATE n = 4 ∧ ((lpiEnter s n).link n).lpiReq = false ∧ (lpiEnter s n).out = s.out ∧
      sameMem s (lpiEnter s n) ∧ regsKept s (lpiEnter s n) [PORT_STATUS.reg.addr n 0 0] := by
  have hsort : ksorted (s.wr PORT_STATUS.STATE 4 n).links = true := hlinks
  have hkept : regsKept s (s.wr PORT_STATUS.STATE 4 n) [PORT_STATUS.reg.addr n 0 0] := regsKept_wr s _ _ _ _ _ hregs List.mem_cons_self
  rw [lpiEnter_eq]
  refine ⟨?_, ?_, rfl, sameMem_setLink ((RegsAlone.refl s).wr ..).sameMem n _, regsKept_trans hkept (regsKept_of_regs _ rfl)⟩
  · rw [rd_setLink, rd_wr_of_lt hregs (by decide) (by decide)]
  · rw [link_setLink_self hsort, unaskedLink]

theorem wakeLpi_idle (hstate : s.rd PORT_STATUS.STATE n = 4) : wakeLpi s n = s.wr PORT_STATUS.STATE 2 n := if_pos hstate

end Idle

section IdleCommands
variable {s : State} {n : Port} {m : CtlMsg}

theorem exec_lpiIdleExpiry_ready (hlinks : ksorted s.links = true) (hready : lpiReady s n = true) : ∃ t,
    exec (.lpiIdleExpiry n) s = .next t ∧ t.link n = askedLink (s.link n) ∧ t.regs = s.regs ∧ sameMem s t := by
  refine ⟨_, congrArg Host.Outcome.next (if_pos hready), ?_, rfl, rfl, rfl⟩
  have hasked : (ctlAsk s n 9 []).link n = { s.link n with ask := some (9, []) } := link_setLink_self hlinks n _
  have hsort : ksorted (ctlAsk s n 9 []).links = true := setLink_sorted hlinks n _
  rw [link_setLink_self hsort, hasked, askedLink]

theorem exec_lpiIdleExpiry_busy (hbusy : lpiReady s n = false) : exec (.lpiIdleExpiry n) s = .next s :=
  congrArg Host.Outcome.next (if_neg (by simp [hbusy]))

theorem exec_lpiReq_crossing (hreq : ((ctlHead s n m).link n).lpiReq = true) :
    exec (.lpiReq n m) s = .next (lpiEnter (ctlHead s n m) n) := congrArg Host.Outcome.next (if_pos hreq)

theorem exec_lpiReq_answered (hreq : ((ctlHead s n m).link n).lpiReq = false) (hready : lpiReady (ctlHead s n m) n = true) :
    exec (.lpiReq n m) s = .next (lpiEnter (ctlOut (ctlHead s n m) n 10 []) n) :=
  congrArg Host.Outcome.next ((if_neg (by simp [hreq])).trans (if_pos hready))

theorem exec_lpiReq_busy (hreq : ((ctlHead s n m).link n).lpiReq = false) (hbusy : lpiReady (ctlHead s n m) n = false) :
    exec (.lpiReq n m) s = .next (ctlHead s n m) :=
  congrArg Host.Outcome.next ((if_neg (by simp [hreq])).trans (if_neg (by simp [hbusy])))

theorem exec_lpiAck_asked (hreq : ((ctlHead s n m).link n).lpiReq = true) (hstate : (ctlHead s n m).rd PORT_STATUS.STATE n = 2) :
    exec (.lpiAck n m) s = .next (lpiEnter (ctlHead s n m) n) := congrArg Host.Outcome.next (if_pos ⟨hreq, hstate⟩)

theorem exec_lpiAck_unasked (hreq : ((ctlHead s n m).link n).lpiReq = false) : exec (.lpiAck n m) s = .next (ctlHead s n m) :=
  congrArg Host.Outcome.next (if_neg (by simp [hreq]))

theorem exec_lpiWake (n : Port) (s : State) : exec (.lpiWake n) s = .next (wakeLpi s n) := rfl

theorem exec_lpiAnswerTmoExpiry (n : Port) (s : State) :
    exec (.lpiAnswerTmoExpiry n) s = .next (s.setLink n (unaskedLink (s.link n))) := rfl

theorem exec_errorWindowEnd (n : Port) (s : State) : exec (.errorWindowEnd n) s = .next (s.wr PORT_STATUS.WIN_COUNT 0 n) := rfl

end IdleCommands

/-! ## Audits (10 R400) -/

section Audits
variable {s v : State} {n tc h d : Nat} {m : CtlMsg}

/-- A shortfall is a number modulo 4,096 or 65,536, less what the receiver holds. -/
theorem shortfall_lt {x : LinkX} {seq w : Nat} (hshort : shortfall x tc seq w = (h, d)) : h < 4096 ∧ d < 65536 := by
  obtain ⟨rfl, rfl⟩ := Prod.mk.inj hshort
  exact ⟨Nat.lt_of_le_of_lt (Nat.sub_le _ _) (Nat.mod_lt _ (by decide)),
    Nat.lt_of_le_of_lt (Nat.sub_le _ _) (Nat.mod_lt _ (by decide))⟩

/-- The largest shortfalls seen of a class, with one more seen. -/
def shortfallKept (s : State) (n tc h d : Nat) : State :=
  (s.wr PORT_CREDIT_AUDIT.HDR_SHORT (max h (s.rd PORT_CREDIT_AUDIT.HDR_SHORT n tc)) n tc).wr
    PORT_CREDIT_AUDIT.DATA_SHORT (max d (s.rd PORT_CREDIT_AUDIT.DATA_SHORT n tc)) n tc

theorem shortfallKept_spec (hregs : ksorted s.regs = true) (n tc : Nat) (hh : h < 4096) (hd : d < 65536)
    (hv : v = shortfallKept s n tc h d) :
    v.rd PORT_CREDIT_AUDIT.HDR_SHORT n tc = max h (s.rd PORT_CREDIT_AUDIT.HDR_SHORT n tc) ∧
      v.rd PORT_CREDIT_AUDIT.DATA_SHORT n tc = max d (s.rd PORT_CREDIT_AUDIT.DATA_SHORT n tc) ∧
      onlyRegs s v [PORT_CREDIT_AUDIT.reg.addr n tc 0] := by
  subst hv
  have hsort := wr_sorted s PORT_CREDIT_AUDIT.HDR_SHORT (max h (s.rd PORT_CREDIT_AUDIT.HDR_SHORT n tc)) n tc 0 hregs
  have hhdr : s.rd PORT_CREDIT_AUDIT.HDR_SHORT n tc < 65536 := fld_lt ..
  have hdata : s.rd PORT_CREDIT_AUDIT.DATA_SHORT n tc < 65536 := fld_lt ..
  refine ⟨?_, rd_wr_self_at hsort (by decide) (Nat.max_lt.2 ⟨hd, hdata⟩) n tc, ?_⟩
  · rw [shortfallKept, rd_wr_beside_at hsort (by decide) (by decide),
      rd_wr_self_at hregs (by decide) (Nat.max_lt.2 ⟨Nat.lt_trans hh (by decide), hhdr⟩)]
  · exact onlyRegs_trans (onlyRegs_wr s _ _ _ _ _ hregs List.mem_cons_self) (onlyRegs_wr _ _ _ _ _ _ hsort List.mem_cons_self)

theorem auditClass_none (hshort : shortfall (s.link n) tc (fld (ctlW m 0) 0 16) (ctlW m (tc + 1)) = (0, 0)) :
    auditClass s n m tc = s := by
  simp only [auditClass, hshort, and_self, if_true]

theorem auditClass_short (hshort : shortfall (s.link n) tc (fld (ctlW m 0) 0 16) (ctlW m (tc + 1)) = (h, d)) (hsome : h ≠ 0 ∨ d ≠ 0) :
    auditClass s n m tc = if (s.link n).short then shortfallKept s n tc h d
      else evPf0 ((shortfallKept s n tc h d).setLink n { s.link n with short := true }) 0x0809 n tc
        (h % 2 ^ 16 + d % 2 ^ 16 * 2 ^ 16) := by
  simp only [auditClass, hshort, shortfallKept]
  exact if_neg (by omega)

theorem auditIn_up (hup : s.rd PORT_STATUS.STATE n = 2 ∨ s.rd PORT_STATUS.STATE n = 4) :
    auditIn s n m = (List.range 8).foldl (fun t tc => auditClass t n m tc) s := if_neg (by omega)

theorem auditIn_down (hdown : s.rd PORT_STATUS.STATE n = 5) : auditIn s n m = s := if_pos (by omega)

/-- What the receiver reports of a class: what it holds, and the credits that it has returned. -/
def auditWord (s : State) (n tc : Nat) : Nat :=
  heldH s n tc + heldD s n tc * 2 ^ 16 + (creditOf (s.link n) tc).rxD % 65536 * 2 ^ 32 + (creditOf (s.link n) tc).rxH % 4096 * 2 ^ 48

theorem auditSend_down (hdown : s.rd PORT_STATUS.STATE n = 5) : auditSend s n = s := if_pos (by omega)

theorem auditSend_up (hup : s.rd PORT_STATUS.STATE n = 2) :
    auditSend s n = s.emit (.link n 8 (((s.link n).expSeq + 65535) % 65536 :: (List.range 8).map (auditWord s n))) := if_neg (by omega)

theorem exec_audit (n : Port) (m : CtlMsg) (s : State) : exec (.audit n m) s = .next (auditIn (ctlHead s n m) n m) := rfl

theorem exec_auditSendTick (n : Port) (s : State) : exec (.auditSendTick n) s = .next (auditSend s n) := rfl

end Audits

/-- Settles O43: low-power idle begins in `lpiEnter` alone, an audit goes class by class through `auditClass`, and a shortfall fits
its counter, so the larger of the two is kept whole. -/
theorem lowPowerAuditsAndWindows : Obligations.LowPowerAuditsAndWindows := by
  rintro s n x hregs hlinks rfl
  refine ⟨fun hready => ?ask, exec_lpiIdleExpiry_busy, ?msgs, ?classes, fun hidle => ?wake, fun hactive => ?awake, ?answerTmo, ?window,
    fun hdown => ?sendDown, fun hup => ?sendUp⟩
  case ask =>
    obtain ⟨t, hexec, hlink, hkept, hmem⟩ := exec_lpiIdleExpiry_ready hlinks hready
    exact ⟨t, hexec, by rw [hlink, askedLink], by rw [hlink, askedLink], hkept, hmem⟩
  case msgs =>
    rintro m u _ rfl rfl hregs hlinks
    refine ⟨fun hreq => ?_, fun hreq hready => ?_, exec_lpiReq_busy, fun hreq hstate => ?_, exec_lpiAck_unasked,
      fun hup => by rw [exec_audit, auditIn_up hup], fun hdown => by rw [exec_audit, auditIn_down hdown]⟩
    · obtain ⟨hstate, hasked, -, hmem, hkept⟩ := lpiEnter_spec hregs hlinks n
      exact ⟨_, exec_lpiReq_crossing hreq, hstate, hasked, hmem, hkept⟩
    · obtain ⟨hstate, -, hout, hmem, hkept⟩ := lpiEnter_spec (s := ctlOut (ctlHead s n m) n 10 []) hregs hlinks n
      exact ⟨_, exec_lpiReq_answered hreq hready, hstate, hout, hmem, hkept⟩
    · obtain ⟨hidle, -, -, hmem, hkept⟩ := lpiEnter_spec hregs hlinks n
      exact ⟨_, exec_lpiAck_asked hreq hstate, hidle, hmem, hkept⟩
  case classes =>
    intro m tc h d v hshort hv
    obtain ⟨hh, hd⟩ := shortfall_lt hshort
    have hv : v = shortfallKept s n tc h d := hv
    obtain ⟨hhdr, hdata, honly⟩ := shortfallKept_spec hregs n tc hh hd hv
    refine ⟨hhdr, hdata, honly, fun hh0 hd0 => ?_, fun hsome hold => ?_, fun hsome hnew => ?_⟩
    · subst hh0 hd0
      exact auditClass_none hshort
    · rw [auditClass_short hshort hsome, if_pos hold, hv]
    · rw [auditClass_short hshort hsome, hnew, if_neg Bool.false_ne_true, hv]
  case wake =>
    rw [exec_lpiWake, wakeLpi_idle hidle]
    exact ⟨_, rfl, rd_wr_of_lt hregs (by decide) (by decide) n, onlyRegs_wr s _ _ _ _ _ hregs List.mem_cons_self⟩
  case awake => rw [exec_lpiWake, wakeLpi_awake hactive]
  case answerTmo => exact ⟨_, exec_lpiAnswerTmoExpiry n s, rfl, by rw [link_setLink_self hlinks, unaskedLink]⟩
  case window =>
    exact ⟨_, exec_errorWindowEnd n s, rd_wr_of_lt hregs (by decide) (by decide) n, rd_wr_beside hregs (by decide) (by decide) 0 n,
      onlyRegs_wr s _ _ _ _ _ hregs List.mem_cons_self⟩
  case sendDown => rw [exec_auditSendTick, auditSend_down hdown]
  case sendUp =>
    refine ⟨_, by rw [exec_auditSendTick, auditSend_up hup], ?_, rfl⟩
    rw [List.length_cons, List.length_map, List.length_range]

/-! ## Writes of PORT_CTL (10 R383, R388, R401, R406, R413) -/

section PortControl
variable {s t : State} {n v : Nat}

theorem takesWrite_PORT_CTL {row : RegRow} (hrow : row.reg = PORT_CTL.reg) (i j k lo : Nat) : takesWrite s ⟨row, i, j, k⟩ lo = true := by
  obtain ⟨_, _, _⟩ := row
  subst hrow
  rfl

/-- A field of PORT_CTL that the table lists as RW reads as written. -/
theorem rd_portCtl_plainWrite {g : Fld} {clr : Clr} (hg : g.Listed .rw clr) (hreg : g.reg = PORT_CTL.reg) (hsort : ksorted s.regs = true)
    (n v : Nat) : (plainWrite s PORT_CTL.reg n 0 0 v).rd g n = wrote g v := by
  rw [← hreg, rd_plainWrite_rw hg hsort, takesWrite_PORT_CTL (hg.2.1.trans hreg), if_pos rfl]

theorem rd_portEnable_plainWrite (hsort : ksorted s.regs = true) (n v : Nat) :
    (plainWrite s PORT_CTL.reg n 0 0 v).rd PORT_CTL.ENABLE n = wrote PORT_CTL.ENABLE v :=
  rd_portCtl_plainWrite (clr := .warm) (by decide +kernel) rfl hsort n v

theorem rd_portPreset_plainWrite (hsort : ksorted s.regs = true) (n v : Nat) :
    (plainWrite s PORT_CTL.reg n 0 0 v).rd PORT_CTL.PRESET n = wrote PORT_CTL.PRESET v :=
  rd_portCtl_plainWrite (clr := .warm) (by decide +kernel) rfl hsort n v

theorem portEnable_plainWrite_on (hsort : ksorted s.regs = true) (n : Nat) (hv : wrote PORT_CTL.ENABLE v = 1) :
    (plainWrite s PORT_CTL.reg n 0 0 v).on PORT_CTL.ENABLE n = true :=
  on_of_rd_one ((rd_portEnable_plainWrite hsort n v).trans hv)

theorem portEnable_plainWrite_off (hsort : ksorted s.regs = true) (n : Nat) (hv : wrote PORT_CTL.ENABLE v = 0) :
    (plainWrite s PORT_CTL.reg n 0 0 v).on PORT_CTL.ENABLE n = false :=
  on_of_rd_zero ((rd_portEnable_plainWrite hsort n v).trans hv)

theorem portCtl_plainWrite_only (hsort : ksorted s.regs = true) (n v : Nat) :
    onlyRegs s (plainWrite s PORT_CTL.reg n 0 0 v) [PORT_CTL.reg.addr n 0 0] :=
  plainWrite_only s PORT_CTL.reg n 0 0 v false hsort (by decide +kernel) List.mem_cons_self

theorem portState_plainWrite (hsort : ksorted s.regs = true) (n v : Nat) :
    (plainWrite s PORT_CTL.reg n 0 0 v).rd PORT_STATUS.STATE n = s.rd PORT_STATUS.STATE n :=
  rd_of_regsKept (portCtl_plainWrite_only hsort n v).2 PORT_STATUS.STATE
    (by simp [Reg.addr, PORT_STATUS.STATE, PORT_STATUS.reg, PORT_CTL.reg])

/-- What a change of ENABLE starts, from the state before the write and the one with the fields written. -/
def enableChanged (s t : State) (n : Nat) : State :=
  if s.on PORT_CTL.ENABLE n && !t.on PORT_CTL.ENABLE n then
    if t.rd PORT_STATUS.STATE n = 0 ∨ t.rd PORT_STATUS.STATE n = 5 ∨ t.rd PORT_STATUS.STATE n = 7 then
      (t.wr PORT_STATUS.STATE 5 n).wr PORT_STATUS.DOWN_CAUSE 5 n
    else portDown t n 5
  else if !s.on PORT_CTL.ENABLE n && t.on PORT_CTL.ENABLE n then trainBegin t n (t.rd PORT_CTL.PRESET n) false 0
  else t

theorem enableChanged_rises (hoff : s.on PORT_CTL.ENABLE n = false) (hon : t.on PORT_CTL.ENABLE n = true) :
    enableChanged s t n = trainBegin t n (t.rd PORT_CTL.PRESET n) false 0 := by
  simp only [enableChanged, hoff, hon, Bool.false_and, Bool.not_false, Bool.and_self, Bool.false_eq_true, if_false, if_true]

theorem enableChanged_falls (hon : s.on PORT_CTL.ENABLE n = true) (hoff : t.on PORT_CTL.ENABLE n = false)
    (hactive : t.rd PORT_STATUS.STATE n = 2) : enableChanged s t n = portDown t n 5 := by
  simp only [enableChanged, hon, hoff, hactive, Bool.not_false, Bool.and_self, if_true]
  exact if_neg (by omega)

theorem enableChanged_stays (hon : s.on PORT_CTL.ENABLE n = true) (hstill : t.on PORT_CTL.ENABLE n = true) : enableChanged s t n = t := by
  simp only [enableChanged, hon, hstill, Bool.not_true, Bool.and_false, Bool.and_true, Bool.false_eq_true, if_false]

/-- Without REARM and RETRAIN a write does what the change of ENABLE does. -/
theorem portCtlWrite_enable (ht : t = plainWrite s PORT_CTL.reg n 0 0 v) (hrearm : wrote PORT_CTL.REARM v = 0)
    (hretrain : wrote PORT_CTL.RETRAIN v = 0) : portCtlWrite s n v = enableChanged s t n := by
  subst ht
  simp only [portCtlWrite, hrearm, hretrain, if_true, enableChanged]

theorem portCtlWrite_rearm (ht : t = plainWrite s PORT_CTL.reg n 0 0 v) (hon : s.on PORT_CTL.ENABLE n = true)
    (hstill : t.on PORT_CTL.ENABLE n = true) (hrearm : wrote PORT_CTL.REARM v = 1) (hretrain : wrote PORT_CTL.RETRAIN v = 0) :
    portCtlWrite s n v = trainBegin (t.wr PORT_STATUS.STRIKES 0 n) n (t.rd PORT_CTL.PRESET n) false 0 := by
  subst ht
  simp only [portCtlWrite, hon, hstill, hrearm, hretrain, Bool.not_true, Bool.and_false, Bool.and_true, Bool.false_eq_true, one_ne_zero,
    if_true, if_false]

theorem retrainAsk_active (reason : Nat) (hactive : s.rd PORT_STATUS.STATE n = 2) : retrainAsk s n reason = retrainBegin s n reason :=
  if_pos (.inl hactive)

theorem portCtlWrite_retrain (ht : t = plainWrite s PORT_CTL.reg n 0 0 v) (hon : s.on PORT_CTL.ENABLE n = true)
    (hstill : t.on PORT_CTL.ENABLE n = true) (hrearm : wrote PORT_CTL.REARM v = 0) (hretrain : wrote PORT_CTL.RETRAIN v = 1)
    (hactive : t.rd PORT_STATUS.STATE n = 2) : portCtlWrite s n v = retrainBegin t n 3 := by
  rw [← retrainAsk_active 3 hactive]
  subst ht
  simp only [portCtlWrite, hon, hstill, hrearm, hretrain, hactive, Bool.not_true, Bool.and_false, Bool.and_true, Bool.false_eq_true,
    one_ne_zero, if_true, if_false]
  exact if_neg (by omega)

/-- The host's writes of PORT_CTL, each under the name of what it starts. -/
theorem exec_portCtl {w : Word} {c : Instr} (n : Port) (hopen : pf0Open s = true)
    (hc : c ∈ [Instr.portEnable n w, .portDisable n w, .portRearm n w, .portRetrain n w]) : exec c s = .next (portCtlWrite s n w.toNat) := by
  have hnext : ∀ t, (.next (atPf0 s t) : Host.Outcome State Fault Refusal) = .next t := fun t => by rw [atPf0_open t hopen]
  refine (?_ : ∀ c ∈ [Instr.portEnable n w, .portDisable n w, .portRearm n w, .portRetrain n w], exec c s = _) c hc
  simp only [List.forall_mem_cons]
  exact ⟨hnext _, hnext _, hnext _, hnext _, List.forall_mem_nil _⟩

end PortControl

/-- Settles O44: ENABLE reads back as written and STATE as it was, so the write starts what `enableChanged`, REARM or RETRAIN names,
and nothing where ENABLE stays 1 and neither strobe is written. -/
theorem portControlWrites : Obligations.PortControlWrites := by
  intro s t n v hsort hopen ht
  have hon : wrote PORT_CTL.ENABLE v.toNat = 1 → t.on PORT_CTL.ENABLE n = true := fun hv => ht ▸ portEnable_plainWrite_on hsort n hv
  have hoff : wrote PORT_CTL.ENABLE v.toNat = 0 → t.on PORT_CTL.ENABLE n = false := fun hv => ht ▸ portEnable_plainWrite_off hsort n hv
  have hstate : t.rd PORT_STATUS.STATE n = s.rd PORT_STATUS.STATE n := ht ▸ portState_plainWrite hsort n v.toNat
  refine ⟨ht ▸ rd_portEnable_plainWrite hsort n v.toNat, ht ▸ rd_portPreset_plainWrite hsort n v.toNat,
    ht ▸ portCtl_plainWrite_only hsort n v.toNat,
    fun hwas hv hrearm hretrain => ?enable, fun hwas hv hrearm hretrain hactive => ?disable, fun hwas hv hrearm hretrain => ?rearm,
    fun hwas hv hrearm hretrain hactive => ?retrain, fun hwas hv hrearm hretrain => ?nothing⟩
  case enable => rw [exec_portCtl (w := v) n hopen (by simp), portCtlWrite_enable ht hrearm hretrain, enableChanged_rises hwas (hon hv)]
  case disable =>
    rw [exec_portCtl (w := v) n hopen (by simp), portCtlWrite_enable ht hrearm hretrain, enableChanged_falls hwas (hoff hv) (hstate.trans hactive)]
  case rearm => rw [exec_portCtl (w := v) n hopen (by simp), portCtlWrite_rearm ht hwas (hon hv) hrearm hretrain]
  case retrain => rw [exec_portCtl (w := v) n hopen (by simp), portCtlWrite_retrain ht hwas (hon hv) hrearm hretrain (hstate.trans hactive)]
  case nothing =>
    have hsame : portCtlWrite s n v.toNat = t := by rw [portCtlWrite_enable ht hrearm hretrain, enableChanged_stays hwas (hon hv)]
    exact ⟨by rw [exec_portCtl (w := v) n hopen (by simp), hsame], by rw [exec_portCtl (w := v) n hopen (by simp), hsame]⟩

/-! ## The steps of a training (10 R382 to R388, R402, R406, R408) -/

section Training
variable {s t : State} {n lane mask w tx : Nat}

theorem trainStartup_first (hstrikes : s.rd PORT_STATUS.STRIKES n = 0) :
    trainStartup s n = trainBegin s n (s.rd PORT_CTL.PRESET n) true 0 := if_pos hstrikes

theorem trainStartup_second (hstrikes : s.rd PORT_STATUS.STRIKES n = 1) :
    trainStartup s n = trainBegin s n (s.rd PORT_CTL.ALT_PRESET n) true 0 := (if_neg (by omega)).trans (if_pos hstrikes)

theorem trainStartup_out (hstrikes : 2 ≤ s.rd PORT_STATUS.STRIKES n) :
    trainStartup s n = evPf0 (s.wr PORT_STATUS.STATE 7 n) 0x0807 n (s.rd PORT_STATUS.STRIKES n) 0 :=
  (if_neg (by omega)).trans (if_neg (by omega))

/-- A link whose receiver has had the partner's training block on a lane. -/
def blockLink (x : LinkX) (lane mask : Nat) : LinkX := { x with phase := 2, rxOk := x.rxOk ||| 2 ^ lane, partnerOk := mask }

theorem blockIn_training (hphase : (s.link n).phase = 1 ∨ (s.link n).phase = 2) (hgood : (s.link n).rxBad.testBit lane = false) :
    blockIn s n lane mask = (s.setLink n (blockLink (s.link n) lane mask)).emit
      (.link n 0x20 [(s.link n).preset, (s.link n).rxOk ||| 2 ^ lane]) := by
  rcases hphase with hphase | hphase <;> simp [blockIn, hphase, hgood, blockLink]

theorem fecLocked_early (h2 : (s.link n).phase ≠ 2) (h12 : (s.link n).phase ≠ 12) : fecLocked s n = s := if_pos ⟨h2, h12⟩

/-- A training that finds a width within its bound installs it and goes on with CAPS. -/
theorem fecLocked_width (hphase : (s.link n).phase = 2) (htx : tx = (s.link n).partnerOk &&& (511 - ((s.link n).txBad &&& 511)))
    (hwidth : widthCode (min (popc 9 tx) (popc 9 (s.link n).rxOk)) = some w) (hmin : s.rd PORT_CTL.MIN_WIDTH n ≤ w)
    (ht : t = setMaps s n w (mapOf tx (2 ^ w)) (mapOf (s.link n).rxOk (2 ^ w))) :
    fecLocked s n = ctlAsk (t.setLink n { t.link n with phase := 4 }) n 1 (capsArgs t) := by
  subst htx ht
  simp only [fecLocked, hphase, hwidth, if_neg (Nat.not_lt.2 hmin), ne_eq, not_true_eq_false, false_and, if_true, if_false]

theorem repeatAsk_asked {c : Nat} {args : List Nat} (hphase : (s.link n).phase ≠ 5) (hask : (s.link n).ask = some (c, args)) :
    repeatAsk s n = s.emit (.link n c args) := by
  simp only [repeatAsk, if_neg hphase, hask, ctlOut]

/-- A port that may retry takes ALT_PRESET the second time and PRESET otherwise. -/
theorem portRetry_tries (hdown : s.rd PORT_STATUS.STATE n = 5) (hcause : s.rd PORT_STATUS.DOWN_CAUSE n ≠ 5) (hleft : (s.link n).tries < 3) :
    portRetry s n = trainBegin s n (s.rd (if (s.link n).tries = 1 then PORT_CTL.ALT_PRESET else PORT_CTL.PRESET) n) false
      ((s.link n).tries + 1) := if_pos ⟨hdown, hcause, hleft⟩

theorem portRetry_stays (hno : s.rd PORT_STATUS.DOWN_CAUSE n = 5 ∨ 3 ≤ (s.link n).tries) : portRetry s n = s :=
  if_neg fun ⟨_, hcause, hleft⟩ => hno.elim hcause fun hspent => by omega

end Training

section TrainingMessages
variable {s : State} {n rtt : Nat} {m : CtlMsg}

theorem ctlHead_still (m : CtlMsg) (hstill : flitsFlow s n = false) : ctlHead s n m = s := if_neg (by simp [hstill])

/-- The state with what CAPS says of the partner in PORT_PARTNER. -/
def partnerRecorded (s : State) (n : Nat) (m : CtlMsg) : State :=
  ((((s.wr PORT_PARTNER.NODE (fld (ctlW m 0) 0 15) n).wr PORT_PARTNER.MAX_LEN (fld (ctlW m 0) 24 7) n).wr PORT_PARTNER.GCM
    (fld (ctlW m 0) 32 1) n).wr PORT_PARTNER.GEN (fld (ctlW m 0) 36 4) n).wr PORT_PARTNER.TURN (fld (ctlW m 0) 40 16) n

theorem partnerRecorded_regsAlone (s : State) (n : Nat) (m : CtlMsg) : RegsAlone s (partnerRecorded s n m) :=
  (((((RegsAlone.refl s).wr ..).wr ..).wr ..).wr ..).wr ..

/-- A link that goes on to measure the fibre. -/
def probingLink (x : LinkX) : LinkX := { answered x 1 with phase := 5, probes := [] }

/-- What is judged of the partner's CAPS, in order (10 R384). -/
theorem capsIn_eq (s : State) (n : Nat) (m : CtlMsg) : capsIn s n m =
    if (s.link n).phase ≠ 4 then s
    else if fld (ctlW m 0) 0 15 = nodeId s then trainRefuse (partnerRecorded s n m) n 1
    else if fld (ctlW m 0) 20 1 = 0 then trainRefuse (partnerRecorded s n m) n 2
    else if fld (ctlW m 1) 0 16 = 0 ∨ fld (ctlW m 1) 16 16 = 0 then trainRefuse (partnerRecorded s n m) n 4
    else (List.range 8).foldl (fun t k => ctlOut t n 2 [k])
      ((partnerRecorded s n m).setLink n (probingLink ((partnerRecorded s n m).link n))) := rfl

theorem capsIn_other (hphase : (s.link n).phase ≠ 4) : capsIn s n m = s := by rw [capsIn_eq, if_pos hphase]

theorem capsIn_own (hphase : (s.link n).phase = 4) (hown : fld (ctlW m 0) 0 15 = nodeId s) :
    capsIn s n m = trainRefuse (partnerRecorded s n m) n 1 := by
  rw [capsIn_eq, if_neg (not_not.2 hphase), if_pos hown]

theorem capsIn_accepted (hphase : (s.link n).phase = 4) (hother : fld (ctlW m 0) 0 15 ≠ nodeId s) (hfec : fld (ctlW m 0) 20 1 = 1)
    (hhdr : fld (ctlW m 1) 0 16 ≠ 0) (hdata : fld (ctlW m 1) 16 16 ≠ 0) :
    capsIn s n m = (List.range 8).foldl (fun t k => ctlOut t n 2 [k]) ((partnerRecorded s n m).setLink n (probingLink (s.link n))) := by
  rw [capsIn_eq, if_neg (not_not.2 hphase), if_neg hother, if_neg (by omega), if_neg (by omega),
    (partnerRecorded_regsAlone s n m).link]

/-- A round trip from a probe's sending to its echo: less what the partner held it, and with the turnaround of both ends. -/
def roundTrip (s : State) (n : Nat) (m : CtlMsg) (rtt : Nat) : Nat :=
  rtt - fld (ctlW m 1) 0 32 + (280 + s.rd PORT_PARTNER.TURN n) * 1000

/-- A link with the round trip that an echo has measured. -/
def echoedLink (s : State) (n : Nat) (m : CtlMsg) (rtt : Nat) : LinkX :=
  { s.link n with probes := kput (fld (ctlW m 0) 0 32) (roundTrip s n m rtt) (s.link n).probes }

theorem echoIn_new (rtt : Nat) (hphase : (s.link n).phase = 5) (hprobe : fld (ctlW m 0) 0 32 < 8)
    (hnew : kget (fld (ctlW m 0) 0 32) (s.link n).probes = none) :
    echoIn s n m rtt = if (s.link n).probes.length + 1 = 8 then fibreMeasured (s.setLink n (echoedLink s n m rtt)) n
      else s.setLink n (echoedLink s n m rtt) := by
  have hgo : ¬ ((s.link n).phase ≠ 5 ∨ 8 ≤ fld (ctlW m 0) 0 32 ∨ (kget (fld (ctlW m 0) 0 32) (s.link n).probes).isSome = true) := by
    simp [hphase, hprobe, hnew]
  rw [echoIn, if_neg hgo, echoedLink, roundTrip]

theorem advIn_measured (hphase : (s.link n).phase = 6) : advIn s n m = trainDone s n (m.words.map (·.toNat)) := if_pos hphase

theorem advIn_early (hphase : (s.link n).phase = 5) : advIn s n m = s.setLink n { s.link n with early := m.words } :=
  (if_neg (by omega)).trans (if_pos hphase)

end TrainingMessages

section TrainingCommands
variable {s : State} {n : Port} {m : CtlMsg}

theorem exec_portTrain_begins (hnew : s.rd PORT_STATUS.STATE n = 0) (hon : s.on PORT_CTL.ENABLE n = true) :
    exec (.portTrain n) s = .next (trainStartup s n) := congrArg Host.Outcome.next (if_pos ⟨hnew, hon⟩)

theorem exec_portTrain_old (hold : s.rd PORT_STATUS.STATE n ≠ 0) : exec (.portTrain n) s = .next s :=
  congrArg Host.Outcome.next (if_neg fun h => hold h.1)

theorem exec_trainTmoExpiry_training (hstate : s.rd PORT_STATUS.STATE n = 1 ∨ s.rd PORT_STATUS.STATE n = 3) :
    exec (.trainTmoExpiry n) s = .next (portDown s n 2) := congrArg Host.Outcome.next (if_pos hstate)

theorem exec_trainTmoExpiry_active (hstate : s.rd PORT_STATUS.STATE n = 2) : exec (.trainTmoExpiry n) s = .next s :=
  congrArg Host.Outcome.next (if_neg (by omega))

theorem exec_trainingBlockRx (n : Port) (lane : Fin 9) (mask : BitVec 9) (s : State) :
    exec (.trainingBlockRx n lane mask) s = .next (blockIn s n lane mask.toNat) := rfl

theorem exec_ringLockTmoExpiry_training (lane : Fin 9) (rx : Bool) (hphase : (s.link n).phase = 1) :
    exec (.ringLockTmoExpiry n lane rx) s = .next (laneOut s n lane rx) := congrArg Host.Outcome.next (if_pos hphase)

theorem exec_rateFallbackTmoExpiry_silent (hphase : (s.link n).phase = 1) (hnone : (s.link n).rxOk = 0)
    (hrate : s.rd PORT_STATUS.RATE n = 0) : exec (.rateFallbackTmoExpiry n) s = .next (s.wr PORT_STATUS.RATE 1 n) :=
  congrArg Host.Outcome.next (if_pos ⟨.inl hphase, hnone, hrate⟩)

theorem exec_fecLockGained (n : Port) (s : State) : exec (.fecLockGained n) s = .next (fecLocked s n) := rfl

theorem exec_fecLockLost (n : Port) (s : State) : exec (.fecLockLost n) s = .next (retrainAsk s n 5) := rfl

theorem exec_caps (n : Port) (m : CtlMsg) (s : State) : exec (.caps n m) s = .next (capsIn (ctlHead s n m) n m) := rfl

theorem exec_lenProbe_echoed (hphase : ((ctlHead s n m).link n).phase = 4 ∨ ((ctlHead s n m).link n).phase = 5 ∨
    ((ctlHead s n m).link n).phase = 6) :
    exec (.lenProbe n m) s = .next ((ctlHead s n m).emit (.link n 3 [fld (ctlW m 0) 0 32, 0])) :=
  congrArg Host.Outcome.next (if_pos (by omega))

theorem exec_lenEcho (n : Port) (m : CtlMsg) (rtt : Nat) (s : State) :
    exec (.lenEcho n m rtt) s = .next (echoIn (ctlHead s n m) n m rtt) := rfl

theorem exec_creditAdv (n : Port) (m : CtlMsg) (s : State) : exec (.creditAdv n m) s = .next (advIn (ctlHead s n m) n m) := rfl

theorem exec_controlFlitRepeatTick (n : Port) (s : State) : exec (.controlFlitRepeatTick n) s = .next (repeatAsk s n) := rfl

theorem exec_portRetryTimer (n : Port) (s : State) : exec (.portRetryTimer n) s = .next (portRetry s n) := rfl

end TrainingCommands

/-- Settles O41: one equation for each step of a training; the four messages act on the state that `ctlHead` leaves. -/
theorem trainingSteps : Obligations.TrainingSteps := by
  rintro s n _ rfl
  refine ⟨fun hnew hon => ?start, exec_portTrain_old, exec_trainTmoExpiry_training, exec_trainTmoExpiry_active, ?block,
    fun lane rx => exec_ringLockTmoExpiry_training lane rx, exec_rateFallbackTmoExpiry_silent,
    fun h2 h12 => by rw [exec_fecLockGained, fecLocked_early h2 h12], ?fec,
    fun hactive => by rw [exec_fecLockLost, retrainAsk_active 5 hactive], ?msgs,
    fun c args hphase hask => by rw [exec_controlFlitRepeatTick, repeatAsk_asked hphase hask], fun hdown hcause => ?retry,
    fun _ hcause => by rw [exec_portRetryTimer, portRetry_stays (.inl hcause)]⟩
  case start =>
    simp only [exec_portTrain_begins hnew hon]
    exact ⟨fun hstrikes => by rw [trainStartup_first hstrikes], fun hstrikes => by rw [trainStartup_second hstrikes],
      fun hstrikes => by rw [trainStartup_out hstrikes]⟩
  case block =>
    rintro lane mask hphase hgood _ rfl
    rw [exec_trainingBlockRx, blockIn_training hphase hgood, blockLink]
  case fec =>
    intro w tx t hphase htx hwidth hmin ht
    rw [exec_fecLockGained, fecLocked_width hphase htx hwidth hmin ht]
  case msgs =>
    rintro m _ _ rfl rfl
    refine ⟨ctlHead_still m, fun hphase => by rw [exec_caps, capsIn_other hphase], fun hphase hown => ?own,
      fun hphase hother hfec hhdr hdata => ?accepted, exec_lenProbe_echoed, ?echo,
      fun hphase => by rw [exec_creditAdv, advIn_measured hphase], fun hphase => by rw [exec_creditAdv, advIn_early hphase]⟩
    case own =>
      exact ⟨_, (partnerRecorded_regsAlone ..).links, (partnerRecorded_regsAlone ..).sameMem, by rw [exec_caps, capsIn_own hphase hown]⟩
    case accepted =>
      exact ⟨_, (partnerRecorded_regsAlone ..).links, (partnerRecorded_regsAlone ..).sameMem, by
        rw [exec_caps, capsIn_accepted hphase hother hfec hhdr hdata, probingLink]⟩
    case echo =>
      rintro rtt _ _ hphase rfl hprobe hnew rfl
      rw [exec_lenEcho, echoIn_new rtt hphase hprobe hnew, echoedLink, roundTrip]
      exact ⟨fun hlast => by rw [if_pos hlast], fun hmore => by rw [if_neg hmore]⟩
  case retry =>
    simp only [exec_portRetryTimer]
    refine ⟨fun htries => ?_, fun htries => ?_, fun hspent => by rw [portRetry_stays (.inr hspent)]⟩
    · rw [portRetry_tries hdown hcause (by omega), if_neg (by omega)]
    · rw [portRetry_tries hdown hcause (by omega), if_pos htries, htries]

/-! ## Retrains and the ninth lane (10 R374, R389 to R392, R402 to R404) -/

section NinthLane
variable {s : State} {n l p sp : Nat} {m : CtlMsg}

theorem retrainReqIn_joins (hphase : (s.link n).phase = 11) : retrainReqIn s n = s.setLink n { s.link n with phase := 12 } :=
  if_pos hphase

theorem retrainReqIn_begins (hphase : (s.link n).phase ≠ 11) (hactive : s.rd PORT_STATUS.STATE n = 2) :
    retrainReqIn s n = retrainBegin s n 4 := (if_neg hphase).trans (retrainAsk_active 4 hactive)

theorem resyncIn_ends (hphase : (s.link n).phase = 13) : resyncIn s n m = retrainDone s n (m.words.map (·.toNat)) := if_pos hphase

theorem resyncIn_early (hphase : (s.link n).phase = 11 ∨ (s.link n).phase = 12) :
    resyncIn s n m = s.setLink n { s.link n with early := m.words } := (if_neg (by omega)).trans (if_pos hphase)

theorem laneAnsIn_none (hnone : (s.link n).handoff = none) : laneAnsIn s n m = s := by simp only [laneAnsIn, hnone]

theorem laneAnsIn_abort (hand : (s.link n).handoff = some (l, p, sp)) (hlane : fld (ctlW m 0) 0 4 = l)
    (habort : (ctlW m 0).testBit 4 = false) : laneAnsIn s n m = countAbort (s.setLink n { s.link n with handoff := none }) n sp false := by
  simp only [laneAnsIn, hand, hlane, habort, ne_eq, not_true_eq_false, Bool.false_eq_true, if_false]

/-- The transmitter's link after the partner has switched: the ninth lane is the one calibrated last. -/
def handedLink (x : LinkX) (p sp : Nat) : LinkX := { x with handoff := none, cal := x.cal.filter (· != p) ++ [sp], txAborts := (0, 15) }

/-- The ninth lane stands for a logical lane, and that lane's physical one is the spare. -/
def txSwitched (t : State) (n l p sp : Nat) : State :=
  (t.wr PORT_LANE_MAP.TX_MAP (setFld (t.rd PORT_LANE_MAP.TX_MAP n) (4 * l) 4 sp) n).wr PORT_LANE_STAT.TX_SPARE p n

theorem laneAnsIn_switch (hand : (s.link n).handoff = some (l, p, sp)) (hlane : fld (ctlW m 0) 0 4 = l)
    (hswitch : (ctlW m 0).testBit 4 = true) : laneAnsIn s n m =
      ((txSwitched (s.setLink n (handedLink (s.link n) p sp)) n l p sp).wr PORT_STATUS.TX_SPARE_OK 0 n).count PORT_LANE_STAT.ROTATIONS n := by
  simp only [laneAnsIn, hand, hlane, hswitch, ne_eq, not_true_eq_false, if_true, if_false, handedLink, txSwitched]

/-- The logical lane that a physical one serves as. -/
def logicalLane (s : State) (n q : Nat) : Option Nat :=
  (List.range (2 ^ s.rd PORT_STATUS.WIDTH n)).find? fun l => fld (s.rd PORT_LANE_MAP.TX_MAP n) (4 * l) 4 == q

/-- A handoff of physical lane `q` begins. -/
def handoffBegun (s : State) (n l p q : Nat) : State :=
  (s.tickFresh.setLink n { s.link n with handoff := some (l, q, s.rd PORT_LANE_STAT.TX_SPARE n), lrc := q == p }).emit
    (.link n 0x32 [l, q, s.rd PORT_LANE_STAT.TX_SPARE n, max 8 (s.rd PORT_LINK_CFG.HANDOFF_CW n)])

theorem handoffStart_begins {ps : List Nat} (hrot : s.rd PORT_LINK_CFG.ROT_PERIOD n ≠ 0) (hspare : s.on PORT_STATUS.TX_SPARE_OK n = true)
    (hactive : s.rd PORT_STATUS.STATE n = 2) (hthere : s.rd PORT_LANE_STAT.TX_SPARE n ≠ 0xF) (hnone : (s.link n).handoff = none)
    (hcal : (s.link n).cal = p :: ps) (hlane : logicalLane s n (handoffLane s n p) = some l) :
    handoffStart s n = handoffBegun s n l p (handoffLane s n p) := by
  have hgo : ¬ (s.rd PORT_LINK_CFG.ROT_PERIOD n = 0 ∨ ¬ s.on PORT_STATUS.TX_SPARE_OK n = true ∨ s.rd PORT_STATUS.STATE n ≠ 2 ∨
      s.rd PORT_LANE_STAT.TX_SPARE n = 0xF ∨ (s.link n).handoff.isSome = true) := by
    simp [hrot, hspare, hactive, hthere, hnone]
  rw [logicalLane] at hlane
  simp only [handoffStart, if_neg hgo, hcal, hlane, handoffBegun]

theorem handoffStart_off (hrot : s.rd PORT_LINK_CFG.ROT_PERIOD n = 0) : handoffStart s n = s := if_pos (.inl hrot)

/-- Unless the last handoff took the least recently calibrated lane, this one does. -/
theorem handoffLane_oldest (p : Nat) (hlrc : (s.link n).lrc = false) : handoffLane s n p = p := if_neg (by simp [hlrc])

theorem countdownEnd_differs (hactive : s.rd PORT_STATUS.STATE n = 2) (hthere : s.rd PORT_LANE_STAT.RX_SPARE n ≠ 0xF)
    (hlane : l < 2 ^ s.rd PORT_STATUS.WIDTH n) :
    countdownEnd s n l false = (countAbort s n (s.rd PORT_LANE_STAT.RX_SPARE n) true).emit (.link n 7 [l]) :=
  if_neg (by omega)

/-- The receiver's registers after it has switched to the ninth lane. -/
def rxSwitched (s : State) (n l : Nat) : State :=
  (((s.wr PORT_LANE_MAP.RX_MAP (setFld (s.rd PORT_LANE_MAP.RX_MAP n) (4 * l) 4 (s.rd PORT_LANE_STAT.RX_SPARE n)) n).wr
    PORT_LANE_STAT.RX_SPARE (fld (s.rd PORT_LANE_MAP.RX_MAP n) (4 * l) 4) n).wr PORT_STATUS.RX_SPARE_OK 0 n).count PORT_LANE_STAT.ROTATIONS n

theorem rxSwitched_regsAlone (s : State) (n l : Nat) : RegsAlone s (rxSwitched s n l) :=
  ((((RegsAlone.refl s).wr ..).wr ..).wr ..).count ..

/-- A link on which the receiver's handoffs have aborted no more in a row. -/
def unabortedLink (x : LinkX) : LinkX := { x with rxAborts := (0, 15) }

theorem countdownEnd_same (hactive : s.rd PORT_STATUS.STATE n = 2) (hthere : s.rd PORT_LANE_STAT.RX_SPARE n ≠ 0xF)
    (hlane : l < 2 ^ s.rd PORT_STATUS.WIDTH n) :
    countdownEnd s n l true = ((rxSwitched s n l).setLink n (unabortedLink ((rxSwitched s n l).link n))).emit (.link n 7 [l + 16]) :=
  (if_neg (by omega)).trans (if_pos rfl)

theorem laneFailure_active (lane : Nat) (rx : Bool) (hactive : s.rd PORT_STATUS.STATE n = 2) : laneFailure s n lane rx = laneFail s n lane rx :=
  if_pos (.inl hactive)

theorem laneFailure_training (lane : Nat) (rx : Bool) (htrain : s.rd PORT_STATUS.STATE n = 1) :
    laneFailure s n lane rx = laneOut s n lane rx := (if_neg (by omega)).trans (if_pos (.inl htrain))

theorem laneFailure_down (lane : Nat) (rx : Bool) (hdown : s.rd PORT_STATUS.STATE n = 5) : laneFailure s n lane rx = s :=
  (if_neg (by omega)).trans (if_neg (by omega))

/-- Both directions' ninth lanes are ready. -/
def sparesReady (s : State) (n : Nat) : State := (s.wr PORT_STATUS.TX_SPARE_OK 1 n).wr PORT_STATUS.RX_SPARE_OK 1 n

theorem sparesReady_spec (hsort : ksorted s.regs = true) (n : Nat) :
    (sparesReady s n).rd PORT_STATUS.TX_SPARE_OK n = 1 ∧ (sparesReady s n).rd PORT_STATUS.RX_SPARE_OK n = 1 ∧
      (sparesReady s n).rd PORT_STATUS.STATE n = s.rd PORT_STATUS.STATE n ∧
      onlyRegs s (sparesReady s n) [PORT_STATUS.reg.addr n 0 0] := by
  have hsort' := wr_sorted s PORT_STATUS.TX_SPARE_OK 1 n 0 0 hsort
  refine ⟨?_, rd_wr_of_lt hsort' (by decide) (by decide) n, ?_, ?_⟩
  · rw [sparesReady, rd_wr_beside hsort' (by decide) (by decide), rd_wr_of_lt hsort (by decide) (by decide)]
  · rw [sparesReady, rd_wr_beside hsort' (by decide) (by decide), rd_wr_beside hsort (by decide) (by decide)]
  · exact onlyRegs_trans (onlyRegs_wr s _ _ _ _ _ hsort List.mem_cons_self) (onlyRegs_wr _ _ _ _ _ _ hsort' List.mem_cons_self)

theorem rd_RX_SPARE_wr_status {f : Fld} (hsort : ksorted s.regs = true) (hf : f.reg = PORT_STATUS.reg) (v n : Nat) :
    (s.wr f v n).rd PORT_LANE_STAT.RX_SPARE n = s.rd PORT_LANE_STAT.RX_SPARE n :=
  rd_wr_ne s f _ v n 0 0 n 0 0 hsort (by simp [hf, Reg.addr, PORT_LANE_STAT.RX_SPARE, PORT_LANE_STAT.reg, PORT_STATUS.reg])

end NinthLane

section RetrainCommands
variable {s : State} {n : Port} {m : CtlMsg}

theorem exec_retrainReq (n : Port) (m : CtlMsg) (s : State) : exec (.retrainReq n m) s = .next (retrainReqIn (ctlHead s n m) n) := rfl

theorem exec_resync (n : Port) (m : CtlMsg) (s : State) : exec (.resync n m) s = .next (resyncIn (ctlHead s n m) n m) := rfl

theorem exec_laneAns (n : Port) (m : CtlMsg) (s : State) : exec (.laneAns n m) s = .next (laneAnsIn (ctlHead s n m) n m) := rfl

theorem exec_handoffStart (n : Port) (s : State) : exec (.handoffStart n) s = .next (handoffStart s n) := rfl

theorem exec_handoffAnswerTmo_none (hnone : (s.link n).handoff = none) : exec (.handoffAnswerTmo n) s = .next s :=
  congrArg Host.Outcome.next (if_neg (by simp [hnone]))

theorem exec_handoffAnswerTmo_late (hand : (s.link n).handoff.isSome = true) (hactive : s.rd PORT_STATUS.STATE n = 2) :
    exec (.handoffAnswerTmo n) s = .next (retrainBegin s n 5) :=
  congrArg Host.Outcome.next ((if_pos hand).trans (retrainAsk_active 5 hactive))

theorem exec_handoffCountdownEnd (n : Port) (l : Fin 8) (same : Bool) (s : State) :
    exec (.handoffCountdownEnd n l same) s = .next (countdownEnd s n l same) := rfl

theorem exec_ninthLaneCalDone_none (htx : s.rd PORT_LANE_STAT.TX_SPARE n = 0xF) (hrx : s.rd PORT_LANE_STAT.RX_SPARE n = 0xF) :
    exec (.ninthLaneCalDone n) s = .next s := by
  show execNinthLaneCalDone n s = _
  simp only [execNinthLaneCalDone, if_pos htx, if_pos hrx]

theorem exec_ninthLaneCalDone_both (hsort : ksorted s.regs = true) (htx : s.rd PORT_LANE_STAT.TX_SPARE n ≠ 0xF)
    (hrx : s.rd PORT_LANE_STAT.RX_SPARE n ≠ 0xF) : exec (.ninthLaneCalDone n) s = .next (sparesReady s n) := by
  show execNinthLaneCalDone n s = _
  simp only [execNinthLaneCalDone, if_neg htx, rd_RX_SPARE_wr_status (f := PORT_STATUS.TX_SPARE_OK) hsort rfl, if_neg hrx, sparesReady]

theorem exec_laneFailure (n : Port) (rx : Bool) (lane : Fin 9) (s : State) :
    exec (.laneFailure n rx lane) s = .next (laneFailure s n lane rx) := rfl

theorem exec_laserPoll (n : Port) (rs : List Nat) (s : State) : exec (.laserPoll n rs) s = .next (laserPoll s n rs) := rfl

end RetrainCommands

/-- Settles O42: one equation for each message and each event of a retrain or a handoff; the three messages act on the state that
`ctlHead` leaves. -/
theorem retrainsAndHandoffs : Obligations.RetrainsAndHandoffs := by
  rintro s n _ rfl
  refine ⟨?msgs, ?start, fun hrot => by rw [exec_handoffStart, handoffStart_off hrot], exec_handoffAnswerTmo_none,
    exec_handoffAnswerTmo_late, fun l hactive hthere hlane => ?countdown, exec_ninthLaneCalDone_none, fun hsort htx hrx => ?ready,
    fun rx lane => ?failure, fun rs => exec_laserPoll n rs s⟩
  case msgs =>
    rintro m _ _ rfl rfl
    refine ⟨fun hphase => by rw [exec_retrainReq, retrainReqIn_joins hphase],
      fun hphase hactive => by rw [exec_retrainReq, retrainReqIn_begins hphase hactive],
      fun hphase => by rw [exec_resync, resyncIn_ends hphase], fun hphase => by rw [exec_resync, resyncIn_early hphase],
      fun hnone => by rw [exec_laneAns, laneAnsIn_none hnone],
      fun l p sp hand hlane habort => by rw [exec_laneAns, laneAnsIn_abort hand hlane habort], ?_⟩
    rintro l p sp _ _ hand hlane hswitch rfl rfl
    rw [exec_laneAns, laneAnsIn_switch hand hlane hswitch, txSwitched, handedLink]
  case start =>
    rintro p ps _ l _ hrot hspare hactive rfl hthere hnone hcal rfl hlane
    refine ⟨?_, handoffLane_oldest p⟩
    rw [exec_handoffStart, handoffStart_begins hrot hspare hactive hthere hnone hcal hlane, handoffBegun]
  case countdown =>
    rw [exec_handoffCountdownEnd, exec_handoffCountdownEnd, countdownEnd_differs hactive hthere hlane,
      countdownEnd_same hactive hthere hlane]
    refine ⟨rfl, _, rfl, sameMem_setLink (rxSwitched_regsAlone s n l).sameMem _ _, fun hlinks => ?_⟩
    rw [← (rxSwitched_regsAlone s n l).links] at hlinks
    rw [link_setLink_self hlinks, unabortedLink]
  case ready =>
    obtain ⟨htxOk, hrxOk, hstate, honly⟩ := sparesReady_spec hsort n
    exact ⟨_, exec_ninthLaneCalDone_both hsort htx hrx, htxOk, hrxOk, hstate, honly⟩
  case failure =>
    simp only [exec_laneFailure]
    exact ⟨fun hactive => by rw [laneFailure_active lane rx hactive], fun htrain => by rw [laneFailure_training lane rx htrain],
      fun hdown => by rw [laneFailure_down lane rx hdown]⟩

end Sys2Proof.Machine
end

section
/-!
PROOFS for 11_fupex_packets_and_routes.md: the way of a packet from its port to where it ends, the route commits and the answer cache,
and the fabric time, which also passes while nothing is queued. Each part says once what the model's functions do in each case, and ends
with the statement it settles.
-/
namespace Sys2Proof.Machine

/-! ## Arrival (11 R428, R434, R437, R445) -/

section Arrival
variable {s t u : State} {port : Nat} {p q : Pkt} {yellow : Bool} {colour : Colour}

/-- A field of a word that shares no bit with the one replaced. -/
theorem wfld_wset_apart (w : Word) {lo n v lo' n' : Nat} (hfits : lo + n ≤ 64) (hapart : lo' + n' ≤ lo ∨ lo + n ≤ lo') :
    wfld (wset w lo n v) lo' n' = wfld w lo' n' := by
  rw [wfld, wset, toW_toNat, Nat.mod_eq_of_lt (setFld_lt _ _ _ _ w.isLt hfits), fld_setFld_ne _ _ _ _ _ _ hapart, wfld]

/-- Of a packet's header arrival may change the epoch alone (11 R437). -/
theorem pOpc_arrived (s : State) (port : Nat) (p : Pkt) : pOpc (arrived s port p) = pOpc p := by
  rw [arrived]
  split
  · exact wfld_wset_apart p.w0 (by decide) (by decide)
  · rfl

theorem receive_down (hdown : linkUp s port = false) : receive s port p = s := if_pos (by simp [hdown])

theorem receive_fails (hup : linkUp s port = true) (hfail : arrivalFail (nodeId s) (trusted s port) (arrived s port p) ≠ 0) :
    receive s port p = creditBack (dropArrival s port) port (pTc (arrived s port p)) (pLen (arrived s port p)) :=
  (if_neg (by simp [hup])).trans (if_pos hfail)

/-- What the meter leaves of a packet that it lets through: a yellow one counts (12 R464). -/
def colourCounted (u : State) (port : Nat) (colour : Colour) (q : Pkt) : State :=
  if colour == .yellow then u.count QOS_METER_CNT.YELLOW port (pTc q) else u

/-- The packet stays in its receive buffer until the drain ends (11 R446 step 2). -/
def rxHeld (t : State) (port : Nat) (yellow : Bool) (q : Pkt) : State :=
  { t with xrd := { t.xrd with rxWait := t.xrd.rxWait ++ [(port, yellow, q)] } }

theorem receive_metered (hq : q = arrived s port p) (hup : linkUp s port = true)
    (hpass : arrivalFail (nodeId s) (trusted s port) q = 0) (hmeter : meter s port q = (u, colour)) (hred : colour ≠ .red) :
    receive s port p = if s.on XRD_EPOCH.DRAINING then rxHeld (colourCounted u port colour q) port (colour == .yellow) q
      else takePkt (colourCounted u port colour q) port (colour == .yellow) q := by
  subst hq
  cases colour with
  | red => exact absurd rfl hred
  | green | yellow =>
    simp only [receive, hup, not_true_eq_false, if_false, hpass, ne_eq, hmeter]
    rfl

/-- Where a packet of no stale epoch goes: copied by the multicast tables, served here, or on to its node (11 R429, R435, R438). -/
def directed (t : State) (port : Nat) (yellow : Bool) (q : Pkt) : State :=
  if pMcast q ≠ 0 then replicate t port yellow q else if pDst q = nodeId t then deliver t port q else transit t port yellow q

theorem directed_mcast (hmcast : pMcast q ≠ 0) : directed t port yellow q = replicate t port yellow q := if_pos hmcast

theorem directed_here (huni : pMcast q = 0) (hhere : pDst q = nodeId t) : directed t port yellow q = deliver t port q :=
  (if_neg (not_not.2 huni)).trans (if_pos hhere)

theorem directed_onward (huni : pMcast q = 0) (hother : pDst q ≠ nodeId t) : directed t port yellow q = transit t port yellow q :=
  (if_neg (not_not.2 huni)).trans (if_neg hother)

theorem takePkt_stale (hepoch : pEpoch q ≠ s.rd XRD_EPOCH.CUR) (hidle : s.on XRD_EPOCH.IDLE = true) :
    takePkt s port yellow q = (creditBack s port (pTc q) (pLen q)).count XRD_PORT_CNT.STALE port := if_pos ⟨hepoch, hidle⟩

theorem takePkt_fresh (ht : t = creditBack s port (pTc q) (pLen q))
    (hfresh : pEpoch q = t.rd XRD_EPOCH.CUR ∨ t.on XRD_EPOCH.IDLE = false) : takePkt s port yellow q = directed t port yellow q := by
  subst ht
  exact if_neg fun ⟨hepoch, hidle⟩ => hfresh.elim hepoch (by simp [hidle])

theorem receive_taken (htaken : taken s port p t yellow q) : receive s port p = directed t port yellow q := by
  obtain ⟨hq, hup, hpass, u, colour, hmeter, hred, rfl, hdrain, ht, hfresh⟩ := htaken
  rw [receive_metered hq hup hpass hmeter hred, hdrain, if_neg Bool.false_ne_true]
  exact takePkt_fresh ht hfresh

theorem pOpc_taken (htaken : taken s port p t yellow q) : pOpc q = pOpc p := by
  obtain ⟨rfl, -⟩ := htaken
  exact pOpc_arrived s port p

end Arrival

/-! ## The commands that are packets (11 R419) -/

section PacketCommands
variable {s : State} {port : Port} {p : Pkt} {c : Instr} {k : Nat}

/-- The requests that are served whatever else they carry, each with its opcode. -/
def requestCommands (port : Port) (p : Pkt) : List (Instr × Nat) :=
  [(.read port p, 0x01), (.write port p, 0x03), (.reduceWrite port p, 0x05), (.cohRdShared port p, 0x10), (.cohRdOwn port p, 0x11),
    (.cohUpgrade port p, 0x12), (.cohWriteback port p, 0x13), (.cohFwdDataRx port p, 0x15), (.cohAck port p, 0x17)]

/-- The answers to the chip's own requests, each with its opcode. (Not computable: the compiler has no tag for so late a constructor as
`atomicRespRx`.) -/
noncomputable def answerCommands (port : Port) (p : Pkt) : List (Instr × Nat) :=
  [(.readDataRx port p, 0x02), (.writeAckRx port p, 0x04), (.nakRx port p, 0x18), (.errorRespRx port p, 0x1E),
    (.atomicRespRx port p, 0x07)]

/-- Every command that an opcode alone names. -/
noncomputable def opcodeCommands (port : Port) (p : Pkt) : List (Instr × Nat) :=
  requestCommands port p ++ answerCommands port p ++ [(.syncOp port p, 0x08), (.doorbellPacket port p, 0x09), (.eventPacket port p, 0x0A)]

/-- The atomics, each with its sub-code (11 R423). -/
def atomicCommands (port : Port) (p : Pkt) : List (Instr × Nat) :=
  [(.atomicFadd port p, 1), (.atomicSwap port p, 2), (.atomicCas port p, 3), (.atomicUmax port p, 4)]

/-- The notices of a partner, each with its sub-code (11 R668). -/
def routeCtlCommands (port : Port) (p : Pkt) : List (Instr × Nat) :=
  [(.routeCtlLeaving port p, 1), (.routeCtlGone port p, 2), (.routeCtlTime port p, 3)]

theorem exec_opcodeCommand (hmem : (c, k) ∈ opcodeCommands port p) (hopc : pOpc p = k) : exec c s = .next (pump (receive s port p)) := by
  have hkind : ∀ e ∈ opcodeCommands port p, exec e.1 s = .next (packetIn s port p (pOpc p == e.2)) := by
    simp only [opcodeCommands, requestCommands, answerCommands, List.cons_append, List.nil_append, List.forall_mem_cons]
    exact ⟨rfl, rfl, rfl, rfl, rfl, rfl, rfl, rfl, rfl, rfl, rfl, rfl, rfl, rfl, rfl, rfl, rfl, List.forall_mem_nil _⟩
  rw [hkind _ hmem, beq_iff_eq.2 hopc, packetIn_received]

theorem exec_syncOp (hopc : pOpc p = 0x08) : exec (.syncOp port p) s = .next (pump (receive s port p)) :=
  exec_opcodeCommand (List.mem_append_right _ List.mem_cons_self) hopc

theorem exec_doorbellPacket (hopc : pOpc p = 0x09) : exec (.doorbellPacket port p) s = .next (pump (receive s port p)) :=
  exec_opcodeCommand (List.mem_append_right _ (List.mem_cons_of_mem _ List.mem_cons_self)) hopc

theorem exec_eventPacket (hopc : pOpc p = 0x0A) : exec (.eventPacket port p) s = .next (pump (receive s port p)) :=
  exec_opcodeCommand (List.mem_append_right _ (List.mem_cons_of_mem _ (List.mem_cons_of_mem _ List.mem_cons_self))) hopc

theorem exec_atomicCommand (hmem : (c, k) ∈ atomicCommands port p) (hopc : pOpc p = 0x06) (hcode : pCode p = k) :
    exec c s = .next (pump (receive s port p)) := by
  have hkind : ∀ e ∈ atomicCommands port p, exec e.1 s = .next (packetIn s port p (pOpc p == 0x06 && pCode p == e.2)) := by
    simp only [atomicCommands, List.forall_mem_cons]
    exact ⟨rfl, rfl, rfl, rfl, List.forall_mem_nil _⟩
  rw [hkind _ hmem, beq_iff_eq.2 hopc, beq_iff_eq.2 hcode, Bool.and_self, packetIn_received]

theorem exec_routeCtlCommand (hmem : (c, k) ∈ routeCtlCommands port p) (hopc : pOpc p = 0x1C) (hcode : pCode p = k) :
    exec c s = .next (pump (receive s port p)) := by
  have hkind : ∀ e ∈ routeCtlCommands port p, exec e.1 s = .next (packetIn s port p (pOpc p == 0x1C && pCode p == e.2)) := by
    simp only [routeCtlCommands, List.forall_mem_cons]
    exact ⟨rfl, rfl, rfl, List.forall_mem_nil _⟩
  rw [hkind _ hmem, beq_iff_eq.2 hopc, beq_iff_eq.2 hcode, Bool.and_self, packetIn_received]

theorem exec_transitForward (huni : pMcast p = 0) (hother : pDst p ≠ nodeId s) :
    exec (.transitForward port p) s = .next (pump (receive s port p)) := by
  show Host.Outcome.next (packetIn s port p (!opcListed (pOpc p) || (pMcast p == 0 && pDst p != nodeId s))) = _
  rw [beq_iff_eq.2 huni, bne_iff_ne.2 hother, Bool.and_self, Bool.or_true, packetIn_received]

theorem exec_multicastReplicate (hmcast : pMcast p ≠ 0) : exec (.multicastReplicate port p) s = .next (pump (receive s port p)) := by
  show Host.Outcome.next (packetIn s port p (pMcast p != 0)) = _
  rw [bne_iff_ne.2 hmcast, packetIn_received]

end PacketCommands

/-! ## Delivery (11 R429, R450) -/

section Delivery
variable {s t : State} {port : Nat} {p q o : Pkt} {yellow : Bool}

/-- The opcodes of the requests that pass no check of their own at delivery. -/
def plainOpcodes : List Nat := [0x01, 0x03, 0x05, 0x10, 0x11, 0x12, 0x13, 0x15, 0x17, 0x06]

/-- The opcodes of the answers to requests. -/
def answerOpcodes : List Nat := [0x02, 0x04, 0x18, 0x1E, 0x07]

/-- What an opened packet of an opcode comes to: an answer meets its request, a DOORBELL and a SYNC_OP are checked, and what
passes is served as a request. -/
def openedServed (t : State) (port opc : Nat) (o : Pkt) : State :=
  if isAnswer opc then if scopeShut t 5 0 then t.count XRD_PORT_CNT2.STRAY port else answerIn t port o
  else if (opc = 0x09 ∧ ¬ dbPktOk t o) ∨ (opc = 0x08 ∧ ¬ syncPktOk t o) then dropArrival t port else requestIn t port o

theorem deliver_opened (hopened : opened t port q o) (hnotice : pOpc q ≠ 0x1C) (hevent : pOpc q ≠ 0x0A) :
    deliver t port q = openedServed t port (pOpc q) o := by
  obtain ⟨-, -, hstays, htc, hfits, hopen⟩ := hopened
  simp only [deliver, hstays, htc, hnotice, hevent, hfits, hopen, ne_eq, not_true_eq_false, or_self, if_false]
  rfl

theorem receive_opened (htaken : taken s port p t yellow q) (hopened : opened t port q o) (hnotice : pOpc p ≠ 0x1C)
    (hevent : pOpc p ≠ 0x0A) : receive s port p = openedServed t port (pOpc p) o := by
  have ⟨huni, hhere, _⟩ := hopened
  have hopc : pOpc q = pOpc p := pOpc_taken htaken
  rw [receive_taken htaken, directed_here huni hhere, deliver_opened hopened (hopc ▸ hnotice) (hopc ▸ hevent), hopc]

theorem receive_plain (htaken : taken s port p t yellow q) (hopened : opened t port q o) (hplain : pOpc p ∈ plainOpcodes) :
    receive s port p = requestIn t port o := by
  obtain ⟨hnotice, hevent, hanswer, hdb, hsync⟩ := (by decide : ∀ k ∈ plainOpcodes,
    k ≠ 0x1C ∧ k ≠ 0x0A ∧ isAnswer k = false ∧ k ≠ 0x09 ∧ k ≠ 0x08) _ hplain
  simp [receive_opened htaken hopened hnotice hevent, openedServed, hanswer, hdb, hsync]

theorem receive_answer (htaken : taken s port p t yellow q) (hopened : opened t port q o) (hopc : pOpc p ∈ answerOpcodes)
    (hshut : scopeShut t 5 0 = false) : receive s port p = answerIn t port o := by
  obtain ⟨hnotice, hevent, hanswer⟩ := (by decide : ∀ k ∈ answerOpcodes, k ≠ 0x1C ∧ k ≠ 0x0A ∧ isAnswer k = true) _ hopc
  simp [receive_opened htaken hopened hnotice hevent, openedServed, hanswer, hshut]

theorem receive_sync (htaken : taken s port p t yellow q) (hopened : opened t port q o) (hopc : pOpc p = 0x08) :
    receive s port p = if syncPktOk t o then requestIn t port o else dropArrival t port := by
  rw [receive_opened htaken hopened (by simp [hopc]) (by simp [hopc]), hopc]
  cases hok : syncPktOk t o <;> simp [openedServed, isAnswer, hok]

theorem receive_doorbell (htaken : taken s port p t yellow q) (hopened : opened t port q o) (hopc : pOpc p = 0x09) :
    receive s port p = if dbPktOk t o then requestIn t port o else dropArrival t port := by
  rw [receive_opened htaken hopened (by simp [hopc]) (by simp [hopc]), hopc]
  cases hok : dbPktOk t o <;> simp [openedServed, isAnswer, hok]

theorem deliver_event (hstays : t.xrd.leaving = 0) (hevent : pOpc q = 0x0A) : deliver t port q = dropArrival t port := by
  simp [deliver, hstays, hevent]

/-- A notice of the partner, which has crossed no other node, is obeyed. -/
theorem deliver_routeCtl (hstays : t.xrd.leaving = 0) (htc : pTc q ≠ 0) (hopc : pOpc q = 0x1C)
    (hpartner : pSrc q = t.rd PORT_PARTNER.NODE port) (hhops : pHops q = 0) : deliver t port q = routeCtl t port q := by
  simp [deliver, hstays, htc, hopc, hpartner, hhops]

/-! ### Transit (11 R435, R436) -/

theorem transit_limit (hlimit : pHops q = hopLimit t) : transit t port yellow q = t.count XRD_PORT_CNT.HOPS_DROP port := by
  simp only [transit, hop, if_pos hlimit]

theorem transit_below (hbelow : pHops q ≠ hopLimit t) : transit t port yellow q =
    routeUnicast t 16 port yellow { q with w0 := wset q.w0 49 6 (pHops q + 1) } := by
  simp only [transit, hop, if_neg hbelow]

end Delivery

/-- Settles O36: the packet comes whole through arrival, and its opcode then chooses between an answer, a check and a request. -/
theorem packetsAreServed : Obligations.PacketsAreServed := by
  intro s t port p q o yellow htaken hopened
  refine ⟨fun c k hmem hopc => ?request, fun c k hmem hopc hcode => ?atomic, fun hopc hok => ?syncServed, fun hopc hbad => ?syncDropped,
    fun hopc hok => ?doorbellServed, fun hopc hbad => ?doorbellDropped, fun c k hmem hopc hshut => ?answer⟩
  case request =>
    have hplain : k ∈ plainOpcodes := List.mem_append_left [0x06] (List.mem_map_of_mem (f := Prod.snd) hmem)
    rw [exec_opcodeCommand (List.mem_append_left _ (List.mem_append_left _ hmem)) hopc, receive_plain htaken hopened (hopc ▸ hplain)]
  case atomic => rw [exec_atomicCommand hmem hopc hcode, receive_plain htaken hopened (hopc ▸ by decide)]
  case syncServed => rw [exec_syncOp hopc, receive_sync htaken hopened hopc, if_pos hok]
  case syncDropped =>
    rw [exec_syncOp hopc, receive_sync htaken hopened hopc, if_neg (by simp [hbad])]
  case doorbellServed =>
    rw [exec_doorbellPacket hopc, receive_doorbell htaken hopened hopc, if_pos hok]
  case doorbellDropped =>
    rw [exec_doorbellPacket hopc, receive_doorbell htaken hopened hopc, if_neg (by simp [hbad])]
  case answer =>
    have hanswer : k ∈ answerOpcodes := List.mem_map_of_mem (f := Prod.snd) hmem
    rw [exec_opcodeCommand (List.mem_append_left _ (List.mem_append_right _ hmem)) hopc, receive_answer htaken hopened (hopc ▸ hanswer) hshut]

/-- Settles O37: a taken packet goes where `directed` sends it; one that is not taken ends at the first thing in its way: the link,
an arrival check, the drain, or its stale epoch. -/
theorem packetsPassOn : Obligations.PacketsPassOn := by
  intro s t port p q yellow
  refine ⟨fun htaken huni hother hpuni hpother => ⟨fun hlimit => ?limit, fun hbelow => ?below⟩, fun htaken hmcast hpmcast => ?multicast,
    fun htaken huni hhere hstays _ hevent hpevent => ?event,
    fun htaken huni hhere hstays htc hopc hpopc hpartner hhops c k hmem hcode => ?notice,
    fun c k hmem hopc => ?untaken⟩
  case limit => rw [exec_transitForward hpuni hpother, receive_taken htaken, directed_onward huni hother, transit_limit hlimit]
  case below => rw [exec_transitForward hpuni hpother, receive_taken htaken, directed_onward huni hother, transit_below hbelow]
  case multicast => rw [exec_multicastReplicate hpmcast, receive_taken htaken, directed_mcast hmcast]
  case event =>
    rw [exec_eventPacket hpevent, receive_taken htaken, directed_here huni hhere,
      deliver_event hstays hevent]
  case notice =>
    rw [exec_routeCtlCommand hmem hpopc hcode, receive_taken htaken, directed_here huni hhere,
      deliver_routeCtl hstays htc hopc hpartner hhops]
  case untaken =>
    have hsub : [(Instr.read port p, 0x01), (.write port p, 0x03), (.syncOp port p, 0x08), (.eventPacket port p, 0x0A)] ⊆
        opcodeCommands port p := by simp [opcodeCommands, requestCommands]
    rw [exec_opcodeCommand (hsub hmem) hopc]
    refine ⟨fun hdown => ?_, ?_, ?_, ?_⟩
    · rw [receive_down hdown]
    · rintro hup rfl hfail
      rw [receive_fails hup hfail]
    · intro u hup hq hpass hgreen hdrain
      rw [receive_metered hq hup hpass hgreen (by decide), if_pos hdrain]
      rfl
    · intro u hup hq hpass hgreen hdrain hepoch hidle
      rw [receive_metered hq hup hpass hgreen (by decide), hdrain, if_neg Bool.false_ne_true]
      exact congrArg (fun w => Host.Outcome.next (pump w)) (takePkt_stale hepoch hidle)

/-! ## The fabric time while nothing is queued (11 R448, 16 R607) -/

section Idle
variable {s t : State}

/-- The nanoseconds that are counted for the slew. -/
def slewTicked (s : State) : State := { s with xrd := { s.xrd with slewTicks := (s.xrd.slewTicks + 1) % 10000 } }

theorem timeTick_steady (hruns : timeRuns s = true) (hslew : s.xrd.slew = 0) : timeTick s = setTime (slewTicked s) (s.now + 1) := by
  have hcount : { s.xrd with slewTicks := (s.xrd.slewTicks + 1) % 10000, slew := s.xrd.slew - 0 } = (slewTicked s).xrd := by
    rw [Int.sub_zero]
    rfl
  simp only [timeTick, hslew, or_true, if_true] at hcount ⊢
  rw [hcount]
  exact if_pos hruns

/-- Lantern's microseconds, which count each thousand nanoseconds while it has power (16 R607). -/
def lanternTick (t : State) : State :=
  if t.rd CHIP_START.START_NO ≠ 0 ∧ t.xrd.slewTicks % 1000 = 0 then t.wr AON_TIME.TIME ((t.rd AON_TIME.TIME + 1) % 2 ^ 64) else t

theorem lanternTick_only (hsort : ksorted t.regs = true) : onlyRegs t (lanternTick t) [AON_TIME.reg.addr 0 0 0] := by
  rw [lanternTick]
  split
  · exact onlyRegs_wr t _ _ 0 0 0 hsort List.mem_cons_self
  · exact onlyRegs_refl t _

theorem settleCurfews_none (hnone : s.ctl.rsts = []) : settleCurfews s = s := by
  rw [settleCurfews, hnone]
  rfl

/-- Without a Curfew a nanosecond moves the two times on. -/
theorem idleTick_steady (hrsts : s.ctl.rsts = []) (hruns : timeRuns s = true) (hslew : s.xrd.slew = 0) (hsort : ksorted s.regs = true) :
    idleTick s = lanternTick (setTime (slewTicked s) (s.now + 1)) := by
  have honly := lanternTick_only (t := setTime (slewTicked s) (s.now + 1)) (wrReg_sorted _ _ _ _ _ _ hsort)
  calc idleTick s = settleCurfews (lanternTick (timeTick s)) := rfl
    _ = settleCurfews (lanternTick (setTime (slewTicked s) (s.now + 1))) := by rw [timeTick_steady hruns hslew]
    _ = _ := settleCurfews_none (by rw [honly.1]; exact hrsts)

end Idle

/-- Settles O2: the step is `idleTick`, which moves the fabric time and then writes no register but Lantern's. -/
theorem emptyQueueTicks : Obligations.EmptyQueueTicks := by
  intro s hempty hrsts hruns hslew hsort
  have hsort' : ksorted (setTime (slewTicked s) (s.now + 1)).regs = true := wrReg_sorted _ _ _ _ _ _ hsort
  obtain ⟨hrest, hkept⟩ := lanternTick_only hsort'
  refine ⟨lanternTick (setTime (slewTicked s) (s.now + 1)), ?_, ?_, ?_, ?_, ?_⟩
  · rw [step, hempty]
    exact congrArg Host.Outcome.next (idleTick_steady hrsts hruns hslew hsort)
  · rw [hrest]
    exact hempty
  · rw [hrest]
    rfl
  · rw [hrest]
    rfl
  · rw [State.now, hkept XRD_TIME.reg 0 0 0 (by decide)]
    exact now_setTime (slewTicked s) (s.now + 1) hsort

/-! ## Route commits, the answer cache and TIME (11 R432, R444, R446, R448) -/

section Commits
variable {s : State} {c : Commit}

theorem exec_commitAtReached_due (hcommit : s.xrd.commit = some c) (hphase : c.phase = 0) :
    exec .commitAtReached s = .next (pump (commitAt s c)) := by
  show execCommitAtReached s = _
  simp only [execCommitAtReached, hcommit, if_pos hphase]

theorem exec_epochHoldExpiry_held (hcommit : s.xrd.commit = some c) (hphase : c.phase = 1) :
    exec .epochHoldExpiry s = .next (if s.rd XRD_EPOCH.OLD_PKTS = 0 then holdEnd s else s) := by
  show execEpochHoldExpiry s = _
  simp only [execEpochHoldExpiry, hcommit, hphase, true_and]

theorem exec_drainEnd_draining (hcommit : s.xrd.commit = some c) (hphase : c.phase = 2) :
    exec .drainEnd s = .next (pump (drainEnd s c)) := by
  show execDrainEnd s = _
  simp only [execDrainEnd, hcommit, if_pos hphase]

theorem exec_commits_none (hnone : s.xrd.commit = none) :
    exec .commitAtReached s = .next s ∧ exec .epochHoldExpiry s = .next s ∧ exec .drainEnd s = .next s := by
  show execCommitAtReached s = _ ∧ execEpochHoldExpiry s = _ ∧ execDrainEnd s = _
  simp only [execCommitAtReached, execEpochHoldExpiry, execDrainEnd, hnone, and_self]

/-- The node begins to drain (11 R446 step 2). -/
def drainBegun (s : State) (c : Commit) : State :=
  { s.wr XRD_EPOCH.DRAINING 1 with xrd := { s.xrd with commit := some { c with phase := 2 } } }

theorem commitAt_drain (hdrain : c.drain = true) (hdue : ¬ s.now < c.at_) : commitAt s c = drainBegun s c := by
  simp only [commitAt, if_neg hdue, if_pos hdrain]
  rfl

theorem drainBegun_spec (hsort : ksorted s.regs = true) (c : Commit) :
    (drainBegun s c).rd XRD_EPOCH.DRAINING = 1 ∧ regsKept s (drainBegun s c) [XRD_EPOCH.reg.addr 0 0 0] := by
  have hregs : (drainBegun s c).regs = (s.wr XRD_EPOCH.DRAINING 1).regs := rfl
  exact ⟨(rd_of_regs hregs _ 0 0 0).trans (rd_wr_of_lt hsort (by decide) (by decide) 0),
    regsKept_trans (regsKept_wr s XRD_EPOCH.DRAINING 1 0 0 0 hsort List.mem_cons_self) (regsKept_of_regs _ hregs)⟩

/-- The other version is the current one, and none is pending (11 R444 step 2). -/
def epochFlipped (s : State) : State := (s.wr XRD_EPOCH.CUR (1 - s.rd XRD_EPOCH.CUR)).wr XRD_EPOCH.PENDING 0

/-- The commit holds the version that was current for the packets that carry it (11 R444 step 3). -/
def commitHolds (t : State) (c : Commit) : State :=
  { t with xrd := { t.xrd with commit := some { c with phase := 1 }, staleAt := staleTotal t } }

/-- The state in which the flip's descriptor ends: the old version's packets are counted. -/
def oldHeld (t : State) (c : Commit) : State := countOld (commitHolds t c)

theorem commitAt_flip (hflip : c.drain = false) (hdue : ¬ s.now < c.at_) : commitAt s c =
    commitDone (evPf0 (oldHeld (epochFlipped s) c) 0x0902 (1 - s.rd XRD_EPOCH.CUR) c.at_ (oldHeld (epochFlipped s) c).now) c 0 := by
  simp only [commitAt, if_neg hdue]
  exact if_neg (by simp [hflip])

theorem epochFlipped_sorted (hsort : ksorted s.regs = true) : ksorted (epochFlipped s).regs = true :=
  wr_sorted _ _ _ _ _ _ (wr_sorted _ _ _ _ _ _ hsort)

/-- Counting the old packets writes OLD_PKTS alone. -/
theorem rd_countOld {f : Fld} (hsort : ksorted s.regs = true) (hf : f.Beside XRD_EPOCH.OLD_PKTS) : (countOld s).rd f = s.rd f :=
  rd_wr_beside hsort (by decide) hf _ 0

theorem rd_oldHeld {f : Fld} (hsort : ksorted s.regs = true) (hf : f.Beside XRD_EPOCH.OLD_PKTS) (c : Commit) :
    (oldHeld s c).rd f = s.rd f := by
  have hcount : (oldHeld s c).rd f = (commitHolds s c).rd f := rd_countOld (s := commitHolds s c) hsort hf
  exact hcount.trans (rd_of_regs rfl f 0 0 0)

theorem rd_epochFlipped (hsort : ksorted s.regs = true) :
    (epochFlipped s).rd XRD_EPOCH.CUR = (1 - s.rd XRD_EPOCH.CUR) % 2 ∧ (epochFlipped s).rd XRD_EPOCH.PENDING = 0 := by
  have hsort' : ksorted (s.wr XRD_EPOCH.CUR (1 - s.rd XRD_EPOCH.CUR)).regs = true := wr_sorted _ _ _ _ _ _ hsort
  refine ⟨?_, rd_wr_of_lt hsort' (by decide) (by decide) 0⟩
  rw [epochFlipped, rd_wr_beside hsort' (by decide) (by decide), rd_wr_self s _ _ 0 0 0 hsort (by decide) (by decide)]
  rfl

theorem epochFlipped_kept (hsort : ksorted s.regs = true) : regsKept s (epochFlipped s) [XRD_EPOCH.reg.addr 0 0 0] := by
  have hsort' : ksorted (s.wr XRD_EPOCH.CUR (1 - s.rd XRD_EPOCH.CUR)).regs = true := wr_sorted _ _ _ _ _ _ hsort
  rw [epochFlipped]
  exact regsKept_trans (regsKept_wr s XRD_EPOCH.CUR _ 0 0 0 hsort List.mem_cons_self)
    (regsKept_wr _ XRD_EPOCH.PENDING 0 0 0 0 hsort' List.mem_cons_self)

theorem countOld_kept (hsort : ksorted s.regs = true) : regsKept s (countOld s) [XRD_EPOCH.reg.addr 0 0 0] := by
  rw [countOld]
  exact regsKept_wr s XRD_EPOCH.OLD_PKTS _ 0 0 0 hsort List.mem_cons_self

theorem oldHeld_kept (hsort : ksorted s.regs = true) (c : Commit) : regsKept s (oldHeld s c) [XRD_EPOCH.reg.addr 0 0 0] := by
  have hsort' : ksorted (commitHolds s c).regs = true := hsort
  rw [oldHeld]
  exact regsKept_trans (regsKept_of_regs _ rfl) (countOld_kept hsort')

/-- A flip writes no register but XRD_EPOCH, so not the fabric time. -/
theorem now_oldHeld_epochFlipped (hsort : ksorted s.regs = true) (c : Commit) : (oldHeld (epochFlipped s) c).now = s.now :=
  regsKept_trans (epochFlipped_kept hsort) (oldHeld_kept (epochFlipped_sorted hsort) c) XRD_TIME.reg 0 0 0 (by decide)

end Commits

section Times
variable {s : State} {n : Nat}

/-- The ports on which TIME goes out. -/
def timePorts (s : State) : List Nat := (List.range 32).filter fun n => (s.rd XRD_TIME_CFG.CHILD).testBit n && usable s n

/-- TIME on one port. -/
def timeSent (t : State) (n : Nat) : State := enqueue t n 16 32 false false (notice t n 3 0 (lineOfWords [t.now]))

theorem exec_timeSendTick (hstays : s.xrd.leaving = 0) (hdrain : s.on XRD_EPOCH.DRAINING = false) :
    exec .timeSendTick s = .next ((timePorts s).foldl timeSent s) :=
  congrArg Host.Outcome.next (if_neg (by simp [hstays, hdrain]))

theorem timePorts_none (hnone : ∀ n, n < 32 → (s.rd XRD_TIME_CFG.CHILD).testBit n = true → usable s n = false) : timePorts s = [] := by
  refine List.filter_eq_nil_iff.2 fun n hn hsends => ?_
  obtain ⟨hchild, husable⟩ := Bool.and_eq_true_iff.1 hsends
  rw [hnone n (List.mem_range.1 hn) hchild] at husable
  cases husable

theorem timePorts_single (hn : n < 32) (hchild : s.rd XRD_TIME_CFG.CHILD = 2 ^ n) (husable : usable s n = true) :
    timePorts s = [n] := by
  have hsends : ∀ m, ((s.rd XRD_TIME_CFG.CHILD).testBit m && usable s m) = (m == n) := by
    intro m
    by_cases hm : m = n
    · subst hm
      simp [hchild, husable]
    · simp [hchild, Nat.testBit_two_pow_of_ne (Ne.symm hm), hm]
  rw [timePorts, funext hsends, List.filter_beq, List.count_eq_one_of_mem List.nodup_range (List.mem_range.2 hn), List.replicate_one]

theorem exec_timeLossExpiry_master (hmaster : s.on XRD_TIME_CFG.MASTER = true) : exec .timeLossExpiry s = .next s :=
  congrArg Host.Outcome.next (if_pos hmaster)

/-- The chip follows no master any more: nothing is left to slew. -/
def unsynced (s : State) : State := { s with xrd := { s.xrd with slew := 0 } }.wr XRD_TIME_CFG.SYNCED 0

theorem exec_timeLossExpiry_follower (hfollows : s.on XRD_TIME_CFG.MASTER = false) :
    exec .timeLossExpiry s = .next (guardAll (unsynced s)) :=
  congrArg Host.Outcome.next (if_neg (by simp [hfollows]))

theorem unsynced_spec (hsort : ksorted s.regs = true) :
    (unsynced s).rd XRD_TIME_CFG.SYNCED = 0 ∧ regsKept s (unsynced s) [XRD_TIME_CFG.reg.addr 0 0 0] :=
  ⟨rd_wr_of_lt (s := { s with xrd := _ }) hsort (by decide) (by decide) 0,
    regsKept_wr { s with xrd := _ } _ _ _ _ _ hsort List.mem_cons_self⟩

end Times

/-- Settles O39: the commit's phase chooses what its timers do, the ports that `timePorts` lists send TIME, and each register's
part is the spec of the function above that writes it. -/
theorem crossroadsTimers : Obligations.CrossroadsTimers := by
  intro s hsort
  refine ⟨fun c hcommit hphase hflip hnow => ?flip, fun c hcommit hphase hdrain hnow => ?drain, fun c hcommit hphase hgone => ?held,
    fun c hcommit hphase hleft => ?holding, fun c hcommit hphase => exec_drainEnd_draining hcommit hphase, exec_commits_none,
    fun sl src seq ctag k hanswers hk => ?cache, fun hstays hdrain hnone => ?nobody, fun n hn hstays hdrain hchild husable => ?child,
    exec_timeLossExpiry_master, fun hfollows => ?lost⟩
  case flip =>
    obtain ⟨hcur, hpending⟩ := rd_epochFlipped hsort
    have hsort' := epochFlipped_sorted hsort
    refine ⟨oldHeld (epochFlipped s) c, ?_, (rd_oldHeld hsort' (by decide) c).trans hcur,
      (rd_oldHeld hsort' (by decide) c).trans hpending, rfl⟩
    rw [exec_commitAtReached_due hcommit hphase, commitAt_flip hflip (by omega), now_oldHeld_epochFlipped hsort]
  case drain =>
    obtain ⟨hdraining, hkept⟩ := drainBegun_spec hsort c
    refine ⟨drainBegun s c, ?_, hdraining, rfl, hkept⟩
    rw [exec_commitAtReached_due hcommit hphase, commitAt_drain hdrain (by omega)]
  case held => rw [exec_epochHoldExpiry_held hcommit hphase, if_pos hgone]
  case holding => rw [exec_epochHoldExpiry_held hcommit hphase, if_neg hleft]
  case cache =>
    subst hk
    exact ⟨_, rfl, rfl, kget_kdel_self _ _ hanswers, fun j hj => kget_kdel_ne _ hanswers hj⟩
  case nobody => rw [exec_timeSendTick hstays hdrain, timePorts_none hnone, List.foldl_nil]
  case child =>
    rw [exec_timeSendTick hstays hdrain, timePorts_single hn hchild husable, List.foldl_cons, List.foldl_nil, timeSent]
  case lost =>
    obtain ⟨hsynced, hkept⟩ := unsynced_spec hsort
    exact ⟨unsynced s, exec_timeLossExpiry_follower hfollows, hsynced, rfl, hkept⟩

end Sys2Proof.Machine
end

section
/-!
PROOFS for 00_scope.md: what stands in the queue of commands, and the state after reset.
-/
namespace Sys2Proof.Machine

/-! ## The queue (log entry 1) -/

/-- Settles O1: `step` matches on the queue. -/
theorem stepRunsTheFrontCommand : Obligations.StepRunsTheFrontCommand := fun _ _ _ => rfl

/-- Having a given queue is a closed property: no operation of the block writes the queue. -/
theorem closed_pending (q : List Instr) : Closed fun t => t.pending = q where
  upd _ _ h hpending _ _ _ := hpending.trans h
  regs _ _ h _ := h
  setLine _ _ _ h := h
  poisonLine _ _ h := h
  zeroRange _ _ _ h := h
  poisonChan _ _ h := h
  wipe _ _ h _ := h

/-- A command that goes on to a next state, whatever it is. -/
def Goes (o : Host.Outcome State Fault Refusal) : Prop := ∃ t, o = .next t

/-- Every command that `mayStop` does not name goes on: its meaning is a next state, but for eleven that choose between next
states. -/
theorem exec_goes {c : Instr} (s : State) (h : mayStop c = false) : Goes (exec c s) := by
  cases c with
  | registerWrite | doorbellPidxWrite | doorbellCcidxWrite | gatherPool | scatterAdd | routeStage | qosRegWrite =>
    exact absurd h.symm Bool.false_ne_true
  | versionReleaseDone | spaceInvalDrained | releaseTmoExpiry | holdTmoExpiry | xltReqLifeExpiry | syncWaitSatisfied
  | syncWaitTmoExpiry | setTimerExpiry | programTilesDone | progRunTmoExpiry | issuerAccessDone =>
    simp only [exec, execVersionReleaseDone, execSpaceInvalDrained, execReleaseTmoExpiry, execHoldTmoExpiry, execXltReqLifeExpiry,
      execSyncWaitSatisfied, execSyncWaitTmoExpiry, execSetTimerExpiry, execProgramTilesDone, execProgRunTmoExpiry,
      execIssuerAccessDone]
    repeat' split
    all_goals exact ⟨_, rfl⟩
  | _ => exact ⟨_, rfl⟩

/-- Settles O3: the queue that a command was given is a closed property, which every command keeps. -/
theorem commandsLeaveTheQueue : Obligations.CommandsLeaveTheQueue := by
  have hqueue (c : Instr) (s t : State) (hexec : exec c s = .next t) : t.pending = s.pending := by
    have hout := exec_keeps (closed_pending s.pending) c s rfl
    rwa [hexec] at hout
  refine ⟨hqueue, fun c s hc => ?_⟩
  obtain ⟨t, hexec⟩ := exec_goes s hc
  exact ⟨t, hexec, hqueue c s t hexec⟩

/-! ## The state after reset (16 R570) -/

/-- Settles O4: no register is listed at reset, and memory and poison are empty. -/
theorem invariantAtReset : Obligations.InvariantAtReset := ⟨rfl, memOk_of_empty rfl rfl⟩

end Sys2Proof.Machine
end

section
/-!
PROOFS shared by the chapters from 12 on: several fields of one copy of a register written one after another, and the fields
that every write of the host reaches.
-/
namespace Sys2Proof.Machine

section Writes
variable {s : State} {g : Fld} {r : Reg} {l : List (Fld × Nat)}

/-- Fields of number `n` of their registers, written in order. -/
def State.wrs (s : State) (n : Nat) (l : List (Fld × Nat)) : State := l.foldl (fun t p => t.wr p.1 p.2 n) s

/-- A write of `f` sets `g` or shares no bit with it, in a register of 64 bits. -/
def Fld.setBy (g f : Fld) : Bool := decide f.Fits && (f == g || decide (g.Beside f))

theorem rd_wr_setBy (hsort : ksorted s.regs = true) {f : Fld} (hf : g.setBy f = true) (v n : Nat) :
    (s.wr f v n).rd g n = if f == g then v % 2 ^ g.w else s.rd g n := by
  simp only [Fld.setBy, Bool.and_eq_true, decide_eq_true_eq, Bool.or_eq_true] at hf
  obtain ⟨hfits, hset⟩ := hf
  by_cases hfg : f = g
  · subst hfg
    rw [rd_wr_self s f v n 0 0 hsort (rvAt_lt hfits.1 n) hfits.2, beq_self_eq_true, if_pos rfl]
  · rw [if_neg (by simp [hfg]), rd_wr_beside hsort hfits (hset.resolve_left (by simp [hfg])) v n]

theorem wrs_sorted (hsort : ksorted s.regs = true) (n : Nat) (l : List (Fld × Nat)) : ksorted (s.wrs n l).regs = true := by
  induction l generalizing s with
  | nil => exact hsort
  | cons p l ih => exact ih (wr_sorted s p.1 p.2 n 0 0 hsort)

/-- A field holds what was written to it last, or what it held where none of the writes is to it. -/
theorem rd_wrs (hsort : ksorted s.regs = true) (hl : l.all (fun p => g.setBy p.1) = true) (n : Nat) :
    (s.wrs n l).rd g n = l.foldl (fun x p => if p.1 == g then p.2 % 2 ^ g.w else x) (s.rd g n) := by
  induction l generalizing s with
  | nil => rfl
  | cons p l ih =>
    simp only [List.all_cons, Bool.and_eq_true] at hl
    exact (ih (wr_sorted s p.1 p.2 n 0 0 hsort) hl.2).trans (by rw [rd_wr_setBy hsort hl.1]; rfl)

theorem wrs_only (hsort : ksorted s.regs = true) (hl : l.all (fun p => p.1.reg == r) = true) (n : Nat) :
    onlyRegs s (s.wrs n l) [r.addr n 0 0] := by
  induction l generalizing s with
  | nil => exact onlyRegs_refl _ _
  | cons p l ih =>
    simp only [List.all_cons, Bool.and_eq_true, beq_iff_eq] at hl
    exact onlyRegs_trans (onlyRegs_wr s p.1 p.2 n 0 0 hsort (by rw [hl.1]; exact List.mem_cons_self))
      (ih (wr_sorted s p.1 p.2 n 0 0 hsort) hl.2)

/-- A counter register's field, raised, leaves every other register. -/
theorem onlyRegs_count (s : State) (f : Fld) (i j k d : Nat) {l : List Nat} (hsort : ksorted s.regs = true)
    (hl : f.reg.addr i j k ∈ l) : onlyRegs s (s.count f i j k d) l := onlyRegs_wr s f _ i j k hsort hl

theorem count_sorted (s : State) (f : Fld) (i j k d : Nat) (hsort : ksorted s.regs = true) : ksorted (s.count f i j k d).regs = true :=
  wr_sorted s f _ i j k hsort

end Writes

section Ungated
variable {s : State} {g : Fld} {clr : Clr}

/-- The RW fields of a register take every write of the host. -/
def Reg.Ungated (r : Reg) : Prop := ∀ (s : State) (row : RegRow) (i j k lo : Nat), row.reg = r → takesWrite s ⟨row, i, j, k⟩ lo = true

theorem rd_plainWrite_ungated (hr : g.reg.Ungated) (hg : g.Listed .rw clr) (hsort : ksorted s.regs = true) (i j k v : Nat) :
    (plainWrite s g.reg i j k v).rd g i j k = wrote g v := by
  rw [rd_plainWrite_rw hg hsort, hr s _ i j k g.lo hg.2.1, if_pos rfl]

end Ungated

theorem sameMem_wr {s t : State} (h : sameMem s t) (f : Fld) (v i j k : Nat) : sameMem s (t.wr f v i j k) := h

/-- What a command of `leavesMemory` reaches has the memory and the poison of the state it starts from. -/
theorem exec_sameMem {c : Instr} {s t : State} (hc : leavesMemory c = true) (hexec : exec c s = .next t) : sameMem s t := by
  have hout := exec_keeps_of_leavesMemory (regular_sameMem s) c s hc ⟨rfl, rfl⟩
  rwa [hexec] at hout

end Sys2Proof.Machine
end

section
/-!
PROOFS for 13_dram_channels_and_stored_data.md: training and retrains of a channel, its quiet windows, refresh, temperature and
scrubbing, and the writes of its control registers. The rules for a channel's state come first; each part after them says once what
the model's functions do in each case, and ends with the statement it settles.
-/
namespace Sys2Proof.Machine

/-! ## A channel's state -/

section ChannelState
variable {s : State}

theorem chanX_setChanX_self (hsort : ksorted s.chans = true) (c : Nat) (x : ChanX) : (s.setChanX c x).chanX c = x :=
  kgetD_kset_self _ c x s.chans hsort

theorem setChanX_sorted (hsort : ksorted s.chans = true) (c : Nat) (x : ChanX) : ksorted (s.setChanX c x).chans = true :=
  ksorted_kset _ c x s.chans hsort

@[simp] theorem rd_setChanX (s : State) (c : Nat) (x : ChanX) (f : Fld) (i j k : Nat) : (s.setChanX c x).rd f i j k = s.rd f i j k :=
  rd_of_regs rfl f i j k

@[simp] theorem regs_setChanX (s : State) (c : Nat) (x : ChanX) : (s.setChanX c x).regs = s.regs := rfl

/-- A channel's state set leaves the registers as they were. -/
theorem regs_sorted_setChanX (hsort : ksorted s.regs = true) (c : Nat) (x : ChanX) : ksorted (s.setChanX c x).regs = true := hsort

theorem sameMem_setChanX (s : State) (c : Nat) (x : ChanX) : sameMem s (s.setChanX c x) := ⟨rfl, rfl⟩

theorem regsKept_setChanX (s : State) (c : Nat) (x : ChanX) (l : List Nat) : regsKept s (s.setChanX c x) l := regsKept_of_regs l rfl

@[simp] theorem chanX_wr (s : State) (f : Fld) (v i j k c : Nat) : (s.wr f v i j k).chanX c = s.chanX c := rfl

@[simp] theorem chanX_count (s : State) (f : Fld) (i j k d c : Nat) : (s.count f i j k d).chanX c = s.chanX c := rfl

end ChannelState

/-! ## Training, retrains and what loses a channel (13 R485, R499 to R503, R510) -/

section Training
variable {s t : State} {c : Nat} {d : Dimms}

theorem chanTrain_off (hoff : s.on DDR_CTL.ENABLE c = false) : chanTrain s c d = s := by simp [chanTrain, hoff]

/-- Training with the DIMMs found: none, others that keep the population rules, or ones that break them. -/
theorem chanTrain_found (hon : s.on DDR_CTL.ENABLE c = true) (hstate : s.rd DDR_CTL.STATE c ≤ 1) (halive : (s.chanX c).dead = false)
    (hward : wardOut s (c / 8) = false) (ht : t = putSpd (s.setChanX c { s.chanX c with dimms := some d, rows := [] }) c d.spd) :
    chanTrain s c d = if d.n = 0 then t.wr DDR_CTL.STATE 0 c else if dimmsOk d then measZero (t.wr DDR_CTL.STATE 1 c) c
      else chanLose t c 2 := by
  subst ht
  have hlow : ¬ 1 < s.rd DDR_CTL.STATE c := by omega
  by_cases hok : dimmsOk d = true <;> simp [chanTrain, hon, hlow, halive, hward, hok]

theorem chanTrained_failed (hstate : s.rd DDR_CTL.STATE c = 1) (hdimms : (s.chanX c).dimms = some d) :
    chanTrained s c false = chanLose s c 8 := by
  simp [chanTrained, hstate, hdimms]

/-- What the register of a channel that enters service shows: its rate and its DIMMs, and no cause of loss. -/
def chanShown (s : State) (c : Nat) (d : Dimms) : State :=
  ((((((s.wr DDR_CTL.STATE 2 c).wr DDR_CTL.LOSS_CAUSE 0 c).wr DDR_CTL.RATE (trainRate s c d) c).wr DDR_CTL.DIMMS d.n c).wr
    DDR_CTL.KIND d.kind c).wr DDR_CTL.RANKS d.ranks c).wr DDR_CTL.CAP_G d.capG c

theorem chanShown_eq_wrs (s : State) (c : Nat) (d : Dimms) : chanShown s c d = s.wrs c [(DDR_CTL.STATE, 2), (DDR_CTL.LOSS_CAUSE, 0),
    (DDR_CTL.RATE, trainRate s c d), (DDR_CTL.DIMMS, d.n), (DDR_CTL.KIND, d.kind), (DDR_CTL.RANKS, d.ranks),
    (DDR_CTL.CAP_G, d.capG)] := rfl

/-- A channel that enters service with what it stores kept. -/
def chanEntered (s : State) (c : Nat) (d : Dimms) : State :=
  (chanShown s c d).setChanX c
    { (chanShown s c d).chanX c with rearm := false, errs := (s.chanX c).errs, lapAt := (chanShown s c d).now }

theorem chanTrained_passed (hstate : s.rd DDR_CTL.STATE c = 1) (hdimms : (s.chanX c).dimms = some d)
    (hkeep : (s.chanX c).rearm = false) (ht : t = chanEntered s c d) : chanTrained s c true =
      wakeChan (restChan (floorSync (evPf0 t 0x0B01 c (trainRate s c d + t.rd DDR_CTL.STEPDOWN c * 2 ^ 8) d.capG)) c) c := by
  subst ht
  simp only [chanTrained, hdimms, hkeep, Bool.false_eq_true, if_false]
  rw [if_neg (by omega), if_neg (by omega), if_neg (by simp)]
  rfl

theorem rd_chanEntered (hsort : ksorted s.regs = true) (ht : t = chanEntered s c d) :
    t.rd DDR_CTL.STATE c = 2 ∧ t.rd DDR_CTL.RATE c = trainRate s c d % 2 ^ DDR_CTL.RATE.w ∧
      t.rd DDR_CTL.CAP_G c = d.capG % 2 ^ DDR_CTL.CAP_G.w ∧ t.rd DDR_CTL.LOSS_CAUSE c = 0 := by
  have hshown (g : Fld) : t.rd g c = (chanShown s c d).rd g c := by rw [ht, chanEntered, rd_setChanX]
  simp only [hshown, chanShown_eq_wrs]
  exact ⟨rd_wrs hsort rfl c, rd_wrs hsort rfl c, rd_wrs hsort rfl c, rd_wrs hsort rfl c⟩

/-- A channel back in service from a runtime retrain. -/
def chanReturned (s : State) (c : Nat) : State :=
  ((s.setChanX c { s.chanX c with retrain := 0, parity := if (s.chanX c).retrain = 2 then 1 else 0 }).wr DDR_CTL.STATE 2 c).count
    DDR_LOAD2.RETRAINS c

theorem chanTrained_retrain (ok : Bool) (hstate : s.rd DDR_CTL.STATE c = 3) (hcool : (s.chanX c).holdDue = false) :
    chanTrained s c ok =
      wakeChan (evPf0 (chanReturned s c) 0x0B08 c (s.chanX c).retrain ((s.now - (s.chanX c).retrainAt) / 1000)) c := by
  simp [chanTrained, hstate, hcool, chanReturned]

theorem rd_chanReturned (hsort : ksorted s.regs = true) (c : Nat) : (chanReturned s c).rd DDR_CTL.STATE c = 2 := by
  rw [chanReturned, State.count, rd_wr_ne _ _ _ _ _ _ _ _ _ _ (wr_sorted _ _ _ _ _ _ (regs_sorted_setChanX hsort c _))
    (by simp [Reg.addr, DDR_CTL.STATE, DDR_CTL.reg, DDR_LOAD2.RETRAINS, DDR_LOAD2.reg])]
  exact rd_wr_of_lt (regs_sorted_setChanX hsort c _) (by decide) (by decide) c

theorem trainFail_steps (hstate : s.rd DDR_CTL.STATE c = 1) (hdimms : (s.chanX c).dimms = some d) (hkeep : (s.chanX c).rearm = false)
    (hleft : s.rd DDR_CTL.STEPDOWN c < ((ratesOf d.kind).filter fun r => decide (r ≤ d.rate)).length - 1) :
    trainFail s c = chanLose (s.count DDR_CTL.STEPDOWN c) c 1 := by
  simp [trainFail, hstate, hdimms, hkeep, hleft]

theorem trainFail_other (hstate : s.rd DDR_CTL.STATE c ≠ 1) : trainFail s c = s := by simp [trainFail, hstate]

theorem parityFail_early {k : Nat} (hk : k < 3) : parityFail s c k = s := by simp [parityFail, hk]

/-- The third retry that fails starts a retrain, or loses a channel that has been retrained for parity. -/
theorem parityFail_third {k : Nat} (hk : 3 ≤ k) (hstate : s.rd DDR_CTL.STATE c = 2) :
    parityFail s c k = if (s.chanX c).parity ≠ 0 then chanLose s c 4 else retrainChan s c 2 := by
  have hk' : ¬ k < 3 := by omega
  simp [parityFail, hk', hstate]

end Training

/-- Settles O47: each of the five commands is a function of the channel, whose branches the lemmas above name. -/
theorem channelsTrainAndRetrain : Obligations.ChannelsTrainAndRetrain := by
  rintro s c x rfl
  have hnext {t u : State} (h : t = u) : (.next t : Host.Outcome State Fault Refusal) = .next u := congrArg _ h
  refine ⟨fun d t hon hstate halive hward ht => ?found, fun d hoff => hnext (chanTrain_off hoff),
    fun d hstate hdimms => hnext (chanTrained_failed hstate hdimms),
    fun d hstate hdimms hkeep => ⟨chanEntered s c d, hnext (chanTrained_passed hstate hdimms hkeep rfl), fun hsort => rd_chanEntered hsort rfl⟩,
    fun hstate hcool => ⟨chanReturned s c, fun ok => ⟨hnext (chanTrained_retrain ok hstate hcool), fun hsort => rd_chanReturned hsort c⟩⟩,
    fun d hstate hdimms hkeep hleft => hnext (trainFail_steps hstate hdimms hkeep hleft), fun hstate => hnext (trainFail_other hstate),
    fun hstate => hnext (if_pos hstate), fun hstate => hnext (if_neg hstate), fun k hk => hnext (parityFail_early hk),
    fun k hk hstate hnone => hnext ((parityFail_third hk hstate).trans (if_neg (not_not.2 hnone))),
    fun k hk hstate hsome => hnext ((parityFail_third hk hstate).trans (if_pos hsome))⟩
  case found =>
    have htrain := chanTrain_found hon hstate halive hward ht
    refine ⟨fun hn => hnext ?_, fun hn hok => hnext ?_, fun hn hok => hnext ?_⟩
    · rw [htrain, if_pos hn]
    · rw [htrain, if_neg hn, hok, if_neg Bool.false_ne_true]
    · rw [htrain, if_neg hn, if_pos hok]

/-! ## Quiet windows, refresh stops, temperature and scrubbing (13 R502 to R508) -/

section Windows
variable {s t : State} {c : Nat}

/-- A quiet window of an active channel waits for the sister's, or begins. -/
theorem windowDue_active (hstate : s.rd DDR_CTL.STATE c = 2) (hout : (s.chanX c).inWin = false) :
    windowDue s c = if (s.chanX (sister c)).inWin then s.setChanX c { s.chanX c with winDue := true } else windowBegin s c := by
  simp [windowDue, hstate, hout]

theorem windowDue_other (hstate : s.rd DDR_CTL.STATE c ≠ 2) : windowDue s c = s := by simp [windowDue, hstate]

theorem windowBegin_spec (hregs : ksorted s.regs = true) (hchans : ksorted s.chans = true) (ht : t = windowBegin s c) :
    t.chanX c = { s.chanX c with inWin := true, winDue := false, winAt := s.now, rows := [] } ∧
      t.rd DDR_LOAD2.QWINDOWS c = min (s.rd DDR_LOAD2.QWINDOWS c + 1) (2 ^ DDR_LOAD2.QWINDOWS.w - 1) ∧
      regsKept s t [DDR_LOAD2.reg.addr c 0 0] := by
  subst ht
  have hregs' := regs_sorted_setChanX hregs c
  refine ⟨?_, ?_, ?_⟩
  · rw [windowBegin, chanX_count, chanX_setChanX_self hchans]
  · rw [windowBegin, rd_count_self (hregs' _) (by decide), rd_setChanX]
  · exact regsKept_trans (regsKept_setChanX s c _ _) (onlyRegs_count _ DDR_LOAD2.QWINDOWS c 0 0 1 (hregs' _) List.mem_cons_self).2

theorem windowEnd_outside (drift : Bool) (hout : (s.chanX c).inWin = false) : windowEnd s c drift = s := by
  simp [windowEnd, checkEnd, windowEnd0, hout]

/-- The channel after a window that ended without drift, whose stolen slots `t` has counted. -/
def windowClosed (t : State) (c : Nat) : State :=
  t.setChanX c { t.chanX c with inWin := false, drift := 0, parity := 0 }

theorem windowEnd_steady (hrun : s.start.step ≠ 8) (hin : (s.chanX c).inWin = true) (hcool : (s.chanX c).holdDue = false)
    (ht : t = stealSlots s c (slotsIn s c (min (s.now - (s.chanX c).winAt) (clampN 500 2000 (s.rd DDR_CFG.QW_MAX c))))) {w : State}
    (hw : w = wakeChan (windowClosed t c) c) :
    windowEnd s c false = if (w.chanX (sister c)).winDue then windowDue w (sister c) else w := by
  subst hw ht
  simp only [windowEnd, if_neg hrun, windowEnd0, hin, hcool, not_true, if_false, Bool.false_eq_true]
  rw [if_neg (show ¬ 3 ≤ 0 by decide)]
  rfl

theorem stealSlots_sorted (hchans : ksorted s.chans = true) (c k : Nat) : ksorted (stealSlots s c k).chans = true :=
  setChanX_sorted hchans c _

theorem stealSlots_spec (hregs : ksorted s.regs = true) (hchans : ksorted s.chans = true) (c k : Nat) :
    ((stealSlots s c k).chanX c).rows = (s.chanX c).rows ∧ regsKept s (stealSlots s c k) [QOS_CH_STAT.reg.addr c 0 0] := by
  refine ⟨?_, 
    regsKept_trans (regsKept_setChanX s c _ _) (onlyRegs_count _ QOS_CH_STAT.STOLEN c 0 0 _ (regs_sorted_setChanX hregs c _) List.mem_cons_self).2⟩
  rw [stealSlots, chanX_count, chanX_setChanX_self hchans]

theorem refreshStop_not_now (sub : Bool) (hno : s.rd DDR_CTL.STATE c ≠ 2 ∨ (s.chanX c).inWin = true) : refreshStop s c sub = s := by
  simp only [refreshStop, if_pos hno]

/-- A refresh stop steals slots once the rows of its subchannel have closed. -/
theorem refreshStop_active (sub : Bool) (hstate : s.rd DDR_CTL.STATE c = 2) (hout : (s.chanX c).inWin = false) :
    ∃ k, refreshStop s c sub =
      stealSlots (s.setChanX c { s.chanX c with rows := (s.chanX c).rows.filter fun r => r.1 % 2 != b2n sub }) c k :=
  ⟨_, by simp only [refreshStop, hstate, hout]; rfl⟩

end Windows

section Temperature
variable {s t : State} {c : Nat} {h : Int}

theorem medianInt_single (h : Int) : medianInt [h] = h := by simp [medianInt, insertInt]

theorem tempPoll_lost (hub : Option Int) (mr4 : Nat) (hstate : s.rd DDR_CTL.STATE c = 6) : tempPoll s c hub mr4 = s := by
  simp [tempPoll, hstate]

/-- The refresh factor that MR4, the floor and a median ask for; a temperature unknown asks for the second (13 R505). -/
def wantedFactor (s : State) (c mr4 no : Nat) (med : Int) : Nat :=
  max (min 2 (s.rd DDR_CFG.REF_FLOOR c)) (max (factorCode mr4) (if decide (3 ≤ no) || decide (85 < med) then 1 else 0))

/-- What the readings kept, `ts`, and the number of periods without one do to a channel's registers and its refresh factor. -/
def tempFactored (s : State) (c : Nat) (ts : List Int) (no mr4 : Nat) : State :=
  let x := s.chanX c
  let t := s.setChanX c { x with temps := ts, noTemp := no }
  let t := (t.wr DDR_THERM.TEMP (if ts = [] then 0 else (medianInt ts % 256).toNat) c).wr DDR_THERM.TEMP_UNKNOWN (b2n (decide (3 ≤ no))) c
  let old := s.rd DDR_THERM.REF_FACTOR c
  let want := wantedFactor s c mr4 no (medianInt ts)
  let low := if want < old then x.lowFor + 1 else 0
  let new := if old < want ∨ low = 3 then want else old
  let t := t.setChanX c { t.chanX c with lowFor := if low = 3 then 0 else low }
  if new = old then t else evPf0 (t.wr DDR_THERM.REF_FACTOR new c) 0x0B03 c (old + new * 4) (t.rd DDR_THERM.TEMP c)

/-- The temperature that a channel holds requests at: above its warning (13 R506). -/
def holdTemp (s : State) (c : Nat) : Nat :=
  if s.rd DDR_THERM.TEMP_HOLD c < s.rd DDR_THERM.TEMP_WARN c then s.rd DDR_THERM.TEMP_WARN c + 5 else s.rd DDR_THERM.TEMP_HOLD c

/-- What a median does once the registers show it, in `t`: the warning, HOLD and its end. -/
def tempJudged (s t : State) (c : Nat) (med : Int) : State :=
  let hot := decide ((s.rd DDR_THERM.TEMP_WARN c : Int) ≤ med)
  let t := if hot ∧ ¬ (s.chanX c).warned then thermalEvent t c else t
  let t := t.setChanX c { t.chanX c with warned := hot }
  let st := t.rd DDR_CTL.STATE c
  if (holdTemp s c : Int) ≤ med then
    if st = 3 ∨ (t.chanX c).inWin then t.setChanX c { t.chanX c with holdDue := true }
    else if st = 2 then holdBegin t c else t
  else if st = 4 ∧ ¬ hot then windowDue (thermalEvent (t.wr DDR_CTL.STATE 2 c) c) c
  else t

theorem tempPoll_reading (mr4 : Nat) (hstate : s.rd DDR_CTL.STATE c = 2) (hlo : -40 ≤ h) (hhi : h ≤ 150) :
    tempPoll s c (some h) mr4 =
      tempJudged s (tempFactored s c ((h :: (s.chanX c).temps).take 3) 0 mr4) c (medianInt ((h :: (s.chanX c).temps).take 3)) := by
  have hgood : (some h).filter (fun h => decide (-40 ≤ h) && decide (h ≤ 150)) = some h := by simp [Option.filter, hlo, hhi]
  unfold tempPoll
  rw [if_neg (by omega), hgood]
  rfl

/-- The registers after a first reading. -/
def tempShown (s : State) (c : Nat) (h : Int) : State :=
  ((s.setChanX c { s.chanX c with temps := [h], noTemp := 0 }).wr DDR_THERM.TEMP (h % 256).toNat c).wr DDR_THERM.TEMP_UNKNOWN 0 c

/-- A first reading that asks for no other refresh factor. -/
theorem tempFactored_first {mr4 : Nat} (hcool : h ≤ 85) (hmr4 : mr4 ≤ 1) (hfloor : s.rd DDR_CFG.REF_FLOOR c = 0)
    (hold : s.rd DDR_THERM.REF_FACTOR c = 0) :
    tempFactored s c [h] 0 mr4 = (tempShown s c h).setChanX c { (tempShown s c h).chanX c with lowFor := 0 } := by
  have hcool' : ¬ 85 < h := by omega
  have hwant : wantedFactor s c mr4 0 h = 0 := by simp [wantedFactor, hfloor, factorCode, hmr4, hcool']
  simp only [tempFactored, medianInt_single, hold, hwant, Nat.lt_irrefl, false_or, ite_self, if_true]
  rfl

/-- Below the warning, a channel that does not hold requests goes on. -/
theorem tempJudged_cool (hstate : t.rd DDR_CTL.STATE c ≠ 4) (hcold : h < s.rd DDR_THERM.TEMP_WARN c) :
    tempJudged s t c h = t.setChanX c { t.chanX c with warned := false } := by
  have hwarm : ¬ (s.rd DDR_THERM.TEMP_WARN c : Int) ≤ h := by omega
  have hhold : ¬ (holdTemp s c : Int) ≤ h := by rw [holdTemp]; split <;> omega
  simp [tempJudged, hwarm, hhold, hstate]

/-- The channel after a first reading that changes neither the refresh factor nor the warning. -/
def tempTaken (s : State) (c : Nat) (h : Int) : State :=
  let t := (tempShown s c h).setChanX c { (tempShown s c h).chanX c with lowFor := 0 }
  t.setChanX c { t.chanX c with warned := false }

theorem tempShown_eq_wrs (s : State) (c : Nat) (h : Int) : tempShown s c h =
    (s.setChanX c { s.chanX c with temps := [h], noTemp := 0 }).wrs c [(DDR_THERM.TEMP, (h % 256).toNat), (DDR_THERM.TEMP_UNKNOWN, 0)] := rfl

theorem tempShown_kept (hsort : ksorted s.regs = true) (c : Nat) (h : Int) : regsKept s (tempShown s c h) [DDR_THERM.reg.addr c 0 0] := by
  rw [tempShown_eq_wrs]
  exact regsKept_trans (regsKept_setChanX s c _ _) (wrs_only (regs_sorted_setChanX hsort c _) rfl c).2

theorem tempTaken_kept (hsort : ksorted s.regs = true) (c : Nat) (h : Int) : regsKept s (tempTaken s c h) [DDR_THERM.reg.addr c 0 0] :=
  regsKept_trans (regsKept_trans (tempShown_kept hsort c h) (regsKept_setChanX _ c _ _)) (regsKept_setChanX _ c _ _)

theorem tempPoll_first (hsort : ksorted s.regs = true) {mr4 : Nat} (hstate : s.rd DDR_CTL.STATE c = 2) (hlo : -40 ≤ h) (hcool : h ≤ 85)
    (hfirst : (s.chanX c).temps = []) (hmr4 : mr4 ≤ 1) (hfloor : s.rd DDR_CFG.REF_FLOOR c = 0) (hold : s.rd DDR_THERM.REF_FACTOR c = 0)
    (hcold : h < s.rd DDR_THERM.TEMP_WARN c) : tempPoll s c (some h) mr4 = tempTaken s c h := by
  have htake : (h :: (s.chanX c).temps).take 3 = [h] := by rw [hfirst]; rfl
  have hserves : (tempShown s c h).rd DDR_CTL.STATE c = 2 := by
    rw [rd_of_regsKept (tempShown_kept hsort c h) DDR_CTL.STATE
      (by simp [Reg.addr, DDR_CTL.STATE, DDR_CTL.reg, DDR_THERM.reg]), hstate]
  rw [tempPoll_reading mr4 hstate hlo (by omega), htake, medianInt_single, tempFactored_first hcool hmr4 hfloor hold,
    tempJudged_cool (by rw [rd_setChanX, hserves]; decide) hcold]
  rfl

theorem tempTaken_spec (hregs : ksorted s.regs = true) (hchans : ksorted s.chans = true) (c : Nat) (h : Int) :
    (tempTaken s c h).rd DDR_THERM.TEMP c = (h % 256).toNat ∧
      (tempTaken s c h).rd DDR_THERM.REF_FACTOR c = s.rd DDR_THERM.REF_FACTOR c ∧ ((tempTaken s c h).chanX c).temps = [h] := by
  have hregs' := regs_sorted_setChanX hregs c { s.chanX c with temps := [h], noTemp := 0 }
  have hshown (f : Fld) : (tempTaken s c h).rd f c = (tempShown s c h).rd f c := by rw [tempTaken, rd_setChanX, rd_setChanX]
  have hbyte : (h % 256).toNat % 2 ^ DDR_THERM.TEMP.w = (h % 256).toNat := Nat.mod_eq_of_lt (by simp [DDR_THERM.TEMP]; omega)
  have hshownChans : ksorted (tempShown s c h).chans = true := setChanX_sorted hchans c _
  have hchan : (tempShown s c h).chanX c = { s.chanX c with temps := [h], noTemp := 0 } := by
    rw [tempShown, chanX_wr, chanX_wr, chanX_setChanX_self hchans]
  refine ⟨?_, ?_, ?_⟩
  · rw [hshown, tempShown_eq_wrs]
    exact (rd_wrs hregs' rfl c).trans hbyte
  · rw [hshown, tempShown_eq_wrs, ← rd_setChanX s c { s.chanX c with temps := [h], noTemp := 0 }]
    exact rd_wrs hregs' rfl c
  · rw [tempTaken, chanX_setChanX_self (setChanX_sorted hshownChans c _), chanX_setChanX_self hshownChans, hchan]

end Temperature

section Scrubbing
variable {s t : State} {c : Nat}

theorem scrubSlot_off (hoff : s.on DDR_SCRUB.SCRUB_EN c = false) : scrubSlot s c = s := by simp [scrubSlot, hoff]

/-- Where no line of the channel is in error, the scrubber finds nothing. -/
theorem scrubLine_clean (k : Nat) (herrs : (s.chanX c).errs = []) (hpoison : s.poison = []) : scrubLine s c k = s := by
  simp [scrubLine, herrs, hpoison]

/-- The channel after a slot of the scrubber that found nothing and ended no lap. -/
def scrubbed (s : State) (c : Nat) : State :=
  (s.setChanX c { s.chanX c with
    scrubAt := (s.chanX c).scrubAt + 1, reg := { (s.chanX c).reg with scrubRem := (s.chanX c).reg.scrubRem + 1 } }).wr
    DDR_SCRUB_STAT.PROGRESS (((s.chanX c).scrubAt + 1) * 100 / chanTotal s c) c

theorem scrubSlot_clean (hon : s.on DDR_SCRUB.SCRUB_EN c = true) (hserves : chanServes s c = true)
    (hlap : (s.chanX c).scrubAt + 1 < chanTotal s c) (herrs : (s.chanX c).errs = []) (hpoison : s.poison = [])
    (hrem : (s.chanX c).reg.scrubRem < 1023) : scrubSlot s c = scrubbed s c := by
  have hbump : bumpRem (s.chanX c).reg.scrubRem = ((s.chanX c).reg.scrubRem + 1, false) := by rw [bumpRem, if_neg (by omega)]
  have hsome : chanTotal s c ≠ 0 := by omega
  simp only [scrubSlot, hon, hserves, hsome, scrubLine_clean _ herrs hpoison, hbump, hlap, not_true, or_self, if_false, if_true,
    Bool.false_eq_true]
  rfl

theorem scrubbed_spec (hregs : ksorted s.regs = true) (hchans : ksorted s.chans = true) (c : Nat) :
    ((scrubbed s c).chanX c).scrubAt = (s.chanX c).scrubAt + 1 ∧ regsKept s (scrubbed s c) [DDR_SCRUB_STAT.reg.addr c 0 0] := by
  refine ⟨?_, regsKept_trans (regsKept_setChanX s c _ _)
    (regsKept_wr _ DDR_SCRUB_STAT.PROGRESS _ c 0 0 (regs_sorted_setChanX hregs c _) List.mem_cons_self)⟩
  rw [scrubbed, chanX_wr, chanX_setChanX_self hchans]

theorem scrubbed_sameMem (s : State) (c : Nat) : sameMem s (scrubbed s c) := sameMem_wr (sameMem_setChanX s c _) _ _ _ _ _

/-- A lap past LAP_MAX is told of once. -/
theorem lapSlow_first (hmax : s.rd DDR_SCRUB.LAP_MAX c ≠ 0) (hnew : s.on DDR_SCRUB_STAT.SLOW c = false) :
    lapSlow s c = evPf0 (s.wr DDR_SCRUB_STAT.SLOW 1 c) 0x0B06 c ((s.now - (s.chanX c).lapAt) / 10 ^ 9) (s.rd DDR_SCRUB_STAT.PROGRESS c) := by
  simp only [lapSlow, hmax, hnew, false_or, Bool.false_eq_true, if_false]

theorem lapSlow_again (hold : s.on DDR_SCRUB_STAT.SLOW c = true) : lapSlow s c = s := by
  simp only [lapSlow, hold, or_true, if_true]

end Scrubbing

/-- Settles O48: a window, a refresh stop, a poll and a slot of the scrubber each have the outcome that the channel's state chooses
among the lemmas above; those that leave pool memory alone are named by `leavesMemory`. -/
theorem windowsRefreshAndScrub : Obligations.WindowsRefreshAndScrub := by
  rintro s c x hregs hchans rfl
  have hnext {t u : State} (h : t = u) : (.next t : Host.Outcome State Fault Refusal) = .next u := congrArg _ h
  refine ⟨fun hstate hout hsister => ?begins, fun hstate hout hsister => hnext ((windowDue_active hstate hout).trans (if_pos hsister)),
    fun hstate => hnext (windowDue_other hstate), fun d hout => hnext (windowEnd_outside d hout), fun t hrun hin hcool ht => ?ends,
    fun sub hno => hnext (refreshStop_not_now sub hno), fun sub hstate hout => ?stop, fun hub mr4 hstate => hnext (tempPoll_lost hub mr4 hstate),
    fun h mr4 hstate hlo hcool hfirst hmr4 hfloor hold hcold hout => ?poll, fun hoff => hnext (scrubSlot_off hoff),
    fun hon hserves hlap herrs hpoison hrem => ?slot, fun hmax hnew => hnext (lapSlow_first hmax hnew),
    fun hold => hnext (lapSlow_again hold), rfl⟩
  case begins =>
    have hexec : exec (.quietWindowDue c) s = .next (windowBegin s c) :=
      hnext ((windowDue_active hstate hout).trans (if_neg (by rw [hsister]; exact Bool.false_ne_true)))
    obtain ⟨hchan, hcount, hkept⟩ := windowBegin_spec (c := c.val) hregs hchans rfl
    exact ⟨_, hexec, hchan, hcount, hkept, exec_sameMem rfl hexec⟩
  case ends =>
    have hchans' : ksorted t.chans = true := ht ▸ stealSlots_sorted hchans c _
    refine ⟨windowClosed t c, _, hnext (windowEnd_steady hrun hin hcool ht rfl), rfl, rfl, ?_⟩
    rw [windowClosed, chanX_setChanX_self hchans']
    exact ⟨rfl, rfl, rfl⟩
  case stop =>
    obtain ⟨k, hstop⟩ := refreshStop_active sub hstate hout
    have hexec : exec (.refreshStop c sub) s = .next _ := hnext hstop
    obtain ⟨hrows, hkept⟩ := stealSlots_spec (regs_sorted_setChanX hregs c _) (setChanX_sorted hchans c _) c.val k
    refine ⟨_, hexec, ?_, regsKept_trans (regsKept_setChanX s c _ _) hkept, exec_sameMem rfl hexec⟩
    rw [hrows, chanX_setChanX_self hchans]
  case poll =>
    have hexec : exec (.dramTempPoll c (some h) mr4) s = .next (tempTaken s c h) :=
      hnext (tempPoll_first hregs hstate hlo hcool hfirst hmr4 hfloor hold hcold)
    obtain ⟨htemp, hfactor, htemps⟩ := tempTaken_spec hregs hchans c.val h
    exact ⟨_, hexec, htemp, hfactor.trans hold, htemps, exec_sameMem rfl hexec, tempTaken_kept hregs c h⟩
  case slot =>
    obtain ⟨hat, hkept⟩ := scrubbed_spec hregs hchans c.val
    exact ⟨_, hnext (scrubSlot_clean hon hserves hlap herrs hpoison hrem), hat, scrubbed_sameMem s c, hkept⟩

/-! ## Writes of DDR_CTL and DDR_CNT_CLR (13 R497, R510, R512, R516) -/

section ChannelControl
variable {s t u : State} {c v : Nat}

theorem chanX_of_onlyRegs {l : List Nat} (h : onlyRegs s t l) (c : Nat) : t.chanX c = s.chanX c := by
  rw [h.1]
  rfl

theorem ungated_DDR_CTL : DDR_CTL.reg.Ungated := by
  rintro s ⟨_, _, _⟩ i j k lo rfl
  rfl

theorem rd_chanEnable_plainWrite (hsort : ksorted s.regs = true) (c v : Nat) :
    (plainWrite s DDR_CTL.reg c 0 0 v).rd DDR_CTL.ENABLE c = wrote DDR_CTL.ENABLE v :=
  rd_plainWrite_ungated (g := DDR_CTL.ENABLE) (clr := .pool) ungated_DDR_CTL (by decide +kernel) hsort c 0 0 v

theorem rd_chanState_plainWrite (hsort : ksorted s.regs = true) (c v : Nat) :
    (plainWrite s DDR_CTL.reg c 0 0 v).rd DDR_CTL.STATE c = s.rd DDR_CTL.STATE c :=
  rd_plainWrite_ro (g := DDR_CTL.STATE) (clr := .ward) (by decide +kernel) hsort c 0 0 v

theorem chanCtl_plainWrite_only (hsort : ksorted s.regs = true) (c v : Nat) :
    onlyRegs s (plainWrite s DDR_CTL.reg c 0 0 v) [DDR_CTL.reg.addr c 0 0] :=
  plainWrite_only s DDR_CTL.reg c 0 0 v false hsort (by decide +kernel) List.mem_cons_self

/-- What a change of ENABLE starts, from the state before the write and the one with the fields written. -/
def chanEnableChanged (s t : State) (c : Nat) : State :=
  if s.on DDR_CTL.ENABLE c && !t.on DDR_CTL.ENABLE c && decide (1 ≤ t.rd DDR_CTL.STATE c) && decide (t.rd DDR_CTL.STATE c ≤ 5) then
    chanLose t c 6
  else if !s.on DDR_CTL.ENABLE c && t.on DDR_CTL.ENABLE c && t.rd DDR_CTL.STATE c == 6 then measZero (t.wr DDR_CTL.STATE 1 c) c
  else t

/-- What REARM does to a channel that serves: its step-downs go (13 R512; log entry 45). -/
def chanRearmed (t : State) (c : Nat) : State := (t.wr DDR_CTL.STEPDOWN 0 c).setChanX c { t.chanX c with dead := false }

theorem chanEnableChanged_off (hon : s.on DDR_CTL.ENABLE c = true) (hoff : t.on DDR_CTL.ENABLE c = false)
    (hstate : t.rd DDR_CTL.STATE c = 2) : chanEnableChanged s t c = chanLose t c 6 := by
  simp [chanEnableChanged, hon, hoff, hstate]

theorem chanEnableChanged_on (hoff : s.on DDR_CTL.ENABLE c = false) (hon : t.on DDR_CTL.ENABLE c = true)
    (hstate : t.rd DDR_CTL.STATE c = 6) : chanEnableChanged s t c = measZero (t.wr DDR_CTL.STATE 1 c) c := by
  simp [chanEnableChanged, hon, hoff, hstate]

theorem chanEnableChanged_stays (hon : s.on DDR_CTL.ENABLE c = true) (hstill : t.on DDR_CTL.ENABLE c = true) :
    chanEnableChanged s t c = t := by
  simp [chanEnableChanged, hon, hstill]

theorem ddrCtlWrite_enable (ht : t = plainWrite s DDR_CTL.reg c 0 0 v) (hrearm : wrote DDR_CTL.REARM v = 0)
    (hmark : wrote DDR_CTL.MARK_CLR v = 0) : ddrCtlWrite s c v = chanEnableChanged s t c := by
  subst ht
  simp only [ddrCtlWrite, hrearm, hmark, if_true]
  rfl

theorem ddrCtlWrite_markClr (ht : t = plainWrite s DDR_CTL.reg c 0 0 v) (hrearm : wrote DDR_CTL.REARM v = 0)
    (hmark : wrote DDR_CTL.MARK_CLR v = 1) : ddrCtlWrite s c v = (chanEnableChanged s t c).wr DDR_MARK.MARK 0xFFFFFFFF c := by
  subst ht
  simp only [ddrCtlWrite, hrearm, hmark, if_true, one_ne_zero, if_false]
  rfl

theorem ddrCtlWrite_rearm (ht : t = plainWrite s DDR_CTL.reg c 0 0 v) (hstays : chanEnableChanged s t c = t)
    (hrearm : wrote DDR_CTL.REARM v = 1) (hmark : wrote DDR_CTL.MARK_CLR v = 0) (hserves : (chanRearmed t c).rd DDR_CTL.STATE c = 2) :
    ddrCtlWrite s c v = chanRearmed t c := by
  subst ht
  simp only [chanEnableChanged] at hstays
  simp only [chanRearmed] at hserves ⊢
  simp only [ddrCtlWrite, hrearm, hmark, hstays, if_true, one_ne_zero, if_false]
  rw [if_neg (by rw [hserves]; omega)]

theorem chanRearmed_spec (hsort : ksorted t.regs = true) (c : Nat) :
    (chanRearmed t c).rd DDR_CTL.STEPDOWN c = 0 ∧ (chanRearmed t c).rd DDR_CTL.STATE c = t.rd DDR_CTL.STATE c ∧
      regsKept t (chanRearmed t c) [DDR_CTL.reg.addr c 0 0] := by
  refine ⟨?_, ?_, regsKept_trans (regsKept_wr _ DDR_CTL.STEPDOWN 0 c 0 0 hsort List.mem_cons_self) (regsKept_setChanX _ c _ _)⟩
  · rw [chanRearmed, rd_setChanX, rd_wr_of_lt hsort (by decide) (by decide)]
  · rw [chanRearmed, rd_setChanX, rd_wr_beside hsort (by decide) (by decide)]

/-- The counters' clear: three registers, and what each had of its next unit. -/
def chanCountsCleared (s : State) (c : Nat) : State :=
  (((s.setChanX c { s.chanX c with rdRem := 0, wrRem := 0, actRem := 0 }).clrReg DDR_ECC_CNT.reg c).clrReg DDR_LOAD.reg c).clrReg
    DDR_LOAD2.reg c

theorem ddrCntClr_clear (hclear : wrote DDR_CNT_CLR.CLEAR v = 1) : ddrCntClr s c v = chanCountsCleared s c := by
  rw [ddrCntClr, if_neg (by omega)]
  rfl

theorem chanCountsCleared_spec (hsort : ksorted s.regs = true) (ht : t = chanCountsCleared s c) :
    t.rdReg DDR_ECC_CNT.reg c 0 0 = 0 ∧ t.rdReg DDR_LOAD.reg c 0 0 = 0 ∧ t.rdReg DDR_LOAD2.reg c 0 0 = 0 ∧
      regsKept s t [DDR_ECC_CNT.reg.addr c 0 0, DDR_LOAD.reg.addr c 0 0, DDR_LOAD2.reg.addr c 0 0] := by
  subst ht
  have hsort0 := regs_sorted_setChanX hsort c { s.chanX c with rdRem := 0, wrRem := 0, actRem := 0 }
  have hsort1 := clrReg_sorted DDR_ECC_CNT.reg c 0 0 hsort0
  have hsort2 := clrReg_sorted DDR_LOAD.reg c 0 0 hsort1
  obtain ⟨hecc, honly1⟩ := clrReg_zero_only DDR_ECC_CNT.reg c 0 0 hsort0 (by decide)
  obtain ⟨hload, honly2⟩ := clrReg_zero_only DDR_LOAD.reg c 0 0 hsort1 (by decide)
  obtain ⟨hload2, honly3⟩ := clrReg_zero_only DDR_LOAD2.reg c 0 0 hsort2 (by decide)
  rw [chanCountsCleared]
  refine ⟨?_, ?_, hload2, ?_⟩
  · rw [honly3.2, honly2.2, hecc] <;> simp [Reg.addr, DDR_ECC_CNT.reg, DDR_LOAD.reg, DDR_LOAD2.reg]
  · rw [honly3.2, hload]
    simp [Reg.addr, DDR_LOAD.reg, DDR_LOAD2.reg]
  · exact regsKept_trans (regsKept_setChanX s c _ _) (regsKept_trans (regsKept_mono honly1.2 (by simp))
      (regsKept_trans (regsKept_mono honly2.2 (by simp)) (regsKept_mono honly3.2 (by simp))))

theorem chanCountsCleared_frame (s : State) (c : Nat) : chanCountsCleared s c =
    { s with regs := (chanCountsCleared s c).regs, chans := (chanCountsCleared s c).chans } := rfl

theorem exec_chanCtl {w : Word} {i : Instr} (c : Chan) (hopen : pf0Open s = true)
    (hi : i ∈ [Instr.ddrEnable c w, .ddrDisable c w, .ddrRearm c w, .ddrMarkClr c w]) :
    exec i s = .next (ddrCtlWrite s c w.toNat) := by
  have hnext := congrArg (Host.Outcome.next (φ := Fault) (ρ := Refusal)) (atPf0_open (ddrCtlWrite s c w.toNat) hopen)
  fin_cases hi <;> exact hnext

end ChannelControl

/-- Settles O49: ENABLE reads back as it was written and STATE as it was, so the write starts what ENABLE, REARM or MARK_CLR names. -/
theorem channelControlWrites : Obligations.ChannelControlWrites := by
  rintro s t c w hsort hopen ht
  have honly : onlyRegs s t [DDR_CTL.reg.addr c 0 0] := ht ▸ chanCtl_plainWrite_only hsort c w.toNat
  have hsort' : ksorted t.regs = true := ht ▸ plainWrite_sorted s DDR_CTL.reg c 0 0 w.toNat false hsort
  have hstate : t.rd DDR_CTL.STATE c = s.rd DDR_CTL.STATE c := ht ▸ rd_chanState_plainWrite hsort c w.toNat
  have henable : t.rd DDR_CTL.ENABLE c = wrote DDR_CTL.ENABLE w.toNat := ht ▸ rd_chanEnable_plainWrite hsort c w.toNat
  have hset (h1 : wrote DDR_CTL.ENABLE w.toNat = 1) : t.on DDR_CTL.ENABLE c = true := on_of_rd_one (henable.trans h1)
  refine ⟨fun hrearm hmark => ⟨fun hon hv hserves => ?off, fun hoff hv hlost => ?on, fun hon hv => ?stays⟩,
    fun hon hv hrearm hmark hserves => ?rearm, fun hon hv hrearm hmark => ?mark, fun hclear => ?counts⟩
  case off =>
    rw [exec_chanCtl (w := w) c hopen (by simp), ddrCtlWrite_enable ht hrearm hmark,
      chanEnableChanged_off hon (on_of_rd_zero (henable.trans hv)) (hstate.trans hserves)]
  case on =>
    rw [exec_chanCtl (w := w) c hopen (by simp), ddrCtlWrite_enable ht hrearm hmark, chanEnableChanged_on hoff (hset hv) (hstate.trans hlost)]
  case stays =>
    rw [exec_chanCtl (w := w) c hopen (by simp), ddrCtlWrite_enable ht hrearm hmark, chanEnableChanged_stays hon (hset hv)]
  case rearm =>
    obtain ⟨hstepdown, hstill, hkept⟩ := chanRearmed_spec hsort' c.val
    have hserves' := hstill.trans (hstate.trans hserves)
    refine ⟨chanRearmed t c, ?_, hstepdown, hserves', fun hchans => ?_, ?_, regsKept_trans honly.2 hkept⟩
    · rw [exec_chanCtl (w := w) c hopen (by simp), ddrCtlWrite_rearm ht (chanEnableChanged_stays hon (hset hv)) hrearm hmark hserves']
    · rw [chanRearmed, chanX_setChanX_self (by rw [State.wr_chans, honly.1]; exact hchans), chanX_of_onlyRegs honly]
    · obtain ⟨hmem, hpoison⟩ := sameMem_setChanX (t.wr DDR_CTL.STEPDOWN 0 c) c { t.chanX c with dead := false }
      exact ⟨by rw [chanRearmed, hmem, State.wr_mem, honly.1], by rw [chanRearmed, hpoison, State.wr_poison, honly.1]⟩
  case mark =>
    refine ⟨t.wr DDR_MARK.MARK 0xFFFFFFFF c, ?_, rd_wr_of_lt hsort' (by decide) (by decide) c, ?_⟩
    · rw [exec_chanCtl (w := w) c hopen (by simp), ddrCtlWrite_markClr ht hrearm hmark, chanEnableChanged_stays hon (hset hv)]
    · exact onlyRegs_trans (onlyRegs_mono honly (by simp)) (onlyRegs_wr t DDR_MARK.MARK _ c 0 0 hsort' (by simp [DDR_MARK.MARK]))
  case counts =>
    obtain ⟨hecc, hload, hload2, hkept⟩ := chanCountsCleared_spec (c := c.val) hsort rfl
    refine ⟨_, congrArg Host.Outcome.next ((atPf0_open _ hopen).trans (ddrCntClr_clear hclear)), hecc, hload, hload2,
      chanCountsCleared_frame s c, hkept⟩

end Sys2Proof.Machine
end

section
/-!
PROOFS for 12_scheduling_and_regulation.md: what a port sends, its gate lists, guard-band mode and the queue histograms. The rules
for a port's queues come first; each part after them says once what the model's functions do, and ends with the statement it settles.
-/
namespace Sys2Proof.Machine

/-! ## A port's queues and shapers -/

section PortState
variable {s t : State} {n : Nat}

theorem portQ_setPortQ_self (hsort : ksorted s.ports = true) (n : Nat) (q : PortQ) : (s.setPortQ n q).portQ n = q :=
  kgetD_kset_self _ n q s.ports hsort

theorem setPortQ_sorted (hsort : ksorted s.ports = true) (n : Nat) (q : PortQ) : ksorted (s.setPortQ n q).ports = true :=
  ksorted_kset _ n q s.ports hsort

@[simp] theorem rd_setPortQ (s : State) (n : Nat) (q : PortQ) (f : Fld) (i j k : Nat) : (s.setPortQ n q).rd f i j k = s.rd f i j k :=
  rd_of_regs rfl f i j k

theorem now_setPortQ (s : State) (n : Nat) (q : PortQ) : (s.setPortQ n q).now = s.now := rfl

theorem regs_sorted_setPortQ (hsort : ksorted s.regs = true) (n : Nat) (q : PortQ) : ksorted (s.setPortQ n q).regs = true := hsort

theorem regsKept_setPortQ (s : State) (n : Nat) (q : PortQ) (l : List Nat) : regsKept s (s.setPortQ n q) l := regsKept_of_regs l rfl

theorem sameMem_setPortQ (h : sameMem s t) (n : Nat) (q : PortQ) : sameMem s (t.setPortQ n q) := h

/-- Of all that the statements speak of, only the ports' queues may differ. -/
structure PortsAlone (s t : State) : Prop where
  regs : t.regs = s.regs
  mem : sameMem s t
  ports : ksorted s.ports = true → ksorted t.ports = true

theorem portsAlone_setPortQ (s : State) (n : Nat) (q : PortQ) : PortsAlone s (s.setPortQ n q) :=
  ⟨rfl, ⟨rfl, rfl⟩, fun hsort => setPortQ_sorted hsort n q⟩

theorem PortsAlone.trans {u : State} (h : PortsAlone s t) (h' : PortsAlone t u) : PortsAlone s u :=
  ⟨h'.regs.trans h.regs, ⟨h'.mem.1.trans h.mem.1, h'.mem.2.trans h.mem.2⟩, fun hsort => h'.ports (h.ports hsort)⟩

theorem portsAlone_setClassX (s : State) (n tc : Nat) (x : ClassX) : PortsAlone s (s.setClassX n tc x) := portsAlone_setPortQ s n _

theorem portsAlone_refl (s : State) : PortsAlone s s := ⟨rfl, ⟨rfl, rfl⟩, id⟩

theorem portsAlone_shaperClass (s : State) (n tc : Nat) : PortsAlone s (shaperClass s n tc) :=
  ite_keeps (P := PortsAlone s) (portsAlone_refl s) (ite_keeps (portsAlone_setClassX s n tc _) (portsAlone_setClassX s n tc _))

theorem portsAlone_shaperSync (s : State) (n : Nat) : PortsAlone s (shaperSync s n) :=
  foldl_keeps (P := PortsAlone s) (fun u tc h => h.trans (portsAlone_shaperClass u n tc)) (portsAlone_refl s)

theorem PortsAlone.rd (h : PortsAlone s t) (f : Fld) (i j k : Nat) : t.rd f i j k = s.rd f i j k := rd_of_regs h.regs f i j k

end PortState

/-! ## What a port sends (12 R457) -/

section Egress
variable {s t u : State} {n : Nat} {e : QEnt} {fl : List (Nat × Nat)} {cl : Option (List (Nat × Nat))}

theorem egressStart_down (hstate : s.rd PORT_STATUS.STATE n = 5) : egressStart s n = s := by simp [egressStart, hstate]

theorem egressStart_empty (hstate : s.rd PORT_STATUS.STATE n = 2) (hnone : pickPacket (shaperSync s n) n = none) :
    egressStart s n = shaperSync s n := by
  simp [egressStart, hstate, hnone]

theorem egressStart_sends (hstate : s.rd PORT_STATUS.STATE n = 2) (ht : t = shaperSync s n) (hpick : pickPacket t n = some (e, fl, cl))
    (hfits : (t.link n).buf.length + flitsOf e.pkt ≤ 8192) (hguard : guardJudge t n e ≠ .overrun)
    (hu : u = linkSend (settle (portDelay (wakeLpi t n) n e) n e fl cl) n e) (hgen : u.rd PORT_PARTNER.GEN n ≠ 0) :
    egressStart s n = (countOld u).emit (.packet n e.pkt) := by
  subst ht hu
  simp [egressStart, hstate, hpick, Nat.not_lt.2 hfits, hguard, hgen]

end Egress

/-! ## Gate lists (12 R465, R467, R468) -/

section Gates
variable {s t : State} {n v : Nat}

theorem gateAdvance_none (hnone : gateLen s n (s.rd QOS_GATE_CTL.CUR n) = 0) : gateAdvance s n = s := if_pos hnone

/-- The entry after the one in service: its number, and the time it begins. -/
def gateNext (s t : State) (n : Nat) : PortQ :=
  { t.portQ n with
    gateEnt := ((t.portQ n).gateEnt + 1) % gateLen s n (s.rd QOS_GATE_CTL.CUR n)
    gateAt := (t.portQ n).gateAt + gateDur s n (s.rd QOS_GATE_CTL.CUR n) (t.portQ n).gateEnt }

theorem gateAdvance_some (hsome : gateLen s n (s.rd QOS_GATE_CTL.CUR n) ≠ 0) :
    gateAdvance s n = (shaperSync s n).setPortQ n (gateNext s (shaperSync s n) n) := if_neg hsome

theorem gateCtlWrite_commit (ht : t = plainWrite s QOS_GATE_CTL.reg n 0 0 v) (hcommit : wrote QOS_GATE_CTL.COMMIT v = 1) :
    gateCtlWrite s n v = if t.on QOS_GATE_CTL.PENDING n ∨ t.rd QOS_GATE_AT.AT n < t.now + 10000 then t.wr QOS_GATE_CTL.COMMIT_ERR 1 n
      else t.wrs n [(QOS_GATE_CTL.COMMIT_ERR, 0), (QOS_GATE_CTL.PENDING, 1)] := by
  subst ht
  exact if_neg (by omega)

theorem gateCtl_plainWrite_only (hsort : ksorted s.regs = true) (n v : Nat) :
    onlyRegs s (plainWrite s QOS_GATE_CTL.reg n 0 0 v) [QOS_GATE_CTL.reg.addr n 0 0] :=
  plainWrite_only s QOS_GATE_CTL.reg n 0 0 v false hsort (by decide +kernel) List.mem_cons_self

theorem time_apart_gateCtl (n : Nat) : XRD_TIME.reg.addr 0 0 0 ∉ [QOS_GATE_CTL.reg.addr n 0 0] := by
  simp [Reg.addr, XRD_TIME.reg, QOS_GATE_CTL.reg]
  omega

/-- A write of the host to QOS_GATE_CTL leaves the take-over that is pending, its time and the list in service. -/
theorem gateCtl_plainWrite_reads (hsort : ksorted s.regs = true) (ht : t = plainWrite s QOS_GATE_CTL.reg n 0 0 v) :
    t.rd QOS_GATE_CTL.PENDING n = s.rd QOS_GATE_CTL.PENDING n ∧ t.rd QOS_GATE_CTL.CUR n = s.rd QOS_GATE_CTL.CUR n ∧
      t.rd QOS_GATE_AT.AT n = s.rd QOS_GATE_AT.AT n ∧ t.now = s.now := by
  have hkept := (gateCtl_plainWrite_only hsort n v).2
  subst ht
  refine ⟨rd_plainWrite_ro (g := QOS_GATE_CTL.PENDING) (clr := .warm) (by decide +kernel) hsort n 0 0 v,
    rd_plainWrite_ro (g := QOS_GATE_CTL.CUR) (clr := .warm) (by decide +kernel) hsort n 0 0 v,
    rd_of_regsKept hkept _ ?_, hkept _ _ _ _ ?_⟩
  · simp [Reg.addr, QOS_GATE_AT.AT, QOS_GATE_AT.reg, QOS_GATE_CTL.reg]
  · exact time_apart_gateCtl n

/-- The lists of a port changed over, with its shapers brought up to now. -/
def gateFlipped (s : State) (n : Nat) : State :=
  (shaperSync s n).wrs n [(QOS_GATE_CTL.CUR, 1 - (shaperSync s n).rd QOS_GATE_CTL.CUR n), (QOS_GATE_CTL.PENDING, 0)]

/-- The other list in service from AT on, before its event. -/
def gateTaken (s : State) (n at_ : Nat) : State :=
  (gateFlipped s n).setPortQ n { (gateFlipped s n).portQ n with gateEnt := 0, gateAt := at_ }

theorem gateTake_eq (s : State) (n : Nat) : gateTake s n = evPf0 (gateTaken s n (s.rd QOS_GATE_AT.AT n)) 0x0A02 n (s.rd QOS_GATE_AT.AT n)
    (1 - (shaperSync s n).rd QOS_GATE_CTL.CUR n) := rfl

theorem gateTakeover_idle (hidle : s.on QOS_GATE_CTL.PENDING n = false) : gateTakeover s n = s := by simp [gateTakeover, hidle]

theorem gateFlipped_spec (hsort : ksorted s.regs = true) (n : Nat) :
    (gateFlipped s n).rd QOS_GATE_CTL.CUR n = (1 - s.rd QOS_GATE_CTL.CUR n) % 2 ∧ (gateFlipped s n).rd QOS_GATE_CTL.PENDING n = 0 ∧
      (gateFlipped s n).now = s.now := by
  have halone := portsAlone_shaperSync s n
  have hsort' : ksorted (shaperSync s n).regs = true := by rw [halone.regs]; exact hsort
  have honly := wrs_only (r := QOS_GATE_CTL.reg) hsort' (l := [(QOS_GATE_CTL.CUR, 1 - (shaperSync s n).rd QOS_GATE_CTL.CUR n),
    (QOS_GATE_CTL.PENDING, 0)]) rfl n
  refine ⟨?_, rd_wrs hsort' rfl n, (honly.2 _ _ _ _ (time_apart_gateCtl n)).trans
    (regsKept_of_regs [] halone.regs _ _ _ _ List.not_mem_nil)⟩
  rw [← halone.rd]
  exact rd_wrs hsort' rfl n

theorem gateTaken_spec (hsort : ksorted s.regs = true) (n at_ : Nat) :
    (gateTaken s n at_).rd QOS_GATE_CTL.CUR n = (1 - s.rd QOS_GATE_CTL.CUR n) % 2 ∧ (gateTaken s n at_).rd QOS_GATE_CTL.PENDING n = 0 ∧
      (gateTaken s n at_).now = s.now ∧ sameMem s (gateTaken s n at_) := by
  obtain ⟨hcur, hpending, hnow⟩ := gateFlipped_spec hsort n
  rw [gateTaken, rd_setPortQ, rd_setPortQ]
  have hmem : sameMem s (gateFlipped s n) := (portsAlone_shaperSync s n).mem
  exact ⟨hcur, hpending, (now_setPortQ _ n _).trans hnow, sameMem_setPortQ hmem n _⟩

theorem portQ_gateTaken (hsort : ksorted s.ports = true) (n at_ : Nat) :
    ((gateTaken s n at_).portQ n).gateEnt = 0 ∧ ((gateTaken s n at_).portQ n).gateAt = at_ := by
  have hsort' : ksorted (gateFlipped s n).ports = true := (portsAlone_shaperSync s n).ports hsort
  rw [gateTaken, portQ_setPortQ_self hsort']
  exact ⟨rfl, rfl⟩

theorem setTime_only (hsort : ksorted s.regs = true) (k : Nat) : onlyRegs s (setTime s k) [XRD_TIME.reg.addr 0 0 0] :=
  onlyRegs_wrReg s XRD_TIME.reg 0 0 0 _ hsort List.mem_cons_self

theorem setTime_sorted (hsort : ksorted s.regs = true) (k : Nat) : ksorted (setTime s k).regs = true :=
  ksorted_kset _ _ _ s.regs hsort

/-- The fabric time set to AT where it is not past it. -/
def timeAtLeastAt (s : State) (n : Nat) : State := setTime s (max s.now (s.rd QOS_GATE_AT.AT n))

theorem now_timeAtLeastAt (hsort : ksorted s.regs = true) (n : Nat) : (timeAtLeastAt s n).now = max s.now (s.rd QOS_GATE_AT.AT n) := by
  have hnow : s.now < 2 ^ 64 := rdReg_lt s XRD_TIME.reg 0 0 0 (by decide)
  have hat : s.rd QOS_GATE_AT.AT n < 2 ^ 64 := Nat.mod_lt _ (Nat.two_pow_pos _)
  rw [timeAtLeastAt, now_setTime s _ hsort, Nat.mod_eq_of_lt (Nat.max_lt.2 ⟨hnow, hat⟩)]

theorem rd_timeAtLeastAt (hsort : ksorted s.regs = true) (n : Nat) : (timeAtLeastAt s n).rd QOS_GATE_AT.AT n = s.rd QOS_GATE_AT.AT n ∧
    (timeAtLeastAt s n).rd QOS_GATE_CTL.CUR n = s.rd QOS_GATE_CTL.CUR n := by
  refine ⟨rd_of_regsKept (setTime_only hsort _).2 _ ?_, rd_of_regsKept (setTime_only hsort _).2 _ ?_⟩
  · simp [Reg.addr, XRD_TIME.reg, QOS_GATE_AT.AT, QOS_GATE_AT.reg]
    omega
  · simp [Reg.addr, XRD_TIME.reg, QOS_GATE_CTL.CUR, QOS_GATE_CTL.reg]
    omega

theorem gateTakeover_due (hdue : s.on QOS_GATE_CTL.PENDING n = true) :
    gateTakeover s n = gateTake (timeAtLeastAt s n) n := by
  rw [gateTakeover, if_neg (not_not.2 hdue)]
  rfl

theorem gbHoldEnd_train {a b : Nat} {q : PortQ} (hq : s.portQ n = q) (htrain : q.gbTrain = some a) (hstep : q.gbStep = some b)
    (holder : a < b) : gbHoldEnd s n = guardUpdate (s.setPortQ n { q with gbTrain := none }) n := by
  subst hq
  simp only [gbHoldEnd, htrain, hstep, if_pos holder]

end Gates

/-! ## Histograms (12 R479) -/

section Histograms
variable {s t : State} {n v : Nat} {r : Reg}

theorem rd_count_at {f : Fld} (hsort : ksorted s.regs = true) (hf : f.Fits) (i j : Nat) :
    (s.count f i j).rd f i j = min (s.rd f i j + 1) (2 ^ f.w - 1) :=
  rd_wr_self_at hsort hf (Nat.lt_of_le_of_lt (Nat.min_le_right _ _) (Nat.sub_lt (Nat.two_pow_pos _) Nat.one_pos)) i j

/-- A field of a register that reads zero. -/
theorem rd_zero_of_rdReg {f : Fld} {i j k : Nat} (hzero : s.rdReg f.reg i j k = 0) : s.rd f i j k = 0 := by
  rw [State.rd, hzero]
  simp [fld]

/-- The first `m` registers of a row of apart ones, cleared one after another. -/
theorem clrRegs_foldl (hrv : r.rv < 2 ^ 64) (hapart : ∀ b b', r.addr n b 0 = r.addr n b' 0 → b = b') (m : Nat)
    (hsort : ksorted s.regs = true) (ht : t = (List.range m).foldl (fun t b => t.clrReg r n b) s) :
    ksorted t.regs = true ∧ onlyRegs s t ((List.range m).map (r.addr n · 0)) ∧ ∀ b < m, t.rdReg r n b 0 = 0 := by
  induction m generalizing t with
  | zero => subst ht; exact ⟨hsort, onlyRegs_refl _ _, fun b hb => absurd hb (Nat.not_lt_zero b)⟩
  | succ m ih =>
    obtain ⟨hsort', honly, hzero⟩ := ih rfl
    rw [List.range_succ, List.foldl_append] at ht
    subst ht
    refine ⟨clrReg_sorted r n m 0 hsort', onlyRegs_trans (onlyRegs_mono honly ?_) (onlyRegs_clrReg r n m 0 hsort' ?_), fun b hb => ?_⟩
    · rw [List.range_succ, List.map_append]
      exact List.subset_append_left _ _
    · simp [List.range_succ]
    · by_cases hbm : b = m
      · subst hbm
        exact (clrReg_zero_only r n b 0 hsort' hrv).1
      · exact (rdReg_clrReg_ne hsort' fun haddr => hbm (hapart b m haddr)).trans (hzero b (by omega))

theorem histSample_frozen_port (hfrozen : s.on QOS_PORT_HSEL.FREEZE n = true) : histSample s true n = s := by
  simp [histSample, hfrozen]

theorem histSample_frozen_chan (hfrozen : s.on QOS_CH_HSEL.FREEZE n = true) : histSample s false n = s := by
  simp [histSample, hfrozen]

/-- The bin that the depth of a port's sampled queue counts in. -/
def portBin (s : State) (n : Nat) : Nat := depthBin (classDepth (s.portQ n) (s.rd QOS_PORT_HSEL.TC n))

def portSampled (s : State) (n : Nat) : State :=
  (s.setPortQ n { s.portQ n with sampled := true }).count QOS_PORT_HIST.DEPTH n (portBin s n)

theorem histSample_port (hruns : s.on QOS_PORT_HSEL.FREEZE n = false) : histSample s true n = portSampled s n := by
  simp only [histSample, hruns, if_true, Bool.false_eq_true, if_false]
  rfl

theorem portSampled_spec (hsort : ksorted s.regs = true) (n : Nat) :
    (portSampled s n).rd QOS_PORT_HIST.DEPTH n (portBin s n) =
      min (s.rd QOS_PORT_HIST.DEPTH n (portBin s n) + 1) (2 ^ QOS_PORT_HIST.DEPTH.w - 1) ∧
    regsKept s (portSampled s n) [QOS_PORT_HIST.reg.addr n (portBin s n) 0] := by
  have hsort' := regs_sorted_setPortQ hsort n { s.portQ n with sampled := true }
  refine ⟨?_, regsKept_trans (regsKept_setPortQ s n _ _) (onlyRegs_count _ _ _ _ _ _ hsort' List.mem_cons_self).2⟩
  rw [portSampled, rd_count_at hsort' (by decide), rd_setPortQ]

/-- The bins of a port's histograms, or a channel's, zeroed with the sample forgotten. -/
def portHistCleared (t : State) (n : Nat) : State := clearPortHist (t.setPortQ n { t.portQ n with sampled := false }) n

def chHistCleared (t : State) (c : Nat) : State :=
  clearChHist (t.setChanX c { t.chanX c with reg := { (t.chanX c).reg with sampled := false } }) c

theorem portHselWrite_clear (hclear : wrote QOS_PORT_HSEL.CLEAR v = 1) :
    portHselWrite s n v = portHistCleared (plainWrite s QOS_PORT_HSEL.reg n 0 0 v) n := if_pos (.inl hclear)

theorem chHselWrite_clear (hclear : wrote QOS_CH_HSEL.CLEAR v = 1) :
    chHselWrite s n v = chHistCleared (plainWrite s QOS_CH_HSEL.reg n 0 0 v) n := if_pos (.inl hclear)

/-- A histogram's selection written and its bins zeroed: what reads 0, and what is left. -/
theorem histCleared_spec {sel hist : Reg} {u : State} (hrow : (rowOf sel).reg = sel)
    (hrv : hist.rv < 2 ^ 64) (hapart : ∀ b b', hist.addr n b 0 = hist.addr n b' 0 → b = b') (hsort : ksorted s.regs = true)
    (hu : u.regs = (plainWrite s sel n 0 0 v).regs) (hmem : sameMem s u) (ht : t = (List.range 16).foldl (fun t b => t.clrReg hist n b) u) :
    (∀ b < 16, t.rdReg hist n b 0 = 0) ∧ regsKept s t (sel.addr n 0 0 :: (List.range 16).map (hist.addr n · 0)) ∧ sameMem s t := by
  have honly := plainWrite_only (l := [sel.addr n 0 0]) s sel n 0 0 v false hsort hrow List.mem_cons_self
  have hsort' : ksorted u.regs = true := by rw [hu]; exact plainWrite_sorted s sel n 0 0 v false hsort
  obtain ⟨-, hclr, hzero⟩ := clrRegs_foldl hrv hapart 16 hsort' ht
  exact ⟨hzero, regsKept_trans (regsKept_trans (regsKept_mono honly.2 (by simp)) (regsKept_of_regs _ hu))
    (regsKept_mono hclr.2 (List.subset_cons_self _ _)), by rw [hclr.1]; exact hmem⟩

theorem sameMem_of_onlyRegs {l : List Nat} (h : onlyRegs s t l) : sameMem s t := by
  rw [h.1]
  exact ⟨rfl, rfl⟩

theorem portHistCleared_spec (hsort : ksorted s.regs = true) (n v : Nat) (ht : t = portHistCleared (plainWrite s QOS_PORT_HSEL.reg n 0 0 v) n) :
    (∀ b < 16, t.rdReg QOS_PORT_HIST.reg n b 0 = 0) ∧
      regsKept s t (QOS_PORT_HSEL.reg.addr n 0 0 :: (List.range 16).map (QOS_PORT_HIST.reg.addr n · 0)) ∧ sameMem s t := by
  have hrow : (rowOf QOS_PORT_HSEL.reg).reg = QOS_PORT_HSEL.reg := by decide +kernel
  have honly := plainWrite_only (l := [QOS_PORT_HSEL.reg.addr n 0 0]) s _ n 0 0 v false hsort hrow List.mem_cons_self
  have halone := portsAlone_setPortQ (plainWrite s QOS_PORT_HSEL.reg n 0 0 v) n
    { (plainWrite s QOS_PORT_HSEL.reg n 0 0 v).portQ n with sampled := false }
  exact histCleared_spec (hist := QOS_PORT_HIST.reg) hrow (by decide) (fun b b' => by simp [Reg.addr, QOS_PORT_HIST.reg]) hsort halone.regs
    (sameMem_setPortQ (sameMem_of_onlyRegs honly) n _) ht

theorem chHistCleared_spec (hsort : ksorted s.regs = true) (c v : Nat) (ht : t = chHistCleared (plainWrite s QOS_CH_HSEL.reg c 0 0 v) c) :
    (∀ b < 16, t.rdReg QOS_CH_HIST.reg c b 0 = 0) ∧
      regsKept s t (QOS_CH_HSEL.reg.addr c 0 0 :: (List.range 16).map (QOS_CH_HIST.reg.addr c · 0)) ∧ sameMem s t := by
  have hrow : (rowOf QOS_CH_HSEL.reg).reg = QOS_CH_HSEL.reg := by decide +kernel
  have honly := plainWrite_only (l := [QOS_CH_HSEL.reg.addr c 0 0]) s _ c 0 0 v false hsort hrow List.mem_cons_self
  obtain ⟨hmem, hpoison⟩ := sameMem_setChanX (plainWrite s QOS_CH_HSEL.reg c 0 0 v) c
    { (plainWrite s QOS_CH_HSEL.reg c 0 0 v).chanX c with
      reg := { ((plainWrite s QOS_CH_HSEL.reg c 0 0 v).chanX c).reg with sampled := false } }
  obtain ⟨hmem0, hpoison0⟩ := sameMem_of_onlyRegs honly
  exact histCleared_spec (hist := QOS_CH_HIST.reg) hrow (by decide) (fun b b' => by simp [Reg.addr, QOS_CH_HIST.reg]) hsort
    (regs_setChanX _ c _) ⟨hmem.trans hmem0, hpoison.trans hpoison0⟩ ht

end Histograms

/-- Settles O45: each command is a function of its port's queue and registers, whose branches the lemmas above name. -/
theorem egressAndGates : Obligations.EgressAndGates := by
  intro s n c v hsort
  have hnext {t u : State} (h : t = u) : (.next t : Host.Outcome State Fault Refusal) = .next u := congrArg _ h
  have hpf0 {t : State} (hopen : pf0Open s = true) : atPf0 s t = t := atPf0_open t hopen
  refine ⟨fun hstate => hnext (egressStart_down hstate), fun hstate hnone => hnext (egressStart_empty hstate hnone),
    fun t e fl cl u hstate ht hpick hfits hguard hu hgen => hnext (egressStart_sends hstate ht hpick hfits hguard hu hgen),
    fun hnone => hnext (gateAdvance_none hnone), fun hsome => ?advance, fun hopen hcommit => ?commit,
    fun hidle => hnext (gateTakeover_idle hidle), fun hdue => ?takeover,
    fun a b q hq htrain hstep holder => hnext (gbHoldEnd_train hq htrain hstep holder),
    fun m hfrozen => hnext (histSample_frozen_port hfrozen), fun m hfrozen => hnext (histSample_frozen_chan hfrozen),
    fun m b hruns hb => ?sample, fun hopen hclear => ?portClear, fun hopen hclear => ?chanClear⟩
  case advance =>
    have halone := portsAlone_shaperSync s n
    refine ⟨(shaperSync s n).setPortQ n (gateNext s (shaperSync s n) n), hnext (gateAdvance_some hsome), fun hports => ?_,
      (portsAlone_setPortQ _ _ _).regs.trans halone.regs, (halone.trans (portsAlone_setPortQ _ _ _)).mem⟩
    rw [portQ_setPortQ_self (halone.ports hports)]
    rfl
  case commit =>
    obtain ⟨hpending, hcur, hat, hnow⟩ := gateCtl_plainWrite_reads (n := n) (v := v.toNat) hsort rfl
    have hwrite := gateCtlWrite_commit (n := n) (s := s) rfl hcommit
    have hsort' := plainWrite_sorted s QOS_GATE_CTL.reg n 0 0 v.toNat false hsort
    have honly := gateCtl_plainWrite_only hsort n v.toNat
    rw [State.on, hpending, ← State.on, hat, hnow] at hwrite
    refine ⟨fun hrefused => ⟨_, hnext ((hpf0 hopen).trans (hwrite.trans (if_pos hrefused))), ?_, ?_, ?_⟩,
      fun hidle hfar => ⟨_, hnext ((hpf0 hopen).trans (hwrite.trans (if_neg ?_))), rd_wrs hsort' rfl n, rd_wrs hsort' rfl n, ?_,
        onlyRegs_trans honly (wrs_only hsort' rfl n)⟩⟩
    · exact rd_wr_of_lt hsort' (by decide) (by decide) n
    · rw [rd_wr_beside hsort' (by decide) (by decide), hpending]
    · exact onlyRegs_trans honly (onlyRegs_wr _ _ _ _ _ _ hsort' List.mem_cons_self)
    · simp [hidle, hfar]
    · rw [← hcur]
      exact rd_wrs hsort' rfl n
  case takeover =>
    obtain ⟨hat, hcur⟩ := rd_timeAtLeastAt hsort n.val
    obtain ⟨hlist, hpending, hnow, hmem⟩ := gateTaken_spec (setTime_sorted hsort _) n.val (s.rd QOS_GATE_AT.AT n)
    refine ⟨gateTaken (timeAtLeastAt s n) n (s.rd QOS_GATE_AT.AT n), hnext ((gateTakeover_due hdue).trans ?_),
      hnow.trans (now_timeAtLeastAt hsort n), ?_, hpending, fun hports => portQ_gateTaken (s := timeAtLeastAt s n) hports n _, hmem⟩
    · rw [gateTake_eq, hat, (portsAlone_shaperSync _ _).rd, hcur]
    · rw [← hcur]
      exact hlist
  case sample =>
    subst hb
    obtain ⟨hdepth, hkept⟩ := portSampled_spec hsort m
    exact ⟨portSampled s m, hnext (histSample_port hruns), hdepth, hkept⟩
  case portClear =>
    obtain ⟨hzero, hkept, hmem⟩ := portHistCleared_spec hsort n.val v.toNat rfl
    exact ⟨_, hnext ((hpf0 hopen).trans (portHselWrite_clear hclear)),
      fun b hb => ⟨rd_zero_of_rdReg (hzero b hb), rd_zero_of_rdReg (hzero b hb)⟩, hkept, hmem⟩
  case chanClear =>
    obtain ⟨hzero, hkept, hmem⟩ := chHistCleared_spec hsort c.val v.toNat rfl
    exact ⟨_, hnext ((hpf0 hopen).trans (chHselWrite_clear hclear)),
      fun b hb => ⟨rd_zero_of_rdReg (hzero b hb), rd_zero_of_rdReg (hzero b hb)⟩, hkept, hmem⟩

end Sys2Proof.Machine
end

section
/-!
PROOFS for 17_elders_and_commits.md: claims, heartbeats, freezes, the comparison of proposals and the return of a unit. Each part
says once what the model's functions do, and ends with the statement it settles.
-/
namespace Sys2Proof.Machine

/-! ## Claims (17 R612) -/

section Claims
variable {s : State} {u v : Nat}

/-- The field of ELD_STAT that holds a unit's claim. -/
def claimFld (u : Nat) : Fld := if u = 0 then ELD_STAT.CLAIM_A else ELD_STAT.CLAIM_B

theorem claimOf_eq (s : State) (u : Nat) : claimOf s u = s.rd (claimFld u) := by
  unfold claimOf claimFld
  split <;> rfl

theorem setClaim_same (h : claimOf s u = v) : setClaim s u v = s := if_pos h

theorem setClaim_change (h : claimOf s u ≠ v) : setClaim s u v = irqRaise (s.wr (claimFld u) v) 39 := by
  unfold setClaim claimFld
  rw [if_neg h]
  split <;> rfl

/-- The two claims are fields of ELD_STAT that share no bit. -/
theorem claimFld_spec (u : Nat) : (claimFld u).Fits ∧ (claimFld u).w = 8 ∧ (claimFld u).reg = ELD_STAT.reg := by
  unfold claimFld
  split <;> decide

theorem claimFld_other (hu : u < 2) : (claimFld (1 - u)).Beside (claimFld u) := by
  obtain rfl | rfl : u = 0 ∨ u = 1 := by omega
  all_goals decide

theorem claimOf_wr_self (hsort : ksorted s.regs = true) (hv : v < 256) : claimOf (s.wr (claimFld u) v) u = v := by
  obtain ⟨hfits, hw, -⟩ := claimFld_spec u
  rw [claimOf_eq, rd_wr_of_lt hsort hfits (by rw [hw]; exact hv)]

theorem claimOf_wr_other (hsort : ksorted s.regs = true) (hu : u < 2) : claimOf (s.wr (claimFld u) v) (1 - u) = claimOf s (1 - u) := by
  rw [claimOf_eq, claimOf_eq, rd_wr_beside hsort (claimFld_spec u).1 (claimFld_other hu)]

theorem raiseClaim_above (h : claimOf s (1 - u) + 1 ≤ 255) : raiseClaim s u = setClaim s u (claimOf s (1 - u) + 1) := if_pos h

theorem inService_iff (s : State) (u : Nat) : inService s u = true ↔ eldSt s u = 2 ∨ eldSt s u = 3 := by simp [inService]

theorem raiseClaim_past (h : 255 < claimOf s (1 - u) + 1) :
    raiseClaim s u = setClaim (setClaim s (1 - u) (if inService s (1 - u) then 1 else 0)) u 2 := by
  simp only [inService_iff]
  exact if_neg (by omega)

end Claims

/-- Settles O20: a claim is one field of ELD_STAT, written where its value changes. -/
theorem claimsAreRaised : Obligations.ClaimsAreRaised := by
  intro s u hu hsort
  refine ⟨raiseClaim_above, raiseClaim_past, fun v => setClaim_same, fun v hv hne => ⟨s.wr (claimFld u) v, setClaim_change hne,
    claimOf_wr_self hsort hv, claimOf_wr_other hsort hu, onlyRegs_wr s _ v 0 0 0 hsort ?_⟩⟩
  rw [(claimFld_spec u).2.2]
  exact List.mem_cons_self

/-! ## Heartbeats, self-checks and freezes (17 R614 to R617) -/

/-- The Elders' own state replaced. -/
def State.withEld (s : State) (x : Eld) : State := { s with eld := x }

@[simp] theorem rd_withEld (s : State) (x : Eld) (f : Fld) (i j k : Nat) : (s.withEld x).rd f i j k = s.rd f i j k := rd_of_regs rfl f i j k

theorem eldSt_withEld (s : State) (x : Eld) (u : Nat) : eldSt (s.withEld x) u = eldSt s u := by simp [eldSt]

theorem regsKept_withEld (s : State) (x : Eld) (l : List Nat) : regsKept s (s.withEld x) l := regsKept_of_regs l rfl

theorem eld_withEld (s : State) (x : Eld) : (s.withEld x).eld = x := rfl

section Freezes
variable {s t : State} {u code n : Nat}

theorem hbLate_missed (hserves : inService s u = true) (ht : t = (timeAtLeast s (kgetD 0 u s.eld.beats +
    atLeast1 (s.rd ELD_CFG.HB_TMO) * 100000)).count ELD_CNT.HB_MISS) : hbLate s u =
      if (eldOut t u 4 1).on ELD_STAT.FROZEN then checksDone (eldOut t u 4 1) else eldOut t u 4 1 := by
  subst ht
  simp only [hbLate, heartbeatMissed, hserves, not_true, if_false]

theorem eldOut_standby (hstate : eldSt s u = 3) : eldOut s u code n = (eldLeave s u code).wr ELD_STAT.SOLO 1 := by
  rw [eldOut, hstate]
  exact (if_neg (by decide)).trans (if_neg (by decide))

theorem eldOut_active (hstate : eldSt s u = 2) : eldOut s u code n = freezeBegin (eldLeave s u code) n := by
  rw [eldOut, hstate]
  exact (if_neg (by decide)).trans (if_pos rfl)

theorem freezeBegin_new (hruns : s.on ELD_STAT.FROZEN = false) : freezeBegin s n =
    (s.wr ELD_STAT.FROZEN 1).withEld { s.eld with trigger := n, frozenAt := s.now, codes := [] } := by
  rw [freezeBegin, if_neg (by rw [hruns]; decide)]
  rfl

theorem freezeBegin_frozen (hsort : ksorted s.regs = true) (hruns : s.on ELD_STAT.FROZEN = false) (n : Nat) :
    (freezeBegin s n).rd ELD_STAT.FROZEN = 1 := by
  rw [freezeBegin_new hruns, rd_withEld]
  exact rd_wr_of_lt hsort (by decide) (by decide) 0

theorem commitOk_frozen (hfrozen : s.rd ELD_STAT.FROZEN = 1) : commitOk s = false := by
  simp [commitOk, on_of_rd_one hfrozen]

theorem selfCheck_first (hwaits : (checking s).contains u = true) (hfirst : kget u s.eld.codes = none) :
    selfCheck s u code = checksDone { s with eld := { s.eld with codes := kput u (code % 256) s.eld.codes } } := by
  rw [selfCheck, if_neg (by simp only [hwaits, hfirst, Option.isSome_none]; decide)]

theorem freezeLate_frozen (hfrozen : s.on ELD_STAT.FROZEN = true) :
    freezeLate s = eldersGone ((checking s).foldl (fun t u => eldLeave t u (kgetD 4 u t.eld.codes)) s) := if_neg (not_not.2 hfrozen)

end Freezes

/-- Settles O21: each command is a function of the Elders' state, whose branches the lemmas above name. -/
theorem heartbeatsAndSelfChecks : Obligations.HeartbeatsAndSelfChecks := by
  intro s b code
  have hnext {t u : State} (h : t = u) : (.next t : Host.Outcome State Fault Refusal) = .next u := congrArg _ h
  exact ⟨rfl, fun _ hserves => ⟨_, _, rfl, rfl, hnext (hbLate_missed hserves rfl)⟩, fun u => eldOut_standby, fun u => eldOut_active,
    fun hsort hruns n => ⟨commitOk_frozen (freezeBegin_frozen hsort hruns n), freezeBegin_frozen hsort hruns n⟩,
    fun hwaits hfirst => ⟨hnext (selfCheck_first hwaits hfirst), hnext (selfCheck_first (code := 4) hwaits hfirst)⟩,
    fun hfrozen => hnext (freezeLate_frozen hfrozen)⟩

/-! ## Proposals, returns and the handover (17 R613, R618 to R620) -/

section Proposals
variable {s t : State} {u v code n : Nat} {p q : Proposal}

theorem activeElder_spec (hactive : activeElder s = some u) : eldSt s u = 2 ∧ u < 2 := by
  unfold activeElder at hactive
  split at hactive
  case isTrue h => cases hactive; exact ⟨h.1, by decide⟩
  case isFalse =>
    split at hactive
    case isTrue h => cases hactive; exact ⟨h.1, by decide⟩
    case isFalse => cases hactive

variable (hactive : activeElder s = some u) (hruns : s.on ELD_STAT.FROZEN = false)
include hactive hruns

/-- What the checker does with the two proposals, its own and the other unit's. -/
theorem propose_pair (a b : Option Proposal) (m o : Option Proposal) (hm : m = if u = 0 then a else b) (ho : o = if u = 0 then b else a)
    (p : Proposal) (hp : m = some p) : propose s a b =
      if eldSt s (1 - u) ≠ 3 ∧ eldSt s (1 - u) ≠ 5 then applyProposal s p else if m = o then applyProposal s p
      else
        let t := evPf0 (s.count ELD_CNT.MISMATCH) 0x0F04 (s.rd ELD_LOG.COMMIT_SEQ) p.stage 0
        if eldSt s (1 - u) = 3 then freezeBegin t 2 else applyProposal (returnFails t (1 - u)) p := by
  subst hm ho
  simp only [propose, hactive, hruns, hp, Bool.false_eq_true, if_false]

theorem propose_equal : propose s (some p) (some p) = applyProposal s p := by
  rw [propose_pair hactive hruns _ _ (some p) (some p) (by simp) (by simp) p rfl, if_pos rfl, ite_self]

theorem propose_unequal (hstandby : eldSt s (1 - u) = 3) (hne : p ≠ q) : propose s (some p) (some q) =
    freezeBegin (evPf0 (s.count ELD_CNT.MISMATCH) 0x0F04 (s.rd ELD_LOG.COMMIT_SEQ) (if u = 0 then p else q).stage 0) 2 := by
  rw [propose_pair hactive hruns _ _ (some (if u = 0 then p else q)) (some (if u = 0 then q else p)) (by split <;> rfl) (by split <;> rfl) _ rfl,
    if_neg (by simp [hstandby]), if_neg (by split <;> simp [hne, hne.symm])]
  exact if_pos hstandby

theorem propose_alone (h3 : eldSt s (1 - u) ≠ 3) (h5 : eldSt s (1 - u) ≠ 5) :
    propose s (some p) (some q) = applyProposal s (if u = 0 then p else q) := by
  rw [propose_pair hactive hruns _ _ (some (if u = 0 then p else q)) (some (if u = 0 then q else p)) (by split <;> rfl) (by split <;> rfl) _ rfl,
    if_pos ⟨h3, h5⟩]

/-- HANDOVER alone: the unit in step takes control. -/
theorem eldCtlWrite_handover (hstandby : eldSt s (1 - u) = 3) (ha : wrote ELD_CTL.REARM_A v = 0) (hb : wrote ELD_CTL.REARM_B v = 0)
    (hhand : wrote ELD_CTL.HANDOVER v = 1) : eldCtlWrite s v = takeControl s (1 - u) 4 0 := by
  obtain ⟨hstate, hu⟩ := activeElder_spec hactive
  have hok : commitOk s = true := by simp [commitOk, hactive, hruns]
  simp only [eldCtlWrite, ha, hb, hhand, hok, if_true, one_ne_zero, not_true, or_self, if_false]
  obtain rfl | rfl : u = 0 ∨ u = 1 := by omega
  · rw [if_neg (by omega), if_pos hstandby]
  · exact if_pos hstandby

omit hruns in
/-- REARM of Elder A alone, while the other unit is in control: its return begins. -/
theorem eldCtlWrite_rearmA (hout : eldSt s 0 = 6) (ha : wrote ELD_CTL.REARM_A v = 1) (hb : wrote ELD_CTL.REARM_B v = 0)
    (hhand : wrote ELD_CTL.HANDOVER v = 0) : eldCtlWrite s v = resyncBegin { s with eld := { s.eld with tries := 0 } } 0 := by
  have hunit : rearmUnit s 0 = resyncBegin { s with eld := { s.eld with tries := 0 } } 0 := if_pos ⟨hout, by simp [hactive]⟩
  simp only [eldCtlWrite, ha, hb, hhand, hunit, if_true, one_ne_zero, true_or, if_false]

end Proposals

section Returns
variable {s t : State} {u v code n : Nat}

/-- The unit that returns while the other one is in control. -/
theorem returning_other (hactive : activeElder s = some u) (hreturns : eldSt s (1 - u) = 4) :
    [0, 1].find? (returning s) = some (1 - u) := by
  obtain ⟨hstate, hu⟩ := activeElder_spec hactive
  obtain rfl | rfl : u = 0 ∨ u = 1 := by omega
  all_goals simp_all [returning, List.find?]

variable (hfind : [0, 1].find? (returning s) = some u)
include hfind

theorem resyncStep_next (hstep : s.eld.step < 4) : resyncStep s 0 n = { s with eld := { s.eld with step := s.eld.step + 1 } } := by
  rw [resyncStep, hfind]
  exact (if_neg (by simp)).trans (if_pos hstep)

theorem resyncStep_fails (hstep : s.eld.step < 4) (hcode : code ≠ 0) : resyncStep s code n = eldLeave s u code := by
  rw [resyncStep, hfind]
  exact (if_pos hcode).trans (if_neg (by omega))

omit hfind

theorem withEld_frame (h : t = { s with regs := t.regs }) (x : Eld) :
    t.withEld x = { s with regs := (t.withEld x).regs, eld := (t.withEld x).eld } := by
  rw [h]
  rfl

/-- The registers of a unit whose comparison window opens. -/
def windowOpened (s : State) (u : Nat) : State :=
  (setEldSt s u 5).wr ELD_LOG.WINDOW_LEFT (atLeast1 (s.rd ELD_CFG.CMP_WINDOW))

include hfind in
theorem resyncStep_fourth (hstep : s.eld.step = 4) : resyncStep s 0 n =
    (windowOpened s u).withEld { (windowOpened s u).eld with step := 5, entries := n } := by
  rw [resyncStep, hfind]
  exact (if_neg (by simp)).trans ((if_neg (by omega)).trans (if_pos hstep))

/-- The field of ELD_STAT that holds a unit's state. -/
def stateFld (u : Nat) : Fld := if u = 0 then ELD_STAT.STATE_A else ELD_STAT.STATE_B

theorem eldSt_eq (s : State) (u : Nat) : eldSt s u = s.rd (stateFld u) := by
  unfold eldSt stateFld
  split <;> rfl

theorem setEldSt_eq (s : State) (u v : Nat) : setEldSt s u v = s.wr (stateFld u) v := by
  unfold setEldSt stateFld
  split <;> rfl

theorem stateFld_spec (u : Nat) : (stateFld u).Fits ∧ (stateFld u).w = 3 ∧ (stateFld u).reg = ELD_STAT.reg := by
  unfold stateFld
  split <;> decide

theorem windowOpened_spec (hsort : ksorted s.regs = true) (u : Nat) : eldSt (windowOpened s u) u = 5 ∧
    (windowOpened s u).rd ELD_LOG.WINDOW_LEFT = atLeast1 (s.rd ELD_CFG.CMP_WINDOW) ∧
    onlyRegs s (windowOpened s u) [ELD_STAT.reg.addr 0 0 0, ELD_LOG.reg.addr 0 0 0] := by
  obtain ⟨hfits, hw, hreg⟩ := stateFld_spec u
  have hsort' := wr_sorted s (stateFld u) 5 0 0 0 hsort
  have hwindow : atLeast1 (s.rd ELD_CFG.CMP_WINDOW) < 2 ^ ELD_LOG.WINDOW_LEFT.w := by
    have hlt : s.rd ELD_CFG.CMP_WINDOW < 2 ^ 16 := Nat.mod_lt _ (Nat.two_pow_pos _)
    unfold atLeast1
    split
    · decide
    · exact hlt
  rw [windowOpened, setEldSt_eq, eldSt_eq]
  refine ⟨?_, rd_wr_of_lt hsort' (by decide) hwindow 0, onlyRegs_trans (onlyRegs_wr s _ _ 0 0 0 hsort ?_)
    (onlyRegs_wr _ _ _ 0 0 0 hsort' ?_)⟩
  · rw [rd_wr_ne _ _ _ _ _ _ _ _ _ _ hsort' (by rw [hreg]; decide)]
    exact rd_wr_of_lt hsort hfits (by rw [hw]; decide) 0
  · rw [hreg]
    exact List.mem_cons_self
  · exact List.mem_cons_of_mem _ List.mem_cons_self

end Returns

/-- Settles O22: the checker's choice goes by the unit in control and the other one's state, and so does each step of a return. -/
theorem commitsAreCompared : Obligations.CommitsAreCompared := by
  intro s u v p q code n hu hactive hruns
  have hnext {t u : State} (h : t = u) : (.next t : Host.Outcome State Fault Refusal) = .next u := congrArg _ h
  refine ⟨fun _ => hnext (propose_equal hactive hruns), fun h3 hne => hnext (propose_unequal hactive hruns h3 hne),
    fun h3 h5 => hnext (propose_alone hactive hruns h3 h5),
    fun hopen hout ha hb hh => hnext ((atPf0_open _ hopen).trans (eldCtlWrite_rearmA hactive hout ha hb hh)),
    fun h4 hstep => hnext (resyncStep_next (returning_other hactive h4) hstep),
    fun h4 hstep hcode => hnext (resyncStep_fails (returning_other hactive h4) hstep hcode), fun hsort h4 hstep => ?_,
    fun hopen h3 ha hb hh => hnext ((atPf0_open _ hopen).trans (eldCtlWrite_handover hactive hruns h3 ha hb hh))⟩
  obtain ⟨hwindow, hleft, honly⟩ := windowOpened_spec hsort (1 - u)
  have held : (windowOpened s (1 - u)).eld = s.eld := by rw [honly.1]
  exact ⟨(windowOpened s (1 - u)).withEld { (windowOpened s (1 - u)).eld with step := 5, entries := n },
    hnext (resyncStep_fourth (returning_other hactive h4) hstep), (eldSt_withEld _ _ _).trans hwindow, (rd_withEld _ _ _ _ _ _).trans hleft,
    by rw [eld_withEld, held], withEld_frame honly.1 _, regsKept_trans honly.2 (regsKept_withEld _ _ _)⟩

end Sys2Proof.Machine
end

section
/-!
PROOFS for 14_keys_isolation_and_firmware_trust.md: the SPDM responder, the test port and the firmware fuses. Each part says once
what the model's functions do, and ends with the statement it settles.
-/
namespace Sys2Proof.Machine

/-! ## SPDM (14 R538, R539; 03 R134) -/

section Spdm
variable {s : State} {msg : List Byte} {x : Sess}

theorem spdmCapabilities_next (h : 1 ≤ s.keys.spdm) : spdmCapabilities s =
    spdmSay { s with keys := { s.keys with spdm := max 2 s.keys.spdm } } 0x61 0 0 ([0, 0, 0, 0] ++ leBytes 4 spdmFlags) :=
  if_neg (by omega)

theorem spdmAlgorithms_next (h : 2 ≤ s.keys.spdm) :
    spdmAlgorithms s = spdmSay { s with keys := { s.keys with spdm := 3 } } 0x63 0 0 [] := if_neg (by omega)

theorem spdmNeeds_ready (h : 3 ≤ s.keys.spdm) (f : State → State) : spdmNeeds s f = f s := if_neg (by omega)

theorem spdmSigned_held (h : s.keys.identity = true) (f : State → State) : spdmSigned s f = f s := if_pos h

theorem spdmCertificate_slot0 (h : 3 ≤ s.keys.spdm) (hslot : (nthB msg 2).toNat % 16 = 0) :
    spdmCertificate s msg = spdmSay s 0x02 0 0 [] :=
  (spdmNeeds_ready h _).trans (if_neg (not_not.2 hslot))

theorem spdmChallenge_slot0 (h : 3 ≤ s.keys.spdm) (hid : s.keys.identity = true) (hslot : (nthB msg 2).toNat % 16 = 0) :
    spdmChallenge s msg = spdmSay s 0x03 0 1 [] :=
  (spdmNeeds_ready h _).trans ((spdmSigned_held hid _).trans (if_neg (not_not.2 hslot)))

/-- One measurement, unsigned. -/
theorem spdmMeasurements_one (h : 3 ≤ s.keys.spdm) (hplain : (nthB msg 2).toNat % 2 = 0) (hlo : 1 ≤ (nthB msg 3).toNat)
    (hhi : (nthB msg 3).toNat ≤ 7) : spdmMeasurements s msg = spdmSay s 0x60 0 0 (measured s (nthB msg 3).toNat) := by
  rw [spdmMeasurements, spdmNeeds_ready h, if_neg (by omega)]
  exact (if_neg (by omega)).trans (if_pos hhi)

/-- The secret that a key exchange gives its session. -/
def sessSecret (s : State) : List Byte := (List.range 32).map fun i => Config.drbg (s.fresh + 2 + i)

theorem spdmKeyExchange_opens (h : 3 ≤ s.keys.spdm) (hid : s.keys.identity = true) (hroom : s.keys.sess.length < 2) :
    ∃ own id secret, own = [Config.drbg s.fresh, Config.drbg (s.fresh + 1)] ∧
      id = leNat ((msg.drop 4).take 2) + leNat own * 2 ^ 16 ∧ secret.length = 32 ∧
      spdmKeyExchange s msg = spdmSay (sessSync
        { s with fresh := s.fresh + 34, keys := { s.keys with sess := s.keys.sess ++ [⟨id, false, secret⟩] } }) 0x64 0 0 own :=
  ⟨_, _, sessSecret s, rfl, rfl, by simp [sessSecret],
    (spdmNeeds_ready h _).trans ((spdmSigned_held hid _).trans (if_neg (Nat.not_le.2 hroom)))⟩

theorem spdmFinish_opens (hsess : sessOf s msg false = some x) : spdmFinish s msg = spdmSay { s with keys := { s.keys with
    sess := s.keys.sess.map fun y => if y.id = x.id then { y with up := true } else y } } 0x65 0 0 [] := by
  simp only [spdmFinish, hsess]

theorem spdmInSession_open (hsess : sessOf s msg true = some x) (code : Nat) : spdmInSession s msg code = spdmSay s code 0 0 [] :=
  if_pos (by rw [hsess]; rfl)

theorem spdmVendor_open (hsess : sessOf s msg true = some x) : spdmVendor s msg = ideKm s (msg.drop 15) :=
  if_pos (by rw [hsess]; rfl)

theorem spdmEnd_closes (hsess : sessOf s msg true = some x) : spdmEnd s msg = spdmSay (sessSync { s with keys := { s.keys with
    sess := s.keys.sess.filter fun y => y.id != x.id } }) 0x6C 0 0 [] := by
  simp only [spdmEnd, hsess]

/-- The KEY_PROG message for sub-stream, key set and direction `k` of stream `id`. -/
def keyProgMsg (id k : Byte) (key : List Byte) : List Byte := [0, 2, 0, 0, id, 0, k, 0] ++ key

theorem keyProg_new {id k : Byte} {key : List Byte} (hkey : key.length = 40) (hroom : s.keys.ide.length < 4)
    (hnew : ∀ x ∈ s.keys.ide, x.id ≠ id.toNat) : keyProg s (keyProgMsg id k key) = ({ s with keys := { s.keys with
      ide := s.keys.ide ++ [⟨id.toNat, (0, 0), [(ideKey k.toNat, key)], []⟩] } }, 0) := by
  have htake : ((keyProgMsg id k key).drop 8).take 40 = key := by simp [keyProgMsg, ← hkey]
  have hother : ¬ (s.keys.ide.any fun x => x.id == id.toNat) = true := by simpa using hnew
  simp only [keyProg, htake]
  exact (if_neg (not_not.2 hkey)).trans ((if_neg (not_not.2 rfl)).trans ((if_neg hother).trans (if_neg (Nat.not_le.2 hroom))))

theorem ideKm_keyProg {id k : Byte} {key : List Byte} : ideKm s (keyProgMsg id k key) =
    ideSay (keyProg s (keyProgMsg id k key)).1 [0, 3, 0, 0, id, toB (keyProg s (keyProgMsg id k key)).2, k, 0] := by
  have hop : (nthB (keyProgMsg id k key) 1).toNat = 2 := rfl
  simp only [ideKm]
  rw [if_neg (by rw [hop]; decide), if_pos hop]
  rfl

end Spdm

/-- Settles O23: each request is a function of the responder's state, whose branches the lemmas above name. -/
theorem spdmAnswers : Obligations.SpdmAnswers := by
  intro s msg
  have hnext {t u : State} (h : t = u) : (.next t : Host.Outcome State Fault Refusal) = .next u := congrArg _ h
  refine ⟨rfl, fun h => hnext (spdmCapabilities_next h), fun h => hnext (spdmAlgorithms_next h), fun h => ⟨hnext (spdmNeeds_ready h _),
    fun hslot => hnext (spdmCertificate_slot0 h hslot), fun hslot hid => hnext (spdmChallenge_slot0 h hid hslot),
    fun hplain hlo hhi => hnext (spdmMeasurements_one h hplain hlo hhi), fun hid hroom => ?_⟩,
    fun x hsess => hnext (spdmFinish_opens hsess), fun x hsess => ⟨hnext (spdmInSession_open hsess _), hnext (spdmInSession_open hsess _),
      hnext (spdmVendor_open hsess), hnext (spdmEnd_closes hsess)⟩, fun k id key hmsg hkey hroom hnew => ?_⟩
  · obtain ⟨own, id, secret, hown, hid', hlen, hopens⟩ := spdmKeyExchange_opens (msg := msg) h hid hroom
    exact ⟨own, id, secret, hown, hid', hlen, hnext hopens⟩
  · rw [show msg = keyProgMsg id k key from hmsg, ideKm_keyProg, keyProg_new hkey hroom hnew]
    rfl

/-! ## The test port (14 R540; 18 R642, R646) -/

section TestPort
variable {s : State} {token : List Byte} {ir : BitVec 8}

/-- A token that the chip takes: it names the chip and its nonce, and is signed. -/
def tokenTaken (s : State) (token : List Byte) : State :=
  { s with start := { s.start with unlock := some (leNat ((token.drop 48).take 8)) } }

theorem rd_tokenTaken (s : State) (token : List Byte) (f : Fld) : (tokenTaken s token).rd f = s.rd f := rd_of_regs rfl f 0 0 0

theorem unlockToken_good (hnonce : s.keys.nonce = some ((token.drop 16).take 32)) (hid : token.take 16 = uniqueId s)
    (hsigned : Config.tokenSigned token = true) (hawake : s.rd CHIP_SLEEP.STATE ≠ 3) :
    unlockToken s token = resetAsk (tokenTaken s token) 1 (5 * 1024) 6 none :=
  (if_pos ⟨hnonce.symm, hid, hsigned⟩).trans (if_neg (by rw [← rd_tokenTaken s token] at hawake; exact hawake))

theorem unlockToken_stale (hnonce : s.keys.nonce ≠ some ((token.drop 16).take 32)) : unlockToken s token = s :=
  if_neg fun h => hnonce h.1.symm

/-- The instruction register of the test port. -/
def tapSelected (s : State) (code : Nat) : State := { s with ctl := { s.ctl with tap := code } }

theorem tapInstr_idcode (s : State) : tapInstr s 1 = (tapSelected s 1).emit (.tap (leBytes 4 (idcode s))) := rfl

/-- EXTEST, HIGHZ and CLAMP. -/
theorem tapInstr_boundary (n : Nat) (h : n = 0 ∨ n = 3 ∨ n = 4) :
    tapInstr s n = tapSelected s (if s.ctl.low.testBit 0 then n else 0xFF) := by
  obtain rfl | rfl | rfl := h
  all_goals
    simp only [tapInstr, tapSelected, Nat.reduceBEq, Bool.false_or, Bool.or_true, Bool.true_and, Bool.false_and, Bool.or_false]
    rfl

theorem tapInstr_scan (s : State) : tapInstr s 0x10 = tapSelected s (if s.on SEC_DEBUG.SCAN then 0x10 else 0xFF) := rfl

end TestPort

/-! ## The firmware fuses (14 R536) -/

section Fuses
variable {s : State} {v : Nat}

theorem secFwWrite_locked (hlock : s.on CHIP_LOCK.LOCK = true) : secFwWrite s v = s := if_pos hlock

/-- The keys' fuses once REVOKE has burned those it names but the running image's own. -/
def keysRevoked (s : State) (v : Nat) : Nat :=
  s.rd SEC_FW.REVOKED ||| (wrote SEC_FW.REVOKE v - (wrote SEC_FW.REVOKE v &&& 2 ^ s.rd SEC_FW.KEYSEL))

theorem keysRevoked_lt (s : State) (v : Nat) : keysRevoked s v < 2 ^ SEC_FW.REVOKED.w :=
  Nat.or_lt_two_pow (Nat.mod_lt _ (Nat.two_pow_pos _)) (Nat.lt_of_le_of_lt (Nat.sub_le _ _) (Nat.mod_lt _ (Nat.two_pow_pos _)))

theorem keysRevoked_none (hnone : wrote SEC_FW.REVOKE v = 0) : keysRevoked s v = s.rd SEC_FW.REVOKED := by simp [keysRevoked, hnone]

theorem secFwWrite_revoke (hopen : s.on CHIP_LOCK.LOCK = false) (hkeep : wrote SEC_FW.ADVANCE v = 0) :
    secFwWrite s v = s.wrs 0 [(SEC_FW.REVOKED, keysRevoked s v)] :=
  (if_neg (by simp [hopen])).trans (if_pos hkeep)

/-- The fused SVN once ADVANCE has burned it up to the image's. -/
def svnAdvanced (s : State) : Nat := max (s.rd SEC_FW.SVN_FUSED) (s.rd SEC_FW.SVN_IMAGE)

theorem svnAdvanced_lt (s : State) : svnAdvanced s < 2 ^ SEC_FW.SVN_FUSED.w :=
  Nat.max_lt.2 ⟨Nat.mod_lt _ (Nat.two_pow_pos _), Nat.mod_lt _ (Nat.two_pow_pos _)⟩

theorem secFwWrite_advance (hopen : s.on CHIP_LOCK.LOCK = false) (hadvance : wrote SEC_FW.ADVANCE v = 1) : secFwWrite s v =
    evPf0 (s.wrs 0 [(SEC_FW.REVOKED, keysRevoked s v), (SEC_FW.SVN_FUSED, svnAdvanced s)]) 0x0C03 (s.rd SEC_FW.SVN_FUSED) (svnAdvanced s) 0 :=
  (if_neg (by simp [hopen])).trans (if_neg (by omega))

/-- What PF0's registers hold already stays, whether they answer or not. -/
theorem atPf0_self (s : State) : atPf0 s s = s := ite_self s

end Fuses

/-- Settles O24: each command is a function of the nonce, the lock and the fields it names, whose branches the lemmas above name. -/
theorem testPortAndFuses : Obligations.TestPortAndFuses := by
  intro s token ir v hsort
  have hnext {t u : State} (h : t = u) : (.next t : Host.Outcome State Fault Refusal) = .next u := congrArg _ h
  refine ⟨⟨_, rfl, rfl⟩, fun hnonce hid hsigned hawake => hnext (unlockToken_good hnonce hid hsigned hawake),
    fun hnonce => hnext (unlockToken_stale hnonce), fun hir => ?idcode, fun hir => ?boundary, fun hir => ?scan, rfl,
    fun hopen hlock hadvance hnone => ?advance, fun hopen hlock hkeep => ?revoke, fun hlock => ?locked⟩
  case idcode =>
    subst hir
    exact hnext (tapInstr_idcode s)
  case boundary =>
    exact hnext (tapInstr_boundary ir.toNat (by obtain rfl | rfl | rfl := hir <;> simp))
  case scan =>
    subst hir
    exact hnext (tapInstr_scan s)
  case advance =>
    refine ⟨_, hnext ((atPf0_open _ hopen).trans (secFwWrite_advance hlock hadvance)), (rd_wrs hsort rfl 0).trans ?_,
      (rd_wrs hsort rfl 0).trans ?_, wrs_only hsort rfl 0⟩
    · exact Nat.mod_eq_of_lt (svnAdvanced_lt s)
    · exact (Nat.mod_eq_of_lt (keysRevoked_lt s _)).trans (keysRevoked_none hnone)
  case revoke =>
    refine ⟨_, hnext ((atPf0_open _ hopen).trans (secFwWrite_revoke hlock hkeep)), rd_wrs hsort rfl 0,
      (rd_wrs hsort rfl 0).trans ?_, wrs_only hsort rfl 0⟩
    exact Nat.mod_eq_of_lt (keysRevoked_lt s _)
  case locked =>
    have hsame : atPf0 s (secFwWrite s v.toNat) = s := by rw [secFwWrite_locked hlock, atPf0_self]
    exact ⟨hnext hsame, hnext hsame⟩

end Sys2Proof.Machine
end

section
/-!
PROOFS for 15_faults_events_and_interrupts.md: how errors are collected, and how interrupt sources deliver. Each part says once what
the model's functions do, and ends with the statement it settles.
-/
namespace Sys2Proof.Machine

/-! ## Interrupt sources (15 R564 to R566) -/

section Interrupts
variable {s t : State} {src v : Nat}

/-- The interrupt controller's own state replaced. -/
def State.withIrq (s : State) (x : Irq) : State := { s with irq := x }

@[simp] theorem rd_withIrq (s : State) (x : Irq) (f : Fld) (i j k : Nat) : (s.withIrq x).rd f i j k = s.rd f i j k := rd_of_regs rfl f i j k

theorem regsKept_withIrq (s : State) (x : Irq) (l : List Nat) : regsKept s (s.withIrq x) l := regsKept_of_regs l rfl

theorem withIrq_frame (h : t = { s with regs := t.regs }) (x : Irq) :
    t.withIrq x = { s with regs := (t.withIrq x).regs, irq := (t.withIrq x).irq } := by
  rw [h]
  rfl

theorem irqDeliver_fixed (hfixed : src < 32) : irqDeliver s src = s := if_pos hfixed

theorem irqDeliver_bad (hsrc : 32 ≤ src) (hbad : irqTargetOk s src = false) : irqDeliver s src = s.wr IRQ_SRC_CFG.BAD 1 src := by
  rw [irqDeliver, if_neg (by omega), if_pos (by simp [hbad])]

theorem irqDeliver_waits (hsrc : 32 ≤ src) (hok : irqTargetOk s src = true) (hwaits : irqReady s src = false) : irqDeliver s src = s := by
  rw [irqDeliver, if_neg (by omega), if_neg (by simp [hok]), if_neg (by simp [hwaits])]

theorem irqReady_banked (hready : irqReady s src = true) : 32 ≤ src := by
  simp only [irqReady, Bool.and_eq_true, decide_eq_true_eq] at hready
  exact hready.1.1.1.1.1.1

theorem irqDeliver_sends (hok : irqTargetOk s src = true) (hready : irqReady s src = true)
    (hmod : kgetD 0 src s.irq.lastAt + s.rd IRQ_SRC_CFG.MOD src * 1000 ≤ s.now) : irqDeliver s src = irqSend s src := by
  have hsrc := irqReady_banked hready
  rw [irqDeliver, if_neg (by omega), if_neg (by simp [hok]), if_pos hready, timeAtLeast, if_neg (by omega)]

/-- A delivery's time is noted. -/
def irqNoted (s : State) (src : Nat) : State := s.withIrq { s.irq with lastAt := kput src s.now s.irq.lastAt }

theorem irqSend_core (hkind : s.rd IRQ_SRC_CFG.KIND src = 1) : irqSend s src = s.withIrq { s.irq with
    lastAt := kput src s.now s.irq.lastAt, coreSig := sput (src * 8 + s.rd IRQ_SRC_CFG.CORE src) s.irq.coreSig } := by
  simp only [irqSend, hkind, if_true]
  rfl

/-- A message of an unmasked vector, and its source's count forgotten. -/
def irqMessaged (s : State) (src : Nat) : State :=
  (((irqNoted s src).emit (.msix (s.rd IRQ_SRC_CFG.FUNC src) (s.rd IRQ_SRC_CFG.VECTOR src))).wrs src
    [(IRQ_SRC_CNT.COUNT, 0), (IRQ_SRC_CNT.SAT, 0)])

theorem irqSend_message (hkind : s.rd IRQ_SRC_CFG.KIND src = 2)
    (hopen : s.irq.unmasked.contains (msixKey (s.rd IRQ_SRC_CFG.FUNC src) (s.rd IRQ_SRC_CFG.VECTOR src)) = true) :
    irqSend s src = irqMessaged s src := by
  have hsend : msixSend (irqNoted s src) (s.rd IRQ_SRC_CFG.FUNC src) (s.rd IRQ_SRC_CFG.VECTOR src) =
    (irqNoted s src).emit (.msix (s.rd IRQ_SRC_CFG.FUNC src) (s.rd IRQ_SRC_CFG.VECTOR src)) := if_pos hopen
  rw [irqMessaged, ← hsend]
  simp only [irqSend, hkind]
  rfl

theorem irqMessaged_spec (hsort : ksorted s.regs = true) (src : Nat) :
    (irqMessaged s src).rd IRQ_SRC_CNT.COUNT src = 0 ∧ (irqMessaged s src).rd IRQ_SRC_CNT.SAT src = 0 ∧
      regsKept s (irqMessaged s src) [IRQ_SRC_CNT.reg.addr src 0 0] := by
  let u := (irqNoted s src).emit (.msix (s.rd IRQ_SRC_CFG.FUNC src) (s.rd IRQ_SRC_CFG.VECTOR src))
  have hsort' : ksorted u.regs = true := hsort
  exact ⟨rd_wrs hsort' rfl src, rd_wrs hsort' rfl src, (wrs_only hsort' rfl src).2⟩

/-- What an acknowledgement leaves of a source's registers. -/
def irqAcked (s : State) (src v : Nat) : State :=
  if s.rd IRQ_SRC_CNT.COUNT src - wrote IRQ_SRC_CNT.ACK v = 0 then s.wrs src [(IRQ_SRC_CNT.COUNT, 0), (IRQ_SRC_CNT.SAT, 0)]
  else s.wrs src [(IRQ_SRC_CNT.COUNT, s.rd IRQ_SRC_CNT.COUNT src - wrote IRQ_SRC_CNT.ACK v)]

/-- The controller once the signal of a source has ended at its core. -/
def sigEnded (x : Irq) (src : Nat) : Irq := { x with coreSig := x.coreSig.filter (fun (k : Nat) => k / 8 != src) }

theorem irqAck_quiet (hsrc : 32 ≤ src) (hkind : s.rd IRQ_SRC_CFG.KIND src ≠ 1) :
    irqAck s src v = (irqAcked s src v).withIrq (sigEnded (irqAcked s src v).irq src) := by
  have hack : s.rd IRQ_SRC_CNT.COUNT src - min (wrote IRQ_SRC_CNT.ACK v) (s.rd IRQ_SRC_CNT.COUNT src) =
    s.rd IRQ_SRC_CNT.COUNT src - wrote IRQ_SRC_CNT.ACK v := by omega
  rw [irqAck, if_neg (by omega)]
  simp only [hack]
  rw [if_neg fun h => hkind h.1, irqAcked]
  split
  · next h => rw [h]; rfl
  · rfl

theorem irqAcked_spec (hsort : ksorted s.regs = true) (src v : Nat) :
    (irqAcked s src v).rd IRQ_SRC_CNT.COUNT src = s.rd IRQ_SRC_CNT.COUNT src - wrote IRQ_SRC_CNT.ACK v ∧
      ((irqAcked s src v).rd IRQ_SRC_CNT.COUNT src = 0 → (irqAcked s src v).rd IRQ_SRC_CNT.SAT src = 0) ∧
      onlyRegs s (irqAcked s src v) [IRQ_SRC_CNT.reg.addr src 0 0] := by
  have hlt : s.rd IRQ_SRC_CNT.COUNT src - wrote IRQ_SRC_CNT.ACK v < 2 ^ IRQ_SRC_CNT.COUNT.w :=
    Nat.lt_of_le_of_lt (Nat.sub_le _ _) (Nat.mod_lt _ (Nat.two_pow_pos _))
  unfold irqAcked
  split
  case isTrue h => exact ⟨(rd_wrs hsort rfl src).trans h.symm, fun _ => rd_wrs hsort rfl src, wrs_only hsort rfl src⟩
  case isFalse h =>
    have hcount : (s.wrs src [(IRQ_SRC_CNT.COUNT, s.rd IRQ_SRC_CNT.COUNT src - wrote IRQ_SRC_CNT.ACK v)]).rd IRQ_SRC_CNT.COUNT src =
      s.rd IRQ_SRC_CNT.COUNT src - wrote IRQ_SRC_CNT.ACK v := (rd_wrs hsort rfl src).trans (Nat.mod_eq_of_lt hlt)
    exact ⟨hcount, fun hzero => absurd (hcount.symm.trans hzero) h, wrs_only hsort rfl src⟩

end Interrupts

section Vectors
variable {s : State} {func vec : Nat}

/-- A vector no longer masked. -/
def vecOpened (s : State) (func vec : Nat) : State := s.withIrq { s.irq with unmasked := sput (msixKey func vec) s.irq.unmasked }

theorem msixUnmask_none (hvec : vec < vecCount func) (hnone : s.irq.msixPend.contains (msixKey func vec) = false) :
    msixUnmask s func vec = vecOpened s func vec := by
  rw [msixUnmask, if_neg (by omega)]
  exact if_neg (by rw [hnone]; decide)

theorem msixUnmask_pending (hvec : vec < vecCount func) (hpend : s.irq.msixPend.contains (msixKey func vec) = true) :
    msixUnmask s func vec = ((vecOpened s func vec).withIrq { (vecOpened s func vec).irq with
      msixPend := sdel (msixKey func vec) s.irq.msixPend }).emit (.msix func vec) := by
  rw [msixUnmask, if_neg (by omega)]
  exact if_pos hpend

theorem not_mem_sdel (k : Nat) (l : List Nat) : k ∉ sdel k l := by simp [sdel]

end Vectors

/-- Settles O53: each command is a function of the source or the vector, whose branches the lemmas above name. -/
theorem interruptsAreDelivered : Obligations.InterruptsAreDelivered := by
  intro s src hsort
  have hnext {t u : State} (h : t = u) : (.next t : Host.Outcome State Fault Refusal) = .next u := congrArg _ h
  refine ⟨fun hfixed => hnext (irqDeliver_fixed hfixed), fun hsrc hbad => ⟨_, hnext (irqDeliver_bad hsrc hbad),
      rd_wr_of_lt hsort (by decide) (by decide) src, rd_wr_beside hsort (by decide) (by decide) 1 src,
      onlyRegs_wr s _ 1 src 0 0 hsort List.mem_cons_self⟩,
    fun hsrc hok hwaits => hnext (irqDeliver_waits hsrc hok hwaits),
    fun hok hready hmod => ⟨fun hkind hopen => ?message, fun hkind => ?core⟩,
    fun v hopen hsrc hkind => ?ack, fun f vec hvec hnone => ?opened, fun f vec hvec hpend => ?sent⟩
  case message =>
    obtain ⟨hcount, hsat, hkept⟩ := irqMessaged_spec hsort src.val
    exact ⟨irqMessaged s src, hnext ((irqDeliver_sends hok hready hmod).trans (irqSend_message hkind hopen)),
      rfl, hcount, hsat, ⟨rfl, rfl⟩, hkept⟩
  case core =>
    exact ⟨_, hnext ((irqDeliver_sends hok hready hmod).trans (irqSend_core hkind)), rfl, mem_sput.2 (.inl rfl)⟩
  case ack =>
    obtain ⟨hcount, hsat, honly⟩ := irqAcked_spec hsort src.val v.toNat
    refine ⟨_, hnext ((atPf0_open _ hopen).trans (irqAck_quiet hsrc hkind)), (rd_withIrq _ _ _ _ _ _).trans hcount, ?_, ?_,
      withIrq_frame honly.1 _, regsKept_trans honly.2 (regsKept_withIrq _ _ _)⟩
    · rw [rd_withIrq, rd_withIrq]
      exact hsat
    · intro x hx
      simpa using (List.mem_filter.1 hx).2
  case opened =>
    exact ⟨_, hnext (msixUnmask_none hvec hnone), mem_sput.2 (.inl rfl), rfl⟩
  case sent =>
    exact ⟨_, hnext (msixUnmask_pending hvec hpend), rfl, not_mem_sdel _ _, mem_sput.2 (.inl rfl), rfl, ⟨rfl, rfl⟩⟩

/-! ## Errors (15 R551 to R556, R574) -/

section Errors
variable {s t u : State} {e : ErrRep} {c kind inst v : Nat} {w : Watch}

/-- The collectors' own state replaced. -/
def State.withWatch (s : State) (x : Watch) : State := { s with watch := x }

@[simp] theorem rd_withWatch (s : State) (x : Watch) (f : Fld) (i j k : Nat) : (s.withWatch x).rd f i j k = s.rd f i j k :=
  rd_of_regs rfl f i j k

theorem regsKept_withWatch (s : State) (x : Watch) (l : List Nat) : regsKept s (s.withWatch x) l := regsKept_of_regs l rfl

theorem withWatch_frame (h : t = { s with regs := t.regs }) (x : Watch) :
    t.withWatch x = { s with regs := (t.withWatch x).regs, watch := (t.withWatch x).watch } := by
  rw [h]
  rfl

theorem sramRaise_other (h : e.kind ≠ 10 ∨ (e.err ≠ 1 ∧ e.err ≠ 2)) : sramRaise s e = s := if_neg (by omega)

theorem errorReport_corrected (hcls : e.cls = 1) : errorReport s e = watchCE (sramRaise s e) e.kind e.inst := if_pos hcls

theorem errorReport_none (hcls : e.cls = 0) : errorReport s e = sramRaise s e := by
  rw [errorReport, if_neg (by omega), if_neg (by omega), if_neg (by omega)]

theorem errorReport_fatal (hcls : e.cls = 3) : errorReport s e = fatal (poisonLines (sramRaise s e) e.lines) e := by
  rw [errorReport, if_neg (by omega), if_neg (by omega), if_pos hcls]

/-- An uncorrected error while no chip-wide reset runs; a MAC failure is also counted for its partition. -/
theorem errorReport_uncorrected (hcls : e.cls = 2) (hu : u = sramRaise s e) (hruns : chipResetting u = false)
    (ht : t = if e.kind = 7 then macFail (poisonLines u e.lines) e else poisonLines u e.lines) :
    errorReport s e = watchUE t e.kind e.inst e.err e.part e.access e.space e.addr e.synd e.lines.length := by
  subst hu ht
  rw [errorReport, if_neg (by omega), if_pos hcls, if_neg (by rw [hruns]; decide)]

/-- A corrected error counted in its collector and in its window. -/
def ceCounted (s : State) (c : Nat) : State :=
  (s.count FLT_CNT.CE c).withWatch { s.watch with ceWin := kput c (kgetD 0 c s.watch.ceWin + 1) s.watch.ceWin }

theorem watchCE_eq (hc : c = collectorOf kind inst) : watchCE s kind inst =
    if s.rd FLT_CE_CFG.CE_THRESH c ≠ 0 ∧ s.rd FLT_CE_CFG.CE_THRESH c ≤ kgetD 0 c s.watch.ceWin + 1 ∧ ¬ s.watch.ceSent.contains c then
      evPf0 ((ceCounted s c).withWatch { (ceCounted s c).watch with ceSent := sput c s.watch.ceSent }) 0x0D01 c
        (kgetD 0 c s.watch.ceWin + 1) (s.rd FLT_CE_CFG.CE_THRESH c)
    else ceCounted s c := by
  subst hc
  rfl

theorem rd_ceCounted (hsort : ksorted s.regs = true) (c : Nat) :
    (ceCounted s c).rd FLT_CNT.CE c = min (s.rd FLT_CNT.CE c + 1) (2 ^ FLT_CNT.CE.w - 1) := by
  rw [ceCounted, rd_withWatch, rd_count_self hsort (by decide)]

theorem ceCounted_kept (hsort : ksorted s.regs = true) (c : Nat) : regsKept s (ceCounted s c) [FLT_CNT.reg.addr c 0 0] :=
  regsKept_trans (onlyRegs_count s FLT_CNT.CE c 0 0 1 hsort List.mem_cons_self).2 (regsKept_withWatch _ _ _)

theorem brokenWire_masked (still : Bool) (hmasked : s.watch.masked.contains (kind * 512 + inst) = true) :
    brokenWire s kind inst still = s := if_pos hmasked

/-- The partition that a broken pair of a unit concerns, 16 for none. -/
def wirePart (s : State) (kind inst : Nat) : Nat :=
  (if kind = 0 then s.partOfSlice (inst / 17) else if kind = 1 ∨ kind = 7 then s.partOfSlice inst
    else if kind = 2 then s.partOfChan inst else none).getD 16

/-- The report of a broken pair. -/
def wireErr (kind inst part : Nat) : ErrRep := ⟨kind, inst, 0x04, 3, part, 0xFF, 0, none, 0, [], false, 0⟩

/-- Event 0x0D02 for a broken pair. -/
def wireTold (s : State) (kind inst : Nat) (still : Bool) : State :=
  evPf0 s 0x0D02 (srcCode kind inst 0x04) (b2n still) (collectorOf kind inst)

theorem brokenWire_eq (s : State) (kind inst : Nat) (still : Bool) : brokenWire s kind inst still =
    if s.watch.masked.contains (kind * 512 + inst) then s
    else if still then wireMasked (wireTold s kind inst still) (wireErr kind inst (wirePart s kind inst)) true
    else fatal ((wireTold s kind inst still).count FLT_WIRE.BROKEN (collectorOf kind inst))
      (wireErr kind inst (wirePart s kind inst)) := rfl

theorem wireTold_new (s : State) (kind inst : Nat) :
    wireTold s kind inst false = evPf0 s 0x0D02 (srcCode kind inst 0x04) 0 (collectorOf kind inst) := by
  rw [wireTold, show b2n false = 0 from rfl]

theorem brokenWire_new (hnew : s.watch.masked.contains (kind * 512 + inst) = false) : brokenWire s kind inst false =
    fatal ((wireTold s kind inst false).count FLT_WIRE.BROKEN (collectorOf kind inst)) (wireErr kind inst (wirePart s kind inst)) := by
  rw [brokenWire_eq, if_neg (by rw [hnew]; decide), if_neg Bool.false_ne_true]

/-- The registers of a latch that is emptied (15 R551). -/
def firstZeroed (s : State) (c : Nat) : State := (s.wr FLT_FIRST.VALID 0 c).wr FLT_FIRST.OVF 0 c

theorem firstZeroed_eq_wrs (s : State) (c : Nat) : firstZeroed s c = s.wrs c [(FLT_FIRST.VALID, 0), (FLT_FIRST.OVF, 0)] := rfl

theorem fltFirstWrite_clear (hclear : wrote FLT_FIRST.VALID v = 1) : fltFirstWrite s c v =
    (firstZeroed s c).withWatch { (firstZeroed s c).watch with latched := kdel c (firstZeroed s c).watch.latched } := by
  rw [fltFirstWrite, if_neg (by omega)]
  rfl

theorem inject_plainWrite_only (hsort : ksorted s.regs = true) (v : Nat) :
    onlyRegs s (plainWrite s FLT_INJECT.reg 0 0 0 v) [FLT_INJECT.reg.addr 0 0 0] :=
  plainWrite_only s FLT_INJECT.reg 0 0 0 v false hsort (by decide +kernel) List.mem_cons_self

theorem lock_inject_plainWrite (hsort : ksorted s.regs = true) (v : Nat) :
    (plainWrite s FLT_INJECT.reg 0 0 0 v).on CHIP_LOCK.LOCK = s.on CHIP_LOCK.LOCK := by
  rw [State.on, rd_of_regsKept (inject_plainWrite_only hsort v).2 _ (by decide), State.on]

/-- The report that an injection makes. -/
def injectErr (t : State) : ErrRep :=
  ⟨fld (t.rd FLT_INJECT.SRC) 0 4, fld (t.rd FLT_INJECT.SRC) 4 9, fld (t.rd FLT_INJECT.SRC) 13 8, t.rd FLT_INJECT.CLASS,
    unitPart t (fld (t.rd FLT_INJECT.SRC) 0 4) (fld (t.rd FLT_INJECT.SRC) 4 9), 0xFF, 0, none, 0, [], false,
    (Config.openValue t.fresh).toNat % 8⟩

theorem injectWrite_kept (hsort : ksorted s.regs = true) (h : wrote FLT_INJECT.GO v = 0 ∨ s.on CHIP_LOCK.LOCK = true) :
    injectWrite s v = plainWrite s FLT_INJECT.reg 0 0 0 v := by
  rw [← lock_inject_plainWrite hsort v] at h
  exact if_pos h

theorem injectWrite_go (hsort : ksorted s.regs = true) (hgo : wrote FLT_INJECT.GO v = 1) (hopen : s.on CHIP_LOCK.LOCK = false)
    (ht : t = plainWrite s FLT_INJECT.reg 0 0 0 v) : injectWrite s v =
      if t.on FLT_INJECT.WIRE then brokenWire t (fld (t.rd FLT_INJECT.SRC) 0 4) (fld (t.rd FLT_INJECT.SRC) 4 9) false
      else if t.rd FLT_INJECT.CLASS = 0 then t else errorReport t.tickFresh (injectErr t) := by
  rw [← lock_inject_plainWrite hsort v] at hopen
  subst ht
  exact if_neg (by simp [hgo, hopen])

end Errors

/-- Settles O52: each command is a function of the report, the register written and the collector, whose branches the lemmas above
name. -/
theorem errorsAreCollected : Obligations.ErrorsAreCollected := by
  intro s c hsort
  have hnext {t u : State} (h : t = u) : (.next t : Host.Outcome State Fault Refusal) = .next u := congrArg _ h
  refine ⟨fun e u hu => ⟨fun hother => hu.trans (sramRaise_other hother), fun n w hcls hc hn hw => ?corrected,
      fun hcls => hnext ((errorReport_none hcls).trans hu.symm), fun hcls => hnext (by rw [hu, errorReport_fatal hcls]),
      fun hcls hkind hruns => hnext (errorReport_uncorrected hcls hu hruns (if_neg hkind).symm),
      fun hcls hkind hruns => hnext (errorReport_uncorrected hcls hu hruns (if_pos hkind).symm)⟩,
    fun src part mine w hmine hw => ?coalesced, ?window, fun kind inst still hmasked => hnext (brokenWire_masked still hmasked),
fun inst hnew => ?wire, fun v hopen hclear => ?first,
    fun v hopen hkeep => hnext ((atPf0_open _ hopen).trans (injectWrite_kept hsort hkeep)), fun v t hopen hgo hlock ht => ?inject⟩
  case corrected =>
    have hreport := (errorReport_corrected (s := s) hcls).trans (watchCE_eq (s := sramRaise s e) hc)
    rw [← hu, ← hn] at hreport
    have hcount : ceCounted u c = { u.count FLT_CNT.CE c with watch := w } := by
      subst hw hn
      rfl
    refine ⟨fun hquiet => hnext (hreport.trans ((if_neg ?_).trans hcount)), fun hthresh hreached hnew hregs =>
      ⟨_, hnext (hreport.trans (if_pos ⟨hthresh, hreached, by rw [hnew]; decide⟩)), (rd_withWatch _ _ _ _ _ _).trans (rd_ceCounted hregs c),
        rfl, ⟨rfl, rfl⟩, regsKept_trans (ceCounted_kept hregs c) (regsKept_withWatch _ _ _)⟩⟩
    rintro ⟨hthresh, hreached, hnew⟩
    obtain hzero | hless | hsent := hquiet
    · exact hthresh hzero
    · omega
    · exact hnew hsent
  case coalesced =>
    subst hmine hw
    rfl
  case window =>
    refine ⟨_, rfl, rfl, ?_, fun hwin => ?_⟩
    · simp [sdel]
    · rw [kgetD, kget_kdel_self _ _ hwin]
      rfl
  case wire =>
    have hbroken := brokenWire_new hnew
    rw [wireTold_new] at hbroken
    exact ⟨wireErr 3 inst (wirePart s 3 inst), rfl, rfl, rfl, rfl, hnext hbroken⟩
  case first =>
    have honly : onlyRegs s (firstZeroed s c) [FLT_FIRST.reg.addr c 0 0] := by
      rw [firstZeroed_eq_wrs]
      exact wrs_only hsort rfl c
    refine ⟨_, hnext ((atPf0_open _ hopen).trans (fltFirstWrite_clear hclear)), ?_, ?_, ?_, withWatch_frame honly.1 _,
      regsKept_trans honly.2 (regsKept_withWatch _ _ _)⟩
    all_goals
      rw [rd_withWatch, firstZeroed_eq_wrs]
      exact rd_wrs hsort rfl c
  case inject =>
    have hwrite := injectWrite_go hsort hgo hlock ht
    refine ⟨fun hwire => hnext ((atPf0_open _ hopen).trans (hwrite.trans (if_pos hwire))), fun hwire hcls => ⟨injectErr t,
      hnext ((atPf0_open _ hopen).trans (hwrite.trans ((if_neg (by rw [hwire]; decide)).trans (if_neg hcls)))), rfl, rfl, rfl, rfl, rfl⟩⟩

end Sys2Proof.Machine
end

section
/-!
PROOFS for 16_starts_resets_and_sleep.md: pins, supplies and function-level resets, the steps of a start, sleep and wakes. Each part
says once what the model's functions do, and ends with the statement it settles.
-/
namespace Sys2Proof.Machine

/-! ## Supplies and pins (16 R594, R595, R601, R604) -/

section Pins
variable {s t : State} {k : Nat}

theorem powerOn_first (hphase : s.rd CHIP_START.PHASE = 0) (hstep : s.start.step = 0) (hhold : s.rd AON_HOLD.HOLD_CAUSE = 0) :
    powerOn s = startBegin s 0 := if_pos ⟨hphase, hstep, hhold⟩

theorem powerOn_again (h : s.rd CHIP_START.PHASE ≠ 0 ∨ s.start.step ≠ 0 ∨ s.rd AON_HOLD.HOLD_CAUSE ≠ 0) : powerOn s = s :=
  if_neg fun ⟨hphase, hstep, hhold⟩ => h.elim (· hphase) (·.elim (· hstep) (· hhold))

/-- Two states that differ in their registers alone. -/
def RegsOnly (s t : State) : Prop := t = { s with regs := t.regs }

theorem RegsOnly.refl (s : State) : RegsOnly s s := rfl

theorem RegsOnly.wr (h : RegsOnly s t) (f : Fld) (v i j k : Nat) : RegsOnly s (t.wr f v i j k) := by
  rw [RegsOnly] at h
  rw [h]
  rfl

/-- Channels that were in service are put in self-refresh. -/
def chanRested (t : State) (c : Nat) : State := if chanInService t c then t.wr DDR_CTL.STATE 5 c else t

theorem RegsOnly.chansRested (h : RegsOnly s t) (l : List Nat) : RegsOnly s (l.foldl chanRested t) :=
  foldl_keeps (P := RegsOnly s) (fun _ c hv => ite_keeps (P := RegsOnly s) (hv.wr DDR_CTL.STATE 5 c 0 0) hv) h

theorem chipClear_eq (hk : k ≠ 3) : chipClear s k = (List.range 32).foldl chanRested (clearedChip s k) := if_neg hk

theorem chipClear_regsOnly (hk : k ≠ 3) : RegsOnly (clearedChip s k) (chipClear s k) := by
  rw [chipClear_eq hk]
  exact RegsOnly.chansRested (.refl _) _

@[simp] theorem rd_pinLow (s : State) (k : Nat) (low : Bool) (f : Fld) : (pinLow s k low).rd f = s.rd f := rd_of_regs rfl f 0 0 0

theorem pinLow_testBit (s : State) (k : Nat) (low : Bool) : (pinLow s k low).ctl.low.testBit k = low := by
  cases low <;> simp [pinLow, setFld_testBit, b2n]

theorem coldPin_held (hlow : s.ctl.low.testBit 0 = true) : coldPin s true = pinLow s 0 true := by
  rw [coldPin, if_neg (by simp)]
  exact if_pos hlow

theorem coldPin_deep (hlow : s.ctl.low.testBit 0 = false) (hdeep : s.rd CHIP_SLEEP.STATE = 3) :
    coldPin s true = startBegin (chipClear (pinLow s 0 true) 4) 4 := by
  have hdeep' : (pinLow s 0 true).rd CHIP_SLEEP.STATE = 3 := (rd_pinLow s 0 true _).trans hdeep
  rw [coldPin, if_neg (by simp), if_neg (by rw [hlow]; decide), if_pos hdeep', deepExit, if_pos hdeep']

theorem coldPin_falls (hlow : s.ctl.low.testBit 0 = false) (hawake : s.rd CHIP_SLEEP.STATE ≠ 3) :
    coldPin s true = resetAsk (pinLow s 0 true) 1 (5 * 1024) 0 none := by
  rw [coldPin, if_neg (by simp), if_neg (by rw [hlow]; decide), if_neg (by rw [rd_pinLow]; exact hawake)]

theorem coldPin_rises (h0 : s.ctl.tap ≠ 0) (h3 : s.ctl.tap ≠ 3) (h4 : s.ctl.tap ≠ 4) : coldPin s false = pinLow s 0 false := by
  rw [coldPin, if_pos (by simp)]
  exact if_neg (by simp [pinLow, h0, h3, h4])

theorem coldPin_ends (h : s.ctl.tap = 0 ∨ s.ctl.tap = 3 ∨ s.ctl.tap = 4) :
    coldPin s false = { s with ctl := { s.ctl with low := setFld s.ctl.low 0 1 0, tap := 0xFF } } := by
  rw [coldPin, if_pos (by simp)]
  exact if_pos (by simpa [pinLow] using h)

theorem warmPin_held (h : s.ctl.low.testBit 1 = true ∨ s.rd CHIP_SLEEP.STATE = 3) : warmPin s true = pinLow s 1 true := by
  rw [← rd_pinLow s 1 true] at h
  exact if_pos (.inr h)

theorem warmPin_falls (hlow : s.ctl.low.testBit 1 = false) (hawake : s.rd CHIP_SLEEP.STATE ≠ 3) :
    warmPin s true = resetAsk (pinLow s 1 true) 2 (5 * 1024) 0 none := if_neg (by simp [hlow, hawake])

theorem warmPin_rises (s : State) : warmPin s false = pinLow s 1 false := by
  rw [warmPin, if_pos (Or.inl (by decide))]

theorem perstLow_held (h : s.ctl.low.testBit 2 = true ∨ s.rd CHIP_SLEEP.STATE = 3) : perstLow s = pinLow s 2 true := by
  rw [← rd_pinLow s 2 true] at h
  exact if_pos h

/-- The host link reset alone (16 R595). -/
def linkReset (t : State) : State :=
  { (List.range 17).foldl msixReset t with
    ctl := { ((List.range 17).foldl msixReset t).ctl with hostUp := false, bme := State.reset.ctl.bme }
    keys := { ((List.range 17).foldl msixReset t).keys with ide := [] } }

theorem perstLow_falls (hlow : s.ctl.low.testBit 2 = false) (hawake : s.rd CHIP_SLEEP.STATE ≠ 3) : perstLow s =
    if s.on CHIP_CFG.PERST_LINK_ONLY then linkReset (pinLow s 2 true) else resetAsk (pinLow s 2 true) 2 (5 * 1024) 4 none := by
  rw [perstLow, if_neg (by simp [hlow, hawake])]
  rfl

/-- The MSI-X tables of several functions reset: nothing else changes, and their entries go. -/
theorem msixResets_spec (l : List Nat) (t : State) : l.foldl msixReset t = t.withIrq (l.foldl msixReset t).irq ∧
    (l.foldl msixReset t).irq.table = l.foldl (fun l f => l.filter fun e => e.1 / 2 / 2048 != f) t.irq.table := by
  induction l generalizing t with
  | nil => exact ⟨rfl, rfl⟩
  | cons f l ih =>
    obtain ⟨hframe, htable⟩ := ih (msixReset t f)
    exact ⟨hframe, htable⟩

theorem linkReset_frame (t : State) : (linkReset t).regs = t.regs ∧ sameMem t (linkReset t) ∧ (linkReset t).rings = t.rings ∧
    (linkReset t).ports = t.ports ∧ (linkReset t).started = t.started ∧ (linkReset t).ctl.low = t.ctl.low := by
  obtain ⟨x, hx⟩ : ∃ x, (List.range 17).foldl msixReset t = t.withIrq x := ⟨_, (msixResets_spec (List.range 17) t).1⟩
  rw [linkReset, hx]
  exact ⟨rfl, ⟨rfl, rfl⟩, rfl, rfl, rfl, rfl⟩

/-- What VDD_AON loss leaves: the state after reset, but for the almanac, the rows burned and the two copies of the Tally. -/
theorem powerLoss_spec (s : State) : (powerLoss s).mem = State.reset.mem ∧ (powerLoss s).poison = [] ∧ (powerLoss s).extents = [] ∧
    (powerLoss s).started = [] ∧ (powerLoss s).keys = keptKeys s 0 ∧ (powerLoss s).ctl.hostUp = false := by
  have hclear : RegsOnly (clearedChip s 0) (chipClear s 0) := chipClear_regsOnly (by decide)
  rw [RegsOnly] at hclear
  rw [powerLoss, hclear]
  exact ⟨rfl, rfl, rfl, rfl, rfl, rfl⟩

theorem vfFlr_eq (p : Nat) (ht : t = msixReset s (p + 1)) :
    vfFlr s p = if s.partOn p then resetAsk t 5 (3 * 1024 + p) 3 none else t := by
  subst ht
  rfl

theorem msixReset_gone (ht : t = msixReset s k) :
    (∀ x ∈ t.irq.unmasked, x / 2048 ≠ k) ∧ ∀ x ∈ t.irq.msixPend, x / 2048 ≠ k := by
  subst ht
  constructor <;> intro x hx <;> simpa using (List.mem_filter.1 hx).2

theorem resetRing_idle {r : Nat} {x : RingX} (hx : x = s.ringX r) (hon : s.on RNG_CTL.ENABLE r = true) (hruns : x.stopping = 0)
    (hidle : s.started.any (·.ring == r) = false) : resetRing s r 5 = stopFinish (dropOwn (s.setRingX r { x with stopping := 5, fetching := 0 })
      fun q => q.kind == .fetch && q.ring == r) r := by
  subst hx
  have hnone : s.started.filter (·.ring == r) = [] := by simpa using hidle
  rw [resetRing, if_neg (not_not.2 hon)]
  simp only [hruns, if_true]
  change stopFinish ((s.started.filter (·.ring == r)).foldl _ _) r = _
  rw [hnone]
  rfl

end Pins

/-- Settles O54: each command is a function of the pin's level before, of the sleep state and of CHIP_CFG, whose branches the lemmas
above name. -/
theorem pinsStartAndResetTheChip : Obligations.PinsStartAndResetTheChip := by
  intro s
  have hnext {t u : State} (h : t = u) : (.next t : Host.Outcome State Fault Refusal) = .next u := congrArg _ h
  refine ⟨fun hphase hstep hhold => hnext (powerOn_first hphase hstep hhold), fun h => hnext (powerOn_again h), ?loss,
    fun hlow => hnext (coldPin_held hlow), fun hlow hdeep => hnext (coldPin_deep hlow hdeep),
    fun hlow hawake => hnext (coldPin_falls hlow hawake), fun h0 h3 h4 => hnext (coldPin_rises h0 h3 h4), fun h => hnext (coldPin_ends h),
    fun h => hnext (warmPin_held h), fun hlow hawake => hnext (warmPin_falls hlow hawake), hnext (warmPin_rises s),
    fun h => hnext (perstLow_held h), fun hlow hawake hchip => ?chip, fun hlow hawake hlink => ?link,
    ⟨pinLow s 2 false, rfl, rfl, pinLow_testBit s 2 false, rfl⟩, rfl, rfl, fun p t ht => ?vf, fun rs u hrs hu => ?pf0,
    fun r x hx hon hruns hidle => resetRing_idle hx hon hruns hidle⟩
  case loss =>
    obtain ⟨hmem, hpoison, hext, hstarted, hkeys, hhost⟩ := powerLoss_spec s
    refine ⟨powerLoss s, rfl, hmem, hpoison, hext, hstarted, ?_, ?_, ?_, ?_, rfl, rfl, rfl, rfl, rfl, hhost⟩
    all_goals
      rw [hkeys]
      rfl
  case chip =>
    exact hnext ((perstLow_falls hlow hawake).trans (if_neg (by rw [hchip]; decide)))
  case link =>
    obtain ⟨hregs, hmem, hrings, hports, hstarted, hpins⟩ := linkReset_frame (pinLow s 2 true)
    refine ⟨linkReset (pinLow s 2 true), hnext ((perstLow_falls hlow hawake).trans (if_pos hlink)), hregs, hmem, hrings, hports, hstarted,
      rfl, ?_, rfl, (msixResets_spec (List.range 17) (pinLow s 2 true)).2⟩
    rw [hpins]
    exact pinLow_testBit s 2 true
  case vf =>
    obtain ⟨hunmasked, hpend⟩ := msixReset_gone ht
    exact ⟨fun hon => hnext ((vfFlr_eq p ht).trans (if_pos hon)), fun hoff => hnext ((vfFlr_eq p ht).trans (if_neg (by rw [hoff]; decide))),
      hunmasked, hpend⟩
  case pf0 =>
    subst hu hrs
    refine ⟨rfl, fun r hr => ?_⟩
    obtain ⟨-, hmine⟩ := List.mem_filter.1 hr
    simpa using hmine

/-! ## The steps of a start (16 R576 to R582) -/

section Steps
variable {s t u : State} {ok : Bool} {bad : List Nat} {svn keysel v : Nat}

theorem preconditions_missing (h : s.start.step ≠ 2 ∨ s.ctl.low % 4 ≠ 0 ∨ holdCause (s.wr AON_HOLD.CLOCK_BAD 0) ≠ 0) :
    preconditions s = s := if_pos h

theorem preconditions_held (hstep : s.start.step = 2) (hpins : s.ctl.low % 4 = 0) (hu : u = s.wr AON_HOLD.CLOCK_BAD 0)
    (hhold : holdCause u = 0) (ht : t = tallyEntry (endRec (u.wr AON_HOLD.HOLD_CAUSE 0) 0 0) 0x01 0 1 0 0 0) : preconditions s =
      if t.start.kind = 2 then begin5 (tallyEntry t 0x02 0 6 0 0 0) else stepAt (phase t 1) 3 := by
  have hnone : ¬ (s.start.step ≠ 2 ∨ s.ctl.low % 4 ≠ 0 ∨ holdCause u ≠ 0) := by simp [hstep, hpins, hhold]
  subst hu
  rw [preconditions, if_neg hnone, ← ht]

theorem startStepDone_boot (hstep : s.start.step = 5) : startStepDone s ok bad svn keysel =
    if s.start.host ∨ s.start.loaded then s else if imageOk s ok svn keysel then imageLoaded s svn keysel else spiFail s 2 := by
  simp only [startStepDone, hstep, Nat.reduceEqDiff, if_true, if_false]

theorem startStepDone_waits (h : s.start.step = 0 ∨ s.start.step = 2 ∨ (s.start.step = 5 ∧ (s.start.host = true ∨ s.start.loaded = true))) :
    startStepDone s ok bad svn keysel = s := by
  obtain hstep | hstep | ⟨hstep, hdone⟩ := h
  · simp [startStepDone, hstep]
  · simp [startStepDone, hstep]
  · rw [startStepDone_boot hstep, if_pos hdone]

/-- The report that ends a step, judged by the step's own rule. -/
theorem startStepDone_cases : (s.start.step = 3 → startStepDone s ok bad svn keysel = selfTested s ok bad) ∧
    (s.start.step = 6 → startStepDone s ok bad svn keysel = tested s bad 1) ∧
    (s.start.step = 7 → startStepDone s ok bad svn keysel = broadcast s bad 1) ∧
    (s.start.step = 8 → startStepDone s ok bad svn keysel = trained s) ∧
    (s.start.step = 9 → startStepDone s ok bad svn keysel = katDone s bad 1) ∧
    (s.start.step = 11 → startStepDone s ok bad svn keysel = extTested s bad 1) := by
  refine ⟨?_, ?_, ?_, ?_, ?_, ?_⟩
  all_goals
    intro hstep
    simp only [startStepDone, hstep, Nat.reduceEqDiff, if_true, if_false]

theorem startStepDone_image (hstep : s.start.step = 5) (hspi : s.start.host = false) (hwaits : s.start.loaded = false) :
    startStepDone s ok bad svn keysel = if imageOk s ok svn keysel then imageLoaded s svn keysel else spiFail s 2 := by
  rw [startStepDone_boot hstep, if_neg (by simp [hspi, hwaits])]

theorem imageOk_iff (s : State) (ok : Bool) (svn keysel : Nat) : imageOk s ok svn keysel = true ↔
    ok = true ∧ s.rd SEC_FW.SVN_FUSED ≤ svn ∧ svn ≤ 64 ∧ keysel ≤ 2 ∧ (s.rd SEC_FW.REVOKED).testBit keysel = false := by
  simp [imageOk, and_assoc]

theorem imageOk_refused (h : ok = false ∨ svn < s.rd SEC_FW.SVN_FUSED ∨ 64 < svn ∨ 2 < keysel ∨
    (s.rd SEC_FW.REVOKED).testBit keysel = true) : ¬ imageOk s ok svn keysel = true := by
  rw [imageOk_iff]
  rintro ⟨hok, hfused, hmax, hkey, hvalid⟩
  simp only [hok, hvalid, Bool.true_eq_false, Bool.false_eq_true, false_or, or_false] at h
  omega

theorem trained_busy (hbusy : (unitsIn s 8).any (chanBusy s) = true) : trained s = s := if_pos hbusy

theorem trained_idle (hidle : (unitsIn s 8).any (chanBusy s) = false) : trained s =
    begin9 ((unitsIn s 4).foldl driveEntry ((unitsIn s 8).foldl portEntry ((unitsIn s 8).foldl chanEntry s))) :=
  if_neg (by rw [hidle]; decide)

/-- The broadcast that ended with failing units. -/
theorem broadcast_bad (hbad : bad ≠ []) : broadcast s bad 1 =
    if hasKind bad [4, 6, 9, 10, 11, 12, 13, 15] then toSafe (tallyEntry s 0x05 0 2 0 0 bad.length) 5 2 (badDetail bad)
    else begin8 (floorPlan (bad.foldl startUnitOut (tallyEntry s 0x05 0 2 0 0 bad.length))) := by
  have hout : (if 1 = 3 then 3 else if bad = [] then 1 else 2) = 2 := by simp [hbad]
  simp only [broadcast, hout]

theorem startTmo_selfTest (hstep : s.start.step = 3) :
    startTmo s = leaveStep (startHold (tallyEntry s 0x02 0 3 0 0 0) 4) := if_pos hstep

theorem startTmo_image (hstep : s.start.step = 5) (hwaits : s.start.loaded = false) :
    startTmo s = if s.start.host then hostFail s 3 else spiFail s 3 := by
  simp only [startTmo, hstep, hwaits, Nat.reduceEqDiff, if_false, Bool.false_eq_true, not_false_eq_true, and_self, if_true]

theorem startTmo_whole (h : s.start.step = 8 ∨ (s.start.step = 5 ∧ s.start.loaded = true)) : startTmo s = toSafe s 7 5 0 := by
  obtain hstep | ⟨hstep, hloaded⟩ := h
  · simp only [startTmo, hstep, Nat.reduceEqDiff, if_false, false_and, or_true, if_true]
  · simp only [startTmo, hstep, hloaded, Nat.reduceEqDiff, if_false, not_true, and_false, true_or, if_true]

theorem startTmo_test (hstep : s.start.step = 6) : startTmo s = tested s [] 3 := by
  simp only [startTmo, hstep, Nat.reduceEqDiff, if_false, false_and, if_true]

theorem startTmo_none (h : s.start.step = 0 ∨ s.start.step = 2) : startTmo s = s := by
  obtain hstep | hstep := h
  all_goals simp only [startTmo, hstep, Nat.reduceEqDiff, if_false, false_and, or_self, OfNat.zero_ne_ofNat]

theorem recoveryGo_waits (ht : t = plainWrite s CHIP_RECOVERY_CTL.reg 0 0 0 v)
    (h : wrote CHIP_RECOVERY_CTL.GO v = 0 ∨ s.rd CHIP_RECOVERY_CTL.RSTAT ≠ 1) : recoveryGo s v = t := by
  subst ht
  exact if_pos h

theorem recoveryGo_taken (ht : t = plainWrite s CHIP_RECOVERY_CTL.reg 0 0 0 v) (hgo : wrote CHIP_RECOVERY_CTL.GO v = 1)
    (hwaits : s.rd CHIP_RECOVERY_CTL.RSTAT = 1) : recoveryGo s v =
      if t.rd CHIP_RECOVERY_CTL.LEN < 1024 ∨ 12 * 2 ^ 20 + 1024 < t.rd CHIP_RECOVERY_CTL.LEN ∨ ¬ canPost t 0 then hostFail t 2
      else (t.wr CHIP_RECOVERY_CTL.RSTAT 2).emit (.hostRead 0 (t.rd CHIP_RECOVERY_ADDR.ADDR / 4096 * 4096) (t.rd CHIP_RECOVERY_CTL.LEN)) := by
  subst ht
  exact if_neg (by simp [hgo, hwaits])

theorem recoveryDone_other (h : s.rd CHIP_RECOVERY_CTL.RSTAT ≠ 2 ∨ s.start.step ≠ 5) : recoveryDone s ok svn keysel = s := if_pos h

theorem recoveryDone_fetched (hfetch : s.rd CHIP_RECOVERY_CTL.RSTAT = 2) (hstep : s.start.step = 5) : recoveryDone s ok svn keysel =
    if imageOk s ok svn keysel then imageLoaded s svn keysel else hostFail s 2 := if_neg (by simp [hfetch, hstep])

end Steps

/-! ## The copies of the Tally (16 R589, R593) -/

section TallyCopies
variable {s : State} {v a b : Nat} {ra rb : List (Nat × Word)}

/-- The bank that a copy goes to, and what it then holds. -/
def bankWritten (s : State) (a b : Nat) (copy : Option (Nat × List (Nat × Word))) : State :=
  if a ≤ b then { s.tickFresh with start := { s.start with bankA := copy } } else { s.tickFresh with start := { s.start with bankB := copy } }

/-- The sequence number of a bank, 0 for one that is not valid. -/
def bankSeq (x : Option (Nat × List (Nat × Word))) : Nat := (x.map (fun (y : Nat × List (Nat × Word)) => y.1)).getD 0

/-- The copy of the Tally with a sequence number. -/
def tallyOf (s : State) (seq : Nat) : Nat × List (Nat × Word) := (seq, s.regs.filter fun e => inTally e.1)

theorem tallyCopy_taken (hgood : Config.spiFails s.fresh = false) (ha : bankSeq s.start.bankA = a) (hb : bankSeq s.start.bankB = b) :
    tallyCopy s = (bankWritten s a b (some (tallyOf s (max a b + 1)))).emit (.board 0 [max a b + 1]) := by
  subst ha hb
  unfold tallyCopy
  rw [hgood]
  rfl

theorem tallyCopy_fails (hfails : Config.spiFails s.fresh = true) (ha : bankSeq s.start.bankA = a) (hb : bankSeq s.start.bankB = b) :
    tallyCopy s = evStart (bankWritten s a b none) 0x0E08 1 (b2n (decide (b < a))) 0 := by
  subst ha hb
  unfold tallyCopy
  rw [hfails]
  rfl

theorem bankWritten_spec (s : State) (a b : Nat) (x : Option (Nat × List (Nat × Word))) : (bankWritten s a b x).regs = s.regs ∧
    (bankWritten s a b x).start = if a ≤ b then { s.start with bankA := x } else { s.start with bankB := x } := by
  unfold bankWritten
  split <;> exact ⟨rfl, rfl⟩

theorem chipCfgWrite_plain (hkeep : wrote CHIP_CFG.TALLY_FORGET v = 0) :
    chipCfgWrite s v = plainWrite s CHIP_CFG.reg 0 0 0 v := if_pos hkeep

theorem chipCfgWrite_forget (hforget : wrote CHIP_CFG.TALLY_FORGET v = 1) :
    chipCfgWrite s v = tallyForget (plainWrite s CHIP_CFG.reg 0 0 0 v) := if_neg (by omega)

end TallyCopies

/-- Settles O55: each report, expiry or write is a function of the step under way, whose branches the lemmas above name. -/
theorem startsGoStepByStep : Obligations.StartsGoStepByStep := by
  intro s
  have hnext {t u : State} (h : t = u) : (.next t : Host.Outcome State Fault Refusal) = .next u := congrArg _ h
  refine ⟨fun u t hu ht => ?preconditions, fun r => ?report,
    fun bad hkind hbad => (broadcast_bad hbad).trans (if_neg (by rw [hkind]; decide)),
    fun bad hkind hbad => (broadcast_bad hbad).trans (if_pos hkind), fun hstep => hnext (startTmo_selfTest hstep),
    fun hstep hwaits hhost => hnext ((startTmo_image hstep hwaits).trans (if_pos hhost)),
    fun hstep hwaits hspi => hnext ((startTmo_image hstep hwaits).trans (if_neg (by rw [hspi]; decide))),
    fun h => hnext (startTmo_whole h), fun hstep => hnext (startTmo_test hstep), fun h => hnext (startTmo_none h), fun v t ht => ?recovery,
    fun ok svn ks => ⟨fun h => hnext (recoveryDone_other h), fun hfetch hstep => ⟨
      fun hok => hnext ((recoveryDone_fetched hfetch hstep).trans (if_pos hok)),
      fun hno => hnext ((recoveryDone_fetched hfetch hstep).trans (if_neg (by rw [hno]; decide)))⟩⟩,
    fun hwaits hstep => hnext (if_pos ⟨hwaits, hstep⟩), fun h => hnext (if_neg fun ⟨hwaits, hstep⟩ => h.elim (· hwaits) (· hstep)),
    fun hready a b ra rb copy ha hb hcopy => ?copied, fun hearly => hnext (if_neg hearly), fun v t ht => ?forget⟩
  case preconditions =>
    subst hu
    refine ⟨fun h => hnext (preconditions_missing h), fun hstep hpins hhold hkind => hnext ?_, fun hstep hpins hhold hkind => hnext ?_⟩
    · exact (preconditions_held hstep hpins rfl hhold ht).trans (if_neg hkind)
    · exact (preconditions_held hstep hpins rfl hhold ht).trans (if_pos hkind)
  case report =>
    obtain ⟨h3, h6, h7, h8, h9, h11⟩ := startStepDone_cases (s := s) (ok := r.ok) (bad := r.bad) (svn := r.svn) (keysel := r.keysel)
    refine ⟨fun h => hnext (startStepDone_waits h), fun h => hnext (h3 h), fun hstep hspi hwaits => ?_, fun h => hnext (h6 h),
      fun h => hnext (h7 h), fun h hbusy => hnext ((h8 h).trans (trained_busy hbusy)),
      fun h hidle => hnext ((h8 h).trans (trained_idle hidle)), fun h => hnext (h9 h), fun h => hnext (h11 h)⟩
    have himage := startStepDone_image (ok := r.ok) (bad := r.bad) (svn := r.svn) (keysel := r.keysel) hstep hspi hwaits
    exact ⟨fun hok hfused hmax hkey hvalid => hnext (himage.trans (if_pos ((imageOk_iff _ _ _ _).2 ⟨hok, hfused, hmax, hkey, hvalid⟩))),
      fun h => hnext (himage.trans (if_neg (imageOk_refused h)))⟩
  case recovery =>
    refine ⟨fun h => hnext (recoveryGo_waits ht h), fun hgo hwaits hlo hhi hpost => hnext ?_, fun hgo hwaits hbad => hnext ?_⟩
    · refine (recoveryGo_taken ht hgo hwaits).trans (if_neg ?_)
      rintro (h | h | h)
      · omega
      · omega
      · exact h hpost
    · refine (recoveryGo_taken ht hgo hwaits).trans (if_pos (hbad.imp_right (Or.imp_right fun h => ?_)))
      rw [h]
      decide
  case copied =>
    have htick : (if s.rd CHIP_START.PHASE = 6 then tallyCopy s else s) = tallyCopy s := if_pos hready
    have hseqA : bankSeq s.start.bankA = a := by rw [ha]; rfl
    have hseqB : bankSeq s.start.bankB = b := by rw [hb]; rfl
    subst hcopy
    refine ⟨fun hgood => ⟨_, hnext (htick.trans (tallyCopy_taken hgood hseqA hseqB)), bankWritten_spec s a b _⟩, fun hfails t hA hB => ?_⟩
    have ht : t = bankWritten s a b none := by
      unfold bankWritten
      split
      case isTrue h => exact hA h
      case isFalse h => exact hB (by omega)
    exact hnext (htick.trans ((tallyCopy_fails hfails hseqA hseqB).trans (by rw [ht])))
  case forget =>
    subst ht
    exact ⟨fun hkeep => hnext (chipCfgWrite_plain hkeep), fun hforget => hnext (chipCfgWrite_forget hforget)⟩

/-! ## Writes of CHIP_SLEEP (16 R599 to R603) -/

section SleepWrites
variable {s t : State} {v req wd sc cause cell : Nat}

theorem ungated_CHIP_SLEEP : CHIP_SLEEP.reg.Ungated := by
  rintro s ⟨_, _, _⟩ i j k lo rfl
  rfl

/-- The fields of CHIP_SLEEP written, and SLEEP_ERR cleared. -/
def sleepWritten (s : State) (v : Nat) : State := (plainWrite s CHIP_SLEEP.reg 0 0 0 v).wr CHIP_SLEEP.SLEEP_ERR 0

theorem sleepWritten_only (hsort : ksorted s.regs = true) (v : Nat) : onlyRegs s (sleepWritten s v) [CHIP_SLEEP.reg.addr 0 0 0] :=
  onlyRegs_trans (plainWrite_only s CHIP_SLEEP.reg 0 0 0 v false hsort (by decide +kernel) List.mem_cons_self)
    (onlyRegs_wr _ CHIP_SLEEP.SLEEP_ERR 0 0 0 0 (plainWrite_sorted s CHIP_SLEEP.reg 0 0 0 v false hsort) List.mem_cons_self)

theorem sleepWritten_spec (hsort : ksorted s.regs = true) (v : Nat) : (sleepWritten s v).rd CHIP_SLEEP.REQ = wrote CHIP_SLEEP.REQ v ∧
    (sleepWritten s v).rd CHIP_SLEEP.WARD_DOZE = wrote CHIP_SLEEP.WARD_DOZE v ∧
    (sleepWritten s v).rd CHIP_SLEEP.STATE = s.rd CHIP_SLEEP.STATE := by
  have hsort' := plainWrite_sorted s CHIP_SLEEP.reg 0 0 0 v false hsort
  refine ⟨?_, ?_, ?_⟩
  · rw [sleepWritten, rd_wr_beside hsort' (by decide) (by decide)]
    exact rd_plainWrite_ungated (g := CHIP_SLEEP.REQ) (clr := .pool) ungated_CHIP_SLEEP (by decide +kernel) hsort 0 0 0 v
  · rw [sleepWritten, rd_wr_beside hsort' (by decide) (by decide)]
    exact rd_plainWrite_ungated (g := CHIP_SLEEP.WARD_DOZE) (clr := .pool) ungated_CHIP_SLEEP (by decide +kernel) hsort 0 0 0 v
  · rw [sleepWritten, rd_wr_beside hsort' (by decide) (by decide)]
    exact rd_plainWrite_ro (g := CHIP_SLEEP.STATE) (clr := .pool) (by decide +kernel) hsort 0 0 0 v

/-- What a write does for the chip as a whole. -/
def chipAsked (t : State) (req st : Nat) : State :=
  if req = 3 then deepAsk t
  else if req = 2 then dozeAsk t (5 * 1024)
  else if st = 2 ∨ t.ctl.asleep.contains (5 * 1024) then if req = 0 then wakeScope t (5 * 1024) 0 else t
  else if req = st then t
  else if sleepBlocked t (5 * 1024) then sleepErr t
  else awakeAsk t req

theorem chipAsked_awake (hreq : req ≤ 1) {st : Nat} (hst : st ≠ 2) (hup : t.ctl.asleep.contains (5 * 1024) = false) :
    chipAsked t req st = if req = st then t else if sleepBlocked t (5 * 1024) then sleepErr t else awakeAsk t req := by
  rw [chipAsked, if_neg (by omega), if_neg (by omega), if_neg (by rw [hup]; simp [hst])]

theorem chipAsked_dozing (hreq : req ≤ 1) {st : Nat} (hdown : st = 2 ∨ t.ctl.asleep.contains (5 * 1024) = true) :
    chipAsked t req st = if req = 0 then wakeScope t (5 * 1024) 0 else t := by
  rw [chipAsked, if_neg (by omega), if_neg (by omega), if_pos hdown]

/-- What a write does for the four wards. -/
def wardsAsked (wd : Nat) (u : State) : State :=
  (List.range 4).foldl (fun u w =>
    if wd.testBit w then (if wardOut u w then u else dozeAsk u (4 * 1024 + w)) else wakeScope u (4 * 1024 + w) 0) u

theorem sleepWrite_deep (hdeep : s.rd CHIP_SLEEP.STATE = 3) : sleepWrite s v = s := if_pos hdeep

theorem sleepWrite_awake (hawake : s.rd CHIP_SLEEP.STATE ≠ 3) (ht : t = sleepWritten s v) (hreq : t.rd CHIP_SLEEP.REQ = req)
    (hwd : t.rd CHIP_SLEEP.WARD_DOZE = wd) (hst : t.rd CHIP_SLEEP.STATE = s.rd CHIP_SLEEP.STATE) : sleepWrite s v =
      if 2 ≤ req then chipAsked t req (s.rd CHIP_SLEEP.STATE) else wardsAsked wd (chipAsked t req (s.rd CHIP_SLEEP.STATE)) := by
  rw [← hst]
  subst hreq hwd ht
  exact if_neg hawake

theorem exec_sleepReq {w : Word} {i : Instr} (hi : i ∈ [Instr.sleepReqActive w, .sleepReqQuiet w, .sleepReqDoze w, .sleepReqDeep w]) :
    exec i s = .next (sleepWrite s w.toNat) := by
  fin_cases hi <;> rfl

end SleepWrites

/-! ## QUIET, DOZE and DEEP begin (16 R599, R600) -/

section SleepBegins
variable {s x : State} {sc : Nat}

theorem rsts_busySync (s : State) : (busySync s).ctl = s.ctl := rfl

/-- The Curfew of an entry to QUIET. -/
def quietRst : RstX := ⟨12, 5 * 1024, 0, 2, none, 0⟩

theorem quietAsk_eq (hx : x = busySync { s with ctl := { s.ctl with rsts := s.ctl.rsts ++ [quietRst], sleepAt := s.now } }) :
    quietAsk s = if scopeBusy x (5 * 1024) then x else quietEnd x quietRst := by
  subst hx
  rfl

/-- The Curfew of an entry to DOZE. -/
def dozeRst (sc : Nat) : RstX := ⟨9, sc, 0, 2, none, 0⟩

theorem dozeAsk_eq (hawake : sleepsIn s sc = false) (hfree : sleepBlocked s sc = false) (hx : x = busySync (dozeRecall { s with ctl :=
    { s.ctl with asleep := sput sc s.ctl.asleep, rsts := s.ctl.rsts ++ [dozeRst sc], sleepAt := s.now } } sc)) :
    dozeAsk s sc = if scopeBusy x sc then x else dozeEnd x (dozeRst sc) := by
  rw [dozeAsk, if_neg (by rw [hawake]; decide), if_neg (by rw [hfree]; decide), hx]
  rfl

theorem dozeAsk_asleep (h : sleepsIn s sc = true) : dozeAsk s sc = s := if_pos h

theorem dozeAsk_blocked (hawake : sleepsIn s sc = false) (hblocked : sleepBlocked s sc = true) :
    dozeAsk s sc = s.wr CHIP_SLEEP.SLEEP_ERR 1 := by
  rw [dozeAsk, if_neg (by rw [hawake]; decide), if_pos hblocked, sleepErr]

theorem deepAsk_free (hrsts : s.ctl.rsts = []) (hstep : s.start.step = 0) (hsafe : s.rd CHIP_START.PHASE ≠ 7) :
    deepAsk s = resetAsk { s with ctl := { s.ctl with sleepAt := s.now } } 8 (5 * 1024) 1 none := if_neg (by simp [hrsts, hstep, hsafe])

theorem deepAsk_blocked (h : (∃ r ∈ s.ctl.rsts, r.kind ≠ 9 ∨ r.step ≠ 3) ∨ s.start.step ≠ 0 ∨ s.rd CHIP_START.PHASE = 7) :
    deepAsk s = s.wr CHIP_SLEEP.SLEEP_ERR 1 := if_pos (h.imp_left fun ⟨r, hr, hother⟩ => List.any_eq_true.2 ⟨r, hr, by simpa using hother⟩)

end SleepBegins

/-! ## Wakes (16 R601, R603) -/

section Wakes
variable {s : State} {sc cause cell v : Nat}

theorem wakeScope_awake (h : s.ctl.asleep.contains sc = false) : wakeScope s sc cause = s := if_pos (by rw [h]; decide)

theorem wakeScope_asleep (h : s.ctl.asleep.contains sc = true) : wakeScope s sc cause =
    if s.ctl.rsts.any (fun r => r.kind == 9 && r.scope == sc && r.step == 2) then
      { s with ctl := { s.ctl with wakes := kput sc cause s.ctl.wakes } }
    else if s.ctl.rsts.any (fun r => r.kind == 9 && r.scope == sc) then s
    else { s with ctl := { s.ctl with rsts := s.ctl.rsts ++ [⟨9, sc, cause, 3, none, 0⟩], sleepAt := s.now } } :=
  if_neg (not_not.2 h)

theorem wakeScope_returning (hreturns : s.ctl.rsts.any (fun r => r.kind == 9 && r.scope == sc && r.step == 3) = true)
    (hentered : s.ctl.rsts.any (fun r => r.kind == 9 && r.scope == sc && r.step == 2) = false) : wakeScope s sc cause = s := by
  by_cases h : s.ctl.asleep.contains sc = true
  · obtain ⟨r, hr, hmine⟩ := List.any_eq_true.1 hreturns
    rw [wakeScope_asleep h, if_neg (by rw [hentered]; decide), if_pos (List.any_eq_true.2 ⟨r, hr, (Bool.and_eq_true _ _ ▸ hmine).1⟩)]
  · exact wakeScope_awake (Bool.not_eq_true _ ▸ h)

/-- The wakes that are enabled. -/
def wakes (s : State) (cause : Nat) : Prop :=
  cause = 1 ∨ (cause = 2 ∧ s.on CHIP_SLEEP.WAKE_ON_RX = true) ∨ (cause = 3 ∧ s.on CHIP_SLEEP.WAKE_ON_DB = true)

theorem dozeWake_enabled (hcause : wakes s cause) (hawake : s.rd CHIP_SLEEP.STATE ≠ 3) : dozeWake s sc cause = wakeScope s sc cause :=
  if_pos ⟨hcause, hawake⟩

theorem dozeWake_other (h : wakes s cause → s.rd CHIP_SLEEP.STATE ≠ 3 → wakeScope s sc cause = s) : dozeWake s sc cause = s := by
  rw [dozeWake]
  split
  case isTrue hwakes => exact h hwakes.1 hwakes.2
  case isFalse => rfl

theorem quietIdle_gates (hquiet : s.rd CHIP_SLEEP.STATE = 1) (hcell : cell < 272) (hruns : cellGated s cell = false) :
    quietIdle s cell = { s with ctl := { s.ctl with gated := sput cell s.ctl.gated } } := if_pos ⟨hquiet, hcell, by rw [hruns]; decide⟩

theorem quietIdle_none (h : s.rd CHIP_SLEEP.STATE ≠ 1 ∨ 272 ≤ cell ∨ cellGated s cell = true) : quietIdle s cell = s :=
  if_neg fun ⟨hquiet, hcell, hruns⟩ => h.elim (· hquiet) (·.elim (Nat.not_le.2 hcell ·) hruns)

theorem aonSleepWrite_wake (hwake : wrote AON_SLEEP.WAKE v = 1) : aonSleepWrite s v = deepExit s := if_neg (by omega)

theorem aonSleepWrite_none (h : s.rd CHIP_SLEEP.STATE ≠ 3 ∨ wrote AON_SLEEP.WAKE v = 0) : aonSleepWrite s v = s := by
  rw [aonSleepWrite]
  split
  case isTrue => rfl
  case isFalse hwake => exact if_neg (h.resolve_right hwake)

end Wakes

/-- Settles O57: a write acts for the chip and then for the wards, by what it asks and the state it meets. -/
theorem sleepsAreEnteredAndLeft : Obligations.SleepsAreEnteredAndLeft := by
  have hnext {t u : State} (h : t = u) : (.next t : Host.Outcome State Fault Refusal) = .next u := congrArg _ h
  refine ⟨fun s t v c hsort hc ht req wd w4 hreq hwd hw4 => ?write,
    fun u x hx => ⟨by rw [hx]; rfl, fun hbusy => (quietAsk_eq hx).trans (if_pos hbusy),
      fun hidle => (quietAsk_eq hx).trans (if_neg (by rw [hidle]; decide))⟩,
    fun u x sc hawake hfree hx => ⟨fun hbusy => (dozeAsk_eq hawake hfree hx).trans (if_pos hbusy),
      fun hidle => (dozeAsk_eq hawake hfree hx).trans (if_neg (by rw [hidle]; decide))⟩,
    fun u => ⟨deepAsk_free, deepAsk_blocked⟩, fun s sc => dozeAsk_blocked, fun s sc => dozeAsk_asleep,
    fun s cell => ⟨fun hquiet hcell hruns => hnext (quietIdle_gates hquiet hcell hruns), fun h => hnext (quietIdle_none h)⟩,
    fun s sc cause => ⟨fun h => hnext (dozeWake_other fun hwakes hawake => ?lost), fun hawake hwakes hasleep => ?woken⟩,
    fun s v => ⟨fun hdeep hwake => hnext ((aonSleepWrite_wake hwake).trans (if_pos hdeep)), fun h => hnext (aonSleepWrite_none h)⟩⟩
  case write =>
    obtain ⟨hreads, hwards, hstate⟩ := sleepWritten_spec hsort v.toNat
    have honly := sleepWritten_only hsort v.toNat
    change t = sleepWritten s v.toNat at ht
    change w4 = wardsAsked wd at hw4
    rw [← ht, ← hreq] at hreads
    rw [← ht, ← hwd] at hwards
    rw [← ht] at hstate honly
    have hasleep : t.ctl = s.ctl := by rw [honly.1]
    subst hw4
    rw [exec_sleepReq hc]
    refine ⟨honly, hreads, hwards, hstate, fun hdeep => hnext (sleepWrite_deep hdeep), fun hawake => ?_⟩
    have hwrite := sleepWrite_awake hawake ht hreads hwards hstate
    rw [← hasleep]
    refine ⟨fun h => hnext ?_, fun h => hnext ?_, fun h h2 hup hsame => hnext ?_, fun h h2 hup hother =>
      ⟨fun hblocked => hnext ?_, fun hfree h0 => hnext ?_, fun hfree h1 => hnext ?_⟩, fun hdown h0 => hnext ?_, fun hdown h1 => hnext ?_⟩
    · rw [hwrite, if_pos (by omega), chipAsked, if_pos h]
    · rw [hwrite, if_pos (by omega), chipAsked, if_neg (by omega), if_pos h]
    · rw [hwrite, if_neg (by omega), chipAsked_awake h h2 hup, if_pos hsame]
    · rw [hwrite, if_neg (by omega), chipAsked_awake h h2 hup, if_neg hother, if_pos hblocked, sleepErr]
    · rw [hwrite, if_neg (by omega), chipAsked_awake h h2 hup, if_neg hother, if_neg (by rw [hfree]; decide), awakeAsk,
        if_neg (by omega), h0]
    · rw [hwrite, if_neg (by omega), chipAsked_awake h h2 hup, if_neg hother, if_neg (by rw [hfree]; decide), awakeAsk, if_pos h1]
    · rw [hwrite, if_neg (by omega), chipAsked_dozing (by omega) hdown, if_pos h0]
    · rw [hwrite, if_neg (by omega), chipAsked_dozing (by omega) hdown, if_neg (by omega)]
  case lost =>
    obtain hdeep | h0 | hhi | ⟨h2, hoff⟩ | ⟨h3, hoff⟩ | hup | ⟨hreturns, hentered⟩ := h
    · exact absurd hdeep hawake
    · rcases hwakes with h | ⟨h, -⟩ | ⟨h, -⟩ <;> omega
    · rcases hwakes with h | ⟨h, -⟩ | ⟨h, -⟩ <;> omega
    · rcases hwakes with h | ⟨-, hon⟩ | ⟨h, -⟩
      · omega
      · exact absurd (hoff.symm.trans hon) (by decide)
      · omega
    · rcases hwakes with h | ⟨h, -⟩ | ⟨-, hon⟩
      · omega
      · omega
      · exact absurd (hoff.symm.trans hon) (by decide)
    · exact wakeScope_awake hup
    · exact wakeScope_returning hreturns hentered
  case woken =>
    have hwake := (dozeWake_enabled (sc := sc) hwakes hawake).trans (wakeScope_asleep hasleep)
    refine ⟨fun hentered => hnext (hwake.trans (if_pos hentered)), fun hnone => hnext (hwake.trans ((if_neg ?_).trans (if_neg ?_)))⟩
    · intro hentered
      obtain ⟨r, hr, hmine⟩ := List.any_eq_true.1 hentered
      have hany : s.ctl.rsts.any (fun r => r.kind == 9 && r.scope == sc) = true :=
        List.any_eq_true.2 ⟨r, hr, (Bool.and_eq_true _ _ ▸ hmine).1⟩
      exact absurd (hnone.symm.trans hany) (by decide)
    · rw [hnone]
      decide

end Sys2Proof.Machine
end

section
/-!
PROOFS for 17_elders_and_commits.md and 19_registers_and_partitions.md: writes to an output stage commit or wait in the log, and what
a committed write of CHIP_LOCK leaves.
-/
namespace Sys2Proof.Machine

/-! ## The log of an output stage (17 R608 to R610) -/

section Staging
variable {s : State} {off v : Nat} {vf : Bool}

theorem commitFree_iff (s : State) : commitFree s = true ↔ commitOk s = true ∧ s.eld.log = [] ∧ s.eld.more = [] := by
  simp [commitFree, and_assoc]

theorem stagedWrite_commits (hfree : commitFree s = true) (hgo : writeWaits s off v = false) :
    stagedWrite s vf off v = committed (applyWrite s vf off v) := if_pos (by rw [hfree, hgo]; rfl)

theorem stagedWrite_waits (h : commitFree s = false ∨ writeWaits s off v = true) :
    stagedWrite s vf off v = logPut s (.write vf off v) := if_neg (by obtain h | h := h <;> simp [h])

/-- PF0's share of the log store has 12,288 entries. -/
theorem logPut_pf0 (s : State) (off v : Nat) : logPut s (.write false off v) =
    if (s.eld.log.filter (·.share == 16)).length < 12288 then { s with eld := { s.eld with log := s.eld.log ++ [.write false off v] } }
    else { s with eld := { s.eld with more := s.eld.more ++ [.write false off v] } } := by
  have hshare : (LogEnt.write false off v).share = 16 := rfl
  simp only [logPut, logRoom, hshare, Nat.lt_irrefl, if_false, decide_eq_true_eq]

theorem committed_plain (hback : s.eld.takeback = false) (hwindow : s.rd ELD_LOG.WINDOW_LEFT = 0) (hsort : ksorted s.regs = true) :
    committed s = s.wr ELD_LOG.COMMIT_SEQ (s.rd ELD_LOG.COMMIT_SEQ + 1) := by
  have hleft : (s.wr ELD_LOG.COMMIT_SEQ (s.rd ELD_LOG.COMMIT_SEQ + 1)).rd ELD_LOG.WINDOW_LEFT = 0 := by
    rw [rd_wr_beside hsort (by decide) (by decide)]
    exact hwindow
  simp only [committed, State.wr_eld, hback, Bool.false_eq_true, false_and, if_false, hleft, if_true]

theorem exec_staged {i : Instr} {w : Word} (h : (i = .chipLockSet w ∧ off = CHIP_LOCK.reg.base) ∨
    (pf0Open s = true ∧ ((∃ p : Part, (i = .prtCtlEnable p w ∨ i = .prtCtlDisable p w ∨ i = .prtCtlLock p w) ∧
      off = PRT_CTL.reg.addr p 0 0) ∨ (∃ d : Dom, (i = .cohDomainEn d w ∨ i = .cohDomainDisable d w) ∧
      off = XLT_COH_CTL.reg.addr d 0 0)))) : exec i s = .next (stagedWrite s false off w.toNat) := by
  obtain ⟨rfl, rfl⟩ | ⟨hopen, ⟨p, hi, rfl⟩ | ⟨d, hi, rfl⟩⟩ := h
  · rfl
  · have hpf0 := congrArg (Host.Outcome.next (φ := Fault) (ρ := Refusal))
      (atPf0_open (stagedWrite s false (PRT_CTL.reg.addr p 0 0) w.toNat) hopen)
    obtain rfl | rfl | rfl := hi <;> exact hpf0
  · have hpf0 := congrArg (Host.Outcome.next (φ := Fault) (ρ := Refusal))
      (atPf0_open (stagedWrite s false (XLT_COH_CTL.reg.addr d 0 0) w.toNat) hopen)
    obtain rfl | rfl := hi <;> exact hpf0

/-- A write of PF0's registers while they do not answer. -/
theorem atPf0_shut (t : State) (hshut : pf0Open s = false) : atPf0 s t = s := by
  unfold pf0Open at hshut
  unfold atPf0
  rw [hshut]
  rfl

end Staging

/-! ## CHIP_LOCK (19 R657) -/

section ChipLock
variable {s t u : State} {v : Nat}

theorem findReg_chipLock : findReg CHIP_LOCK.reg.base = some ⟨⟨CHIP_LOCK.reg, .chip, [⟨0, 1, .w1s, .cold⟩]⟩, 0, 0, 0⟩ := by
  decide +kernel

theorem regAct_chipLock (s : State) (row : RegRow) (hrow : row.reg = CHIP_LOCK.reg) (v : Nat) :
    regAct s ⟨row, 0, 0, 0⟩ false v = lockWrite s v := by
  simp +decide only [regAct, RegAt.is, hrow, if_true, if_false]

theorem applyWrite_chipLock (s : State) (v : Nat) : applyWrite s false CHIP_LOCK.reg.base v = lockWrite s v := by
  simp only [applyWrite, findReg_chipLock]
  exact regAct_chipLock s _ rfl v

theorem writeWaits_chipLock (s : State) (v : Nat) : writeWaits s CHIP_LOCK.reg.base v = false := by
  simp only [writeWaits, findReg_chipLock]
  rfl

theorem rd_plainWrite_w1s {g : Fld} {clr : Clr} (hg : g.Listed .w1s clr) (hsort : ksorted s.regs = true) (i j k v : Nat) :
    (plainWrite s g.reg i j k v).rd g i j k = s.rd g i j k ||| wrote g v := by
  obtain ⟨hany, hreg, hmem⟩ := hg
  rw [rd_plainWrite s g _ i j k v hsort (rowOf_mem hany) hreg hmem rfl rfl, fieldAfter, hreg]
  rfl

/-- The keys replaced. -/
def State.withKeys (s : State) (x : Keys) : State := { s with keys := x }

/-- The measurements once the lock is set. -/
def lockMeasured (u : State) : Keys := { u.keys with meas := u.keys.meas.set 6 (measureRegs u 7) }

theorem withKeys_self (s : State) : s.withKeys s.keys = s := rfl

theorem lockWrite_eq (hu : u = plainWrite s CHIP_LOCK.reg 0 0 0 v) :
    lockWrite s v = u.withKeys (if s.on CHIP_LOCK.LOCK ∨ ¬ u.on CHIP_LOCK.LOCK then u.keys else lockMeasured u) := by
  subst hu
  by_cases h : s.on CHIP_LOCK.LOCK ∨ ¬ (plainWrite s CHIP_LOCK.reg 0 0 0 v).on CHIP_LOCK.LOCK
  · rw [if_pos h, withKeys_self, lockWrite, if_pos h]
  · rw [if_neg h, lockWrite, if_neg h]
    rfl

@[simp] theorem rd_withKeys (s : State) (x : Keys) (f : Fld) (i j k : Nat) : (s.withKeys x).rd f i j k = s.rd f i j k := rd_of_regs rfl f i j k

theorem regsKept_withKeys (s : State) (x : Keys) (l : List Nat) : regsKept s (s.withKeys x) l := regsKept_of_regs l rfl

theorem regs_sorted_withKeys (hsort : ksorted s.regs = true) (x : Keys) : ksorted (s.withKeys x).regs = true := hsort

/-- The keys that a committed write of CHIP_LOCK leaves. -/
def lockKeys (s u : State) : Keys := if s.on CHIP_LOCK.LOCK ∨ ¬ u.on CHIP_LOCK.LOCK then u.keys else lockMeasured u

theorem lockKeys_same (h : s.rd CHIP_LOCK.LOCK = 1 ∨ u.rd CHIP_LOCK.LOCK = 0) : lockKeys s u = u.keys :=
  if_pos (h.imp on_of_rd_one fun hoff => by rw [on_of_rd_zero hoff]; decide)

theorem lockKeys_set (hopen : s.rd CHIP_LOCK.LOCK = 0) (hset : u.rd CHIP_LOCK.LOCK = 1) : lockKeys s u = lockMeasured u :=
  if_neg (by rw [on_of_rd_zero hopen, on_of_rd_one hset]; decide)

/-- The commit of a write of CHIP_LOCK. -/
def lockCommitted (s u : State) : State := (u.withKeys (lockKeys s u)).wr ELD_LOG.COMMIT_SEQ (s.rd ELD_LOG.COMMIT_SEQ + 1)

theorem chipLock_plainWrite_only (hsort : ksorted s.regs = true) (v : Nat) :
    onlyRegs s (plainWrite s CHIP_LOCK.reg 0 0 0 v) [CHIP_LOCK.reg.addr 0 0 0] :=
  plainWrite_only s CHIP_LOCK.reg 0 0 0 v false hsort (by decide +kernel) List.mem_cons_self

theorem committed_lockWrite (hsort : ksorted s.regs = true) (hback : s.eld.takeback = false) (hwindow : s.rd ELD_LOG.WINDOW_LEFT = 0)
    (hu : u = plainWrite s CHIP_LOCK.reg 0 0 0 v) : committed (lockWrite s v) = lockCommitted s u := by
  have honly : onlyRegs s u [CHIP_LOCK.reg.addr 0 0 0] := hu ▸ chipLock_plainWrite_only hsort v
  have hsort' : ksorted u.regs = true := hu ▸ plainWrite_sorted s CHIP_LOCK.reg 0 0 0 v false hsort
  have heldsame : (u.withKeys (lockKeys s u)).eld = s.eld := by rw [honly.1]; rfl
  have hseq : u.rd ELD_LOG.COMMIT_SEQ = s.rd ELD_LOG.COMMIT_SEQ := rd_of_regsKept honly.2 _ (by decide)
  have hleft : u.rd ELD_LOG.WINDOW_LEFT = s.rd ELD_LOG.WINDOW_LEFT := rd_of_regsKept honly.2 _ (by decide)
  rw [lockWrite_eq hu, ← lockKeys, committed_plain (by rw [heldsame]; exact hback) (by rw [rd_withKeys, hleft]; exact hwindow)
    (regs_sorted_withKeys hsort' _), rd_withKeys, hseq, lockCommitted]

theorem lockCommitted_spec (hsort : ksorted s.regs = true) (hu : u = plainWrite s CHIP_LOCK.reg 0 0 0 v) :
    lockCommitted s u = { s with regs := (lockCommitted s u).regs, keys := (lockCommitted s u).keys } ∧
    regsKept s (lockCommitted s u) [CHIP_LOCK.reg.addr 0 0 0, ELD_LOG.reg.addr 0 0 0] ∧
    (lockCommitted s u).rd CHIP_LOCK.LOCK = s.rd CHIP_LOCK.LOCK ||| wrote CHIP_LOCK.LOCK v ∧
    (lockCommitted s u).rd ELD_LOG.COMMIT_SEQ = (s.rd ELD_LOG.COMMIT_SEQ + 1) % 2 ^ ELD_LOG.COMMIT_SEQ.w := by
  have honly : onlyRegs s u [CHIP_LOCK.reg.addr 0 0 0] := hu ▸ chipLock_plainWrite_only hsort v
  have hsort' : ksorted u.regs = true := hu ▸ plainWrite_sorted s CHIP_LOCK.reg 0 0 0 v false hsort
  have hsort'' := regs_sorted_withKeys hsort' (lockKeys s u)
  have hlock : u.rd CHIP_LOCK.LOCK = s.rd CHIP_LOCK.LOCK ||| wrote CHIP_LOCK.LOCK v :=
    hu ▸ rd_plainWrite_w1s (g := CHIP_LOCK.LOCK) (clr := .cold) (by decide +kernel) hsort 0 0 0 v
  refine ⟨?_, regsKept_trans (regsKept_mono honly.2 (by simp)) (regsKept_trans (regsKept_withKeys _ _ _)
    (regsKept_wr _ ELD_LOG.COMMIT_SEQ _ 0 0 0 hsort'' (by decide))), ?_, rd_wr_self _ _ _ 0 0 0 hsort'' (by decide) (by decide)⟩
  · obtain ⟨hframe, -⟩ := honly
    rw [lockCommitted, hframe]
    rfl
  · rw [lockCommitted, rd_wr_ne _ _ _ _ _ _ _ _ _ _ hsort'' (by decide), rd_withKeys, hlock]

end ChipLock

/-- Settles O58: a staged write either commits at once or is put in the log, and CHIP_LOCK's one field is set by writing it. -/
theorem stagedWritesCommitOrWait : Obligations.StagedWritesCommitOrWait := by
  have hnext {t u : State} (h : t = u) : (.next t : Host.Outcome State Fault Refusal) = .next u := congrArg _ h
  refine ⟨fun s c off v hc => ⟨fun hok hlog hmore hgo => ?commits, fun hwaits => ?waits⟩, fun s p d v hshut => ?shut,
    fun s hback hwindow hsort => committed_plain hback hwindow hsort, fun s v hsort hok hlog hmore hback hwindow u hu => ?lock⟩
  case commits =>
    rw [exec_staged hc, stagedWrite_commits ((commitFree_iff s).2 ⟨hok, hlog, hmore⟩) hgo]
  case waits =>
    have hwait : commitFree s = false ∨ writeWaits s off v.toNat = true := by
      by_cases hfree : commitFree s = true
      · obtain ⟨hok, hlog, hmore⟩ := (commitFree_iff s).1 hfree
        simp [hok, hlog, hmore] at hwaits
        exact .inr hwaits
      · exact .inl (Bool.not_eq_true _ ▸ hfree)
    rw [exec_staged hc, stagedWrite_waits hwait, logPut_pf0]
    exact ⟨fun hroom => hnext (if_pos hroom), fun hfull => hnext (if_neg (Nat.not_lt.2 hfull))⟩
  case shut =>
    exact ⟨hnext (atPf0_shut _ hshut), hnext (atPf0_shut _ hshut), hnext (atPf0_shut _ hshut), hnext (atPf0_shut _ hshut),
      hnext (atPf0_shut _ hshut)⟩
  case lock =>
    obtain ⟨hframe, hkept, hlock, hseq⟩ := lockCommitted_spec hsort hu
    have hkeys : u.keys = s.keys := by rw [hu, (chipLock_plainWrite_only hsort v.toNat).1]
    have hset : u.rd CHIP_LOCK.LOCK = s.rd CHIP_LOCK.LOCK ||| wrote CHIP_LOCK.LOCK v.toNat :=
      hu ▸ rd_plainWrite_w1s (g := CHIP_LOCK.LOCK) (clr := .cold) (by decide +kernel) hsort 0 0 0 v.toNat
    refine ⟨lockCommitted s u, hnext ?_, hframe, hkept, hlock, hseq, fun h => ?_, fun hopen hone => ?_⟩
    · rw [stagedWrite_commits ((commitFree_iff s).2 ⟨hok, hlog, hmore⟩) (writeWaits_chipLock s _), applyWrite_chipLock,
        committed_lockWrite hsort hback hwindow hu]
    · refine (lockKeys_same (h.elim .inl fun hzero => ?_)).trans hkeys
      have hbit : s.rd CHIP_LOCK.LOCK < 2 := Nat.mod_lt _ (Nat.two_pow_pos _)
      rw [hset, hzero, Nat.or_zero]
      omega
    · refine (lockKeys_set hopen (by rw [hset, hopen, hone]; rfl)).trans ?_
      rw [lockMeasured, hkeys]

end Sys2Proof.Machine
end

section
/-!
PROOFS for 18_power_and_sensors.md: readings of supplies, currents and temperatures, the AVSBus links and the governor. Each part says
once what the model's functions do, and ends with the statement it settles.
-/
namespace Sys2Proof.Machine

/-! ## Supplies (18 R628, R629, R633) -/

section Supplies
variable {s t : State} {r : Nat} {v m : Int} {x y : Sens}

/-- The power unit's own state replaced. -/
def State.withPwr (s : State) (x : Pwr) : State := { s with pwr := x }

@[simp] theorem rd_withPwr (s : State) (x : Pwr) (f : Fld) (i j k : Nat) : (s.withPwr x).rd f i j k = s.rd f i j k := rd_of_regs rfl f i j k

theorem regs_sorted_withPwr (hsort : ksorted s.regs = true) (x : Pwr) : ksorted (s.withPwr x).regs = true := hsort

/-- A supply's sensor noted. -/
def voltNoted (s : State) (r : Nat) (y : Sens) : State := s.withPwr { s.pwr with volt := kput r y s.pwr.volt }

theorem sensNext_bad (hruns : x.dropped = false) (hfew : x.bad < 9) (v : Int) (d : Nat) :
    sensNext x v false d = { x with bad := x.bad + 1 } := by
  have hstays : decide (10 ≤ x.bad + 1) = false := by simp; omega
  simp only [sensNext, hruns, Bool.false_eq_true, if_false, hstays]

theorem sensNext_good (hruns : x.dropped = false) (v : Int) (d : Nat) :
    sensNext x v true d = { x with last := (v :: x.last).take d, bad := 0 } := by
  simp only [sensNext, hruns, Bool.false_eq_true, if_false, if_true]

theorem voltRead_dropped (hx : x = kgetD freshSens r s.pwr.volt) (hdropped : x.dropped = true) : voltRead s r v = s := by
  subst hx
  exact if_pos hdropped

theorem voltRead_discards (hx : x = kgetD freshSens r s.pwr.volt) (hr : r ≤ 10) (hruns : x.dropped = false)
    (himplausible : v < 0 ∨ 3 * ((supplyLimits r).1 : Int) < 2 * v) (hfew : x.bad < 9) :
    voltRead s r v = (voltNoted s r { x with bad := x.bad + 1 }).count AON_SUPPLY.DISCARDED r := by
  have hok : (decide (0 ≤ v) && decide (2 * v ≤ 3 * ((supplyLimits r).1 : Int))) = false := by
    rw [Bool.and_eq_false_iff, decide_eq_false_iff_not, decide_eq_false_iff_not]
    omega
  simp only [voltRead, ← hx, hruns, hok, sensNext_bad hruns hfew, Nat.not_lt.2 hr, Bool.false_eq_true, if_false]
  rfl

/-- What follows from a filtered voltage that was shown: `good` says whether it lies in its supply's range, `n` how many in a row did not. -/
def supplyJudged (t : State) (r : Nat) (good : Bool) (n : Nat) : State :=
  if ¬ supplyChecked t r then t
  else if good then if t.pwr.outs.contains r then supplyBack t r else t
  else if 3 ≤ n ∧ ¬ t.pwr.outs.contains r then supplyOut t r else t

theorem supplyJudged_good (hback : t.pwr.outs.contains r = false) (n : Nat) : supplyJudged t r true n = t := by
  rw [supplyJudged, if_pos rfl, if_neg (c := t.pwr.outs.contains r = true) (by rw [hback]; decide), ite_self]

theorem supplyJudged_few {n : Nat} (hfew : n < 3) : supplyJudged t r false n = t := by
  rw [supplyJudged, if_neg Bool.false_ne_true, if_neg (c := 3 ≤ n ∧ _) fun h => Nat.not_le.2 hfew h.1, ite_self]

theorem supplyJudged_many {n : Nat} (hmany : 3 ≤ n) (hnew : t.pwr.outs.contains r = false) (hchecked : supplyChecked t r = true) :
    supplyJudged t r false n = supplyOut t r := by
  rw [supplyJudged, if_neg (not_not.2 hchecked), if_neg Bool.false_ne_true, if_pos ⟨hmany, by rw [hnew]; decide⟩]

/-- A plausible reading: shown once filtered, and judged by its supply's range. -/
theorem voltRead_plausible {good : Bool} {n : Nat} (hx : x = kgetD freshSens r s.pwr.volt) (hr : r ≤ 10) (hruns : x.dropped = false)
    (hlo : 0 ≤ v) (hhi : 2 * v ≤ 3 * ((supplyLimits r).1 : Int)) (hm : m = medianInt ((v :: x.last).take 5))
    (hgood : inRange s r m = good) (hn : n = if good then 0 else x.out_ + 1) : voltRead s r v = supplyJudged
      ((voltNoted s r { x with last := (v :: x.last).take 5, bad := 0, out_ := n }).wr AON_SUPPLY.V m.toNat r) r good n := by
  have hok : (decide (0 ≤ v) && decide (2 * v ≤ 3 * ((supplyLimits r).1 : Int))) = true := by simp [hlo, hhi]
  subst hn hgood hm
  simp only [voltRead, ← hx, hruns, hok, sensNext_good hruns, Nat.not_lt.2 hr, Bool.false_eq_true, if_false, if_true]
  rfl

end Supplies

/-! ## Temperatures (18 R635, R636) -/

section Temperatures
variable {s t u : State} {k : Nat} {v m : Int} {x : Sens} {l : List Int}

/-- A temperature sensor noted. -/
def tempNoted (s : State) (k : Nat) (y : Sens) : State := s.withPwr { s.pwr with temp := kput k y s.pwr.temp }

theorem tempRead_dropped (hx : x = kgetD freshSens k s.pwr.temp) (hdropped : x.dropped = true) : tempRead s k v = s := by
  subst hx
  exact if_pos hdropped

theorem tempRead_good (hx : x = kgetD freshSens k s.pwr.temp) (hruns : x.dropped = false) (hlo : -40 ≤ v) (hhi : v ≤ 150) :
    tempRead s k v = tempNoted s k { x with last := (v :: x.last).take 3, bad := 0 } := by
  have hok : (decide (-40 ≤ v) && decide (v ≤ 150)) = true := by simp [hlo, hhi]
  simp only [tempRead, ← hx, hruns, hok, sensNext_good hruns, Bool.false_eq_true, if_false]
  rfl

theorem tempRead_bad (hx : x = kgetD freshSens k s.pwr.temp) (hruns : x.dropped = false) (himplausible : v < -40 ∨ 150 < v)
    (hfew : x.bad < 9) : tempRead s k v = tempNoted s k { x with bad := x.bad + 1 } := by
  have hok : (decide (-40 ≤ v) && decide (v ≤ 150)) = false := by
    rw [Bool.and_eq_false_iff, decide_eq_false_iff_not, decide_eq_false_iff_not]
    omega
  simp only [tempRead, ← hx, hruns, hok, sensNext_bad hruns hfew, Bool.false_eq_true, if_false]
  rfl

theorem tempSample_none (ht : t = ((List.range 72).zip l).foldl (fun t x => tempRead t x.1 x.2) s)
    (hnone : maxInt ((List.range 72).filterMap (tempOf t)) = none) : tempSample s l = t := by
  subst ht
  simp only [tempSample, hnone]

theorem tempSample_some (ht : t = ((List.range 72).zip l).foldl (fun t x => tempRead t x.1 x.2) s)
    (hsome : maxInt ((List.range 72).filterMap (tempOf t)) = some m) (hu : u = t.wr AON_THERM.TJ_MAX (m % 256).toNat) :
    tempSample s l = if 115 ≤ m ∧ ¬ u.on AON_THERM.TRIPPED then thermTrip u else u := by
  subst ht hu
  simp only [tempSample, hsome]

end Temperatures

/-! ## AVSBus (18 R630 to R632) -/

section Avs
variable {s : State} {b n : Nat} {amps : List Nat}

theorem avsFailed_iff (s : State) (b : Nat) : avsFailed s b = true ↔ s.rd AON_AVS.STATE b = 2 := by simp [avsFailed]

theorem avsPoll_failed (hfailed : s.rd AON_AVS.STATE b = 2) (ok : Bool) : avsPoll s b ok amps = s :=
  if_pos ((avsFailed_iff s b).2 hfailed)

theorem avsPoll_good (hworks : s.rd AON_AVS.STATE b ≠ 2) : avsPoll s b true amps = (s.wr AON_AVS.STATE 0 b).withPwr { s.pwr with
    tries := kdel b s.pwr.tries, avs := ((busRails b).zip amps).foldl (fun l x => kput x.1 x.2 l) s.pwr.avs } := by
  rw [avsPoll, if_neg (mt (avsFailed_iff s b).1 hworks), if_pos rfl]
  rfl

theorem avsPoll_bad (hworks : s.rd AON_AVS.STATE b ≠ 2) : avsPoll s b false amps = avsFail s b := by
  rw [avsPoll, if_neg (mt (avsFailed_iff s b).1 hworks), if_neg Bool.false_ne_true]

theorem avsFail_first (hn : kgetD 0 b s.pwr.tries = 0) : avsFail s b =
    ((s.wr AON_AVS.STATE 1 b).count AON_AVS.ERRS b).withPwr { s.pwr with tries := kput b 1 s.pwr.tries } := by
  simp only [avsFail, hn, Nat.zero_lt_succ, if_true]
  rfl

theorem avsFail_again (hn : kgetD 0 b s.pwr.tries = n) (hpos : 0 < n) (hfew : n < 3) : avsFail s b =
    (s.wr AON_AVS.STATE 1 b).withPwr { s.pwr with tries := kput b (n + 1) s.pwr.tries } := by
  simp only [avsFail, hn, hfew, if_true, Nat.ne_of_gt hpos, if_false]
  rfl

theorem avsRetry_good (hfailed : s.rd AON_AVS.STATE b = 2) : avsRetry s b true = avsGood s b :=
  if_pos ⟨(avsFailed_iff s b).2 hfailed, rfl⟩

theorem avsRetry_bad (s : State) (b : Nat) : avsRetry s b false = s := if_neg fun h => Bool.false_ne_true h.2

theorem avsRetry_works (hworks : s.rd AON_AVS.STATE b ≠ 2) (ok : Bool) : avsRetry s b ok = s :=
  if_neg fun h => hworks ((avsFailed_iff s b).1 h.1)

end Avs

/-- Settles O59: each reading or transaction is a function of its sensor's or bus's state, whose branches the lemmas above name. -/
theorem suppliesAndSensorsAreRead : Obligations.SuppliesAndSensorsAreRead := by
  have hnext {t u : State} (h : t = u) : (.next t : Host.Outcome State Fault Refusal) = .next u := congrArg _ h
  refine ⟨fun s => rfl, fun s volts amps => rfl, fun s r v x hx hr => ⟨voltRead_dropped hx,
      fun hruns himplausible hfew => voltRead_discards hx hr hruns himplausible hfew, fun hruns hlo hhi m y hm hy => ?volt⟩,
    fun s k v x hx => ⟨tempRead_dropped hx, tempRead_good hx, tempRead_bad hx⟩,
    fun s t l ht => ⟨fun hnone => hnext (tempSample_none ht hnone), fun m u hsome hu => ?temp⟩,
    fun s => ⟨thermTrip s, rfl, rfl, rfl, rfl, rfl, rfl, rfl⟩, fun s b amps => ?avs⟩
  case volt =>
    subst hy
    refine ⟨fun hin hback => ?_, fun hout hfew => ?_, fun t hout hmany hnew ht hchecked => ?_⟩
    · exact (voltRead_plausible (n := 0) hx hr hruns hlo hhi hm hin rfl).trans (supplyJudged_good (by exact hback) _)
    · exact (voltRead_plausible hx hr hruns hlo hhi hm hout rfl).trans (supplyJudged_few (Nat.succ_lt_succ hfew))
    · subst ht
      exact (voltRead_plausible hx hr hruns hlo hhi hm hout rfl).trans (supplyJudged_many (Nat.succ_le_succ hmany) hnew hchecked)
  case temp =>
    have hsample := tempSample_some ht hsome hu
    refine ⟨fun h => hnext (hsample.trans (if_neg ?_)), fun hhot hruns => hnext (hsample.trans (if_pos ⟨hhot, by rw [hruns]; decide⟩))⟩
    rintro ⟨hhot, htrip⟩
    exact h.elim (fun hcool => by omega) htrip
  case avs =>
    refine ⟨fun hfailed ok => hnext (avsPoll_failed hfailed ok), fun hworks => hnext (avsPoll_good hworks), fun n hworks hn => ?_,
      fun hfailed => hnext (avsRetry_good hfailed), fun _ => hnext (avsRetry_bad s b), fun hworks ok => hnext (avsRetry_works hworks ok)⟩
    exact ⟨fun hpos hfew => hnext ((avsPoll_bad hworks).trans (avsFail_again hn.symm hpos hfew)),
      fun hzero => hnext ((avsPoll_bad hworks).trans (avsFail_first (hn.symm.trans hzero))), fun _ => hnext (avsPoll_bad hworks)⟩

/-! ## The governor's period (18 R637, R638) -/

section Governor
variable {s t u x : State} {p w n : Nat} {gs hot l : List Nat} {th : Option Nat}

theorem wardTemp_hot (s : State) (l : List Nat) (w : Nat) : wardTemp (s.withPwr { s.pwr with hot := l }) w = wardTemp s w := by
  simp only [wardTemp, throttleAt, rd_withPwr]
  rfl

/-- GOVERNOR_TICK as its stages: clocks cut to CLK_MAX, hot wards noted, lowered, and raised where the lowering leaves P in the cap. -/
theorem governTick_eq (hp : p = chipPower s) (hgs : gs = (List.range 4).filter (governed s))
    (ht : t = gs.foldl (fun t w => if clkMax t w < clkNow t w then clkLower t w (clkMax t w) 2 else t) (governStart s p))
    (hhot : hot = (List.range 4).filter (fun w => decide ((throttleAt t : Int) ≤ wardTemp t w) ||
      (t.pwr.hot.contains w && decide ((throttleAt t : Int) - 3 ≤ wardTemp t w))))
    (hu : u = t.withPwr { t.pwr with hot := hot })
    (hth : th = firstMin (fun w => -(wardTemp u w)) (gs.filter fun w => decide ((throttleAt t : Int) ≤ wardTemp u w)))
    (hx : x = governLower u gs p th) : governTick s =
      limitedSync (if p ≤ capW x then governRaise x gs p else x.withPwr { x.pwr with below := 0 }) := by
  subst hx hth hu hhot ht hgs hp
  rfl

/-- No ward at THROTTLE_AT, no thermal lowering. -/
theorem firstMin_hottest_none (hgs : gs = (List.range 4).filter (governed s))
    (hhot : hot = (List.range 4).filter (fun w => decide ((throttleAt t : Int) ≤ wardTemp t w) ||
      (t.pwr.hot.contains w && decide ((throttleAt t : Int) - 3 ≤ wardTemp t w))))
    (hu : u = t.withPwr { t.pwr with hot := hot }) (hnone : hot = []) :
    firstMin (fun w => -(wardTemp u w)) (gs.filter fun w => decide ((throttleAt t : Int) ≤ wardTemp u w)) = none := by
  have hcool : gs.filter (fun w => decide ((throttleAt t : Int) ≤ wardTemp u w)) = [] := by
    refine List.filter_eq_nil_iff.2 fun w hw hwarm => ?_
    rw [hu, wardTemp_hot] at hwarm
    have hmem : w ∈ hot := by
      rw [hhot]
      exact List.mem_filter.2 ⟨List.mem_of_mem_filter (hgs ▸ hw), by rw [hwarm, Bool.true_or]⟩
    rw [hnone] at hmem
    exact List.not_mem_nil hmem
  rw [hcool]
  rfl

theorem governLower_within (hp : p ≤ capW s) : governLower s gs p none = s := if_pos hp

theorem governLower_thermal (hp : p ≤ capW s) (w : Nat) : governLower s gs p (some w) = clkLower s w (clkNow s w - 4) 1 := by
  have hslow : decide (11 * capW s < 10 * p) = false := decide_eq_false (by omega)
  rw [governLower, if_pos hp]
  simp only [hslow, Bool.false_eq_true, if_false]

theorem governLower_over_cap (hover : capW s < p) (hfloor : gs.all (fun w => decide (clkNow s w ≤ 32)) = true) :
    governLower s gs p none = if s.pwr.issue = 3 then s.count AON_GOV_STAT.OVER_CAP else issueSet s (s.pwr.issue + 1) := by
  rw [governLower, if_neg (Nat.not_le.2 hover), if_pos hfloor]

theorem governLower_fast (hover : capW s < p) (hclocks : gs.all (fun w => decide (clkNow s w ≤ 32)) = false)
    (hfast : 11 * capW s < 10 * p) : governLower s gs p none = gs.foldl (fun t w => clkLower t w (clkNow t w - 20) 0) s := by
  rw [governLower, if_neg (Nat.not_le.2 hover), if_neg (by rw [hclocks]; decide), if_pos (decide_eq_true hfast)]

/-- A fold that keeps the lesser value ends at an entry below all the others. -/
theorem foldl_min_of_least {f : Nat → Int} (hleast : ∀ x ∈ l, f w < f x ∨ x = w) (a : Nat) (ha : a = w ∨ w ∈ l)
    (hstart : f w < f a ∨ a = w) : l.foldl (fun b x => if f x < f b then x else b) a = w := by
  induction l generalizing a with
  | nil => exact ha.resolve_right List.not_mem_nil
  | cons x l ih =>
    have hx := hleast x List.mem_cons_self
    have hrest : ∀ y ∈ l, f w < f y ∨ y = w := fun y hy => hleast y (List.mem_cons_of_mem x hy)
    rw [List.foldl_cons]
    refine ih hrest _ ?_ (by split <;> assumption)
    rcases ha with rfl | hw
    · exact .inl (if_neg (hx.elim (fun h => not_lt_of_gt h) fun h => h ▸ lt_irrefl _))
    · rcases List.mem_cons.1 hw with rfl | hl
      · exact .inl (hstart.elim (fun h => if_pos h) fun h => by rw [h, ite_self])
      · exact .inr hl

theorem firstMin_of_least {f : Nat → Int} (hw : w ∈ l) (hleast : ∀ x ∈ l, f w < f x ∨ x = w) : firstMin f l = some w := by
  cases l with
  | nil => exact absurd hw List.not_mem_nil
  | cons a l =>
    exact congrArg some (foldl_min_of_least (fun y hy => hleast y (List.mem_cons_of_mem a hy)) a
      ((List.mem_cons.1 hw).imp Eq.symm id) (hleast a List.mem_cons_self))

theorem governLower_slow (hover : capW s < p) (hclocks : gs.all (fun w => decide (clkNow s w ≤ 32)) = false)
    (hslow : 10 * p ≤ 11 * capW s) (hw : w ∈ gs) (hrunning : 32 < clkNow s w)
    (hmost : ∀ x ∈ gs, 32 < clkNow s x → s.rd AON_WARD_CLK.P_CORE x < s.rd AON_WARD_CLK.P_CORE w ∨ x = w) :
    governLower s gs p none = clkLower s w (clkNow s w - 4) 0 := by
  have hfirst : firstMin (fun w => -(s.rd AON_WARD_CLK.P_CORE w : Int)) (gs.filter fun w => decide (32 < clkNow s w)) = some w := by
    refine firstMin_of_least (List.mem_filter.2 ⟨hw, decide_eq_true hrunning⟩) fun x hx => ?_
    obtain ⟨hxs, hxrun⟩ := List.mem_filter.1 hx
    exact (hmost x hxs (of_decide_eq_true hxrun)).imp_left fun h => by omega
  rw [governLower, if_neg (Nat.not_le.2 hover), if_neg (by rw [hclocks]; decide),
    if_neg (by rw [decide_eq_false (Nat.not_lt.2 hslow)]; decide), hfirst]
  rfl

theorem governRaise_near (hp : capW s - hystW s ≤ p) : governRaise s gs p = s.withPwr { s.pwr with below := 0 } := if_pos hp

theorem governRaise_issue (hp : p < capW s - hystW s) (hissue : 0 < s.pwr.issue) :
    governRaise s gs p = issueSet s (s.pwr.issue - 1) := by
  rw [governRaise, if_neg (Nat.not_le.2 hp), if_pos hissue]

theorem governRaise_waits (hp : p < capW s - hystW s) (hissue : s.pwr.issue = 0) (hfew : s.pwr.below < 9) :
    governRaise s gs p = s.withPwr { s.pwr with below := s.pwr.below + 1 } := by
  rw [governRaise, if_neg (Nat.not_le.2 hp), if_neg (by rw [hissue]; decide), if_pos (Nat.succ_lt_succ hfew)]
  rfl

/-- Whether a ward's clock may rise. -/
def canRaise (s : State) (w : Nat) : Bool :=
  decide (clkNow s w < clkMax s w) && !s.pwr.hot.contains w && !avsFailed s w && (kget w s.pwr.want).isNone

theorem canRaise_below (s : State) (n w : Nat) : canRaise (s.withPwr { s.pwr with below := n }) w = canRaise s w := by
  simp only [canRaise, clkNow, clkMax, avsFailed, rd_withPwr]
  rfl

theorem governRaise_tenth (hp : p < capW s - hystW s) (hissue : s.pwr.issue = 0) (hmany : 9 ≤ s.pwr.below)
    (hcan : canRaise s w = true) : governRaise s [w] p = clkRaise (s.withPwr { s.pwr with below := 0 }) w (clkNow s w + 1) := by
  have hone : [w].filter (canRaise (s.withPwr { s.pwr with below := s.pwr.below + 1 })) = [w] :=
    List.filter_cons_of_pos (by rw [canRaise_below, hcan])
  rw [governRaise, if_neg (Nat.not_le.2 hp), if_neg (by rw [hissue]; decide), if_neg (by omega)]
  change (match firstMin _ ([w].filter (canRaise (s.withPwr { s.pwr with below := s.pwr.below + 1 }))) with
    | some w => _
    | none => _) = _
  rw [hone]
  exact congrArg (fun c => clkRaise (s.withPwr { s.pwr with below := 0 }) w (c + 1)) (rd_withPwr s _ AON_WARD_CLK.CLK_NOW w 0 0)

end Governor

/-! ## A clock and its voltage (18 R631, R632) -/

section Clocks
variable {s t : State} {w c : Nat}

theorem clkNow_of_regs (h : t.regs = s.regs) (w : Nat) : clkNow t w = clkNow s w := rd_of_regs h _ _ _ _

/-- A voltage is commanded beside the clock, which it leaves. -/
theorem clkNow_voltCommand (hsort : ksorted s.regs = true) (w mv : Nat) : clkNow (voltCommand s w mv) w = clkNow s w := by
  rw [voltCommand]
  split
  · rfl
  · exact (clkNow_of_regs rfl w).trans (rd_wr_beside (f := AON_WARD_CLK.V_NOW) hsort (by decide) (by decide) mv w)

/-- A ward's clock switched: nothing waits for its voltage, and its window's event is noted. -/
def clockSwitched (s : State) (w c cause : Nat) : State :=
  noteClock ((s.wr AON_WARD_CLK.CLK_NOW c w).withPwr { s.pwr with want := kdel w s.pwr.want }) w cause

theorem regs_clockSwitched (s : State) (w c cause : Nat) : (clockSwitched s w c cause).regs = (s.wr AON_WARD_CLK.CLK_NOW c w).regs := rfl

theorem clkLower_stays (h : clkNow s w ≤ max 32 c) (cause : Nat) : clkLower s w c cause = s := if_pos h

theorem clkLower_falls (h : max 32 c < clkNow s w) (cause : Nat) :
    clkLower s w c cause = voltCommand (clockSwitched s w (max 32 c) cause) w (Config.vfCurve w (max 32 c)) := if_neg (Nat.not_le.2 h)

theorem clkNow_clkLower (hsort : ksorted s.regs = true) (hc : c < 2 ^ 7) (h : max 32 c < clkNow s w) (cause : Nat) :
    clkNow (clkLower s w c cause) w = max 32 c := by
  have hsort' := wr_sorted s AON_WARD_CLK.CLK_NOW (max 32 c) w 0 0 hsort
  rw [clkLower_falls h, clkNow_voltCommand (by rw [regs_clockSwitched]; exact hsort'), clkNow_of_regs (regs_clockSwitched s w _ cause)]
  exact rd_wr_of_lt hsort (by decide) (Nat.max_lt.2 ⟨by decide, hc⟩) w

theorem clkNow_clkLower_floor (hsort : ksorted s.regs = true) (hc : c < 2 ^ 7) (hfloor : 32 ≤ clkNow s w) (cause : Nat) :
    32 ≤ clkNow (clkLower s w c cause) w := by
  rcases Nat.lt_or_ge (max 32 c) (clkNow s w) with h | h
  · rw [clkNow_clkLower hsort hc h]
    exact Nat.le_max_left 32 c
  · rwa [clkLower_stays h]

/-- A clock that is to fall is at the floor already, or falls to the value asked for. -/
theorem clkNow_clkLower_of_lt (hsort : ksorted s.regs = true) (hc : c < 2 ^ 7) (hfloor : 32 ≤ clkNow s w) (hlt : c < clkNow s w)
    (cause : Nat) : clkNow (clkLower s w c cause) w = max 32 c := by
  rcases Nat.lt_or_ge (max 32 c) (clkNow s w) with h | h
  · exact clkNow_clkLower hsort hc h cause
  · rw [clkLower_stays h]
    omega

theorem clkNow_clkRaise (hsort : ksorted s.regs = true) (w c : Nat) : clkNow (clkRaise s w c) w = clkNow s w :=
  (clkNow_of_regs rfl w).trans (clkNow_voltCommand hsort w _)

theorem voltSettled_idle (hwant : kget w s.pwr.want = none) : voltSettled s w = s := by
  rw [voltSettled, hwant]

theorem voltSettled_waiting (hwant : kget w s.pwr.want = some c)
    (ht : t = ((s.wr AON_WARD_CLK.CLK_NOW c w).withPwr { s.pwr with want := kdel w s.pwr.want }).wr AON_AVS.STATE 0 w) :
    voltSettled s w = limitedSync (noteClock (t.withPwr { t.pwr with tries := kdel w t.pwr.tries }) w 0) := by
  rw [voltSettled, hwant, ht]
  rfl

theorem voltLate_failed (hfailed : s.rd AON_AVS.STATE w = 2) : voltLate s w = s := if_pos ((avsFailed_iff s w).2 hfailed)

/-- A failed transaction that is retried leaves the clock that waits. -/
theorem want_avsFail (hfew : kgetD 0 w s.pwr.tries < 3) : (avsFail s w).pwr.want = s.pwr.want := by
  rcases Nat.eq_zero_or_pos (kgetD 0 w s.pwr.tries) with hn | hn
  · rw [avsFail_first hn]
    rfl
  · rw [avsFail_again rfl hn hfew]
    rfl

theorem voltLate_retried (hworks : s.rd AON_AVS.STATE w ≠ 2) (hfew : kgetD 0 w s.pwr.tries < 3) (hwant : kget w s.pwr.want = some c)
    (hstays : avsFailed (avsFail s w) w = false) : voltLate s w =
      ((avsFail s w).wr AON_WARD_CLK.V_NOW (Config.vfCurve w c) w).emit (.board 2 [w, Config.vfCurve w c]) := by
  rw [voltLate, if_neg (mt (avsFailed_iff s w).1 hworks)]
  simp only [want_avsFail hfew, hwant]
  rw [voltCommand, if_neg (by rw [hstays]; decide)]

theorem govWindow_empty (hwin : s.pwr.win = []) : govWindow s = s := by
  have hsame : { s.pwr with win := [] } = s.pwr := by rw [← hwin]
  rw [govWindow, hwin]
  exact congrArg s.withPwr hsame

theorem govWindow_one {low cause : Nat} (hwin : s.pwr.win = [(w, low, cause)])
    (ht : t = evPf0 s 0x1001 w (low + clkNow s w * 2 ^ 8 + cause * 2 ^ 16 + s.pwr.issue * 2 ^ 18) (s.rd AON_GOV_STAT.P_CHIP)) :
    govWindow s = t.withPwr { t.pwr with win := [] } := by
  rw [govWindow, hwin, ht]
  rfl

end Clocks

/-- Settles O60: each stage of a governor's period is one lemma; a clock that falls keeps 0.8 GHz because CLK_NOW and V_NOW share no bit. -/
theorem governorFollowsPower : Obligations.GovernorFollowsPower := by
  have hnext {t u : State} (h : t = u) : (.next t : Host.Outcome State Fault Refusal) = .next u := congrArg _ h
  refine ⟨fun s t u x p gs hot th hp hgs ht hhot hu hth hx => ?tick, fun s gs p w hp => governLower_thermal hp w,
    fun s gs p hover => ?lower, fun s gs p => ⟨governRaise_near, governRaise_issue, governRaise_waits, ?tenth⟩,
    fun s w c cause hsort _ hfloor hc => ⟨clkNow_clkLower_floor hsort hc hfloor cause,
      fun hlt => clkNow_clkLower_of_lt hsort hc hfloor hlt cause, clkNow_clkRaise hsort w c⟩,
    fun s w => ⟨fun hwant => hnext (voltSettled_idle hwant), fun c t hwant ht => hnext (voltSettled_waiting hwant ht),
      fun hfailed => hnext (voltLate_failed hfailed),
      fun hworks hfew c hwant hstays => hnext (voltLate_retried hworks hfew hwant hstays)⟩,
    fun s => ⟨fun hwin => hnext (govWindow_empty hwin), fun w low cause hwin => hnext (govWindow_one hwin rfl), fun t ht => ?window⟩⟩
  case tick =>
    have htick := governTick_eq hp hgs ht hhot hu hth hx
    refine ⟨fun hover => hnext (htick.trans (congrArg limitedSync (if_neg (Nat.not_le.2 hover)))),
      fun hp => hnext (htick.trans (congrArg limitedSync (if_pos hp))),
      fun hnone => hth.trans (firstMin_hottest_none hgs hhot hu hnone), fun hnone hp => ?_⟩
    rw [hx, hnone, governLower_within hp]
  case lower =>
    exact ⟨fun hfloor hissue => (governLower_over_cap hover hfloor).trans (if_pos hissue),
      fun hfloor hissue => (governLower_over_cap hover hfloor).trans (if_neg hissue), governLower_fast hover,
      fun w hclocks hslow hw hrunning hmost => governLower_slow hover hclocks hslow hw hrunning hmost⟩
  case tenth =>
    intro w hp hissue hmany hgs hlow hcool hworks hwant
    rw [hgs]
    refine governRaise_tenth hp hissue hmany ?_
    simp only [canRaise, hlow, hcool, hworks, hwant, decide_true, Bool.not_false, Option.isNone_none, Bool.and_self]
  case window =>
    rw [ht]
    rfl

end Sys2Proof.Machine
end
